-- ==== Sys2Proof/Word.lean ====
section
/-! DEFINITION. The bit-vector widths the manual uses (R4, R24, R84, R250). -/

namespace Sys2Proof

/-- An 8-bit byte (R3). -/
abbrev Byte := BitVec 8
/-- A 64-bit word: a general register, a control-space register, a queue word's data (R24, R84). -/
abbrev Word := BitVec 64
/-- A 128-bit value: a floating register, a segment descriptor, a fault message (R84, R507). -/
abbrev Quad := BitVec 128
/-- A 128 B cache line as one number, byte 0 lowest (R4, R250). -/
abbrev Line := BitVec 1024

end Sys2Proof
end

