-- ==== Sys2Proof/Syntax.lean ====
section
/-! DEFINITION. The commands of the block, one constructor of `Instr` per row of spec/opcode_table.json, with
the operand types they carry.  A command is an instruction a logical core retires, a write or read of a register
that has a row of its own, or an event that the manual decides. -/

namespace Sys2Proof

/-! ### Identifiers (R10, Table 0.4) -/

/-- Logical core LCn. -/
abbrev Lc := Fin 192
/-- Physical core 48t + 4nn + c of CTt.Gnn, c = 0 for A to 3 for D. -/
abbrev Core := Fin 192
/-- Slot 48t + 4nn + k: slot k of CTt.Gnn, a holder of lines (R274). -/
abbrev Slot := Fin 192
/-- Group island 12t + nn. -/
abbrev Island := Fin 48
/-- Tile window index k of Table 1.5: 0 KT, 1 to 4 CT0 to CT3, 5 to 8 IT0 to IT3. -/
abbrev Tile := Fin 9
/-- Compute tile CTt. -/
abbrev Ct := Fin 4
/-- I/O tile ITt. -/
abbrev It := Fin 4
/-- Basin slice 6t + s. -/
abbrev Slice := Fin 24
/-- Module DDR5 channel 5t + c. -/
abbrev Chan := Fin 20
/-- Global queue number (R11). -/
abbrev Qn := Fin 32768
/-- Subchannel number (R11). -/
abbrev Sc := Fin 262144
/-- Port index 128t + nnn (R400). -/
abbrev Port := Fin 512
/-- Path engine 32t + ee. -/
abbrev Pe := Fin 128
/-- Queue DMA channel 16t + c (Table 17.2). -/
abbrev Qdma := Fin 64
/-- Parcel Pp. -/
abbrev Parcel := Fin 16
/-- Number of a G, F or S register. -/
abbrev Reg := Fin 32
/-- Line number L = PA[51:7] (R272). -/
abbrev LineNo := BitVec 45

/-- Accelerator DMA context: compression or cryptography engine of CTt, context c (R424). -/
structure AccCtx where
  cph : Bool
  tile : Ct
  ctx : Fin 8
  deriving DecidableEq, Repr

/-- One engine: the compression engine (`cph = false`) or the cryptography engine of CTt (R13). -/
structure Acc where
  cph : Bool
  tile : Ct
  deriving DecidableEq, Repr

/-- A master of memory or control-space accesses (R58, R285, R505). -/
inductive Master where
  /-- The keeper, not checked by the firewall (R58). -/
  | keeper
  /-- A logical core, in the world and at the level of its PSW. -/
  | core (lc : Lc)
  /-- A path engine, acting for the owner of its subchannels. -/
  | pathEngine (e : Pe)
  /-- A queue DMA channel. -/
  | qdma (c : Qdma)
  /-- An accelerator context. -/
  | acc (c : AccCtx)
  /-- The instruction slot of a logical core at the compression or cryptography engine (R424). -/
  | slot (cph : Bool) (lc : Lc)
  /-- A PCI Express or CXL port's inbound requests (R405). -/
  | port (p : Port)
  /-- A tile fault collector writing a parcel's fault queue (R520). -/
  | collector (k : Tile)
  /-- The completion writer of ITt (R374). -/
  | writer (t : It)
  deriving DecidableEq, Repr

/-! ### Operands of the instructions of a logical core -/

/-- Second operand of ADD and of the logical operations: register, or IMM15 (Table 4.3). -/
inductive RegImm where
  | reg (b : Reg)
  | imm (i : BitVec 15)
  deriving DecidableEq, Repr

inductive LogicOp where | and | or | xor | not deriving DecidableEq, Repr
inductive CompareOp where | eq | lt | ltu deriving DecidableEq, Repr
inductive MinMaxOp where | min | max | minu | maxu deriving DecidableEq, Repr
inductive ShiftOp where | shl | shr | sar deriving DecidableEq, Repr
inductive RotateOp where | rol | ror deriving DecidableEq, Repr
inductive MulOp where | mul | mulh | mulhu deriving DecidableEq, Repr
inductive DivOp where | div | divu | rem | remu deriving DecidableEq, Repr

/-- The loads of Table 4.4; the last two are the indexed forms of major 0x21. -/
inductive LoadOp where | ldb | ldh | ldw | ldd | ldbu | ldhu | ldwu | ldqf | lddf
  deriving DecidableEq, Repr
/-- The stores of Table 4.4. -/
inductive StoreOp where | stb | sth | stw | std | stqf | stdf deriving DecidableEq, Repr

/-- Address of a load or store: base GA plus DISP15, or GA plus GB shifted left by C[1:0] (Table 4.4). -/
inductive MemForm where
  | disp (t a : Reg) (d : BitVec 15)
  /-- LDXD, STXD (8 B) and LDXW, STXW (4 B). -/
  | index (t a b : Reg) (sh : Fin 4) (word : Bool)
  deriving DecidableEq, Repr

inductive BranchOp where | beqz | bnez | bltz | bgez deriving DecidableEq, Repr
/-- TLBI forms with a broadcast twin (R110). -/
inductive TlbiOp where | va | asid | all | guest deriving DecidableEq, Repr

/-- The six arithmetic formats, by major 0x30 to 0x35 (R145). -/
inductive ArithFmt where | b16 | b32 | b64 | b128 | d64 | d128 deriving DecidableEq, Repr
inductive SignOp where | fabs | fneg | fcpysgn deriving DecidableEq, Repr
inductive FusedOp where | fma | fms | fnma | fnms deriving DecidableEq, Repr
inductive FmoveOp where | fmvgf | fmvfg | fmvgfh | fmvfgh | fmov deriving DecidableEq, Repr

/-- What the replicas, the residue checks and the cache codes reported when an instruction came to retire
(R210, R216 to R228, R248, R254).  `ok` is a retirement without any error. -/
inductive RetireEvent where
  | ok
  /-- One replica of a triple, on core letter `c` of the island, differs (R216). -/
  | oddReplica (c : Fin 4)
  /-- All three replicas differ; the re-execution has a majority without core `c`, or with all three, or none (R217). -/
  | allDiffer (again : Option (Option (Fin 4)))
  /-- The two replicas of a pair differ (R224). -/
  | pairDiffer
  /-- A residue or parity check of a simplex core fails; again on re-execution when `again` (R227, R228). -/
  | simplexCheck (again : Bool)
  /-- Side-buffer parity error in the entry of a line (R248). -/
  | sbParity (line : LineNo)
  /-- L1D parity error on a line; `c` the physical core letter that has it (R254). -/
  | l1Parity (c : Fin 4) (line : LineNo)
  /-- L1I parity error on a line. -/
  | l1iParity (c : Fin 4) (line : LineNo)
  /-- L2 single-bit error. -/
  | l2Corrected (c : Fin 4) (line : LineNo)
  /-- L2 uncorrectable error on a line. -/
  | l2Uncorrectable (c : Fin 4) (line : LineNo)
  deriving DecidableEq, Repr

/-- Error met in a microword fetch of a micro-routine (R170). -/
inductive MicroEvent where
  | ok
  /-- Single-bit error, corrected, at a micro-address, on core letter `c`. -/
  | ecc (c : Fin 4) (addr : BitVec 16)
  /-- Uncorrectable error. -/
  | ue (c : Fin 4) (addr : BitVec 16)
  deriving DecidableEq, Repr

/-- Error in a delay register of the gate (R233). -/
inductive GateEvent where
  | ok
  | corrected
  /-- Uncorrectable, in the register feeding core letter `c`. -/
  | uncorrectable (c : Fin 4)
  deriving DecidableEq, Repr

/-- Error met in a basin line read at the home slice (R254). -/
inductive BasinEvent where
  | ok
  | corrected
  | uncorrectable
  /-- The read goes on to a CXL device, which answers with poison (R304). -/
  | cxlPoison
  deriving DecidableEq, Repr

/-- Error found by a DRAM read (Table 11.5, R325 to R327). -/
inductive DramEvent where
  | ok
  /-- Corrected, rebuilt from parity, or the parity itself was rewritten. -/
  | corrected (burstUe : Bool)
  /-- Uncorrectable after ECC and parity rebuild, with its syndrome. -/
  | uncorrectable (syndrome : BitVec 32)
  deriving DecidableEq, Repr

/-- Error met by a queue word read from the head-tail store or the spill region (R354). -/
inductive QwordEvent where | ok | corrected | uncorrectable deriving DecidableEq, Repr

/-! ### Operands of the platform events -/

/-- The strap lands, sampled at the power-on reset (R558). -/
structure Straps where
  ponwake : Bool
  stripe : BitVec 4
  mgtmode0 : BitVec 2
  mgtmode1 : BitVec 2
  jtag2p : Bool
  deriving DecidableEq, Repr

/-- What the SPDs of one channel declare, read on entry to LOAD (R307, R308, R330). -/
structure Dimm where
  /-- 1 RDIMM, 2 MRDIMM, 0 a DIMM of no row of Table 11.1. -/
  kind : Fin 3
  /-- DIMMs on the channel. -/
  dpc : Fin 3
  /-- log2 of the ranks on the channel (MC_CHSTAT.RANKBITS). -/
  rankBits : Fin 3
  /-- 1 16 Gb, 2 24 Gb, 3 32 Gb. -/
  density : Fin 4
  /-- Highest declared rate code of MC_CHSTAT.RATE, lowest over the channel's DIMMs. -/
  rate : Fin 6
  /-- DRAM data capacity of the channel in 64 KiB units. -/
  cap64k : Nat
  /-- The SPD declares refresh management required (R321). -/
  rfmRequired : Bool
  /-- RAAIMT of the SPD: activations between refresh managements (R321). -/
  raaimt : Nat
  /-- RAAMMT of the SPD: activations at which a bank must be managed before the next (R321). -/
  raammt : Nat
  deriving DecidableEq, Repr

inductive CaptureSource where | ppsIn | ptpMgt0 | ptpMgt1 deriving DecidableEq, Repr

/-- IEEE 1588 event message types (R533). -/
inductive PtpMsg where | sync | delayReq | pdelayReq | pdelayResp deriving DecidableEq, Repr

/-- Units whose clock or power can be cut (Table 16.4). -/
inductive CutUnit where
  | core (island : Island) (slot : Fin 4)
  | engine (a : Acc)
  /-- Quad 32t + qq. -/
  | quad (q : Fin 128)
  deriving DecidableEq, Repr

/-- The atomic read-modify-write operations (Table 5.5). -/
inductive AtomicOp where | tas | fadd | swap | cas | amin | amax deriving DecidableEq, Repr

/-- Requesters at a home slice (R285). -/
inductive Requester where
  /-- A slot of a group island. -/
  | slot (s : Slot)
  /-- A master without caches, or a maintenance engine or routing unit, by its source ID. -/
  | agent (src : BitVec 16)
  deriving DecidableEq, Repr

/-- Answers of a holder to a snoop (Table 10.3, R283, R286). -/
inductive SnoopAnswer where | data | hit | miss | wbPending | held deriving DecidableEq, Repr

/-- Snoop kinds (Table 10.3). -/
inductive Snoop where | share | inv | clean | peek | probe | recover deriving DecidableEq, Repr

/-- A frame received on a Lyvan port (R414). -/
structure Frame where
  type : Byte
  flags : Byte
  lseq : BitVec 16
  ackSeq : BitVec 16
  rxWin : BitVec 16
  subch : BitVec 32
  devAddr : BitVec 16
  claim : BitVec 32
  /-- The reserved 4 B at offset 0x14. -/
  rsvd : BitVec 32
  tag : Word
  param : Word
  payload : List Byte
  deriving DecidableEq, Repr

/-- How a received frame arrived (R417). -/
inductive FrameCheck where | good | badCrc | badCodeword deriving DecidableEq, Repr

/-- A mirror record (Table 13.5), CHECK apart. -/
structure MirrorRec where
  subch : Sc
  /-- 1 START, 2 CYCLE, 3 END, 4 HANDOVER, 5 PARK. -/
  kind : BitVec 4
  claim : BitVec 32
  nextTag : Word
  nextOrder : Word
  moved : Word
  lastResidual : BitVec 32
  lastDevstat : Byte
  endCode : Byte
  lastOrder : Word
  time : Word
  deriving DecidableEq, Repr

/-- Kinds of a management record's transport (R534, R542). -/
inductive Transport where | udp (mac : Fin 2) | mctp deriving DecidableEq, Repr

/-- A management request as its authenticated body gives it (R538): session, transport, REQ_ID, record SEQ,
whether the record's tag verifies. -/
structure ReqHdr where
  session : BitVec 32
  reqId : Word
  deriving DecidableEq, Repr

/-- JTAG instruction kinds of R545, and the debug instructions' register names (R546). -/
inductive DebugReg where
  | g (n : Reg) | f (n : Reg) | s (n : Reg) | pc | csd | cr (n : BitVec 10)
  deriving DecidableEq, Repr

/-! ### The commands -/

/-- The commands of the block: one constructor per row of spec/opcode_table.json, in the table's order. -/
inductive Instr where
  | registerWrite (m : Master) (addr : Word) (size : Nat) (value : Word)
  -- supplies, power sequencing, modes (chapter 3)
  | supplyLoss
  | powerOnReset (straps : Straps)
  | wakeEvent
  | xwakeFall
  | powerUpStep
  | railTimeout
  | fuseSenseDone (ok : Bool)
  | keeperBistDone (ok : Bool) (dimms : List (Chan × Dimm))
  | flashCopyValidated (bistFail : List Core)
  | composeComplete (cxlUnits : List (Port × Nat))
  | powerDownStep (pgoodFell : Bool)
  | pgoodLoss (group : Fin 4)
  | ksQuiesce (m : Master)
  | quiesceComplete
  | ksResume (m : Master)
  | ksIsolate (m : Master) (tile : BitVec 4)
  | ksRestore (m : Master) (tile : BitVec 4)
  | restoreBistDone (ok : Bool)
  | ksSleep (m : Master)
  | ksRestart (m : Master)
  | ksZeroize (m : Master) (confirm : BitVec 32)
  | zeroizeComplete
  | tbNowRead (m : Master)
  | tbStep (m : Master) (delta : Word)
  | tbSwitchTo1ghz
  | tbSwitchTo32k
  | tbCaptureEvent (src : CaptureSource)
  | ppsOutRise
  | ppsOutFall
  | comparatorFire (n : Fin 16)
  | ecSample (e : Fin 6) (sample : BitVec 12)
  | keeperPairMismatch
  -- image loader (chapter 2)
  | imgApply (m : Master)
  | recompositionCommit
  | imgDiscard (m : Master)
  | commitVersion (m : Master)
  | sealFuses (m : Master)
  | unfreeze (m : Master) (target : BitVec 16)
  -- integer instructions (chapters 4 and 5)
  | add (lc : Lc) (d a : Reg) (b : RegImm)
  | sub (lc : Lc) (d a b : Reg)
  | neg (lc : Lc) (d a : Reg)
  | logicalOperation (lc : Lc) (op : LogicOp) (d a : Reg) (b : RegImm)
  | compare (lc : Lc) (op : CompareOp) (d a b : Reg)
  | minMax (lc : Lc) (op : MinMaxOp) (d a b : Reg)
  | sextwZextw (lc : Lc) (signed : Bool) (d a : Reg)
  | shift (lc : Lc) (op : ShiftOp) (d a : Reg) (b : RegImm)
  | rotate (lc : Lc) (op : RotateOp) (d a b : Reg)
  | lui (lc : Lc) (d : Reg) (imm : BitVec 20)
  | mul (lc : Lc) (op : MulOp) (d a b : Reg)
  | div (lc : Lc) (op : DivOp) (d a b : Reg)
  | divstep (lc : Lc) (d a b : Reg)
  -- memory instructions
  | load (lc : Lc) (op : LoadOp) (form : MemForm) (ev : RetireEvent)
  | store (lc : Lc) (op : StoreOp) (form : MemForm)
  | tas (lc : Lc) (d a : Reg)
  | atomicFadd (lc : Lc) (d a b : Reg)
  | swap (lc : Lc) (d a b : Reg)
  | cas (lc : Lc) (d a b c : Reg)
  | amin (lc : Lc) (d a b : Reg)
  | amax (lc : Lc) (d a b : Reg)
  | ldres (lc : Lc) (d a : Reg)
  | stcnd (lc : Lc) (d a b : Reg)
  | reservationHoldExpiry (lc : Lc)
  | lseg (lc : Lc) (sn a : Reg)
  | wrseg (lc : Lc) (sn a b : Reg)
  | rdseg (lc : Lc) (d sn : Reg) (half : Bool)
  | tlbiVa (lc : Lc) (a : Reg)
  | tlbiAsid (lc : Lc) (a : Reg)
  | tlbiAll (lc : Lc)
  | tlbiGuest (lc : Lc) (a : Reg)
  | tlbiBroadcast (lc : Lc) (op : TlbiOp) (a : Reg)
  | sync (lc : Lc)
  | isync (lc : Lc)
  | fbar (lc : Lc)
  | rdtime (lc : Lc) (d : Reg)
  -- control flow and system instructions
  | conditionalBranch (lc : Lc) (op : BranchOp) (a : Reg) (disp : BitVec 20)
  | jmp (lc : Lc) (disp : BitVec 25)
  | call (lc : Lc) (disp : BitVec 25)
  | jr (lc : Lc) (a : Reg)
  | jalr (lc : Lc) (d a : Reg)
  | svc (lc : Lc)
  | hvc (lc : Lc)
  | retx (lc : Lc)
  | mfc (lc : Lc) (d : Reg) (n : BitVec 10)
  | mtc (lc : Lc) (a : Reg) (n : BitVec 10)
  | brk (lc : Lc)
  | wait (lc : Lc)
  | pairedWord (lc : Lc) (w : BitVec 31)
  -- floating point (chapter 6)
  | fadd (lc : Lc) (fmt : ArithFmt) (d a b : Reg) (rm : BitVec 3)
  | fsub (lc : Lc) (fmt : ArithFmt) (d a b : Reg) (rm : BitVec 3)
  | fmul (lc : Lc) (fmt : ArithFmt) (d a b : Reg) (rm : BitVec 3)
  | fdiv (lc : Lc) (fmt : ArithFmt) (d a b : Reg) (rm : BitVec 3) (ev : MicroEvent)
  | fsqrt (lc : Lc) (fmt : ArithFmt) (d a : Reg) (rm : BitVec 3)
  | fminFmax (lc : Lc) (fmt : ArithFmt) (max : Bool) (d a b : Reg)
  | fabsFnegFcpysgn (lc : Lc) (fmt : ArithFmt) (op : SignOp) (d a b : Reg)
  | frint (lc : Lc) (fmt : ArithFmt) (d a : Reg) (rm : BitVec 3)
  | fcmp (lc : Lc) (fmt : ArithFmt) (signalling : Bool) (d a b : Reg)
  | fclass (lc : Lc) (fmt : ArithFmt) (d a : Reg)
  | fquant (lc : Lc) (fmt : ArithFmt) (d a b : Reg) (rm : BitVec 3)
  | fusedMultiplyAdd (lc : Lc) (fmt : ArithFmt) (op : FusedOp) (d a b c : Reg)
  | fcvtFf (lc : Lc) (src dst : BitVec 3) (d a : Reg) (rm : BitVec 3)
  | fcvtFi (lc : Lc) (src : BitVec 3) (d a : Reg) (rm : BitVec 3)
  | fcvtFu (lc : Lc) (src : BitVec 3) (d a : Reg) (rm : BitVec 3)
  | fcvtIf (lc : Lc) (unsigned : Bool) (dst : BitVec 3) (d a : Reg) (rm : BitVec 3)
  | fpMove (lc : Lc) (op : FmoveOp) (d a : Reg)
  | fpTrapDelivery (lc : Lc)
  -- microcode (chapter 7)
  | mvl (lc : Lc) (d a b : Reg) (ev : MicroEvent)
  | cmpx (lc : Lc) (d a : Reg)
  | ciph (lc : Lc) (d a : Reg)
  | dconv (lc : Lc) (d a b : Reg) (dir : BitVec 2) (ev : MicroEvent)
  | customOpcode (lc : Lc) (k : Fin 64) (d a b : Reg) (cx : Fin 16) (ev : MicroEvent)
  | mcOverrun (lc : Lc)
  | mcLoad (m : Master)
  | rebuildWriteDone
  | bankSwap (lc : Lc)
  -- voting groups (chapter 8)
  | groupTimeLoad (island : Island)
  | fillArrival (slot : Slot) (line : LineNo) (ev : GateEvent)
  | resyncWakeDone (core : Core)
  | resyncTestDone (core : Core) (ok : Bool)
  | resyncInvalidateDone (core : Core)
  | resyncMirrorDone (core : Core) (ok : Bool)
  | mirrorTimeout (core : Core)
  | rejoin (core : Core)
  | rejoinTimeout (core : Core)
  | grpResync (m : Master) (island : Island) (tcore : Fin 4)
  | grpInject (m : Master) (island : Island) (tcore : Fin 4)
  | grpRetireCore (m : Master) (island : Island) (tcore : Fin 4)
  | migrationStart (lc : Lc)
  | migrationComplete (lc : Lc)
  | voterRailFailure (island : Island) (copy : Fin 3)
  | groupStop (lc : Lc)
  | debugHalt (lc : Lc)
  | debugResume (lc : Lc)
  -- caches and coherence (chapters 9 and 10)
  | hardwarePrefetch (lc : Lc) (trained : LineNo) (line : LineNo) (stream : Fin 16)
  | prefetchFill (slot : Slot) (line : LineNo)
  | maintClean (m : Master) (s : Slice) (all discard : Bool)
  | maintInvalidate (m : Master) (s : Slice) (all discard : Bool)
  | maintCleanInvalidate (m : Master) (s : Slice) (all discard : Bool)
  | maintDone (s : Slice)
  | victimAccepted (s : Slice)
  | readShared (slot : Slot) (line : LineNo) (ev : BasinEvent)
  | prefetch (slot : Slot) (line : LineNo) (ev : BasinEvent)
  | readOwn (slot : Slot) (line : LineNo) (ev : BasinEvent)
  | upgrade (slot : Slot) (line : LineNo)
  | writeback (slot : Slot) (line : LineNo)
  | evictClean (slot : Slot) (line : LineNo)
  | farAtomic (lc : Lc) (ev : BasinEvent)
  | peek (m : Master) (addr : Word) (size : Nat) (ev : BasinEvent)
  | invWrite (m : Master) (addr : Word) (data : List Byte)
  | maintAction (s : Slice) (line : LineNo)
  | cancel (r : Requester) (line : LineNo)
  | complete (r : Requester) (line : LineNo)
  | nackResend (r : Requester) (line : LineNo)
  | snpShare (slot : Slot) (line : LineNo)
  | snpInv (slot : Slot) (line : LineNo)
  | snpClean (slot : Slot) (line : LineNo)
  | snpPeek (slot : Slot) (line : LineNo)
  | snpProbe (slot : Slot) (line : LineNo)
  | snpRecover (slot : Slot) (line : LineNo)
  | snoopAnswer (slot : Slot) (line : LineNo)
  | reclaimDone (t : Ct)
  | cohBrlogRead (m : Master) (t : Ct)
  -- DDR5 (chapter 11)
  | mcRead (c : Chan) (line : LineNo) (by_ : Option Parcel) (ev : DramEvent)
  | mcWrite (c : Chan) (line : LineNo) (mask : BitVec 128) (data : Line) (poison : Bool) (by_ : Option Parcel)
      (ev : DramEvent)
  | refreshDue (c : Chan) (bank : Fin 128)
  | dimmThermalChange (c : Chan) (hot : Bool)
  | neighbourRefresh (c : Chan) (bank : Fin 128)
  | rfm (c : Chan) (bank : Fin 128)
  | selfRefreshEntry (c : Chan)
  | selfRefreshEntryDone (c : Chan)
  | selfRefreshExit (c : Chan)
  | selfRefreshExitDone (c : Chan)
  | patrolRead (c : Chan) (line : LineNo) (ev : DramEvent)
  | caParityError (c : Chan) (line : LineNo) (isWrite retryFails : Bool)
  | caRetrainDone (c : Chan) (ok writeOk : Bool)
  | ddrTrainingDone (c : Chan) (ok : Bool)
  | dramZeroingDone (c : Chan)
  | mcErrlogRead (m : Master) (c : Chan)
  -- queues (chapter 12)
  | qmQcfgWrite (m : Master) (q : Qn) (value : Word)
  | qmEnq (m : Master) (q : Qn) (user : Fin 16) (value : Word)
  | qmOpen (m : Master) (q : Qn) (value : Word)
  | qmClose (m : Master) (q : Qn)
  | qmDeq (m : Master) (q : Qn) (ev : QwordEvent)
  | qmRewind (m : Master) (q : Qn) (ev : QwordEvent)
  | qmMarkSet (m : Master) (q : Qn)
  | qmMarkClear (m : Master) (q : Qn)
  | qmFlush (m : Master) (q : Qn)
  | qmReset (m : Master) (q : Qn)
  | heldWriteAccept (q : Qn)
  | spillBlockMove (q : Qn) (toSpill : Bool) (ev : QwordEvent)
  | qmDmaStart (m : Master) (c : Qdma) (value : Word)
  | qdmaRecord (c : Qdma)
  -- channel subsystem (chapter 13)
  | scCfgWrite (m : Master) (sc : Sc) (value : Word)
  | scStart (m : Master) (sc : Sc) (value : Word)
  | scClear (m : Master) (sc : Sc)
  | orderEvaluation (sc : Sc)
  | dataFrame (p : Port) (f : Frame)
  | endFrame (p : Port) (f : Frame)
  | establishedFrame (p : Port) (f : Frame)
  | staleClaim (p : Port) (f : Frame)
  | seqError (p : Port) (f : Frame)
  | notEstablished (p : Port) (f : Frame)
  | orderTimeout (sc : Sc)
  | mirrorRecord (sc : Sc) (r : MirrorRec) (check : Word)
  | mirrorAck (sc : Sc)
  | heartbeat (e : Pe)
  | heartbeatTimeout (sc : Sc)
  | handover (sc : Sc)
  | claimRequest (sc : Sc) (e : Pe)
  | revocationAck (sc : Sc)
  | revocationTimeout (sc : Sc)
  | completionPost (sc : Sc)
  | mirrorLinkDown (pair : Fin 2)
  | mirrorLinkUp (pair : Fin 2)
  | pathHoldoffExpiry (sc : Sc) (path : Fin 8)
  | parkExpiry (sc : Sc)
  -- ports and links (chapter 14)
  | lyvanResetDone (p : Port)
  | lanesDetected (p : Port)
  | equalizationDone (p : Port)
  | alignLockHeld (p : Port) (reversed : Bool)
  | ident (p : Port) (f : Frame)
  | trainingTimeout (p : Port)
  | trainingRetry (p : Port)
  | laneLockLost (p : Port)
  | codewordErrorLimit (p : Port)
  | frameReceive (p : Port) (f : Frame) (chk : FrameCheck)
  | ack (p : Port) (f : Frame)
  | nak (p : Port) (f : Frame)
  | ackTimer (p : Port)
  | replayTimeout (p : Port)
  | portRetrain (m : Master) (p : Port)
  | portDisable (m : Master) (p : Port)
  | portEnable (m : Master) (p : Port)
  | portRelease (m : Master) (p : Port)
  | inboundMemoryRead (p : Port) (addr : Word) (len : Nat)
  | inboundMemoryWrite (p : Port) (addr : Word) (data : List Byte)
  | doorbellWrite (p : Port) (addr : Word) (data : BitVec 32)
  | dpc (p : Port) (linkDown : Bool)
  | pcieCe (p : Port)
  | pcieNonfatal (p : Port)
  | configRead (m : Master) (p : Port) (cpl : BitVec 2) (data : BitVec 32)
  | configWrite (m : Master) (p : Port) (value : Word) (cpl : BitVec 2)
  | cxlLinkActive (p : Port)
  -- compression and cryptography (chapter 15)
  | chunkDone (r : Master)
  | ctxcfgWrite (m : Master) (c : AccCtx) (value : Word)
  | contextRequestWord (c : AccCtx)
  | cphKwLoad (m : Master) (t : Ct) (value : Word)
  | accParityError (r : Master)
  -- worlds (chapter 16)
  | sluice (lc : Lc) (a : Reg)
  | sluiceX (lc : Lc)
  | gateInterruptEntry (lc : Lc)
  | cutClock (m : Master) (u : CutUnit)
  | cutPower (m : Master) (u : CutUnit)
  | cutRestore (m : Master) (u : CutUnit)
  | pwrRelqRead (m : Master)
  | release (m : Master) (unitCode : BitVec 3) (inst : BitVec 16)
  | deny (m : Master) (unitCode : BitVec 3) (inst : BitVec 16)
  -- parcels (chapter 17)
  | interruptRoute (k : Tile)
  | pendingSetArrival (lc : Lc)
  | interruptEntry (lc : Lc)
  | notify (lc : Lc)
  | irSend (m : Master) (owner : Fin 17) (value : Word)
  | stormRefill
  | parcelReset (m : Master) (p : Parcel)
  | parcelResetStepDone (p : Parcel)
  | lcReset (m : Master) (p : Parcel) (lc : BitVec 8)
  | pathReset (m : Master) (p : Parcel) (port : BitVec 9)
  | consent (m : Master) (p : Parcel)
  | prStartWrite (m : Master) (p : Parcel) (value : Word)
  | shareWindowEnd (c : Chan)
  | ringWindowEnd (t : Ct) (ring : Fin 2)
  | deficitRound (a : Acc)
  -- faults and pins (chapter 18)
  | faultMessageArrival (src : BitVec 16)
  | promotionSignal (k : Tile)
  | junctionSample (k : Tile) (lo hi : BitVec 12)
  | tileFatalError (k : Tile) (kind : Byte) (ring : Fin 2) (addr : BitVec 52)
  | fcLogRead (m : Master) (k : Tile)
  | fcInject (m : Master) (k : Tile) (value : Word)
  | fcParcelEnable (m : Master) (k : Tile) (p : Parcel) (value : Word)
  | graveBitClear (m : Master) (k : Tile)
  | aliveToggle
  | pinEvent (n : Fin 48) (rawEdges : Nat)
  | pinStuck (n : Fin 48)
  | pinUnmask (m : Master) (n : Fin 48)
  -- management (chapter 19)
  | hello (via : Transport) (keyId : BitVec 32) (nonce : BitVec 256) (kemKey : List Byte)
  | finish (session : BitVec 32) (signature : List Byte)
  | close (session : BitVec 32) (seq : Word)
  | sessionTimeout (session : BitVec 32)
  | request (via : Transport) (session : BitVec 32) (seq : Word) (tagOk : Bool) (reqId : Word) (op : BitVec 16)
      (args : List Byte)
  | status (h : ReqHdr)
  | csRead (h : ReqHdr) (addr : Word)
  | csWrite (h : ReqHdr) (addr value : Word)
  | imagePut (h : ReqHdr) (offset : BitVec 32) (data : List Byte)
  | imageEnd (h : ReqHdr) (bistFail : List Core)
  | deliveryTimeout
  | imgCmd (h : ReqHdr) (value : Word)
  | flashUpdate (h : ReqHdr) (readBackOk : Bool)
  | keySlot (h : ReqHdr) (slot : Fin 4) (program : Option (BitVec 256))
  | modeCmd (h : ReqHdr) (value : Word)
  | graveClear (h : ReqHdr)
  | attest (h : ReqHdr) (nonce : BitVec 256)
  | certs (h : ReqHdr)
  | logRead (h : ReqHdr) (first : Word) (count : Nat)
  | flashRead (h : ReqHdr) (addr : BitVec 32) (len : Nat)
  | flashWrite (h : ReqHdr) (addr : BitVec 32) (data : Option (List Byte))
  | debugUnlock (h : ReqHdr) (scope : BitVec 17) (seconds : BitVec 32)
  | debugLock (h : ReqHdr)
  | debugUnlockExpiry
  | setEndpointId (eid : Byte)
  | getEndpointId
  | getMctpVersionSupport (msgType : Byte)
  | getMessageTypeSupport
  | mgtPortFailover
  | mgtLinkUp (n : Fin 2)
  | ptpEventMessage (n : Fin 2) (msg : PtpMsg) (ingress accepted : Bool)
  | routerAdvertisement (n : Fin 2) (pfx : Word)
  -- JTAG and debug access
  | bypass
  | idcode
  | samplePreload (preload : Option (List Bool))
  | extest
  | clamp
  | highz
  | tapHalt (lc : Lc)
  | tapResume (lc : Lc)
  | tapRegisterAccess (lc : Lc) (r : DebugReg) (write : Option Quad)
  | tapMemoryAccess (lc : Lc) (addr : Word) (size : Nat) (write : Option Word)
  | tapBreakpoint (lc : Lc) (offset : Word) (set : Bool)
  -- further events
  | undefinedEncoding (lc : Lc) (w : BitVec 32)
  | instructionFetchFault (lc : Lc)
  | pgoodReassertion (group : Fin 4)
  | xwakeRise
  | pinInactiveChange (n : Fin 48)
  | peInternalFault (e : Pe)
  | completionTimeout (m : Master) (p : Port) (addr : Word) (w : BitVec 32)
  | intxMessage (p : Port)
  | pcieLinkActive (p : Port) (width rate : BitVec 4) (flit reversed : Bool)
  deriving DecidableEq, Repr

end Sys2Proof
end

