-- ==== Sys2Proof/Decode.lean ====
section
/-! DEFINITION. The command that a word spells by the bits of spec/opcode_table.json.  The table gives no row any
bits, so no word spells a command. -/

namespace Sys2Proof

/-- The rows of the table that give bits: a pattern, a mask, a width, and the command.  There is none. -/
def tableRows : List (Nat × Nat × Nat × Instr) := []

/-- The command whose row the word `w` of `nbits` bits matches. -/
def decodeTableWord (nbits w : Nat) : Option Instr :=
  (tableRows.find? fun r => r.2.2.1 == nbits && w &&& r.2.1 == r.1).map fun r => r.2.2.2

end Sys2Proof
end

