-- ==== Sys2Proof/Config.lean ====
section
/-! DEFINITION. What the manual takes from outside itself or leaves open: published standards it names without
restating them, values it does not state, choices of a device or a random source.  Every constant here is opaque:
no proof can see a value of it, so a claim holds whatever it is. -/

namespace Sys2Proof.Config

/-! ### Published standards the manual names (log entry 3) -/

/-- SHAKE256 with a 512-bit output (FIPS 202), over a byte string (R30, R32). -/
opaque shake512 : List Byte → BitVec 512
/-- SHAKE256 with a 256-bit output (R32). -/
opaque shake256 : List Byte → BitVec 256
/-- Falcon-1024 verification: public key, message, signature bytes (R32, R47, R194). -/
opaque falconVerify : List Byte → List Byte → List Byte → Bool
/-- Verification of a management signature under the algorithm code of the key manifest (R46, R535). -/
opaque peerVerify : Byte → List Byte → List Byte → List Byte → Bool
/-- Byte `i` of an output of an engine request (R426, R438 to R445): a function of the request's parameters and input
bytes, of the random number drawn, and of which output it is: 0 destination, 1 AUX, 2 TAG, 3 ALG byte of a secret. -/
opaque engineByte : List (List Byte) → Nat → Nat → Nat → Byte
/-- Number of bytes of such an output; output 4 is the length of a clear key whose format the function sets. -/
opaque engineLen : List (List Byte) → Nat → Nat → Nat
/-- Source bytes of which a coder has read any bit before it writes output byte `i` (R442). -/
opaque engineNeed : List (List Byte) → Nat → Nat
/-- How a stream ends for the decoder or encoder (R439, R441): a STATUS code. -/
opaque engineEnd : List (List Byte) → Byte
/-- A tag or a signature verifies (R444, R447). -/
opaque engineTrue : List (List Byte) → Bool
/-- Byte `i` of the state area at a progress point of a request (R425, R428). -/
opaque engineState : List (List Byte) → Nat → Nat → Nat → Byte
/-- Duration of a chunk in ns, which a deficit subtracts (R502). -/
opaque chunkNs : List (List Byte) → Nat → Nat
/-- AES-256-GCM sealing of a key under a wrapping key: header bytes, key bytes, random draw; answers nonce, wrapped key
and tag (R449, R450). -/
opaque keyWrap : BitVec 256 → List Byte → List Byte → Nat → List Byte
/-- The clear key of a protected key under the wrapping key of an engine; `none` when its tag does not verify (R449,
R452). -/
opaque keyUnwrap : BitVec 256 → List Byte → Option (List Byte)
/-- ML-KEM-1024 encapsulation to a peer's key: ciphertext and shared secret (R535), with a random input. -/
opaque kemEncap : List Byte → Nat → List Byte × List Byte
/-- A signature by the module's identity key (R543, R544), with a random input. -/
opaque identitySign : List Byte → Nat → List Byte
/-- The identity certificate chain (R543). -/
opaque certChain : List Byte

/-! ### Values the manual leaves open (one log entry each) -/

/-- A 64-bit free value: what the manual calls undefined or does not state, after a step that goes on. -/
opaque freeWord : Nat → Word
/-- xADDR of SEGMENT_RIGHTS raised by LSEG or WRSEG for the descriptor itself, which addresses no data (R101): a
function of GA and of the descriptor's high half. -/
opaque segRightsAddr : Word → Word → Word
/-- xADDR of the GATE_FAULT that SLUICE.X raises, whose target offset the manual does not name (R463): a function of
FEPC and of the sub-cause. -/
opaque sluiceXAddr : Word → Nat → Word
/-- A byte that a device or an unmapped location outside the module supplies. -/
opaque deviceByte : Nat → Byte
/-- A draw of the root of trust's random source for a channel's LFSR; the seed is one more, so never zero (R320). -/
opaque lfsrDraw : Nat → Fin 4294967295
/-- Digest that the customer supplied for owner-key slot 0, programmed at manufacture (R33). -/
opaque ownerDigest : BitVec 256
/-- ROM control-store revision (R170, MC_STATUS.ROM_REV). -/
opaque romRev : Byte
/-- Word of the ROM control store, whose contents Tuixia fixes (R169, R170). -/
opaque romWord : Nat → BitVec 128
/-- What stands in a writable-control-store word that no package has written, and at an undefined micro-address (log entry
114). -/
opaque bareWord : Nat → BitVec 128
/-- Keeper firmware version and digest (R543, R544). -/
opaque fwVersion : BitVec 32
opaque fwDigest : BitVec 512
/-- SHAKE256 digest of the device public key (R531). -/
opaque deviceKeyDigest : List Byte
/-- MCTP vendor identifier (R542, MGT_STATUS.VENDOR). -/
opaque mctpVendor : BitVec 32
/-- Silicon revision and JEP106 code of IDCODE (R545). -/
opaque siliconRev : BitVec 4
opaque jep106 : BitVec 11
/-- Cells of the boundary-scan register (R545). -/
opaque boundaryCells : Nat
/-- Answer to an MCTP control message (R542): its command code, its operand byte, the endpoint ID (DSP0236). -/
opaque mctpReply : Nat → Byte → Byte → List Byte
/-- The 9-bit reciprocal estimate of the divide unit's table (Table 7.2, RECIP). -/
opaque recip : Word → BitVec 9
/-- What PROG0 to PROG3 hold for a ROM routine's progress, internal state that the manual does not lay out (R183): the
register, the instruction word, the operands, the iterations done and the bytes they consumed or formed. -/
opaque progWord : Nat → BitVec 32 → List (BitVec 128) → Nat → List Byte → Word

end Sys2Proof.Config
end

