-- ==== Sys2Proof/Machine/CsReg.lean ====
section
/-! DEFINITION. The control-space map (R5 to R9, R22 to R25, Tables 0.3, 1.5, 1.6 and every register's identity
line): which register stands at an address, its fields with access type and reset value, and its reset domain. -/

namespace Sys2Proof.Machine

/-- Access types (Table 0.3). -/
inductive Access where | rw | ro | wo | rw1c | rw1s | rc deriving DecidableEq, Repr

/-- Reset domains (R8). -/
inductive Domain where | powerOn | module | parcel | group deriving DecidableEq, Repr

/-- One field of a register: bits [hi:lo], access type, whether its Reset column is HW (R9), reset value.
Reserved fields are not listed: they read 0 and ignore writes (R6). -/
structure Fld where
  hi : Nat
  lo : Nat
  acc : Access
  hw : Bool
  reset : Nat
  deriving DecidableEq, Repr

/-- The registers of control space, one constructor per identity line.  A parcel block has the same contents in
every compute tile's window (R504), so its registers carry no tile; owner 16 names Polder's route registers. -/
inductive CsReg where
  /-- IMG_STATUS. -/
  | imgStatus
  /-- IMG_CTL. -/
  | imgCtl
  /-- KS_STATUS. -/
  | ksStatus
  /-- KS_CMD. -/
  | ksCmd
  /-- KS_WAKE. -/
  | ksWake
  /-- TB_NOW. -/
  | tbNow
  /-- TB_FRAC. -/
  | tbFrac
  /-- TB_CTL. -/
  | tbCtl
  /-- TB_STEP. -/
  | tbStep
  /-- TB_CAPTURE. -/
  | tbCapture
  /-- TB_CMP_VAL[n]. -/
  | tbCmpVal (n : Fin 16)
  /-- TB_CMP_CFG[n]. -/
  | tbCmpCfg (n : Fin 16)
  /-- EC_CFG[e]. -/
  | ecCfg (e : Fin 6)
  /-- MC_STATUS. -/
  | mcStatus
  /-- MC_CTL. -/
  | mcCtl
  /-- MC_PKG. -/
  | mcPkg
  /-- PWR_RELQ. -/
  | pwrRelq
  /-- PWR_RELEASE. -/
  | pwrRelease
  /-- PWR_RELRES. -/
  | pwrRelres
  /-- PIN_CFG[n]. -/
  | pinCfg (n : Fin 48)
  /-- PIN_STAT[n]. -/
  | pinStat (n : Fin 48)
  /-- MGT_STATUS[n]. -/
  | mgtStatus (n : Fin 2)
  /-- MGT_PTPADJ[n]. -/
  | mgtPtpadj (n : Fin 2)
  /-- DBG_STATUS. -/
  | dbgStatus
  /-- MC_BANK[nn]. -/
  | mcBank (i : Island)
  /-- GRP_STATUS[nn]. -/
  | grpStatus (i : Island)
  /-- GRP_CORE[nn]. -/
  | grpCore (i : Island)
  /-- GRP_CTL[nn]. -/
  | grpCtl (i : Island)
  /-- GRP_LAST[nn]. -/
  | grpLast (i : Island)
  /-- GRP_COUNT[nn]. -/
  | grpCount (i : Island)
  /-- MAINT_CTL[s]. -/
  | maintCtl (s : Slice)
  /-- MAINT_FIRST[s]. -/
  | maintFirst (s : Slice)
  /-- MAINT_LAST[s]. -/
  | maintLast (s : Slice)
  /-- MAINT_STATUS[s]. -/
  | maintStatus (s : Slice)
  /-- COH_BRLOG. -/
  | cohBrlog (t : Ct)
  /-- COH_BRCOUNT. -/
  | cohBrcount (t : Ct)
  /-- COH_RECLAIM. -/
  | cohReclaim (t : Ct)
  /-- SF_STAT[s]. -/
  | sfStat (s : Slice)
  /-- MC_CHSTAT[c]. -/
  | mcChstat (c : Chan)
  /-- MC_RHCTL[c]. -/
  | mcRhctl (c : Chan)
  /-- MC_PWR[c]. -/
  | mcPwr (c : Chan)
  /-- MC_ERRLOG0[c]. -/
  | mcErrlog0 (c : Chan)
  /-- MC_ERRLOG1[c]. -/
  | mcErrlog1 (c : Chan)
  /-- MC_ERRCNT[c]. -/
  | mcErrcnt (c : Chan)
  /-- MC_MAP. -/
  | mcMap (t : Ct)
  /-- MC_MAPTOP. -/
  | mcMaptop (t : Ct)
  /-- QM_QCFG[i]. -/
  | qmQcfg (q : Qn)
  /-- QM_QSTAT[i]. -/
  | qmQstat (q : Qn)
  /-- QM_QEVT[i]. -/
  | qmQevt (q : Qn)
  /-- QM_QLOST[i]. -/
  | qmQlost (q : Qn)
  /-- QM_QCTL[i]. -/
  | qmQctl (q : Qn)
  /-- QM_QFLUSHED[i]. -/
  | qmQflushed (q : Qn)
  /-- QM_QFB[i]. -/
  | qmQfb (q : Qn)
  /-- QM_MARK[i]. -/
  | qmMark (q : Qn)
  /-- QM_DEQ[i]. -/
  | qmDeq (q : Qn)
  /-- QM_REWIND[i]. -/
  | qmRewind (q : Qn)
  /-- QM_OPEN[i]. -/
  | qmOpen (q : Qn)
  /-- QM_CLOSE[i]. -/
  | qmClose (q : Qn)
  /-- QM_ENQ[i][u]. -/
  | qmEnq (q : Qn) (u : Fin 16)
  /-- QM_DEQTAG. -/
  | qmDeqtag (t : It)
  /-- QM_MSTAT. -/
  | qmMstat (t : It)
  /-- QM_DMAADDR[c]. -/
  | qmDmaaddr (c : Qdma)
  /-- QM_DMACTL[c]. -/
  | qmDmactl (c : Qdma)
  /-- QM_DMASTAT[c]. -/
  | qmDmastat (c : Qdma)
  /-- SC_CFG[i]. -/
  | scCfg (n : Sc)
  /-- SC_PATHS[i]. -/
  | scPaths (n : Sc)
  /-- SC_LIMITS[i]. -/
  | scLimits (n : Sc)
  /-- SC_START[i]. -/
  | scStart (n : Sc)
  /-- SC_CTL[i]. -/
  | scCtl (n : Sc)
  /-- SC_STATUS[i]. -/
  | scStatus (n : Sc)
  /-- SC_CLAIM[i]. -/
  | scClaim (n : Sc)
  /-- SC_COUNT[i]. -/
  | scCount (n : Sc)
  /-- PE_STATUS[ee]. -/
  | peStatus (e : Pe)
  /-- PE_COUNT[ee]. -/
  | peCount (e : Pe)
  /-- PORT_CFG[nnn]. -/
  | portCfg (p : Port)
  /-- PORT_STATUS[nnn]. -/
  | portStatus (p : Port)
  /-- PORT_CTL[nnn]. -/
  | portCtl (p : Port)
  /-- PORT_ERRCNT[nnn]. -/
  | portErrcnt (p : Port)
  /-- PORT_CFGADDR[nnn]. -/
  | portCfgaddr (p : Port)
  /-- PORT_CFGDATA[nnn]. -/
  | portCfgdata (p : Port)
  /-- PORT_CXLCAP[nnn]. -/
  | portCxlcap (p : Port)
  /-- CMP_ENGSTAT. -/
  | engstat (a : Acc)
  /-- CPH_KW[k]. -/
  | cphKw (t : Ct) (k : Fin 4)
  /-- CMP_CTXCFG[c]. -/
  | ctxcfg (c : AccCtx)
  /-- CMP_CTXSTAT[c]. -/
  | ctxstat (c : AccCtx)
  /-- CMP_CTXCOUNT[c]. -/
  | ctxcount (c : AccCtx)
  /-- PWR_REQ. -/
  | pwrReq (u : CutUnit)
  /-- PWR_STAT. -/
  | pwrStat (u : CutUnit)
  /-- PR_CTL. -/
  | prCtl (p : Parcel)
  /-- PR_STATUS. -/
  | prStatus (p : Parcel)
  /-- PR_START. -/
  | prStart (p : Parcel)
  /-- IR_CTL. -/
  | irCtl (o : Fin 17)
  /-- IR_SEND. -/
  | irSend (o : Fin 17)
  /-- IR_STAT. -/
  | irStat (o : Fin 17)
  /-- IR_CLASS[k]. -/
  | irClass (o : Fin 17) (k : Fin 12)
  /-- IRT_STAT. -/
  | irtStat (t : It)
  /-- FC_STATUS. -/
  | fcStatus (k : Tile)
  /-- FC_CTL. -/
  | fcCtl (k : Tile)
  /-- FC_LOG_HI. -/
  | fcLogHi (k : Tile)
  /-- FC_LOG_LO. -/
  | fcLogLo (k : Tile)
  /-- FC_GRAVE_HI. -/
  | fcGraveHi (k : Tile)
  /-- FC_GRAVE_LO. -/
  | fcGraveLo (k : Tile)
  /-- FC_LOST. -/
  | fcLost (k : Tile)
  /-- FC_INJECT. -/
  | fcInject (k : Tile)
  /-- FC_PARCEL[p]. -/
  | fcParcel (k : Tile) (p : Parcel)
  /-- FC_PSTAT[p]. -/
  | fcPstat (k : Tile) (p : Parcel)
  deriving DecidableEq, Repr

/-- The fields of a register, from the highest bit to the lowest. -/
def CsReg.fields : CsReg → List Fld
  | .imgStatus => [⟨55, 52, .ro, false, 0⟩, ⟨47, 40, .ro, false, 0⟩, ⟨39, 32, .ro, false, 0⟩,
      ⟨31, 24, .ro, false, 0⟩, ⟨23, 20, .ro, false, 0⟩, ⟨16, 16, .ro, true, 0⟩, ⟨15, 8, .ro, true, 0⟩,
      ⟨1, 0, .ro, true, 0⟩]
  | .imgCtl => [⟨31, 16, .wo, false, 0⟩, ⟨3, 0, .wo, false, 0⟩]
  | .ksStatus => [⟨47, 40, .ro, false, 0⟩, ⟨39, 36, .ro, false, 0⟩, ⟨35, 32, .ro, false, 0⟩,
      ⟨27, 24, .ro, false, 0⟩, ⟨19, 19, .ro, true, 0⟩, ⟨18, 18, .ro, true, 0⟩, ⟨17, 17, .ro, true, 0⟩,
      ⟨16, 16, .ro, true, 0⟩, ⟨3, 0, .ro, true, 0⟩]
  | .ksCmd => [⟨63, 32, .wo, false, 0⟩, ⟨11, 8, .wo, false, 0⟩, ⟨7, 0, .wo, false, 0⟩]
  | .ksWake => [⟨47, 40, .ro, false, 1⟩, ⟨8, 8, .rw, false, 1⟩, ⟨0, 0, .ro, true, 0⟩]
  | .tbNow => [⟨63, 0, .ro, false, 0⟩]
  | .tbFrac => [⟨31, 0, .ro, false, 0⟩]
  | .tbCtl => [⟨63, 32, .rw, false, 0⟩, ⟨8, 8, .rw, false, 1⟩, ⟨5, 4, .rw, false, 0⟩, ⟨0, 0, .rw, false, 0⟩]
  | .tbStep => [⟨63, 0, .wo, false, 0⟩]
  | .tbCapture => [⟨63, 0, .ro, false, 0⟩]
  | .tbCmpVal _ => [⟨63, 0, .rw, false, 0⟩]
  | .tbCmpCfg _ => [⟨63, 24, .rw, false, 0⟩, ⟨7, 7, .rw1c, false, 0⟩, ⟨3, 3, .rw, false, 0⟩,
      ⟨2, 2, .rw, false, 0⟩, ⟨1, 1, .rw, false, 0⟩, ⟨0, 0, .rw, false, 0⟩]
  | .ecCfg e => [⟨63, 52, .rw, false, 2047⟩, ⟨51, 40, .rw, false, (if e.val < 4 then 0 else 0x800)⟩,
      ⟨39, 36, .rw, false, 0⟩, ⟨35, 24, .ro, true, 0⟩, ⟨7, 7, .rw1c, false, 0⟩, ⟨6, 6, .rw1c, false, 0⟩,
      ⟨3, 3, .rw, false, 0⟩, ⟨2, 2, .rw, false, 0⟩, ⟨1, 1, .rw, false, 0⟩, ⟨0, 0, .rw, false, 0⟩]
  | .mcStatus => [⟨63, 32, .ro, true, 0⟩, ⟨31, 24, .ro, true, 0⟩, ⟨23, 20, .ro, false, 0⟩,
      ⟨19, 16, .ro, false, 0⟩, ⟨11, 8, .ro, true, 0⟩]
  | .mcCtl => [⟨3, 0, .wo, false, 0⟩]
  | .mcPkg => [⟨51, 0, .rw, false, 0⟩]
  | .pwrRelq => [⟨63, 63, .rc, false, 0⟩, ⟨62, 60, .rc, false, 0⟩, ⟨59, 56, .rc, false, 0⟩,
      ⟨55, 52, .rc, false, 0⟩, ⟨15, 0, .rc, false, 0⟩]
  | .pwrRelease => [⟨31, 16, .wo, false, 0⟩, ⟨10, 8, .wo, false, 0⟩, ⟨3, 0, .wo, false, 0⟩]
  | .pwrRelres => [⟨59, 56, .ro, false, 0⟩]
  | .pinCfg _ => [⟨31, 24, .rw, false, 0⟩, ⟨21, 16, .rw, false, 20⟩, ⟨12, 8, .rw, false, 0⟩,
      ⟨4, 4, .rw, false, 0⟩, ⟨0, 0, .rw, false, 0⟩]
  | .pinStat _ => [⟨63, 63, .ro, true, 0⟩, ⟨62, 62, .rw1c, false, 0⟩, ⟨61, 60, .ro, false, 0⟩,
      ⟨31, 16, .rc, false, 0⟩, ⟨15, 0, .rc, false, 0⟩]
  | .mgtStatus _ => [⟨63, 62, .ro, true, 0⟩, ⟨61, 61, .ro, true, 0⟩, ⟨60, 60, .ro, true, 0⟩,
      ⟨47, 32, .rc, false, 0⟩, ⟨31, 16, .rc, false, 0⟩, ⟨15, 0, .ro, true, 0⟩]
  | .mgtPtpadj _ => [⟨63, 32, .rw, false, 0⟩, ⟨31, 0, .rw, false, 0⟩]
  | .dbgStatus => [⟨63, 63, .ro, false, 0⟩, ⟨48, 32, .ro, false, 0⟩, ⟨31, 0, .ro, false, 0⟩]
  | .mcBank _ => [⟨63, 32, .ro, true, 0⟩, ⟨16, 16, .ro, true, 0⟩, ⟨0, 0, .ro, true, 0⟩]
  | .grpStatus _ => [⟨63, 63, .ro, true, 0⟩, ⟨58, 56, .ro, true, 0⟩, ⟨55, 52, .ro, false, 0⟩,
      ⟨31, 16, .ro, true, 0⟩, ⟨15, 8, .ro, true, 0⟩, ⟨1, 0, .ro, true, 0⟩]
  | .grpCore _ => [⟨63, 32, .ro, true, 0⟩, ⟨31, 0, .ro, true, 0⟩]
  | .grpCtl _ => [⟨13, 12, .wo, false, 0⟩, ⟨3, 0, .wo, false, 0⟩]
  | .grpLast _ => [⟨63, 56, .ro, false, 0⟩, ⟨55, 54, .ro, false, 0⟩, ⟨53, 52, .ro, false, 0⟩, ⟨47, 0, .ro, false, 0⟩]
  | .grpCount _ => [⟨63, 48, .ro, false, 0⟩, ⟨47, 40, .ro, false, 0⟩, ⟨39, 32, .ro, false, 0⟩, ⟨31, 0, .ro, false, 0⟩]
  | .maintCtl _ => [⟨7, 7, .wo, false, 0⟩, ⟨6, 6, .wo, false, 0⟩, ⟨1, 0, .wo, false, 0⟩]
  | .maintFirst _ => [⟨44, 0, .rw, false, 0⟩]
  | .maintLast _ => [⟨44, 0, .rw, false, 0⟩]
  | .maintStatus _ => [⟨63, 63, .ro, true, 0⟩, ⟨62, 60, .ro, false, 0⟩, ⟨47, 47, .ro, false, 0⟩,
      ⟨46, 32, .ro, false, 0⟩, ⟨31, 0, .ro, false, 0⟩]
  | .cohBrlog _ => [⟨63, 63, .rc, false, 0⟩, ⟨62, 61, .rc, false, 0⟩, ⟨60, 58, .rc, false, 0⟩,
      ⟨57, 52, .rc, false, 0⟩, ⟨44, 0, .rc, false, 0⟩]
  | .cohBrcount _ => [⟨63, 32, .ro, false, 0⟩, ⟨31, 0, .rc, false, 0⟩]
  | .cohReclaim _ => [⟨63, 63, .ro, true, 0⟩, ⟨53, 48, .ro, true, 0⟩, ⟨31, 0, .ro, false, 0⟩]
  | .sfStat _ => [⟨63, 48, .rc, false, 0⟩, ⟨47, 32, .rc, false, 0⟩, ⟨31, 0, .rc, false, 0⟩]
  | .mcChstat _ => [⟨55, 52, .ro, true, 0⟩, ⟨49, 48, .ro, true, 0⟩, ⟨45, 44, .ro, true, 0⟩,
      ⟨43, 40, .ro, true, 0⟩, ⟨35, 32, .ro, true, 0⟩, ⟨3, 0, .ro, true, 0⟩]
  | .mcRhctl _ => [⟨63, 32, .rc, false, 0⟩, ⟨31, 31, .rw, false, 0⟩, ⟨30, 30, .ro, true, 0⟩,
      ⟨16, 16, .rw, false, 0⟩, ⟨12, 8, .rw, false, 10⟩, ⟨0, 0, .rw, false, 1⟩]
  | .mcPwr _ => [⟨31, 16, .rw, false, 0⟩, ⟨15, 8, .rw, false, 24⟩, ⟨0, 0, .ro, true, 0⟩]
  | .mcErrlog0 _ => [⟨63, 63, .rc, false, 0⟩, ⟨62, 59, .rc, false, 0⟩, ⟨51, 0, .rc, false, 0⟩]
  | .mcErrlog1 _ => [⟨63, 32, .ro, false, 0⟩, ⟨29, 29, .ro, false, 0⟩, ⟨28, 27, .ro, false, 0⟩,
      ⟨26, 24, .ro, false, 0⟩, ⟨23, 22, .ro, false, 0⟩, ⟨16, 0, .ro, false, 0⟩]
  | .mcErrcnt _ => [⟨63, 48, .rc, false, 0⟩, ⟨47, 32, .rc, false, 0⟩, ⟨31, 16, .rc, false, 0⟩,
      ⟨15, 8, .rc, false, 0⟩, ⟨7, 0, .rc, false, 0⟩]
  | .mcMap _ => [⟨47, 16, .ro, true, 0⟩, ⟨12, 8, .ro, true, 0⟩, ⟨5, 5, .ro, true, 0⟩, ⟨4, 4, .ro, true, 0⟩]
  | .mcMaptop _ => [⟨51, 0, .ro, true, 0⟩]
  | .qmQcfg _ => [⟨63, 63, .rw, false, 0⟩, ⟨62, 62, .rw, false, 0⟩, ⟨61, 61, .rw, false, 0⟩,
      ⟨60, 56, .rw, false, 4⟩, ⟨51, 12, .rw, false, 0⟩]
  | .qmQstat _ => [⟨63, 39, .ro, true, 0⟩, ⟨38, 14, .ro, true, 0⟩, ⟨13, 13, .ro, true, 0⟩,
      ⟨12, 12, .ro, true, 0⟩, ⟨11, 11, .ro, true, 0⟩, ⟨10, 10, .ro, true, 0⟩, ⟨9, 9, .ro, false, 0⟩,
      ⟨7, 0, .ro, false, 0⟩]
  | .qmQevt _ => [⟨6, 6, .rw1c, false, 0⟩, ⟨5, 5, .rw1c, false, 0⟩, ⟨4, 4, .rw1c, false, 0⟩,
      ⟨3, 3, .rw1c, false, 0⟩, ⟨2, 2, .rw1c, false, 0⟩, ⟨1, 1, .rw1c, false, 0⟩, ⟨0, 0, .rw1c, false, 0⟩]
  | .qmQlost _ => [⟨63, 32, .rc, false, 0⟩, ⟨31, 0, .rc, false, 0⟩]
  | .qmQctl _ => [⟨1, 1, .wo, false, 0⟩, ⟨0, 0, .wo, false, 0⟩]
  | .qmQflushed _ => [⟨24, 0, .ro, false, 0⟩]
  | .qmQfb _ => [⟨23, 0, .rw, false, 0⟩]
  | .qmMark _ => [⟨0, 0, .wo, false, 0⟩]
  | .qmDeq _ => [⟨63, 0, .rc, true, 0⟩]
  | .qmRewind _ => [⟨63, 0, .rc, true, 0⟩]
  | .qmOpen _ => [⟨3, 0, .wo, false, 0⟩]
  | .qmClose _ => []
  | .qmEnq _ _ => [⟨63, 0, .wo, false, 0⟩]
  | .qmDeqtag _ => [⟨63, 63, .ro, false, 0⟩, ⟨60, 48, .ro, false, 0⟩, ⟨7, 0, .ro, false, 0⟩]
  | .qmMstat _ => [⟨63, 32, .rc, false, 0⟩, ⟨31, 16, .rc, false, 0⟩, ⟨9, 0, .ro, true, 0⟩]
  | .qmDmaaddr _ => [⟨51, 0, .rw, false, 0⟩]
  | .qmDmactl _ => [⟨63, 40, .wo, false, 0⟩, ⟨34, 22, .wo, false, 0⟩, ⟨1, 1, .wo, false, 0⟩, ⟨0, 0, .wo, false, 0⟩]
  | .qmDmastat _ => [⟨63, 63, .ro, true, 0⟩, ⟨62, 60, .ro, false, 0⟩, ⟨23, 0, .ro, false, 0⟩]
  | .scCfg _ => [⟨63, 63, .rw, false, 0⟩, ⟨59, 56, .rw, false, 0⟩, ⟨23, 16, .rw, false, 255⟩, ⟨15, 0, .rw, false, 0⟩]
  | .scPaths _ => [⟨63, 0, .rw, false, 0⟩]
  | .scLimits _ => [⟨63, 32, .rw, false, 60000⟩, ⟨23, 16, .rw, false, 20⟩, ⟨4, 0, .rw, false, 20⟩]
  | .scStart _ => [⟨51, 5, .wo, false, 0⟩]
  | .scCtl _ => [⟨3, 0, .wo, false, 0⟩]
  | .scStatus _ => [⟨63, 60, .ro, true, 0⟩, ⟨59, 56, .ro, false, 0⟩, ⟨55, 52, .ro, true, 0⟩,
      ⟨51, 51, .ro, false, 0⟩, ⟨50, 50, .ro, true, 0⟩, ⟨49, 49, .ro, true, 0⟩, ⟨48, 48, .ro, true, 0⟩,
      ⟨47, 40, .ro, true, 0⟩, ⟨37, 35, .ro, true, 0⟩, ⟨34, 32, .ro, true, 0⟩, ⟨31, 0, .ro, false, 0⟩]
  | .scClaim _ => [⟨63, 32, .ro, false, 0⟩, ⟨31, 0, .ro, false, 0⟩]
  | .scCount _ => [⟨63, 48, .rc, false, 0⟩, ⟨47, 32, .rc, false, 0⟩, ⟨31, 16, .rc, false, 0⟩,
      ⟨15, 8, .rc, false, 0⟩, ⟨7, 0, .rc, false, 0⟩]
  | .peStatus _ => [⟨63, 60, .ro, true, 0⟩, ⟨57, 41, .ro, true, 0⟩, ⟨40, 24, .ro, true, 0⟩, ⟨9, 0, .ro, true, 0⟩]
  | .peCount _ => [⟨63, 32, .rc, false, 0⟩, ⟨31, 16, .rc, false, 0⟩, ⟨15, 0, .rc, false, 0⟩]
  | .portCfg _ => [⟨26, 22, .ro, true, 0⟩, ⟨21, 14, .ro, true, 0⟩, ⟨13, 10, .ro, true, 0⟩, ⟨9, 8, .ro, true, 0⟩,
      ⟨7, 7, .ro, true, 0⟩, ⟨6, 0, .ro, true, 0⟩]
  | .portStatus _ => [⟨63, 60, .ro, true, 0⟩, ⟨59, 56, .ro, false, 0⟩, ⟨55, 52, .ro, true, 0⟩,
      ⟨51, 48, .ro, true, 0⟩, ⟨47, 47, .ro, true, 0⟩, ⟨46, 46, .ro, true, 0⟩, ⟨45, 45, .ro, true, 0⟩,
      ⟨31, 16, .ro, false, 0⟩, ⟨15, 0, .ro, true, 0⟩]
  | .portCtl _ => [⟨3, 0, .wo, false, 0⟩]
  | .portErrcnt _ => [⟨63, 48, .rc, false, 0⟩, ⟨47, 32, .rc, false, 0⟩, ⟨31, 16, .rc, false, 0⟩,
      ⟨15, 8, .rc, false, 0⟩, ⟨7, 0, .rc, false, 0⟩]
  | .portCfgaddr _ => [⟨63, 62, .ro, false, 0⟩, ⟨27, 20, .rw, false, 0⟩, ⟨19, 15, .rw, false, 0⟩,
      ⟨14, 12, .rw, false, 0⟩, ⟨11, 2, .rw, false, 0⟩]
  | .portCfgdata _ => [⟨31, 0, .rw, false, 0⟩]
  | .portCxlcap _ => [⟨14, 0, .ro, true, 0⟩]
  | .engstat _ => [⟨63, 63, .ro, false, 0⟩, ⟨62, 62, .ro, false, 0⟩, ⟨13, 8, .ro, true, 0⟩, ⟨7, 0, .ro, true, 0⟩]
  | .cphKw _ _ => [⟨63, 0, .wo, false, 0⟩]
  | .ctxcfg _ => [⟨63, 63, .rw, false, 0⟩, ⟨46, 32, .rw, false, 0⟩, ⟨14, 0, .rw, false, 0⟩]
  | .ctxstat _ => [⟨63, 60, .ro, true, 0⟩, ⟨59, 56, .ro, false, 0⟩, ⟨51, 7, .ro, true, 0⟩]
  | .ctxcount _ => [⟨63, 32, .rc, false, 0⟩, ⟨31, 16, .rc, false, 0⟩]
  | .pwrReq _ => [⟨3, 0, .wo, false, 0⟩]
  | .pwrStat _ => [⟨63, 60, .ro, true, 0⟩, ⟨59, 56, .ro, false, 0⟩, ⟨55, 52, .ro, false, 0⟩]
  | .prCtl _ => [⟨24, 16, .wo, false, 0⟩, ⟨15, 8, .wo, false, 0⟩, ⟨3, 0, .wo, false, 0⟩]
  | .prStatus _ => [⟨63, 60, .ro, true, 0⟩, ⟨59, 56, .ro, false, 0⟩, ⟨55, 55, .ro, true, 0⟩, ⟨31, 16, .ro, false, 0⟩]
  | .prStart _ => [⟨63, 63, .rw, false, 0⟩, ⟨51, 2, .rw, false, 0⟩]
  | .irCtl _ => [⟨63, 63, .rw, false, 0⟩]
  | .irSend _ => [⟨63, 63, .wo, false, 0⟩, ⟨62, 62, .wo, false, 0⟩, ⟨61, 51, .wo, false, 0⟩,
      ⟨50, 8, .wo, false, 0⟩, ⟨7, 0, .wo, false, 0⟩]
  | .irStat _ => [⟨63, 32, .rc, false, 0⟩, ⟨31, 16, .rc, false, 0⟩, ⟨15, 0, .rc, false, 0⟩]
  | .irClass _ _ => [⟨51, 12, .rw, false, 0⟩, ⟨11, 11, .rw, false, 0⟩, ⟨4, 0, .rw, false, 0⟩]
  | .irtStat _ => [⟨42, 32, .ro, true, 0⟩, ⟨31, 0, .rc, false, 0⟩]
  | .fcStatus _ => [⟨42, 32, .ro, true, 0⟩, ⟨31, 31, .ro, true, 0⟩, ⟨27, 24, .ro, false, 0⟩,
      ⟨12, 8, .ro, true, 0⟩, ⟨4, 4, .rw1c, false, 0⟩, ⟨3, 3, .rw1c, false, 0⟩, ⟨2, 2, .rw1c, false, 0⟩,
      ⟨1, 1, .rw1c, false, 0⟩, ⟨0, 0, .rw1c, false, 0⟩]
  | .fcCtl _ => [⟨4, 0, .rw, false, 28⟩]
  | .fcLogHi _ => [⟨63, 0, .rc, false, 0⟩]
  | .fcLogLo _ => [⟨63, 0, .ro, false, 0⟩]
  | .fcGraveHi _ => [⟨63, 0, .ro, false, 0⟩]
  | .fcGraveLo _ => [⟨63, 0, .ro, false, 0⟩]
  | .fcLost _ => [⟨63, 48, .rc, false, 0⟩, ⟨47, 32, .rc, false, 0⟩, ⟨31, 16, .rc, false, 0⟩, ⟨15, 0, .rc, false, 0⟩]
  | .fcInject _ => [⟨63, 56, .wo, false, 0⟩, ⟨55, 53, .wo, false, 0⟩, ⟨51, 0, .wo, false, 0⟩]
  | .fcParcel _ _ => [⟨63, 63, .rw, false, 0⟩, ⟨62, 62, .rw, false, 0⟩, ⟨58, 48, .rw, false, 0⟩,
      ⟨44, 40, .rw, false, 0⟩, ⟨14, 0, .rw, false, 0⟩]
  | .fcPstat _ _ => [⟨4, 0, .rw1c, false, 0⟩]

/-- The reset domain of a register's identity line. -/
def CsReg.domain : CsReg → Domain
  | .imgStatus | .imgCtl | .ksCmd | .mcStatus | .mcCtl | .mcPkg | .pwrRelq | .pwrRelease | .pwrRelres
  | .pinCfg _ | .pinStat _ | .mgtStatus _ | .mgtPtpadj _ | .dbgStatus | .grpStatus _ | .grpCore _ | .grpCtl _
  | .grpLast _ | .grpCount _ | .maintCtl _ | .maintFirst _ | .maintLast _ | .maintStatus _ | .cohBrlog _
  | .cohBrcount _ | .cohReclaim _ | .sfStat _ | .mcChstat _ | .mcRhctl _ | .mcPwr _ | .mcErrlog0 _
  | .mcErrlog1 _ | .mcErrcnt _ | .mcMap _ | .mcMaptop _ | .qmQcfg _ | .qmQstat _ | .qmQevt _ | .qmQlost _
  | .qmQctl _ | .qmQflushed _ | .qmQfb _ | .qmMark _ | .qmDeq _ | .qmRewind _ | .qmOpen _ | .qmClose _
  | .qmEnq _ _ | .qmDeqtag _ | .qmMstat _ | .qmDmaaddr _ | .qmDmactl _ | .qmDmastat _ | .scCfg _ | .scPaths _
  | .scLimits _ | .scStart _ | .scCtl _ | .scStatus _ | .scClaim _ | .scCount _ | .peStatus _ | .peCount _
  | .portCfg _ | .portStatus _ | .portCtl _ | .portErrcnt _ | .portCfgaddr _ | .portCfgdata _ | .portCxlcap _
  | .engstat _ | .cphKw _ _ | .ctxcfg _ | .ctxstat _ | .ctxcount _ | .pwrReq _ | .pwrStat _ | .prCtl _
  | .prStatus _ | .prStart _ | .irSend _ | .irStat _ | .irClass _ _ | .irtStat _ | .fcStatus _ | .fcCtl _
  | .fcLogHi _ | .fcLogLo _ | .fcGraveHi _ | .fcGraveLo _ | .fcLost _ | .fcInject _ | .fcParcel _ _
  | .fcPstat _ _ => .module
  | .ksStatus | .ksWake | .tbNow | .tbFrac | .tbCtl | .tbStep | .tbCapture | .tbCmpVal _ | .tbCmpCfg _
  | .ecCfg _ => .powerOn
  | .mcBank _ => .group
  | .irCtl _ => .parcel

/-- The value of bits [hi:lo] of `w`, as a number. -/
def bits (w : Word) (hi lo : Nat) : Nat := w.toNat / 2 ^ lo % 2 ^ (hi + 1 - lo)

/-- `w` with bits [hi:lo] replaced by `v`, reduced to the width of the field. -/
def setBits (w : Word) (hi lo v : Nat) : Word :=
  let m : Word := BitVec.ofNat 64 ((2 ^ (hi + 1 - lo) - 1) * 2 ^ lo)
  (w &&& ~~~ m) ||| BitVec.ofNat 64 (v % 2 ^ (hi + 1 - lo) * 2 ^ lo)

/-- The reset value of a register: the Reset column of each field that has one. -/
def CsReg.resetValue (r : CsReg) : Word :=
  r.fields.foldl (fun w f => setBits w f.hi f.lo f.reset) 0

/-! ### Addresses -/

/-- Start of control space (R22). -/
def csBase : Nat := 0xF_F000_0000_0000
/-- Start of the window of tile `k` in Table 1.5. -/
def winBase (k : Nat) : Nat := csBase + k * 0x1_0000_0000
def ktAddr (off : Nat) : Nat := winBase 0 + off
def ctAddr (t off : Nat) : Nat := winBase (1 + t) + off
def itAddr (t off : Nat) : Nat := winBase (5 + t) + off

/-- Offset of a fault-collector register (chapter 18). -/
def fcAddr (k : Tile) (off : Nat) : Nat := winBase k.val + (if k.val = 0 then 0x0001_0000 else 0) + off

/-- PWR_REQ of a cut unit (Table 16.4). -/
def cutAddr : CutUnit → Nat
  | .core i sl => ctAddr (i.val / 12) (0x0608_0000 + i.val % 12 * 0x0010_0000 + sl.val * 0x10)
  | .engine a => ctAddr a.tile.val (if a.cph then 0x0500_0080 else 0x0400_0080)
  | .quad q => itAddr (q.val / 32) (0x0108_0000 + q.val % 32 / 4 * 0x0010_0000 + q.val % 4 * 0x10)

/-- Offset of an owner's route registers: parcel block in CT0's window, or KT 0x0508_0000 for Polder (R504). -/
def routeAddr (o : Fin 17) (off : Nat) : Nat :=
  if o.val = 16 then ktAddr (0x0508_0000 + off) else ctAddr 0 (0x0700_0000 + o.val * 0x0010_0000 + off)

def islandAddr (i : Island) (off : Nat) : Nat :=
  ctAddr (i.val / 12) (0x0600_0000 + i.val % 12 * 0x0010_0000 + off)
def sliceAddr (s : Slice) (block off : Nat) : Nat := ctAddr (s.val / 6) (block + s.val % 6 * 0x0010_0000 + off)
def chanAddr (c : Chan) (off : Nat) : Nat := ctAddr (c.val / 5) (0x0300_0000 + c.val % 5 * 0x0010_0000 + off)
def queueAddr (q : Qn) (off : Nat) : Nat := itAddr (q.val / 8192) (0x0400_0000 + q.val % 8192 * 0x400 + off)
def qdmaAddr (c : Qdma) (off : Nat) : Nat := itAddr (c.val / 16) (0x0490_0000 + c.val % 16 * 0x1000 + off)
def scAddr (n : Sc) (off : Nat) : Nat := itAddr (n.val / 65536) (0x0380_0000 + n.val % 65536 * 0x40 + off)
def peAddr (e : Pe) (off : Nat) : Nat := itAddr (e.val / 32) (0x0300_0000 + e.val % 32 * 0x0004_0000 + off)
def portAddr (p : Port) (off : Nat) : Nat := itAddr (p.val / 128) (0x0200_0000 + p.val % 128 * 0x0001_0000 + off)
def engAddr (a : Acc) (off : Nat) : Nat := ctAddr a.tile.val ((if a.cph then 0x0500_0000 else 0x0400_0000) + off)
def ctxAddr (c : AccCtx) (off : Nat) : Nat :=
  engAddr ⟨c.cph, c.tile⟩ (0x0001_0000 + c.ctx.val * 0x0001_0000 + off)
def parcelAddr (p : Parcel) (off : Nat) : Nat := ctAddr 0 (0x0700_0000 + p.val * 0x0010_0000 + off)

/-- The physical address of a register (its identity line). -/
def CsReg.addr : CsReg → Nat
  | .imgStatus => ktAddr 0x0201_0000
  | .imgCtl => ktAddr 0x0201_0008
  | .ksStatus => ktAddr 0x0000_0000
  | .ksCmd => ktAddr 0x0000_0008
  | .ksWake => ktAddr 0x0000_0010
  | .tbNow => ktAddr 0x0100_0000
  | .tbFrac => ktAddr 0x0100_0008
  | .tbCtl => ktAddr 0x0100_0010
  | .tbStep => ktAddr 0x0100_0018
  | .tbCapture => ktAddr 0x0100_0020
  | .tbCmpVal n => ktAddr (0x0101_0000 + n.val * 0x0001_0000)
  | .tbCmpCfg n => ktAddr (0x0101_0008 + n.val * 0x0001_0000)
  | .ecCfg e => ktAddr (0x0111_0000 + e.val * 0x0001_0000)
  | .mcStatus => ktAddr 0x0202_0000
  | .mcCtl => ktAddr 0x0202_0008
  | .mcPkg => ktAddr 0x0202_0010
  | .pwrRelq => ktAddr 0x0000_0100
  | .pwrRelease => ktAddr 0x0000_0108
  | .pwrRelres => ktAddr 0x0000_0110
  | .pinCfg n => ktAddr (0x0500_0000 + n.val * 0x10)
  | .pinStat n => ktAddr (0x0500_0008 + n.val * 0x10)
  | .mgtStatus n => ktAddr (0x0300_0000 + n.val * 0x0080_0000)
  | .mgtPtpadj n => ktAddr (0x0300_0008 + n.val * 0x0080_0000)
  | .dbgStatus => ktAddr 0x0400_0000
  | .mcBank i => islandAddr i 0x000F_0000
  | .grpStatus i => islandAddr i 0x00
  | .grpCore i => islandAddr i 0x08
  | .grpCtl i => islandAddr i 0x10
  | .grpLast i => islandAddr i 0x18
  | .grpCount i => islandAddr i 0x20
  | .maintCtl s => sliceAddr s 0x0800_0000 0x00
  | .maintFirst s => sliceAddr s 0x0800_0000 0x08
  | .maintLast s => sliceAddr s 0x0800_0000 0x10
  | .maintStatus s => sliceAddr s 0x0800_0000 0x18
  | .cohBrlog t => ctAddr t.val 0x0280_0000
  | .cohBrcount t => ctAddr t.val 0x0280_0008
  | .cohReclaim t => ctAddr t.val 0x0280_0010
  | .sfStat s => sliceAddr s 0x0200_0000 0x00
  | .mcChstat c => chanAddr c 0x00
  | .mcRhctl c => chanAddr c 0x08
  | .mcPwr c => chanAddr c 0x10
  | .mcErrlog0 c => chanAddr c 0x18
  | .mcErrlog1 c => chanAddr c 0x20
  | .mcErrcnt c => chanAddr c 0x28
  | .mcMap t => ctAddr t.val 0x0350_0000
  | .mcMaptop t => ctAddr t.val 0x0350_0008
  | .qmQcfg q => queueAddr q 0x00
  | .qmQstat q => queueAddr q 0x08
  | .qmQevt q => queueAddr q 0x10
  | .qmQlost q => queueAddr q 0x18
  | .qmQctl q => queueAddr q 0x20
  | .qmQflushed q => queueAddr q 0x28
  | .qmQfb q => queueAddr q 0x30
  | .qmMark q => queueAddr q 0x38
  | .qmDeq q => queueAddr q 0x40
  | .qmRewind q => queueAddr q 0x48
  | .qmOpen q => queueAddr q 0x50
  | .qmClose q => queueAddr q 0x58
  | .qmEnq q u => queueAddr q (0x80 + u.val * 8)
  | .qmDeqtag t => itAddr t.val 0x0480_0000
  | .qmMstat t => itAddr t.val 0x0480_0008
  | .qmDmaaddr c => qdmaAddr c 0x00
  | .qmDmactl c => qdmaAddr c 0x08
  | .qmDmastat c => qdmaAddr c 0x10
  | .scCfg n => scAddr n 0x00
  | .scPaths n => scAddr n 0x08
  | .scLimits n => scAddr n 0x10
  | .scStart n => scAddr n 0x18
  | .scCtl n => scAddr n 0x20
  | .scStatus n => scAddr n 0x28
  | .scClaim n => scAddr n 0x30
  | .scCount n => scAddr n 0x38
  | .peStatus e => peAddr e 0x00
  | .peCount e => peAddr e 0x08
  | .portCfg p => portAddr p 0x00
  | .portStatus p => portAddr p 0x08
  | .portCtl p => portAddr p 0x10
  | .portErrcnt p => portAddr p 0x18
  | .portCfgaddr p => portAddr p 0x20
  | .portCfgdata p => portAddr p 0x28
  | .portCxlcap p => portAddr p 0x30
  | .engstat a => engAddr a 0x00
  | .cphKw t k => ctAddr t.val (0x0500_0020 + k.val * 8)
  | .ctxcfg c => ctxAddr c 0x00
  | .ctxstat c => ctxAddr c 0x08
  | .ctxcount c => ctxAddr c 0x10
  | .pwrReq u => cutAddr u
  | .pwrStat u => cutAddr u + 8
  | .prCtl p => parcelAddr p 0x00
  | .prStatus p => parcelAddr p 0x08
  | .prStart p => parcelAddr p 0x10
  | .irCtl o => routeAddr o 0x18
  | .irSend o => routeAddr o 0x20
  | .irStat o => routeAddr o 0x28
  | .irClass o k => routeAddr o (0x100 + k.val * 8)
  | .irtStat t => itAddr t.val 0x0500_0000
  | .fcStatus k => fcAddr k 0x00
  | .fcCtl k => fcAddr k 0x08
  | .fcLogHi k => fcAddr k 0x10
  | .fcLogLo k => fcAddr k 0x18
  | .fcGraveHi k => fcAddr k 0x20
  | .fcGraveLo k => fcAddr k 0x28
  | .fcLost k => fcAddr k 0x30
  | .fcInject k => fcAddr k 0x38
  | .fcParcel k p => fcAddr k (0x100 + p.val * 8)
  | .fcPstat k p => fcAddr k (0x180 + p.val * 8)

/-! ### From an address to a register -/

/-- `some` of `n` as a `Fin m` when it is in range. -/
def fin? (m n : Nat) : Option (Fin m) := if h : n < m then some ⟨n, h⟩ else none

/-- What stands at a control-space address (R23, R25). -/
inductive CsTarget where
  /-- Outside every block. -/
  | outside
  /-- In a block's span of tile `k`, with no register. -/
  | hole (k : Tile)
  | reg (k : Tile) (r : CsReg)
  deriving DecidableEq, Repr

/-- Pick the register at position `n` of a list of consecutive 8 B registers. -/
def pick (l : List CsReg) (off : Nat) : Option CsReg := if off % 8 = 0 then l[off / 8]? else none

/-- Collector registers at offset `o` of the collector's span. -/
def fcReg (k : Tile) (o : Nat) : Option CsReg :=
  if o < 0x40 then
    pick [.fcStatus k, .fcCtl k, .fcLogHi k, .fcLogLo k, .fcGraveHi k, .fcGraveLo k, .fcLost k, .fcInject k] o
  else if o < 0x100 then none
  else if o < 0x180 then (fin? 16 ((o - 0x100) / 8)).map (.fcParcel k)
  else if o < 0x200 then (fin? 16 ((o - 0x180) / 8)).map (.fcPstat k)
  else none

/-- Route registers of owner `o` at offset `off` (R504; IR_CLASS indices of its identity line). -/
def routeReg (o : Fin 17) (off : Nat) : Option CsReg :=
  if off = 0x18 then some (.irCtl o)
  else if off = 0x20 then some (.irSend o)
  else if off = 0x28 then some (.irStat o)
  else if off < 0x100 then none
  else
    match fin? 12 ((off - 0x100) / 8) with
    | some k =>
      if k.val = 0 then none
      else if o.val = 16 then (if k.val = 6 then none else some (.irClass o k))
      else if k.val ≤ 5 then some (.irClass o k) else none
    | none => none

/-- Registers of KT at window offset `off`. -/
def ktReg (off : Nat) : Option CsReg :=
  let o := off % 0x0100_0000
  match off / 0x0100_0000 with
  | 0 =>
    if 0x0001_0000 ≤ o ∧ o < 0x0001_0200 then fcReg 0 (o - 0x0001_0000)
    else if o < 0x18 then pick [.ksStatus, .ksCmd, .ksWake] o
    else if o < 0x100 then none
    else pick [.pwrRelq, .pwrRelease, .pwrRelres] (o - 0x100)
  | 1 =>
    if o < 0x28 then pick [.tbNow, .tbFrac, .tbCtl, .tbStep, .tbCapture] o
    else if o < 0x0001_0000 then none
    else if o < 0x0011_0000 then
      match fin? 16 ((o - 0x0001_0000) / 0x0001_0000) with
      | some n => pick [.tbCmpVal n, .tbCmpCfg n] (o % 0x0001_0000)
      | none => none
    else
      match fin? 6 ((o - 0x0011_0000) / 0x0001_0000) with
      | some e => pick [.ecCfg e] (o % 0x0001_0000)
      | none => none
  | 2 =>
    if o < 0x0001_0000 then none
    else if o < 0x0002_0000 then pick [.imgStatus, .imgCtl] (o - 0x0001_0000)
    else pick [.mcStatus, .mcCtl, .mcPkg] (o - 0x0002_0000)
  | 3 =>
    match fin? 2 (o / 0x0080_0000) with
    | some n => pick [.mgtStatus n, .mgtPtpadj n] (o % 0x0080_0000)
    | none => none
  | 4 => pick [.dbgStatus] o
  | 5 =>
    if o < 0x300 then
      match fin? 48 (o / 0x10) with
      | some n => pick [.pinCfg n, .pinStat n] (o % 0x10)
      | none => none
    else if o < 0x0008_0000 then none
    else if o < 0x0008_0200 then routeReg 16 (o - 0x0008_0000)
    else none
  | _ => none

/-- Registers of CTt at window offset `off`. -/
def ctReg (t : Ct) (off : Nat) : Option CsReg :=
  let o := off % 0x0100_0000
  let i := o / 0x0010_0000
  let r := o % 0x0010_0000
  match off / 0x0100_0000 with
  | 0 => fcReg ⟨1 + t.val, by omega⟩ o
  | 2 =>
    if o < 0x0080_0000 then
      if i < 6 then (fin? 24 (6 * t.val + i)).bind fun s => pick [.sfStat s] r else none
    else pick [.cohBrlog t, .cohBrcount t, .cohReclaim t] (o - 0x0080_0000)
  | 3 =>
    if i < 5 then
      (fin? 20 (5 * t.val + i)).bind fun c =>
        pick [.mcChstat c, .mcRhctl c, .mcPwr c, .mcErrlog0 c, .mcErrlog1 c, .mcErrcnt c] r
    else if i = 5 then pick [.mcMap t, .mcMaptop t] r
    else none
  | 4 =>
    if o < 0x80 then pick [.engstat ⟨false, t⟩] o
    else if o < 0x0001_0000 then pick [.pwrReq (.engine ⟨false, t⟩), .pwrStat (.engine ⟨false, t⟩)] (o - 0x80)
    else
      (fin? 8 (o / 0x0001_0000 - 1)).bind fun c =>
        pick [.ctxcfg ⟨false, t, c⟩, .ctxstat ⟨false, t, c⟩, .ctxcount ⟨false, t, c⟩] (o % 0x0001_0000)
  | 5 =>
    if o < 0x20 then pick [.engstat ⟨true, t⟩] o
    else if o < 0x40 then pick [.cphKw t 0, .cphKw t 1, .cphKw t 2, .cphKw t 3] (o - 0x20)
    else if o < 0x80 then none
    else if o < 0x0001_0000 then pick [.pwrReq (.engine ⟨true, t⟩), .pwrStat (.engine ⟨true, t⟩)] (o - 0x80)
    else
      (fin? 8 (o / 0x0001_0000 - 1)).bind fun c =>
        pick [.ctxcfg ⟨true, t, c⟩, .ctxstat ⟨true, t, c⟩, .ctxcount ⟨true, t, c⟩] (o % 0x0001_0000)
  | 6 =>
    if i < 12 then
      (fin? 48 (12 * t.val + i)).bind fun g =>
        if r < 0x28 then pick [.grpStatus g, .grpCore g, .grpCtl g, .grpLast g, .grpCount g] r
        else if r < 0x0008_0000 then none
        else if r < 0x0008_0040 then
          (fin? 4 ((r - 0x0008_0000) / 0x10)).bind fun sl =>
            pick [.pwrReq (.core g sl), .pwrStat (.core g sl)] (r % 0x10)
        else if r < 0x000F_0000 then none
        else pick [.mcBank g] (r - 0x000F_0000)
    else none
  | 7 =>
    (fin? 16 i).bind fun p =>
      if r < 0x18 then pick [.prCtl p, .prStatus p, .prStart p] r
      else if r < 0x200 then routeReg ⟨p.val, by omega⟩ r
      else none
  | 8 =>
    if i < 6 then
      (fin? 24 (6 * t.val + i)).bind fun s => pick [.maintCtl s, .maintFirst s, .maintLast s, .maintStatus s] r
    else none
  | _ => none

/-- Registers of ITt at window offset `off`. -/
def itReg (t : It) (off : Nat) : Option CsReg :=
  let o := off % 0x0100_0000
  match off / 0x0100_0000 with
  | 0 => fcReg ⟨5 + t.val, by omega⟩ o
  | 1 =>
    let m := o / 0x0010_0000
    let r := o % 0x0010_0000
    if m < 8 ∧ 0x0008_0000 ≤ r ∧ r < 0x0008_0040 then
      (fin? 128 (32 * t.val + 4 * m + (r - 0x0008_0000) / 0x10)).bind fun q =>
        pick [.pwrReq (.quad q), .pwrStat (.quad q)] (r % 0x10)
    else none
  | 2 =>
    if o / 0x0001_0000 < 128 then
      (fin? 512 (128 * t.val + o / 0x0001_0000)).bind fun p =>
        pick [.portCfg p, .portStatus p, .portCtl p, .portErrcnt p, .portCfgaddr p, .portCfgdata p, .portCxlcap p]
          (o % 0x0001_0000)
    else none
  | 3 =>
    if o < 0x0080_0000 then
      (fin? 128 (32 * t.val + o / 0x0004_0000)).bind fun e => pick [.peStatus e, .peCount e] (o % 0x0004_0000)
    else if o < 0x00C0_0000 then
      (fin? 262144 (65536 * t.val + (o - 0x0080_0000) / 0x40)).bind fun n =>
        pick [.scCfg n, .scPaths n, .scLimits n, .scStart n, .scCtl n, .scStatus n, .scClaim n, .scCount n] (o % 0x40)
    else
      -- the partner view of the other tile of the pair (R359)
      (fin? 262144 (65536 * (if t.val % 2 = 0 then t.val + 1 else t.val - 1) + (o - 0x00C0_0000) / 0x40)).bind fun n =>
        pick [.scCfg n, .scPaths n, .scLimits n, .scStart n, .scCtl n, .scStatus n, .scClaim n, .scCount n] (o % 0x40)
  | 4 =>
    if o < 0x0080_0000 then
      (fin? 32768 (8192 * t.val + o / 0x400)).bind fun q =>
        let r := o % 0x400
        if r < 0x60 then
          pick [.qmQcfg q, .qmQstat q, .qmQevt q, .qmQlost q, .qmQctl q, .qmQflushed q, .qmQfb q, .qmMark q,
            .qmDeq q, .qmRewind q, .qmOpen q, .qmClose q] r
        else if r < 0x80 then none
        else (fin? 16 ((r - 0x80) / 8)).map (.qmEnq q)
    else if o < 0x0090_0000 then pick [.qmDeqtag t, .qmMstat t] (o - 0x0080_0000)
    else if o < 0x0091_0000 then
      (fin? 64 (16 * t.val + (o - 0x0090_0000) / 0x1000)).bind fun c =>
        pick [.qmDmaaddr c, .qmDmactl c, .qmDmastat c] (o % 0x1000)
    else none
  | 5 => pick [.irtStat t] o
  | _ => none

/-- What stands at physical address `pa`, an 8 B aligned address of control space (R22 to R25). -/
def csTarget (pa : Nat) : CsTarget :=
  if pa < csBase then .outside
  else
    match fin? 9 ((pa - csBase) / 0x1_0000_0000) with
    | none => .outside
    | some k =>
      let off := (pa - csBase) % 0x1_0000_0000
      let blocks := if k.val = 0 then 6 else if k.val ≤ 4 then 9 else 6
      if off / 0x0100_0000 < blocks then
        let r :=
          if k.val = 0 then ktReg off
          else if h : k.val ≤ 4 then ctReg ⟨k.val - 1, by omega⟩ off
          else itReg ⟨k.val - 5, by omega⟩ off
        match r with
        | some q => .reg k q
        | none => .hole k
      else .outside

end Sys2Proof.Machine
end

