-- ==== Sys2Proof/Machine/Table.lean ====
section
/-! DEFINITION. Sparse tables: lists of (key, value) pairs with strictly rising keys and no entry equal to the
default of its key, so that equal tables are equal data.  Memory, the control-space registers and every record
that exists once per instance are held so. -/

namespace Sys2Proof.Machine

/-- A sparse table in canonical form: keys strictly rising, no entry equal to what an unlisted key reads as. -/
abbrev Table (V : Type) := List (Nat × V)

/-- The value at key `k`; `d` is what an unlisted key reads as. -/
def Table.get {V : Type} (d : V) : Table V → Nat → V
  | [], _ => d
  | (a, v) :: t, k => if a = k then v else Table.get d t k

/-- Remove key `k`. -/
def Table.erase {V : Type} : Table V → Nat → Table V
  | [], _ => []
  | (a, v) :: t, k => if a = k then Table.erase t k else (a, v) :: Table.erase t k

/-- List `v` under key `k`, replacing what stood there. -/
def Table.insert {V : Type} : Table V → Nat → V → Table V
  | [], k, v => [(k, v)]
  | (a, w) :: t, k, v =>
    if a = k then (k, v) :: t else if k < a then (k, v) :: (a, w) :: t else (a, w) :: Table.insert t k v

/-- Write `v` at key `k`; writing the default removes the entry. -/
def Table.set {V : Type} [DecidableEq V] (d : V) (t : Table V) (k : Nat) (v : V) : Table V :=
  if v = d then t.erase k else t.insert k v

/-- Apply `f` to the value at key `k`. -/
def Table.modify {V : Type} [DecidableEq V] (d : V) (t : Table V) (k : Nat) (f : V → V) : Table V :=
  t.set d k (f (t.get d k))

/-- Keys strictly rising. -/
def Table.sorted {V : Type} : Table V → Bool
  | [] => true
  | [_] => true
  | (a, _) :: (b, w) :: t => decide (a < b) && Table.sorted ((b, w) :: t)

/-- The canonical form. -/
def Table.wf {V : Type} [DecidableEq V] (d : V) (t : Table V) : Bool :=
  t.sorted && t.all fun e => decide (e.2 ≠ d)

end Sys2Proof.Machine
end

