-- ==== Sys2Proof/Machine/State.lean ====
section
/-! DEFINITION. The state of the module, as plain data.  Register bits that the manual stores (every field whose
Reset column is a value) stand in `State.regs` under the register's control-space address; fields marked HW (R9)
are computed from the records below.  INVENTORY.md lists every item with its rule and reset value. -/

namespace Sys2Proof.Machine

/-! ### Operating modes, power, time, fuses (chapter 3, R33, R34, R57) -/

/-- The twelve modes of Table 3.1. -/
inductive Mode where
  | off | keeper | wake | load | compose | run | degraded | quiesce | split | service | hold | zeroize
  deriving DecidableEq, Repr

/-- A transition in progress (KS_STATUS.TRANS, R65). -/
inductive Transition where
  | none
  /-- QUIESCE written, masters still stopping (R66). -/
  | quiescing
  /-- RESTORE's self-test running (R67). -/
  | restoring
  /-- The power-down sequence; `restart` when KS_CMD RESTART began it (R70). -/
  | powerDown (restart : Bool)
  deriving DecidableEq, Repr

/-- Steps of WAKE (Table 3.3). -/
inductive WakePhase where | none | powerUp | fuseSense | bist deriving DecidableEq, Repr

/-- The keeper: mode, power sequencing, wake latches, loader progress. -/
structure Keeper where
  mode : Mode
  trans : Transition
  wakePhase : WakePhase
  /-- A QUIESCE has completed and no RESUME has followed (Table 3.2). -/
  quiesced : Bool
  /-- The HOLD now in force was entered from WAKE, LOAD or COMPOSE (R563). -/
  holdFromStart : Bool
  /-- PWREN0 to PWREN3 and PGOOD0 to PGOOD3 (R69). -/
  pwren : BitVec 4
  pgood : BitVec 4
  /-- RAIL_LOST conditions that hold, by group (R511). -/
  railLost : BitVec 4
  straps : Straps
  /-- Accepted level of XWAKE (active low). -/
  xwakeHigh : Bool
  /-- Wake events latched, by KS_WAKE.CAUSE code (R80). -/
  wakeLatch : List Byte
  /-- Codes of comparators whose ZEROIZE action is latched (R79, R80). -/
  zeroLatch : List Byte
  /-- The WAKE in progress passes to ZEROIZE (R79). -/
  wakeZeroize : Bool
  /-- Timebase instants of keeper-pair mismatches within the last 1 ms (R81). -/
  mismatches : List Word
  /-- Copies tried in the current stay in LOAD: A, B (R50). -/
  triedA : Bool
  triedB : Bool
  /-- A FLASH_UPDATE since the last LOAD has written copy A (R52). -/
  wroteA : Bool
  /-- ALIVE, PPS_OUT and PPS_IN levels (R525, R76). -/
  alive : Bool
  ppsOut : Bool
  /-- Multiple of 1,000,000 ns that ALIVE crossed last, and of 1,000,000,000 ns that PPS_OUT crossed last. -/
  aliveMult : Nat
  ppsMult : Nat
  /-- TB_NOW.NS at the last rise of PPS_OUT. -/
  ppsRise : Word
  /-- ALIVE is stopped by a GRAVE message, HOLD or ZEROIZE (R525). -/
  aliveStopped : Bool
  deriving DecidableEq, Repr

/-- The timebase (R73 to R76) and the comparators' hidden state. -/
structure Timebase where
  ns : Word
  frac : BitVec 32
  /-- The 1 GHz increment is in use (R74). -/
  fast : Bool
  /-- Sum of accepted TB_STEP values not yet added (R75). -/
  step : Word
  /-- Environment comparator e fired and no sample has returned inside since (R78). -/
  ecOut : BitVec 6
  /-- Last sample of each environment comparator (EC_CFG.VALUE). -/
  ecValue : Vector (BitVec 12) 6
  deriving DecidableEq, Repr

/-- The fuse bank (R33, R34, R57). -/
structure Fuses where
  /-- Owner-key slots: digest of the key, if programmed. -/
  slots : Vector (Option (BitVec 256)) 4
  revoked : BitVec 4
  /-- Security-version fuses blown, 0 to 64. -/
  secVersion : Fin 65
  sealDigest : BitVec 512
  sealed : Bool
  deriving DecidableEq, Repr

/-! ### Images (chapter 2) and microcode packages (chapter 7) -/

/-- One record of the key manifest (R46). -/
structure KeyRec where
  role : Byte
  alg : Byte
  id : BitVec 32
  key : List Byte
  deriving DecidableEq, Repr

/-- One grant record (R39): control word, FIRST, LAST. -/
structure Grant where
  ctl : Word
  first : Word
  last : Word
  deriving DecidableEq, Repr

/-- The contents of an image's header, sections and directory digests, section words as they stand in the image
(R30, R31, R35, R38 to R47). -/
structure Image where
  seq : Word
  secVersion : BitVec 32
  /-- SHAKE256 digest of PUBKEY, 256 bits (R32). -/
  pubDigest : BitVec 256
  /-- Image digest (R32). -/
  digest : BitVec 512
  structDigest : BitVec 512
  grantDigest : BitVec 512
  worldDigest : BitVec 512
  /-- Group table, 48 words; parcel table, 16 words; port records. -/
  groups : List Word
  parcels : List Word
  ports : List Word
  grants : List Grant
  /-- The 66 words of the QoS section. -/
  qos : List Word
  /-- Header word and records of the fault policy. -/
  policy : List Word
  /-- The 8 words of the world map. -/
  world : List Word
  micro : List Byte
  keys : List KeyRec
  deriving DecidableEq, Repr

/-- An image in force: its bytes, its contents, and where it came from (IMG_STATUS.SOURCE). -/
structure RunImage where
  bytes : List Byte
  img : Image
  source : BitVec 2
  deriving DecidableEq, Repr

/-- An open management delivery (R540). -/
structure Delivery where
  session : BitVec 32
  bytes : Table Byte
  length : Nat
  deriving DecidableEq, Repr

/-- A WCS and decode-table bank (R169). -/
structure WcsBank where
  epoch : BitVec 32
  entries : List Word
  words : List Quad
  deriving DecidableEq, Repr

/-- State of the microcode rebuild (R188 to R196). -/
structure Rebuild where
  epoch : BitVec 32
  /-- MC_STATUS.STATE: 0 IDLE, 1 VERIFYING, 2 BUILDING, 3 SWAPPING. -/
  state : Fin 4
  /-- Packages in force, newest first: served parcel (0xFF every other) and package bytes (R192, R193). -/
  packages : List (Byte × List Byte)
  /-- Parcels whose cores the rebuild in progress serves. -/
  parcels : BitVec 16
  deriving DecidableEq, Repr

/-- The image loader. -/
structure Loader where
  running : Option RunImage
  /-- Image being composed (COMPOSE in progress). -/
  composing : Option RunImage
  staged : Option (List Byte)
  delivery : Option Delivery
  /-- 64 MiB and more of SPI flash; an unlisted byte reads 0xFF, erased. -/
  flash : Table Byte
  mc : Rebuild
  /-- QoS words still in force on the isolated tile: an APPLY has brought others since its isolation (R53). -/
  qosHeld : Option (List Word)
  deriving DecidableEq, Repr

/-! ### Logical cores (chapters 4 to 7, 16, 17) -/

/-- The twelve exception registers of one bank (Table 4.2). -/
structure ExcBank where
  epc : Word
  cause : Word
  info : Word
  addr : Word
  saved : Word
  vec : Word
  csd0 : Word
  csd1 : Word
  scsd0 : Word
  scsd1 : Word
  scratch0 : Word
  scratch1 : Word
  deriving DecidableEq, Repr

/-- Registers banked by world: the S bank, 0x010 to 0x014 and 0x030 to 0x035 (R87, R183, R457). -/
structure WorldBank where
  exc : ExcBank
  segtab0 : Word
  segtab1 : Word
  ptctl : Word
  ptroot : Word
  timectl : Word
  prog : Vector Word 4
  proga : Word
  progs : Word
  deriving DecidableEq, Repr

/-- The H bank and the other registers of H (Tables 4.2 and 17.1). -/
structure HypBank where
  exc : ExcBank
  h1ctl : Word
  h1root : Word
  s2ctl : Word
  s2root : Word
  toffset : Word
  vcid : Word
  deriving DecidableEq, Repr

/-- The gateway registers (Table 16.1). -/
structure Gateway where
  gwcsd0 : Word
  gwcsd1 : Word
  gatetab : Word
  pintgate : Word
  fsaved : Word
  fepc : Word
  fscsd0 : Word
  fscsd1 : Word
  gatestat : Word
  deriving DecidableEq, Repr

/-- A cached translation with its tags (R110, R457). -/
structure TlbEntry where
  /-- A stage-2 translation: `base` is then a guest-physical address. -/
  stage2 : Bool
  parcel : BitVec 4
  /-- Guest number when made while GV was 1. -/
  guest : Option Byte
  polder : Bool
  /-- Made at H, under H1CTL. -/
  atH : Bool
  asid : BitVec 16
  global : Bool
  /-- Page base and log2 of the page size. -/
  base : Word
  size : Nat
  frame : Word
  uncached : Bool
  user : Bool
  r : Bool
  w : Bool
  x : Bool
  dirty : Bool
  deriving DecidableEq, Repr

/-- A released store that waits for ownership of its line (R243). -/
structure StoreEntry where
  addr : Nat
  data : List Byte
  deriving DecidableEq, Repr

/-- A message waiting at a group gate (R205, R483, R487). -/
inductive GateMsg where
  /-- Vector into a pending set: 0 HOST_S, 1 HOST_H, 2 GUEST, 3 POLDER; source class and instance. -/
  | vector (set : Fin 4) (vec : BitVec 11) (cls : Byte) (inst : BitVec 18)
  /-- NOTIFY(PDESC, DB_VEC) with the class and instance of the posted message (R486). -/
  | notify (pdesc : Nat) (vec : BitVec 11) (cls : Byte) (inst : BitVec 18)
  deriving DecidableEq, Repr

/-- Pending vectors of one set, each with the source class and instance that set it, where known (R483). -/
abbrev PendSet := Table (Option (Byte × BitVec 18))

/-- Why a logical core is stopped; it executes only when every entry is false. -/
structure Stops where
  /-- Waits for PR_START.VALID after a reset (R492). -/
  start : Bool
  /-- Stopped as under R118: CORE_DOUBLE_FAULT, MC_STACK, MC_ORDER, MC_OVERRUN. -/
  fatal : Bool
  quiesce : Bool
  frozen : Bool
  debug : Bool
  clockCut : Bool
  /-- Stopped by its parcel's reset (R493). -/
  reset : Bool
  migrating : Bool
  /-- Stopped at its checkpoint with no target (R228). -/
  hard : Bool
  /-- Agent death (R217, R235). -/
  lost : Bool
  /-- Paused by a REJOIN (R220). -/
  rejoin : Bool
  deriving DecidableEq, Repr

/-- Stop requests delivered as synchronisation events and not yet acted on (R207). -/
structure StopReqs where
  quiesce : Bool
  debug : Bool
  clockCut : Bool
  reset : Bool
  migrate : Bool
  deriving DecidableEq, Repr

/-- A far atomic in flight to its home slice (R292, R293). -/
structure FarReq where
  op : AtomicOp
  d : Reg
  addr : Nat
  operand : Word
  compare : Word
  /-- The instruction word. -/
  word : BitVec 32
  /-- The location is uncached (R138). -/
  uncached : Bool
  nacked : Bool
  deriving DecidableEq, Repr

/-- A translation latch of a micro-routine (R172, R178): segment, linear range, its physical pieces, rights. -/
structure Latch where
  seg : Nat
  first : Nat
  size : Nat
  /-- Physical address, length, uncached. -/
  pieces : List (Nat × Nat × Bool)
  r : Bool
  w : Bool
  deriving DecidableEq, Repr

/-- A custom micro-routine between two of its segments (R171 to R184). -/
structure MicroSt where
  /-- Instruction word, its offset, and the bank that decoded it (R190). -/
  word : BitVec 32
  pc : Word
  bank : Bool
  addr : Nat
  t : List Word
  stack : List Nat
  z : Bool
  n : Bool
  c : Bool
  v : Bool
  engDone : Bool
  engErr : Bool
  poison : Bool
  resuming : Bool
  lb0 : List Byte
  lb1 : List Byte
  /-- Address of the line that a LOAD of all 128 bytes has filled LB0 from. -/
  lbAddr : Option Nat
  deriving DecidableEq, Repr

/-- Progress of a ROM routine as the module wrote it to PROG0 to PROG3 (R183). -/
structure Progress where
  /-- The four register values. -/
  regs : List Word
  word : BitVec 32
  operands : List Quad
  iter : Nat
  bytes : List Byte
  deriving DecidableEq, Repr

/-- One logical core (R84, R139, R183, R483). -/
structure LCore where
  g : Vector Word 32
  f : Vector Quad 32
  seg : Vector Quad 32
  pc : Word
  csd : Quad
  psw : Word
  fore : WorldBank
  pold : WorldBank
  hyp : HypBank
  gw : Gateway
  fpsr : Word
  fpcr : Word
  fpxr : Word
  fpxa : Word
  /-- Instructions retired since the recorded trapping operation (R161). -/
  fpCount : Nat
  /-- Reserved line (R139), and whether its hold is still in force (R141). -/
  resv : Option LineNo
  resvHold : Bool
  pendS : PendSet
  pendH : PendSet
  pendG : PendSet
  pendP : PendSet
  gate : List GateMsg
  stops : Stops
  reqs : StopReqs
  /-- A halt held until SLUICE.X (R546). -/
  heldHalt : Bool
  /-- In WAIT (R90). -/
  waiting : Bool
  /-- The STORE at `pc` waits for the response to its control-space write at this address (R26, R340). -/
  ioWait : Option Nat
  tlb : List TlbEntry
  /-- Table lines read by the walks of the word in execution, asked for as it retires (R246). -/
  walked : List LineNo
  storeBuf : List StoreEntry
  /-- Contention predictor: 256 two-bit counters (R291). -/
  contention : Table (BitVec 2)
  far : Option FarReq
  /-- WCS banks 0 and 1, the active one, and whether the inactive one awaits the swap (R189). -/
  bank0 : WcsBank
  bank1 : WcsBank
  activeBank : Bool
  bankPend : Bool
  /-- A MACHINE_CHECK of poison met after a commit, that an FP_TRAP has displaced: physical address, the offset at which
  it is due, the word (R161, R178). -/
  lateCheck : Option (Nat × Word × BitVec 32)
  /-- Micro-address at which a segment in execution has run past 512 micro-cycles since its COMMIT (R179). -/
  overrun : Option (BitVec 16)
  /-- A custom routine that stands between two of its segments. -/
  micro : Option MicroSt
  breakpoints : List Word
  /-- Slot that hosts the core (R474, R478); none before COMPOSE. -/
  host : Option Slot
  /-- Source IDs and addresses frozen on: the denied address (R60). -/
  deniedAddr : Nat
  deriving DecidableEq, Repr

/-! ### Group islands (chapter 8) -/

/-- Roles of Table 8.1. -/
inductive Role where
  | unassigned | replica | simplex | ownSleeper | poolSleeper | rejoining | held | failed
  deriving DecidableEq, Repr

/-- Resynchronisation phase of a physical core (Table 8.6). -/
inductive Phase where | none | wake | test | invalidate | mirror | wait deriving DecidableEq, Repr

/-- What strikes a physical core at one retirement (R213, R226): an error of the silicon, which comes from outside the
manual's rules, or the inversion that GRP_CTL INJECT asks for (log entry 113). -/
inductive RetUpset where
  | none
  /-- Bit `b` of the retire record of Table 8.5, from its first bit on, differs. -/
  | record (b : Nat)
  /-- The retire signature differs in these bits. -/
  | signature (mask : Word)
  /-- The outputs that the instruction presents differ in these bits (R212). -/
  | output (mask : Nat)
  /-- A residue or parity check fails, in a simplex core (R226). -/
  | check
  /-- The fetch of a microword at this address reports an error, corrected or uncorrectable, if the instruction runs in
  microcode (R170). -/
  | micro (ue : Bool) (addr : BitVec 16)
  deriving DecidableEq, Repr

/-- One physical core of an island. -/
structure PCore where
  role : Role
  slot : Fin 4
  lc : Option Lc
  gated : Bool
  phase : Phase
  /-- REJOIN attempts made in the current resynchronisation (R221). -/
  attempts : Nat
  /-- Marked odd: its outputs are ignored (R216). -/
  odd : Bool
  /-- What strikes its next retirements, the next one first (log entry 113). -/
  upsets : List RetUpset
  /-- How its next outputs to the ring differ from the right ones, the next one first; 0 not at all (R212). -/
  outUpsets : List Nat
  /-- Passed the built-in self-test of the last COMPOSE. -/
  passed : Bool
  /-- Target of a migration in progress. -/
  target : Bool
  /-- A replica that SPLIT held and that has not rejoined (R237). -/
  fromHeld : Bool
  /-- Its two banks of control store and decode table, which those of its logical core equal while it serves (R169, R189,
  R192). -/
  bank0 : WcsBank
  bank1 : WcsBank
  deriving DecidableEq, Repr

/-- SLOT_STATE codes of GRP_STATUS. -/
inductive SlotSt where | none | full | reduced | resync | migrating | split | stopped | lost
  deriving DecidableEq, Repr

/-- One slot: its logical core, configured width (replicas), state, and the physical cores of its positions in
order of stagger (R203). -/
structure IslSlot where
  lc : Option Lc
  width : Nat
  st : SlotSt
  positions : List (Fin 4)
  deriving DecidableEq, Repr

/-- One group island. -/
structure Isl where
  layout : BitVec 2
  slots : Vector IslSlot 4
  cores : Vector PCore 4
  voterOk : BitVec 3
  /-- Voter copies out of service until the next COMPOSE (R234). -/
  voterDead : BitVec 3
  /-- Voter copies whose rails fail the self-check pattern, which is an error of the silicon (R234; log entry 113). -/
  voterBad : BitVec 3
  timeReg : Word
  deriving DecidableEq, Repr

/-- A migration in progress (R229). -/
structure Migration where
  lc : Lc
  source : Option Slot
  target : Slot
  /-- Replicas of the target. -/
  width : Nat
  migSlice : Slice
  deriving DecidableEq, Repr

/-! ### Caches and coherence (chapters 9 and 10) -/

inductive Moesi where | m | o | e | s deriving DecidableEq, Repr

/-- A line in a holder's L2 (R250, R257); L1 copies are listed apart. -/
structure CLine where
  line : LineNo
  st : Moesi
  data : Line
  poison : Bool
  way : Nat
  age : Nat
  /-- Inserted by a streaming fill and not hit since (R258). -/
  stream : Bool
  deriving DecidableEq, Repr

/-- A line in L1I or L1D, with its way and recently-used bit (R257). -/
structure L1Line where
  line : LineNo
  way : Nat
  used : Bool
  deriving DecidableEq, Repr

/-- A PREFETCH entry of a side buffer (R245). -/
structure PfLine where
  line : LineNo
  data : Line
  poison : Bool
  fetch : Bool
  stream : Nat
  deriving DecidableEq, Repr

/-- A prefetch request issued and not yet filled (R249). -/
structure PfReq where
  line : LineNo
  stream : Nat
  deriving DecidableEq, Repr

/-- What one holder slot keeps: L2, L1D, L1I, PREFETCH entries, evictions on their way home. -/
structure Holder where
  l2 : List CLine
  l1d : List L1Line
  l1i : List L1Line
  side : List PfLine
  pfReqs : List PfReq
  /-- Evicted lines whose WRITEBACK or EVICT_CLEAN has not been served; `M`, `O` dirty. -/
  evict : List CLine
  /-- Lines promoted in a row, by prefetch stream (R258). -/
  streams : Table Nat
  /-- The prefetcher's streams: the line that each retired load or fetch reached last, most recent first (R249). -/
  trained : List LineNo
  /-- Errors of the caches that no access has met: errors of the silicon, which come from outside the manual's rules (R254;
  log entry 113). -/
  errs : List RetireEvent
  deriving DecidableEq, Repr

/-- A line of a basin slice (R250, R257, R261). -/
structure BLine where
  line : LineNo
  data : Line
  dirty : Bool
  poison : Bool
  way : Nat
  age : Nat
  deriving DecidableEq, Repr

/-- A snoop-filter entry (Table 10.1). -/
structure SfEntry where
  line : LineNo
  way : Nat
  loc : BitVec 48
  remote : BitVec 4
  owner : BitVec 6
  ostate : BitVec 2
  pin : Bool
  age : Nat
  deriving DecidableEq, Repr

/-- Request kinds at a home slice (Table 10.2). -/
inductive ReqKind where
  | readShared | prefetch | readOwn | upgrade | writeback | evictClean | farAtomic | peek | invWrite | maint | cancel
  deriving DecidableEq, Repr

/-- A snoop sent to one holder slot and its answer (R277, R278). -/
structure SnoopMsg where
  slot : Slot
  kind : Snoop
  starving : Bool
  /-- Answer given, and the holder's state before it; dirty data has gone to memory with it. -/
  answer : Option (SnoopAnswer × Option Moesi)
  /-- The answer has reached the home slice. -/
  received : Bool
  deriving DecidableEq, Repr

/-- An open transaction of a home slice (R280). -/
structure Txn where
  line : LineNo
  req : Requester
  kind : ReqKind
  snoops : List SnoopMsg
  /-- State that the requester receives (R279). -/
  grant : Moesi
  /-- The requester has received it. -/
  delivered : Bool
  /-- Dirty data that an answer or a writeback has brought, with its mark, to be forwarded to the requester (R278, R283). -/
  data : Option (Line × Bool)
  /-- The request waits for a back-invalidation of this line to close (R289). -/
  backInv : Option LineNo
  deriving DecidableEq, Repr

/-- An outstanding request of a requester, with its retry age (R284). -/
structure Outstanding where
  req : Requester
  line : LineNo
  kind : ReqKind
  age : Nat
  starving : Bool
  /-- NACKed, and to be resent. -/
  nacked : Bool
  /-- The instruction behind it was discarded (R287). -/
  dropped : Bool
  /-- An instruction fetch: the line goes to L1I (R242). -/
  fetch : Bool
  /-- A store of an MVL iteration: the line is a streaming fill (R258). -/
  stream : Bool
  deriving DecidableEq, Repr

/-- A running maintenance operation of one engine (R265). -/
structure MaintOp where
  op : BitVec 2
  discard : Bool
  first : LineNo
  last : LineNo
  /-- Slice that issued it (R269) and the owner of the starting access: 0 to 15 parcel, 16 Polder, 17 keeper. -/
  issuer : Slice
  owner : Fin 18
  poisoned : Bool
  lines : Nat
  /-- Lines of the range found at the start instant and not yet acted on, in ascending set order (R267, R270). -/
  todo : List LineNo
  /-- Those of them that a request or a write after the start instant has reached (R267). -/
  touched : List LineNo
  finished : Bool
  deriving DecidableEq, Repr

/-- A dirty basin victim in transit, and the fill it holds back (R263). -/
structure Victim where
  old : BLine
  fill : BLine
  deriving DecidableEq, Repr

/-- One home slice: basin, snoop filter, transactions, starvation table, maintenance engine, migration slot. -/
structure SliceSt where
  basin : List BLine
  sf : List SfEntry
  txns : List Txn
  starve : List (LineNo × Requester)
  victims : List Victim
  maint : Option MaintOp
  migSlot : Option Lc
  /-- State record of the migrating core (R229, R230): the core's state as written. -/
  migRecord : Option LCore
  /-- A read of the state record meets an uncorrectable error (R230; log entry 113). -/
  recordBad : Bool
  /-- Sets in which a fill waits for room among the victims in transit (R264). -/
  waitSets : List Nat
  /-- Errors of basin lines that no access has met, uncorrectable ones `true`: errors of the silicon (R254; log entry 113). -/
  errs : List (LineNo × Bool)
  deriving DecidableEq, Repr

/-- Coherence state of one compute tile besides the slices: the breach log and reclamation progress. -/
structure CtSt where
  /-- COH_BRLOG, oldest first. -/
  brlog : List Word
  /-- Lines breached by each reclamation whose scan has not ended, oldest first (R299); COH_RECLAIM.BUSY while there is
  one, and SLICES_DONE. -/
  reclaims : List Nat
  slicesDone : BitVec 6
  /-- Ring slots claimed in the current window: ring × parcel (R500). -/
  ringUsed : Table Nat
  deriving DecidableEq, Repr

/-! ### DDR5 channels (chapter 11) -/

/-- MC_CHSTAT.STATE. -/
inductive ChState where | absent | training | active | selfRefresh | retraining | failed | untrained | unused
  deriving DecidableEq, Repr

/-- Self-refresh progress of a channel (R322). -/
inductive SrPhase where | none | entering | exiting deriving DecidableEq, Repr

/-- A write-queue entry: line, byte mask, data, breach mark, issued to DRAM (R314, R315), and what the read of a partial
write will meet (R316). -/
structure WqEntry where
  line : LineNo
  mask : BitVec 128
  data : Line
  poison : Bool
  issued : Bool
  ev : DramEvent
  deriving DecidableEq, Repr

/-- One DDR5 channel. -/
structure ChanSt where
  st : ChState
  dimm : Option Dimm
  rate : Fin 6
  hot : Bool
  sr : SrPhase
  readQ : List LineNo
  writeQ : List WqEntry
  /-- Open row of each bank, by bank number. -/
  openRow : Table (Option Nat)
  /-- Postponed refreshes of each bank (R319). -/
  postponed : Table Nat
  /-- Rolling accumulated ACT counter of each bank (R321). -/
  raa : Table Nat
  /-- Pending neighbour refreshes of each bank (R320). -/
  neighbours : Table (List Nat)
  lfsr : BitVec 32
  /-- MC_ERRLOG entries, oldest first: words 0 and 1 (R329). -/
  errlog : List (Word × Word)
  /-- The write that waits for CS/CA retraining (R327). -/
  caWrite : Option WqEntry
  /-- Lines whose read the registering clock driver has rejected twice: the read answers with poisoned data (R327). -/
  caPoison : List LineNo
  zeroed : Bool
  /-- Bursts served per parcel in the current window, and in all (R499). -/
  served : Table Nat
  burstTotal : Nat
  deriving DecidableEq, Repr

/-- Memory map and pair buffer of one compute tile (R308 to R310, R317). -/
structure MapSt where
  popErr : Bool
  stripe : Bool
  /-- C_t in 64 MiB granules. -/
  granules : Nat
  pairBuf : List LineNo
  deriving DecidableEq, Repr

/-! ### Queues (chapter 12) -/

/-- A queue word: data, tag (Table 12.1), and whether it stands in the spill region. -/
structure QWord where
  data : Word
  tag : Byte
  spilled : Bool
  deriving DecidableEq, Repr

inductive HeldKind where | enq (user : BitVec 4) | open | close deriving DecidableEq, Repr

/-- A write held at the manager (R340). -/
structure HeldWrite where
  m : Master
  kind : HeldKind
  data : Word
  /-- A poisoned record of a queue DMA channel (R356). -/
  poison : Bool
  deriving DecidableEq, Repr

/-- One queue. -/
structure QSt where
  /-- Read words that the mark retains, then unread words, oldest first. -/
  retained : List QWord
  words : List QWord
  mark : Bool
  markLost : Bool
  /-- Opener of the open packet and the number of words after its slot (R344, R345). -/
  opener : Option (Master × Nat)
  /-- Masters whose QM_ENQ words are discarded after an abort (R348). -/
  aborted : List Master
  held : List HeldWrite
  /-- Position, counted from enabling, of the oldest word kept (R338). -/
  pos : Nat
  deriving DecidableEq, Repr

/-- A queue DMA channel (R356). -/
structure QdmaSt where
  busy : Bool
  drain : Bool
  queue : Option Qn
  addr : Nat
  left : Nat
  frozen : Bool
  deriving DecidableEq, Repr

/-- The tag latch of one master at one manager (R343). -/
structure TagLatch where
  tile : It
  m : Master
  index : BitVec 13
  tag : Byte
  deriving DecidableEq, Repr

/-! ### Channel subsystem (chapter 13) -/

/-- The start parameters of Table 13.2. -/
structure StartBlock where
  orderList : Word
  statusAddr : Word
  queue : BitVec 15
  qv : Bool
  user : BitVec 4
  param : Word
  deriving DecidableEq, Repr

/-- An exchange in flight (R370, R415). -/
structure Exchange where
  path : Fin 8
  /-- Address of its order. -/
  order : Word
  op : Byte
  tag : Word
  claim : BitVec 32
  count : Nat
  /-- Scatter elements: address and length. -/
  elems : List (Nat × Nat)
  shortOk : Bool
  last : Bool
  /-- Bytes received (READ, SENSE). -/
  received : Nat
  /-- ESTABLISH sent and not answered; the ORDER follows (R387). -/
  establishing : Bool
  addrError : Bool
  /-- Outgoing data aborted, with the code the list then ends with (R365). -/
  aborted : Option Byte
  deriving DecidableEq, Repr

/-- SC_STATUS.STATE. -/
inductive ScState where | disabled | idle | running | parked | clearing deriving DecidableEq, Repr

/-- One subchannel: the store records of both tiles, the engine's view, the writer's view. -/
structure ScSt where
  st : ScState
  start : Option StartBlock
  /-- Latest record in the owning tile's store and in the partner's (R358, R372). -/
  ownRec : Option MirrorRec
  partnerRec : Option MirrorRec
  /-- Record sent to the standby and not acknowledged (R372). -/
  sent : Option MirrorRec
  /-- Record received by the standby and not yet acknowledged to the engine. -/
  stored : Bool
  active : Option (Fin 8)
  standby : Option (Fin 8)
  /-- Engine that holds the current claim, engine that asks for a new one, and a revocation in progress (R375). -/
  holder : Option Pe
  asking : Option Pe
  revoking : Bool
  /-- 0 none, 1 NO_PATH, 2 RESET. -/
  parkCause : Fin 3
  /-- Paths that failed and whose hold-off has not ended (R367). -/
  holdoff : BitVec 8
  exch : Option Exchange
  nextOrder : Word
  moved : Word
  lastResidual : BitVec 32
  lastDevstat : Byte
  lastOrder : Word
  lastTag : Word
  nonExchange : Nat
  takeover : Bool
  /-- An ESTABLISH must precede the next first exchange (R387). -/
  needEstablish : Bool
  /-- CLEAR taken and not yet effective; disabling follows when `disableAfter` (R360, R392). -/
  clearing : Bool
  disableAfter : Bool
  /-- Completion posted to the writer: code and INDOUBT (R376). -/
  post : Option (Byte × Bool)
  /-- HANDOVER sent to the engine of path k and not received (R379, R388); true for a revert. -/
  handoverTo : Option (Fin 8 × Bool)
  /-- The ORDER of the exchange that the next tag names has been sent (R390). -/
  orderSent : Bool
  /-- The latest heartbeat of the running engine carried FROZEN (R373, R379). -/
  beatFrozen : Bool
  /-- No completion of list SC_CLAIM.LIST has been accepted (R376). -/
  listOpen : Bool
  deriving DecidableEq, Repr

/-- A path engine. -/
structure PeSt where
  failed : Bool
  frozen : Bool
  /-- Stopped by a parcel reset (R493). -/
  stopped : Bool
  /-- Subchannels that are ready while 512 exchanges are in flight, in order of readiness (R369). -/
  waiting : List Sc
  deriving DecidableEq, Repr

/-! ### Ports (chapter 14) -/

/-- PORT_STATUS.STATE. -/
inductive PortState where | absent | disabled | training | active | contained deriving DecidableEq, Repr

/-- Training states of Table 14.7; `waiting` is the 1 s after a failure (R412). -/
inductive Training where | none | reset | detect | equalize | align | ident | waiting deriving DecidableEq, Repr

/-- One port. -/
structure PortSt where
  st : PortState
  train : Training
  twidth : BitVec 4
  rate : BitVec 4
  flit : Bool
  reversed : Bool
  /-- Containment cause FIREWALL (else DPC). -/
  causeFw : Bool
  /-- Contained by a full dropped-line table until COMPOSE (R410). -/
  deadUntilCompose : Bool
  peerRxWin : BitVec 16
  /-- Training has failed since the port was last ACTIVE (R422). -/
  failedOnce : Bool
  /-- LSEQ expected, next LSEQ to send, oldest unacknowledged LSEQ (R416). -/
  rxNext : BitVec 16
  txNext : BitVec 16
  txAcked : BitVec 16
  /-- Unacknowledged frames, oldest first, with how often each was sent (R419). -/
  unacked : List (Frame × Nat)
  /-- Frames waiting for window, then frames sent to the link partner in order. -/
  txWait : List Frame
  out : List Frame
  /-- Sequenced frames accepted and not yet acted on by the channel layer. -/
  rxQueue : List Frame
  /-- Time of the latest NAK, until the expected frame arrives (R417). -/
  nakAt : Option Word
  ackOwed : Bool
  /-- Mapped capacity in 256 MiB units (PORT_CXLCAP). -/
  cxlUnits : Nat
  /-- Dropped-line table (R410). -/
  dropped : List LineNo
  /-- Inbound requests are held by a parcel reset (Table 17.6). -/
  inboundHeld : Bool
  /-- Quad power cut (R471). -/
  powerCut : Bool
  deriving DecidableEq, Repr

/-! ### Engines (chapter 15) -/

/-- CTXSTAT.STATE. -/
inductive CtxState where | disabled | idle | running | waitingCq | frozen | stopping deriving DecidableEq, Repr

/-- One accelerator context. -/
structure CtxSt where
  st : CtxState
  block : Nat
  /-- USER of the request word (R436). -/
  user : BitVec 4
  /-- Response word waiting for room in CQ. -/
  response : Option Word
  owner : Fin 17
  deriving DecidableEq, Repr

/-- An instruction slot: the request block and the CMPX or CIPH destination (R432). -/
structure AccSlot where
  busy : Bool
  block : Nat
  /-- World of the core when it submitted the chunk (R427). -/
  polder : Bool
  /-- The request that a SUBMIT handed over; of CMPX and CIPH it stands in the block (R172, R432). -/
  req : Option (List Byte)
  /-- SUBMITs that wait for the slot, oldest first: block, request, world. -/
  queue : List (Nat × List Byte × Bool)
  deriving DecidableEq, Repr

/-- One engine. -/
structure AccSt where
  failed : Bool
  kw : BitVec 256
  kwWords : Vector Word 4
  /-- Deficit of each owner, in ns (R502). -/
  deficit : Table Int
  deriving DecidableEq, Repr

/-! ### Clock and power cuts (chapter 16) -/

/-- A unit's cut state (PWR_STAT). -/
inductive CutState where | on | deferred | clockCut | powerCut deriving DecidableEq, Repr

/-- A deferred cut (R472): unit, cut wanted (1 CLOCK, 2 POWER), requesting parcel, still in PWR_RELQ. -/
structure CutReq where
  target : CutUnit
  cmd : BitVec 4
  parcel : Parcel
  queued : Bool
  deriving DecidableEq, Repr

/-! ### Interrupt messages (chapter 17) and faults (chapter 18) -/

/-- An interrupt message raised and not yet routed (R480). -/
structure IrqMsg where
  cls : Byte
  inst : BitVec 18
  event : BitVec 11
  polder : Bool
  /-- Owner whose route table serves it: 0 to 15 parcel, 16 Polder or no one. -/
  owner : Fin 17
  /-- For a message of IR_SEND, the route entry that it carries in place of a table's (R489). -/
  sent : Option (Word × Word)
  deriving DecidableEq, Repr

/-- A pair of route and vector in a storm table (R490). -/
structure StormPair where
  owner : Fin 17
  msg : IrqMsg
  deriving DecidableEq, Repr

/-- A parcel reset in progress (R493). -/
structure PrSt where
  step : Fin 8
  waitPolder : Bool
  consented : Bool
  deriving DecidableEq, Repr

/-- Messages of one fault source waiting for the ring, oldest first, and drops since the last delivery (R508). -/
structure SrcBuf where
  msgs : List Quad
  lost : Nat
  deriving DecidableEq, Repr

/-- A counter of a collector (R514, R515): pair, window exponent and threshold in force, window, count. -/
structure Counter where
  src : BitVec 16
  kind : Byte
  n : Nat
  w : Nat
  window : Nat
  count : Nat
  deriving DecidableEq, Repr

/-- One tile fault collector. -/
structure ColSt where
  /-- FC_LOG, oldest first. -/
  log : List Quad
  counters : List Counter
  /-- JUNCTION_RANGE active (R511); RAIL_LOST stands in `Keeper.railLost`. -/
  junction : Bool
  stopped : Bool
  /-- Promoted messages not yet signalled to their source blocks (R516). -/
  promoted : List Quad
  deriving DecidableEq, Repr

/-- One input pin (R526 to R529). -/
structure PinSt where
  active : Bool
  rateWindow : Nat
  rateCount : Nat
  deriving DecidableEq, Repr

/-! ### Management and JTAG (chapter 19) -/

/-- Progress of a session (R535). -/
inductive SessPhase where | challenged | open | recovery deriving DecidableEq, Repr

/-- A management session. -/
structure Sess where
  id : BitVec 32
  keyId : BitVec 32
  phase : SessPhase
  via : Transport
  /-- Transcript of the handshake and the shared secret. -/
  transcript : List Byte
  secret : List Byte
  /-- SEQ values accepted, newest first, within the replay window; next SEQ to send (R537). -/
  seen : List Word
  txSeq : Word
  /-- Stored responses of the last 16 requests: REQ_ID, RESULT, data (R538). -/
  responses : List (Word × Byte × List Byte)
  deriving DecidableEq, Repr

/-- An authenticated request waiting for the keeper (R538). -/
structure QueuedReq where
  session : BitVec 32
  reqId : Word
  op : BitVec 16
  args : List Byte
  deriving DecidableEq, Repr

/-- What the module sent on its management ports: session, TYPE, REQ_ID, RESULT, data.  An answer to an MCTP control
message has session and TYPE 0. -/
structure MgtOut where
  session : BitVec 32
  type : Byte
  reqId : Word
  result : Byte
  data : List Byte
  deriving DecidableEq, Repr

/-- JTAG instruction register contents (R545); `debug`: a debug instruction of R546. -/
inductive TapIr where | bypass | idcode | samplePreload | extest | clamp | highz | debug deriving DecidableEq, Repr

/-- Management endpoint, debug unlock and TAP. -/
structure Mgmt where
  sessions : List Sess
  queue : List QueuedReq
  out : List MgtOut
  /-- Port in use, and link levels of MGT0 and MGT1 (R532). -/
  active : Option (Fin 2)
  link : BitVec 2
  eid : Byte
  /-- Global address prefixes formed by SLAAC (R531). -/
  prefixes : List Word
  /-- Unsolicited Neighbor Advertisements sent (R532). -/
  advertised : Nat
  /-- Last PTP timestamp of each MAC (R533). -/
  ptp : Vector Word 2
  /-- Identity keys derived and not erased (R543, R82). -/
  keysValid : Bool
  /-- Retained fault messages with the parcel each is attributed to, oldest first, and the next index (R541). -/
  log : List (Quad × Option Parcel)
  logNext : Nat
  /-- TB_NOW.NS at which the debug unlock in force ends (R546). -/
  unlockEnd : Nat
  /-- TAP instruction last loaded. -/
  tapIr : TapIr
  /-- Boundary-scan register. -/
  bsr : List Bool
  /-- What the data register that the last TAP instruction selects holds. -/
  tapDr : Quad
  deriving DecidableEq, Repr

/-! ### Accesses -/

/-- How an access of a master ended (R26, R60, R340). -/
inductive Resp where
  | ok
  | data (w : Word)
  | bytes (b : List Byte)
  | poison
  | error
  | frozen
  | held
  deriving DecidableEq, Repr

/-! ### The state -/

/-- The state of the module. -/
structure State where
  /-- Commands waiting, first in, first out. -/
  pending : List Instr
  keeper : Keeper
  tb : Timebase
  fuses : Fuses
  loader : Loader
  /-- Stored bits of every control-space register, by physical address (R5 to R9). -/
  regs : Table Word
  /-- Memory: local DRAM and CXL pool memory, byte by byte; an unlisted byte reads 0 (R330). -/
  mem : List Host.Cell
  /-- Lines whose memory location holds the breach mark or the poison code, rising (R300, R324). -/
  poison : List Nat
  lcs : Table LCore
  isls : Table Isl
  migrations : List Migration
  holders : Table Holder
  slices : Table SliceSt
  cts : Table CtSt
  outReqs : List Outstanding
  chans : Table ChanSt
  maps : Table MapSt
  queues : Table QSt
  qdma : Table QdmaSt
  tags : List TagLatch
  scs : Table ScSt
  pes : Table PeSt
  /-- Mirror links IT0/IT1 and IT2/IT3 are up (R373). -/
  mirrorUp : BitVec 2
  ports : Table PortSt
  ctxs : Table CtxSt
  slots : Table AccSlot
  accs : Table AccSt
  cuts : Table CutState
  cutReqs : List CutReq
  /-- Raised interrupt messages of each tile, oldest first (R481). -/
  irqs : Table (List IrqMsg)
  storms : Table (List StormPair)
  /-- Tokens missing from each route's bucket, by route table, class and instance (R490). -/
  buckets : Table Nat
  resets : Table PrSt
  srcBufs : Table SrcBuf
  cols : Table ColSt
  pins : Table PinSt
  mgmt : Mgmt
  /-- The latest response to each master. -/
  resps : List (Master × Resp)
  /-- MODEL FIELD: every progress value that ROM routines have written to PROG0 to PROG3, newest first. -/
  progress : List Progress
  /-- MODEL FIELD: how many free values have been drawn (see the assumption log). -/
  free : Nat
  deriving DecidableEq, Repr

/-! ### Initial values (State.reset: right after the power-on reset, in KEEPER) -/

/-- The flat descriptor of R103: VALID 1, WORLD `w`, FLOOR U, R W X 1, LIMIT 2^57 - 1, BASE 0. -/
def flatDesc (w : Bool) : Quad :=
  (if w then 0xCE000000000000000000000000000000 else 0x8E000000000000000000000000000000 : Quad) |||
    ((0x01FFFFFFFFFFFFFF : Quad) <<< 64)

def Straps.init : Straps := ⟨false, 0, 0, 0, false⟩

def Keeper.init : Keeper where
  mode := .keeper
  trans := .none
  wakePhase := .none
  quiesced := false
  holdFromStart := false
  pwren := 0
  pgood := 0
  railLost := 0
  straps := Straps.init
  xwakeHigh := true
  wakeLatch := []
  zeroLatch := []
  wakeZeroize := false
  mismatches := []
  triedA := false
  triedB := false
  wroteA := false
  alive := false
  ppsOut := false
  aliveMult := 0
  ppsMult := 0
  ppsRise := 0
  aliveStopped := false

def Timebase.init : Timebase := ⟨0, 0, false, 0, 0, Vector.replicate 6 0⟩

/-- Slot 0 holds the digest programmed at manufacture, any value (R33). -/
def Fuses.init : Fuses := ⟨(Vector.replicate 4 none).set 0 (some Config.ownerDigest), 0, 0, 0, false⟩

def Rebuild.init : Rebuild := ⟨0, 0, [], 0⟩

def Loader.init : Loader := ⟨none, none, none, none, [], Rebuild.init, none⟩

def ExcBank.init : ExcBank := ⟨0, 0, 0, 0, 0, 0, 0, 0, 0, 0, 0, 0⟩

/-- PTCTL resets with LV5 = 1, TIMECTL with UTIME = 1 (Table 4.2). -/
def WorldBank.init : WorldBank := ⟨ExcBank.init, 0, 0, 2, 0, 1, Vector.replicate 4 0, 0, 0⟩

/-- H1CTL and S2CTL have PTCTL's layout, so LV5 = 1. -/
def HypBank.init : HypBank := ⟨ExcBank.init, 2, 0, 2, 0, 0, 0⟩

def Gateway.init : Gateway := ⟨0, 0, 0, 0, 0, 0, 0, 0, 0⟩

def Stops.none : Stops := ⟨false, false, false, false, false, false, false, false, false, false, false⟩

def StopReqs.none : StopReqs := ⟨false, false, false, false, false⟩

def WcsBank.init : WcsBank := ⟨0, [], []⟩

def LCore.init : LCore where
  g := Vector.replicate 32 0
  f := Vector.replicate 32 0
  seg := Vector.replicate 32 (flatDesc false)
  pc := 0
  csd := flatDesc false
  psw := 0
  fore := WorldBank.init
  pold := WorldBank.init
  hyp := HypBank.init
  gw := Gateway.init
  fpsr := 0
  fpcr := 0
  fpxr := 0
  fpxa := 0
  fpCount := 0
  resv := Option.none
  resvHold := false
  pendS := []
  pendH := []
  pendG := []
  pendP := []
  gate := []
  stops := Stops.none
  reqs := StopReqs.none
  heldHalt := false
  waiting := false
  ioWait := Option.none
  tlb := []
  walked := []
  storeBuf := []
  contention := []
  far := Option.none
  bank0 := WcsBank.init
  bank1 := WcsBank.init
  activeBank := false
  bankPend := false
  lateCheck := Option.none
  overrun := Option.none
  micro := Option.none
  breakpoints := []
  host := Option.none
  deniedAddr := 0

def PCore.init : PCore := ⟨.unassigned, 0, none, true, .none, 0, false, [], [], false, false, false, WcsBank.init, WcsBank.init⟩

def IslSlot.init : IslSlot := ⟨none, 0, .none, []⟩

def Isl.init : Isl := ⟨3, Vector.replicate 4 IslSlot.init, Vector.replicate 4 PCore.init, 7, 0, 0, 0⟩

def Holder.init : Holder := ⟨[], [], [], [], [], [], [], [], []⟩

def SliceSt.init : SliceSt := ⟨[], [], [], [], [], none, none, none, false, [], []⟩

def CtSt.init : CtSt := ⟨[], [], 0, []⟩

def ChanSt.init : ChanSt where
  st := .absent
  dimm := none
  rate := 0
  hot := false
  sr := .none
  readQ := []
  writeQ := []
  openRow := []
  postponed := []
  raa := []
  neighbours := []
  lfsr := 0
  errlog := []
  caWrite := none
  caPoison := []
  zeroed := false
  served := []
  burstTotal := 0

def MapSt.init : MapSt := ⟨false, false, 0, []⟩

def QSt.init : QSt := ⟨[], [], false, false, none, [], [], 0⟩

def QdmaSt.init : QdmaSt := ⟨false, false, none, 0, 0, false⟩

def ScSt.init : ScSt where
  st := .disabled
  start := none
  ownRec := none
  partnerRec := none
  sent := none
  stored := false
  active := none
  standby := none
  holder := none
  asking := none
  revoking := false
  parkCause := 0
  holdoff := 0
  exch := none
  nextOrder := 0
  moved := 0
  lastResidual := 0
  lastDevstat := 0
  lastOrder := 0
  lastTag := 0
  nonExchange := 0
  takeover := false
  needEstablish := false
  clearing := false
  disableAfter := false
  post := none
  handoverTo := none
  orderSent := false
  beatFrozen := false
  listOpen := false

def PeSt.init : PeSt := ⟨false, false, false, []⟩

def PortSt.init : PortSt where
  st := .absent
  train := .none
  twidth := 0
  rate := 0
  flit := false
  reversed := false
  causeFw := false
  deadUntilCompose := false
  peerRxWin := 0
  failedOnce := false
  rxNext := 0
  txNext := 0
  txAcked := 0
  unacked := []
  txWait := []
  out := []
  rxQueue := []
  nakAt := none
  ackOwed := false
  cxlUnits := 0
  dropped := []
  inboundHeld := false
  powerCut := false

def CtxSt.init : CtxSt := ⟨.disabled, 0, 0, none, 16⟩

def AccSlot.init : AccSlot := ⟨false, 0, false, none, []⟩

def AccSt.init : AccSt := ⟨false, 0, Vector.replicate 4 0, []⟩

def PrSt.init : PrSt := ⟨0, false, false⟩

def SrcBuf.init : SrcBuf := ⟨[], 0⟩

def ColSt.init : ColSt := ⟨[], [], false, false, []⟩

def PinSt.init : PinSt := ⟨false, 0, 0⟩

def Mgmt.init : Mgmt where
  sessions := []
  queue := []
  out := []
  active := none
  link := 0
  eid := 0
  prefixes := []
  advertised := 0
  ptp := Vector.replicate 2 0
  keysValid := false
  log := []
  logNext := 0
  unlockEnd := 0
  tapIr := .idcode
  bsr := []
  tapDr := 0

/-! ### Outcomes -/

/-- Reasons to stop with a fault.  None: the manual answers every access, and every event, with an effect, an
error response or a logged fault message, so no command stops the module. -/
inductive Fault where
  deriving DecidableEq, Repr

/-- Reasons to refuse a command. -/
inductive Refusal where
  /-- Raised by `exec` for a command that has no meaning yet; safe. -/
  | notModelled (mnemonic : String)
  deriving DecidableEq, Repr

/-- The module right after the power-on reset of R552: mode KEEPER, every register at its reset value, every
supply group off, nothing in memory. -/
def State.reset : State where
  pending := []
  keeper := Keeper.init
  tb := Timebase.init
  fuses := Fuses.init
  loader := Loader.init
  regs := []
  mem := []
  poison := []
  lcs := []
  isls := []
  migrations := []
  holders := []
  slices := []
  cts := []
  outReqs := []
  chans := []
  maps := []
  queues := []
  qdma := []
  tags := []
  scs := []
  pes := []
  mirrorUp := 0
  ports := []
  ctxs := []
  slots := []
  accs := []
  cuts := []
  cutReqs := []
  irqs := []
  storms := []
  buckets := []
  resets := []
  srcBufs := []
  cols := []
  pins := []
  mgmt := Mgmt.init
  resps := []
  progress := []
  free := 0

end Sys2Proof.Machine
end

