-- ==== Sys2Proof/Machine/Ops.lean ====
section
/-! DEFINITION. The named operations over the state that every command's meaning is written in: records, stored
register bits, memory bytes, the running image, grants, identities, fault messages and interrupt messages. -/

namespace Sys2Proof.Machine

/-! ### Records -/

/-- Record `n` of `lcs`. -/
def State.lc (s : State) (n : Nat) : LCore := Table.get LCore.init s.lcs n
def State.setLc (s : State) (n : Nat) (v : LCore) : State := { s with lcs := Table.insert s.lcs n v }
def State.modLc (s : State) (n : Nat) (f : LCore → LCore) : State := s.setLc n (f (s.lc n))
/-- Record `n` of `isls`. -/
def State.isl (s : State) (n : Nat) : Isl := Table.get Isl.init s.isls n
def State.setIsl (s : State) (n : Nat) (v : Isl) : State := { s with isls := Table.insert s.isls n v }
def State.modIsl (s : State) (n : Nat) (f : Isl → Isl) : State := s.setIsl n (f (s.isl n))
/-- Record `n` of `holders`. -/
def State.holder (s : State) (n : Nat) : Holder := Table.get Holder.init s.holders n
def State.setHolder (s : State) (n : Nat) (v : Holder) : State := { s with holders := Table.insert s.holders n v }
def State.modHolder (s : State) (n : Nat) (f : Holder → Holder) : State := s.setHolder n (f (s.holder n))
/-- Record `n` of `slices`. -/
def State.slice (s : State) (n : Nat) : SliceSt := Table.get SliceSt.init s.slices n
def State.setSlice (s : State) (n : Nat) (v : SliceSt) : State := { s with slices := Table.insert s.slices n v }
def State.modSlice (s : State) (n : Nat) (f : SliceSt → SliceSt) : State := s.setSlice n (f (s.slice n))
/-- Record `n` of `cts`. -/
def State.ct (s : State) (n : Nat) : CtSt := Table.get CtSt.init s.cts n
def State.setCt (s : State) (n : Nat) (v : CtSt) : State := { s with cts := Table.insert s.cts n v }
def State.modCt (s : State) (n : Nat) (f : CtSt → CtSt) : State := s.setCt n (f (s.ct n))
/-- Record `n` of `chans`. -/
def State.chan (s : State) (n : Nat) : ChanSt := Table.get ChanSt.init s.chans n
def State.setChan (s : State) (n : Nat) (v : ChanSt) : State := { s with chans := Table.insert s.chans n v }
def State.modChan (s : State) (n : Nat) (f : ChanSt → ChanSt) : State := s.setChan n (f (s.chan n))
/-- Record `n` of `maps`. -/
def State.map (s : State) (n : Nat) : MapSt := Table.get MapSt.init s.maps n
def State.setMap (s : State) (n : Nat) (v : MapSt) : State := { s with maps := Table.insert s.maps n v }
def State.modMap (s : State) (n : Nat) (f : MapSt → MapSt) : State := s.setMap n (f (s.map n))
/-- Record `n` of `queues`. -/
def State.queue (s : State) (n : Nat) : QSt := Table.get QSt.init s.queues n
def State.setQueue (s : State) (n : Nat) (v : QSt) : State := { s with queues := Table.insert s.queues n v }
def State.modQueue (s : State) (n : Nat) (f : QSt → QSt) : State := s.setQueue n (f (s.queue n))
/-- Record `n` of `qdma`. -/
def State.dma (s : State) (n : Nat) : QdmaSt := Table.get QdmaSt.init s.qdma n
def State.setDma (s : State) (n : Nat) (v : QdmaSt) : State := { s with qdma := Table.insert s.qdma n v }
def State.modDma (s : State) (n : Nat) (f : QdmaSt → QdmaSt) : State := s.setDma n (f (s.dma n))
/-- Record `n` of `scs`. -/
def State.sc (s : State) (n : Nat) : ScSt := Table.get ScSt.init s.scs n
def State.setSc (s : State) (n : Nat) (v : ScSt) : State := { s with scs := Table.insert s.scs n v }
def State.modSc (s : State) (n : Nat) (f : ScSt → ScSt) : State := s.setSc n (f (s.sc n))
/-- Record `n` of `pes`. -/
def State.pe (s : State) (n : Nat) : PeSt := Table.get PeSt.init s.pes n
def State.setPe (s : State) (n : Nat) (v : PeSt) : State := { s with pes := Table.insert s.pes n v }
def State.modPe (s : State) (n : Nat) (f : PeSt → PeSt) : State := s.setPe n (f (s.pe n))
/-- Record `n` of `ports`. -/
def State.port (s : State) (n : Nat) : PortSt := Table.get PortSt.init s.ports n
def State.setPort (s : State) (n : Nat) (v : PortSt) : State := { s with ports := Table.insert s.ports n v }
def State.modPort (s : State) (n : Nat) (f : PortSt → PortSt) : State := s.setPort n (f (s.port n))
/-- Record `n` of `ctxs`. -/
def State.ctx (s : State) (n : Nat) : CtxSt := Table.get CtxSt.init s.ctxs n
def State.setCtx (s : State) (n : Nat) (v : CtxSt) : State := { s with ctxs := Table.insert s.ctxs n v }
def State.modCtx (s : State) (n : Nat) (f : CtxSt → CtxSt) : State := s.setCtx n (f (s.ctx n))
/-- Record `n` of `slots`. -/
def State.aslot (s : State) (n : Nat) : AccSlot := Table.get AccSlot.init s.slots n
def State.setAslot (s : State) (n : Nat) (v : AccSlot) : State := { s with slots := Table.insert s.slots n v }
def State.modAslot (s : State) (n : Nat) (f : AccSlot → AccSlot) : State := s.setAslot n (f (s.aslot n))
/-- Record `n` of `accs`. -/
def State.acc (s : State) (n : Nat) : AccSt := Table.get AccSt.init s.accs n
def State.setAcc (s : State) (n : Nat) (v : AccSt) : State := { s with accs := Table.insert s.accs n v }
def State.modAcc (s : State) (n : Nat) (f : AccSt → AccSt) : State := s.setAcc n (f (s.acc n))
/-- Record `n` of `resets`. -/
def State.prst (s : State) (n : Nat) : PrSt := Table.get PrSt.init s.resets n
def State.setPrst (s : State) (n : Nat) (v : PrSt) : State := { s with resets := Table.insert s.resets n v }
def State.modPrst (s : State) (n : Nat) (f : PrSt → PrSt) : State := s.setPrst n (f (s.prst n))
/-- Record `n` of `srcBufs`. -/
def State.srcBuf (s : State) (n : Nat) : SrcBuf := Table.get SrcBuf.init s.srcBufs n
def State.setSrcBuf (s : State) (n : Nat) (v : SrcBuf) : State := { s with srcBufs := Table.insert s.srcBufs n v }
def State.modSrcBuf (s : State) (n : Nat) (f : SrcBuf → SrcBuf) : State := s.setSrcBuf n (f (s.srcBuf n))
/-- Record `n` of `cols`. -/
def State.col (s : State) (n : Nat) : ColSt := Table.get ColSt.init s.cols n
def State.setCol (s : State) (n : Nat) (v : ColSt) : State := { s with cols := Table.insert s.cols n v }
def State.modCol (s : State) (n : Nat) (f : ColSt → ColSt) : State := s.setCol n (f (s.col n))
/-- Record `n` of `pins`. -/
def State.pin (s : State) (n : Nat) : PinSt := Table.get PinSt.init s.pins n
def State.setPin (s : State) (n : Nat) (v : PinSt) : State := { s with pins := Table.insert s.pins n v }
def State.modPin (s : State) (n : Nat) (f : PinSt → PinSt) : State := s.setPin n (f (s.pin n))
/-- The cut state of a unit (PWR_STAT), by the address of its PWR_REQ. -/
def State.cut (s : State) (u : CutUnit) : CutState := Table.get .on s.cuts (cutAddr u)
def State.setCut (s : State) (u : CutUnit) (c : CutState) : State :=
  { s with cuts := Table.set .on s.cuts (cutAddr u) c }
/-- Interrupt messages waiting at the routing unit of tile `k`, and its storm table. -/
def State.irqsAt (s : State) (k : Nat) : List IrqMsg := Table.get [] s.irqs k
def State.stormAt (s : State) (k : Nat) : List StormPair := Table.get [] s.storms k
def State.setStorm (s : State) (k : Nat) (l : List StormPair) : State := { s with storms := Table.insert s.storms k l }

/-! ### Stored register bits (R5 to R9) -/

/-- The stored value of a register; its Reset column until something writes it. -/
def State.reg (s : State) (r : CsReg) : Word := Table.get r.resetValue s.regs r.addr

def State.setReg (s : State) (r : CsReg) (v : Word) : State :=
  { s with regs := Table.set r.resetValue s.regs r.addr v }

/-- Field [hi:lo] of a register. -/
def State.fld (s : State) (r : CsReg) (hi lo : Nat) : Nat := bits (s.reg r) hi lo

def State.setFld (s : State) (r : CsReg) (hi lo v : Nat) : State := s.setReg r (setBits (s.reg r) hi lo v)

/-- Add `n` to a saturating counter field. -/
def State.bump (s : State) (r : CsReg) (hi lo n : Nat) : State :=
  s.setFld r hi lo (min (s.fld r hi lo + n) (2 ^ (hi + 1 - lo) - 1))

/-- A software write under the access types of the fields (R6, R7): RW fields take the written bits, RW1C bits
written 1 are cleared, RW1S bits written 1 are set, all others keep their value. -/
def softWrite (r : CsReg) (old v : Word) : Word :=
  r.fields.foldl (fun w f =>
    match f.acc with
    | .rw => if f.hw then w else setBits w f.hi f.lo (bits v f.hi f.lo)
    | .rw1c => setBits w f.hi f.lo (bits (w &&& ~~~ v) f.hi f.lo)
    | .rw1s => setBits w f.hi f.lo (bits (w ||| v) f.hi f.lo)
    | _ => w) old

/-- What a software read leaves behind: RC fields are cleared (R7). -/
def softReadClear (r : CsReg) (old : Word) : Word :=
  r.fields.foldl (fun w f => match f.acc with | .rc => if f.hw then w else setBits w f.hi f.lo 0 | _ => w) old

/-- Keep only the registers of the power-on domain: what a module reset does to control space (R8). -/
def moduleResetRegs (t : Table Word) : Table Word :=
  t.filter fun e => match csTarget e.1 with | .reg _ r => r.domain == .powerOn | _ => false

/-! ### Bytes -/

/-- Value of a little-endian byte string (R4). -/
def leNat : List Byte → Nat
  | [] => 0
  | b :: t => b.toNat + 256 * leNat t

/-- The `n` bytes of `v`, least significant first (R4). -/
def leBytes : Nat → Nat → List Byte
  | 0, _ => []
  | n + 1, v => BitVec.ofNat 8 v :: leBytes n (v / 256)

/-- `n` bytes of `bs` from offset `o`; bytes beyond the end are absent. -/
def slice (bs : List Byte) (o n : Nat) : List Byte := (bs.drop o).take n

/-- The little-endian number of `n` bytes at offset `o`. -/
def leAt (bs : List Byte) (o n : Nat) : Nat := leNat (slice bs o n)

/-- The line whose bytes are `bs`, byte 0 lowest. -/
def lineOf (bs : List Byte) : Line := BitVec.ofNat 1024 (leNat bs)

/-- Byte `i` of a line. -/
def lineByte (l : Line) (i : Nat) : Byte := BitVec.ofNat 8 (l.toNat / 256 ^ i)

def lineBytes (l : Line) : List Byte := leBytes 128 l.toNat

/-- `l` with the bytes `bs` written from byte `o` on. -/
def lineWrite (l : Line) (o : Nat) (bs : List Byte) : Line :=
  let n := bs.length
  BitVec.ofNat 1024 (l.toNat % 256 ^ o + leNat bs * 256 ^ o + l.toNat / 256 ^ (o + n) * 256 ^ (o + n))

/-! ### Memory (R310, R330): one cell per byte, an unlisted byte reads 0 -/

def State.memByte (s : State) (a : Nat) : Byte := Table.get 0 s.mem a

def State.setMemByte (s : State) (a : Nat) (b : Byte) : State := { s with mem := Table.set 0 s.mem a b }

/-- The form memory is held in: addresses strictly rising, no byte listed that an unlisted address reads as. -/
def Memory.wf (m : List Host.Cell) : Bool := Table.wf (V := Byte) 0 m

/-- `n` bytes from address `a`. -/
def memRead (m : List Host.Cell) : Nat → Nat → List Byte
  | _, 0 => []
  | a, n + 1 => Table.get (V := Byte) 0 m a :: memRead m (a + 1) n

/-- Write `bs` from address `a` on. -/
def memWrite (m : List Host.Cell) (a : Nat) : List Byte → List Host.Cell
  | [] => m
  | b :: t => memWrite (Table.set (V := Byte) 0 m a b) (a + 1) t

/-- Remove every cell of [first, last]: the range reads 0. -/
def memZero (m : List Host.Cell) (first last : Nat) : List Host.Cell :=
  m.filter fun c => decide (c.1 < first ∨ last < c.1)

/-- First byte address of a line. -/
def lineAddr (l : LineNo) : Nat := l.toNat * 128
/-- Line that holds physical address `a`. -/
def lineOfAddr (a : Nat) : LineNo := BitVec.ofNat 45 (a / 128)

def State.memLine (s : State) (l : LineNo) : Line := lineOf (memRead s.mem (lineAddr l) 128)

/-- Lines marked poisoned at their memory location, rising (R300, R324). -/
def insertSorted (n : Nat) : List Nat → List Nat
  | [] => [n]
  | a :: t => if n < a then n :: a :: t else if n = a then a :: t else a :: insertSorted n t

def State.isPoison (s : State) (l : LineNo) : Bool := s.poison.contains l.toNat
def State.setPoison (s : State) (l : LineNo) (p : Bool) : State :=
  { s with poison := if p then insertSorted l.toNat s.poison else s.poison.filter (· ≠ l.toNat) }

/-- Write a whole line, with its mark, to its memory location. -/
def State.setMemLine (s : State) (l : LineNo) (d : Line) (p : Bool) : State :=
  { s with mem := memWrite s.mem (lineAddr l) (lineBytes d) }.setPoison l p

/-! ### The images in force -/

/-- The image that governs the module: the one being composed in COMPOSE, else the running one. -/
def State.image (s : State) : Option Image :=
  match s.loader.composing with
  | some r => some r.img
  | none => s.loader.running.map (·.img)

def wordAt (l : List Word) (i : Nat) : Word := l.getD i 0

/-- Group entry fields (Table 2.4). -/
def grpLayout (e : Word) : Nat := bits e 1 0
def grpLend (e : Word) : Bool := e.getLsbD 2
def grpLc (e : Word) (k : Nat) : Nat := bits e (15 + 8 * k) (8 + 8 * k)
def grpParcel (e : Word) (k : Nat) : Nat := bits e (43 + 4 * k) (40 + 4 * k)

/-- Parcel entry fields (Table 2.6). -/
def Image.parcelValid (i : Image) (p : Nat) : Bool := (wordAt i.parcels p).getLsbD 0
def Image.serviceLc (i : Image) (p k : Nat) : Nat := bits (wordAt i.parcels p) (15 + 8 * k) (8 + 8 * k)
def Image.sameTile (i : Image) (p : Nat) : Bool := (wordAt i.parcels p).getLsbD 24

/-- Port record fields (Table 2.7). -/
def prEngine (e : Word) : Nat := bits e 26 22
def prProtocol (e : Word) : Nat := bits e 21 14
def prWidth (e : Word) : Nat := bits e 13 10
def prIndex (e : Word) : Nat := 128 * bits e 9 8 + bits e 6 0

/-- The port record of port index `p`, if the image forms that port. -/
def Image.portRec (i : Image) (p : Nat) : Option Word := i.ports.find? fun e => prIndex e = p

/-- Lyvan, PCI Express or CXL by PROTOCOL code (Table 14.2). -/
def isLyvan (proto : Nat) : Bool := proto = 0x21 || proto = 0x22 || proto = 0x23
def isPcie (proto : Nat) : Bool := proto = 0x01 || proto = 0x02 || proto = 0x03
def isCxl (proto : Nat) : Bool := proto = 0x11 || proto = 0x12

/-- Grant record fields (R39). -/
def Grant.owner (g : Grant) : Nat := bits g.ctl 4 0
def Grant.kind (g : Grant) : Nat := bits g.ctl 15 8
def Grant.rights (g : Grant) : Nat := bits g.ctl 18 16
def Grant.covers (g : Grant) (n : Nat) : Bool := g.first.toNat ≤ n && n ≤ g.last.toNat

/-- Rights an access needs: bit 0 read, bit 1 write, bit 2 execute. -/
def hasRights (have_ need : Nat) : Bool := have_ &&& need == need

/-- The owner a numbered resource (subchannel 5, port 6, queue 7) or address (MEMORY 1, SPILLWAY 2, STAGING 3)
is granted to; `none` for no one. -/
def Image.ownerOf (i : Image) (kind n : Nat) : Option Nat :=
  (i.grants.find? fun g => g.kind = kind && g.covers n).map Grant.owner

/-- Some grant of `owner` of that kind covers `n` with the rights needed. -/
def Image.granted (i : Image) (owner kind n need : Nat) : Bool :=
  i.grants.any fun g => g.owner = owner && g.kind = kind && g.covers n && hasRights g.rights need

def State.ownerOf (s : State) (kind n : Nat) : Option Nat := s.image.bind (·.ownerOf kind n)
def State.queueOwner (s : State) (q : Qn) : Option Nat := s.ownerOf 7 q.val
def State.portOwner (s : State) (p : Port) : Option Nat := s.ownerOf 6 p.val
def State.scOwner (s : State) (n : Sc) : Option Nat := s.ownerOf 5 n.val

/-- The SPILLWAY grant of an owner (R40: one at most). -/
def State.spillway (s : State) (owner : Nat) : Option Grant :=
  s.image.bind fun i => i.grants.find? fun g => g.kind = 2 && g.owner = owner

def State.staging (s : State) : Option Grant := s.image.bind fun i => i.grants.find? fun g => g.kind = 3

/-- The record of a port, and its path engine. -/
def State.portRec (s : State) (p : Port) : Option Word := s.image.bind (·.portRec p.val)
def State.portProto (s : State) (p : Port) : Nat := (s.portRec p).elim 0 prProtocol
/-- The path engine of a Lyvan port. -/
def State.portPe (s : State) (p : Port) : Option Pe :=
  (s.portRec p).bind fun e => if isLyvan (prProtocol e) then fin? 128 (32 * (p.val / 128) + prEngine e) else none

/-- Ports served by a path engine, ascending. -/
def State.pePorts (s : State) (e : Pe) : List Port :=
  match s.image with
  | none => []
  | some i =>
    (i.ports.filter fun r => isLyvan (prProtocol r) && 32 * bits r 9 8 + prEngine r = e.val).filterMap
      fun r => fin? 512 (prIndex r)

/-- World-map bits (Table 2.11): `w` the word at offset 8w. -/
def State.worldBit (s : State) (w b : Nat) : Bool :=
  match s.image with
  | some i => (wordAt i.world (w + b / 64)).getLsbD (b % 64)
  | none => false
def State.pinPolder (s : State) (n : Nat) : Bool := s.worldBit 0 n
def State.flashPolder (s : State) : Bool := s.worldBit 0 48
def State.pePolder (s : State) (e : Pe) : Bool := s.worldBit 1 e.val
def State.qdmaPolder (s : State) (c : Qdma) : Bool := s.worldBit 3 c.val
def State.ctxPolder (s : State) (c : AccCtx) : Bool :=
  s.worldBit 4 (16 * c.tile.val + (if c.cph then 8 else 0) + c.ctx.val)

/-! ### Modes -/

/-- Codes of Table 3.1. -/
def Mode.code : Mode → Nat
  | .off => 0 | .keeper => 1 | .wake => 2 | .load => 3 | .compose => 4 | .run => 5 | .degraded => 6
  | .quiesce => 7 | .split => 8 | .service => 9 | .hold => 10 | .zeroize => 11

/-- RUN, DEGRADED, SPLIT and SERVICE (R64). -/
def Mode.running : Mode → Bool
  | .run | .degraded | .split | .service => true
  | _ => false

def State.mode (s : State) : Mode := s.keeper.mode
/-- A running mode, or QUIESCE. -/
def State.runOrQuiesce (s : State) : Bool := s.mode.running || s.mode == .quiesce

/-- Masters start new work: a running mode, with no QUIESCE under way (R66). -/
def State.mastersStart (s : State) : Bool := s.mode.running && s.keeper.trans != .quiescing

/-- The isolated tile (KS_STATUS.SVC_TILE), 0 for none. -/
def State.svcTile (s : State) : Nat := s.fld .ksStatus 39 36

/-- The running image with the QoS settings in force on tile `k` (R53). -/
def State.qosImage (s : State) (k : Nat) : Option Image :=
  match s.image, s.loader.qosHeld with
  | some i, some q => some (if s.svcTile = k then { i with qos := q } else i)
  | o, _ => o

/-- Tile `k` is live: powered, not isolated (R67) and not stopped by a fault (R513). -/
def State.tileLive (s : State) (k : Nat) : Bool := !(s.col k).stopped && (k = 0 || s.svcTile ≠ k)

/-! ### Time -/

/-- TB_NOW.NS. -/
def State.now (s : State) : Nat := s.tb.ns.toNat

/-! ### Free values -/

/-- The next free 64-bit value, and the state that has drawn it (log entry 2). -/
def State.draw (s : State) : Word × State := (Config.freeWord s.free, { s with free := s.free + 1 })

/-! ### Fault messages (R505 to R508) -/

/-- SRC = TILE × 4,096 + BLOCK × 64 + INSTANCE (R505). -/
def srcId (tile block inst : Nat) : Nat := tile * 4096 + block * 64 + inst

/-- A fault message (Table 18.2). -/
def mkFault (src kind cls addr time lost : Nat) : Quad :=
  BitVec.ofNat 128 (src % 2 ^ 16 * 2 ^ 112 + kind % 2 ^ 8 * 2 ^ 104 + cls % 8 * 2 ^ 101 + addr % 2 ^ 52 * 2 ^ 49 +
    time % 2 ^ 40 * 2 ^ 9 + lost % 256)

/-- Bits [hi:lo] of a 128-bit value. -/
def qbits (q : Quad) (hi lo : Nat) : Nat := q.toNat / 2 ^ lo % 2 ^ (hi + 1 - lo)
def faultSrc (m : Quad) : Nat := qbits m 127 112
def faultTile (m : Quad) : Nat := qbits m 127 124
def faultBlock (m : Quad) : Nat := qbits m 123 118
def faultInst (m : Quad) : Nat := qbits m 117 112
def faultKind (m : Quad) : Nat := qbits m 111 104
def faultClass (m : Quad) : Nat := qbits m 103 101
def faultAddr (m : Quad) : Nat := qbits m 100 49
def faultTime (m : Quad) : Nat := qbits m 48 9

/-- Classes of Table 18.4. -/
def clsNote : Nat := 0
def clsCorrected : Nat := 1
def clsContained : Nat := 2
def clsSevere : Nat := 3
def clsGrave : Nat := 4

/-- Remove the oldest waiting message of the lowest class present (R508). -/
def dropLowest (l : List Quad) : List Quad :=
  let c := l.foldl (fun m q => min m (faultClass q)) 7
  l.eraseP fun q => faultClass q = c

/-- A source's buffer after one more message is detected: 4 entries, dropping by class (R508). -/
def SrcBuf.push (b : SrcBuf) (m : Quad) : SrcBuf :=
  if b.msgs.length < 4 then { b with msgs := b.msgs ++ [m] }
  else
    let low := b.msgs.foldl (fun x q => min x (faultClass q)) 7
    if faultClass m > low then { msgs := dropLowest b.msgs ++ [m], lost := b.lost + 1 }
    else { b with lost := b.lost + 1 }

/-- The fault rings run from the start of WAKE on (R508, R65). -/
def State.ringsRun (s : State) : Bool := s.mode != .off && s.mode != .keeper

/-- A block detects an event: source `src` sends a fault message (R507, R508). -/
def State.report (s : State) (src kind cls addr : Nat) : State :=
  if s.ringsRun then s.modSrcBuf src (·.push (mkFault src kind cls addr s.now 0)) else s

/-! ### Logical cores and their silicon -/

/-- PSW fields. -/
def pswLevel (w : Word) : Nat := bits w 1 0
def pswPolder (w : Word) : Bool := w.getLsbD 3
def pswIe (w : Word) : Bool := w.getLsbD 8
def pswGv (w : Word) : Bool := w.getLsbD 35
def pswGuest (w : Word) : Nat := bits w 43 36
def pswParcel (w : Word) : Nat := bits w 47 44
def pswOvt (w : Word) : Bool := w.getLsbD 22

def Stops.any (x : Stops) : Bool :=
  x.start || x.fatal || x.quiesce || x.frozen || x.debug || x.clockCut || x.reset || x.migrating || x.hard ||
    x.lost || x.rejoin

/-- The logical core executes: it is hosted, and nothing stops it. -/
def LCore.executes (l : LCore) : Bool := l.host.isSome && !l.stops.any

/-- Modes in which logical cores execute (R64, R66). -/
def State.coresRun (s : State) : Bool := s.mode.running

/-- A command of logical core `lc` can execute now: a running mode, and the core is neither stopped, nor in WAIT, nor
at an atomic whose far request is out (R137), nor at a store whose control-space write is held (R340), nor in a segment
that has run too long (R179). -/
def State.lcRuns (s : State) (lc : Lc) : Bool :=
  let l := s.lc lc.val
  s.coresRun && l.executes && !l.waiting && l.ioWait.isNone && l.far.isNone && l.overrun.isNone

/-- A physical core that executes healthily for its slot. -/
def PCore.healthy (c : PCore) : Bool := (c.role == .replica || c.role == .simplex) && !c.odd

/-- Lead core letter of a slot: the healthy replica with the smallest stagger (R203); the first position when none
is healthy. -/
def Isl.lead (i : Isl) (sl : Fin 4) : Fin 4 :=
  let ps := (i.slots.get sl).positions
  (ps.find? fun c => (i.cores.get c).healthy).getD (ps.headD 0)

/-- Source ID of a physical core 48t + 4nn + c (Table 18.1). -/
def coreSrc (core : Nat) : Nat := srcId (1 + core / 48) 0x01 (core % 48)

/-- The island and slot position of a holder slot 48t + 4nn + k. -/
def slotIsland (sl : Slot) : Nat := sl.val / 4
def slotPos (sl : Slot) : Fin 4 := ⟨sl.val % 4, by omega⟩
def slotTile (sl : Slot) : Nat := sl.val / 48

/-- Source ID that names a logical core: its lead physical core on its host island (R506). -/
def State.lcSrc (s : State) (lc : Nat) : Nat :=
  match (s.lc lc).host with
  | some h => coreSrc (4 * slotIsland h + ((s.isl (slotIsland h)).lead (slotPos h)).val)
  | none => 0

/-- Logical core hosted in a holder slot. -/
def State.slotLc (s : State) (sl : Slot) : Option Lc := ((s.isl (slotIsland sl)).slots.get (slotPos sl)).lc

/-- Every logical core of the module, by number. -/
def allLc : List Lc := List.finRange 192
/-- Hosted logical cores of a parcel. -/
def State.parcelLcs (s : State) (p : Nat) : List Lc :=
  allLc.filter fun l => (s.lc l.val).host.isSome && pswParcel (s.lc l.val).psw = p

/-! ### Interrupt messages (R480) -/

/-- Raise an interrupt message at the routing unit of tile `k`. -/
def State.raiseIrq (s : State) (k : Nat) (m : IrqMsg) : State :=
  { s with irqs := Table.insert s.irqs k (s.irqsAt k ++ [m]) }

def ownerFin (o : Option Nat) : Fin 17 :=
  match o with
  | some n => if h : n < 17 then ⟨n, h⟩ else 16
  | none => 16

/-- Raise a message of an owner's source; a source granted to no one, or to Polder, is Polder's (R482). -/
def State.raiseOwned (s : State) (k cls inst event : Nat) (o : Option Nat) : State :=
  let w := ownerFin o
  s.raiseIrq k ⟨BitVec.ofNat 8 cls, BitVec.ofNat 18 inst, BitVec.ofNat 11 event, w.val = 16, w, none⟩

/-! ### Masters: identity, owner, world (R58, R60, R456, R505) -/

/-- Source IDs of accelerator units: instance 0 the engine, 1 + c context c (Table 18.1).  An instruction slot is
named by its logical core (R506). -/
def accBlock (cph : Bool) : Nat := if cph then 0x09 else 0x08
def portSrc (p : Nat) : Nat :=
  let n := p % 128
  if n < 64 then srcId (5 + p / 128) 0x11 n else srcId (5 + p / 128) 0x12 (n - 64)

def State.masterSrc (s : State) : Master → Nat
  | .keeper => srcId 0 0x20 0
  | .core lc => s.lcSrc lc.val
  | .pathEngine e => srcId (5 + e.val / 32) 0x13 (e.val % 32)
  | .qdma c => srcId (5 + c.val / 16) 0x14 (1 + c.val % 16)
  | .acc c => srcId (1 + c.tile.val) (accBlock c.cph) (1 + c.ctx.val)
  | .slot _ lc => s.lcSrc lc.val
  | .port p => portSrc p.val
  | .collector k => srcId k.val 0x3F 0
  | .writer t => srcId (5 + t.val) 0x15 0

/-- Index 16t + 8k + c of an accelerator context (Table 2.11). -/
def ctxIdx (c : AccCtx) : Nat := 16 * c.tile.val + (if c.cph then 8 else 0) + c.ctx.val

/-- Index of a logical core's instruction slot at an engine of its tile, and of an engine. -/
def slotIdx (cph : Bool) (lc : Lc) : Nat := 2 * lc.val + cph.toNat
def accIdx (a : Acc) : Nat := 2 * a.tile.val + a.cph.toNat

/-- Owner of a path engine's ports (R40: at most one owner). -/
def State.peOwner (s : State) (e : Pe) : Option Nat := (s.pePorts e).findSome? s.portOwner

/-- The owners whose grants an access of a master is checked against (R58); Polder's first for a Polder access. -/
def State.masterOwners (s : State) : Master → List Nat
  | .keeper => []
  | .core lc => let w := (s.lc lc.val).psw; if pswPolder w then [16, pswParcel w] else [pswParcel w]
  | .pathEngine e => (s.peOwner e).toList
  | .qdma c => ((s.dma c.val).queue.bind s.queueOwner).toList
  | .acc c => [(s.ctx (ctxIdx c)).owner.val]
  | .slot cph lc =>
    let w := (s.lc lc.val).psw
    if (s.aslot (slotIdx cph lc)).polder then [16, pswParcel w] else [pswParcel w]
  | .port p => (s.portOwner p).toList
  | .collector _ => []
  | .writer _ => []

/-- The access is a Polder-world access (R456); the keeper acts with Polder authority. -/
def State.masterPolder (s : State) : Master → Bool
  | .keeper => true
  | .core lc => pswPolder (s.lc lc.val).psw
  | .slot cph lc => (s.aslot (slotIdx cph lc)).polder
  | .pathEngine e => s.pePolder e
  | .qdma c => s.qdmaPolder c
  | .acc c => s.ctxPolder c
  | .port p => s.portOwner p == some 16
  | .collector _ => false
  | .writer _ => false

/-- Writes accepted "only from the keeper and from Polder-world accesses" (R62, R68, R239, R522). -/
def State.privileged (s : State) (m : Master) : Bool := s.masterPolder m

/-- Level of a master's access: the keeper and engines count as H (R266). -/
def State.masterLevel (s : State) : Master → Nat
  | .core lc | .slot _ lc => pswLevel (s.lc lc.val).psw
  | _ => 2

/-- Record the response to a master's access. -/
def setResp (l : List (Master × Resp)) (m : Master) (r : Resp) : List (Master × Resp) :=
  (m, r) :: l.filter fun e => e.1 ≠ m
def State.respond (s : State) (m : Master) (r : Resp) : State := { s with resps := setResp s.resps m r }

/-! ### Homes (R271, R272, R310) -/

/-- Walk the deal of R310 by levels: from round `lo` on, the tiles with more than `lo` granules take turns. -/
def dealGranule (caps : List Nat) : Nat → Nat → Nat → Option (Nat × Nat)
  | 0, _, _ => none
  | f + 1, lo, k =>
    let act := (List.range 4).filter fun t => lo < caps.getD t 0
    match act with
    | [] => none
    | _ =>
      let hi := act.foldl (fun m t => min m (caps.getD t 0)) (caps.foldl max 0)
      let n := act.length
      if k < n * (hi - lo) then some (act.getD (k % n) 0, lo + k / n)
      else dealGranule caps f hi (k - n * (hi - lo))

/-- C_t of the four tiles in 64 MiB granules. -/
def State.caps (s : State) : List Nat := (List.range 4).map fun t => (s.map t).granules

/-- First address above local DRAM (MC_MAPTOP.TOP). -/
def State.dramTop (s : State) : Nat := s.caps.foldl (· + ·) 0 * 2 ^ 26

/-- Compute tile and tile offset of a local DRAM address (R310). -/
def State.dramPlace (s : State) (pa : Nat) : Option (Nat × Nat) :=
  if pa < s.dramTop then (dealGranule s.caps 5 0 (pa / 2 ^ 26)).map fun r => (r.1, r.2 * 2 ^ 26 + pa % 2 ^ 26)
  else none

/-- The CXL port whose window holds `pa` (Table 14.3), whether or not the address is mapped. -/
def State.cxlWindow (s : State) (pa : Nat) : Option Port :=
  if 0x2_0000_0000_0000 ≤ pa ∧ pa < 0x2_0000_0000_0000 + 128 * 0x400_0000_0000 then
    (fin? 512 ((pa - 0x2_0000_0000_0000) / 0x400_0000_0000 * 4)).bind fun p =>
      if isCxl (s.portProto p) then some p else none
  else none

/-- The CXL port that maps `pa` (R402). -/
def State.cxlPort (s : State) (pa : Nat) : Option Port :=
  (s.cxlWindow pa).bind fun p =>
    if (pa - 0x2_0000_0000_0000) % 0x400_0000_0000 < (s.port p.val).cxlUnits * 2 ^ 28 then some p else none

/-- The PCI Express port whose memory window holds `pa` (Table 14.3). -/
def State.pcieWindow (s : State) (pa : Nat) : Option Port :=
  if 0xF_0000_0000_0000 ≤ pa ∧ pa < 0xF_0000_0000_0000 + 512 * 0x40_0000_0000 then
    (fin? 512 ((pa - 0xF_0000_0000_0000) / 0x40_0000_0000)).bind fun p =>
      if isPcie (s.portProto p) then some p else none
  else none

/-- The port whose doorbell holds `pa` (Table 14.3). -/
def State.doorbell (s : State) (pa : Nat) : Option Port :=
  if 0xF_8000_0000_0000 ≤ pa ∧ pa < 0xF_8000_0000_0000 + 512 * 0x1_0000 then
    (fin? 512 ((pa - 0xF_8000_0000_0000) / 0x1_0000)).bind fun p =>
      if isPcie (s.portProto p) || isCxl (s.portProto p) then some p else none
  else none

/-- Where a physical address lies (Table 14.3, R311). -/
inductive Place where
  | dram (tile off : Nat)
  | cxl (p : Port)
  | pcie (p : Port)
  | bell (p : Port)
  | control
  | nowhere
  deriving DecidableEq, Repr

def State.place (s : State) (pa : Nat) : Place :=
  if csBase ≤ pa then .control
  else
    match s.dramPlace pa with
    | some (t, o) => .dram t o
    | none =>
      match s.cxlPort pa with
      | some p => .cxl p
      | none =>
        match s.pcieWindow pa with
        | some p => .pcie p
        | none =>
          match s.doorbell pa with
          | some p => .bell p
          | none => .nowhere

/-- Memory that has a home and may be cached. -/
def Place.isMemory : Place → Bool
  | .dram _ _ | .cxl _ => true
  | _ => false

/-- Home tile of a physical address (R271). -/
def State.homeTile (s : State) (pa : Nat) : Option Nat :=
  match s.place pa with
  | .dram t _ => some t
  | .cxl _ => some ((pa / 2 ^ 12 % 4) ^^^ (pa / 2 ^ 20 % 4) ^^^ (pa / 2 ^ 28 % 4))
  | _ => none

/-- Home slice within its tile, set and tag of a line (R272). -/
def homeG (l : Nat) : Nat := (l % 2 ^ 16) ^^^ (l / 2 ^ 16 % 2 ^ 16) ^^^ (l / 2 ^ 32 % 2 ^ 13)
def homeSet (l : Nat) : Nat := (l % 2 ^ 14) ^^^ (l / 2 ^ 14 % 2 ^ 14)
def homeTag (l : Nat) : Nat := l / 2 ^ 14

/-- Global number 6t + s of the home slice of a line. -/
def State.homeSlice (s : State) (l : LineNo) : Option Slice :=
  (s.homeTile (lineAddr l)).bind fun t => fin? 24 (6 * t + homeG l.toNat % 6)

end Sys2Proof.Machine
end

