-- ==== Sys2Proof/Machine/Memory.lean ====
section
/-! DEFINITION. Lines: where the freshest copy of a line stands, how the memory below the home slices takes a
write, how the basin allocates, how holders lose a line, and how a line is breached (chapters 9 to 11). -/

namespace Sys2Proof.Machine

/-! ### DRAM placement and channel state -/

/-- Byte mask of `n` bytes from byte `o`. -/
def byteMask (o n : Nat) : BitVec 128 := BitVec.ofNat 128 ((2 ^ n - 1) * 2 ^ o)

def fullMask : BitVec 128 := BitVec.allOnes 128

/-- `old` with the bytes of `new` whose mask bit is 1. -/
def lineMerge (old new : Line) (m : BitVec 128) : Line :=
  if m = fullMask then new
  else lineOf ((List.range 128).map fun i => if m.getLsbD i then lineByte new i else lineByte old i)

/-- Module number 5t + c of the channel that holds (independent mode), or leads for (stripe mode), a tile offset
(R312, R313): chunk 2h of line h of a pair. -/
def State.chanOf (s : State) (t off : Nat) : Nat :=
  if (s.map t).stripe then
    let j := off / 256 / 2
    5 * t + (j % 5 + 1 + 2 * (off / 128 % 2)) % 5
  else 5 * t + off / 128 % 5

/-- The channel is out of service (R326). -/
def State.chanFailed (s : State) (c : Nat) : Bool := (s.chan c).st == .failed


/-- The other line of a pair, on the same tile: line numbers differ in the tile offset's bit 7. -/
def companion (l : LineNo) (off : Nat) : LineNo := if off / 128 % 2 = 0 then l + 1 else l - 1

/-- Channels of the two data bursts of a line of a stripe tile (R313). -/
def dataChans (t off : Nat) : List Nat :=
  let c := off / 256 / 2 % 5 + 1 + 2 * (off / 128 % 2)
  [5 * t + c % 5, 5 * t + (c + 1) % 5]

/-- Reads of the tile offset give good data when the DRAM does: its channel is not FAILED; or, in stripe mode, neither of its
data channels is, or the other four are live (R326). -/
def State.dramGood (s : State) (t off : Nat) : Bool :=
  if (s.map t).stripe then
    (dataChans t off).all (fun c => !s.chanFailed c) ||
      decide (((List.range 5).filter fun c => s.chanFailed (5 * t + c)).length ≤ 1)
  else !s.chanFailed (s.chanOf t off)

/-- A chunk of the line is rebuilt from a parity burst that carries the poison code: a data channel has FAILED and the
other line of the pair is breached (R324 to R326). -/
def State.rebuiltPoison (s : State) (t : Nat) (l : LineNo) (off : Nat) : Bool :=
  (s.map t).stripe && s.isPoison (companion l off) && (dataChans t off).any fun c => s.chanFailed c

/-- A read of the line's memory location gives poisoned data: the breach mark, what cannot be rebuilt, or a read command
rejected twice (R324 to R327). -/
def State.readsPoison (s : State) (l : LineNo) : Bool :=
  s.isPoison l ||
    (match s.place (lineAddr l) with
     | .dram t off => !s.dramGood t off || s.rebuiltPoison t l off || (s.chan (s.chanOf t off)).caPoison.contains l
     | _ => false)

/-- The read whose command was rejected has been answered (R327). -/
def State.caClear (s : State) (l : LineNo) : State :=
  match s.place (lineAddr l) with
  | .dram t off => s.modChan (s.chanOf t off) fun x => { x with caPoison := x.caPoison.filter (· ≠ l) }
  | _ => s

/-- A channel issues commands: trained, not in or entering self-refresh, not retraining (R322, R327). -/
def ChanSt.issues (c : ChanSt) : Bool := c.st == .active && c.sr == .none && c.caWrite.isNone

/-- The scheduler of channel `c` issues commands: its own, or in stripe mode the one of the five controllers, whose
FAILED channels take none (R314, R326). -/
def State.chanIssues (s : State) (c : Nat) : Bool :=
  if (s.map (c / 5)).stripe then (List.range 5).all fun i => (s.chan (c / 5 * 5 + i)).issues || s.chanFailed (c / 5 * 5 + i)
  else (s.chan c).issues

/-- Entries of the write queue that takes the lines of channel `c`, and its size (R314). -/
def State.wqLen (s : State) (c : Nat) : Nat :=
  if (s.map (c / 5)).stripe then (List.range 5).foldl (fun n i => n + (s.chan (c / 5 * 5 + i)).writeQ.length) 0
  else (s.chan c).writeQ.length
def State.wqMax (s : State) (c : Nat) : Nat := if (s.map (c / 5)).stripe then 320 else 64

/-- A write of the line waits at its home slice: the write queue is full, and no entry of it takes the write (R314, R315). -/
def State.wqFull (s : State) (l : LineNo) : Bool :=
  match s.place (lineAddr l) with
  | .dram t off =>
    let c := s.chanOf t off
    !s.chanIssues c && !s.chanFailed c && s.wqMax c ≤ s.wqLen c && !((s.chan c).writeQ.any fun x => x.line = l && !x.issued)
  | _ => false

/-- Perform a write on its memory location (R316): a full write takes the entry's mark, a partial one merges into the line
that it reads, whose poison it keeps. -/
def State.dramApply (s : State) (e : WqEntry) : State :=
  if e.mask = fullMask then s.setMemLine e.line e.data e.poison
  else s.setMemLine e.line (lineMerge (s.memLine e.line) e.data e.mask) (s.readsPoison e.line || e.poison)

/-- Merge into the newest unissued entry of the line, or take a new entry (R315). -/
def wqAccept (q : List WqEntry) (e : WqEntry) : List WqEntry :=
  match q.reverse.find? fun x => x.line = e.line && !x.issued with
  | some x =>
    q.map fun y =>
      if y = x then
        { y with mask := y.mask ||| e.mask, data := lineMerge y.data e.data e.mask,
                 poison := if e.mask = fullMask then e.poison else y.poison || e.poison
                 ev := if e.mask = fullMask then .ok else y.ev }
      else y
  | none => q ++ [e]

/-- A controller accepts a write: it reaches DRAM at once while the scheduler issues, whose read queue is then empty so
that a drain is in progress (R318); it waits in the write queue otherwise, and is discarded on a FAILED independent
channel (R326). -/
def State.mcAccept (s : State) (t off : Nat) (e : WqEntry) : State :=
  let c := s.chanOf t off
  if !(s.map t).stripe && s.chanFailed c then s
  else if s.chanIssues c then s.dramApply e
  else s.modChan c fun x => { x with writeQ := wqAccept x.writeQ e }

/-- Value of a line below the home slice: memory with the queued writes over it, and whether it reads poisoned
(R315, R324, R326). -/
def State.memValue (s : State) (l : LineNo) : Line × Bool :=
  let base := (s.memLine l, s.readsPoison l)
  match s.place (lineAddr l) with
  | .dram t off =>
    let q := (s.chan (s.chanOf t off)).writeQ.filter fun e => e.line = l
    q.foldl (fun (v : Line × Bool) e =>
      (lineMerge v.1 e.data e.mask, if e.mask = fullMask then e.poison else v.2 || e.poison)) base
  | _ => base

/-- The breach mark is written to the line's memory location, after every write accepted before (R300, R315). -/
def State.markBreach (s : State) (l : LineNo) : State :=
  let s1 := s.setPoison l true
  match s.place (lineAddr l) with
  | .dram t off =>
    s1.modChan (s.chanOf t off) fun x =>
      { x with
        writeQ := x.writeQ.map fun (e : WqEntry) => if e.line = l then { e with poison := true } else e
        caWrite := x.caWrite.map fun (e : WqEntry) => if e.line = l then { e with poison := true } else e }
  | _ => s1

/-! ### Breach log (R300, R306) -/

/-- COH_BRLOG entry. -/
def brEntry (cause sl holder : Nat) (l : LineNo) : Word :=
  BitVec.ofNat 64 (2 ^ 63 + cause * 2 ^ 61 + sl * 2 ^ 58 + holder * 2 ^ 52 + l.toNat)

/-- Append to the breach log of the line's home tile: 256 entries, the oldest overwritten and counted (R306). -/
def State.brLog (s : State) (l : LineNo) (cause holder : Nat) : State :=
  match s.homeSlice l with
  | none => s
  | some h =>
    let t := h.val / 6
    let log := (s.ct t).brlog
    let e := brEntry cause (h.val % 6) holder l
    let s1 := if log.length < 256 then s.modCt t fun c => { c with brlog := log ++ [e] }
      else (s.modCt t fun c => { c with brlog := log.drop 1 ++ [e] }).bump (.cohBrcount ⟨t, by omega⟩) 31 0 1
    s1.bump (.cohBrcount ⟨t, by omega⟩) 63 32 1

/-! ### Writes below the home slice -/

/-- A line that cannot be delivered to a CXL port: dropped, logged, entered in the dropped-line table (R409, R410). -/
def State.cxlDrop (s : State) (p : Port) (l : LineNo) : State :=
  let ps := s.port p.val
  let s1 := s.brLog l 2 63
  if ps.dropped.contains l || ps.deadUntilCompose then s1
  else if ps.dropped.length < 4096 then s1.modPort p.val fun x => { x with dropped := x.dropped ++ [l] }
  else
    let s2 := s1.modPort p.val fun x => { x with st := .contained, causeFw := false, deadUntilCompose := true }
    s2.report (portSrc p.val) 0x55 clsSevere 0

/-- A write leaves the home slice for memory: the controller of its tile, or the CXL port (R263, R304, R409). -/
def State.homeWrite (s : State) (l : LineNo) (mask : BitVec 128) (d : Line) (poison : Bool) : State :=
  let e : WqEntry := ⟨l, mask, d, poison, false, .ok⟩
  match s.place (lineAddr l) with
  | .dram t off => s.mcAccept t off e
  | .cxl p => if (s.port p.val).st == .active then s.dramApply e else s.cxlDrop p l
  | _ => s

/-! ### Copies of a line -/

/-- The M or O copy of a line in some holder's L2. -/
def State.dirtyCopy (s : State) (l : LineNo) : Option (Nat × CLine) :=
  s.holders.findSome? fun e =>
    (e.2.l2.find? fun c => c.line = l && (c.st == .m || c.st == .o)).map fun c => (e.1, c)

/-- A dirty eviction of the line on its way to the home slice. -/
def State.evictCopy (s : State) (l : LineNo) : Option CLine :=
  s.holders.findSome? fun e => e.2.evict.reverse.find? fun c => c.line = l && (c.st == .m || c.st == .o)

/-- The basin copy, whose fill may still wait for its victim, or a victim in transit (R263). -/
def State.basinCopy (s : State) (l : LineNo) : Option BLine :=
  (s.homeSlice l).bind fun h =>
    let sl := s.slice h.val
    match (sl.victims.find? fun v => v.fill.line = l).map (·.fill) with
    | some b => some b
    | none => sl.basin.find? fun b => b.line = l

def State.transitCopy (s : State) (l : LineNo) : Option BLine :=
  (s.homeSlice l).bind fun h => ((s.slice h.val).victims.find? fun v => v.old.line = l).map (·.old)

/-- The freshest copy of a line and its mark: an M or O holder, the basin, then memory (R279, R294, R301). -/
def State.freshest (s : State) (l : LineNo) : Line × Bool :=
  match s.dirtyCopy l with
  | some (_, c) => (c.data, c.poison)
  | none =>
    match s.evictCopy l with
    | some c => (c.data, c.poison)
    | none =>
      match s.basinCopy l with
      | some b => (b.data, b.poison)
      | none =>
        match s.transitCopy l with
        | some b => (b.data, b.poison)
        | none => s.memValue l

/-- `n` bytes from physical address `a`, each from the freshest copy of its line; and whether any is poisoned. -/
def State.freshBytes (s : State) (a n : Nat) : List Byte × Bool :=
  ((List.range n).map fun i => lineByte (s.freshest (lineOfAddr (a + i))).1 ((a + i) % 128),
   (List.range n).any fun i => (s.freshest (lineOfAddr (a + i))).2)

/-! ### Holders -/

/-- The line in a holder's L2. -/
def Holder.find (h : Holder) (l : LineNo) : Option CLine := h.l2.find? fun c => c.line = l

/-- The slot counts as holding the line: L1, L2 or a PREFETCH entry (R274). -/
def Holder.holds (h : Holder) (l : LineNo) : Bool :=
  (h.find l).isSome || h.side.any fun p => p.line = l

/-- Holder without the line anywhere (R251, R248); a PREFETCH line that goes was not promoted, which ends its stream's
run of promotions (R258). -/
def Holder.drop (h : Holder) (l : LineNo) : Holder :=
  { h with l2 := h.l2.filter fun c => c.line ≠ l, l1d := h.l1d.filter fun c => c.line ≠ l,
           l1i := h.l1i.filter fun c => c.line ≠ l, side := h.side.filter fun c => c.line ≠ l,
           streams := match h.side.find? fun p => p.line = l with
             | some p => Table.set 0 h.streams p.stream 0
             | none => h.streams }

def Holder.setState (h : Holder) (l : LineNo) (st : Moesi) : Holder :=
  { h with l2 := h.l2.map fun c => if c.line = l then { c with st := st } else c }

/-- Clear a core's reservation on a line (R140). -/
def LCore.clearResv (c : LCore) : LCore := { c with resv := none, resvHold := false }

/-- Clear the reservations on a line of every logical core but `except` (R140). -/
def State.clearResvs (s : State) (l : LineNo) (except : Option Lc) : State :=
  { s with lcs := s.lcs.map fun e =>
      if e.2.resv = some l ∧ except.map Fin.val ≠ some e.1 then (e.1, e.2.clearResv) else e }

/-- Contention predictor index of a line (R291). -/
def predIndex (l : LineNo) : Nat := (l.toNat % 256) ^^^ (l.toNat / 256 % 256)

/-- Change a predictor counter, saturating at 0 and 3 (R291). -/
def LCore.predict (c : LCore) (l : LineNo) (up : Bool) : LCore :=
  let v := (Table.get 0 c.contention (predIndex l)).toNat
  let w := if up then BitVec.ofNat 2 (min 3 (v + 1)) else BitVec.ofNat 2 (v - 1)
  { c with contention := Table.set 0 c.contention (predIndex l) w }

/-- A holder slot loses the line to an ownership request or an invalidation: caches and side buffer emptied of it,
reservation cleared, predictor trained when it was M or E (R140, R248, R291). -/
def State.slotInvalidate (s : State) (sl : Nat) (l : LineNo) : State :=
  let h := s.holder sl
  let excl : Bool := match h.find l with | some c => c.st == .m || c.st == .e | none => false
  let s1 := s.setHolder sl (h.drop l)
  match fin? 192 sl with
  | none => s1
  | some sf =>
    match s1.slotLc sf with
    | none => s1
    | some lc =>
      s1.modLc lc.val fun c =>
        let c1 := if c.resv = some l then c.clearResv else c
        if excl then c1.predict l true else c1

/-- Holder slots, by number, that hold the line, but for one. -/
def State.holderSlots (s : State) (l : LineNo) (except : Option Slot) : List Nat :=
  (s.holders.filter fun e => e.2.holds l && except.map Fin.val != some e.1).map (·.1)

/-- Invalidate the line in every holder but one, and clear every other core's reservation. -/
def State.invalidateAll (s : State) (l : LineNo) (except : Option Slot) : State :=
  (s.holderSlots l except).foldl (fun s sl => s.slotInvalidate sl l) s

/-! ### Basin (R257 to R264) -/

/-- Way mask of a QoS class on tile `t` (R41): parcel WAYS_CTt. -/
def Image.parcelWays (i : Image) (p t : Nat) : Nat := bits (wordAt i.qos (4 * p + 2)) (16 * t + 15) (16 * t)
def Image.ioWays (i : Image) (t : Nat) : Nat := bits (wordAt i.qos 64) (16 * t + 15) (16 * t)
def Image.accWays (i : Image) (t : Nat) : Nat := bits (wordAt i.qos 65) (16 * t + 15) (16 * t)

/-- Add to every age until some eligible one is 3 (R257). -/
def ageBy (ages : List Nat) : Nat := 3 - ages.foldl max 0

/-- Ways of a mask. -/
def waysOf (mask : Nat) : List Nat := (List.range 16).filter fun w => mask.testBit w

/-- Choose a way among `ways` for a set whose ways in use are `used` (way, age): the lowest invalid one, else age
all eligible ways and take the lowest of age 3 (R257).  Answers the way and the ageing applied. -/
def chooseWay (ways : List Nat) (used : List (Nat × Nat)) : Option (Nat × Nat) :=
  match ways.find? fun w => !used.any fun u => u.1 = w with
  | some w => some (w, 0)
  | none =>
    let el := used.filter fun u => ways.contains u.1
    let d := ageBy (el.map (·.2))
    (ways.find? fun w => el.any fun u => u.1 = w && 3 ≤ u.2 + d).map fun w => (w, d)

/-- The oldest victim in transit is accepted where its write queue has room: it goes to memory, the fill that displaced
it is installed, and the fills that waited may come again (R263, R264). -/
def State.victimAccept (s : State) (h : Nat) : State :=
  match (s.slice h).victims with
  | [] => s
  | v :: rest =>
    if s.wqFull v.old.line then s
    else
      let s1 := s.modSlice h fun sl => { sl with victims := rest, basin := sl.basin ++ [v.fill], waitSets := [] }
      s1.homeWrite v.old.line fullMask v.old.data v.old.poison

/-- Victims are accepted, oldest first, until none is in transit from the line or holds its fill back (R263). -/
def State.victimsFor (s : State) (h : Nat) (l : LineNo) : Nat → State
  | 0 => s
  | n + 1 =>
    if (s.slice h).victims.any fun v => v.old.line = l || v.fill.line = l then (s.victimAccept h).victimsFor h l n else s

def State.victimSettle (s : State) (l : LineNo) : State :=
  match s.homeSlice l with
  | some h => s.victimsFor h.val l (s.slice h.val).victims.length
  | none => s

/-- Ways of a set of the slice that a fill under a mask may take: those held for a fill that waits for its victim are
none of them (R261, R263). -/
def SliceSt.freeWays (sl : SliceSt) (set mask : Nat) : List Nat :=
  let pend := (sl.victims.map (·.fill)).filter fun b => homeSet b.line.toNat = set
  (waysOf mask).filter fun w => !pend.any fun b => b.way = w

/-- Way that a fill of the set takes, and the ageing applied (R257). -/
def SliceSt.choose (sl : SliceSt) (set mask : Nat) : Option (Nat × Nat) :=
  chooseWay (sl.freeWays set mask) ((sl.basin.filter fun b => homeSet b.line.toNat = set).map fun b => (b.way, b.age))

/-- The dirty line that a fill of the line displaces. -/
def SliceSt.displaced (sl : SliceSt) (l : LineNo) (mask : Nat) : Option BLine :=
  let set := homeSet l.toNat
  (sl.choose set mask).bind fun c => sl.basin.find? fun b => homeSet b.line.toNat = set && b.way = c.1 && b.dirty

/-- A fill of the line waits: one of its set waits already, every way it may take is held for another fill, or it
displaces a dirty line while four victims are in transit (R264). -/
def State.fillWaits (s : State) (l : LineNo) (mask : Nat) : Bool :=
  match s.homeSlice l with
  | none => false
  | some h =>
    let sl := s.slice h.val
    let set := homeSet l.toNat
    !(sl.basin.any fun b => b.line = l) &&
      (sl.waitSets.contains set || (mask ≠ 0 && (sl.freeWays set mask).isEmpty) ||
        (4 ≤ sl.victims.length && (sl.displaced l mask).isSome))

/-- A fill of the line displaces a dirty line whose write queue, or that of a victim before it, has no room: what completes
with its fill waits (R263). -/
def State.fillStuck (s : State) (l : LineNo) (mask : Nat) : Bool :=
  match s.homeSlice l with
  | none => false
  | some h =>
    let sl := s.slice h.val
    !(sl.basin.any fun b => b.line = l) &&
      (match sl.displaced l mask with
       | some b => s.wqFull b.line || sl.victims.any fun v => s.wqFull v.old.line
       | none => false)

/-- A fill waits, and so do later fills to its set until a victim is accepted (R264). -/
def State.waitFill (s : State) (l : LineNo) : State :=
  match s.homeSlice l with
  | none => s
  | some h => s.modSlice h.val fun sl => { sl with waitSets := (homeSet l.toNat :: sl.waitSets).eraseDups }

/-- What is on its way to the line's place below the home slice cannot settle yet: its write queue is full, or a victim of
the line, or the victim that holds its fill back, waits for one (R263, R314). -/
def State.homeWaits (s : State) (l : LineNo) : Bool :=
  s.wqFull l ||
    (match s.homeSlice l with
     | none => false
     | some h =>
       let vs := (s.slice h.val).victims
       (vs.any fun v => v.fill.line = l || v.old.line = l) && vs.any fun v => s.wqFull v.old.line)

/-- Allocate a line in its basin slice under a way mask (R257, R260, R261), or update it in place with age `hit`; a dirty
victim waits in transit and holds the fill back (R263). -/
def State.basinFill (s : State) (l : LineNo) (d : Line) (dirty poison : Bool) (mask age hit : Nat) : State :=
  match s.homeSlice l with
  | none => s
  | some hf =>
    let h := hf.val
    let s := s.victimSettle l
    let sl := s.slice h
    let set := homeSet l.toNat
    match sl.basin.find? fun b => b.line = l with
    | some _ =>
      let upd (b : BLine) : BLine :=
        if b.line = l then { b with data := d, dirty := dirty, poison := poison, age := hit } else b
      s.setSlice h { sl with basin := sl.basin.map upd }
    | none =>
      let inSet := sl.basin.filter fun b => homeSet b.line.toNat = set
      match sl.choose set mask with
      | none => s.homeWrite l fullMask d poison
      | some (w, up) =>
        let aged := sl.basin.map fun (b : BLine) =>
          if homeSet b.line.toNat = set ∧ mask.testBit b.way then { b with age := min 3 (b.age + up) } else b
        let fill : BLine := ⟨l, d, dirty, poison, w, age⟩
        match inSet.find? fun b => b.way = w with
        | none => s.setSlice h { sl with basin := aged ++ [fill] }
        | some old =>
          let rest := aged.filter fun b => b.line ≠ old.line
          if old.dirty then s.setSlice h { sl with basin := rest, victims := sl.victims ++ [⟨old, fill⟩] }
          else s.setSlice h { sl with basin := rest ++ [fill] }

/-- A basin hit sets the way's age to 0 (R257, R261). -/
def State.basinTouch (s : State) (l : LineNo) : State :=
  match s.homeSlice l with
  | none => s
  | some h => s.modSlice h.val fun sl =>
      { sl with basin := sl.basin.map fun b => if b.line = l then { b with age := 0 } else b }

/-- A request that opens on a filter entry sets its age to 0 (R289). -/
def State.sfTouch (s : State) (l : LineNo) : State :=
  match s.homeSlice l with
  | none => s
  | some h => s.modSlice h.val fun sl =>
      { sl with sf := sl.sf.map fun (e : SfEntry) => if e.line = l then { e with age := 0 } else e }

/-- Remove the basin copy of a line. -/
def State.basinDrop (s : State) (l : LineNo) : State :=
  match s.homeSlice l with
  | none => s
  | some h => s.modSlice h.val fun sl => { sl with basin := sl.basin.filter fun b => b.line ≠ l }

/-- Data returned by a holder's snoop answer is written to memory through the home slice (R278); a basin copy of the
line takes the same value and is clean (log entry 12). -/
def State.snoopWrite (s : State) (l : LineNo) (d : Line) (poison : Bool) : State :=
  let s := s.victimSettle l
  let s1 := match s.homeSlice l with
    | none => s
    | some h => s.modSlice h.val fun sl =>
        { sl with basin := sl.basin.map fun (b : BLine) =>
            if b.line = l then { b with data := d, dirty := false, poison := poison } else b }
  s1.homeWrite l fullMask d poison

/-! ### Snoop-filter entries (Table 10.1) -/

def bvPut {n : Nat} (v : BitVec n) (i : Nat) (b : Bool) : BitVec n :=
  if b then v ||| (1#n <<< i) else v &&& ~~~(1#n <<< i)

/-- Owner code of a slot as seen from home tile `ht`. -/
def ownerCode (ht sl : Nat) : Nat := if sl / 48 = ht then sl % 48 else 48 + sl / 48

/-- The entry names the slot, or its remote tile. -/
def SfEntry.names (e : SfEntry) (ht sl : Nat) : Bool :=
  if sl / 48 = ht then e.loc.getLsbD (sl % 48) else e.remote.getLsbD (sl / 48)

/-- Record a holder. -/
def SfEntry.addHolder (e : SfEntry) (ht sl : Nat) : SfEntry :=
  if sl / 48 = ht then { e with loc := bvPut e.loc (sl % 48) true }
  else { e with remote := bvPut e.remote (sl / 48) true }

/-- A slot of the home tile leaves; a REMOTE bit stays (R275). -/
def SfEntry.dropHolder (e : SfEntry) (ht sl : Nat) : SfEntry :=
  let e1 := if sl / 48 = ht then { e with loc := bvPut e.loc (sl % 48) false } else e
  if e.owner.toNat = ownerCode ht sl then { e1 with owner := 63 } else e1

def State.sfGet (s : State) (h : Nat) (l : LineNo) : Option SfEntry := (s.slice h).sf.find? fun e => e.line = l

/-- Write an entry back; one that names no one and is not pinned becomes invalid (R280). -/
def State.sfPut (s : State) (h : Nat) (e : SfEntry) : State :=
  s.modSlice h fun sl =>
    let rest := sl.sf.filter fun x => x.line ≠ e.line
    { sl with sf := if e.loc = 0 && e.remote = 0 && !e.pin then rest else rest ++ [e] }

def State.sfMod (s : State) (h : Nat) (l : LineNo) (f : SfEntry → SfEntry) : State :=
  match s.sfGet h l with
  | some e => s.sfPut h (f e)
  | none => s

/-- Slots that hold the line, or have a dirty eviction of it on its way home. -/
def State.slotsWith (s : State) (l : LineNo) : List Slot :=
  (s.holders.filter fun e => e.2.holds l || e.2.evict.any fun c => c.line = l && (c.st == .m || c.st == .o)).filterMap
    fun e => fin? 192 e.1

/-- REMOTE bits of the tiles on which one of the slots is, of those that `r` has. -/
def keepRemote (r : BitVec 4) (held : List Slot) : BitVec 4 :=
  (List.range 4).foldl (fun v t => if held.any fun sl => sl.val / 48 = t then v else bvPut v t false) r

/-- Every named holder has answered SNP_INV, of which `held` held the line: the REMOTE bit of a tile goes where the whole
tile answered MISS, and by no other means (R275). -/
def SfEntry.invalidated (e : SfEntry) (held : List Slot) : SfEntry :=
  { e with loc := 0, remote := keepRemote e.remote held, owner := 63 }

/-- The home slice has invalidated the holders of a line, which were `held`. -/
def State.sfEnd (s : State) (l : LineNo) (held : List Slot) : State :=
  match s.homeSlice l with
  | none => s
  | some h => s.sfMod h.val l fun e => if e.pin then e else e.invalidated held

/-! ### Open transactions (R280) -/

def State.txnAt (s : State) (h : Nat) (l : LineNo) : Option Txn := (s.slice h).txns.find? fun t => t.line = l
def State.txn (s : State) (l : LineNo) : Option Txn := (s.homeSlice l).bind fun h => s.txnAt h.val l
def State.modTxn (s : State) (h : Nat) (l : LineNo) (f : Txn → Txn) : State :=
  s.modSlice h fun sl => { sl with txns := sl.txns.map fun t => if t.line = l then f t else t }

/-- A request or a write after the start instant of a maintenance operation reaches a line that it has still to act on
(R267). -/
def State.maintTouch (s : State) (l : LineNo) : State :=
  match s.homeSlice l with
  | none => s
  | some h => s.modSlice h.val fun sl =>
      { sl with maint := sl.maint.map fun (o : MaintOp) =>
          if o.todo.contains l && !o.touched.contains l then { o with touched := l :: o.touched } else o }

/-! ### WRITEBACK (R276, R282, R283) -/

/-- The home tile of an address is live (R303). -/
def State.homeLive (s : State) (pa : Nat) : Bool :=
  match s.homeTile pa with
  | some t => s.tileLive (1 + t)
  | none => false

/-- Parcel way mask of the logical core in a slot, on tile `t` (Table 9.4). -/
def State.slotWays (s : State) (sl : Slot) (t : Nat) : Nat :=
  match s.slotLc sl, s.qosImage (1 + t) with
  | some lc, some i => i.parcelWays (pswParcel (s.lc lc.val).psw) t
  | _, _ => 0xFFFF

/-- WRITEBACK of a dirty eviction: accepted always (R282), allocated in the basin where its fill need not wait (R264), the
holder removed (R276), the data handed to a transaction whose snoop the slot answered with WB_PENDING (R283). -/
def State.writeback (s : State) (sl : Slot) (l : LineNo) : State :=
  match (s.holder sl.val).evict.find? fun c => c.line = l && (c.st == .m || c.st == .o), s.homeSlice l with
  | some c, some h =>
    let s1 := s.modHolder sl.val fun x => { x with evict := x.evict.filter fun y => y ≠ c }
    let ways := s.slotWays sl (h.val / 6)
    if !s.homeLive (lineAddr l) then s1
    else if s.homeWaits l then s
    else if s.fillWaits l ways then s.waitFill l
    else
      let old := if c.stream then 3 else 1
      let s2 := s1.basinFill l c.data true c.poison ways old (if c.stream then 3 else 0)
      (s2.sfMod h.val l fun e => e.dropHolder (h.val / 6) sl.val).modTxn h.val l fun t =>
        if t.snoops.any fun m => m.slot = sl && m.answer = some (.wbPending, none) then { t with data := some (c.data, c.poison) }
        else t
  | _, _ => s

/-- The home slice orders a request for a line after what is already on its way: WRITEBACKs of the line arrive, and its
victims in transit and waiting fills settle (R263, R282, R283). -/
def State.homeArrive (s : State) (l : LineNo) : State :=
  ((s.slotsWith l).foldl (fun s x => s.writeback x l) s).victimSettle l

/-! ### Agents without caches (R294 to R296) -/

/-- Memory at `pa` can be reached: it has a home on a live tile, and a CXL port in service (R303, R311, R409). -/
def State.memReachable (s : State) (pa : Nat) : Bool :=
  s.homeLive pa &&
    (match s.place pa with
     | .cxl p => (s.port p.val).st == .active
     | _ => true)

/-- PEEK of `n` bytes (R294): the freshest bytes and their mark, or an error response; a basin hit updates age. -/
def State.peek (s : State) (pa n : Nat) : Option (List Byte × Bool) :=
  if s.memReachable pa && s.memReachable (pa + n - 1) then some (s.freshBytes pa n) else none

/-- Basin allocation class of an INV_WRITE (Table 9.4): path engines and queue managers the I/O mask, accelerators
theirs; others, and the keeper, never allocate. -/
def State.writeWays (s : State) (m : Master) (t : Nat) : Option Nat :=
  match m, s.qosImage (1 + t) with
  | .pathEngine _, some i | .qdma _, some i => some (i.ioWays t)
  | .acc _, some i | .slot _ _, some i => some (i.accWays t)
  | _, _ => none

/-- INV_WRITE of bytes inside one line (R295); it completes when a victim that its fill displaces has been accepted
(R263). -/
def State.invWriteLine (s : State) (m : Master) (l : LineNo) (o : Nat) (bs : List Byte) : State :=
  let s := (s.homeArrive l).maintTouch l
  let dirtyHolder := s.dirtyCopy l
  let fresh := s.freshest l
  let inBasin := s.basinCopy l
  let s1 := ((s.invalidateAll l none).clearResvs l none).sfEnd l (s.slotsWith l)
  let mask := byteMask o bs.length
  if bs.length = 128 then
    let d := lineOf bs
    match s1.homeTile (lineAddr l) with
    | none => s1
    | some t =>
      match s1.writeWays m t with
      | some w => (s1.basinFill l d true false w 3 0).victimSettle l
      | none => if inBasin.isSome then (s1.basinDrop l).homeWrite l fullMask d false else s1.homeWrite l fullMask d false
  else
    let d := lineWrite fresh.1 o bs
    match inBasin with
    | some _ => s1.modSlice ((s1.homeSlice l).elim 0 Fin.val) fun sl =>
        { sl with
          basin := sl.basin.map fun x =>
            if x.line = l then { x with data := d, dirty := true, poison := fresh.2, age := 0 } else x }
    | none =>
      match dirtyHolder with
      | some _ => s1.homeWrite l fullMask d fresh.2
      | none => s1.homeWrite l mask (lineWrite 0 o bs) false

/-- INV_WRITE of a byte string, line by line; an error response when any part is out of reach, and then nothing is
written of that line (R295, R303). -/
def State.invWriteAux (s : State) (m : Master) : Nat → Nat → List Byte → State
  | 0, _, _ => s
  | f + 1, a, bs =>
    if bs.isEmpty then s
    else
      let n := min bs.length (128 - a % 128)
      let s1 := if s.memReachable a then s.invWriteLine m (lineOfAddr a) (a % 128) (bs.take n) else s
      s1.invWriteAux m f (a + n) (bs.drop n)

def State.invWriteBytes (s : State) (m : Master) (a : Nat) (bs : List Byte) : State :=
  s.invWriteAux m (bs.length / 128 + 2) a bs

/-- Every byte of the range can be reached. -/
def State.rangeReachable (s : State) (a n : Nat) : Bool :=
  n = 0 || (List.range ((a + n - 1) / 128 - a / 128 + 1)).all fun i => s.memReachable ((a / 128 + i) * 128)

/-! ### The firewall (R58) -/

/-- Grant kind that covers an address: CONTROL in control space, MEMORY elsewhere. -/
def grantKind (pa : Nat) : Nat := if csBase ≤ pa then 4 else 1

/-- Rights needed. -/
def needR : Nat := 1
def needW : Nat := 2
def needRW : Nat := 3
def needX : Nat := 4

/-- Both ends of the access lie in grants of one of the owners, with the rights it needs. -/
def State.fwAllows (s : State) (owners : List Nat) (pa n need : Nat) : Bool :=
  match s.image with
  | none => false
  | some i =>
    let ok (a : Nat) := owners.any fun o => i.granted o (grantKind a) a need
    ok pa && (n ≤ 1 || ok (pa + n - 1))

/-- The firewall's answer to an access of a master; the keeper is not checked. -/
def State.fwPass (s : State) (m : Master) (pa n need : Nat) : Bool :=
  match m with
  | .keeper | .collector _ => true
  | _ => s.fwAllows (s.masterOwners m) pa n need

/-- The pages of a range, each by the first address of the range in it. -/
def rangePages (a n : Nat) : List Nat :=
  if n = 0 then [] else (List.range ((a + n - 1) / 4096 - a / 4096 + 1)).map fun i => max a ((a / 4096 + i) * 4096)

/-- Every 4 KiB page of a range passes the firewall for a master. -/
def State.fwRange (s : State) (m : Master) (a n need : Nat) : Bool := (rangePages a n).all fun p => s.fwPass m p 1 need

/-- The address that the firewall denies in a range (R60). -/
def State.fwDenied (s : State) (m : Master) (a n need : Nat) : Nat :=
  ((rangePages a n).find? fun p => !s.fwPass m p 1 need).getD a

/-! ### Breaching (R256, R300) -/

/-- The line's copies in the basin are dropped, its memory location is marked, and the breach is logged; the mark
leaves the data as it stands. -/
def State.breachLine (s : State) (l : LineNo) (cause holder : Nat) : State :=
  let s1 := (s.basinDrop l).markBreach l
  let s2 := match s1.homeSlice l with
    | some h =>
      let upd (v : Victim) : Victim :=
        if v.fill.line = l then { v with fill := { v.fill with poison := true } }
        else if v.old.line = l then { v with old := { v.old with poison := true } } else v
      s1.modSlice h.val fun sl => { sl with victims := sl.victims.map upd }
    | none => s1
  s2.brLog l cause holder

/-- Source ID of a home slice's coherence block. -/
def cohSrc (h : Nat) : Nat := srcId (1 + h / 6) 0x06 (h % 6)
def basinSrc (h : Nat) : Nat := srcId (1 + h / 6) 0x05 (h % 6)

/-- A breach by agent death: with its BREACH fault and the count of COH_RECLAIM (R300). -/
def State.deathBreach (s : State) (l : LineNo) (holder : Nat) : State :=
  match s.homeSlice l with
  | none => s
  | some h =>
    let t : Ct := ⟨h.val / 6, by omega⟩
    let rs := (s.ct t.val).reclaims
    let n := rs.getLastD 0 + 1
    let s1 := ((s.breachLine l 0 holder).modCt t.val fun c => { c with reclaims := rs.dropLast ++ [n] }).setFld
      (.cohReclaim t) 31 0 n
    s1.report (cohSrc h.val) 0x2E clsContained (lineAddr l)

end Sys2Proof.Machine
end

