-- ==== Sys2Proof/Machine/Replica.lean ====
section
/-! DEFINITION. Replicas of a logical core: group events, slot states, odd replicas, pair mismatches and rollbacks
(chapter 8), as far as the retirement of an instruction needs them. -/

namespace Sys2Proof.Machine

/-! ### Sources and events (Table 8.9, R238) -/

def gateSrc (i : Nat) : Nat := srcId (1 + i / 12) 0x02 (i % 12)
def voterSrc (i k : Nat) : Nat := srcId (1 + i / 12) 0x03 (3 * (i % 12) + k)

def evVoteMismatch : Nat := 0x01
def evNoMajority : Nat := 0x02
def evPairMismatch : Nat := 0x03
def evSimplexRetry : Nat := 0x04
def evSimplexHard : Nat := 0x05
def evResyncFail : Nat := 0x06
def evSpared : Nat := 0x07
def evSpareExhausted : Nat := 0x08
def evGateDr : Nat := 0x09
def evGateDrUe : Nat := 0x0A
def evVoterSelf : Nat := 0x0B
def evGroupLost : Nat := 0x0C
def evLockstepSplit : Nat := 0x0D
def evMigrated : Nat := 0x0E
def evRejoined : Nat := 0x0F

/-- Base class of an event. -/
def evClass (ev : Nat) : Nat :=
  if ev = 0x01 || ev = 0x03 || ev = 0x04 || ev = 0x09 || ev = 0x0B then clsCorrected
  else if ev = 0x07 || ev = 0x0D || ev = 0x0E || ev = 0x0F then clsNote
  else if ev = 0x0C then clsSevere
  else clsContained

/-- Raise a group event: a fault message, and GRP_LAST. -/
def State.grpEvent (s : State) (i : Island) (src ev cls addr core sl off : Nat) : State :=
  (s.setReg (.grpLast i) (BitVec.ofNat 64 (ev * 2 ^ 56 + core % 4 * 2 ^ 54 + sl % 4 * 2 ^ 52 + off % 2 ^ 48))).report
    src (ev + 0x0F) cls addr

/-! ### Cores and slots of an island -/

def Isl.modCore (x : Isl) (c : Fin 4) (f : PCore → PCore) : Isl := { x with cores := x.cores.set c (f (x.cores.get c)) }
def Isl.modSlot (x : Isl) (k : Fin 4) (f : IslSlot → IslSlot) : Isl := { x with slots := x.slots.set k (f (x.slots.get k)) }

def State.modCore (s : State) (i : Island) (c : Fin 4) (f : PCore → PCore) : State := s.modIsl i.val fun x => x.modCore c f

/-- Healthy replicas of a slot (GRP_STATUS.SLOT_REPL). -/
def Isl.healthy (x : Isl) (k : Fin 4) : Nat := ((x.slots.get k).positions.filter fun c => (x.cores.get c).healthy).length

/-- SLOT_STATE follows from the cores, but for the states that an event sets. -/
def Isl.refresh (x : Isl) (k : Fin 4) : Isl :=
  let sl := x.slots.get k
  match sl.lc with
  | none => x.modSlot k fun y => { y with st := .none }
  | some _ =>
    if sl.st == .split || sl.st == .stopped || sl.st == .lost || sl.st == .migrating then x
    else
      let st : SlotSt :=
        if sl.positions.any fun c => (x.cores.get c).role == .rejoining then .resync
        else if sl.width ≤ x.healthy k then .full
        else .reduced
      x.modSlot k fun y => { y with st := st }

def State.refreshSlot (s : State) (i : Island) (k : Fin 4) : State := s.modIsl i.val fun x => x.refresh k

/-- Island and slot position that host a logical core. -/
def hostIsland (h : Slot) : Island := ⟨h.val / 4, by omega⟩

/-- At a rejoin or a synchronisation point every removed voter copy takes the self-check; one that passes, and is not out
until COMPOSE, returns (R234). -/
def Isl.voterCheck (x : Isl) : Isl := { x with voterOk := x.voterOk ||| ~~~ (x.voterDead ||| x.voterBad) }

/-- The logical core's group stands at a synchronisation point (R207). -/
def State.syncVoters (s : State) (lc : Lc) : State :=
  match (s.lc lc.val).host with
  | some h => s.modIsl (hostIsland h).val Isl.voterCheck
  | none => s

/-- Charge a mismatch to core `c` (GRP_COUNT.MISMATCH). -/
def State.chargeCore (s : State) (i : Island) (c : Fin 4) : State := s.bump (.grpCount i) (8 * c.val + 7) (8 * c.val) 1

/-- Core `c` starts to be resynchronised into its slot, at a phase (R218). -/
def State.startResync (s : State) (i : Island) (c : Fin 4) (p : Phase) : State :=
  let k := ((s.isl i.val).cores.get c).slot
  (s.modCore i c fun x => { x with role := .rejoining, odd := true, phase := p, attempts := 0, gated := p == .wake }).refreshSlot
    i k

/-- The replica of a full triple that differs is marked odd and resynchronised; `counted` raises VOTE_MISMATCH
against it (R216, R233, R239). -/
def State.markOdd (s : State) (i : Island) (c : Fin 4) (off : Nat) (counted : Bool) : State :=
  let x := (s.isl i.val).cores.get c
  let s1 := s.startResync i c .test
  if counted then
    (s1.chargeCore i c).grpEvent i (coreSrc (4 * i.val + c.val)) evVoteMismatch clsCorrected (x.lc.elim 0 Fin.val) c.val
      x.slot.val off
  else s1

/-- The instruction in execution is discarded, and with it the requests that it has outstanding: those for ownership and far
atomics, but for the ownership that released stores wait for (R287). -/
def State.discardReqs (s : State) (sl : Slot) (l : LCore) : State :=
  { s with outReqs := s.outReqs.map fun (o : Outstanding) =>
      if o.req = .slot sl ∧ (o.kind = .readOwn ∨ o.kind = .upgrade ∨ o.kind = .farAtomic) ∧
          !(l.storeBuf.any fun e => lineOfAddr e.addr = o.line) then { o with dropped := true }
      else o }

/-- A rollback to the retirement checkpoint: the side buffer is discarded and the reservation cleared, and requests of the
discarded instruction are not sent again (R214, R248, R287). -/
def State.rollback (s : State) (lc : Lc) : State :=
  let s1 := s.modLc lc.val fun c => { c.clearResv with micro := none, far := none }
  match (s.lc lc.val).host with
  | some h => (s1.modHolder h.val fun x => { x with side := [], streams := [] }).discardReqs h (s.lc lc.val)
  | none => s1

/-- A resynchronisation under way in a slot is taken back to INVALIDATE (Table 8.7). -/
def State.resyncBack (s : State) (i : Island) (k : Fin 4) : State :=
  ((s.isl i.val).slots.get k).positions.foldl (fun s c => s.modCore i c fun x =>
    if x.role == .rejoining && (x.phase == .mirror || x.phase == .wait) then { x with phase := .invalidate } else x) s

/-- The two replicas of a pair differ: both roll back and re-execute; `counted` raises PAIR_MISMATCH against the
slot's first core (R224, R233). -/
def State.pairMismatch (s : State) (lc : Lc) (h : Slot) (off : Nat) (counted : Bool) : State :=
  let i := hostIsland h
  let k := slotPos h
  let c := (s.isl i.val).lead k
  let s1 := (s.rollback lc).resyncBack i k
  if counted then
    (s1.chargeCore i c).grpEvent i (coreSrc (4 * i.val + c.val)) evPairMismatch clsCorrected lc.val c.val k.val off
  else s1

/-- Every member of the core's group holds its banks (R189, R192). -/
def State.giveBanks (s : State) (lc : Lc) : State :=
  let l := s.lc lc.val
  match l.host with
  | none => s
  | some h => s.modIsl (hostIsland h).val fun x =>
      (x.slots.get (slotPos h)).positions.foldl (fun x c => x.modCore c fun y => { y with bank0 := l.bank0, bank1 := l.bank1 }) x

/-- Healthy cores of a slot in order of stagger. -/
def Isl.voting (x : Isl) (k : Fin 4) : List (Fin 4) := (x.slots.get k).positions.filter fun c => (x.cores.get c).healthy

/-- Something strikes a healthy core of the logical core's slot at its next retirement. -/
def State.struck (s : State) (lc : Lc) : Bool :=
  match (s.lc lc.val).host with
  | none => false
  | some h =>
    let x := s.isl (hostIsland h).val
    (x.voting (slotPos h)).any fun c => !(x.cores.get c).upsets.isEmpty

/-! ### Voters (R215) -/

/-- What the voters find on the values that the healthy cores present: all alike, one that differs from the others, or no
two thirds alike. -/
inductive Verdict where
  | agree
  | odd (c : Fin 4)
  | differ
  deriving DecidableEq, Repr

/-- The bitwise majority of three outputs, which a voter copy forms. -/
def majority (a b c : Nat) : Nat := (a &&& b) ||| (a &&& c) ||| (b &&& c)

/-- The comparison of a triple, a pair or a simplex core: a lone core passes, a pair agrees or differs, in a triple the
one core that stands against the two others is named. -/
def verdict {α : Type} [DecidableEq α] (vs : List (Fin 4 × α)) : Verdict :=
  match vs with
  | [] | [_] => .agree
  | [a, b] => if a.2 = b.2 then .agree else .differ
  | a :: b :: c :: _ =>
    if a.2 = b.2 then (if b.2 = c.2 then .agree else .odd c.1)
    else if a.2 = c.2 then .odd b.1
    else if b.2 = c.2 then .odd a.1
    else .differ

end Sys2Proof.Machine
end

