-- ==== Sys2Proof/Machine/Except.lean ====
section
/-! DEFINITION. How an instruction of a logical core ends, precise exceptions and their entry, the structure
firewall's freeze, segments, paging in two stages, and the fetch check (chapter 4; R58 to R60). -/

namespace Sys2Proof.Machine

/-! ### Ends of an instruction -/

/-- A cause of Table 4.10 with what the entry records. -/
structure Exc where
  code : Nat
  sub : Nat := 0
  slot : Bool := false
  /-- xADDR. -/
  addr : Nat := 0
  /-- xINFO.ACCESS: 0 none, 1 fetch, 2 read, 3 write, 4 read-modify-write. -/
  access : Nat := 0
  /-- The resume offset is the one after the word (SVC, HVC). -/
  after : Bool := false
  deriving DecidableEq, Repr

/-- How an operation of an instruction ends: with a value, with a precise exception, with a firewall violation at a
physical address (R60), or not yet; with an exception, or not yet, in a state that it has changed: a request sent or
NACKed, a cache error met, a translation cached. -/
inductive Res (α : Type) where
  | ok (a : α)
  | exc (e : Exc)
  | freeze (pa : Nat)
  | wait
  | excIn (s : State) (e : Exc)
  | waitIn (s : State)

def Res.bind {α β : Type} : Res α → (α → Res β) → Res β
  | .ok a, f => f a
  | .exc e, _ => .exc e
  | .freeze p, _ => .freeze p
  | .wait, _ => .wait
  | .excIn s e, _ => .excIn s e
  | .waitIn s, _ => .waitIn s

def Res.map {α β : Type} (r : Res α) (f : α → β) : Res β := r.bind fun a => .ok (f a)

/-- What an operation that begins in `s` ends with leaves `s` as it is. -/
def Res.inState {α : Type} (r : Res α) (s : State) : Res α :=
  match r with
  | .exc e => .excIn s e
  | .wait => .waitIn s
  | x => x

/-- Continue only if `c`, else raise. -/
def check (c : Bool) (e : Exc) : Res Unit := if c then .ok () else .exc e

def excIllegal (sub : Nat) : Exc := { code := 0x01, sub := sub }
def excPrivilege : Exc := { code := 0x02 }

/-! ### PSW and banks -/

/-- The banked registers of the world the core runs in (R87, R457). -/
def LCore.bank (l : LCore) : WorldBank := if pswPolder l.psw then l.pold else l.fore
def LCore.setBank (l : LCore) (b : WorldBank) : LCore := if pswPolder l.psw then { l with pold := b } else { l with fore := b }

def LCore.level (l : LCore) : Nat := pswLevel l.psw
def LCore.gv (l : LCore) : Bool := pswGv l.psw

/-- Flags of PSW[19:16]: N, Z, C, OV. -/
structure FlagBits where
  n : Bool
  z : Bool
  c : Bool
  ov : Bool
  deriving DecidableEq, Repr

def LCore.flags (l : LCore) : FlagBits := ⟨l.psw.getLsbD 19, l.psw.getLsbD 18, l.psw.getLsbD 17, l.psw.getLsbD 16⟩
def LCore.setFlags (l : LCore) (f : FlagBits) : LCore :=
  { l with psw := setBits l.psw 19 16 (8 * f.n.toNat + 4 * f.z.toNat + 2 * f.c.toNat + f.ov.toNat) }

def setBit (w : Word) (i : Nat) (b : Bool) : Word := setBits w i i b.toNat

/-! ### Segments (Table 4.7, R100 to R102) -/

def descValid (d : Quad) : Bool := d.getLsbD 127
def descWorld (d : Quad) : Bool := d.getLsbD 126
def descFloor (d : Quad) : Nat := qbits d 125 124
def descLimit (d : Quad) : Nat := qbits d 120 64
def descBase (d : Quad) : Nat := qbits d 56 0
/-- Rights bits of a descriptor in the numbering of R39: 1 read, 2 write, 4 execute. -/
def descRights (d : Quad) : Nat := (d.getLsbD 121).toNat + 2 * (d.getLsbD 122).toNat + 4 * (d.getLsbD 123).toNat

/-- R101. -/
def descWellFormed (d : Quad) : Bool :=
  qbits d 63 57 = 0 && qbits d 6 0 = 0 && descFloor d ≠ 3 && !(descFloor d = 2 && descWorld d)

def excSeg (sub off : Nat) : Exc := { code := 0x05, sub := sub, addr := off }
def excLimit (off : Nat) : Exc := { code := 0x04, addr := off }

/-- The checks of R102 in order; answers the linear address. -/
def segCheck (d : Quad) (polder : Bool) (level off size need : Nat) : Res Nat :=
  if !descValid d then .exc (excSeg 0x01 off)
  else if descWorld d && !polder then .exc (excSeg 0x04 off)
  else if level < descFloor d then .exc (excSeg 0x03 off)
  else if !hasRights (descRights d) need then .exc (excSeg 0x02 off)
  else if off + size - 1 > descLimit d then .exc (excLimit off)
  else if descBase d + off + size - 1 ≥ 2 ^ 57 then .exc (excLimit off)
  else .ok (descBase d + off)

/-! ### Paging (R104 to R109, Table 4.8) -/

/-- A successful translation of one page. -/
structure Page where
  /-- log2 of the page size. -/
  size : Nat
  frame : Nat
  uncached : Bool
  global : Bool
  user : Bool
  rights : Nat
  dirty : Bool
  deriving DecidableEq, Repr

/-- A page cause, with the level at which its check failed. -/
structure PageFail where
  code : Nat
  level : Nat
  deriving DecidableEq, Repr

def pteRights (e : Word) : Nat := (e.getLsbD 2).toNat + 2 * (e.getLsbD 3).toNat + 4 * (e.getLsbD 4).toNat
def pteFrame (e : Word) : Nat := bits e 51 12 * 2 ^ 12

/-- BAD_PTE conditions of an entry read at level `n` (R105, R106); `big` for a 64 KiB lead entry, `s2` for stage 2. -/
def pteBad (e : Word) (n : Nat) (big s2 : Bool) : Bool :=
  let leaf := e.getLsbD 1
  let sz := if n = 3 then 30 else if n = 2 then 21 else if big then 16 else 12
  bits e 63 52 ≠ 0 || bits e 11 10 ≥ 2 || (leaf && n ≥ 4) || (!leaf && n = 1) ||
    (leaf && pteFrame e % 2 ^ sz ≠ 0) || (leaf && e.getLsbD 3 && !e.getLsbD 2) ||
    (!leaf && bits e 11 2 ≠ 0) || (e.getLsbD 9 && !big) || (s2 && (e.getLsbD 5 || e.getLsbD 8))

/-- The page a leaf entry maps. -/
def ptePage (e : Word) (n : Nat) (big : Bool) : Page :=
  { size := if n = 3 then 30 else if n = 2 then 21 else if big then 16 else 12
    frame := pteFrame e
    uncached := bits e 11 10 = 1
    global := e.getLsbD 8
    user := e.getLsbD 5
    rights := pteRights e
    dirty := e.getLsbD 7 }

/-- The leaf's rights and flags for an access (R106 steps 3 and 4): `u` access at U, `x` a fetch. -/
def pageRights (p : Page) (need : Nat) (u s2 : Bool) : Option Nat :=
  if !hasRights p.rights need then some 0x07
  else if !s2 && u && !p.user then some 0x07
  else if !s2 && !u && hasRights need needX && p.user then some 0x07
  else if hasRights need needW && !p.dirty then some 0x08
  else none

/-- Walk from level `n` with the table at `tbl`; `rd` reads an entry and says which lines it read.  Answers the page, or the
page cause and level, and the lines read. -/
def walk (rd : Nat → Res (Word × List LineNo)) (va : Nat) (need : Nat) (u s2 : Bool) :
    Nat → Nat → Res ((Page ⊕ PageFail) × List LineNo)
  | 0, _ => .ok (.inr ⟨0x06, 0⟩, [])
  | n + 1, tbl =>
    let lvl := n + 1
    let idx := va / 2 ^ (12 + 9 * n) % 512
    let leafOf (e : Word) (big : Bool) : Page ⊕ PageFail :=
      let p := ptePage e lvl big
      match pageRights p need u s2 with
      | some c => .inr ⟨c, lvl⟩
      | none => if e.getLsbD 6 then .inl p else .inr ⟨0x08, lvl⟩
    let entry (e : Word × List LineNo) : Res ((Page ⊕ PageFail) × List LineNo) :=
      if !e.1.getLsbD 0 then .ok (.inr ⟨0x06, lvl⟩, e.2)
      else if pteBad e.1 lvl false s2 then .ok (.inr ⟨0x09, lvl⟩, e.2)
      else if e.1.getLsbD 1 then .ok (leafOf e.1 false, e.2)
      else (walk rd va need u s2 n (pteFrame e.1)).map fun r => (r.1, e.2 ++ r.2)
    if n = 0 then
      (rd (tbl + 8 * (idx / 16 * 16))).bind fun lead =>
        if lead.1.getLsbD 0 && lead.1.getLsbD 9 then
          .ok (if pteBad lead.1 1 true s2 then .inr ⟨0x09, 1⟩ else leafOf lead.1 true, lead.2)
        else (rd (tbl + 8 * idx)).bind entry
    else (rd (tbl + 8 * idx)).bind entry

/-- The page of a cached translation. -/
def TlbEntry.page (t : TlbEntry) : Page :=
  { size := t.size, frame := t.frame.toNat, uncached := t.uncached, global := t.global, user := t.user
    rights := t.r.toNat + 2 * t.w.toNat + 4 * t.x.toNat, dirty := t.dirty }

/-- Level of a page size. -/
def levelOfSize (sz : Nat) : Nat := if sz = 30 then 3 else if sz = 21 then 2 else 1

/-- A cached translation serves this context and address (R110, R457). -/
def TlbEntry.matches (t : TlbEntry) (l : LCore) (stage2 atH : Bool) (asid va : Nat) : Bool :=
  t.stage2 == stage2 && t.parcel.toNat = pswParcel l.psw && t.polder == pswPolder l.psw && t.atH == atH &&
    t.guest == (if l.gv then some (BitVec.ofNat 8 (pswGuest l.psw)) else none) &&
    (stage2 || t.global || t.asid.toNat = asid) && va / 2 ^ t.size * 2 ^ t.size = t.base.toNat

/-- Cache a page (R110), and note the table lines that its walk has read (R246). -/
def LCore.cachePage (l : LCore) (stage2 atH : Bool) (asid va : Nat) (p : Page) (ls : List LineNo) : LCore :=
  let t : TlbEntry :=
    { stage2 := stage2, parcel := BitVec.ofNat 4 (pswParcel l.psw)
      guest := if l.gv then some (BitVec.ofNat 8 (pswGuest l.psw)) else none
      polder := pswPolder l.psw, atH := atH, asid := BitVec.ofNat 16 asid, global := p.global
      base := BitVec.ofNat 64 (va / 2 ^ p.size * 2 ^ p.size), size := p.size, frame := BitVec.ofNat 64 p.frame
      uncached := p.uncached, user := p.user, r := p.rights.testBit 0, w := p.rights.testBit 1
      x := p.rights.testBit 2, dirty := p.dirty }
  { l with tlb := t :: l.tlb, walked := l.walked ++ ls }

/-- Physical address of `va` in a page. -/
def pageAddr (p : Page) (va : Nat) : Nat := p.frame + va % 2 ^ p.size

/-- Bytes read from `a` on with stores over them, oldest first. -/
def overlayBytes (es : List StoreEntry) (a : Nat) (bs : List Byte) : List Byte :=
  es.foldl (fun v e =>
    v.mapIdx fun i b => if e.addr ≤ a + i ∧ a + i < e.addr + e.data.length then e.data.getD (a + i - e.addr) b else b) bs

/-- Bytes read from `a` on with the core's own stores over them that wait in its store buffer (R119, R242). -/
def LCore.overlay (l : LCore) (a : Nat) (bs : List Byte) : List Byte := overlayBytes l.storeBuf a bs

/-- Read 8 B of a table at physical address `pa` as the walking core (R58, R107, R116), and name its line. -/
def State.tableRead (s : State) (lc : Lc) (pa : Nat) : Res (Word × List LineNo) :=
  if !s.fwPass (.core lc) pa 8 needR then .freeze pa
  else
    match s.peek pa 8 with
    | none => .exc { code := 0x10, addr := pa }
    | some (_, true) => .exc { code := 0x11, addr := pa }
    | some (bs, false) => .ok (BitVec.ofNat 64 (leNat ((s.lc lc.val).overlay pa bs)), [lineOfAddr pa])

/-- Stage-2 translation of a guest-physical address (R109); a failure is STAGE2 with the underlying cause. -/
def State.stage2 (s : State) (lc : Lc) (l : LCore) (gpa need : Nat) : Res (Nat × Bool × LCore) :=
  let fail (c : Nat) : Res (Nat × Bool × LCore) := .exc { code := 0x0A, sub := c, addr := gpa }
  if gpa ≥ 2 ^ 52 then fail 0x06
  else
    match l.tlb.find? fun t => t.matches l true false 0 gpa with
    | some t =>
      match pageRights t.page need false true with
      | some c => fail c
      | none => .ok (pageAddr t.page gpa, t.uncached, l)
    | none =>
      let lv5 := l.hyp.s2ctl.getLsbD 1
      if !lv5 && gpa ≥ 2 ^ 48 then fail 0x06
      else
        (walk (s.tableRead lc) gpa need false true (if lv5 then 5 else 4) (bits l.hyp.s2root 51 12 * 2 ^ 12)).bind
          fun r =>
            match r.1 with
            | .inl p => .ok (pageAddr p gpa, p.uncached, l.cachePage true false 0 gpa p r.2)
            | .inr f => fail f.code

/-- Stage-1 translation of a linear address, then stage 2 while GV is 1 (R104 to R109).  Answers the physical
address, whether the page is uncached, and the core with its cached translations.  DESIGN CHOICE (log entry 114): a
page is uncached when the MT field of either stage says so. -/
def State.translateAt (s : State) (lc : Lc) (l : LCore) (la need : Nat) : Res (Nat × Bool × LCore) :=
  let atH := l.level = 2
  let ctl := if atH then l.hyp.h1ctl else l.bank.ptctl
  let root := if atH then l.hyp.h1root else l.bank.ptroot
  let asid := bits ctl 63 48
  let user := l.level = 0
  let fail (c lvl : Nat) : Res (Nat × Bool × LCore) := .exc { code := c, sub := lvl, addr := la }
  let second (gpa : Nat) (unc : Bool) (l1 : LCore) : Res (Nat × Bool × LCore) :=
    if l.gv then (s.stage2 lc l1 gpa need).bind fun r => .ok (r.1, unc || r.2.1, r.2.2) else .ok (gpa, unc, l1)
  if !ctl.getLsbD 0 then
    if la ≥ 2 ^ 52 then fail 0x06 0 else second la false l
  else
    match l.tlb.find? fun t => t.matches l false atH asid la with
    | some t =>
      match pageRights t.page need user false with
      | some c => fail c (levelOfSize t.size)
      | none => second (pageAddr t.page la) t.uncached l
    | none =>
      let lv5 := ctl.getLsbD 1
      if !lv5 && la ≥ 2 ^ 48 then fail 0x06 0
      else
        let rd (a : Nat) : Res (Word × List LineNo) :=
          if l.gv then (s.stage2 lc { l with walked := [] } a needR).bind fun r =>
            (s.tableRead lc r.1).map fun w => (w.1, r.2.2.walked ++ w.2)
          else s.tableRead lc a
        (walk rd la need user false (if lv5 then 5 else 4) (bits root 51 12 * 2 ^ 12)).bind fun r =>
          match r.1 with
          | .inl p => second (pageAddr p la) p.uncached (l.cachePage false atH asid la p r.2)
          | .inr f => fail f.code f.level

/-! ### Fetch (R88, R100, R116) -/

/-- Every check of the fetch of the word at `off` by the core `l` (R116 item 1); the word's physical address, and whether its
page is uncached. -/
def State.fetchTarget (s : State) (lc : Lc) (l : LCore) (off : Nat) : Res (Nat × Bool) :=
  let fetch (r : Res (Nat × Bool)) : Res (Nat × Bool) := match r with | .exc e => .exc { e with access := 1 } | x => x
  fetch <|
    if off % 4 ≠ 0 then .exc { code := 0x03, addr := off }
    else
      (segCheck l.csd (pswPolder l.psw) l.level off 4 needX).bind fun la =>
        (s.translateAt lc l la needX).bind fun r =>
          if !s.fwPass (.core lc) r.1 4 needX then .freeze r.1
          else
            match s.peek r.1 4 with
            | none => .exc { code := 0x10, addr := r.1 }
            | some (_, true) => .exc { code := 0x11, addr := r.1 }
            | some (_, false) => .ok (r.1, r.2.1)

/-- The word's physical address. -/
def State.fetchCheck (s : State) (lc : Lc) (l : LCore) (off : Nat) : Res Nat := (s.fetchTarget lc l off).map (·.1)

/-! ### Freezes (R60) -/

/-- A logical core freezes at the boundary before the violating instruction, logged once. -/
def State.freezeCore (s : State) (lc : Lc) (pa : Nat) : State :=
  let l := s.lc lc.val
  if l.stops.frozen then s
  else
    ((s.setLc lc.val { l with stops := { l.stops with frozen := true }, deniedAddr := pa, micro := none }).syncVoters lc).report
      (s.lcSrc lc.val) 0x0B clsSevere pa

/-! ### Posted vectors of the running virtual core (R487) -/

/-- VCID fields. -/
def vcidValid (w : Word) : Bool := w.getLsbD 63
def vcidPdesc (w : Word) : Nat := bits w 51 9 * 512

/-- The pending set as the 256 bytes of a PEND array. -/
def pendBytes (p : PendSet) : List Byte :=
  (List.range 256).map fun i => BitVec.ofNat 8 ((List.range 8).foldl (fun a b =>
    a + (if p.any fun e => e.1 = 8 * i + b then 2 ^ b else 0)) 0)

def orBytes (a b : List Byte) : List Byte := List.zipWith (· ||| ·) a b

/-- Set every vector whose bit is 1 in a PEND array. -/
def pendOr (p : PendSet) (bs : List Byte) : PendSet :=
  (List.range 2048).foldl (fun q v =>
    if (bs.getD (v / 8) 0).getLsbD (v % 8) && !(q.any fun e => e.1 = v) then Table.insert q v none else q) p

/-- Write GUEST back into PEND and clear it, on an entry to H from GV = 1 (R487). -/
def State.guestOut (s : State) (lc : Lc) : Res State :=
  let l := s.lc lc.val
  let a := vcidPdesc l.hyp.vcid
  if l.pendG.isEmpty || !vcidValid l.hyp.vcid then .ok (s.modLc lc.val fun c => { c with pendG := [] })
  else if !s.fwPass (.core lc) a 256 needRW then .freeze a
  else if !s.rangeReachable a 256 then .ok s
  else
    let old := (s.freshBytes a 256).1
    .ok ((s.invWriteBytes (.core lc) a (orBytes old (pendBytes l.pendG))).modLc lc.val fun c => { c with pendG := [] })

/-- Take PEND into GUEST: read and zero it, OR its bits in (R487). -/
def State.guestIn (s : State) (lc : Lc) : Res State :=
  let l := s.lc lc.val
  let a := vcidPdesc l.hyp.vcid
  if !s.fwPass (.core lc) a 256 needRW then .freeze a
  else if !s.rangeReachable a 256 then .ok s
  else
    let old := (s.freshBytes a 256).1
    .ok ((s.invWriteBytes (.core lc) a (List.replicate 256 0)).modLc lc.val fun c =>
      { c with pendG := pendOr c.pendG old })

/-! ### Entry (R112, R115, R118) -/

/-- Where an entry goes. -/
inductive Bank where | s | h deriving DecidableEq, Repr

def LCore.excBank (l : LCore) : Bank → ExcBank
  | .s => l.bank.exc
  | .h => l.hyp.exc

def LCore.setExcBank (l : LCore) (b : Bank) (e : ExcBank) : LCore :=
  match b with
  | .s => l.setBank { l.bank with exc := e }
  | .h => { l with hyp := { l.hyp with exc := e } }

def quadOf (hi lo : Word) : Quad := hi ++ lo
def quadLo (q : Quad) : Word := q.setWidth 64
def quadHi (q : Quad) : Word := (q >>> 64).setWidth 64

/-- The handler of a cause (R115, Table 4.10). -/
def LCore.handler (l : LCore) (code : Nat) : Bank :=
  if l.level = 2 then .h
  else if code = 0x0A || code = 0x0E then .h
  else if (code = 0x10 || code = 0x11) && l.gv then .h
  else .s

/-- The entry of R112 as one step, with the reservation cleared (R140). -/
def LCore.enter (l : LCore) (b : Bank) (epc cause info addr : Word) : LCore :=
  let x := l.excBank b
  let x1 : ExcBank := { x with epc := epc, cause := cause, info := info, addr := addr, saved := l.psw
                               scsd0 := quadLo l.csd, scsd1 := quadHi l.csd }
  let p1 := setBits (setBits l.psw 1 0 (match b with | .s => 1 | .h => 2)) 8 8 0
  let p2 := match b with | .s => p1 | .h => setBits p1 43 35 0
  let l1 := l.setExcBank b x1
  ({ l1 with psw := p2, csd := quadOf x.csd1 x.csd0, pc := x.vec, micro := none }).clearResv

/-- What follows every entry: if the first word at xVEC cannot be fetched the core stops as CORE_DOUBLE_FAULT
(R118); if the firewall denies it the core freezes (R60). -/
def State.afterEntry (s : State) (lc : Lc) : State :=
  let l := s.lc lc.val
  match s.fetchCheck lc l l.pc.toNat with
  | .exc _ =>
    (s.setLc lc.val { l with stops := { l.stops with fatal := true } }).report (s.lcSrc lc.val) 0x20 clsSevere lc.val
  | .freeze pa => s.freezeCore lc pa
  | _ => s

/-- xCAUSE of an exception. -/
def causeWord (e : Exc) : Word := BitVec.ofNat 64 (e.sub * 2 ^ 16 + (if e.slot then 256 else 0) + e.code)
/-- xINFO of an exception; the word is 0 when a fetch failed. -/
def infoWord (e : Exc) (w : BitVec 32) : Word :=
  BitVec.ofNat 64 (e.access * 2 ^ 32 + (if e.access = 1 then 0 else w.toNat))

/-- Entry into the bank of a handler, from any state of the core: GUEST is written back on entry to H from a guest. -/
def State.enterAt (s : State) (lc : Lc) (b : Bank) (epc cause info addr : Word) : State :=
  let l := s.lc lc.val
  let pre := if b = .h && l.gv then s.guestOut lc else .ok s
  match pre with
  | .ok s1 => (s1.modLc lc.val fun c => c.enter b epc cause info addr).afterEntry lc
  | .freeze pa => s.freezeCore lc pa
  | _ => s

/-- A trap is recorded and not delivered (FPXR.PEND). -/
def LCore.fpPend (l : LCore) : Bool := l.fpxr.getLsbD 63

/-- Take FP_TRAP (R161): PEND is cleared, xEPC holds the instruction not yet executed, xINFO the recorded word (log
entry 13). -/
def State.fpTrap (s : State) (lc : Lc) : State :=
  let l := s.lc lc.val
  (s.setLc lc.val { l with fpxr := setBit l.fpxr 63 false, fpCount := 0 }).enterAt lc (l.handler 0x12) l.pc
    (causeWord { code := 0x12 }) (infoWord { code := 0x12 } (l.fpxr.setWidth 32)) 0

/-- What happens at `lc` unless an FP trap pends, which is then delivered first and displaces it (R161). -/
def State.fpFirst (s : State) (lc : Lc) (k : State → State) : State :=
  if (s.lc lc.val).fpPend then s.fpTrap lc else k s

/-- Enter the handler of an exception (R112, R115). -/
def State.enterExc (s : State) (lc : Lc) (w : BitVec 32) (e : Exc) : State :=
  let l := s.lc lc.val
  s.enterAt lc (l.handler e.code) (if e.after then l.pc + 4 else l.pc) (causeWord e) (infoWord e w)
    (BitVec.ofNat 64 e.addr)

/-- Take a precise exception (R112, R114): nothing of the excepting word has happened in `s`. -/
def State.takeExc (s : State) (lc : Lc) (w : BitVec 32) (e : Exc) : State :=
  s.fpFirst lc fun s => s.enterExc lc w e

end Sys2Proof.Machine
end

