-- ==== Sys2Proof/Machine/Home.lean ====
section
/-! DEFINITION. Requests at the home slices (chapter 10): outstanding requests, NACKs, starvation and reservations, and
the admission of the requests of agents without caches. -/

namespace Sys2Proof.Machine

/-! ### Outstanding requests (R276, R284) -/

def State.outReq (s : State) (r : Requester) (l : LineNo) : Option Outstanding :=
  s.outReqs.find? fun o => o.req = r && o.line = l

/-- A request is over; where it was STARVING, the first other one of its requester that has reached age 16 becomes STARVING
(R284). -/
def State.dropReq (s : State) (r : Requester) (l : LineNo) : State :=
  let rest := s.outReqs.filter fun o => !(o.req = r && o.line = l)
  let next := if (s.outReq r l).any (·.starving) then rest.find? fun o => o.req = r && o.age = 16 && !o.starving else none
  { s with outReqs := match next with
      | some n => rest.map fun o => if o = n then { o with starving := true } else o
      | none => rest }

/-- A request as it is first issued. -/
def newReq (r : Requester) (l : LineNo) (k : ReqKind) : Outstanding := ⟨r, l, k, 0, false, false, false, false, false⟩

/-- A request is issued, unless its requester already has one for the line; an ownership request displaces a read. -/
def State.issue (s : State) (n : Outstanding) : State :=
  match s.outReq n.req n.line with
  | none => { s with outReqs := s.outReqs ++ [n] }
  | some o =>
    if o.kind == .readShared && n.kind == .readOwn then
      { s with outReqs := s.outReqs.map fun x => if x = o then { x with kind := .readOwn, fetch := false } else x }
    else s

def State.issueReq (s : State) (r : Requester) (l : LineNo) (k : ReqKind) : State := s.issue (newReq r l k)

def State.isStarving (s : State) (r : Requester) (l : LineNo) : Bool := (s.outReq r l).any (·.starving)

/-! ### NACKs and starvation (R282 to R287, R290, R291) -/

/-- The contention predictor of the core behind a requester learns of a NACK (R291). -/
def State.nackPredict (s : State) (r : Requester) (l : LineNo) : State :=
  match r with
  | .slot sl => (match s.slotLc sl with | some lc => s.modLc lc.val fun c => c.predict l true | none => s)
  | .agent _ => s

/-- A request is NACKed by slice `h`: its age rises, at 16 it becomes STARVING when its requester has no other
STARVING request, and a NACKed STARVING request is recorded (R284, R285). -/
def State.nack (s : State) (h : Slice) (r : Requester) (l : LineNo) (k : ReqKind) (full : Bool) : State :=
  let o := (s.outReq r l).getD (newReq r l k)
  let age := min 16 (o.age + 1)
  let other := s.outReqs.any fun x => x.req = r && x.line ≠ l && x.starving
  let o1 : Outstanding := { o with age := age, nacked := true, starving := o.starving || (age = 16 && !other) }
  let s1 := { s with outReqs := (s.outReqs.filter fun (x : Outstanding) => !(x.req = r && x.line = l)) ++ [o1] }
  let s2 := s1.bump (.sfStat h) 31 0 1
  let s3 := if full then s2.bump (.sfStat h) 63 48 1 else s2
  let known := (s3.slice h.val).starve.any fun e => e.1 = l && e.2 = r
  let s4 := if o.starving && !known then
      (s3.modSlice h.val fun sl => { sl with starve := sl.starve ++ [(l, r)] }).bump (.sfStat h) 47 32 1
    else s3
  s4.nackPredict r l

/-- The line's next grant is reserved for another requester (R285). -/
def State.reserved (s : State) (h : Nat) (l : LineNo) (r : Requester) : Bool :=
  match (s.slice h).starve.find? fun e => e.1 = l with
  | some e => e.2 ≠ r
  | none => false

/-- A request of `r` cannot open now: its line has an open transaction, or is reserved (R282, R285). -/
def State.blocked (s : State) (h : Nat) (l : LineNo) (r : Requester) : Bool :=
  (s.txnAt h l).isSome || s.reserved h l r

/-- The starvation entry of a request that opens, or is cancelled, is removed (R285). -/
def State.unstarve (s : State) (h : Nat) (l : LineNo) (r : Requester) : State :=
  s.modSlice h fun sl => { sl with starve := sl.starve.filter fun e => !(e.1 = l && e.2 = r) }

/-- The reservation hold of R141 is in force on the line in this slot. -/
def State.holdOn (s : State) (sl : Slot) (l : LineNo) : Bool :=
  match s.slotLc sl with
  | some lc => (s.lc lc.val).resv = some l && (s.lc lc.val).resvHold
  | none => false

def State.endHold (s : State) (sl : Slot) : State :=
  match s.slotLc sl with
  | some lc => s.modLc lc.val fun c => { c with resvHold := false }
  | none => s

/-- A slot other than the requester's holds the line under a reservation hold and answers HELD: a request that would take the
line is NACKed, unless it is STARVING (R286). -/
def State.heldFrom (s : State) (r : Requester) (l : LineNo) : Bool :=
  !s.isStarving r l && (s.slotsWith l).any fun sl => r ≠ .slot sl && s.holdOn sl l

/-- The request takes the line from its holders. -/
def ReqKind.takes : ReqKind → Bool
  | .readOwn | .upgrade | .farAtomic | .invWrite | .maint => true
  | _ => false

/-- A request of `r` is NACKed now at slice `h` (R282, R285, R286). -/
def State.refuses (s : State) (h : Nat) (l : LineNo) (r : Requester) (k : ReqKind) : Bool :=
  s.blocked h l r || (k.takes && s.heldFrom r l)

/-! ### Basin errors met by a request (R254) -/

/-- The home slice reads the line: what the code of a basin copy reports is done, only when that copy is the one read; a CXL
device may answer with poison, which is a breach mark (R304). -/
def State.basinRead (s : State) (l : LineNo) (ev : BasinEvent) : State :=
  match s.homeSlice l with
  | none => s
  | some h =>
    match (s.slice h.val).basin.find? fun b => b.line = l, s.dirtyCopy l with
    | some b, none =>
      match ev with
      | .ok | .cxlPoison => s.basinTouch l
      | .corrected => (s.basinTouch l).report (basinSrc h.val) 0x2C clsCorrected (lineAddr l)
      | .uncorrectable =>
        if b.dirty then (s.breachLine l 2 63).report (basinSrc h.val) 0x2D clsContained (lineAddr l)
        else (s.basinDrop l).report (basinSrc h.val) 0x2D clsCorrected (lineAddr l)
    | none, none =>
      (match s.place (lineAddr l) with
       | .cxl _ => if ev = .cxlPoison then s.setPoison l true else s
       | _ => s)
    | _, _ => s

/-- An error that waits in the basin copy of a line is met. -/
def State.basinMeet (s : State) (l : LineNo) : State :=
  match s.homeSlice l with
  | none => s
  | some h =>
    match (s.slice h.val).errs.find? fun e => e.1 = l with
    | none => s
    | some e =>
      (s.modSlice h.val fun sl => { sl with errs := sl.errs.erase e }).basinRead l
        (if e.2 then .uncorrectable else .corrected)

/-! ### Agents without caches (R294, R295) -/

/-- Requester identity of a master. -/
def State.requester (s : State) (m : Master) : Requester :=
  match m with
  | .core lc => (match (s.lc lc.val).host with | some sl => .slot sl | none => .agent 0)
  | _ => .agent (BitVec.ofNat 16 (s.masterSrc m))

/-- Starvation entries and requests of the agents without caches that `gone` names are gone. -/
def State.dropAgentsBy (s : State) (gone : Nat → Bool) : State :=
  let live (r : Requester) : Bool := match r with | .agent a => !gone a.toNat | .slot _ => true
  let s1 := (List.finRange 24).foldl (fun (s : State) h =>
    s.modSlice h.val fun sl => { sl with starve := sl.starve.filter fun e => live e.2 }) s
  { s1 with outReqs := s1.outReqs.filter fun o => live o.req }

/-- A master that stops for good leaves no request behind (R287). -/
def State.dropMaster (s : State) (m : Master) : State := s.dropAgentsBy (· = s.masterSrc m)

/-- A range of bytes that a request reads (PEEK) or writes (INV_WRITE). -/
structure Reach where
  addr : Nat
  bytes : Nat
  kind : ReqKind

/-- Lines of a range, each with whether the range covers it whole. -/
def Reach.lines (r : Reach) : List (LineNo × Bool) :=
  if r.bytes = 0 then []
  else (List.range ((r.addr + r.bytes - 1) / 128 - r.addr / 128 + 1)).map fun i =>
    let a := (r.addr / 128 + i) * 128
    (lineOfAddr a, r.addr ≤ a && a + 128 ≤ r.addr + r.bytes)

/-- A request that the home slice admits opens: its starvation entry goes, its filter entry is used, an error that waits in the
basin is met, and a basin copy that serves it is used (R254, R257, R261, R285, R289). -/
def State.served (s : State) (r : Requester) (l : LineNo) : State :=
  match s.homeSlice l with
  | none => s
  | some h => ((((s.unstarve h.val l r).dropReq r l).sfTouch l).basinMeet l).basinRead l .ok

/-- Lines that a master's requests reach, each with whether it is covered whole, and its kind. -/
def State.reached (s : State) (rs : List Reach) : List (LineNo × Bool × ReqKind) :=
  (rs.flatMap fun x => x.lines.map fun e => (e.1, e.2, x.kind)).filter fun e => s.memReachable (lineAddr e.1)

def State.homeNum (s : State) (l : LineNo) : Nat := (s.homeSlice l).elim 0 Fin.val

/-- The fill of a whole line that a master writes stops. -/
def State.fillStops (s : State) (m : Master) (stops : LineNo → Nat → Bool) (e : LineNo × Bool × ReqKind) : Bool :=
  e.2.2 == .invWrite && e.2.1 && (s.writeWays m (s.homeNum e.1 / 6)).any fun w => stops e.1 w

/-- The home slices serve a master's requests now: none of them waits to be sent again, none is NACKed (R282 to R286), and
what they write has room below (R263, R264, R314). -/
def State.homesServe (s : State) (r : Requester) (m : Master) (rs : List Reach) : Bool :=
  (s.reached rs).all fun e =>
    !((s.outReq r e.1).any (·.nacked)) && !s.refuses (s.homeNum e.1) e.1 r e.2.2 && !s.fillStops m s.fillWaits e &&
      !s.fillStops m s.fillStuck e && !(e.2.2 == .invWrite && s.homeWaits e.1)

/-- What becomes of requests that are not served: the first that is refused is NACKed, or the first fill that waits holds
back later fills to its set (R264, R284). -/
def State.turnedAway (s : State) (r : Requester) (m : Master) (rs : List Reach) : State :=
  let ls := s.reached rs
  if ls.any fun e => (s.outReq r e.1).any (·.nacked) then s
  else
    match ls.find? fun e => s.refuses (s.homeNum e.1) e.1 r e.2.2 with
    | some e => (match s.homeSlice e.1 with | some h => s.nack h r e.1 e.2.2 false | none => s)
    | none =>
      match ls.find? (s.fillStops m s.fillWaits) with
      | some e => s.waitFill e.1
      | none => s

/-- The requests of a step of a master without caches are served together, or it waits: `.inl` the state in which it waits,
`.inr` that in which they have been served. -/
def State.gate (s : State) (r : Requester) (m : Master) (rs : List Reach) : State ⊕ State :=
  if s.homesServe r m rs then .inr ((s.reached rs).foldl (fun s e => s.served r e.1) s) else .inl (s.turnedAway r m rs)

/-- `k` is what the requests do when they are served. -/
def State.admitAs (s : State) (r : Requester) (m : Master) (rs : List Reach) (k : State → State) : State :=
  match s.gate r m rs with
  | .inl t => t
  | .inr t => (s.reached rs).foldl (fun s e => s.caClear e.1) (k t)

def State.admitMaster (s : State) (m : Master) (rs : List Reach) (k : State → State) : State := s.admitAs (s.requester m) m rs k

/-- Ranges that are read, and ranges that are written. -/
def peeks (ps : List (Nat × Nat)) : List Reach := ps.map fun p => ⟨p.1, p.2, .peek⟩
def puts (ps : List (Nat × Nat)) : List Reach := ps.map fun p => ⟨p.1, p.2, .invWrite⟩

end Sys2Proof.Machine
end

