-- ==== Sys2Proof/Machine/Masters.lean ====
section
/-! DEFINITION. Masters at the structure firewall and at control space: freezes (R60, Table 2.13), and the admission
of a control-space access to its block (R22 to R29). -/

namespace Sys2Proof.Machine

/-- A port is contained for a denied inbound request (R405). -/
def State.containPort (s : State) (p : Port) (fw : Bool) : State :=
  s.modPort p.val fun x => { x with st := .contained, causeFw := fw }

/-- A master freezes on a confirmed access that fails the firewall, logged once (R60, Table 2.13). -/
def State.freezeMaster (s : State) (m : Master) (pa : Nat) : State :=
  let logged (s : State) : State := s.report (s.masterSrc m) 0x0B clsSevere pa
  match m with
  | .core lc | .slot _ lc => s.freezeCore lc pa
  | .pathEngine e =>
    if (s.pe e.val).frozen then s else logged (s.modPe e.val fun x => { x with frozen := true })
  | .qdma c => if (s.dma c.val).frozen then s else logged (s.modDma c.val fun x => { x with frozen := true })
  | .acc c =>
    if (s.ctx (ctxIdx c)).st == .frozen then s
    else logged (s.modCtx (ctxIdx c) fun x => { x with st := .frozen })
  | .port p => if (s.port p.val).st == .contained then s else logged (s.containPort p true)
  | .keeper | .collector _ | .writer _ => s

/-- Window index of Table 1.5 that a control-space address lies in. -/
def csTile (pa : Nat) : Nat := (pa - csBase) / 2 ^ 32

/-- The address lies in the collector block of its window. -/
def inCollector (pa : Nat) : Bool :=
  let off := (pa - csBase) % 2 ^ 32
  if csTile pa = 0 then 0x0001_0000 ≤ off && off < 0x0001_0200 else off < 0x0100_0000

/-- The window answers the master: an isolated tile answers the keeper alone (R28), a stopped tile only the keeper's
accesses to its collector (R513; log entry 16). -/
def State.windowOpen (s : State) (m : Master) (pa : Nat) : Bool :=
  let k := csTile pa
  if (s.col k).stopped then m == .keeper && inCollector pa
  else if k ≠ 0 && s.svcTile = k then m == .keeper
  else true

/-- A write of the master is held at a queue manager of the address's window: its later accesses there wait behind it (R27,
R340). -/
def State.behindHeld (s : State) (m : Master) (pa : Nat) : Bool :=
  s.queues.any fun e => 5 + e.1 / 8192 = csTile pa && e.2.held.any fun w => w.m == m

/-- A control-space access of `n` bytes that needs `need` rights and, besides the grants, the condition `ok` that its chapter
makes part of the firewall's check: denied accesses freeze the master (R29, R60), accesses to a closed window get an
error response (R28), the others reach the block.  Nothing answers in OFF and KEEPER (log entry 5). -/
def State.csSized (s : State) (m : Master) (pa n need : Nat) (ok : Bool) (k : State → State) : State :=
  if !s.ringsRun then s
  else if !(m == .keeper || (s.fwPass m pa n need && ok)) then (s.freezeMaster m (s.fwDenied m pa n need)).respond m .frozen
  else if !s.windowOpen m pa then s.respond m .error
  else if s.behindHeld m pa then s
  else k s

/-- A naturally aligned access of 64 bits. -/
def State.csAccess (s : State) (m : Master) (pa need : Nat) (ok : Bool) (k : State → State) : State :=
  s.csSized m pa 8 need ok k

/-- A write that only the keeper and Polder-world accesses may make (R62, R68, R239, R504, R522). -/
def State.csPriv (s : State) (m : Master) (pa : Nat) (k : State → State) : State :=
  s.csAccess m pa needW (s.privileged m) fun s => k (s.respond m .ok)

/-- A write open to any master that the grants admit. -/
def State.csOpen (s : State) (m : Master) (pa : Nat) (k : State → State) : State :=
  s.csAccess m pa needW true fun s => k (s.respond m .ok)

/-- Some owner a master acts for holds the numbered resource (R335, R359). -/
def State.holdsRes (s : State) (m : Master) (kind n : Nat) : Bool :=
  match s.ownerOf kind n with
  | some o => (s.masterOwners m).contains o
  | none => false

end Sys2Proof.Machine
end

