-- ==== Sys2Proof/Machine/Coherence.lean ====
section
/-! DEFINITION. Coherence (chapter 10): the snoop filter, transactions at the home slice, snoops and their answers,
NACKs and starvation, fills and evictions, and agent death. -/

namespace Sys2Proof.Machine

/-! ### Transactions -/

def State.dropTxn (s : State) (h : Nat) (l : LineNo) : State :=
  (s.modSlice h fun sl => { sl with txns := sl.txns.filter fun t => t.line ≠ l }).sfMod h l fun e => { e with pin := false }

/-- Every snoop has been answered, and no back-invalidation is waited for. -/
def Txn.ready (t : Txn) : Bool := t.snoops.all (·.received) && t.backInv.isNone

/-! ### Snoop answers (R278, R281, R283, R286) -/

/-- State of the line in a slot: L2, or S for a PREFETCH entry. -/
def Holder.stateOf (h : Holder) (l : LineNo) : Option Moesi :=
  match h.find l with
  | some c => some c.st
  | none => if h.side.any fun p => p.line = l then some .s else none

def Holder.dataOf (h : Holder) (l : LineNo) : Option (Line × Bool) :=
  match h.find l with
  | some c => some (c.data, c.poison)
  | none => (h.side.find? fun p => p.line = l).map fun p => (p.data, p.poison)

/-- A slot receives a snoop: what it answers, its state before, and the module after it.  Dirty data that a snoop
takes goes to memory through the home slice with the answer. -/
def State.snoop (s : State) (sl : Slot) (l : LineNo) (k : Snoop) (starving : Bool) : State × SnoopAnswer × Option Moesi :=
  let h := s.holder sl.val
  if h.evict.any fun c => c.line = l && (c.st == .m || c.st == .o) then (s, .wbPending, none)
  else
    match h.stateOf l with
    | none => (s, .miss, none)
    | some st =>
      if (k == .share || k == .inv) && s.holdOn sl l && !starving then (s, .held, some st)
      else
        let s := if (k == .share || k == .inv) && s.holdOn sl l then s.endHold sl else s
        let dirty := st == .m || st == .o
        let v := (h.dataOf l).getD (0, false)
        let down (n : Moesi) : State := s.setHolder sl.val (h.setState l n)
        match k with
        | .share =>
          if dirty then ((down .o).snoopWrite l v.1 v.2, .data, some st) else (down .s, .hit, some st)
        | .inv =>
          if dirty then ((s.slotInvalidate sl.val l).snoopWrite l v.1 v.2, .data, some st)
          else (s.slotInvalidate sl.val l, .hit, some st)
        | .clean =>
          if dirty then ((down (if st == .m then .e else .s)).snoopWrite l v.1 v.2, .data, some st) else (s, .hit, some st)
        | .peek => (s, if dirty then .data else .hit, some st)
        | .probe => (s, .hit, some st)
        | .recover => (s.snoopWrite l v.1 v.2, .data, some st)

/-- A snoop of kind `k` reaches a slot now: an open transaction sent it; SNP_CLEAN also while a CLEAN operation has the line
still to do, SNP_RECOVER also while the line's home tile reclaims; SNP_PEEK and SNP_PROBE change nothing. -/
def State.snoopDue (s : State) (h : Slice) (sl : Slot) (l : LineNo) (k : Snoop) : Bool :=
  ((s.txnAt h.val l).any fun t => t.snoops.any fun m => m.slot = sl && m.kind = k && m.answer.isNone) ||
    (match k with
     | .share | .inv => false
     | .clean => (s.slice h.val).maint.any fun o => o.op = 1 && !o.finished && o.todo.contains l
     | .recover => !(s.ct (h.val / 6)).reclaims.isEmpty
     | .peek | .probe => true)

/-- A snoop of kind `k` reaches a slot: the answer is recorded in the transaction that sent it, with the dirty data that it
brings; data for memory waits for room in the write queue (R278, R314). -/
def State.snoopArrive (s : State) (sl : Slot) (l : LineNo) (k : Snoop) : State :=
  match s.homeSlice l with
  | none => s
  | some h =>
    let mine (m : SnoopMsg) : Bool := m.slot = sl && m.kind = k && m.answer.isNone
    let starving := (s.txnAt h.val l).any fun t => t.snoops.any fun m => mine m && m.starving
    if !s.snoopDue h sl l k || (k != .peek && k != .probe && s.homeWaits l) then s
    else
      let v := (s.holder sl.val).dataOf l
      let r := s.snoop sl l k starving
      let brings : Bool := r.2.1 == .data && (k == .share || k == .inv)
      r.1.modTxn h.val l fun t =>
        { t with snoops := t.snoops.map fun m => if mine m then { m with answer := some (r.2.1, r.2.2) } else m
                 data := if brings then v else t.data }

/-! ### Opening a transaction (R279, R280, R288 to R290) -/

/-- Slots that a transaction of `r` snoops: on the home tile those that the entry names, but for the requester; on a remote
tile that it names every slot, of which those that hold the line answer, or one for all of them that none does (R277). -/
def State.snoopTargets (s : State) (e : SfEntry) (ht : Nat) (r : Requester) : List Slot :=
  let actual := s.slotsWith e.line
  let others := allSlots.filter fun sl => r ≠ .slot sl
  let speaker (t : Nat) : Option Slot :=
    if actual.any fun sl => sl.val / 48 = t && r ≠ .slot sl then none else others.find? fun sl => sl.val / 48 = t
  others.filter fun sl =>
    e.names ht sl.val && (sl.val / 48 = ht || actual.contains sl || speaker (sl.val / 48) = some sl)
where
  allSlots : List Slot := List.finRange 192

/-- Snoop kind of a request. -/
def ReqKind.snoop : ReqKind → Snoop
  | .readShared | .prefetch => .share
  | _ => .inv

/-- The unpinned ways of the line's set age (R289, R257). -/
def State.sfAge (s : State) (h : Nat) (l : LineNo) (up : Nat) : State :=
  let set := homeSet l.toNat
  s.modSlice h fun sl =>
    { sl with sf := sl.sf.map fun (x : SfEntry) =>
        if homeSet x.line.toNat = set ∧ !x.pin then { x with age := min 3 (x.age + up) } else x }

/-- Insert a new entry, pinned and of age 1, in way `w` (R289). -/
def State.sfInsert (s : State) (h : Nat) (l : LineNo) (w : Nat) : State :=
  s.modSlice h fun sl => { sl with sf := sl.sf ++ [⟨l, w, 0, 0, 63, 0, true, 1⟩] }

/-- Free way, victim, or neither, for a new entry of the line's set. -/
def State.sfPlace (s : State) (h : Nat) (l : LineNo) : Option (Nat × Nat × Option SfEntry) :=
  let inSet := (s.slice h).sf.filter fun x => homeSet x.line.toNat = homeSet l.toNat
  let pinned := (inSet.filter (·.pin)).map (·.way)
  let ways := (List.range 12).filter fun w => !pinned.contains w
  (chooseWay ways (inSet.map fun x => (x.way, x.age))).map fun r =>
    (r.1, r.2, inSet.find? fun x => x.way = r.1)

/-- No way of the set is free for a line without an entry, and none can be freed (R290). -/
def State.sfFull (s : State) (h : Nat) (l : LineNo) : Bool := (s.sfGet h l).isNone && (s.sfPlace h l).isNone

/-- Start the snoops and settle the grant of a request whose entry is in place. -/
def State.startTxn (s : State) (h : Slice) (t : Txn) : State :=
  let ht := h.val / 6
  match s.sfGet h.val t.line with
  | none => s
  | some e =>
    let targets := s.snoopTargets e ht t.req
    let any := !targets.isEmpty
    let starving := s.isStarving t.req t.line
    let own := match t.req with
      | .slot sl => (s.holder sl.val).stateOf t.line
      | .agent _ => none
    let kind := if t.kind == .upgrade && own.isNone then .readOwn else t.kind
    let grant : Moesi := match kind with
      | .readShared => if any then .s else .e
      | .prefetch => .s
      | _ => if own = some .o || own = some .m then .m else .e
    let msgs := targets.map fun sl => (⟨sl, kind.snoop, starving, none, false⟩ : SnoopMsg)
    let t1 : Txn := { t with kind := kind, grant := grant, snoops := msgs, backInv := none }
    let s1 := s.sfPut h.val { e with pin := true }
    let others := (s1.slice h.val).txns.filter fun x => x.line ≠ t.line
    s1.modSlice h.val fun sl => { sl with txns := others ++ [t1] }

/-- Open a transaction for a request that its line and the starvation table admit: find or allocate the filter entry,
back-invalidating a victim first where the set is full. -/
def State.openTxn (s : State) (h : Slice) (r : Requester) (l : LineNo) (k : ReqKind) : State :=
  let t : Txn := { line := l, req := r, kind := k, snoops := [], grant := .s, delivered := false, data := none
                   backInv := none }
  let s0 := s.unstarve h.val l r
  if (s0.sfGet h.val l).isSome then (s0.sfTouch l).startTxn h t
  else
    match s0.sfPlace h.val l with
    | none => s.nack h r l k true
    | some (w, up, none) => ((s0.sfAge h.val l up).sfInsert h.val l w).startTxn h t
    | some (w, up, some v) =>
      let s1 := s0.sfAge h.val l up
      let targets := s1.snoopTargets v (h.val / 6) (.agent 0)
      if targets.isEmpty then
        ((s1.modSlice h.val fun sl => { sl with sf := sl.sf.filter fun x => x.line ≠ v.line }).sfInsert h.val l w).startTxn h t
      else
        let starving := s.isStarving r l
        let msgs := targets.map fun sl => (⟨sl, .inv, starving, none, false⟩ : SnoopMsg)
        let tv : Txn := { line := v.line, req := .agent 0, kind := .maint, snoops := msgs, grant := .s
                          delivered := false, data := none, backInv := none }
        (s1.sfMod h.val v.line fun e => { e with pin := true }).modSlice h.val fun sl =>
          { sl with txns := sl.txns ++ [tv, { t with backInv := some v.line }] }

/-! ### Requests of the slots at their home slice -/

/-- A request of a slot reaches its home slice: opened, NACKed, or dropped with an error response when its home tile
is dead (R303); the basin is read as the slice serves it (R259). -/
def State.slotRequest (s : State) (sl : Slot) (l : LineNo) (k : ReqKind) (ev : BasinEvent) : State :=
  match s.homeSlice l with
  | none => s.dropReq (.slot sl) l
  | some h =>
    if !s.memReachable (lineAddr l) then s.dropReq (.slot sl) l
    else if s.blocked h.val l (.slot sl) then s.nack h (.slot sl) l k false
    else if s.sfFull h.val l then s.nack h (.slot sl) l k true
    else
      let s1 := if k == .upgrade then s else (s.basinMeet l).basinRead l ev
      (s1.maintTouch l).openTxn h (.slot sl) l k

/-! ### Holders: L1, evictions, installation (R247, R250, R251, R257) -/

/-- Use a line in an L1: its bit is set, and when all of its set are set the others are cleared (R257). -/
def l1Touch (c : List L1Line) (l : LineNo) : List L1Line :=
  let set := l.toNat % 128
  let c1 := c.map fun x => if x.line = l then { x with used := true } else x
  let inSet := c1.filter fun x => x.line.toNat % 128 = set
  if inSet.length = 8 && inSet.all (·.used) then
    c1.map fun x => if x.line.toNat % 128 = set && x.line ≠ l then { x with used := false } else x
  else c1

/-- Place a line in an L1 of 128 sets and 8 ways. -/
def l1Fill (c : List L1Line) (l : LineNo) : List L1Line :=
  if c.any fun x => x.line = l then l1Touch c l
  else
    let set := l.toNat % 128
    let inSet := c.filter fun x => x.line.toNat % 128 = set
    match (List.range 8).find? fun w => !(inSet.any fun x => x.way = w) with
    | some w => l1Touch (c ++ [⟨l, w, false⟩]) l
    | none =>
      let w := ((List.range 8).find? fun w => inSet.any fun x => x.way = w && !x.used).getD 0
      l1Touch ((c.filter fun x => !(x.line.toNat % 128 = set && x.way = w)) ++ [⟨l, w, false⟩]) l

/-- An L2 hit sets the way's age to 0 and ends the streaming mark (R257, R258). -/
def Holder.l2Touch (h : Holder) (l : LineNo) : Holder :=
  { h with l2 := h.l2.map fun c => if c.line = l then { c with age := 0, stream := false } else c }

/-- Use a held line at retirement: an L1 hit touches L1, an L1 miss that hits L2 touches L2 and fills L1. -/
def Holder.use (h : Holder) (l : LineNo) (fetch : Bool) : Holder :=
  let inL1 := (if fetch then h.l1i else h.l1d).any fun x => x.line = l
  let h1 := if inL1 then h else h.l2Touch l
  if fetch then { h1 with l1i := l1Fill h1.l1i l } else { h1 with l1d := l1Fill h1.l1d l }

/-- Place a line in L2 (1,024 sets, 16 ways): the victim leaves L1 too and waits for its home slice (R251, R275). -/
def Holder.l2Fill (h : Holder) (l : LineNo) (st : Moesi) (d : Line) (poison stream : Bool) : Holder :=
  let side := h.side.filter fun p => p.line ≠ l
  if (h.find l).isSome then
    { h with l2 := h.l2.map (fun (c : CLine) => if c.line = l then { c with st := st, data := d, poison := poison } else c)
             side := side }
  else
    let set := l.toNat % 1024
    let inSet := h.l2.filter fun c => c.line.toNat % 1024 = set
    match chooseWay (List.range 16) (inSet.map fun c => (c.way, c.age)) with
    | none => h
    | some (w, up) =>
      let aged := h.l2.map fun (c : CLine) =>
        if c.line.toNat % 1024 = set then { c with age := min 3 (c.age + up) } else c
      let old := inSet.find? fun c => c.way = w
      let rest := match old with
        | some o => aged.filter fun c => c.line ≠ o.line
        | none => aged
      let h1 : Holder := match old with
        | some o => { h with l1d := h.l1d.filter fun x => x.line ≠ o.line, l1i := h.l1i.filter fun x => x.line ≠ o.line }
        | none => h
      { h1 with l2 := rest ++ [⟨l, st, d, poison, w, if stream then 3 else 1, stream⟩], side := side
                evict := h.evict ++ old.toList }

/-- The slot's core writes bytes of a line it holds in M or E; a whole-line write clears the breach mark (R302). -/
def Holder.write (h : Holder) (l : LineNo) (o : Nat) (bs : List Byte) : Holder :=
  { h with l2 := h.l2.map fun (c : CLine) =>
      if c.line = l then
        { c with st := .m, data := lineWrite c.data o bs, poison := if bs.length = 128 then false else c.poison }
      else c }

/-- The slot holds the line in M or E. -/
def Holder.owns (h : Holder) (l : LineNo) : Bool :=
  match h.find l with
  | some c => c.st == .m || c.st == .e
  | none => false

/-- Evicting a line from L2 clears the reservation on it (R140). -/
def State.evictResv (s : State) (sl : Slot) : State :=
  match s.slotLc sl with
  | none => s
  | some lc =>
    let c := s.lc lc.val
    match c.resv with
    | some l => if (s.holder sl.val).holds l then s else s.setLc lc.val c.clearResv
    | none => s

/-- Released stores at the head of the buffer whose line the slot owns are written, in order (R243). -/
def State.drainStores (s : State) (sl : Slot) (lc : Lc) : Nat → State
  | 0 => s
  | n + 1 =>
    match (s.lc lc.val).storeBuf with
    | [] => s
    | e :: rest =>
      let l := lineOfAddr e.addr
      if (s.holder sl.val).owns l then
        (((s.modHolder sl.val fun h => (h.write l (e.addr % 128) e.data).use l false).maintTouch l).modLc lc.val fun c =>
          { c with storeBuf := rest }).drainStores sl lc n
      else s

/-- The kind of request by which a slot takes ownership of a line (R243, R276). -/
def State.ownKind (s : State) (sl : Slot) (l : LineNo) : ReqKind :=
  if ((s.holder sl.val).stateOf l).isSome then .upgrade else .readOwn

/-- Drain the buffer; the store it then stops at has asked for ownership of its line (R243). -/
def State.drainSlot (s : State) (sl : Slot) : State :=
  match s.slotLc sl with
  | some lc =>
    let s1 := s.drainStores sl lc (s.lc lc.val).storeBuf.length
    match (s1.lc lc.val).storeBuf with
    | [] => s1
    | e :: _ => s1.issueReq (.slot sl) (lineOfAddr e.addr) (s1.ownKind sl (lineOfAddr e.addr))
  | none => s

/-- A slot takes a line that it had evicted: its WRITEBACK has arrived before, and its EVICT_CLEAN is void, so that the
filter keeps naming the slot (R275, R282). -/
def State.retake (s : State) (sl : Slot) (l : LineNo) : State :=
  if (s.holder sl.val).evict.any fun c => c.line = l then
    (s.writeback sl l).modHolder sl.val fun x => { x with evict := x.evict.filter fun y => y.line ≠ l }
  else s

/-- Place a line that is in L2 in the L1 of its kind. -/
def Holder.l1Place (h : Holder) (l : LineNo) (fetch : Bool) : Holder :=
  if fetch then { h with l1i := l1Fill h.l1i l } else { h with l1d := l1Fill h.l1d l }

/-- Install a line in a slot, in L2 and in the L1 of its kind, with the data that the slot has, or that its transaction
brings, or else the freshest; then write the stores that waited for it (R242, R243, R257, R258). -/
def State.install (s : State) (sl : Slot) (l : LineNo) (st : Moesi) (fetch stream : Bool) (data : Option (Line × Bool)) :
    State :=
  let s := s.retake sl l
  let h := s.holder sl.val
  let v := match h.find l with
    | some c => (c.data, c.poison)
    | none => data.getD (s.freshest l)
  let s1 := s.setHolder sl.val ((h.l2Fill l st v.1 v.2 stream).l1Place l fetch)
  ((s1.evictResv sl).drainSlot sl).caClear l

/-! ### Delivery, completion, settlement -/

/-- The grant or data of a slot's transaction reaches the slot (R242, R243, R248); an error response where the home tile has
died (R303). -/
def State.deliver (s : State) (sl : Slot) (l : LineNo) : State :=
  match s.homeSlice l with
  | none => s
  | some h =>
    match s.txnAt h.val l with
    | none => s
    | some t =>
      if t.req = .slot sl && t.ready && !t.delivered then
        let s1 := s.modTxn h.val l fun t => { t with delivered := true }
        if !s.homeLive (lineAddr l) then (s.dropTxn h.val l).dropReq (.slot sl) l
        else if t.kind == .prefetch then s1
        else
          let o := s.outReq (.slot sl) l
          (s1.install sl l t.grant (o.any (·.fetch)) (o.any (·.stream)) t.data).dropReq (.slot sl) l
      else s

/-- The message was answered, and not with HELD, by a slot that has the line no longer. -/
def SnoopMsg.lost (m : SnoopMsg) : Bool :=
  match m.answer with
  | none | some (.held, _) => false
  | some (a, _) => m.received && (m.kind == .inv || a == .miss || a == .wbPending)

/-- What the answers of a transaction tell the filter as it closes: the slots of the home tile that have the line no longer
go, the REMOTE bit of a tile goes where the whole tile answered MISS, and an owner among them goes (R275, R280). -/
def Txn.answered (t : Txn) (ht : Nat) (e : SfEntry) : SfEntry :=
  let on (k : Nat) : List SnoopMsg := t.snoops.filter fun m => m.slot.val / 48 = k
  let e1 := (on ht).foldl (fun e m => if m.lost then e.dropHolder ht m.slot.val else e) e
  let missed (k : Nat) : Bool := !(on k).isEmpty && (on k).all fun m => m.received && m.answer = some (.miss, none)
  let rem := (List.range 4).foldl (fun v k => if k ≠ ht && missed k then bvPut v k false else v) e1.remote
  let k := e1.owner.toNat - 48
  let gone : Bool := 48 ≤ e1.owner.toNat && e1.owner ≠ 63 && !(on k).isEmpty && (on k).all (·.lost)
  { e1 with remote := rem, owner := if gone then 63 else e1.owner }

/-- COMPLETE: the transaction closes and the filter entry is updated (R280, Table 10.1). -/
def State.completeTxn (s : State) (r : Requester) (l : LineNo) : State :=
  match s.homeSlice l, r with
  | some h, .slot sl =>
    match s.txnAt h.val l with
    | none => s
    | some t =>
      if t.req = r && t.delivered then
        let ht := h.val / 6
        let prior := t.snoops.filterMap fun m => m.answer.bind (·.2)
        let upd (e0 : SfEntry) : SfEntry :=
          let e := t.answered ht e0
          match t.kind with
          | .readShared | .prefetch =>
            let e1 := e.addHolder ht sl.val
            if t.grant == .e then { e1 with owner := BitVec.ofNat 6 (ownerCode ht sl.val), ostate := 0 }
            else if prior.any fun p => p == .m || p == .o then { e1 with ostate := 2 }
            else { e1 with owner := 63 }
          | _ =>
            { (e.addHolder ht sl.val) with
              owner := BitVec.ofNat 6 (ownerCode ht sl.val), ostate := if t.grant == .m then 1 else 0 }
        (s.sfMod h.val l upd).dropTxn h.val l
      else s
  | _, _ => s

/-- The back-invalidation of `v` is over: its entry goes, and the request that waited for its way starts (R289). -/
def State.backInvDone (s : State) (h : Slice) (v : LineNo) : State :=
  let way := (s.sfGet h.val v).elim 0 (·.way)
  let s1 := s.modSlice h.val fun sl =>
    { sl with txns := sl.txns.filter fun t => t.line ≠ v, sf := sl.sf.filter fun e => e.line ≠ v }
  match (s1.slice h.val).txns.find? fun t => t.backInv = some v with
  | none => s1
  | some t => (s1.sfInsert h.val t.line way).startTxn h { t with backInv := none }

/-- A transaction ends without a grant, and its request is NACKed (R286); the filter learns what was answered. -/
def State.abandonTxn (s : State) (h : Slice) (l : LineNo) : State :=
  match s.txnAt h.val l with
  | none => s
  | some t =>
    let s1 := (s.sfMod h.val l (t.answered (h.val / 6))).dropTxn h.val l
    match (s.slice h.val).txns.find? fun x => x.backInv = some l with
    | some w => (s1.dropTxn h.val w.line).nack h w.req w.line w.kind false
    | none => s1.nack h t.req l t.kind false

/-- A snoop answer reaches the home slice (R275, R283, R286). -/
def State.answerArrive (s : State) (sl : Slot) (l : LineNo) : State :=
  match s.homeSlice l with
  | none => s
  | some h =>
    match s.txnAt h.val l with
    | none => s
    | some t =>
      match t.snoops.find? fun m => m.slot = sl && m.answer.isSome && !m.received with
      | none => s
      | some m =>
        match m.answer with
        | none => s
        | some (.held, _) => s.abandonTxn h l
        | some (a, st) =>
          if a == .wbPending && ((s.holder sl.val).evict.any fun c => c.line = l) then s
          else
            let wasDirty := a == .wbPending || st = some .m || st = some .o
            let s1 := s.modTxn h.val l fun t =>
              { t with
                snoops := t.snoops.map fun x => if x.slot = sl then { x with received := true } else x
                grant := if (t.kind == .readOwn || t.kind == .upgrade) && wasDirty then .m else t.grant }
            match s1.txnAt h.val l with
            | some t2 => if t2.kind == .maint && t2.ready then s1.backInvDone h l else s1
            | none => s1

/-- EVICT_CLEAN: the holder is removed and the line may be allocated in the basin (R275, R260), where its fill need not wait
(R264). -/
def State.evictClean (s : State) (sl : Slot) (l : LineNo) : State :=
  match (s.holder sl.val).evict.find? fun c => c.line = l && (c.st == .e || c.st == .s), s.homeSlice l with
  | some c, some h =>
    let ways := s.slotWays sl (h.val / 6)
    let fills : Bool := s.homeLive (lineAddr l) && (s.basinCopy l).isNone && !c.stream
    if s.blocked h.val l (.slot sl) then s.nack h (.slot sl) l .evictClean false
    else if fills && s.fillWaits l ways then s.waitFill l
    else
      let s1 := (s.modHolder sl.val fun x => { x with evict := x.evict.filter fun y => y ≠ c }).sfMod h.val l fun e =>
        e.dropHolder (h.val / 6) sl.val
      let s2 := if (s.outReq (.slot sl) l).any fun o => o.kind == .evictClean then s1.dropReq (.slot sl) l else s1
      if fills then s2.basinFill l (s.freshest l).1 false (s.freshest l).2 ways 1 0 else s2
  | _, _ => s

/-- Make room in the filter for a line and enter it, pinned: a victim's holders lose their line at once (R289). -/
def State.sfMake (s : State) (h : Slice) (l : LineNo) : State :=
  match s.sfGet h.val l with
  | some _ => s.sfTouch l
  | none =>
    match s.sfPlace h.val l with
    | none => s
    | some (w, up, v) =>
      let s1 := match v with
        | some e => (s.slotsWith e.line).foldl (fun (s : State) x => ((s.endHold x).snoop x e.line .inv true).1)
            (s.modSlice h.val fun y => { y with sf := y.sf.filter fun z => z.line ≠ e.line })
        | none => s
      (s1.sfAge h.val l up).sfInsert h.val l w

/-- Entry that a line without one displaces. -/
def State.sfVictim (s : State) (h : Nat) (l : LineNo) : Option SfEntry :=
  if (s.sfGet h l).isSome then none else (s.sfPlace h l).bind (·.2.2)

/-- A holder of the displaced line is under a reservation hold that the request does not end (R286). -/
def State.sfHeld (s : State) (h : Nat) (r : Requester) (l : LineNo) : Bool :=
  !s.isStarving r l && (s.sfVictim h l).any fun v => (s.slotsWith v.line).any fun x => s.holdOn x v.line

/-- The displaced line's data has no room below. -/
def State.sfWaits (s : State) (h : Nat) (l : LineNo) : Bool := (s.sfVictim h l).any fun v => s.homeWaits v.line

/-- Room can be made in the filter at once: an entry, a free way, or a victim whose holders let it go (R286, R288, R290). -/
def State.sfRoom (s : State) (h : Slice) (r : Requester) (l : LineNo) : Bool :=
  !s.sfFull h.val l && !s.sfHeld h.val r l && !s.sfWaits h.val l

/-- A slot can take ownership of a line at once: it has it, or its request is not NACKed and the home slice admits it, with
room in the filter and below (R282, R285, R286, R290). -/
def State.canOwn (s : State) (sl : Slot) (l : LineNo) : Bool :=
  (s.holder sl.val).owns l ||
    (!((s.outReq (.slot sl) l).any (·.nacked)) &&
      (match s.homeSlice l with
       | some h => !s.refuses h.val l (.slot sl) .readOwn && s.sfRoom h (.slot sl) l && !s.homeWaits l
       | none => true))

/-- Take ownership of a line for a slot as one READ_OWN or UPGRADE that its home slice admits (R279). -/
def State.ownLine (s : State) (sl : Slot) (l : LineNo) : State :=
  if (s.holder sl.val).owns l then s
  else
    let dirty := (s.dirtyCopy l).isSome || (s.evictCopy l).isSome
    let o := s.outReq (.slot sl) l
    let s0 := (s.homeArrive l).maintTouch l
    let v := s0.freshest l
    let held := (s0.slotsWith l).filter (· ≠ sl)
    let s1 := match s.homeSlice l with
      | some h => (s0.unstarve h.val l (.slot sl)).sfMake h l
      | none => s0
    let s2 := held.foldl (fun s x => ((s.endHold x).snoop x l .inv true).1) s1
    let s3 := s2.install sl l (if dirty then .m else .e) false (o.any (·.stream)) (some v)
    match s.homeSlice l with
    | none => s3
    | some h =>
      (s3.sfMod h.val l fun e =>
        { ((e.invalidated held).addHolder (h.val / 6) sl.val) with
          pin := false, owner := BitVec.ofNat 6 (ownerCode (h.val / 6) sl.val), ostate := if dirty then 1 else 0 }).dropReq
        (.slot sl) l

/-! ### Agent death (R297 to R303) -/

/-- Live holders of a line among slots that are not dead. -/
def State.liveSlots (s : State) (l : LineNo) (dead : List Nat) : List Slot :=
  (s.slotsWith l).filter fun sl => !dead.contains sl.val

/-- Bring the line home from a live holder, whose copy stays S (Table 10.3 SNP_RECOVER; R299). -/
def State.recoverLine (s : State) (l : LineNo) (sl : Slot) : State :=
  (s.snoop sl l .recover true).1.modHolder sl.val fun h => h.setState l .s

/-- Act on one filter entry of slice `h` that names a dead agent (R299). `tile`: the whole tile is dead. -/
def State.reclaimEntry (s : State) (h : Slice) (e : SfEntry) (dead : List Nat) (dt : Nat) (tile : Bool) : State :=
  let ht := h.val / 6
  let live := s.liveSlots e.line dead
  let code := match dead with
    | d :: _ => if tile then 48 + dt else ownerCode ht d
    | [] => 64
  let named := if dt = ht then (dead.any fun d => e.loc.getLsbD (d % 48)) else e.remote.getLsbD dt
  if !named && e.owner.toNat ≠ code then s
  else
    let clear (x : SfEntry) : SfEntry :=
      if dt = ht then dead.foldl (fun x d => { x with loc := bvPut x.loc (d % 48) false }) x
      else if tile || !(live.any fun sl => sl.val / 48 = dt) then { x with remote := bvPut x.remote dt false } else x
    if e.owner.toNat ≠ code then s.sfMod h.val e.line clear
    else
      let heir := if dt = ht || tile then none
        else live.find? fun sl => sl.val / 48 = dt &&
          (match (s.holder sl.val).stateOf e.line with | some .m | some .o | some .e => true | _ => false)
      match heir with
      | some sl =>
        let os : BitVec 2 := match (s.holder sl.val).stateOf e.line with | some .m => 1 | some .o => 2 | _ => 0
        s.sfMod h.val e.line fun x => { x with ostate := os }
      | none =>
        let free (x : SfEntry) : SfEntry := { clear x with owner := 63 }
        match e.ostate.toNat, live with
        | 2, sl :: _ => (s.recoverLine e.line sl).sfMod h.val e.line free
        | _, _ => (s.deathBreach e.line code).sfMod h.val e.line free

/-- Compute tiles whose slices reclaim. -/
def State.liveCts (s : State) : List Ct := (List.finRange 4).filter fun t => s.tileLive (1 + t.val)

/-- Open transactions of a dead agent close, and its unanswered snoops are answered for it; a back-invalidation that waited
for the dead alone is over (R303). -/
def State.deathTxns (s : State) (h : Slice) (dead : List Nat) : State :=
  (s.slice h.val).txns.foldl (fun s t =>
    let byDead : Bool := match t.req with | .slot sl => dead.contains sl.val | .agent _ => false
    if byDead then s.dropTxn h.val t.line
    else
      let s1 := s.modTxn h.val t.line fun t =>
        { t with snoops := t.snoops.map fun m =>
            if dead.contains m.slot.val && !m.received then
              { m with answer := if m.answer.isSome then m.answer else some (.miss, none), received := true }
            else m }
      match s1.txnAt h.val t.line with
      | some t1 => if t1.kind == .maint && t1.ready then s1.backInvDone h t.line else s1
      | none => s1) s

/-- Those of the tile in window `k` (R297, R298). -/
def State.dropAgents (s : State) (k : Nat) : State := s.dropAgentsBy fun a => a / 4096 = k

/-- An agent dies: every live slice reclaims its lines at that instant, and each live tile's RECLAIM_DONE follows (log
entry 21). -/
def State.agentDeath (s : State) (dead : List Nat) (dt : Nat) (tile : Bool) : State :=
  let s0 := s.liveCts.foldl (fun s t =>
    (s.modCt t.val fun c => { c with reclaims := c.reclaims ++ [0], slicesDone := 0 }).setFld (.cohReclaim t) 31 0 0) s
  let slices := (List.finRange 24).filter fun h => s.tileLive (1 + h.val / 6)
  let s1 := slices.foldl (fun s h =>
    let s1 := s.modSlice h.val fun sl => { sl with starve := sl.starve.filter fun e =>
      match e.2 with | .slot x => !dead.contains x.val | .agent _ => true }
    let s2 := (s1.slice h.val).sf.foldl (fun s e => s.reclaimEntry h e dead dt tile) s1
    s2.deathTxns h dead) s0
  let s2 := dead.foldl (fun s d =>
    let h := s.holder d
    let ls := h.l2.map (·.line) ++ h.side.map (·.line)
    let s1 := ls.foldl (fun s l => s.clearResvs l none) s
    s1.setHolder d Holder.init) s1
  let s3 := { s2 with outReqs := s2.outReqs.filter fun o =>
    match o.req with | .slot x => !dead.contains x.val | .agent _ => true }
  if tile then s3.dropAgents (1 + dt) else s3

/-- The logical core in a slot dies (R217, R235, R297). -/
def State.slotDeath (s : State) (sl : Slot) : State := s.agentDeath [sl.val] (sl.val / 48) false

/-- Compute tile `t` dies (R297). -/
def State.tileDeath (s : State) (t : Ct) : State :=
  s.agentDeath ((List.range 48).map fun i => 48 * t.val + i) t.val true

/-- The reclamation scan of a live tile for the oldest death ends, with the count of what that death breached (R299). -/
def State.reclaimDone (s : State) (t : Ct) : State :=
  match (s.ct t.val).reclaims with
  | [] => s
  | n :: rest =>
    if s.tileLive (1 + t.val) then
      ((s.modCt t.val fun c => { c with reclaims := rest, slicesDone := if rest.isEmpty then 0x3F else 0 }).setFld
        (.cohReclaim t) 31 0 n).report (srcId (1 + t.val) 0x06 6) 0x2F clsNote n
    else s

end Sys2Proof.Machine
end

