-- ==== Sys2Proof/Machine/Maint.lean ====
section
/-! DEFINITION. Maintenance engines and hardware prefetch (chapter 9). -/

namespace Sys2Proof.Machine

open Host (Outcome)

/-! ### Maintenance engines (R265 to R270) -/

def maintSrc (h : Nat) : Nat := srcId (1 + h / 6) 0x0A (h % 6)

/-- The engine's BUSY: its own operation, or the operation it issued on all engines, has not finished (R269). -/
def State.maintBusy (s : State) (h : Slice) : Bool :=
  (List.finRange 24).any fun k =>
    match (s.slice k.val).maint with
    | some o => !o.finished && (k = h || o.issuer = h)
    | none => false

/-- Every 4 KiB page from page `a` to page `b` lies in a MEMORY grant of one of the owners with write right. -/
def Image.coversPages (i : Image) (owners : List Nat) : Nat → Nat → Nat → Bool
  | 0, _, _ => false
  | f + 1, a, b =>
    match i.grants.find? fun g => g.kind = 1 && owners.contains g.owner && hasRights g.rights needW && g.covers (a * 4096) with
    | none => false
    | some g =>
      let n := (g.last.toNat + 1) / 4096
      if b < n then true else i.coversPages owners f n b

/-- The range lies in what the access may write (R266); the keeper is not checked. -/
def State.maintGranted (s : State) (m : Master) (first last : Nat) : Bool :=
  if m = .keeper then true
  else
    match s.image with
    | none => false
    | some i => i.coversPages (s.masterOwners m) (i.grants.length + 1) (first * 128 / 4096) ((last * 128 + 127) / 4096)

def ownerFin18 : Option Nat → Fin 18
  | some n => if h : n < 18 then ⟨n, h⟩ else 17
  | none => 17

/-- Put a line where its set has its turn. -/
def insertBySet (l : LineNo) : List LineNo → List LineNo
  | [] => [l]
  | x :: rest => if homeSet l.toNat < homeSet x.toNat then l :: x :: rest else x :: insertBySet l rest

/-- Lines of a range homed at slice `h` that stand in its basin or filter, or in an open transaction or a fill, in ascending
set order (R270). -/
def State.maintLines (s : State) (h : Nat) (first last : LineNo) : List LineNo :=
  let sl := s.slice h
  (((sl.basin.map (·.line) ++ sl.sf.map (·.line) ++ sl.txns.map (·.line) ++ sl.victims.map (·.fill.line)).filter
    fun l => first.toNat ≤ l.toNat && l.toNat ≤ last.toNat).eraseDups).foldl (fun ls l => insertBySet l ls) []

/-- Start an operation on one engine. -/
def State.maintBegin (s : State) (h issuer : Slice) (op : Nat) (discard : Bool) (first last : LineNo) (o : Fin 18) :
    State :=
  let r : CsReg := .maintStatus h
  let s1 := (s.setFld r 47 47 0).setFld r 46 0 0
  s1.modSlice h.val fun sl =>
    { sl with
      maint := some
        { op := BitVec.ofNat 2 op, discard := discard, first := first, last := last, issuer := issuer, owner := o
          poisoned := false, lines := 0, todo := s.maintLines h.val first last, touched := [], finished := false } }

/-- A write of MAINT_CTL (R265, R266, R269). -/
def State.maintW (s : State) (m : Master) (h : Slice) (op : Nat) (all discard : Bool) : State :=
  s.csOpen m (CsReg.maintCtl h).addr fun s =>
    let r : CsReg := .maintStatus h
    let first : LineNo := BitVec.ofNat 45 (s.reg (.maintFirst h)).toNat
    let last : LineNo := BitVec.ofNat 45 (s.reg (.maintLast h)).toNat
    if op = 0 && !discard then s
    else if s.maintBusy h || (all && (List.finRange 24).any fun k => s.maintBusy k) then s.setFld r 62 60 1
    else if !s.runOrQuiesce then s.setFld r 62 60 2
    else if op = 0 || last.toNat < first.toNat || (discard && (op ≠ 2 || s.masterLevel m = 0)) ||
        !s.maintGranted m first.toNat last.toNat then s.setFld r 62 60 3
    else
      let o := ownerFin18 (s.masterOwners m).head?
      let s1 := s.setFld r 62 60 0
      if all then (List.finRange 24).foldl (fun s k => s.maintBegin k h op discard first last o) s1
      else s1.maintBegin h h op discard first last o

/-- What an action does to the line: dirty data written or dropped, copies kept clean or removed (R265, R268); a line that a
later request or write has reached stays where it is, and nothing of it is dropped (R267). -/
def State.maintLine (s : State) (l : LineNo) (op : Nat) (discard touched : Bool) : State :=
  let s := s.homeArrive l
  let held := s.slotsWith l
  if touched && discard then s
  else if op = 1 || touched then
    let s1 := (s.slotsWith l).foldl (fun s sl => (s.snoop sl l .clean true).1) s
    match s1.basinCopy l with
    | some b => if b.dirty then s1.snoopWrite l b.data b.poison else s1
    | none => s1
  else
    let s1 :=
      if discard then s.invalidateAll l none
      else (s.slotsWith l).foldl (fun s sl => ((s.endHold sl).snoop sl l .inv true).1) s
    let s2 := match s1.basinCopy l with
      | some b => if b.dirty && !discard then s1.homeWrite l fullMask b.data b.poison else s1
      | none => s1
    (s2.basinDrop l).sfEnd l held

/-- MAINT_ACTION: one line found at the start instant, of the 16 whose turn it is, is acted on, unless the home slice NACKs
or what is on its way below has to settle first (R264, R265, R267, R270). -/
def State.maintAction (s : State) (h : Slice) (l : LineNo) : State :=
  match (s.slice h.val).maint with
  | none => s
  | some o =>
    let r : Requester := .agent (BitVec.ofNat 16 (maintSrc h.val))
    if o.finished || !(o.todo.take 16).contains l || (s.outReq r l).any (·.nacked) then s
    else
      if s.refuses h.val l r (if o.op = 1 then .peek else .maint) then s.nack h r l .maint false
      else if s.homeWaits l then s
      else
        let p := (s.freshest l).2
        let s1 := (((s.unstarve h.val l r).dropReq r l).sfTouch l).maintLine l o.op.toNat o.discard (o.touched.contains l)
        let reg : CsReg := .maintStatus h
        let s2 := if p then s1.setFld reg 47 47 1 else s1
        let s3 := s2.setFld reg 46 32 (max (s2.fld reg 46 32) (homeSet l.toNat))
        (s3.bump reg 31 0 1).modSlice h.val fun sl =>
          { sl with maint := some { o with todo := o.todo.filter (· ≠ l), lines := o.lines + 1, poisoned := o.poisoned || p } }

/-- The last action of an operation completes: the engine's completion message is raised, that of the issuer of an
operation on all engines when every engine has finished (R269, R270). -/
def State.maintDone (s : State) (h : Slice) : State :=
  match (s.slice h.val).maint with
  | none => s
  | some o =>
    if o.finished || !o.todo.isEmpty then s
    else
      let own : Option Nat := if o.owner.val < 17 then some o.owner.val else none
      let raise (s : State) (k : Slice) : State := s.raiseOwned (1 + k.val / 6) 0x05 k.val 0 own
      let s1 := (s.setFld (.maintStatus h) 46 32 16384).modSlice h.val fun sl =>
        { sl with maint := some { o with finished := true } }
      let s2 := if o.issuer = h then s1 else raise s1 h
      if s2.maintBusy o.issuer then s2 else raise s2 o.issuer

/-! ### Hardware prefetch (R247 to R249) -/

/-- A retired cacheable load or fetch trains the prefetcher: it carries on the stream of its 4 KiB frame, or starts one in
place of the stream longest without an access; 16 are tracked (R249).  DESIGN CHOICE (log entry 114): one stream a frame. -/
def Holder.train (h : Holder) (l : LineNo) : Holder :=
  { h with trained := (l :: h.trained.filter fun x => x.toNat / 32 ≠ l.toNat / 32).take 16 }

/-- The prefetcher issues a request inside the 4 KiB frame of the retired access that trained it; one that the
firewall denies, or whose line the slot has already, is dropped (R59, R248, R249). -/
def State.hardwarePrefetch (s : State) (lc : Lc) (trained l : LineNo) (stream : Fin 16) : State :=
  match (s.lc lc.val).host with
  | none => s
  | some sl =>
    let h := s.holder sl.val
    if !s.lcRuns lc || !h.trained.contains trained || trained.toNat / 32 ≠ l.toNat / 32 || !(s.place (lineAddr l)).isMemory ||
        !s.fwPass (.core lc) (lineAddr l) 128 needR || h.holds l || (h.pfReqs.any fun r => r.line = l) then s
    else s.setHolder sl.val { h with pfReqs := h.pfReqs ++ [⟨l, stream.val⟩] }

/-- A prefetch fill arrives: it replaces the PREFETCH entry longest without use when 24 are held (R248). -/
def State.prefetchFill (s : State) (sl : Slot) (l : LineNo) : State :=
  let h := s.holder sl.val
  match h.pfReqs.find? (fun r => r.line = l), s.txn l with
  | some r, some t =>
    if t.req = .slot sl && t.kind == .prefetch && t.ready && !t.delivered && s.homeLive (lineAddr l) then
      let s := s.retake sl l
      let h := s.holder sl.val
      let v := t.data.getD (s.freshest l)
      let s1 := (s.deliver sl l).dropReq (.slot sl) l
      let full := h.side.length ≥ 24
      let streams := match h.side with
        | p :: _ => if full then Table.set 0 h.streams p.stream 0 else h.streams
        | [] => h.streams
      let kept := if full then h.side.drop 1 else h.side
      s1.setHolder sl.val
        { h with pfReqs := h.pfReqs.filter fun x => x.line ≠ l, streams := streams
                 side := kept ++ [⟨l, v.1, v.2, false, r.stream⟩] } |>.caClear l
    else s
  | _, _ => s

/-- A PREFETCH line that a retired instruction read moves to L1 and L2, state S; streaming when the four lines
before it of its stream were each promoted (R247, R258). -/
def Holder.promote (h : Holder) (l : LineNo) (fetch : Bool) : Holder :=
  match h.side.find? fun p => p.line = l with
  | none => h
  | some p =>
    let n := Table.get 0 h.streams p.stream
    let h1 : Holder := { h with streams := Table.set 0 h.streams p.stream (n + 1) }
    (h1.l2Fill l .s p.data p.poison (4 ≤ n)).l1Place l fetch

/-- A retired fetch of a line uses it where the slot has it (R247, R249, R259). -/
def Holder.fetched (h : Holder) (l : LineNo) : Holder :=
  if (h.find l).isSome then (h.use l true).train l
  else if h.side.any fun p => p.line = l then (h.promote l true).train l
  else h

/-- A retired load of a line uses it where the slot has it, and trains the prefetcher (R247, R249, R259). -/
def Holder.loaded (h : Holder) (l : LineNo) : Holder :=
  (if (h.find l).isSome then h.use l false else h.promote l false).train l

/-! ### The breach log -/

/-- Read COH_BRLOG: the oldest entry leaves the log (R306). -/
def State.brlogR (s : State) (m : Master) (t : Ct) : State :=
  s.csAccess m (CsReg.cohBrlog t).addr needR true fun s =>
    match (s.ct t.val).brlog with
    | [] => s.respond m (.data 0)
    | e :: rest => (s.modCt t.val fun c => { c with brlog := rest }).respond m (.data e)

/-! ### Commands -/

/-- MAINT_CTL with OP CLEAN (R265). -/
def execMaintClean (m : Master) (sl : Slice) (all discard : Bool) (s : State) : Outcome State Fault Refusal :=
  .next (s.maintW m sl 1 all discard)
/-- MAINT_CTL with OP INVALIDATE (R265, R268). -/
def execMaintInvalidate (m : Master) (sl : Slice) (all discard : Bool) (s : State) : Outcome State Fault Refusal :=
  .next (s.maintW m sl 2 all discard)
/-- MAINT_CTL with OP CLEAN_INVALIDATE (R265). -/
def execMaintCleanInvalidate (m : Master) (sl : Slice) (all discard : Bool) (s : State) : Outcome State Fault Refusal :=
  .next (s.maintW m sl 3 all discard)
/-- The end of a maintenance operation (R270). -/
def execMaintDone (sl : Slice) (s : State) : Outcome State Fault Refusal := .next (s.maintDone sl)
/-- The prefetcher issues a request (R249). -/
def execHardwarePrefetch (lc : Lc) (trained line : LineNo) (stream : Fin 16) (s : State) : Outcome State Fault Refusal :=
  .next (s.hardwarePrefetch lc trained line stream)
/-- A prefetch fill arrives (R248). -/
def execPrefetchFill (slot : Slot) (line : LineNo) (s : State) : Outcome State Fault Refusal := .next (s.prefetchFill slot line)

end Sys2Proof.Machine
end

