-- ==== Sys2Proof/Machine/Groups.lean ====
section
/-! DEFINITION. Voting groups (chapter 8): what a group does when replicas differ, when a replica is rebuilt, and when
a logical core moves to other silicon. -/

namespace Sys2Proof.Machine

/-! ### Cores in and out of service -/

def coreAt (i : Island) (c : Fin 4) : Core := ⟨4 * i.val + c.val, by omega⟩
def coreIsland (c : Core) : Island := ⟨c.val / 4, by omega⟩
def coreLetter (c : Core) : Fin 4 := ⟨c.val % 4, by omega⟩
def slotAt (i : Island) (k : Fin 4) : Slot := ⟨4 * i.val + k.val, by omega⟩

/-- A core that serves no logical core. -/
def PCore.idle (x : PCore) (r : Role) : PCore :=
  { x with role := r, slot := 0, lc := none, gated := true, phase := .none, attempts := 0, odd := false, upsets := []
           outUpsets := [], target := false, fromHeld := false }

/-- Removed from service until the next COMPOSE (R197, R198); its place in the slot stays its own, and a HELD replica that
fails has not rejoined (R237). -/
def PCore.fail (x : PCore) : PCore :=
  { x with role := .failed, gated := true, phase := .none, odd := false, upsets := [], outUpsets := [], target := false }

/-- A slot reduced to one healthy core runs it as a simplex core; more run as replicas (R197). -/
def Isl.fixRoles (x : Isl) (k : Fin 4) : Isl :=
  let hs := (x.slots.get k).positions.filter fun c => (x.cores.get c).healthy
  let r : Role := if hs.length = 1 then .simplex else .replica
  hs.foldl (fun x c => x.modCore c fun y => { y with role := r }) x

def State.settleSlot (s : State) (i : Island) (k : Fin 4) : State := s.modIsl i.val fun x => (x.fixRoles k).refresh k

/-- Raise an event about a slot from its first core; `off` the offset of the instruction concerned. -/
def State.slotEvent (s : State) (i : Island) (k : Fin 4) (ev cls lc off : Nat) : State :=
  let c := (s.isl i.val).lead k
  s.grpEvent i (coreSrc (4 * i.val + c.val)) ev cls lc c.val k.val off

/-- Raise an event from one physical core. -/
def State.coreEvent (s : State) (i : Island) (c : Fin 4) (ev cls : Nat) (off : Nat) : State :=
  let x := (s.isl i.val).cores.get c
  s.grpEvent i (coreSrc (4 * i.val + c.val)) ev cls (x.lc.elim 0 Fin.val) c.val x.slot.val off

/-! ### Targets (R200, R231, R232) -/

/-- A sleeper of the pool that can be drawn. -/
def PCore.pool (x : PCore) : Bool := x.role == .poolSleeper && x.passed && !x.target && x.phase == .none

/-- The slot hosts no logical core, and no migration in progress has drawn cores for it (R232). -/
def Isl.slotFree (x : Isl) (k : Fin 4) : Bool :=
  (x.slots.get k).lc.isNone && !((List.finRange 4).any fun c => (x.cores.get c).target && (x.cores.get c).slot = k)

/-- Slot and cores that an island offers for a layout of `w` replicas. -/
def Isl.offer (x : Isl) (w : Nat) : Option (Fin 4 × List (Fin 4)) :=
  let pool (l : List (Fin 4)) : Bool := l.all fun c => (x.cores.get c).pool
  let cands : List (Fin 4 × List (Fin 4)) :=
    if w = 3 then [(0, [0, 1, 2])] else if w = 2 then [(0, [0, 1]), (1, [2, 3])]
    else if w = 1 then [(0, [0]), (1, [1]), (2, [2]), (3, [3])] else []
  cands.find? fun c => x.slotFree c.1 && pool c.2

/-- Compute tiles a parcel may be placed on, from tile `t` on. -/
def State.targetTiles (s : State) (p t : Nat) : List Nat :=
  (t :: (List.range 4).filter (· ≠ t)).filter fun u =>
    s.tileLive (1 + u) && (match s.image with | some i => i.parcelWays p u ≠ 0 | none => false)

/-- Islands of tile `u` of one kind, ascending. -/
def islandsOf (u : Nat) : List Island := (List.finRange 48).filter fun i => i.val / 12 = u

/-- Lent D cores that may be drawn (R200). -/
def State.lentOn (s : State) (u : Nat) : Option (Island × Fin 4 × List (Fin 4)) :=
  (islandsOf u).findSome? fun i =>
    let x := s.isl i.val
    let lend := match s.image with | some im => grpLend (wordAt im.groups i.val) | none => false
    if (x.cores.get 3).role == .ownSleeper && (x.cores.get 3).passed && !(x.cores.get 3).target && lend &&
        x.healthy 0 = 3 && x.slotFree 3 then some (i, 3, [3]) else none

/-- The first target for a layout of `w` replicas (R231). -/
def State.targetFor (s : State) (p t w : Nat) : Option (Island × Fin 4 × List (Fin 4)) :=
  let tiles := s.targetTiles p t
  let on (u : Nat) (spare : Bool) : Option (Island × Fin 4 × List (Fin 4)) :=
    (islandsOf u).findSome? fun i =>
      if ((s.isl i.val).layout == 3) == spare then ((s.isl i.val).offer w).map fun o => (i, o.1, o.2) else none
  match tiles.findSome? fun u => (on u true).or (on u false) with
  | some r => some r
  | none => if w = 1 then tiles.findSome? s.lentOn else none

/-- A target of the configured layout, else of the largest smaller one that gives more than `have_` replicas. -/
def State.target (s : State) (p t have_ : Nat) : Nat → Option (Island × Fin 4 × List (Fin 4))
  | 0 => none
  | w + 1 => if w + 1 ≤ have_ then none else (s.targetFor p t (w + 1)).or (s.target p t have_ w)

/-- The target that a logical core's migration would take now; a LOST core has no replica left (R235). -/
def State.lcTarget (s : State) (lc : Lc) : Option (Island × Fin 4 × List (Fin 4)) :=
  match (s.lc lc.val).host with
  | none => none
  | some h =>
    let x := s.isl (hostIsland h).val
    let have_ := if (x.slots.get (slotPos h)).st == .lost then 0 else x.healthy (slotPos h)
    s.target (pswParcel (s.lc lc.val).psw) (h.val / 48) have_ (x.slots.get (slotPos h)).width

def State.requestMigration (s : State) (lc : Lc) : State :=
  s.modLc lc.val fun c => { c with reqs := { c.reqs with migrate := true } }

/-! ### Loss of a logical core (R217, R235) -/

/-- The logical core stops for good: an agent death. -/
def State.loseLc (s : State) (lc : Lc) : State :=
  match (s.lc lc.val).host with
  | none => s
  | some h =>
    let s1 := s.modLc lc.val fun c => { c.clearResv with stops := { c.stops with lost := true }, storeBuf := [], far := none }
    let s2 := s1.modIsl (hostIsland h).val fun x => x.modSlot (slotPos h) fun y => { y with st := .lost }
    s2.slotDeath h

/-- A group that no majority restores at the instruction at `off` (R217). -/
def State.groupLostLc (s : State) (lc : Lc) (h : Slot) (off : Nat) : State :=
  let i := hostIsland h
  (s.loseLc lc).grpEvent i (gateSrc i.val) evGroupLost clsSevere lc.val 0 (slotPos h).val off

/-! ### Replacement and hard faults (R222, R225, R228, R255) -/

/-- A physical core is replaced by its island's own sleeper, unless that is drawn for a migration, else its slot goes on
with what is left (R199, R200, R222).  The sleeper takes the place of a replica that SPLIT held (R237). -/
def State.replaceCore (s : State) (i : Island) (c : Fin 4) : State :=
  let x := s.isl i.val
  let k := (x.cores.get c).slot
  match (x.cores.get c).lc with
  | none => s.modCore i c PCore.fail
  | some lc =>
    let s1 := s.modCore i c fun y => { PCore.fail y with lc := none }
    if (x.cores.get 3).role == .ownSleeper && (x.cores.get 3).passed && !(x.cores.get 3).target && k = 0 && c ≠ 3 then
      let held := (x.cores.get c).fromHeld
      let s2 := (s1.modCore i c fun y => { y with fromHeld := false }).modIsl i.val fun y =>
        (y.modSlot k fun z => { z with positions := z.positions.map fun d => if d = c then 3 else d }).modCore 3 fun z =>
          { z with role := .rejoining, slot := k, lc := some lc, phase := .wake, attempts := 0, odd := true, gated := true
                   fromHeld := held }
      (s2.settleSlot i k).coreEvent i 3 evSpared clsNote 0
    else
      let s2 := (s1.modIsl i.val fun y => y.modSlot k fun z => { z with positions := z.positions.filter (· ≠ c) }).settleSlot i k
      let s3 := s2.requestMigration lc
      if (s3.lcTarget lc).isNone then s3.slotEvent i k evSpareExhausted clsContained lc.val 0 else s3

/-- A faulty replica named by its own codes: odd in a triple, out of the pair until it is resynchronised (R255). -/
def State.faultyReplica (s : State) (i : Island) (c : Fin 4) (off : Nat) : State :=
  let k := ((s.isl i.val).cores.get c).slot
  (s.markOdd i c off true).settleSlot i k

/-- A hard fault of a simplex core that serves, at the instruction at `off` (R228). -/
def State.simplexHard (s : State) (i : Island) (c : Fin 4) (off : Nat) : State :=
  match ((s.isl i.val).cores.get c).lc, ((s.isl i.val).cores.get c).healthy with
  | none, _ | _, false => s
  | some lc, true =>
    let k := ((s.isl i.val).cores.get c).slot
    let s1 := s.coreEvent i c evSimplexHard clsContained off
    let s2 := s1.modCore i c PCore.fail
    let s3 := (s2.modLc lc.val fun l => { l with stops := { l.stops with hard := true } }).requestMigration lc
    if (s3.lcTarget lc).isNone then
      (s3.modIsl i.val fun x => x.modSlot k fun y => { y with st := .stopped }).slotEvent i k evSpareExhausted clsSevere lc.val off
    else s3

/-- A pair whose count is promoted is paused and both cores are tested (R225). -/
def State.pairTest (s : State) (i : Island) (k : Fin 4) : State :=
  match ((s.isl i.val).slots.get k).lc with
  | none => s
  | some lc =>
    let s1 := s.modLc lc.val fun l => { l with stops := { l.stops with hard := true } }
    ((s.isl i.val).slots.get k).positions.foldl (fun s c =>
      if ((s.isl i.val).cores.get c).healthy then s.modCore i c fun y => { y with phase := .test } else s) s1

/-- The self-tests of a pair under R225 have ended: the slot goes on with one core, or none. -/
def State.pairTested (s : State) (i : Island) (k : Fin 4) : State :=
  let x := s.isl i.val
  let ps := (x.slots.get k).positions
  if ps.any fun c => (x.cores.get c).healthy && (x.cores.get c).phase == .test then s
  else
    match (x.slots.get k).lc with
    | none => s
    | some lc =>
      let hs := ps.filter fun c => (x.cores.get c).healthy
      let s1 := match hs with
        | _ :: b :: _ => s.modCore i b PCore.fail
        | _ => s
      let s2 := (s1.settleSlot i k).requestMigration lc
      if hs.isEmpty then
        if (s2.lcTarget lc).isNone then
          (s2.modIsl i.val fun x => x.modSlot k fun y => { y with st := .stopped }).slotEvent i k evSpareExhausted clsSevere
            lc.val 0
        else s2
      else
        let s3 := s2.modLc lc.val fun l => { l with stops := { l.stops with hard := false } }
        if (s3.lcTarget lc).isNone then s3.slotEvent i k evSpareExhausted clsContained lc.val 0 else s3

/-! ### What came up as an instruction came to retire (R216, R217, R224, R227, R248, R254) -/

/-- What becomes of the instruction. -/
inductive RetireEnd where
  | retire
  /-- The access meets a breached line: MACHINE_CHECK at this physical address. -/
  | check (pa : Nat)

/-- Put what strikes the healthy cores of a slot at the next two retirements in front of what is to strike them. -/
def State.strikeSlot (s : State) (i : Island) (k : Fin 4) (f : Nat → Fin 4 → List RetUpset) : State :=
  ((s.isl i.val).voting k).zipIdx.foldl (fun s e =>
    s.modCore i e.1 fun y => { y with upsets := f e.2 e.1 ++ y.upsets }) s

/-- The differences that a retirement event names, as what strikes the cores (R216, R217, R224, R227): one replica of a
triple; all three, and what their re-execution gives; the two of a pair; a failing check of a simplex core. -/
def State.strike (s : State) (i : Island) (k : Fin 4) (ev : RetireEvent) : State :=
  let n := (s.isl i.val).healthy k
  let sig (b : Nat) : RetUpset := .signature (BitVec.ofNat 64 b)
  match ev with
  | .oddReplica c => if n = 3 then s.strikeSlot i k fun _ d => [if d = c then sig 1 else .none] else s
  | .allDiffer again =>
    if n ≠ 3 then s
    else s.strikeSlot i k fun j d =>
      match again with
      | some (some c) => [sig (j + 1), if d = c then sig 1 else .none]
      | some none => [sig (j + 1), .none]
      | none => [sig (j + 1), sig (j + 1)]
  | .pairDiffer => if n = 2 then s.strikeSlot i k fun j _ => [if j = 1 then sig 1 else .none] else s
  | .simplexCheck again => if n = 1 then s.strikeSlot i k fun _ _ => if again then [.check, .check] else [.check] else s
  | _ => s

/-- Holder code of a slot in the breach log of the line's home tile. -/
def State.breachHolder (s : State) (sl : Slot) (l : LineNo) : Nat :=
  ownerCode ((s.homeTile (lineAddr l)).getD 0) sl.val

/-- The copy of a line in a slot: in L2, or in an eviction on its way home. -/
def Holder.copyOf (h : Holder) (l : LineNo) : Option CLine := (h.find l).or (h.evict.find? fun c => c.line = l)

/-- An error on a line of a simplex core's caches: a clean line is dropped and refetched, a dirty one breached. -/
def State.simplexLine (s : State) (sl : Slot) (c : Fin 4) (l : LineNo) (kind : Nat) : State × RetireEnd :=
  let src := coreSrc (4 * (hostIsland sl).val + c.val)
  match (s.holder sl.val).copyOf l with
  | none => (s, .retire)
  | some x =>
    if x.st == .m || x.st == .o then
      let s1 := s.modHolder sl.val fun h =>
        { h.drop l with evict := h.evict.filter fun y => !(y.line = l && (y.st == .m || y.st == .o)) }
      ((s1.breachLine l 1 (s.breachHolder sl l)).report src kind clsSevere (lineAddr l), .check (lineAddr l))
    else ((s.modHolder sl.val fun h => h.drop l).report src kind clsCorrected (lineAddr l), .retire)

/-- An error in L1I of a simplex core: the line is refetched, from L2 where that has it dirty. -/
def State.simplexFetchLine (s : State) (sl : Slot) (c : Fin 4) (l : LineNo) : State × RetireEnd :=
  let dirty : Bool := ((s.holder sl.val).find l).any fun x => x.st == .m || x.st == .o
  let s1 := s.modHolder sl.val fun h => if dirty then { h with l1i := h.l1i.filter fun x => x.line ≠ l } else h.drop l
  (s1.report (coreSrc (4 * (hostIsland sl).val + c.val)) 0x29 clsCorrected (lineAddr l), .retire)

/-- An error in the caches of a slot that serves a logical core: a replica that has it is faulty, a simplex core loses its
line (Table 9.3); every other event is none. -/
def State.cacheError (s : State) (h : Slot) (lc : Lc) (ev : RetireEvent) : State × RetireEnd :=
  let i := hostIsland h
  let k := slotPos h
  let x := s.isl i.val
  let mine (c : Fin 4) : Bool := (x.slots.get k).positions.contains c && (x.cores.get c).healthy
  let off := (s.lc lc.val).pc.toNat
  let on (c : Fin 4) (simplex : State × RetireEnd) : State × RetireEnd :=
    if !mine c then (s, .retire)
    else if x.healthy k ≥ 2 then (s.faultyReplica i c off, .retire)
    else simplex
  match ev with
  | .sbParity l =>
    if (s.holder h.val).side.any fun p => p.line = l then
      ((s.modHolder h.val fun y => y.drop l).report (s.lcSrc lc.val) 0x28 clsCorrected (lineAddr l), .retire)
    else (s, .retire)
  | .l1Parity c l => on c (s.simplexLine h c l 0x29)
  | .l1iParity c l => on c (s.simplexFetchLine h c l)
  | .l2Corrected c l => if mine c then (s.report (coreSrc (4 * i.val + c.val)) 0x2A clsCorrected (lineAddr l), .retire) else (s, .retire)
  | .l2Uncorrectable c l => on c (s.simplexLine h c l 0x2B)
  | _ => (s, .retire)

/-- A retirement event: what strikes the cores at the vote of the instruction, or an error of a cache. -/
def State.retireEvent (s : State) (lc : Lc) (ev : RetireEvent) : State × RetireEnd :=
  match (s.lc lc.val).host with
  | none => (s, .retire)
  | some h =>
    match ev with
    | .oddReplica _ | .allDiffer _ | .pairDiffer | .simplexCheck _ => (s.strike (hostIsland h) (slotPos h) ev, .retire)
    | _ => s.cacheError h lc ev

/-- Line of a cache error. -/
def errLine : RetireEvent → Option LineNo
  | .sbParity l | .l1Parity _ l | .l1iParity _ l | .l2Corrected _ l | .l2Uncorrectable _ l => some l
  | _ => none

/-- An error waits on the line in the caches of the slot. -/
def State.cacheErr (s : State) (sl : Slot) (l : LineNo) : Bool := (s.holder sl.val).errs.any fun e => errLine e = some l

/-- The first error that waits on a line in the caches of a slot is met (R254, R256). -/
def State.cacheMeet (s : State) (sl : Slot) (l : LineNo) : State × RetireEnd :=
  match s.slotLc sl, (s.holder sl.val).errs.find? fun e => errLine e = some l with
  | some lc, some ev => (s.modHolder sl.val fun h => { h with errs := h.errs.erase ev }).cacheError sl lc ev
  | _, _ => (s, .retire)

/-! ### Outputs of a group (R209, R212) -/

/-- Something strikes an output of a healthy core of the slot. -/
def State.outStruck (s : State) (sl : Slot) : Bool :=
  let x := s.isl (hostIsland sl).val
  (x.voting (slotPos sl)).any fun c => !(x.cores.get c).outUpsets.isEmpty

/-- The replicas of the slot present an output, each with what strikes it: released where they agree or one is outvoted and
becomes odd; else they roll back and present it again when its command comes again (R212, R216, R217, R224). -/
def State.voteOut (s : State) (sl : Slot) : State × Bool :=
  let i := hostIsland sl
  let k := slotPos sl
  let cs := (s.isl i.val).voting k
  let vs := cs.map fun c => (c, ((s.isl i.val).cores.get c).outUpsets.headD 0)
  let s1 := cs.foldl (fun s c => s.modCore i c fun y => { y with outUpsets := y.outUpsets.tail }) s
  match s.slotLc sl, verdict vs with
  | some lc, .odd c => (s1.markOdd i c (s.lc lc.val).pc.toNat true, true)
  | some lc, .differ =>
    let off := (s.lc lc.val).pc.toNat
    if cs.length = 3 then ((s1.rollback lc).slotEvent i k evNoMajority clsContained lc.val off, false)
    else (s1.pairMismatch lc sl off true, false)
  | _, _ => (s1, true)

/-! ### Delay registers (R233) -/

def State.gateEvent (s : State) (sl : Slot) (ev : GateEvent) : State :=
  let i := hostIsland sl
  let k := slotPos sl
  let x := s.isl i.val
  let n := x.healthy k
  match ev with
  | .ok => s
  | .corrected =>
    if n < 2 then s
    else (s.bump (.grpCount i) 39 32 1).grpEvent i (gateSrc i.val) evGateDr clsCorrected 0 0 k.val 0
  | .uncorrectable c =>
    if n < 2 || !(x.slots.get k).positions.contains c || !(x.cores.get c).healthy then s
    else
      let s1 := (s.bump (.grpCount i) 39 32 1).grpEvent i (gateSrc i.val) evGateDrUe clsContained 0 c.val k.val 0
      if n = 3 then s1.markOdd i c 0 false
      else match (x.slots.get k).lc with
        | some lc => s1.pairMismatch lc sl 0 false
        | none => s1

/-! ### Resynchronisation (R218 to R223) -/

/-- Resynchronisation fails (R221): RESYNC_FAIL, and the core is replaced; a target of a migration just fails. -/
def State.resyncFail (s : State) (i : Island) (c : Fin 4) : State :=
  if ((s.isl i.val).cores.get c).target then s.modCore i c PCore.fail
  else (s.coreEvent i c evResyncFail clsContained 0).replaceCore i c

def State.inPhase (s : State) (core : Core) (p : Phase) : Bool :=
  ((s.isl (coreIsland core).val).cores.get (coreLetter core)).phase == p

def State.setPhase (s : State) (core : Core) (p : Phase) : State :=
  s.modCore (coreIsland core) (coreLetter core) fun x => { x with phase := p, gated := false }

def State.resyncWake (s : State) (core : Core) : State :=
  if s.inPhase core .wake then s.setPhase core .test else s

/-- End of a self-test: of a joining core or a migration's target (R218, R229), or of a core of a pair (R225). -/
def State.resyncTest (s : State) (core : Core) (ok : Bool) : State :=
  if !s.inPhase core .test then s
  else
    let i := coreIsland core
    let c := coreLetter core
    let x := (s.isl i.val).cores.get c
    if x.healthy && !x.target then
      let s1 := s.modCore i c fun y => if ok then { y with phase := .none } else PCore.fail y
      s1.pairTested i x.slot
    else if ok then s.setPhase core .invalidate
    else s.resyncFail i c

def State.resyncInvalidate (s : State) (core : Core) : State :=
  if !s.inPhase core .invalidate then s
  else if ((s.isl (coreIsland core).val).cores.get (coreLetter core)).target then s.setPhase core .wait
  else s.setPhase core .mirror

/-- Both healthy replicas of the slot make the copy reads; a difference between them is a mismatch of the pair, which takes
the joining core back to INVALIDATE (R219, R223). -/
def State.resyncMirror (s : State) (core : Core) (ok : Bool) : State :=
  let i := coreIsland core
  let x := (s.isl i.val).cores.get (coreLetter core)
  if !s.inPhase core .mirror then s
  else if !ok then s.resyncFail i (coreLetter core)
  else
    match s.voteOut (slotAt i x.slot) with
    | (s1, true) => s1.setPhase core .wait
    | (s1, false) => s1

def State.mirrorTimeout (s : State) (core : Core) : State :=
  if s.inPhase core .mirror then s.resyncFail (coreIsland core) (coreLetter core) else s

/-- Every released store of the slot's core reaches its L1, and its open fills end (R207, R220). -/
def State.flushStores (s : State) (sl : Slot) (lc : Lc) : Nat → State
  | 0 => s
  | n + 1 =>
    match (s.lc lc.val).storeBuf with
    | [] => s
    | e :: _ =>
      if s.canOwn sl (lineOfAddr e.addr) then ((s.ownLine sl (lineOfAddr e.addr)).drainSlot sl).flushStores sl lc n else s

/-- The slot's stores are written as far as their lines can be owned now. -/
def State.quiet (s : State) (sl : Slot) (lc : Lc) : State := s.flushStores sl lc ((s.lc lc.val).storeBuf.length)

/-- No transaction of the slot is open. -/
def State.noFills (s : State) (sl : Slot) : Bool := !(s.slices.any fun e => e.2.txns.any fun t => t.req = .slot sl)

/-- Every earlier access of the core can complete now: no transaction of its slot is open, and each of its stores can be
written. -/
def State.canQuiet (s : State) (sl : Slot) (lc : Lc) : Bool :=
  s.noFills sl && ((s.quiet sl lc).lc lc.val).storeBuf.isEmpty

/-- The core stops at the boundary it stands at: its accesses complete, and a micro-routine restarts from its entry
when it goes on (R182, R207). -/
def State.quietStop (s : State) (sl : Slot) (lc : Lc) : State :=
  ((s.quiet sl lc).modLc lc.val fun c => { c with micro := none }).modIsl (hostIsland sl).val Isl.voterCheck

/-- A core of the slot waits for its rejoin (Table 8.6); a lost or migrating core has none. -/
def State.rejoinDue (s : State) (h : Slot) (c : LCore) : Bool :=
  let x := s.isl (hostIsland h).val
  !c.stops.lost && !c.stops.migrating && (x.slots.get (slotPos h)).positions.any fun d =>
    (x.cores.get d).role == .rejoining && (x.cores.get d).phase == .wait

/-- A core is being resynchronised into the slot (R223). -/
def State.resyncing (s : State) (h : Slot) (c : LCore) : Bool :=
  let x := s.isl (hostIsland h).val
  !c.stops.lost && !c.stops.migrating && (x.slots.get (slotPos h)).positions.any fun d =>
    (x.cores.get d).role == .rejoining

/-- No micro-routine of the core is past a commit point, and no atomic of it is under way (R207). -/
def LCore.atPoint (c : LCore) : Bool := c.overrun.isNone && c.far.isNone

/-- REJOIN (R220). -/
def State.rejoin (s : State) (core : Core) : State :=
  let i := coreIsland core
  let c := coreLetter core
  let x := (s.isl i.val).cores.get c
  match x.lc with
  | none => s
  | some lc =>
    let l := s.lc lc.val
    if !s.inPhase core .wait || x.role != .rejoining || x.target || l.stops.lost || l.stops.migrating ||
        !l.atPoint || !s.canQuiet (slotAt i x.slot) lc then s
    else
      let sl := slotAt i x.slot
      let s1 := s.quietStop sl lc
      let s2 := s1.modHolder sl.val fun h => { h with side := [], streams := [], pfReqs := [] }
      let s3 := s2.modLc lc.val fun l => { l.clearResv with contention := [] }
      let s4 := s3.modCore i c fun y =>
        { y with role := .replica, phase := .none, odd := false, attempts := 0, fromHeld := false, gated := false }
      let s5 := ((((s4.giveBanks lc).settleSlot i x.slot)).bump (.grpCount i) 63 48 1).modIsl i.val Isl.voterCheck
      s5.coreEvent i c evRejoined clsNote 0

/-- REJOIN did not complete in 2 µs (R221). -/
def State.rejoinTimeout (s : State) (core : Core) : State :=
  let i := coreIsland core
  let c := coreLetter core
  let x := (s.isl i.val).cores.get c
  if !s.inPhase core .wait || x.role != .rejoining || x.target then s
  else if x.attempts + 1 ≥ 3 then s.resyncFail i c
  else s.modCore i c fun y => { y with attempts := y.attempts + 1 }

/-! ### Migration (R229 to R232) -/

/-- Free migration slot of the lowest-numbered slice of a tile (R230). -/
def State.freeMigSlot (s : State) (t : Nat) : Option Slice :=
  (List.finRange 24).find? fun h => h.val / 6 = t && (s.slice h.val).migSlot.isNone

/-- Every dirty line of a slot goes home as a writeback; the slot then holds nothing (R229, R276). -/
def State.emptySlot (s : State) (sl : Slot) : State :=
  let h := s.holder sl.val
  let s1 := s.setHolder sl.val { Holder.init with evict := h.evict ++ h.l2 }
  let s2 := (s1.holder sl.val).evict.foldl (fun s c => if c.st == .m || c.st == .o then s.writeback sl c.line else s) s1
  (s2.holder sl.val).evict.foldl (fun s c => s.evictClean sl c.line) s2

/-- Draw the cores of a target for a migration: each is SPARED, and a lent D becomes a POOL_SLEEPER (R200, R238). -/
def State.drawTarget (s : State) (lc : Lc) (t : Island × Fin 4 × List (Fin 4)) : State :=
  t.2.2.foldl (fun s c => (s.modCore t.1 c fun x =>
    { x with role := .poolSleeper, target := true, lc := some lc, slot := t.2.1, phase := .wake }).coreEvent t.1 c evSpared
      clsNote 0) s

def unDraw (x : PCore) : PCore := if x.role == .failed then x else { x with target := false, lc := none, slot := 0, phase := .none, gated := true }

/-- The migration that a logical core waits for can start: a target and a migration slot are free, and no lower number
that waits could take them (R230, R232). -/
def State.migrateDue (s : State) (lc : Lc) (h : Slot) : Bool :=
  let lower := allLc.any fun o => o.val < lc.val && (s.lc o.val).reqs.migrate &&
    !(s.migrations.any fun m => m.lc = o) && (s.lcTarget o).isSome
  (s.lc lc.val).reqs.migrate && !(s.migrations.any fun m => m.lc = lc) && !lower && s.runOrQuiesce &&
    (s.lcTarget lc).isSome && (s.freeMigSlot (h.val / 48)).isSome

/-- The inactive banks of the core await their swap, which precedes a migration and every stop at one point (R207). -/
def State.swapDue (s : State) (c : LCore) : Bool := c.bankPend && (s.runOrQuiesce || s.mode == .hold)

/-- The migration of a logical core starts, at a synchronisation point after a rejoin and a bank swap that act there, or at
the checkpoint of a core with a hard fault (R207, R229). -/
def State.migrate (s : State) (lc : Lc) : State :=
  let l := s.lc lc.val
  match l.host, s.lcTarget lc with
  | some h, some t =>
    match s.freeMigSlot (h.val / 48) with
    | none => s
    | some sl =>
      if !s.migrateDue lc h || !(l.stops.hard || l.atPoint) || !s.canQuiet h lc || s.rejoinDue h l || s.swapDue l then s
      else
        let s1 := (s.quietStop h lc).emptySlot h
        let s2 := s1.modLc lc.val fun c =>
          { c.clearResv with stops := { c.stops with migrating := true }, reqs := { c.reqs with migrate := false } }
        let s3 := s2.modSlice sl.val fun x => { x with migSlot := some lc, migRecord := some (s2.lc lc.val) }
        let s4 := s3.modIsl (hostIsland h).val fun x => x.modSlot (slotPos h) fun y => { y with st := .migrating }
        let s5 := s4.drawTarget lc t
        { s5 with migrations := s5.migrations ++ [⟨lc, some h, slotAt t.1 t.2.1, t.2.2.length, sl⟩] }
  | _, _ => s

/-- Source cores that have not failed go to the pool; the slot is empty (R231). -/
def State.freeSource (s : State) (h : Slot) : State :=
  let i := hostIsland h
  let k := slotPos h
  let ps := ((s.isl i.val).slots.get k).positions
  let own : List (Fin 4) := if k = 0 && ((s.isl i.val).cores.get 3).role == .ownSleeper && ps.length + 1 ≥ 3 then [3] else []
  let s1 := (ps ++ own).foldl (fun s c => s.modCore i c fun x =>
    if x.role == .failed then { x with lc := none, fromHeld := false } else x.idle .poolSleeper) s
  s1.modIsl i.val fun x => x.modSlot k fun _ => IslSlot.init

/-- The state record is written again into the next free slot of the source tile, for the targets to read it there; the
migration waits while none is free (R230). -/
def State.rewriteRecord (s : State) (lc : Lc) (m : Migration) : State :=
  match s.freeMigSlot (m.migSlice.val / 6) with
  | none => s
  | some sl =>
    let r := (s.slice m.migSlice.val).migRecord
    let s1 := s.modSlice m.migSlice.val fun y => { y with migSlot := none, migRecord := none, recordBad := false }
    let s2 := s1.modSlice sl.val fun y => { y with migSlot := some lc, migRecord := r }
    { s2 with migrations := s2.migrations.map fun y => if y.lc = lc then { y with migSlice := sl } else y }

/-- The target cores have read the record and start (R229). -/
def State.migrationComplete (s : State) (lc : Lc) : State :=
  match s.migrations.find? fun m => m.lc = lc with
  | none => s
  | some m =>
    let i := hostIsland m.target
    let k := slotPos m.target
    let x := s.isl i.val
    let cs := (List.finRange 4).filter fun c => (x.cores.get c).target && (x.cores.get c).lc = some lc
    let width := match m.source with
      | some h => ((s.isl (hostIsland h).val).slots.get (slotPos h)).width
      | none => m.width
    if cs.length < m.width then
      -- a target failed its test: the others are given back and the migration waits for another target
      let s1 := cs.foldl (fun s c => s.modCore i c unDraw) s
      let s2 := s1.modSlice m.migSlice.val fun y => { y with migSlot := none, migRecord := none }
      { s2.requestMigration lc with migrations := s.migrations.filter fun y => y.lc ≠ lc }
    else if !(cs.all fun c => (x.cores.get c).phase == .wait) then s
    else if (s.slice m.migSlice.val).recordBad then s.rewriteRecord lc m
    else
      let s1 := match m.source with
        | some h => s.freeSource h
        | none => s
      let s2 := cs.foldl (fun s c => s.modCore i c fun y =>
        { y with role := if m.width = 1 then .simplex else .replica, target := false, phase := .none, odd := false
                 gated := false, slot := k, lc := some lc }) s1
      let s3 := s2.modIsl i.val fun y =>
        let y1 := y.modSlot k fun _ => ⟨some lc, width, .full, cs⟩
        if m.width = 3 && (y1.cores.get 3).pool then y1.modCore 3 fun z => { z with role := .ownSleeper } else y1
      let s4 := s3.modLc lc.val fun c =>
        { c.clearResv with
          host := some m.target, contention := [], tlb := []
          stops := { c.stops with migrating := false, hard := false, lost := false } }
      let s5 := ((s4.giveBanks lc).modSlice m.migSlice.val fun y => { y with migSlot := none, migRecord := none }).refreshSlot i k
      let s6 := { s5 with migrations := s5.migrations.filter fun y => y.lc ≠ lc }
      s6.slotEvent i k evMigrated clsNote lc.val 0

/-! ### Voter copies (R234, R235) -/

/-- Two voter copies out of service: every logical core of the island is lost (R235). -/
def State.islandLost (s : State) (i : Island) : State :=
  let lcs := (List.finRange 4).filterMap fun k => ((s.isl i.val).slots.get k).lc
  let polder := lcs.any fun l => pswPolder (s.lc l.val).psw
  let s1 := lcs.foldl (fun s l => s.loseLc l) s
  s1.grpEvent i (gateSrc i.val) evGroupLost (if polder then clsGrave else clsSevere) ((lcs.map Fin.val).headD 0) 0 0 0

def voters (v : BitVec 3) : Nat := (v.getLsbD 0).toNat + (v.getLsbD 1).toNat + (v.getLsbD 2).toNat

def State.voterFail (s : State) (i : Island) (k : Fin 3) : State :=
  let x := s.isl i.val
  if !x.voterOk.getLsbD k.val then s
  else
    let ok := x.voterOk &&& ~~~(1#3 <<< k.val)
    let s1 := ((s.modIsl i.val fun y => { y with voterOk := ok }).bump (.grpCount i) 47 40 1).grpEvent i (voterSrc i.val k.val)
      evVoterSelf clsCorrected 0 0 0 0
    if voters ok ≤ 1 then s1.islandLost i else s1

/-- A voter copy that its count promotes stays out until the next COMPOSE (R234). -/
def State.voterOut (s : State) (i : Island) (k : Fin 3) : State :=
  let x := s.isl i.val
  let ok := x.voterOk &&& ~~~(1#3 <<< k.val)
  let s1 := s.modIsl i.val fun y => { y with voterDead := bvPut y.voterDead k.val true, voterOk := ok }
  if x.voterOk.getLsbD k.val && voters ok ≤ 1 then s1.islandLost i else s1

/-! ### Stops at synchronisation points (R207, R236, R237) -/

/-- A reset of the core waits for Polder: its gate entry is open and no consent has come (R494). -/
def State.resetWaits (s : State) (l : LCore) : Bool :=
  l.reqs.reset && l.gw.gatestat.msb && !(s.prst (pswParcel l.psw)).consented

/-- An event that precedes a debug halt at one synchronisation point waits for the core: a rejoin, a bank swap or a
migration (R207). -/
def State.beforeHalt (s : State) (lc : Lc) (h : Slot) (c : LCore) : Bool :=
  s.rejoinDue h c || s.swapDue c || s.migrateDue lc h

/-- The stop requests delivered to the core take effect, after every event that precedes a stop at the same point (R207);
a reset's does not while it waits for Polder or for a resynchronisation (R223, R494). -/
def State.groupStop (s : State) (lc : Lc) : State :=
  let c0 := s.lc lc.val
  match c0.host with
  | none => s
  | some h =>
    let waits := s.resetWaits c0 || (c0.reqs.reset && s.resyncing h c0)
    let c := if waits then { c0 with reqs := { c0.reqs with reset := false } } else c0
    if !c.atPoint || !s.canQuiet h lc || !(c.reqs.quiesce || c.reqs.clockCut || c.reqs.reset) || s.beforeHalt lc h c ||
        c.reqs.debug then s
    else
      let s1 := s.quietStop h lc
      s1.modLc lc.val fun l =>
        { l with
          stops := { l.stops with quiesce := l.stops.quiesce || l.reqs.quiesce, clockCut := l.stops.clockCut || l.reqs.clockCut
                                  reset := l.stops.reset || c.reqs.reset }
          reqs := { l.reqs with quiesce := false, clockCut := false, reset := waits } }

/-- SPLIT: the lead runs alone, the others are held (R236). -/
def State.debugHalt (s : State) (lc : Lc) : State :=
  let c := s.lc lc.val
  match c.host with
  | none => s
  | some h =>
    if !c.reqs.debug || !c.atPoint || !s.canQuiet h lc || c.stops.lost || c.stops.migrating || !s.runOrQuiesce || s.beforeHalt lc h c then s
    else
      let i := hostIsland h
      let k := slotPos h
      let x := s.isl i.val
      let lead := x.lead k
      let s1 := s.quietStop h lc
      let s2 := (x.slots.get k).positions.foldl (fun s d => s.modCore i d fun y =>
        if y.role == .failed then y
        else if d = lead then { y with role := .simplex, phase := .none }
        else { y with role := .held, gated := true, phase := .none, odd := false, fromHeld := true }) s1
      let s3 := s2.modIsl i.val fun y => y.modSlot k fun z => { z with st := if z.st == .stopped then .stopped else .split }
      let s4 := s3.modLc lc.val fun l =>
        { l with stops := { l.stops with debug := true }, reqs := { l.reqs with debug := false } }
      s4.grpEvent i (coreSrc (4 * i.val + lead.val)) evLockstepSplit clsNote lc.val lead.val k.val c.pc.toNat

/-- The debugger releases the halt: held replicas are resynchronised from WAKE, where the lead replica still serves as their
source (R237). -/
def State.debugResume (s : State) (lc : Lc) : State :=
  let c := s.lc lc.val
  match c.host with
  | none => s
  | some h =>
    if !c.stops.debug then
      s.modLc lc.val fun l => { l with reqs := { l.reqs with debug := false }, heldHalt := false }
    else
      let i := hostIsland h
      let k := slotPos h
      let s1 := s.modLc lc.val fun l => { l with stops := { l.stops with debug := false } }
      let s2 := s1.modIsl i.val fun y => y.modSlot k fun z => { z with st := if z.st == .split then .full else z.st }
      let lead := decide (0 < (s.isl i.val).healthy k)
      let s3 := ((s.isl i.val).slots.get k).positions.foldl (fun s d =>
        if ((s.isl i.val).cores.get d).role == .held && lead then s.startResync i d .wake else s) s2
      s3.settleSlot i k

/-- The debug unlock ends: every breakpoint is cleared and every halted logical core is resumed (R546). -/
def State.debugEnd (s : State) : State :=
  let s1 := allLc.foldl (fun s l =>
    let c := s.lc l.val
    if c.stops.debug || c.reqs.debug || c.heldHalt then s.debugResume l else s) s
  let s2 := { s1 with lcs := s1.lcs.map fun (e : Nat × LCore) => (e.1, { e.2 with breakpoints := [] }) }
  (s2.setFld .dbgStatus 63 63 0).setFld .dbgStatus 48 32 0

/-! ### GRP_CTL (R239) -/

/-- A GRP_CTL command `cmd` on core `c` of an island. -/
def State.grpCtlW (s : State) (m : Master) (i : Island) (c : Fin 4) (cmd : Nat) : State :=
  s.csPriv m (CsReg.grpCtl i).addr fun s =>
    let x := s.isl i.val
    let k := (x.cores.get c).slot
    let st := (x.slots.get k).st
    let done (s : State) : State := s.setFld (.grpStatus i) 55 52 0
    if !s.mode.running then s.setFld (.grpStatus i) 55 52 2
    else if (x.cores.get c).lc.isSome && (st == .resync || st == .migrating) then s.setFld (.grpStatus i) 55 52 1
    else if cmd = 1 && (x.cores.get c).role == .replica && x.healthy k = 3 then done (s.markOdd i c 0 false)
    else if cmd = 2 && (x.cores.get c).role == .replica then done (s.modCore i c fun y => { y with upsets := .signature 1 :: y.upsets })
    else if cmd = 3 && (x.cores.get c).role == .replica then
      if (x.slots.get k).width = 3 then done (s.replaceCore i c) else done (s.pairTest i k)
    else if cmd = 3 && (x.cores.get c).role == .simplex then done (s.simplexHard i c 0)
    else s.setFld (.grpStatus i) 55 52 3

end Sys2Proof.Machine
end

