-- ==== Sys2Proof/Machine/Link.lean ====
section
/-! DEFINITION. Frames, the CRC-64 of R211, and the sending side of a Lyvan link (R414, R416). -/

namespace Sys2Proof.Machine

/-! ### CRC-64 of ECMA-182: polynomial 0x42F0_E1EB_A9EA_3693, initial value 0, no reflection (R211) -/

def crcPoly : Word := 0x42F0E1EBA9EA3693

def crcBit (c : Word) (b : Bool) : Word := if c.msb != b then (c <<< 1) ^^^ crcPoly else c <<< 1

def crcByte (c : Word) (x : Byte) : Word :=
  [7, 6, 5, 4, 3, 2, 1, 0].foldl (fun c i => crcBit c (x.getLsbD i)) c

def crc64 (bs : List Byte) : Word := bs.foldl crcByte 0

/-! ### Frames (R414) -/

def fOrder : Byte := 0x01
def fData : Byte := 0x02
def fEnd : Byte := 0x03
def fEstablish : Byte := 0x04
def fEstablished : Byte := 0x05
def fReject : Byte := 0x06
def fAck : Byte := 0x10
def fNak : Byte := 0x11
def fIdent : Byte := 0x12

def frameReplay (f : Frame) : Bool := f.flags.getLsbD 0
def frameAbort (f : Frame) : Bool := f.flags.getLsbD 1

/-- The header's 40 B as sent (Table 14.8). -/
def frameHeader (f : Frame) : List Byte :=
  [f.type, f.flags] ++ leBytes 2 f.lseq.toNat ++ leBytes 2 f.ackSeq.toNat ++ leBytes 2 f.rxWin.toNat ++
    leBytes 4 f.subch.toNat ++ leBytes 2 f.devAddr.toNat ++ leBytes 2 f.payload.length ++ leBytes 4 f.claim.toNat ++
    leBytes 4 f.rsvd.toNat ++ leBytes 8 f.tag.toNat ++ leBytes 8 f.param.toNat

/-- The module advertises RXWIN 256 (R416). -/
def moduleWin : BitVec 16 := 256

/-- A frame about to be sent: link fields are filled in at sending. -/
def mkFrame (type flags : Byte) (subch : Nat) (dev : Nat) (claim : BitVec 32) (tag param : Word) (pl : List Byte) :
    Frame :=
  ⟨type, flags, 0, 0, moduleWin, BitVec.ofNat 32 subch, BitVec.ofNat 16 dev, claim, 0, tag, param, pl⟩

/-! ### Sending (R416, R417) -/

/-- Send waiting frames while the peer's window allows: number them and keep them for replay. -/
def PortSt.pump : Nat → PortSt → PortSt
  | 0, x => x
  | k + 1, x =>
    match x.txWait with
    | [] => x
    | f :: rest =>
      if (x.txNext - x.txAcked).toNat < x.peerRxWin.toNat then
        let g := { f with lseq := x.txNext, ackSeq := x.rxNext, rxWin := moduleWin }
        PortSt.pump k
          { x with txWait := rest, unacked := x.unacked ++ [(g, 1)], out := x.out ++ [g], txNext := x.txNext + 1
                   ackOwed := false }
      else x

def State.pump (s : State) (p : Port) : State := s.modPort p.val fun x => x.pump x.txWait.length

/-- Hand sequenced frames to the link of an ACTIVE port. -/
def State.sendSeq (s : State) (p : Port) (fs : List Frame) : State :=
  if (s.port p.val).st == .active then
    (s.modPort p.val fun x => { x with txWait := x.txWait ++ fs }).pump p
  else s

/-- Send a control frame: neither sequenced nor replayed. -/
def State.sendCtl (s : State) (p : Port) (type : Byte) (param : Word) (pl : List Byte) : State :=
  s.modPort p.val fun x =>
    { x with out := x.out ++ [{ mkFrame type 0 0 0 0 0 param pl with ackSeq := x.rxNext }], ackOwed := false }

/-- Every acknowledged frame leaves the replay buffer. -/
def PortSt.acked (x : PortSt) (a : BitVec 16) : PortSt :=
  let n := (a - x.txAcked).toNat
  if n ≤ x.unacked.length then { x with txAcked := a, unacked := x.unacked.drop n } else x

/-- Discard all link-layer state (R413). -/
def PortSt.linkReset (x : PortSt) : PortSt :=
  { x with rxNext := 0, txNext := 0, txAcked := 0, unacked := [], txWait := [], nakAt := none, ackOwed := false
           peerRxWin := 0, twidth := 0, rate := 0, flit := false, reversed := false }

end Sys2Proof.Machine
end

