-- ==== Sys2Proof/Machine/Queues.lean ====
section
/-! DEFINITION. Hardware queues and queue DMA channels (chapter 12): words, packets, the two disciplines, the rewind
mark, spilling, and the commands of a queue's page. -/

namespace Sys2Proof.Machine

open Host (Outcome)

/-! ### One queue -/

def QSt.occ (q : QSt) : Nat := q.retained.length + q.words.length

/-- Tag bits of Table 12.1. -/
def tagV : Byte := 0x80
def tagPkt : Byte := 0x40
def tagHdr : Byte := 0x20
def tagPoison : Byte := 0x10

def QWord.pkt (w : QWord) : Bool := w.tag.getLsbD 6
def QWord.hdr (w : QWord) : Bool := w.tag.getLsbD 5
def QWord.isPoison (w : QWord) : Bool := w.tag.getLsbD 4

/-- A POISON word: V and POISON, everything else 0 (R332). -/
def poisonWord : QWord := ⟨0, tagV ||| tagPoison, false⟩

/-- Tile and tile index of a queue (R11). -/
def qTile (q : Qn) : Nat := q.val / 8192
def qIndex (q : Qn) : Nat := q.val % 8192
def qmSrc (q : Qn) : Nat := srcId (5 + qTile q) 0x14 0

def State.qEnabled (s : State) (q : Qn) : Bool := s.fld (.qmQcfg q) 63 63 = 1
def State.qOvertop (s : State) (q : Qn) : Bool := s.fld (.qmQcfg q) 62 62 = 1
def State.qCap (s : State) (q : Qn) : Nat := 2 ^ s.fld (.qmQcfg q) 60 56
def State.qFull (s : State) (q : Qn) : Bool := s.qCap q ≤ (s.queue q.val).occ
/-- Set bit `b` of QM_QEVT. -/
def State.qEvent (s : State) (q : Qn) (b : Nat) : State := s.setFld (.qmQevt q) b b 1

/-- Index of the open packet's slot among the unread words: it and its words are the newest. -/
def QSt.slotAt (q : QSt) (n : Nat) : Nat := q.words.length - 1 - n

/-- Write the length slot of the open packet and close it; a POISON slot keeps data 0 (R332, R345). -/
def QSt.closePacket (q : QSt) (abort : Bool) : QSt :=
  match q.opener with
  | none => q
  | some (_, n) =>
    let v : Word := BitVec.ofNat 64 (n % 2 ^ 24 + if abort then 2 ^ 63 else 0)
    { q with words := q.words.modify (q.slotAt n) fun w => if w.isPoison then w else { w with data := v }, opener := none }

/-- The oldest unread item is the open packet. -/
def QSt.openOldest (q : QSt) : Bool :=
  match q.opener with
  | some (_, n) => q.words.length = n + 1
  | none => false

/-- Words of the oldest unread item: one word outside packets, else the packet's unread words (R341). -/
def QSt.oldestItem (q : QSt) : Nat :=
  match q.words with
  | [] => 0
  | w :: t => if w.pkt then 1 + (t.takeWhile fun x => x.pkt && !x.hdr).length else 1

/-- Make room in an OVERTOP queue (R341): release the retained words, else discard the oldest unread item, until the
occupancy is below `cap`.  Answers the queue, the words discarded unread, and whether the mark was lost. -/
def QSt.makeRoom (cap : Nat) : Nat → QSt → QSt × Nat × Bool
  | 0, q => (q, 0, false)
  | f + 1, q =>
    if q.occ < cap then (q, 0, false)
    else if q.retained ≠ [] then
      let r := QSt.makeRoom cap f { q with retained := [], pos := q.pos + q.retained.length, mark := false, markLost := true }
      (r.1, r.2.1, true)
    else
      let n := q.oldestItem
      let q1 := { q with words := q.words.drop n, pos := q.pos + n, mark := false, markLost := q.markLost || q.mark }
      let q2 := if q.openOldest then
          { q1 with opener := none, aborted := (q.opener.map (·.1)).toList ++ q.aborted }
        else q1
      let r := QSt.makeRoom cap f q2
      (r.1, n + r.2.1, q.mark || r.2.2)

/-- Make room in queue `q`, with its counts and events (R341, R348, R353). -/
def State.qMakeRoom (s : State) (q : Qn) : State :=
  let x := s.queue q.val
  let r := x.makeRoom (s.qCap q) (x.occ + 2)
  let s1 := s.setQueue q.val r.1
  let s2 := if r.2.1 = 0 then s1 else (s1.bump (.qmQlost q) 31 0 r.2.1).qEvent q 2
  let s3 := if r.2.2 then s2.qEvent q 3 else s2
  if x.opener.isSome && r.1.opener.isNone then s3.qEvent q 5 else s3

/-- The freeboard threshold (R355). -/
def State.qThreshold (s : State) (q : Qn) : Nat :=
  let fb := s.fld (.qmQfb q) 23 0
  if s.qCap q ≤ fb then 1 else s.qCap q - fb

/-- A message of class QUEUE (Table 17.2). -/
def State.qRaise (s : State) (q : Qn) (event : Nat) : State :=
  s.raiseOwned (5 + qTile q) 0x02 q.val event (s.queueOwner q)

/-- Append one word, with the arrival and freeboard messages it causes (R355). -/
def State.qAppend (s : State) (q : Qn) (w : QWord) : State :=
  let x := s.queue q.val
  let s1 := s.setQueue q.val { x with words := x.words ++ [w] }
  let s2 := if x.words.isEmpty && s.fld (.qmQcfg q) 61 61 = 1 && s.fld (.qmQevt q) 0 0 = 0 then
      (s1.qEvent q 0).qRaise q 0 else s1
  let th := s.qThreshold q
  if x.occ < th && th ≤ x.occ + 1 && s.fld (.qmQfb q) 23 0 ≠ 0 && s.fld (.qmQevt q) 1 1 = 0 then
    (s2.qEvent q 1).qRaise q 1
  else s2

/-- Words discarded after an abort (R348). -/
def State.qDrop (s : State) (q : Qn) : State := s.bump (.qmQlost q) 63 32 1

/-! ### The spill region (R333, R337, R338) -/

/-- Addresses of the data and the tag of position `p`. -/
def State.qSpillData (s : State) (q : Qn) (p : Nat) : Nat := s.fld (.qmQcfg q) 51 12 * 4096 + 8 * (p % s.qCap q)
def State.qSpillTag (s : State) (q : Qn) (p : Nat) : Nat :=
  s.fld (.qmQcfg q) 51 12 * 4096 + 8 * s.qCap q + p % s.qCap q

/-- A correctable error of a queue word (R354). -/
def State.qCorrected (s : State) (q : Qn) : State :=
  ((s.bump (.qmQstat q) 7 0 1).bump (.qmMstat ⟨qTile q, by unfold qTile; omega⟩) 63 32 1).report (qmSrc q) 0x40
    clsCorrected q.val

/-- An uncorrectable error of a queue word: its fault (R354). -/
def State.qUncorrectable (s : State) (q : Qn) : State := s.report (qmSrc q) 0x41 clsContained q.val

/-- Write one word to the spill region. -/
def State.qSpillOut (s : State) (q : Qn) (p : Nat) (w : QWord) : State :=
  (s.invWriteBytes .keeper (s.qSpillData q p) (leBytes 8 w.data.toNat)).invWriteBytes .keeper (s.qSpillTag q p) [w.tag]

/-- Read one word back: the word, and whether it came back poisoned. -/
def State.qSpillIn (s : State) (q : Qn) (p : Nat) : QWord × Bool :=
  match s.peek (s.qSpillData q p) 8, s.peek (s.qSpillTag q p) 1 with
  | some (d, dp), some (t, tp) =>
    if dp || tp then (poisonWord, true) else (⟨BitVec.ofNat 64 (leNat d), t.headD 0, false⟩, false)
  | _, _ => (poisonWord, true)

/-- Bring the unread word at index `i` back to the head window. -/
def State.qRefill (s : State) (q : Qn) (i : Nat) : State :=
  let x := s.queue q.val
  match x.words[i]? with
  | some w =>
    if w.spilled then
      let r := s.qSpillIn q (x.pos + x.retained.length + i)
      let s1 := s.setQueue q.val { x with words := x.words.set i r.1 }
      if r.2 then s1.qUncorrectable q else s1
    else s
  | none => s

/-! ### Producer writes (R339 to R348) -/

/-- Close the open packet wherever its slot is held: where a word is held changes no result (R333, R345). -/
def State.qClose (s : State) (q : Qn) (abort : Bool) : State :=
  match (s.queue q.val).opener with
  | none => s
  | some (_, n) =>
    (s.qRefill q ((s.queue q.val).slotAt n)).modQueue q.val fun x => x.closePacket abort

/-- Perform a QM_ENQ now. -/
def State.qPerformEnq (s : State) (q : Qn) (m : Master) (user : BitVec 4) (data : Word) (poison : Bool) : State :=
  let x := s.queue q.val
  if x.aborted.contains m then s.qDrop q
  else
    let mine : Bool := match x.opener with | some (o, _) => o == m | none => false
    if s.qFull q && !s.qOvertop q then
      -- an opener's word that finds a HOLD queue full with its slot the oldest word (case 3 of R348)
      (((s.qClose q true).modQueue q.val fun y => { y with aborted := m :: y.aborted }).qEvent q 5).qDrop q
    else
      let s1 := if s.qFull q then s.qMakeRoom q else s
      let still : Bool := match (s1.queue q.val).opener with | some (o, _) => o == m | none => false
      if mine && !still then s1.qDrop q
      else
        let w : QWord := if poison then poisonWord
          else ⟨data, tagV ||| (if mine then tagPkt else 0) ||| user.setWidth 8, false⟩
        let s2 := s1.qAppend q w
        if mine then s2.modQueue q.val fun y => { y with opener := y.opener.map fun (o : Master × Nat) => (o.1, o.2 + 1) }
        else s2

/-- Perform a QM_OPEN now; the master has no open packet, and its discarding ends (R348). -/
def State.qPerformOpen (s : State) (q : Qn) (m : Master) (user : BitVec 4) : State :=
  let s1 := if s.qFull q then s.qMakeRoom q else s
  let s2 := s1.qAppend q ⟨0, tagV ||| tagPkt ||| tagHdr ||| user.setWidth 8, false⟩
  s2.modQueue q.val fun y => { y with opener := some (m, 0), aborted := y.aborted.filter (· ≠ m) }

/-- Perform a QM_CLOSE. -/
def State.qPerformClose (s : State) (q : Qn) (m : Master) : State :=
  let x := s.queue q.val
  let mine : Bool := match x.opener with | some (o, _) => o == m | none => false
  if mine then s.qClose q false
  else if x.aborted.contains m then s.setQueue q.val { x with aborted := x.aborted.filter (· ≠ m) }
  else s.qEvent q 4

def State.qPerform (s : State) (q : Qn) (w : HeldWrite) : State :=
  match w.kind with
  | .enq u => s.qPerformEnq q w.m u w.data w.poison
  | .open => s.qPerformOpen q w.m (w.data.setWidth 4)
  | .close => s.qPerformClose q w.m

/-- The write must wait: another master's open packet (R346), a full HOLD queue (R340), or held writes that came
before it; `first` when it is itself the oldest held write. -/
def State.qBlocked (s : State) (q : Qn) (w : HeldWrite) (first : Bool) : Bool :=
  let x := s.queue q.val
  let full := s.qFull q && !s.qOvertop q
  match w.kind with
  | .close => false
  | .enq _ =>
    if x.aborted.contains w.m then false
    else
      match x.opener with
      | some (o, _) => if o = w.m then full && !(x.openOldest && x.retained.isEmpty) else true
      | none => full || (!first && !x.held.isEmpty)
  | .open =>
    match x.opener with
    | some _ => true
    | none => full || (!first && !x.held.isEmpty)

/-- A QM_OPEN closes its master's open packet at once: the close is never held (R346). -/
def State.qOpenCloses (s : State) (q : Qn) (w : HeldWrite) : State :=
  let mine : Bool := match (s.queue q.val).opener with | some (o, _) => o == w.m | none => false
  if w.kind == .open && mine then s.qClose q false else s

/-- A producer write arrives (R339, R340, R346): in QUIESCE, or while it must wait, it is held. -/
def State.qArrive (s : State) (q : Qn) (w : HeldWrite) : State :=
  if !s.qEnabled q then s.respond w.m .error
  else
    let hold (s : State) : State :=
      (s.modQueue q.val fun x => { x with held := x.held ++ [w] }).respond w.m .held
    if s.mode == .quiesce then hold s
    else
      let s1 := s.qOpenCloses q w
      if s1.qBlocked q w false then hold s1 else (s1.qPerform q w).respond w.m .ok

/-- The firewall's check of an access to a queue's page (R335). -/
def State.qAccess (s : State) (m : Master) (q : Qn) (pa need : Nat) (k : State → State) : State :=
  s.csAccess m pa need (s.holdsRes m 7 q.val) k

/-- QM_ENQ (R339 to R341). -/
def State.qmEnqW (s : State) (m : Master) (q : Qn) (u : Fin 16) (v : Word) : State :=
  s.qAccess m q (CsReg.qmEnq q u).addr needW fun s => s.qArrive q ⟨m, .enq (BitVec.ofNat 4 u.val), v, false⟩

/-- QM_OPEN (R345, R346). -/
def State.qmOpenW (s : State) (m : Master) (q : Qn) (v : Word) : State :=
  s.qAccess m q (CsReg.qmOpen q).addr needW fun s => s.qArrive q ⟨m, .open, v, false⟩

/-- QM_CLOSE (R345, R346, R348). -/
def State.qmCloseW (s : State) (m : Master) (q : Qn) : State :=
  s.qAccess m q (CsReg.qmClose q).addr needW fun s => s.qArrive q ⟨m, .close, 0, false⟩

/-! ### Discarding (R337, R349, R350) -/

/-- A response word of an accelerator context has been taken (`ok`) or answered with an error: the context goes on
(R436). -/
def State.ctxAnswered (s : State) (c : AccCtx) (ok : Bool) : State :=
  let x := s.ctx (ctxIdx c)
  let enabled : Bool := s.fld (.ctxcfg c) 63 63 = 1
  let s1 := if ok then s.bump (.ctxcount c) 63 32 1 else s
  s1.setCtx (ctxIdx c) { x with response := none, st := if x.st == .frozen then .frozen else if enabled then .idle else .disabled }

/-- Answer every held write of a list with an error response; a completion word is dropped and counted (R377). -/
def State.failHeld (s : State) (l : List HeldWrite) : State :=
  l.foldl (fun s w =>
    let s1 := s.respond w.m .error
    match w.m with
    | .acc c => s1.ctxAnswered c false
    | .writer _ =>
      (match fin? 262144 (w.data.toNat / 2 ^ 46) with
       | some n => s1.bump (.scCount n) 15 8 1
       | none => s1)
    | _ => s1) s

/-- Discard every word as FLUSH does: packets aborted, mark cleared without loss, QM_QFLUSHED written. -/
def State.qDiscard (s : State) (q : Qn) : State :=
  let x := s.queue q.val
  let s1 := s.setQueue q.val
    { x with retained := [], words := [], mark := false, markLost := false, opener := none, pos := x.pos + x.occ
             aborted := (x.opener.map (·.1)).toList ++ x.aborted }
  let s2 := s1.setFld (.qmQflushed q) 24 0 x.occ
  if x.opener.isSome then s2.qEvent q 5 else s2

/-- A queue DMA channel stops with STOPPED (R350, R356). -/
def State.qdmaStop (s : State) (c : Qdma) : State :=
  if (s.dma c.val).busy then
    ((s.dropMaster (.qdma c)).modDma c.val fun x => { x with busy := false, queue := none }).setFld (.qmDmastat c) 62 60 3
  else s

/-- The queue reset (R350). -/
def State.qReset (s : State) (q : Qn) : State :=
  let held := (s.queue q.val).held
  let s1 := ((s.setQueue q.val QSt.init).failHeld held)
  let s2 := (List.finRange 64).foldl
    (fun s c => if (s.dma c.val).busy && (s.dma c.val).queue = some q then s.qdmaStop c else s) s1
  [CsReg.qmQcfg q, .qmQstat q, .qmQevt q, .qmQlost q, .qmQflushed q, .qmQfb q].foldl
    (fun s r => s.setReg r r.resetValue) s2

/-- The spill region of an enabling write lies inside the SPILLWAY grant of the queue's owner (R337). -/
def State.qSpillOk (s : State) (q : Qn) (v : Word) : Bool :=
  let cap := bits v 60 56
  let start := bits v 51 12 * 4096
  let len := (9 * 2 ^ cap + 4095) / 4096 * 4096
  match s.queueOwner q with
  | none => false
  | some o =>
    match s.spillway o with
    | none => false
    | some g => g.first.toNat ≤ start && start + len ≤ g.last.toNat + 1

/-- QM_QCFG (R337). -/
def State.qmQcfgW (s : State) (m : Master) (q : Qn) (v : Word) : State :=
  s.qAccess m q (CsReg.qmQcfg q).addr needW fun s =>
    let s := s.respond m .ok
    let r := CsReg.qmQcfg q
    if s.qEnabled q then
      let s1 := s.setFld r 61 61 (bits v 61 61)
      if v.getLsbD 63 then s1
      else
        let held := (s1.queue q.val).held
        let s2 := ((s1.setFld r 63 63 0).qDiscard q).failHeld held
        s2.modQueue q.val fun x => { x with held := [] }
    else if !v.getLsbD 63 then s.setReg r (softWrite r (s.reg r) v)
    else
      let cap := bits v 60 56
      if 4 ≤ cap && cap ≤ 24 && (cap = 4 || s.qSpillOk q v) then
        let s1 := (s.setReg r (softWrite r (s.reg r) v)).setFld (.qmQstat q) 9 9 0
        s1.modQueue q.val fun x => { QSt.init with aborted := x.aborted }
      else s.setFld (.qmQstat q) 9 9 1

/-- QM_QCTL with FLUSH (R349). -/
def State.qmFlushW (s : State) (m : Master) (q : Qn) : State :=
  s.qAccess m q (CsReg.qmQctl q).addr needW fun s =>
    let s := s.respond m .ok
    if s.qEnabled q then s.qDiscard q else s

/-- QM_QCTL with RESET (R350). -/
def State.qmResetW (s : State) (m : Master) (q : Qn) : State :=
  s.qAccess m q (CsReg.qmQctl q).addr needW fun s => (s.respond m .ok).qReset q

/-! ### The rewind mark (R351 to R353) -/

/-- QM_MARK with CLEAR 0: retained words before the new position are released. -/
def QSt.setMark (q : QSt) : QSt :=
  { q with retained := [], pos := q.pos + q.retained.length, mark := true, markLost := false }

/-- QM_MARK with CLEAR 1. -/
def QSt.clearMark (q : QSt) : QSt :=
  { q with retained := [], pos := q.pos + q.retained.length, mark := false, markLost := false }

def State.qmMarkW (s : State) (m : Master) (q : Qn) (clear : Bool) : State :=
  s.qAccess m q (CsReg.qmMark q).addr needW fun s =>
    let s := s.respond m .ok
    if s.qEnabled q then s.modQueue q.val fun x => if clear then x.clearMark else x.setMark else s

/-! ### Reading and moving words (R333, R354) -/

/-- An error met in reading the unread word at index `i` from the head-tail store (R354). -/
def State.qReadCheck (s : State) (q : Qn) (i : Nat) (ev : QwordEvent) : State :=
  match ev with
  | .ok => s
  | .corrected => s.qCorrected q
  | .uncorrectable =>
    (s.modQueue q.val fun x => { x with words := x.words.set i poisonWord }).qUncorrectable q

/-- Move a block of 8 words between the windows and the spill region (R333): out, the oldest 8 words between the two
windows; in, the oldest 8 spilled words. -/
def State.qBlockMove (s : State) (q : Qn) (toSpill : Bool) (ev : QwordEvent) : State :=
  let x := s.queue q.val
  let n := x.words.length
  let idx := (List.range n).filter fun i =>
    match x.words[i]? with
    | some w => if toSpill then 8 ≤ i && i + 8 < n && !w.spilled else w.spilled
    | none => false
  let blk := idx.take 8
  if !s.qEnabled q || s.fld (.qmQcfg q) 60 56 < 5 || blk.length < (if toSpill then 8 else 1) then s
  else if toSpill then
    let s1 := s.qReadCheck q (blk.headD 0) ev
    blk.foldl (fun s i =>
      let y := s.queue q.val
      match y.words[i]? with
      | some w =>
        let s2 := s.qSpillOut q (y.pos + y.retained.length + i) w
        s2.setQueue q.val { y with words := y.words.set i { w with spilled := true } }
      | none => s) s1
  else blk.foldl (fun s i => s.qRefill q i) s

/-! ### Dequeue (R342, R343, R347, R352) -/

/-- Set the reading master's tag latch. -/
def State.latchTag (s : State) (m : Master) (q : Qn) (tag : Byte) : State :=
  let t : It := ⟨qTile q, by unfold qTile; omega⟩
  { s with tags := ⟨t, m, BitVec.ofNat 13 (qIndex q), tag⟩ :: s.tags.filter fun x => !(x.tile = t && x.m = m) }

/-- Answer a read with data and tag. -/
def State.qAnswer (s : State) (m : Master) (q : Qn) (d : Word) (tag : Byte) : State :=
  (s.latchTag m q tag).respond m (.data d)

/-- The oldest unread word is delivered and consumed; a poisoned one sets its events (R354). -/
def State.qTake (s : State) (q : Qn) (ev : QwordEvent) : State × QWord :=
  let s1 := (s.qRefill q 0).qReadCheck q 0 ev
  let x := s1.queue q.val
  match x.words with
  | [] => (s1, poisonWord)
  | w :: t =>
    let x1 := if x.mark then { x with words := t, retained := x.retained ++ [w] }
      else { x with words := t, pos := x.pos + 1 }
    let s2 := s1.setQueue q.val x1
    if w.isPoison then
      ((s2.qEvent q 6).bump (.qmMstat ⟨qTile q, by unfold qTile; omega⟩) 31 16 1, w)
    else (s2, w)

/-- Why a dequeue delivers no word now, as the reason word (Table 12.3). -/
def QSt.emptyReason (q : QSt) : Option Nat :=
  if q.words.isEmpty then some 1
  else if q.openOldest then some (2 + 256 * (q.opener.elim 0 (·.2)))
  else none

/-- QM_DEQ. -/
def State.qDeq (s : State) (m : Master) (q : Qn) (ev : QwordEvent) : State :=
  if !s.qEnabled q then s.qAnswer m q 6 0
  else if s.mode == .quiesce then s.qAnswer m q 5 0
  else
    match (s.queue q.val).emptyReason with
    | some r => s.qAnswer m q (BitVec.ofNat 64 r) 0
    | none =>
      let r := s.qTake q ev
      r.1.qAnswer m q r.2.data r.2.tag

/-- QM_REWIND. -/
def State.qRewind (s : State) (m : Master) (q : Qn) (ev : QwordEvent) : State :=
  let x := s.queue q.val
  if !s.qEnabled q then s.qAnswer m q 6 0
  else if s.mode == .quiesce then s.qAnswer m q 5 0
  else if x.markLost then (s.setQueue q.val { x with markLost := false }).qAnswer m q 3 0
  else if !x.mark then s.qAnswer m q 4 0
  else (s.setQueue q.val { x with words := x.retained ++ x.words, retained := [] }).qDeq m q ev

def State.qmDeqR (s : State) (m : Master) (q : Qn) (ev : QwordEvent) : State :=
  s.qAccess m q (CsReg.qmDeq q).addr needR fun s => s.qDeq m q ev
def State.qmRewindR (s : State) (m : Master) (q : Qn) (ev : QwordEvent) : State :=
  s.qAccess m q (CsReg.qmRewind q).addr needR fun s => s.qRewind m q ev

/-! ### Queue DMA channels (R356) -/

/-- A message of class QDMA. -/
def State.qdmaRaise (s : State) (c : Qdma) (q : Qn) : State :=
  let o := ownerFin (s.queueOwner q)
  s.raiseIrq (5 + c.val / 16) ⟨0x03, BitVec.ofNat 18 c.val, 0, s.qdmaPolder c, o, none⟩

/-- One record is done; after the last the channel finishes with DONE and raises its message. -/
def State.qdmaAdvance (s : State) (c : Qdma) : State :=
  let x := s.dma c.val
  let s1 := (s.setDma c.val { x with addr := x.addr + 16, left := x.left - 1 }).bump (.qmDmastat c) 23 0 1
  if x.left ≤ 1 then
    let s2 := (s1.modDma c.val fun y => { y with busy := false }).setFld (.qmDmastat c) 62 60 0
    match x.queue with
    | some q => s2.qdmaRaise c q
    | none => s2
  else s1

/-- QM_DMACTL. -/
def State.qmDmactlW (s : State) (m : Master) (c : Qdma) (v : Word) : State :=
  s.csOpen m (CsReg.qmDmactl c).addr fun s =>
    let res (s : State) (r : Nat) : State := s.setFld (.qmDmastat c) 62 60 r
    let qn : Nat := c.val / 16 * 8192 + bits v 34 22
    match fin? 32768 qn with
    | none => s
    | some q =>
      let addr := s.fld (.qmDmaaddr c) 51 0
      let owner := s.queueOwner q
      let granted : Bool := m == .keeper || s.holdsRes m 7 q.val
      let polderQ : Bool := owner == some 16 || owner == none
      if !v.getLsbD 0 then s
      else if (s.dma c.val).busy then res s 1
      else if !s.qEnabled q || !granted || s.qdmaPolder c != polderQ || bits v 63 40 = 0 || addr % 16 ≠ 0 then res s 2
      else
        let x : QdmaSt := ⟨true, v.getLsbD 1, some q, addr, bits v 63 40, false⟩
        (s.setDma c.val x).setFld (.qmDmastat c) 23 0 0

/-- One record of a FILL: read 16 B, enqueue (R356).  An error response to the read counts as poison (log entry 17). -/
def State.qdmaFill (s : State) (c : Qdma) (q : Qn) : State :=
  let x := s.dma c.val
  if !s.fwPass (.qdma c) x.addr 16 needR then s.freezeMaster (.qdma c) x.addr
  else if !s.qEnabled q || ((s.queue q.val).held.any fun w => w.m = .qdma c) then s
  else
    let w : HeldWrite := match s.peek x.addr 16 with
      | some (bs, false) =>
        ⟨.qdma c, .enq ((bs.getD 8 0).setWidth 4), BitVec.ofNat 64 (leAt bs 0 8), false⟩
      | _ => ⟨.qdma c, .enq 0, 0, true⟩
    if s.qBlocked q w false then s.modQueue q.val fun y => { y with held := y.held ++ [w] }
    else (s.qPerform q w).qdmaAdvance c

/-- One record of a DRAIN: dequeue, write 16 B; it waits at an empty queue or an open packet. -/
def State.qdmaDrain (s : State) (c : Qdma) (q : Qn) : State :=
  let x := s.dma c.val
  if ((s.queue q.val).emptyReason).isSome || !s.qEnabled q then s
  else if !s.fwPass (.qdma c) x.addr 16 needW then s.freezeMaster (.qdma c) x.addr
  else
    let r := s.qTake q .ok
    let rec16 := leBytes 8 r.2.data.toNat ++ [r.2.tag] ++ List.replicate 7 (0 : Byte)
    (r.1.invWriteBytes (.qdma c) x.addr rec16).qdmaAdvance c

/-- What the channel's next record reads or writes in memory. -/
def State.qdmaReach (s : State) (c : Qdma) (q : Qn) : List Reach :=
  let x := s.dma c.val
  let due : Bool := s.qEnabled q && s.fwPass (.qdma c) x.addr 16 (if x.drain then needW else needR)
  if !due then []
  else if x.drain then (if ((s.queue q.val).emptyReason).isSome then [] else puts [(x.addr, 16)])
  else if (s.queue q.val).held.any fun w => w.m = .qdma c then []
  else peeks [(x.addr, 16)]

/-- The channel moves its next record: not while frozen, nor outside the running modes (R66, R356). -/
def State.qdmaStep (s : State) (c : Qdma) : State :=
  let x := s.dma c.val
  if !s.mastersStart || !x.busy || x.frozen then s
  else
    match x.queue with
    | none => s
    | some q => s.admitMaster (.qdma c) (s.qdmaReach c q) fun s => if x.drain then s.qdmaDrain c q else s.qdmaFill c q

/-- The oldest held write that nothing holds back: writes that wait for another master's packet let its opener's
writes pass, and a master's writes keep their order (R27, R340, R346). -/
def State.qNextHeld (s : State) (q : Qn) : Option Nat :=
  let l := (s.queue q.val).held
  (List.range l.length).find? fun i => match l[i]? with
    | some w => !s.qBlocked q w (i == 0) && !((l.take i).any fun v => v.m == w.m)
    | none => false

/-- The opener's oldest held write, when it is a QM_OPEN, closes the open packet (R346). -/
def State.qHeldCloses (s : State) (q : Qn) : State :=
  let x := s.queue q.val
  match x.opener with
  | some (o, _) =>
    match x.held.find? fun w => w.m == o with
    | some w => s.qOpenCloses q w
    | none => s
  | none => s

/-- The oldest held write that nothing holds back is accepted (R340, R346). -/
def State.qHeldAccept (s : State) (q : Qn) : State :=
  if s.mode == .quiesce || !s.qEnabled q then s
  else
    let s0 := s.qHeldCloses q
    match s0.qNextHeld q with
    | none => s0
    | some i =>
      match (s0.queue q.val).held[i]? with
      | none => s0
      | some w =>
        let s1 := ((s0.modQueue q.val fun x => { x with held := x.held.eraseIdx i }).qPerform q w).respond w.m .ok
        match w.m with
        | .qdma c => s1.qdmaAdvance c
        | .acc c => s1.ctxAnswered c true
        | _ => s1

/-- Queues on which a master has an open packet. -/
def State.openQueues (s : State) (m : Master) : List Nat :=
  (s.queues.filter fun e => match e.2.opener with | some (o, _) => o == m | none => false).map (·.1)

/-- Drop what the queues keep for a master besides its packet: its discarding and its held writes (R348). -/
def State.qForget (s : State) (m : Master) : State :=
  { s with queues := s.queues.map fun e =>
      (e.1, { e.2 with aborted := e.2.aborted.filter (· ≠ m), held := e.2.held.filter fun w => w.m ≠ m }) }

/-- A master that owns an open packet is returned to reset state: the packet is closed with ABORTED, its words kept,
and the master's later writes are ordinary (R348 case 4). -/
def State.qAbortMaster (s : State) (m : Master) : State :=
  ((s.openQueues m).foldl (fun s n => match fin? 32768 n with | some q => s.qClose q true | none => s) s).qForget m

/-- As above, with QM_QEVT.PKT_ABORT of each such queue (R348). -/
def State.abortPackets (s : State) (m : Master) : State :=
  (s.openQueues m).foldl (fun s n => match fin? 32768 n with | some q => s.qEvent q 5 | none => s) (s.qAbortMaster m)

/-! ### The commands -/

/-- QM_QCFG (R337). -/
def execQmQcfgWrite (m : Master) (q : Qn) (value : Word) (s : State) : Outcome State Fault Refusal :=
  .next (s.qmQcfgW m q value)
/-- QM_ENQ (R339). -/
def execQmEnq (m : Master) (q : Qn) (user : Fin 16) (value : Word) (s : State) : Outcome State Fault Refusal :=
  .next (s.qmEnqW m q user value)
/-- QM_OPEN (R345). -/
def execQmOpen (m : Master) (q : Qn) (value : Word) (s : State) : Outcome State Fault Refusal :=
  .next (s.qmOpenW m q value)
/-- QM_CLOSE (R345). -/
def execQmClose (m : Master) (q : Qn) (s : State) : Outcome State Fault Refusal := .next (s.qmCloseW m q)
/-- QM_DEQ (R342). -/
def execQmDeq (m : Master) (q : Qn) (ev : QwordEvent) (s : State) : Outcome State Fault Refusal :=
  .next (s.qmDeqR m q ev)
/-- QM_REWIND (R352). -/
def execQmRewind (m : Master) (q : Qn) (ev : QwordEvent) (s : State) : Outcome State Fault Refusal :=
  .next (s.qmRewindR m q ev)
/-- QM_MARK with CLEAR 0 (R351). -/
def execQmMarkSet (m : Master) (q : Qn) (s : State) : Outcome State Fault Refusal := .next (s.qmMarkW m q false)
/-- QM_MARK with CLEAR 1 (R351). -/
def execQmMarkClear (m : Master) (q : Qn) (s : State) : Outcome State Fault Refusal := .next (s.qmMarkW m q true)
/-- QM_QCTL FLUSH (R349). -/
def execQmFlush (m : Master) (q : Qn) (s : State) : Outcome State Fault Refusal := .next (s.qmFlushW m q)
/-- QM_QCTL RESET (R350). -/
def execQmReset (m : Master) (q : Qn) (s : State) : Outcome State Fault Refusal := .next (s.qmResetW m q)
/-- Room has appeared for the oldest held write (R340). -/
def execHeldWriteAccept (q : Qn) (s : State) : Outcome State Fault Refusal := .next (s.qHeldAccept q)
/-- The manager moves a block of words (R333). -/
def execSpillBlockMove (q : Qn) (toSpill : Bool) (ev : QwordEvent) (s : State) : Outcome State Fault Refusal :=
  .next (s.qBlockMove q toSpill ev)
/-- QM_DMACTL (R356). -/
def execQmDmaStart (m : Master) (c : Qdma) (value : Word) (s : State) : Outcome State Fault Refusal :=
  .next (s.qmDmactlW m c value)
/-- The channel moves a record (R356). -/
def execQdmaRecord (c : Qdma) (s : State) : Outcome State Fault Refusal := .next (s.qdmaStep c)

end Sys2Proof.Machine
end

