-- ==== Sys2Proof/Machine/Paths.lean ====
section
/-! DEFINITION. Paths of subchannels, mirror records, claims, completions, takeover, revert and parking (chapter 13):
the shared operations of the channel subsystem. -/

namespace Sys2Proof.Machine

/-! ### Subchannels, tiles and paths (R11, R358, R367) -/

def scTile (n : Sc) : Nat := n.val / 65536
def pairOf (t : Nat) : Nat := if t % 2 = 0 then t + 1 else t - 1

/-- The port that entry `k` of SC_PATHS names. -/
def State.scPort (s : State) (n : Sc) (k : Nat) : Option Port :=
  let e := s.fld (.scPaths n) (8 * k + 7) (8 * k)
  fin? 512 (128 * (scTile n / 2 * 2 + e / 128) + e % 128)

def State.scEnabled (s : State) (n : Sc) : Bool := s.fld (.scCfg n) 63 63 = 1
def State.scNpaths (s : State) (n : Sc) : Nat := s.fld (.scCfg n) 59 56
def State.scClaimNo (s : State) (n : Sc) : BitVec 32 := BitVec.ofNat 32 (s.fld (.scClaim n) 63 32)
def State.scListNo (s : State) (n : Sc) : Nat := s.fld (.scClaim n) 31 0
def State.scSeq (s : State) (n : Sc) : Nat := s.fld (.scStatus n) 31 0
/-- Tag of the next exchange (R370). -/
def State.scNextTag (s : State) (n : Sc) : Word := BitVec.ofNat 64 (s.scListNo n * 2 ^ 32 + s.scSeq n)

/-- I/O tile `t` runs: neither stopped nor isolated. -/
def State.itLive (s : State) (t : Nat) : Bool := s.tileLive (5 + t)

/-- The path engine of path `k`. -/
def State.scPe (s : State) (n : Sc) (k : Nat) : Option Pe := (s.scPort n k).bind s.portPe

/-- An engine is running in the sense of R367: not failed and not frozen (log entry 18). -/
def State.peRunning (s : State) (e : Pe) : Bool := !(s.pe e.val).failed && !(s.pe e.val).frozen

/-- The first three conditions of R367. -/
def State.pathUp (s : State) (n : Sc) (k : Nat) : Bool :=
  k < s.scNpaths n && s.fld (.scCfg n) (16 + k) (16 + k) = 1 &&
    (match s.scPort n k with
     | none => false
     | some p =>
       isLyvan (s.portProto p) && (s.port p.val).st == .active && s.itLive (p.val / 128) &&
         (match s.portPe p with
          | some e => s.peRunning e
          | none => false))

/-- Path `k` is usable (R367). -/
def State.pathUsable (s : State) (n : Sc) (k : Nat) : Bool := s.pathUp n k && !(s.sc n.val).holdoff.getLsbD k

def State.usablePaths (s : State) (n : Sc) : List (Fin 8) := (List.finRange 8).filter fun k => s.pathUsable n k.val

/-- Tile of path `k`. -/
def State.pathTile (s : State) (n : Sc) (k : Nat) : Nat := (s.scPort n k).elim 0 fun p => p.val / 128

/-- SAME_TILE of the subchannel's owning parcel. -/
def State.scSameTile (s : State) (n : Sc) : Bool :=
  match s.image, s.scOwner n with
  | some i, some o => o < 16 && i.sameTile o
  | _, _ => false

/-- Engines on the two tiles of the pair can reach each other: over the mirror link, or over the mesh through a
compute tile (R373). -/
def State.mirrorPath (s : State) (n : Sc) : Bool :=
  s.mirrorUp.getLsbD (scTile n / 2) || (List.range 4).any fun t => s.tileLive (1 + t)

/-- The standby path for an active path (R368, R373). -/
def State.chooseStandby (s : State) (n : Sc) (a : Fin 8) : Option (Fin 8) :=
  let us := (s.usablePaths n).filter fun k => k ≠ a
  match us.find? fun k => s.pathTile n k.val ≠ s.pathTile n a.val && s.mirrorPath n with
  | some k => some k
  | none => if s.scSameTile n then us.find? fun k => s.scPe n k.val ≠ s.scPe n a.val else none

/-- Configured with two or more paths and fewer than two usable (R368). -/
def State.scDegraded (s : State) (n : Sc) : Bool :=
  s.scEnabled n && 2 ≤ s.scNpaths n && (s.usablePaths n).length < 2

/-- Subchannels that have a record. -/
def State.scList (s : State) : List Sc := s.scs.filterMap fun e => fin? 262144 e.1

/-- The tile whose store records and writer serve the subchannel: its own, or the partner of one that is stopped (R358, R394). -/
def State.scServer (s : State) (n : Sc) : Nat := if s.itLive (scTile n) then scTile n else pairOf (scTile n)

/-- That writer as a master. -/
def State.scWriter (s : State) (n : Sc) : Master := .writer (Fin.ofNat 4 (s.scServer n))

/-- Source ID of a path engine. -/
def peSrc (e : Nat) : Nat := srcId (5 + e / 32) 0x13 (e % 32)

/-- A channel fault, from the engine `e` where there is one, else from engine 0 of the tile that serves the subchannel
(R394, R395). -/
def State.chFault (s : State) (n : Sc) (e : Option Pe) (kind cls : Nat) : State :=
  s.report (peSrc (e.elim (32 * s.scServer n) Fin.val)) kind cls n.val

/-! ### Mirror records (R371, R372, Table 13.5) -/

def recStart : BitVec 4 := 1
def recCycle : BitVec 4 := 2
def recEnd : BitVec 4 := 3
def recHandover : BitVec 4 := 4
def recPark : BitVec 4 := 5

/-- The record that describes the subchannel now. -/
def State.mkRec (s : State) (n : Sc) (kind : BitVec 4) (code : Byte) : MirrorRec :=
  let x := s.sc n.val
  { subch := n, kind := kind, claim := s.scClaimNo n, nextTag := s.scNextTag n, nextOrder := x.nextOrder
    moved := x.moved, lastResidual := x.lastResidual, lastDevstat := x.lastDevstat, endCode := code
    lastOrder := x.lastOrder, time := s.tb.ns }

/-- The bytes 0x00 to 0x37 of a record. -/
def recBytes (r : MirrorRec) : List Byte :=
  leBytes 4 (r.subch.val + r.kind.toNat * 2 ^ 20) ++ leBytes 4 r.claim.toNat ++ leBytes 8 r.nextTag.toNat ++
    leBytes 8 r.nextOrder.toNat ++ leBytes 8 r.moved.toNat ++ leBytes 4 r.lastResidual.toNat ++
    [r.lastDevstat, r.endCode, 0, 0] ++ leBytes 8 r.lastOrder.toNat ++ leBytes 8 r.time.toNat

/-- CHECK of a record. -/
def recCheck (r : MirrorRec) : Word := crc64 (recBytes r)

/-- Write a record into the store of tile `t`. -/
def State.storeRec (s : State) (n : Sc) (t : Nat) (r : MirrorRec) : State :=
  if !s.itLive t then s
  else if t = scTile n then s.modSc n.val fun x => { x with ownRec := some r }
  else s.modSc n.val fun x => { x with partnerRec := some r }

/-- Write a record into every store record that can be reached. -/
def State.storeBoth (s : State) (n : Sc) (r : MirrorRec) : State :=
  (s.storeRec n (scTile n) r).storeRec n (pairOf (scTile n)) r

/-- The running engine sends a record to its standby, or stores it where it can (R372). -/
def State.mirror (s : State) (n : Sc) (kind : BitVec 4) (code : Byte) : State :=
  let r := s.mkRec n kind code
  match (s.sc n.val).standby with
  | some _ => s.modSc n.val fun x => { x with sent := some r, stored := false }
  | none => (s.storeBoth n r).modSc n.val fun x => { x with sent := none, stored := false }

/-- Choose the standby anew; a record whose standby has gone is stored instead (R368, R373). -/
def State.refreshStandby (s : State) (n : Sc) : State :=
  let x := s.sc n.val
  let sb := x.active.bind fun a => s.chooseStandby n a
  if sb = x.standby then s
  else
    let s1 := s.setSc n.val { x with standby := sb, stored := false, beatFrozen := false }
    match x.sent, sb with
    | some r, none => (s1.storeBoth n r).modSc n.val fun y => { y with sent := none }
    | _, _ => s1

/-- Standbys are chosen anew when the tiles of a pair lose or regain each other (R373). -/
def State.refreshStandbys (s : State) : State := s.scList.foldl (fun s n => s.refreshStandby n) s

/-- The newer of the two store records: highest claim, then highest sequence number (R389). -/
def newestRec : Option MirrorRec → Option MirrorRec → Option MirrorRec
  | some a, some b =>
    if a.claim.toNat < b.claim.toNat then some b
    else if b.claim.toNat < a.claim.toNat then some a
    else if (a.nextTag.setWidth 32 : BitVec 32).toNat < (b.nextTag.setWidth 32 : BitVec 32).toNat then some b
    else some a
  | some a, none => some a
  | none, b => b

/-- Resume from a record of the running list; before its first record, from the start of the list (R380).  The exchange that
an older record names has been sent (R390). -/
def State.resumeFrom (s : State) (n : Sc) (r : Option MirrorRec) : State :=
  let x := s.sc n.val
  let same := r.filter fun y => y.nextTag.toNat / 2 ^ 32 = s.scListNo n
  match same with
  | some y =>
    (s.setSc n.val { x with nextOrder := y.nextOrder, moved := y.moved, lastResidual := y.lastResidual
                            lastDevstat := y.lastDevstat, lastOrder := y.lastOrder, exch := none, sent := none
                            stored := false, nonExchange := 0
                            orderSent := x.orderSent || decide (y.nextTag.toNat % 2 ^ 32 ≠ s.scSeq n) }).setFld
      (.scStatus n) 31 0 (y.nextTag.toNat % 2 ^ 32)
  | none =>
    s.setSc n.val { x with nextOrder := x.start.elim 0 (·.orderList), moved := 0, lastResidual := 0, lastDevstat := 0
                           exch := none, sent := none, stored := false, nonExchange := 0 }

/-! ### Parking and completions (R376 to R378, R389 to R392) -/

/-- A message of class SUBCHANNEL. -/
def State.scRaise (s : State) (n : Sc) (event : Nat) : State :=
  s.raiseOwned (5 + s.scServer n) 0x01 n.val event (s.scOwner n)

/-- A running subchannel parks (R389). -/
def State.park (s : State) (n : Sc) (cause : Fin 3) : State :=
  let e := (s.sc n.val).holder
  let s1 := (s.storeBoth n (s.mkRec n recPark 0)).modSc n.val fun x =>
    { x with st := .parked, parkCause := cause, exch := none, sent := none, stored := false, holder := none
             asking := none, revoking := false, handoverTo := none, active := none, standby := none }
  let s2 := (s1.bump (.scCount n) 31 16 1).scRaise n 1
  if cause.val = 1 then s2.chFault n e 0x4B clsContained else s2

/-- A completion queue that can be written: its tile runs (R394). -/
def State.qReach (s : State) (q : Qn) : Bool := s.itLive (qTile q)

/-- The status block (Table 13.6). -/
def State.statusBlock (s : State) (n : Sc) (code : Byte) (indoubt : Bool) : List Byte :=
  let x := s.sc n.val
  let w0 := code.toNat + x.lastDevstat.toNat * 2 ^ 8 + indoubt.toNat * 2 ^ 16 + x.takeover.toNat * 2 ^ 17
  leBytes 4 w0 ++ leBytes 4 (s.scClaimNo n).toNat ++ leBytes 8 x.lastTag.toNat ++ leBytes 4 x.lastResidual.toNat ++
    leBytes 4 0 ++ leBytes 8 x.lastOrder.toNat ++ leBytes 8 x.moved.toNat ++
    leBytes 8 (x.start.elim 0 fun b => b.param.toNat) ++ leBytes 8 s.now ++ leBytes 8 0

/-- The owner has the range in its MEMORY grants with the rights, for the writer (R361, R377). -/
def State.ownerAllows (s : State) (n : Sc) (a len need : Nat) : Bool :=
  match s.scOwner n with
  | some o => s.fwAllows [o] a len need
  | none => false

/-- Data of the completion queue word (R377). -/
def State.complWord (s : State) (n : Sc) (code : Byte) : Word :=
  BitVec.ofNat 64 (n.val * 2 ^ 46 + code.toNat * 2 ^ 32 + s.scListNo n)


/-- Enqueue the completion word; an error response drops it (R377). -/
def State.complEnqueue (s : State) (n : Sc) (b : StartBlock) (code : Byte) : State :=
  match fin? 32768 b.queue.toNat with
  | none => s
  | some q =>
    if !s.qReach q || !s.qEnabled q then s.bump (.scCount n) 15 8 1
    else s.qArrive q ⟨s.scWriter n, .enq b.user, s.complWord n code, false⟩

/-- The writer accepts a completion: status block, queue word, message, and the END record (R371, R376, R377); where
R387 or R390 asks, the next list begins with ESTABLISH. -/
def State.acceptCompletion (s : State) (n : Sc) (code : Byte) (indoubt : Bool) : State :=
  let x := s.sc n.val
  match x.start with
  | none => s
  | some b =>
    let s1 := if indoubt then s.setFld (.scStatus n) 31 0 (s.scSeq n + 1) else s
    let a := b.statusAddr.toNat
    let s2 := if s1.ownerAllows n a 64 needW && s1.memReachable a then
        s1.invWriteBytes (s1.scWriter n) a (s1.statusBlock n code indoubt)
      else s1.bump (.scCount n) 7 0 1
    let s3 := if b.qv then s2.complEnqueue n b code else s2
    let s4 := (s3.scRaise n 0).modSc n.val fun y =>
      { y with st := if y.disableAfter then .disabled else .idle, listOpen := false, post := none, clearing := false
               disableAfter := false, parkCause := 0, exch := none, orderSent := false
               needEstablish := y.needEstablish || indoubt || code = 0x07 || code = 0x09 }
    let s5 := s4.mirror n recEnd code
    if x.disableAfter then (s5.setFld (.scCfg n) 63 63 0).modSc n.val fun y => { y with holder := none, asking := none }
    else s5

/-- The engine ends the list: its post waits for the writer (R376); PROTOCOL_CHECK is logged. -/
def State.endList (s : State) (n : Sc) (code : Byte) : State :=
  let x := s.sc n.val
  let s1 := s.setSc n.val { x with post := some (code, x.orderSent), exch := none }
  if code = 0x06 then s1.chFault n x.holder 0x4D clsContained else s1

/-! ### Claims (R375) -/

/-- A list being cleared ends with CLEARED at the new engine, which repeats no exchange (R392). -/
def State.clearAtGrant (s : State) (n : Sc) : State :=
  let x := s.sc n.val
  if x.clearing && x.listOpen then s.endList n 0x08 else s

/-- The effect of a grant of CLAIM + 1 to the asking engine. -/
def State.grantTo (s : State) (n : Sc) (e : Pe) : State :=
  let x := s.sc n.val
  let s1 := (s.setFld (.scClaim n) 63 32 (s.scClaimNo n + 1).toNat).bump (.peCount e) 31 16 1
  let s2 := s1.modSc n.val fun y => { y with holder := some e, asking := none, revoking := false, post := none }
  match x.handoverTo with
  | none => s2
  | some (k, revert) =>
    let parked : Bool := x.st == .parked
    let s3 := s2.modSc n.val fun y =>
      { y with active := some k, handoverTo := none, standby := none
               takeover := y.takeover || y.st == .running || y.st == .clearing || parked
               st := if parked then (if y.clearing then .clearing else .running) else y.st
               parkCause := 0 }
    let s4 := if x.st == .idle || x.st == .disabled then s3
      else if revert then s3
      else
        let r := if parked then newestRec x.ownRec x.partnerRec
          else if s3.pathTile n k.val = scTile n then x.ownRec else x.partnerRec
        s3.resumeFrom n r
    let s5 := s4.refreshStandby n
    if revert then (s5.bump (.scCount n) 47 32 1).chFault n (some e) 0x49 clsNote
    else if parked || x.active.isNone then s5
    else (s5.bump (.scCount n) 63 48 1).chFault n (some e) 0x48 clsNote

/-- The writer grants CLAIM + 1 to the asking engine: takeover, revert, resume or a first claim take effect
(R375, R380, R388, R389, R392). -/
def State.grantClaim (s : State) (n : Sc) (e : Pe) : State := (s.grantTo n e).clearAtGrant n

/-- Revocation of this engine completes at once: it has failed or its tile is stopped (R375). -/
def State.peGone (s : State) (e : Pe) : Bool := (s.pe e.val).failed || !s.itLive (e.val / 32)

/-- A claim request reaches the writer. -/
def State.claimRequest (s : State) (n : Sc) (e : Pe) : State :=
  let x := s.sc n.val
  if x.asking ≠ some e || x.revoking then s
  else
    match x.holder with
    | none => s.grantClaim n e
    | some h => if h = e || s.peGone h then s.grantClaim n e else s.setSc n.val { x with revoking := true }

/-- The engine of path `k` asks for the claim. -/
def State.askClaim (s : State) (n : Sc) (k : Fin 8) : State :=
  s.modSc n.val fun x => { x with asking := s.scPe n k.val }

/-! ### Takeover and revert (R379, R380, R388) -/

/-- A running subchannel must leave its active path: its engine hands over to the standby, or the standby of a failed
engine takes over, or, without a path, it parks, and a list being cleared ends (R379, R389, R392). -/
def State.takeOver (s : State) (n : Sc) : State :=
  let x := s.sc n.val
  let target := match x.standby.filter fun k => s.pathUsable n k.val with
    | some k => some k
    | none => (s.usablePaths n).head?
  match target with
  | none => if x.clearing then (s.park n 1).endList n 0x08 else s.park n 1
  | some k =>
    let gone : Bool := match x.holder with | some h => s.peGone h | none => true
    let s1 := s.setSc n.val { x with handoverTo := some (k, false), asking := none, revoking := false, exch := none }
    if gone then s1.askClaim n k
    else
      let r := s.mkRec n recHandover 0
      (s1.storeRec n (s.pathTile n k.val) r).modSc n.val fun y => { y with holder := none, sent := none, stored := false }

/-- The active engine hands an idle subchannel, or one before its first exchange, to path `k` (R388). -/
def State.startRevert (s : State) (n : Sc) (k : Fin 8) : State :=
  let r := s.mkRec n recHandover 0
  (s.storeRec n (s.pathTile n k.val) r).modSc n.val fun x =>
    { x with handoverTo := some (k, true), holder := none, asking := none }

/-- A usable path of higher priority than the active one. -/
def State.revertTarget (s : State) (n : Sc) : Option (Fin 8) :=
  (s.sc n.val).active.bind fun a => (s.usablePaths n).find? fun k => k.val < a.val

/-- Paths have become usable: a parked subchannel resumes, an idle one reverts, and the standby is chosen anew (R368, R388, R389). -/
def State.pathsGained (s : State) (n : Sc) : State :=
  let x := s.sc n.val
  if x.st == .parked && x.parkCause = 1 then
    match (s.usablePaths n).head? with
    | some k =>
      if x.asking.isSome then s else (s.setSc n.val { x with handoverTo := some (k, false) }).askClaim n k
    | none => s
  else if x.handoverTo.isSome then s
  else
    let s1 := s.refreshStandby n
    match s1.revertTarget n with
    | none => s1
    | some k =>
      if x.st == .idle then s1.startRevert n k else s1

/-- Path `k` of a subchannel fails (R367): hold-off begins, and a running subchannel leaves an active path that
failed, unless its engine is frozen (R379). -/
def State.pathFail (s : State) (n : Sc) (k : Fin 8) : State :=
  let x := s.sc n.val
  let s1 := if s.fld (.scLimits n) 23 16 = 0 then s
    else s.setSc n.val { x with holdoff := x.holdoff ||| BitVec.ofNat 8 (2 ^ k.val) }
  let frozen : Bool := match x.holder with | some h => (s.pe h.val).frozen | none => false
  if x.active = some k then
    if x.st == .running || x.st == .clearing then (if frozen then s1 else s1.takeOver n)
    else
      (s1.modSc n.val fun y => { y with active := none, standby := none, holder := none })
  else if x.handoverTo.map (·.1) = some k then
    if x.st == .running || x.st == .clearing then s1.takeOver n
    else (s1.modSc n.val fun y => { y with handoverTo := none, asking := none, revoking := false }).pathsGained n
  else s1.refreshStandby n

/-- Subchannels and path numbers that use a port. -/
def State.portPaths (s : State) (p : Port) : List (Sc × Fin 8) :=
  s.scList.flatMap fun n =>
    ((List.finRange 8).filter fun k => k.val < s.scNpaths n && s.scPort n k.val = some p).map fun k => (n, k)

/-- The port's paths fail (R367, R413, R497). -/
def State.portPathsFail (s : State) (p : Port) : State := (s.portPaths p).foldl (fun s e => s.pathFail e.1 e.2) s

/-- Subchannels leave a port that failed while their engine was frozen (R379, R393). -/
def State.portActiveFail (s : State) (p : Port) : State :=
  (s.portPaths p).foldl (fun s e => if (s.sc e.1.val).active = some e.2 then s.pathFail e.1 e.2 else s) s

/-- The port's paths may be usable again. -/
def State.portPathsGained (s : State) (p : Port) : State := (s.portPaths p).foldl (fun s e => s.pathsGained e.1) s

/-- An engine is declared failed: PE_FAILED, and every path it serves fails (R367, R375, R395). -/
def State.peFail (s : State) (e : Pe) : State :=
  if (s.pe e.val).failed then s
  else
    let s1 := (s.modPe e.val fun x => { x with failed := true }).report (peSrc e.val) 0x4F clsSevere 0
    (s.pePorts e).foldl State.portPathsFail s1

/-! ### Stops -/

/-- Every exchange in flight is dropped; each engine re-sends its own later (R393 HOLD). -/
def State.dropExchanges (s : State) : State :=
  { s with scs := s.scs.map fun e => (e.1, { e.2 with exch := none }) }

/-- An engine can act on its subchannels: a running mode, or QUIESCE for what ends a cycle. -/
def State.peActs (s : State) (e : Pe) : Bool :=
  s.runOrQuiesce && s.peRunning e && s.itLive (e.val / 32)

/-- An engine starts exchanges. -/
def State.peStarts (s : State) (e : Pe) : Bool :=
  s.mastersStart && s.peRunning e && !(s.pe e.val).stopped && s.itLive (e.val / 32)

/-- Exchanges in flight on an engine, and on a parcel's subchannels (R369, R501). -/
def State.peInflight (s : State) (e : Pe) : Nat :=
  (s.scs.filter fun x => x.2.exch.isSome && x.2.holder = some e).length
def State.parcelInflight (s : State) (o : Nat) : Nat :=
  (s.scList.filter fun n => (s.sc n.val).exch.isSome && s.scOwner n = some o).length

/-- PATH_CREDITS of an owner; 0 means no limit (R501). -/
def State.pathCredits (s : State) (o : Option Nat) : Nat :=
  match s.image, o with
  | some i, some p => if p < 16 then bits (wordAt i.qos (4 * p + 3)) 47 32 else 0
  | _, _ => 0

/-- Subchannels that still wait for one of the engine's 512 places (R369). -/
def State.peQueue (s : State) (e : Pe) : List Sc :=
  (s.pe e.val).waiting.filter fun n =>
    let x := s.sc n.val
    x.st == .running && x.exch.isNone && x.holder = some e

/-- It is the subchannel's turn among those that wait for a place. -/
def State.peTurn (s : State) (n : Sc) (e : Pe) : Bool :=
  decide (s.peInflight e < 512) && (s.peQueue e).head?.all (· = n)

/-- The subchannel waits for a place, behind those that were ready before. -/
def State.peWait (s : State) (n : Sc) (e : Pe) : State :=
  let q := s.peQueue e
  s.modPe e.val fun y => { y with waiting := if q.contains n then q else q ++ [n] }

/-- The subchannel takes its place. -/
def State.peLeave (s : State) (n : Sc) (e : Pe) : State :=
  if (s.pe e.val).waiting.isEmpty then s else s.modPe e.val fun y => { y with waiting := y.waiting.filter (· ≠ n) }

/-- The parcel's credits leave room for one more exchange. -/
def State.creditLeft (s : State) (n : Sc) : Bool :=
  let o := s.scOwner n
  let c := s.pathCredits o
  c = 0 || s.parcelInflight (o.getD 16) < c

end Sys2Proof.Machine
end

