-- ==== Sys2Proof/Machine/Modes.lean ====
section
/-! DEFINITION. The conditions of Table 3.2, changes of mode, HOLD, and the power-down sequence (chapter 3). -/

namespace Sys2Proof.Machine

def keeperSrc : Nat := srcId 0 0x20 0

/-! ### Conditions (R64, R202, R236, R518) -/

/-- A GRAVE fault is present: FC_STATUS.GRAVE is 1 in some collector (R518). -/
def State.gravePresent (s : State) : Bool := (List.finRange 9).any fun k => s.fld (.fcStatus k) 4 4 = 1

/-- A group is in debug: some slot is in SPLIT (R236). -/
def State.splitHolds (s : State) : Bool :=
  s.isls.any fun e => (List.finRange 4).any fun k => (e.2.slots.get k).st == .split

/-- A slot runs below the redundancy of its layout: fewer healthy replicas, and no core REJOINING (R202). -/
def Isl.below (x : Isl) (k : Fin 4) : Bool :=
  let sl := x.slots.get k
  sl.lc.isSome && x.healthy k < sl.width && !(sl.positions.any fun c => (x.cores.get c).role == .rejoining)

def State.degradedHolds (s : State) : Bool :=
  (s.isls.any fun e => (List.finRange 4).any fun k => e.2.below k) || s.scList.any fun n => s.scDegraded n

/-- The mode of highest precedence whose condition holds (Table 3.2). -/
def State.modeOf (s : State) : Mode :=
  if s.gravePresent then .hold
  else if s.keeper.quiesced then .quiesce
  else if s.svcTile ≠ 0 then .service
  else if s.splitHolds then .split
  else if s.degradedHolds then .degraded
  else .run

/-! ### Changes of mode (R65) -/

/-- KS_STATUS.MODE changes: PREV_MODE, and a MODE_CHANGE note into WAKE and every mode after it. -/
def State.changeMode (s : State) (m : Mode) : State :=
  let old := s.keeper.mode
  let s1 := ({ s with keeper := { s.keeper with mode := m } }).setFld .ksStatus 35 32 old.code
  if 2 ≤ m.code then s1.report keeperSrc 0x02 clsNote (m.code + 16 * old.code) else s1

def State.ksResult (s : State) (r : Nat) : State := s.setFld .ksStatus 27 24 r

/-- The GRAVE exit policy that governs the HOLD in force: SOFTWARE_CLEAR of the running image, for a HOLD entered from
a running mode or QUIESCE (R524, R563). -/
def State.softwareClear (s : State) : Bool :=
  !s.keeper.holdFromStart &&
    (match s.loader.running with
     | some r => (wordAt r.img.policy 0).getLsbD 0
     | none => false)

/-- No QUIESCE stops a logical core any more. -/
def State.unquiesce (s : State) : State :=
  { s with lcs := s.lcs.map fun (e : Nat × LCore) =>
      (e.1, { e.2 with stops := { e.2.stops with quiesce := false }, reqs := { e.2.reqs with quiesce := false } }) }

/-- Every channel that issues commands precharges its banks and enters self-refresh (R63, R70, R322). -/
def State.dramRest (s : State) : State :=
  { s with chans := s.chans.map fun (e : Nat × ChanSt) =>
      (e.1, if e.2.issues then { e.2 with st := .selfRefresh, openRow := [] } else e.2) }

/-- The power-down sequence runs (R70). -/
def State.poweringDown (s : State) : Bool := match s.keeper.trans with | .powerDown _ => true | _ => false

/-- HOLD is entered (R64, R65, R68, R56, R525): a command in progress is abandoned with WRONG_MODE, and the stops of
an abandoned QUIESCE with it; DRAM enters self-refresh (Table 3.1); a start in progress
is abandoned, no image is then in force and every group island reads as before COMPOSE (R239), an unfinished re-composition is abandoned, ALIVE stops, and every exchange
in flight is left for its engine to send again. -/
def State.enterHold (s : State) : State :=
  let start := s.mode == .wake || s.mode == .load || s.mode == .compose
  let s0 := if s.keeper.trans == .quiescing then s.unquiesce else s
  let s1 := if s.keeper.trans == .quiescing || s.keeper.trans == .restoring then s0.ksResult 2 else s0
  let s2 := if s1.fld .imgStatus 23 20 = 5 then (s1.setFld .imgStatus 23 20 3).setFld .imgStatus 55 52 2 else s1
  let s3 := if start then
      { s2 with loader := { s2.loader with running := none, composing := none, staged := none, delivery := none },
                isls := [] }
    else s2
  let s4 := { s3 with keeper := { s3.keeper with trans := .none, wakePhase := .none, holdFromStart := start, aliveStopped := true } }
  ((s4.dropExchanges).dramRest).changeMode .hold

/-- Table 3.2 is evaluated: the mode follows its conditions in the running modes and QUIESCE; a GRAVE fault also ends
WAKE, LOAD and COMPOSE; HOLD ends when a SOFTWARE_CLEAR has removed it (R64, R65).  Once the power-down sequence runs, it ends in KEEPER or WAKE alone (R70). -/
def State.settleMode (s : State) : State :=
  if s.poweringDown then s else
  match s.mode with
  | .run | .degraded | .quiesce | .split | .service =>
    let m := s.modeOf
    if m == .hold then s.enterHold else if m == s.mode then s else s.changeMode m
  | .wake | .load | .compose => if s.gravePresent then s.enterHold else s
  | .hold =>
    if s.keeper.trans == .none && s.softwareClear && !s.gravePresent then
      ({ s with keeper := { s.keeper with aliveStopped := false, aliveMult := s.now / 1000000 } }).changeMode s.modeOf
    else s
  | _ => s

/-! ### The power-down sequence (R70) -/

/-- Lower the highest enable output that is still asserted. -/
def lowerTop (v : BitVec 4) : BitVec 4 :=
  if v.getLsbD 3 then v &&& 7 else if v.getLsbD 2 then v &&& 3 else if v.getLsbD 1 then v &&& 1 else 0

/-- The sequence begins: DRAM is put into self-refresh, then the first output falls. -/
def State.beginPowerDown (s : State) (restart : Bool) : State :=
  let k := s.keeper
  let k1 := { k with trans := .powerDown restart, wakePhase := .none, railLost := 0, pwren := lowerTop k.pwren }
  { s.dramRest with keeper := k1 }

/-- The group whose output fell last. -/
def fallenGroup (pwren : BitVec 4) : Nat :=
  if pwren.getLsbD 2 then 3 else if pwren.getLsbD 1 then 2 else if pwren.getLsbD 0 then 1 else 0

/-- A mode between LOAD and HOLD, or ZEROIZE: groups 0 to 3 are on. -/
def Mode.powered : Mode → Bool
  | .off | .keeper | .wake => false
  | _ => true

end Sys2Proof.Machine
end

