-- ==== Sys2Proof/Machine/Channel.lean ====
section
/-! DEFINITION. The commands of the channel subsystem (chapter 13). -/

namespace Sys2Proof.Machine

open Host (Outcome)

/-! ### Registers of a subchannel's page (R359, R360) -/

def State.scAccess (s : State) (m : Master) (n : Sc) (pa : Nat) (k : State → State) : State :=
  s.csAccess m pa needW (s.holdsRes m 5 n.val) fun s => k (s.respond m .ok)

/-- The same for a write that the writer answers when it has been served in memory. -/
def State.scWaits (s : State) (m : Master) (n : Sc) (pa : Nat) (rs : State → List Reach) (k : State → State) : State :=
  s.csAccess m pa needW (s.holdsRes m 5 n.val) fun s => s.admitMaster (s.scWriter n) (rs s) fun s => k (s.respond m .ok)

/-- The checks of an enabling write of SC_CFG (R360). -/
def State.scCfgOk (s : State) (n : Sc) (v : Word) : Bool :=
  let np := bits v 59 56
  let ports := (List.range np).map fun k => s.scPort n k
  let good : Bool := ports.all fun p =>
    match p with
    | some q => isLyvan (s.portProto q) && (s.portOwner q).isSome && s.portOwner q == s.scOwner n
    | none => false
  1 ≤ np && np ≤ 8 && good && ports.eraseDups.length == np &&
    10 ≤ s.fld (.scLimits n) 4 0 && s.fld (.scLimits n) 4 0 ≤ 30 && s.fld (.scLimits n) 63 32 ≠ 0

/-- The status block that the writer writes with a completion. -/
def State.statusReach (s : State) (n : Sc) : List Reach :=
  match (s.sc n.val).start with
  | some b => if s.ownerAllows n b.statusAddr.toNat 64 needW then puts [(b.statusAddr.toNat, 64)] else []
  | none => []

/-- The same where a clear ends a parked list, which completes at once. -/
def State.clearReach (s : State) (n : Sc) (clears : Bool) : List Reach :=
  if clears && (s.sc n.val).st == .parked then s.statusReach n else []

/-- The list in progress ends with CLEARED at the next boundary, or now when there is none to wait for; a CLEAR that
reaches the writer before the list's own end wins (R392). -/
def State.scClearNow (s : State) (n : Sc) : State :=
  let x := s.sc n.val
  if x.st == .parked then s.acceptCompletion n 0x08 x.orderSent
  else
    let y := { x with st := .clearing, clearing := true }
    match x.post with
    | some (_, d) => s.setSc n.val { y with post := some (0x08, d) }
    | none => if x.exch.isNone then (s.setSc n.val y).endList n 0x08 else s.setSc n.val y

/-- A list is running, parked or being cleared. -/
def ScSt.busy (x : ScSt) : Bool := x.st == .running || x.st == .parked || x.st == .clearing

/-- SC_CFG (R360). -/
def State.scCfgW (s : State) (m : Master) (n : Sc) (pa : Nat) (v : Word) : State :=
  s.scWaits m n pa (fun s => s.clearReach n (s.scEnabled n && !v.getLsbD 63)) fun s =>
    let r := CsReg.scCfg n
    if s.scEnabled n then
      let s1 := (s.setFld r 23 16 (bits v 23 16)).pathsGained n
      if v.getLsbD 63 then s1
      else if (s1.sc n.val).busy then (s1.modSc n.val fun x => { x with disableAfter := true }).scClearNow n
      else
        (s1.setFld r 63 63 0).modSc n.val fun x =>
          { x with st := .disabled, active := none, standby := none, holder := none, asking := none
                   handoverTo := none }
    else if !v.getLsbD 63 then s.setReg r (softWrite r (s.reg r) v)
    else if s.scCfgOk n v then
      ((s.setReg r (softWrite r (s.reg r) v)).setFld (.scStatus n) 51 51 0).modSc n.val fun x =>
        { x with st := .idle, holder := none, asking := none, holdoff := 0, active := none, standby := none
                 needEstablish := true, disableAfter := false, clearing := false }
    else s.setFld (.scStatus n) 51 51 1

/-- SC_PATHS: no effect while the subchannel is enabled. -/
def State.scPathsW (s : State) (m : Master) (n : Sc) (pa : Nat) (v : Word) : State :=
  s.scAccess m n pa fun s => if s.scEnabled n then s else s.setReg (.scPaths n) v

/-- SC_LIMITS: applies from the next timer it starts. -/
def State.scLimitsW (s : State) (m : Master) (n : Sc) (pa : Nat) (v : Word) : State :=
  s.scAccess m n pa fun s => s.setReg (.scLimits n) (softWrite (.scLimits n) (s.reg (.scLimits n)) v)

/-! ### SC_START (R361) -/

/-- The start block, when the checks of R361 on its bytes pass. -/
def parseStart (bs : List Byte) : Option StartBlock :=
  let w := leAt bs 16 4
  if leAt bs 0 8 % 32 ≠ 0 || leAt bs 8 8 % 64 ≠ 0 || w / 2 ^ 20 ≠ 0 || leAt bs 20 4 ≠ 0 then none
  else
    some { orderList := BitVec.ofNat 64 (leAt bs 0 8), statusAddr := BitVec.ofNat 64 (leAt bs 8 8)
           queue := BitVec.ofNat 15 w, qv := w / 2 ^ 15 % 2 = 1, user := BitVec.ofNat 4 (w / 2 ^ 16)
           param := BitVec.ofNat 64 (leAt bs 24 8) }

/-- The start block at `a` as the writer reads and checks it. -/
def State.readStart (s : State) (n : Sc) (a : Nat) : Option StartBlock :=
  if !s.ownerAllows n a 32 needR then none
  else
    match s.peek a 32 with
    | some (bs, false) =>
      (parseStart bs).filter fun b =>
        let qOk : Bool := match fin? 32768 b.queue.toNat with
          | some q => s.queueOwner q == s.scOwner n && s.qEnabled q && !s.qOvertop q
          | none => false
        (!b.qv || qOk) && s.ownerAllows n b.statusAddr.toNat 64 needW
    | _ => none

/-- A path for the list, a revert or a claim where one is due, and the START record (R368, R371, R375, R388). -/
def State.beginList (s : State) (n : Sc) : State :=
  let x := s.sc n.val
  let act := (x.active.filter fun k => s.pathUsable n k.val).or (s.usablePaths n).head?
  match act with
  | none => s.park n 1
  | some k =>
    let s1 := (s.setSc n.val { x with active := some k }).refreshStandby n
    if x.handoverTo.isSome then s1.mirror n recStart 0
    else
      match s1.revertTarget n with
      | some t => (s1.mirror n recStart 0).startRevert n t
      | none =>
        let s2 := s1.mirror n recStart 0
        if x.holder.isSome && x.holder == s1.scPe n k.val then s2 else s2.askClaim n k

/-- What the writer reads for SC_START: the start block, where the subchannel can start. -/
def State.startReach (s : State) (n : Sc) (a : Nat) : List Reach :=
  if s.runOrQuiesce && s.scEnabled n && (s.sc n.val).st == .idle && s.ownerAllows n a 32 needR then peeks [(a, 32)] else []

/-- SC_START: the writer answers when the start block has been read (R361). -/
def State.scStartW (s : State) (m : Master) (n : Sc) (pa : Nat) (v : Word) : State :=
  s.scWaits m n pa (fun s => s.startReach n (bits v 51 5 * 32)) fun s =>
    let x := s.sc n.val
    let res (c : Nat) : State := s.setFld (.scStatus n) 59 56 c
    if !s.runOrQuiesce then res 2
    else if !s.scEnabled n then res 3
    else if x.st ≠ .idle then res 1
    else
      match s.readStart n (bits v 51 5 * 32) with
      | none => res 3
      | some b =>
        let s1 := (res 0).setFld (.scClaim n) 31 0 (s.scListNo n + 1)
        (s1.setSc n.val { x with st := .running, start := some b, nextOrder := b.orderList, moved := 0
                                 lastResidual := 0, lastDevstat := 0, nonExchange := 0, takeover := false
                                 listOpen := true, orderSent := false, post := none }).beginList n

/-- SC_CTL (R392). -/
def State.scCtlW (s : State) (m : Master) (n : Sc) (pa : Nat) (v : Word) : State :=
  s.scWaits m n pa (fun s => s.clearReach n (bits v 3 0 = 1)) fun s =>
    let res (c : Nat) : State := s.setFld (.scStatus n) 59 56 c
    if bits v 3 0 ≠ 1 then res 3
    else if !(s.sc n.val).busy then res 4
    else if (s.sc n.val).clearing then res 0
    else (res 0).scClearNow n

/-! ### Orders (R362 to R365) -/

/-- Why an order ends its list without an exchange, or what must happen instead. -/
inductive OrderEnd where
  | code (c : Byte)
  | freeze (pa : Nat)
  deriving DecidableEq, Repr

/-- Read `len` bytes for the engine: denied, error response, poisoned, or the bytes (R365). -/
def State.engineRead (s : State) (e : Pe) (a len : Nat) : List Byte ⊕ OrderEnd :=
  if !s.fwRange (.pathEngine e) a len needR then .inr (.freeze (s.fwDenied (.pathEngine e) a len needR))
  else if !s.rangeReachable a len then .inr (.code 0x05)
  else
    let r := s.freshBytes a len
    if r.2 then .inr (.code 0x04) else .inl r.1

/-- The scatter list at `a`, until END (R363). -/
def State.readScatter (s : State) (e : Pe) : Nat → Nat → List (Nat × Nat) ⊕ OrderEnd
  | 0, _ => .inr (.code 0x03)
  | k + 1, a =>
    match s.engineRead e a 16 with
    | .inr x => .inr x
    | .inl bs =>
      let len := leAt bs 8 4
      let fl := leAt bs 12 4
      if len = 0 || len > 16777216 || fl / 2 ≠ 0 then .inr (.code 0x03)
      else if fl = 1 then .inl [(leAt bs 0 8, len)]
      else
        match s.readScatter e k (a + 16) with
        | .inr x => .inr x
        | .inl t => .inl ((leAt bs 0 8, len) :: t)

/-- The data elements of an exchange order; an order without data has none (log entry 19). -/
def State.orderElems (s : State) (e : Pe) (bs : List Byte) : List (Nat × Nat) ⊕ OrderEnd :=
  let count := leAt bs 4 4
  let addr := leAt bs 8 8
  if count = 0 then .inl []
  else if (bs.getD 1 0).getLsbD 2 then .inl [(addr, count)]
  else if addr % 16 ≠ 0 then .inr (.code 0x03)
  else
    match s.readScatter e 256 addr with
    | .inr x => .inr x
    | .inl l => if (l.map (·.2)).foldl (· + ·) 0 < count then .inr (.code 0x03) else .inl l

/-- OP is an exchange. -/
def isExchange (op : Nat) : Bool := op = 1 || op = 2 || op = 3 || op = 4

/-- An order's own checks (R363, Table 13.4). -/
def orderOk (bs : List Byte) : Bool :=
  let op := leAt bs 0 1
  let fl := leAt bs 1 1
  let count := leAt bs 4 4
  let argOk : Bool := op ≠ 8 || leAt bs 16 8 / 2 ^ 16 = 0
  let cntOk : Bool := if op = 8 || op = 9 then count = 0 else if op = 3 then count ≤ 16777216 else 1 ≤ count && count ≤ 16777216
  (isExchange op || op = 8 || op = 9) && fl / 8 = 0 && leAt bs 3 1 = 0 && leAt bs 24 8 = 0 && argOk && cntOk &&
    !((op = 8 || op = 9) && fl % 2 = 1)

/-- The next `n` bytes of scattered memory from offset `off`, as (address, length) pieces. -/
def pieces : List (Nat × Nat) → Nat → Nat → List (Nat × Nat)
  | [], _, _ => []
  | (a, l) :: t, off, n =>
    if n = 0 then []
    else if l ≤ off then pieces t (off - l) n
    else
      let k := min n (l - off)
      (a + off, k) :: pieces t 0 (n - k)

/-- DATA frames of at most 4,096 B with contiguous OFFSETs, LAST on the final one (R415). -/
def dataFrames (mk : Byte → Word → List Byte → Frame) : Nat → Nat → List Byte → List Frame
  | 0, _, _ => []
  | k + 1, off, bs =>
    if bs.length ≤ 4096 then [mk 4 (BitVec.ofNat 64 off) bs]
    else mk 0 (BitVec.ofNat 64 off) (bs.take 4096) :: dataFrames mk k (off + 4096) (bs.drop 4096)

/-- Outgoing bytes of a WRITE or CONTROL, up to the first line that cannot be sent, and the list's code then. -/
def State.gather (s : State) : List (Nat × Nat) → List Byte × Option Byte
  | [] => ([], none)
  | (a, n) :: t =>
    if !s.rangeReachable a n then ([], some 0x05)
    else
      let r := s.freshBytes a n
      if r.2 then ([], some 0x04)
      else
        let x := s.gather t
        (r.1 ++ x.1, x.2)

/-- Send the ORDER, and the data of a WRITE or CONTROL (R370, R415). -/
def State.sendExchange (s : State) (n : Sc) (_e : Pe) (p : Port) (k : Fin 8) (addr : Word) (bs : List Byte)
    (elems : List (Nat × Nat)) : State :=
  let op := bs.getD 0 0
  let count := leAt bs 4 4
  let dev := s.fld (.scCfg n) 15 0
  let claim := s.scClaimNo n
  let tag := s.scNextTag n
  let param : Word := BitVec.ofNat 64 (op.toNat + leAt bs 2 1 * 2 ^ 8 + count * 2 ^ 16)
  let order := mkFrame fOrder 0 n.val dev claim tag param ((bs.drop 16).take 8)
  let out : Bool := op = 2 || op = 3
  let body := if out && 0 < count then s.gather (pieces elems 0 count) else ([], none)
  let frame (fl : Byte) (o : Word) (b : List Byte) : Frame := mkFrame fData fl n.val dev claim tag o b
  let data : List Frame :=
    if !out || count = 0 then []
    else
      match body.2 with
      | none => dataFrames frame (count / 4096 + 1) 0 body.1
      | some _ => [frame 2 0 []]
  let ex : Exchange :=
    { path := k, order := addr, op := op, tag := tag, claim := claim, count := count, elems := elems
      shortOk := (bs.getD 1 0).getLsbD 1, last := (bs.getD 1 0).getLsbD 0, received := 0, establishing := false
      addrError := false, aborted := body.2 }
  (s.modSc n.val fun x => { x with exch := some ex, orderSent := true, nonExchange := 0 }).sendSeq p (order :: data)

/-- What the engine reads for the order at `a`: its 32 B, its scatter list, and the outgoing data. -/
def State.orderReach (s : State) (e : Pe) (a : Nat) : List Reach :=
  match s.engineRead e a 32 with
  | .inr _ => []
  | .inl bs =>
    let op := leAt bs 0 1
    if !orderOk bs || !isExchange op then peeks [(a, 32)]
    else
      match s.orderElems e bs with
      | .inr _ => peeks [(a, 32)]
      | .inl elems =>
        let list := if (bs.getD 1 0).getLsbD 2 then [] else [(leAt bs 8 8, 16 * elems.length)]
        let out := if op = 2 || op = 3 then pieces elems 0 (leAt bs 4 4) else []
        peeks ((a, 32) :: list ++ if out.all fun q => s.fwRange (.pathEngine e) q.1 q.2 needR then out else [])

/-- Evaluate orders from NEXT_ORDER until one is sent, one has to wait for its memory, or the list ends (R363, R364). -/
def State.evalOrders (s : State) (n : Sc) (e : Pe) (p : Port) (k : Fin 8) : Nat → State
  | 0 => s.endList n 0x03
  | f + 1 => s.admitMaster (.pathEngine e) (s.orderReach e (s.sc n.val).nextOrder.toNat) fun s =>
    let x := s.sc n.val
    let a := x.nextOrder.toNat
    if a % 32 ≠ 0 then s.endList n 0x03
    else
      match s.engineRead e a 32 with
      | .inr (.freeze pa) => s.freezeMaster (.pathEngine e) pa
      | .inr (.code c) => s.endList n c
      | .inl bs =>
        let op := leAt bs 0 1
        if !orderOk bs then s.endList n 0x03
        else if (op = 8 || op = 9) && leAt bs 8 8 % 32 ≠ 0 then s.endList n 0x03
        else if op = 8 || op = 9 then
          let arg := leAt bs 16 8
          let taken : Bool := op = 9 || (x.lastDevstat &&& BitVec.ofNat 8 arg) = BitVec.ofNat 8 (arg / 256)
          let nx : Word := if taken then BitVec.ofNat 64 (leAt bs 8 8) else x.nextOrder + 32
          let s1 := s.setSc n.val { x with nextOrder := nx, nonExchange := x.nonExchange + 1 }
          if 256 ≤ x.nonExchange + 1 then s1.endList n 0x03 else s1.evalOrders n e p k f
        else
          match s.orderElems e bs with
          | .inr (.freeze pa) => s.freezeMaster (.pathEngine e) pa
          | .inr (.code c) => s.endList n c
          | .inl elems =>
            let out : Bool := op = 2 || op = 3
            match (pieces elems 0 (leAt bs 4 4)).find? fun q => out && !s.fwRange (.pathEngine e) q.1 q.2 needR with
            | some q => s.freezeMaster (.pathEngine e) (s.fwDenied (.pathEngine e) q.1 q.2 needR)
            | none => s.sendExchange n e p k x.nextOrder bs elems

/-- The engine takes the next order of a subchannel, when nothing holds it back: the claim, the acknowledgement of the
last record (R372), the engine's and the parcel's limits (R369, R501); an ESTABLISH goes first where R387 asks.  DESIGN
CHOICE (log entry 114): a running subchannel leaves here an active path whose PATH_ON has been cleared. -/
def State.orderEvaluation (s : State) (n : Sc) : State :=
  let x := s.sc n.val
  match x.active, x.holder with
  | some k, some e =>
    match s.scPort n k.val with
    | none => s
    | some p =>
      if x.st ≠ .running || x.exch.isSome || x.sent.isSome || x.post.isSome || x.handoverTo.isSome ||
          s.scPe n k.val ≠ some e || !s.peStarts e then s
      else if s.fld (.scCfg n) (16 + k.val) (16 + k.val) = 0 then s.takeOver n
      else if !s.pathUp n k.val || !s.creditLeft n then s
      else if !s.peTurn n e then s.peWait n e
      else
      let s := s.peLeave n e
      if x.needEstablish then
        let ex : Exchange :=
          { path := k, order := 0, op := 0, tag := s.scNextTag n, claim := s.scClaimNo n, count := 0, elems := []
            shortOk := false, last := false, received := 0, establishing := true, addrError := false, aborted := none }
        (s.setSc n.val { x with exch := some ex }).sendSeq p
          [mkFrame fEstablish 0 n.val (s.fld (.scCfg n) 15 0) (s.scClaimNo n) (s.scNextTag n)
            (BitVec.ofNat 64 (s.scSeq n)) []]
      else s.evalOrders n e p k 257
  | _, _ => s

/-! ### Frames received (R366, R370, R383 to R387, R415) -/

/-- Subchannel a frame names. -/
def frameSc (f : Frame) : Option Sc := fin? 262144 (f.subch.toNat % 2 ^ 18)

/-- A frame command acts on the frame that the link delivered longest ago, when it has the command's type (R420). -/
def State.frameDue (s : State) (p : Port) (f : Frame) (type : Byte) : Bool :=
  (s.port p.val).rxQueue.head? == some f && f.type == type

/-- The same for a REJECT with reason `r`. -/
def State.rejectDue (s : State) (p : Port) (f : Frame) (r : Word) : Bool :=
  s.frameDue p f fReject && f.param == r && f.payload.isEmpty

/-- The frame is one that a control unit may send to the channel layer (Table 14.9). -/
def frameKnown (f : Frame) : Bool :=
  f.type = fData || f.type = fEnd || f.type = fEstablished ||
    (f.type = fReject && (f.param = 1 || f.param = 2 || f.param = 3) && f.payload.isEmpty)

/-- Take an accepted frame off the port's list for the channel layer. -/
def State.takeFrame (s : State) (p : Port) (f : Frame) : State :=
  s.modPort p.val fun x => { x with rxQueue := x.rxQueue.erase f }

/-- The exchange a frame of port `p` belongs to: claim and tag must be those of the exchange in flight on that port
(R370, R415). -/
def State.frameExch (s : State) (p : Port) (f : Frame) : Option (Sc × Exchange) :=
  (frameSc f).bind fun n =>
    let x := s.sc n.val
    (x.exch.filter fun e => s.scPort n e.path.val = some p && e.tag = f.tag && e.claim = f.claim &&
      s.scClaimNo n = f.claim && x.holder.isSome).map fun e => (n, e)

/-- Reserved header fields of a frame from the control unit that are not 0. -/
def frameReserved (f : Frame) : Bool := f.rsvd ≠ 0 || f.subch.toNat / 2 ^ 18 ≠ 0 || f.flags.toNat / 8 ≠ 0

/-- The frame comes after the END of the exchange that ended last (R415). -/
def State.frameAfterEnd (s : State) (p : Port) (f : Frame) : Option Sc :=
  (frameSc f).filter fun n =>
    let x := s.sc n.val
    x.exch.isNone && x.st == .running && x.post.isNone && x.lastTag = f.tag && s.scClaimNo n = f.claim &&
      (match x.active with | some k => s.scPort n k.val = some p | none => false)

/-- What a frame does to the exchange it belongs to; frames of no exchange are discarded, one after the END ends the
list (R415). -/
def State.onExchange (s : State) (p : Port) (f : Frame) (k : State → Sc → Exchange → State) : State :=
  let s1 := s.takeFrame p f
  match s1.frameExch p f with
  | some (n, e) => if frameReserved f then s1.endList n 0x06 else k s1 n e
  | none =>
    match s1.frameAfterEnd p f with
    | some n => s1.endList n 0x06
    | none => s1

/-- A frame of a type that is never expected, or a REJECT with a reason outside Table 14.9, ends the list (R415). -/
def State.onUnknown (s : State) (p : Port) (f : Frame) : State := s.onExchange p f fun s n _ => s.endList n 0x06

/-- Write incoming bytes into the scatter pieces for the engine. -/
def State.scatterWrite (s : State) (e : Pe) : List (Nat × Nat) → List Byte → State
  | [], _ => s
  | (a, n) :: t, bs => (s.invWriteBytes (.pathEngine e) a (bs.take n)).scatterWrite e t (bs.drop n)

/-- The engine that a DATA frame of port `p` comes to, and the pieces of memory that it writes. -/
def State.dataReach (s : State) (p : Port) (f : Frame) : Option (Pe × List (Nat × Nat)) :=
  (s.frameExch p f).bind fun r =>
    (s.sc r.1.val).holder.map fun e => (e, pieces r.2.elems (f.param.toNat % 2 ^ 25) f.payload.length)

/-- A DATA frame of a READ or SENSE: contiguous, within COUNT (R385, R415). -/
def State.onData (s : State) (p : Port) (f : Frame) : State :=
  s.onExchange p f fun s n ex =>
    let off := f.param.toNat % 2 ^ 25
    let len := f.payload.length
    if ex.establishing || !(ex.op = 1 || ex.op = 4) || f.param.toNat / 2 ^ 25 ≠ 0 || off ≠ ex.received || len = 0 ||
        ex.count < off + len then s.endList n 0x06
    else
      match (s.sc n.val).holder with
      | none => s
      | some e =>
        let ps := pieces ex.elems off len
        match ps.find? fun q => !s.fwRange (.pathEngine e) q.1 q.2 needW with
        | some q => (s.modSc n.val fun x => { x with exch := none }).freezeMaster (.pathEngine e)
            (s.fwDenied (.pathEngine e) q.1 q.2 needW)
        | none =>
          let bad := ps.any fun q => !s.rangeReachable q.1 q.2
          let s1 := if ex.addrError || bad then s else s.scatterWrite e ps f.payload
          s1.modSc n.val fun x =>
            { x with exch := some { ex with received := ex.received + len, addrError := ex.addrError || bad } }

/-- The code with which an ended exchange ends the list, if it does (R365, R366, R392). -/
def endCode (clearing : Bool) (ex : Exchange) (devstat : Byte) (residual : Nat) : Option Byte :=
  if clearing then some 0x08
  else
    match ex.aborted with
    | some c => some c
    | none =>
      if ex.addrError then some 0x05
      else if devstat.getLsbD 0 then some 0x01
      else if residual ≠ 0 && !ex.shortOk then some 0x02
      else if ex.last then some 0x00
      else none

/-- An END closes the exchange (R366, R370, R371).  A frozen engine mirrors nothing and will send it again (R393). -/
def State.onEnd (s : State) (p : Port) (f : Frame) : State :=
  s.onExchange p f fun s n ex =>
    let x := s.sc n.val
    match x.holder with
    | none => s
    | some e =>
      let done := f.param.toNat / 2 ^ 16 % 2 ^ 25
      let dev : Byte := f.param.setWidth 8
      let inbound : Bool := ex.op = 1 || ex.op = 4
      let s0 := if frameReplay f then s.bump (.peCount e) 15 0 1 else s
      if (s.pe e.val).frozen then s0.setSc n.val { x with exch := none }
      else if ex.establishing || f.param.toNat / 2 ^ 41 ≠ 0 || f.param.toNat / 2 ^ 8 % 2 ^ 8 ≠ 0 || f.payload ≠ [] ||
          ex.count < done || (inbound && done ≠ ex.received) then
        (s0.setSc n.val { x with orderSent := false, lastTag := ex.tag }).endList n 0x06
      else
        let residual := ex.count - done
        let s1 := (s0.setFld (.scStatus n) 31 0 (s.scSeq n + 1)).bump (.peCount e) 63 32 1
        let s2 := s1.setSc n.val
          { x with exch := none, orderSent := false, lastTag := ex.tag, lastOrder := ex.order
                   lastResidual := BitVec.ofNat 32 residual, lastDevstat := dev, moved := x.moved + BitVec.ofNat 64 done
                   nextOrder := x.nextOrder + 32, nonExchange := 0 }
        match endCode x.clearing ex dev residual with
        | some c => s2.endList n c
        | none => s2.mirror n recCycle 0

/-- ESTABLISHED answers an ESTABLISH (R387). -/
def State.onEstablished (s : State) (p : Port) (f : Frame) : State :=
  s.onExchange p f fun s n ex =>
    if !ex.establishing || f.param ≠ BitVec.ofNat 64 (s.scSeq n) || f.payload ≠ [] then s.endList n 0x06
    else s.modSc n.val fun x => { x with exch := none, needEstablish := false }

/-- REJECT STALE_CLAIM stops the subchannel as if revoked (R383). -/
def State.onStale (s : State) (p : Port) (f : Frame) : State :=
  s.onExchange p f fun s n _ =>
    let e := (s.sc n.val).holder
    (s.modSc n.val fun x => { x with exch := none, holder := none, post := none }).chFault n e 0x4A clsNote

/-- REJECT SEQ_ERROR ends the list with PROTOCOL_CHECK; the ORDER was not executed (R384, R385). -/
def State.onSeqError (s : State) (p : Port) (f : Frame) : State :=
  s.onExchange p f fun s n _ => (s.modSc n.val fun x => { x with orderSent := false }).endList n 0x06

/-- REJECT NOT_ESTABLISHED ends the list with CU_STATE_LOST (R386, R387). -/
def State.onNotEstablished (s : State) (p : Port) (f : Frame) : State :=
  s.onExchange p f fun s n _ => (s.modSc n.val fun x => { x with orderSent := false }).endList n 0x07

/-! ### Other events -/

/-- An exchange, or an ESTABLISH, took longer than 2^ORDER_TO µs: its path fails (R367). -/
def State.orderTimeout (s : State) (n : Sc) : State :=
  match (s.sc n.val).exch with
  | some e => s.pathFail n e.path
  | none => s

/-- The standby engine receives the record on its way: checks it and stores it (R372). -/
def State.mirrorRecord (s : State) (n : Sc) (r : MirrorRec) (check : Word) : State :=
  let x := s.sc n.val
  match x.standby with
  | some k =>
    if x.sent = some r && check = recCheck r && s.itLive (s.pathTile n k.val) then
      (s.storeRec n (s.pathTile n k.val) r).modSc n.val fun y => { y with stored := true }
    else s
  | none => s

/-- The acknowledgement reaches the running engine (R372). -/
def State.mirrorAck (s : State) (n : Sc) : State :=
  if (s.sc n.val).stored then s.modSc n.val fun x => { x with sent := none, stored := false } else s

/-- Heartbeats of one engine to the standbys of what it runs, with FROZEN while it is frozen (R373). -/
def State.heartbeat (s : State) (e : Pe) : State :=
  let fr := (s.pe e.val).frozen
  { s with scs := s.scs.map fun c =>
      if c.2.holder = some e && c.2.standby.isSome then (c.1, { c.2 with beatFrozen := fr }) else c }

/-- 50 µs without a record or heartbeat, and no FROZEN one current: the standby takes over (R379). -/
def State.heartbeatTimeout (s : State) (n : Sc) : State :=
  let x := s.sc n.val
  match x.standby with
  | some k =>
    if (x.st == .running || x.st == .clearing) && !x.beatFrozen && x.handoverTo.isNone && s.pathUsable n k.val then
      (s.setSc n.val { x with handoverTo := some (k, false) }).askClaim n k
    else s
  | none => s

/-- A HANDOVER reaches its engine, which asks for the claim (R379, R388). -/
def State.handover (s : State) (n : Sc) : State :=
  let x := s.sc n.val
  match x.handoverTo with
  | some (k, _) => if x.asking.isNone then s.askClaim n k else s
  | none => s

/-- The revoked engine has stopped and acknowledges (R375). -/
def State.revocationAck (s : State) (n : Sc) : State :=
  let x := s.sc n.val
  match x.asking with
  | some e => if x.revoking then (s.setSc n.val { x with exch := none, sent := none }).grantClaim n e else s
  | none => s

/-- No acknowledgement in 20 µs: the engine is declared failed and the claim is granted (R375). -/
def State.revocationTimeout (s : State) (n : Sc) : State :=
  let x := s.sc n.val
  match x.asking, x.holder with
  | some e, some h =>
    if x.revoking then ((s.setSc n.val { x with exch := none, sent := none, holder := none }).peFail h).grantClaim n e
    else s
  | _, _ => s

/-- The writer takes the pending post when it is valid (R376). -/
def State.completionPost (s : State) (n : Sc) : State :=
  let x := s.sc n.val
  match x.post with
  | some (c, d) =>
    if x.listOpen && s.runOrQuiesce then s.admitMaster (s.scWriter n) (s.statusReach n) fun s =>
      let s1 := s.acceptCompletion n c d
      if s1.scEnabled n then s1.pathsGained n else s1
    else s
  | none => s

/-- A path has stayed healthy for HOLDOFF × 100 ms (R367). -/
def State.holdoffExpiry (s : State) (n : Sc) (k : Fin 8) : State :=
  if (s.sc n.val).holdoff.getLsbD k && s.pathUp n k.val then
    (s.modSc n.val fun x => { x with holdoff := x.holdoff &&& ~~~ BitVec.ofNat 8 (2 ^ k.val) }).pathsGained n
  else s

/-- A list parked for NO_PATH for PARK_LIMIT ms ends (R390). -/
def State.parkExpiry (s : State) (n : Sc) : State :=
  let x := s.sc n.val
  if x.st == .parked && x.parkCause = 1 && x.listOpen then s.admitMaster (s.scWriter n) (s.statusReach n) fun s =>
    ((s.setSc n.val { x with asking := none, handoverTo := none }).acceptCompletion n 0x09 x.orderSent).chFault n none
      0x4C clsContained
  else s

def State.setMirror (s : State) (b : BitVec 2) : State := { s with mirrorUp := b }

/-- A mirror link goes down; its messages go over the mesh unchanged (R373; log entry 20 for the source). -/
def State.mirrorLink (s : State) (pair : Fin 2) (up : Bool) : State :=
  if s.mirrorUp.getLsbD pair == up then s
  else
    let b : BitVec 2 := BitVec.ofNat 2 (2 ^ pair.val)
    let s1 := (s.setMirror (if up then s.mirrorUp ||| b else s.mirrorUp &&& ~~~ b)).refreshStandbys
    if up then s1 else s1.report (peSrc (64 * pair.val)) 0x4E clsContained 0

/-! ### The commands -/

/-- SC_CFG (R360). -/
def execScCfgWrite (m : Master) (sc : Sc) (value : Word) (s : State) : Outcome State Fault Refusal :=
  .next (s.scCfgW m sc (CsReg.scCfg sc).addr value).settleMode
/-- SC_START (R361). -/
def execScStart (m : Master) (sc : Sc) (value : Word) (s : State) : Outcome State Fault Refusal :=
  .next (s.scStartW m sc (CsReg.scStart sc).addr value)
/-- SC_CTL CLEAR (R392). -/
def execScClear (m : Master) (sc : Sc) (s : State) : Outcome State Fault Refusal :=
  .next (s.scCtlW m sc (CsReg.scCtl sc).addr 1)
/-- The engine evaluates the next order (R363). -/
def execOrderEvaluation (sc : Sc) (s : State) : Outcome State Fault Refusal :=
  .next (s.orderEvaluation sc).settleMode
/-- DATA (R415). -/
def execDataFrame (p : Port) (f : Frame) (s : State) : Outcome State Fault Refusal :=
  .next (if !s.frameDue p f fData then s else (match s.dataReach p f with
    | some (e, ps) => s.admitMaster (.pathEngine e) (if ps.all fun q => s.fwRange (.pathEngine e) q.1 q.2 needW then puts ps else [])
        fun s => s.onData p f
    | none => s.onData p f).settleMode)
/-- END (R366). -/
def execEndFrame (p : Port) (f : Frame) (s : State) : Outcome State Fault Refusal :=
  .next (if s.frameDue p f fEnd then s.onEnd p f else s)
/-- ESTABLISHED (R387). -/
def execEstablishedFrame (p : Port) (f : Frame) (s : State) : Outcome State Fault Refusal :=
  .next (if s.frameDue p f fEstablished then s.onEstablished p f else s)
/-- REJECT STALE_CLAIM (R383). -/
def execStaleClaim (p : Port) (f : Frame) (s : State) : Outcome State Fault Refusal :=
  .next (if s.rejectDue p f 1 then s.onStale p f else s)
/-- REJECT SEQ_ERROR (R385). -/
def execSeqError (p : Port) (f : Frame) (s : State) : Outcome State Fault Refusal :=
  .next (if s.rejectDue p f 2 then s.onSeqError p f else s)
/-- REJECT NOT_ESTABLISHED (R387). -/
def execNotEstablished (p : Port) (f : Frame) (s : State) : Outcome State Fault Refusal :=
  .next (if s.rejectDue p f 3 then s.onNotEstablished p f else s)
/-- The exchange timeout (R367). -/
def execOrderTimeout (sc : Sc) (s : State) : Outcome State Fault Refusal := .next (s.orderTimeout sc).settleMode
/-- A mirror record arrives at the standby (R372). -/
def execMirrorRecord (sc : Sc) (r : MirrorRec) (check : Word) (s : State) : Outcome State Fault Refusal :=
  .next (s.mirrorRecord sc r check)
/-- Its acknowledgement arrives (R372). -/
def execMirrorAck (sc : Sc) (s : State) : Outcome State Fault Refusal := .next (s.mirrorAck sc)
/-- Heartbeats (R373). -/
def execHeartbeat (e : Pe) (s : State) : Outcome State Fault Refusal := .next (s.heartbeat e)
/-- Missing heartbeats (R379). -/
def execHeartbeatTimeout (sc : Sc) (s : State) : Outcome State Fault Refusal := .next (s.heartbeatTimeout sc).settleMode
/-- HANDOVER (R379). -/
def execHandover (sc : Sc) (s : State) : Outcome State Fault Refusal := .next (s.handover sc)
/-- A claim request at the writer (R375). -/
def execClaimRequest (sc : Sc) (e : Pe) (s : State) : Outcome State Fault Refusal := .next (s.claimRequest sc e)
/-- The revoked engine's acknowledgement (R375). -/
def execRevocationAck (sc : Sc) (s : State) : Outcome State Fault Refusal := .next (s.revocationAck sc)
/-- The revoked engine is silent (R375). -/
def execRevocationTimeout (sc : Sc) (s : State) : Outcome State Fault Refusal := .next (s.revocationTimeout sc).settleMode
/-- A completion post reaches the writer (R376, R377). -/
def execCompletionPost (sc : Sc) (s : State) : Outcome State Fault Refusal := .next (s.completionPost sc)
/-- A mirror link goes down (R373). -/
def execMirrorLinkDown (pair : Fin 2) (s : State) : Outcome State Fault Refusal := .next (s.mirrorLink pair false)
/-- A mirror link comes up (R373). -/
def execMirrorLinkUp (pair : Fin 2) (s : State) : Outcome State Fault Refusal := .next (s.mirrorLink pair true)
/-- End of a hold-off (R367). -/
def execPathHoldoffExpiry (sc : Sc) (path : Fin 8) (s : State) : Outcome State Fault Refusal :=
  .next (s.holdoffExpiry sc path).settleMode
/-- End of the park limit (R390). -/
def execParkExpiry (sc : Sc) (s : State) : Outcome State Fault Refusal := .next (s.parkExpiry sc)
/-- An engine's internal fault (R395). -/
def execPeInternalFault (e : Pe) (s : State) : Outcome State Fault Refusal := .next (s.peFail e).settleMode

end Sys2Proof.Machine
end

