-- ==== Sys2Proof/Machine/Ddr.lean ====
section
/-! DEFINITION. DDR5 memory controllers (chapter 11). -/

namespace Sys2Proof.Machine

open Host (Outcome)

/-! ### Placement (R312, R313) -/

/-- Where a tile offset lies on its channel. -/
structure DramPos where
  sub : Nat
  rank : Nat
  bg : Nat
  bank : Nat
  row : Nat
  col : Nat
  deriving DecidableEq, Repr

/-- Bank group, column, rank, row and bank from the line index `j` of R312. -/
def dramPos (j rb sub : Nat) : DramPos :=
  let row := j / 2 ^ (12 + rb)
  { sub := sub, bg := j % 8, col := 16 * (j / 8 % 128), rank := if rb = 0 then 0 else j / 2 ^ 12 % 2 ^ rb
    row := row, bank := (j / 2 ^ 10 % 4) ^^^ (row % 4) }

/-- Position of a tile offset, in the mode of its tile. -/
def State.posOf (s : State) (t off : Nat) : DramPos :=
  let rb := ((s.chan (s.chanOf t off)).dimm).elim 0 fun d => d.rankBits.val
  if (s.map t).stripe then dramPos (off / 256 / 2) rb (off / 256 % 2)
  else dramPos (off / 128 / 5) rb (off / 64 % 2)

/-- Bank number within a channel. -/
def DramPos.bankNo (p : DramPos) : Nat := p.rank * 32 + p.bg * 4 + p.bank

/-- Tile and offset of a line served by the channel: its own in independent mode, its group's in stripe mode. -/
def State.onChannel (s : State) (c : Chan) (l : LineNo) : Option (Nat × Nat) :=
  match s.place (lineAddr l) with
  | .dram t off =>
    if t = c.val / 5 && ((s.map t).stripe || s.chanOf t off = c.val) then some (t, off) else none
  | _ => none

/-- The channel whose MC_RHCTL and MC_PWR govern channel `c` (R331). -/
def State.governs (s : State) (c : Chan) : Chan :=
  if (s.map (c.val / 5)).stripe then ⟨c.val / 5 * 5, by omega⟩ else c

def ddrSrc (c : Chan) : Nat := srcId (1 + c.val / 5) 0x07 (c.val % 5)

/-! ### Log (R329) -/

/-- A log entry: kind, burst address, syndrome, position. -/
def errWords (kind addr synd : Nat) (p : DramPos) : Word × Word :=
  (BitVec.ofNat 64 (2 ^ 63 + kind * 2 ^ 59 + addr / 64 * 64 % 2 ^ 52),
   BitVec.ofNat 64 (synd * 2 ^ 32 + p.sub * 2 ^ 29 + p.rank % 4 * 2 ^ 27 + p.bg * 2 ^ 24 + p.bank * 2 ^ 22 + p.row % 2 ^ 17))

/-- Append to the 16-entry log of a channel. -/
def State.errLog (s : State) (c : Chan) (e : Word × Word) : State :=
  let log := (s.chan c.val).errlog
  if log.length < 16 then s.modChan c.val fun x => { x with errlog := log ++ [e] }
  else (s.modChan c.val fun x => { x with errlog := log.drop 1 ++ [e] }).bump (.mcErrcnt c) 7 0 1

/-! ### Activation, row-hammer mitigation (R320, R321) -/

/-- One step of the LFSR of x^32 + x^22 + x^2 + x + 1 (log entry 23 for the direction). -/
def lfsrStep (x : BitVec 32) : BitVec 32 := if x.msb then (x <<< 1) ^^^ 0x00400007#32 else x <<< 1

/-- RFM is in use (MC_RHCTL.RFM_ON). -/
def State.rfmOn (s : State) (c : Chan) : Bool :=
  ((s.chan c.val).dimm).any (fun d => d.rfmRequired) || s.fld (.mcRhctl (s.governs c)) 31 31 = 1

/-- Rows of a bank, from the channel's capacity and the placement of R312: line index `j` runs over its lines, and row `j div
2^(12 + rb)`. -/
def Dimm.rows (d : Dimm) : Nat := d.cap64k * 512 / 2 ^ (12 + d.rankBits.val)

/-- The rows next to row `r` of a bank of `n` rows; those that do not exist are skipped (R320). -/
def neighbourRows (r n : Nat) (two : Bool) : List Nat :=
  ((if r = 0 then [] else [r - 1]) ++ [r + 1] ++ (if two then (if r < 2 then [] else [r - 2]) ++ [r + 2] else [])).filter (· < n)

/-- What a refresh or a refresh management takes off a bank's activation count (R321). -/
def ChanSt.raaDown (x : ChanSt) (b : Nat) : ChanSt :=
  { x with raa := Table.set 0 x.raa b (Table.get 0 x.raa b - (x.dimm.elim 0 fun d => d.raaimt)) }

/-- The bank is refreshed, with what was postponed (R319). -/
def ChanSt.refreshed (x : ChanSt) (b : Nat) : ChanSt :=
  { x.raaDown b with postponed := Table.set 0 x.postponed b 0, openRow := Table.set none x.openRow b none }

/-- Perform the oldest pending neighbour refresh of a bank. -/
def State.nbrRefresh (s : State) (c : Chan) (b : Nat) : State :=
  let x := s.chan c.val
  match Table.get [] x.neighbours b with
  | [] => s
  | _ :: rest =>
    (s.setChan c.val
      { x with neighbours := Table.set [] x.neighbours b rest, raa := Table.set 0 x.raa b (Table.get 0 x.raa b + 1)
               openRow := Table.set none x.openRow b none }).bump (.mcRhctl c) 63 32 1

/-- A bank with 4 pending neighbour refreshes performs one before each demand ACTIVATE; the four of a wide draw fit
when they are pending. -/
def State.makeNbrRoom (s : State) (c : Chan) (b room : Nat) : Nat → State
  | 0 => s
  | n + 1 =>
    if (Table.get [] (s.chan c.val).neighbours b).length + room ≤ 4 then s
    else (s.nbrRefresh c b).makeNbrRoom c b room n

/-- What takes precedence over every request to a bank: postponed refreshes, its pending neighbour refreshes, and the
refresh management of a bank that has reached RAAMMT (R318, R319, R321). -/
def State.bankDue (s : State) (c : Chan) (b : Nat) : State :=
  let x := s.chan c.val
  let s1 := if 0 < Table.get 0 x.postponed b then s.setChan c.val (x.refreshed b) else s
  let s2 := s1.makeNbrRoom c b 4 4
  let y := s2.chan c.val
  if s2.rfmOn c && (y.dimm.any fun d => 0 < d.raammt && d.raammt ≤ Table.get 0 y.raa b) then
    s2.setChan c.val { y.raaDown b with openRow := Table.set none y.openRow b none }
  else s2

/-- Open row `r` of bank `b` for a read, a write or a patrol read, after what takes precedence there: an ACTIVATE when it is
not open. -/
def State.activate (s : State) (c : Chan) (b r : Nat) : State :=
  let s1 := s.bankDue c b
  if Table.get none (s1.chan c.val).openRow b = some r then s1
  else
    let rh : CsReg := .mcRhctl (s.governs c)
    let two := s.fld rh 16 16 = 1
    let x := s1.chan c.val
    let on := s1.fld rh 0 0 = 1
    let lf := if on then lfsrStep x.lfsr else x.lfsr
    let k := s1.fld rh 12 8
    let s2 := s1.setChan c.val
      { x with openRow := Table.set none x.openRow b (some r), raa := Table.set 0 x.raa b (Table.get 0 x.raa b + 1), lfsr := lf }
    if on && lf.toNat % 2 ^ k = 0 then
      let rows := neighbourRows r (x.dimm.elim 0 Dimm.rows) two
      let s3 := s2.makeNbrRoom c b rows.length 4
      s3.modChan c.val fun y => { y with neighbours := Table.set [] y.neighbours b (Table.get [] y.neighbours b ++ rows) }
    else s2

/-- Channels of a stripe group that the bursts at a tile offset lie on: both data channels of the line and the parity
channel, or all five; in independent mode, the line's own (R312, R313, R317). -/
def State.burstChans (s : State) (c : Chan) (off : Nat) (all : Bool) : List Chan :=
  if (s.map (c.val / 5)).stripe then
    (List.finRange 20).filter fun k => k.val / 5 = c.val / 5 && (s.chan k.val).issues &&
      (all || k.val % 5 = off / 256 / 2 % 5 || (dataChans (c.val / 5) off).contains k.val)
  else [c]

/-- Open the row of a tile offset on every channel its bursts lie on. -/
def State.activateAll (s : State) (c : Chan) (off : Nat) (p : DramPos) (all : Bool) : State :=
  (s.burstChans c off all).foldl (fun s k => s.activate k p.bankNo p.row) s

/-! ### Reads and their errors (R315, R317, R324, R325) -/

/-- What a DRAM read of a line does to its location and the counters (Table 11.5); `kind` is the log kind of an
uncorrectable read, whose syndrome is free where the event gives none; beside a FAILED channel one more uncorrectable burst
makes the read uncorrectable (R326). -/
def State.dramRead (s : State) (c : Chan) (l : LineNo) (off : Nat) (kind : Nat) (ev : DramEvent) : State :=
  let t := c.val / 5
  let a := lineAddr l
  let stripe := (s.map t).stripe
  let lost (s : State) (syn : Nat) (burst : Bool) : State :=
    let s1 := ((s.setPoison l true).bump (.mcErrcnt c) 47 32 1).errLog c (errWords kind a syn (s.posOf t off))
    let s2 := if burst && stripe then s1.report (ddrSrc c) 0x33 clsCorrected a else s1
    s2.report (ddrSrc c) 0x32 clsContained a
  let drawn (s : State) (burst : Bool) : State := lost s.draw.2 (bits s.draw.1 31 0) burst
  if !stripe && !s.dramGood t off then s.bump (.mcErrcnt c) 47 32 1
  else if s.isPoison l || s.rebuiltPoison t l off then s.bump (.mcErrcnt c) 31 16 1
  else if !s.dramGood t off then drawn s false
  else
    match ev with
    | .ok => s
    | .corrected ue =>
      if ue && stripe && (List.range 5).any fun i => s.chanFailed (5 * t + i) then drawn s true
      else
        let s1 := (s.bump (.mcErrcnt c) 63 48 1).report (ddrSrc c) 0x31 clsCorrected a
        if ue && stripe then s1.report (ddrSrc c) 0x33 clsCorrected a else s1
    | .uncorrectable syn => lost s syn.toNat true

/-- Pair buffer of a stripe tile: 64 lines, least recently used first (R317). -/
def pbUse (b : List LineNo) (l : LineNo) : List LineNo :=
  let b1 := (b.filter (· ≠ l)) ++ [l]
  if b1.length ≤ 64 then b1 else b1.drop 1

/-- A burst is counted toward a parcel's share (R499). -/
def ChanSt.count (x : ChanSt) (p : Option Parcel) (n : Nat) : ChanSt :=
  { x with burstTotal := x.burstTotal + n
           served := match p with | some q => Table.set 0 x.served q.val (Table.get 0 x.served q.val + n) | none => x.served }

/-- Reads that wait in the read queue that serves the lines of channel `c`, and its size (R314). -/
def State.rqLen (s : State) (c : Nat) : Nat :=
  if (s.map (c / 5)).stripe then (List.range 5).foldl (fun n i => n + (s.chan (c / 5 * 5 + i)).readQ.length) 0
  else (s.chan c).readQ.length
def State.rqMax (s : State) (c : Nat) : Nat := if (s.map (c / 5)).stripe then 480 else 96

/-- A line read is issued to DRAM: in stripe mode it fetches the whole pair, and the companion goes to the pair buffer
(R317). -/
def State.issueRead (s : State) (c : Chan) (t off : Nat) (l : LineNo) (ev : DramEvent) : State :=
  let s1 := (s.activateAll c off (s.posOf t off) true).dramRead c l off 1 ev
  if (s.map t).stripe then s1.modMap t fun m => { m with pairBuf := pbUse m.pairBuf (companion l off) } else s1

/-- A line write is issued to DRAM: a partial one, and one in stripe mode whose companion no buffer holds, reads first
(R316, R317). -/
def State.issueWrite (s : State) (c : Chan) (t off : Nat) (e : WqEntry) : State :=
  let part := e.mask ≠ fullMask
  let x := s.chan (s.chanOf t off)
  let held := (s.map t).pairBuf.contains (companion e.line off) ||
    x.writeQ.any fun y => y.line = companion e.line off && y.mask = fullMask
  let s1 := s.activateAll c off (s.posOf t off) (part || !held)
  (if part then s1.dramRead c e.line off 1 e.ev else s1).dramApply e

/-- A line read reaches the controller. -/
def State.mcReadOp (s : State) (c : Chan) (l : LineNo) (p : Option Parcel) (ev : DramEvent) : State :=
  match s.onChannel c l with
  | none => s
  | some (t, off) =>
    let lead : Nat := s.chanOf t off
    let x := s.chan lead
    let whole := (x.writeQ.filter fun e => e.line = l).any fun e => e.mask = fullMask
    let stripe := (s.map t).stripe
    if whole then s
    else if stripe && (s.map t).pairBuf.contains l then s.modMap t fun m => { m with pairBuf := pbUse m.pairBuf l }
    else if !s.chanIssues lead && x.st != .failed then
      (if s.rqLen lead < s.rqMax lead then s.setChan lead { x with readQ := x.readQ ++ [l] } else s)
    else (s.issueRead c t off l ev).modChan c.val fun y => y.count p 1

/-- A line write reaches the controller (R315, R316); an update of a copy in the pair buffer goes with it, for that holds
lines by number. -/
def State.mcWriteOp (s : State) (c : Chan) (e : WqEntry) (p : Option Parcel) : State :=
  match s.onChannel c e.line with
  | none => s
  | some (t, off) =>
    if s.wqFull e.line then s
    else
      let s1 := if s.chanIssues (s.chanOf t off) then s.issueWrite c t off e else s.mcAccept t off e
      s1.modChan c.val fun y => y.count p (if e.mask = fullMask then 1 else 2)

/-! ### The scheduler (R318) -/

/-- The first request of a queue whose row is open, else the oldest. -/
def State.pick {α : Type} (s : State) (line : α → LineNo) (q : List α) : Option α :=
  let opened (e : α) : Bool := match s.place (lineAddr (line e)) with
    | .dram t off =>
      let pos := s.posOf t off
      Table.get none (s.chan (s.chanOf t off)).openRow pos.bankNo = some pos.row
    | _ => false
  (q.find? opened).or q.head?

/-- Serve the requests that wait on a channel whose scheduler issues: reads first, but for a drain, which starts when 48
writes wait or no read does, and ends when at most 16 wait and a read does (R318). -/
def State.issueOp (c : Chan) : Nat → Bool → State → State
  | 0, _, s => s
  | n + 1, drain, s =>
    let x := s.chan c.val
    let drain := if x.readQ.isEmpty then true
      else if drain then decide (16 < x.writeQ.length)
      else decide (48 ≤ x.writeQ.length)
    if drain then
      match s.pick WqEntry.line x.writeQ with
      | none => s
      | some e =>
        let s1 := s.modChan c.val fun y => { y with writeQ := y.writeQ.erase e }
        State.issueOp c n drain (match s1.onChannel c e.line with
          | some (t, off) => s1.issueWrite c t off e
          | none => s1.dramApply e)
    else
      match s.pick id x.readQ with
      | none => s
      | some l =>
        let s1 := s.modChan c.val fun y => { y with readQ := y.readQ.erase l }
        State.issueOp c n drain (match s1.onChannel c l with
          | some (t, off) => s1.issueRead c t off l .ok
          | none => s1)

/-- The channels that the scheduler of channel `c` serves (R314). -/
def State.schedulerOf (s : State) (c : Chan) : List Chan :=
  if (s.map (c.val / 5)).stripe then (List.finRange 20).filter fun k => k.val / 5 = c.val / 5 else [c]

/-- The queues of the channels that a scheduler serves empty, once it issues. -/
def State.drainChan (s : State) (c : Chan) : State :=
  (s.schedulerOf c).foldl (fun s k =>
    if s.chanIssues k.val then State.issueOp k ((s.chan k.val).readQ.length + (s.chan k.val).writeQ.length) false s else s) s

/-! ### Failed channels (R326) -/

/-- The channel becomes FAILED: in independent mode the reads that wait are answered poisoned and the writes discarded; in
stripe mode its group's queues go on. -/
def State.chanFail (s : State) (c : Chan) : State :=
  let stripe := (s.map (c.val / 5)).stripe
  let x := s.chan c.val
  if x.st == .failed then s
  else
    let s1 := s.setChan c.val { x with st := .failed, sr := .none, caWrite := none, openRow := [] }
    let s2 :=
      if stripe then s1.drainChan c
      else x.readQ.foldl (fun s _ => s.bump (.mcErrcnt c) 47 32 1) (s1.modChan c.val fun y => { y with writeQ := [], readQ := [] })
    s2.report (ddrSrc c) 0x34 (if stripe then clsContained else clsSevere) 0

/-! ### Patrol (R328) -/

/-- A patrol read (R328): no requester; a line with a write-queue entry is skipped. -/
def State.patrol (s : State) (c : Chan) (l : LineNo) (ev : DramEvent) : State :=
  match s.onChannel c l with
  | none => s
  | some (t, off) =>
    let x := s.chan c.val
    if s.fld (.mcPwr (s.governs c)) 15 8 = 0 || !x.issues || ((s.chan (s.chanOf t off)).writeQ.any fun e => e.line = l) then s
    else
      let pos := s.posOf t off
      (s.activate c pos.bankNo pos.row).dramRead c l off 2 ev

/-! ### Refresh (R319, R321) -/

/-- A bank's refresh is due: issued, with those postponed, when the channel issues commands; else postponed. -/
def State.refresh (s : State) (c : Chan) (b : Nat) : State :=
  let x := s.chan c.val
  if x.issues then
    s.setChan c.val (x.refreshed b)
  else if x.st == .retraining then
    s.setChan c.val { x with postponed := Table.set 0 x.postponed b (min 4 (Table.get 0 x.postponed b + 1)) }
  else s

def State.rfmOp (s : State) (c : Chan) (b : Nat) : State :=
  let x := s.chan c.val
  let n := x.dimm.elim 0 fun d => d.raaimt
  if x.issues && s.rfmOn c && n ≤ Table.get 0 x.raa b then
    s.setChan c.val { x.raaDown b with openRow := Table.set none x.openRow b none }
  else s

/-! ### Self-refresh (R322, R323) -/

def State.srEntry (s : State) (c : Chan) : State :=
  let x := s.chan c.val
  let idle := s.fld (.mcPwr (s.governs c)) 31 16 ≠ 0 && s.rqLen c.val = 0 && s.wqLen c.val = 0
  if x.issues && (idle || s.mode == .hold || s.poweringDown) then s.setChan c.val { x with sr := .entering, openRow := [] }
  else s

def State.srEntryDone (s : State) (c : Chan) : State :=
  let x := s.chan c.val
  if x.sr == .entering then s.setChan c.val { x with st := .selfRefresh, sr := .none } else s

/-- Exit begins when a request waits (R322, R323). -/
def State.srExit (s : State) (c : Chan) : State :=
  let x := s.chan c.val
  if x.st == .selfRefresh && x.sr == .none && (s.rqLen c.val ≠ 0 || s.wqLen c.val ≠ 0) then
    s.setChan c.val { x with sr := .exiting }
  else s

def State.srExitDone (s : State) (c : Chan) : State :=
  let x := s.chan c.val
  if x.sr == .exiting then
    let s1 := (s.setChan c.val { x with st := .active, sr := .none }).drainChan c
    if s.mode == .hold && s1.rqLen c.val = 0 && s1.wqLen c.val = 0 then
      (s1.schedulerOf c).foldl (fun s k =>
        s.modChan k.val fun y => if y.issues then { y with st := .selfRefresh, openRow := [] } else y) s1
    else s1
  else s

/-! ### Command/address parity and retraining (R327) -/

def State.caParity (s : State) (c : Chan) (l : LineNo) (isWrite fails : Bool) : State :=
  match s.onChannel c l with
  | none => s
  | some (t, off) =>
    let x := s.chan c.val
    if !x.issues then s
    else
      let a := lineAddr l
      let s1 := (s.bump (.mcErrcnt c) 15 8 1).report (ddrSrc c) 0x35 clsCorrected a
      if !fails then s1
      else if isWrite then
        let e : WqEntry := ⟨l, fullMask, s.memLine l, s.isPoison l, true, .ok⟩
        (s1.errLog c (errWords 4 a 0 (s.posOf t off))).modChan c.val fun y =>
          { y with st := .retraining, caWrite := some e, openRow := [] }
      else
        ((s1.errLog c (errWords 3 a 0 (s.posOf t off))).report (ddrSrc c) 0x32 clsContained a).modChan (s.chanOf t off)
          fun y => { y with caPoison := y.caPoison ++ [l] }

def State.caRetrain (s : State) (c : Chan) (ok writeOk : Bool) : State :=
  let x := s.chan c.val
  match x.caWrite with
  | none => s
  | some e =>
    if ok && writeOk then
      ((s.setChan c.val { x with st := .active, caWrite := none }).dramApply e).drainChan c
    else s.chanFail c

/-! ### Training and zeroing (R330) -/

/-- The SPDs of the tile's channels agree and Table 11.1 has their row (R307, R308). -/
def dimmOk (d : Dimm) : Bool :=
  d.density ≠ 0 && d.dpc.val ≤ d.rankBits.val + 1 && d.rankBits.val ≤ d.dpc.val &&
    ((d.kind = 1 && (d.dpc = 1 || d.dpc = 2) && 1 ≤ d.rate.val && d.rate.val ≤ 3) || (d.kind = 2 && d.dpc = 1 && 4 ≤ d.rate.val))

/-- Highest rate of the row that the SPDs support: two DIMMs per channel stop at 5,600 MT/s (Table 11.1). -/
def dimmRate (d : Dimm) : Fin 6 := if d.kind = 1 && d.dpc = 2 && d.rate.val > 2 then 2 else d.rate

def sameDimm (a b : Dimm) : Bool :=
  a.kind = b.kind && a.dpc = b.dpc && a.rankBits = b.rankBits && a.density = b.density && a.cap64k = b.cap64k

/-- Five DIMM sets of a tile meet R308. -/
def tilePopOk (l : List (Option Dimm)) : Bool :=
  l.all Option.isNone ||
    (match l.head?.join with
     | some d => l.all fun x => match x with | some e => dimmOk e && sameDimm d e | none => false
     | none => false)

/-- The SPD read at the entry to LOAD: MC_CHSTAT and the population check of every tile. -/
def State.readSpds (s : State) (dimms : List (Chan × Dimm)) : State :=
  (List.range 4).foldl (fun s t =>
    let got := (List.range 5).map fun i => (dimms.find? fun e => e.1.val = 5 * t + i).map (·.2)
    let ok := tilePopOk got
    let rate := got.foldl (fun (r : Nat) x => match x with | some d => min r (dimmRate d).val | none => r) 5
    let s1 := (List.range 5).foldl (fun s i =>
      match (got[i]?).join with
      | some d => s.setChan (5 * t + i)
          { ChanSt.init with st := if ok then .untrained else .unused, dimm := some d, rate := if ok then Fin.ofNat 6 rate else 0
                             hot := (s.chan (5 * t + i)).hot }
      | none => s.setChan (5 * t + i) ChanSt.init) s
    s1.setMap t { MapSt.init with popErr := !ok }) s

/-- At a COMPOSE entered from LOAD: the map of R308 to R310, MC_POPULATION faults, seeds, training begins. -/
def State.composeMemory (s : State) : State :=
  let s1 := (List.range 4).foldl (fun s t =>
    let stripe := s.keeper.straps.stripe.getLsbD t
    let m := s.map t
    let d := ((s.chan (5 * t)).dimm).elim 0 fun d => d.cap64k
    let g := if m.popErr then 0 else (if stripe then 4 * d else 5 * d) / 1024
    let s1 := s.setMap t { m with stripe := stripe, granules := g }
    if m.popErr then s1.report (srcId (1 + t) 0x07 0) 0x30 clsSevere 0 else s1) s
  (List.finRange 20).foldl (fun s c =>
    let x := s.chan c.val
    if x.dimm.isSome && !(s.map (c.val / 5)).popErr then
      { s with free := s.free + 1 }.setChan c.val 
        { ChanSt.init with
          st := .training, dimm := x.dimm, rate := x.rate, hot := x.hot
          lfsr := BitVec.ofNat 32 ((Config.lfsrDraw s.free).val + 1) }
    else s) s1

def State.trainingDone (s : State) (c : Chan) (ok : Bool) : State :=
  let x := s.chan c.val
  if x.st != .training then s
  else if ok then s.setChan c.val { x with st := .active }
  else
    (s.chanFail c).report (ddrSrc c) 0x36 (if (s.map (c.val / 5)).stripe then clsContained else clsSevere) 0

/-- Every location of the channel's DRAM holds zeros with correct check bits and parity; so do, in stripe mode, the
lines led by a FAILED channel, which the others rebuild (R326, R330). -/
def State.zeroChannel (s : State) (c : Chan) : State :=
  let on (a : Nat) : Bool := match s.place a with
    | .dram t off => s.chanOf t off = c.val ||
        (t = c.val / 5 && (s.map t).stripe && s.chanFailed (s.chanOf t off))
    | _ => false
  { s with mem := s.mem.filter fun e => !on e.1, poison := s.poison.filter fun l => !on (l * 128) }

def State.zeroingDone (s : State) (c : Chan) : State :=
  let x := s.chan c.val
  if s.mode == .compose && x.st == .active && !x.zeroed then (s.setChan c.val { x with zeroed := true }).zeroChannel c else s

/-! ### Registers (R331) -/

/-- A write of MC_RHCTL or MC_PWR: taken from the keeper and Polder-world accesses, refused with a note otherwise. -/
def State.mcRegW (s : State) (m : Master) (c : Chan) (r : CsReg) (v : Word) : State :=
  s.csOpen m r.addr fun s =>
    if s.privileged m then
      let w := softWrite r (s.reg r) v
      let w1 := match r with
        | .mcRhctl _ => setBits w 12 8 (max 4 (min 16 (bits w 12 8)))
        | _ => w
      s.setReg r w1
    else s.report (ddrSrc c) 0x37 clsNote r.addr

/-- A read of MC_ERRLOG0: the oldest entry leaves, its second word is latched (R329). -/
def State.errlogR (s : State) (m : Master) (c : Chan) : State :=
  s.csAccess m (CsReg.mcErrlog0 c).addr needR true fun s =>
    match (s.chan c.val).errlog with
    | [] => (s.setReg (.mcErrlog1 c) 0).respond m (.data 0)
    | e :: rest => ((s.modChan c.val fun x => { x with errlog := rest }).setReg (.mcErrlog1 c) e.2).respond m (.data e.1)

/-! ### Bandwidth windows (R499) -/

def State.shareEnd (s : State) (c : Chan) : State := s.modChan c.val fun x => { x with served := [], burstTotal := 0 }

/-! ### Commands -/

/-- A line read at a controller (R315, R317, R325). -/
def execMcRead (c : Chan) (line : LineNo) (by_ : Option Parcel) (ev : DramEvent) (s : State) : Outcome State Fault Refusal :=
  .next (s.mcReadOp c line by_ ev)
/-- A line write at a controller (R315, R316). -/
def execMcWrite (c : Chan) (line : LineNo) (mask : BitVec 128) (data : Line) (poison : Bool) (by_ : Option Parcel)
    (ev : DramEvent) (s : State) : Outcome State Fault Refusal :=
  .next (s.mcWriteOp c ⟨line, mask, data, poison, false, ev⟩ by_)
/-- A bank's refresh is due (R319). -/
def execRefreshDue (c : Chan) (bank : Fin 128) (s : State) : Outcome State Fault Refusal := .next (s.refresh c bank.val)
/-- A DIMM crosses 85 °C (R319). -/
def execDimmThermalChange (c : Chan) (hot : Bool) (s : State) : Outcome State Fault Refusal :=
  .next (s.modChan c.val fun x => if x.dimm.isSome then { x with hot := hot } else x)
/-- A neighbour refresh (R320). -/
def execNeighbourRefresh (c : Chan) (bank : Fin 128) (s : State) : Outcome State Fault Refusal :=
  .next (if (s.chan c.val).issues then s.nbrRefresh c bank.val else s)
/-- Refresh management (R321). -/
def execRfm (c : Chan) (bank : Fin 128) (s : State) : Outcome State Fault Refusal := .next (s.rfmOp c bank.val)
/-- The controller commits to self-refresh entry (R322). -/
def execSelfRefreshEntry (c : Chan) (s : State) : Outcome State Fault Refusal := .next (s.srEntry c)
/-- Entry completes (R322). -/
def execSelfRefreshEntryDone (c : Chan) (s : State) : Outcome State Fault Refusal := .next (s.srEntryDone c)
/-- SRX is issued (R322, R323). -/
def execSelfRefreshExit (c : Chan) (s : State) : Outcome State Fault Refusal := .next (s.srExit c)
/-- tXS ends and waiting requests are served (R323). -/
def execSelfRefreshExitDone (c : Chan) (s : State) : Outcome State Fault Refusal := .next (s.srExitDone c)
/-- A patrol read (R328). -/
def execPatrolRead (c : Chan) (line : LineNo) (ev : DramEvent) (s : State) : Outcome State Fault Refusal :=
  .next (s.patrol c line ev)
/-- A command/address parity error (R327). -/
def execCaParityError (c : Chan) (line : LineNo) (isWrite retryFails : Bool) (s : State) : Outcome State Fault Refusal :=
  .next (s.caParity c line isWrite retryFails)
/-- CS and CA retraining ends (R327). -/
def execCaRetrainDone (c : Chan) (ok writeOk : Bool) (s : State) : Outcome State Fault Refusal :=
  .next (s.caRetrain c ok writeOk)
/-- A channel's training ends (R330). -/
def execDdrTrainingDone (c : Chan) (ok : Bool) (s : State) : Outcome State Fault Refusal := .next (s.trainingDone c ok)
/-- A channel's zeroing ends (R330). -/
def execDramZeroingDone (c : Chan) (s : State) : Outcome State Fault Refusal := .next (s.zeroingDone c)
/-- A read of MC_ERRLOG0 (R329). -/
def execMcErrlogRead (m : Master) (c : Chan) (s : State) : Outcome State Fault Refusal := .next (s.errlogR m c)
/-- The end of a bandwidth window (R499). -/
def execShareWindowEnd (c : Chan) (s : State) : Outcome State Fault Refusal := .next (s.shareEnd c)

end Sys2Proof.Machine
end

