-- ==== Sys2Proof/Machine/GroupCmd.lean ====
section
/-! DEFINITION. The commands of chapter 8: each applies one operation of Groups.lean; the mode then follows its
conditions (R64). -/

namespace Sys2Proof.Machine

open Host (Outcome)

/-- The gates of a group island work: running modes and QUIESCE, on a live tile. -/
def State.islandLive (s : State) (i : Island) : Bool := s.runOrQuiesce && s.tileLive (1 + i.val / 12)

/-- R208. -/
def execGroupTimeLoad (island : Island) (s : State) : Outcome State Fault Refusal :=
  .next (if s.islandLive island then s.modIsl island.val fun x => { x with timeReg := s.tb.ns } else s)

/-- R242, R205: a fill or grant passes the gate, whose delay register may err (R233). -/
def execFillArrival (slot : Slot) (line : LineNo) (ev : GateEvent) (s : State) : Outcome State Fault Refusal :=
  .next (if s.islandLive (hostIsland slot) then ((s.gateEvent slot ev).deliver slot line).settleMode else s)

/-- R218. -/
def execResyncWakeDone (core : Core) (s : State) : Outcome State Fault Refusal := .next (s.resyncWake core)

/-- R218, R221, R225, R229. -/
def execResyncTestDone (core : Core) (ok : Bool) (s : State) : Outcome State Fault Refusal :=
  .next (s.resyncTest core ok).settleMode

/-- R218. -/
def execResyncInvalidateDone (core : Core) (s : State) : Outcome State Fault Refusal := .next (s.resyncInvalidate core)

/-- R219, R221. -/
def execResyncMirrorDone (core : Core) (ok : Bool) (s : State) : Outcome State Fault Refusal :=
  .next (s.resyncMirror core ok).settleMode

/-- R221. -/
def execMirrorTimeout (core : Core) (s : State) : Outcome State Fault Refusal := .next (s.mirrorTimeout core).settleMode

/-- R220. -/
def execRejoin (core : Core) (s : State) : Outcome State Fault Refusal := .next (s.rejoin core).settleMode

/-- R221. -/
def execRejoinTimeout (core : Core) (s : State) : Outcome State Fault Refusal := .next (s.rejoinTimeout core).settleMode

/-- R239. -/
def execGrpResync (m : Master) (island : Island) (tcore : Fin 4) (s : State) : Outcome State Fault Refusal :=
  .next (s.grpCtlW m island tcore 1).settleMode

/-- R239. -/
def execGrpInject (m : Master) (island : Island) (tcore : Fin 4) (s : State) : Outcome State Fault Refusal :=
  .next (s.grpCtlW m island tcore 2)

/-- R239. -/
def execGrpRetireCore (m : Master) (island : Island) (tcore : Fin 4) (s : State) : Outcome State Fault Refusal :=
  .next (s.grpCtlW m island tcore 3).settleMode

/-- R229, R230, R232. -/
def execMigrationStart (lc : Lc) (s : State) : Outcome State Fault Refusal := .next (s.migrate lc).settleMode

/-- R229, R231. -/
def execMigrationComplete (lc : Lc) (s : State) : Outcome State Fault Refusal := .next (s.migrationComplete lc).settleMode

/-- R234, R235. -/
def execVoterRailFailure (island : Island) (copy : Fin 3) (s : State) : Outcome State Fault Refusal :=
  .next (s.voterFail island copy).settleMode

/-- R236. -/
def execDebugHalt (lc : Lc) (s : State) : Outcome State Fault Refusal := .next (s.debugHalt lc).settleMode

/-- R237. -/
def execDebugResume (lc : Lc) (s : State) : Outcome State Fault Refusal := .next (s.debugResume lc).settleMode

end Sys2Proof.Machine
end

