-- ==== Sys2Proof/Machine/Image.lean ====
section
/-! DEFINITION. Structure images and microcode packages: their layout, and the checks of Table 2.12 and Table 7.9
(chapter 2; R190 to R195; R396 to R399). -/

namespace Sys2Proof.Machine

/-! ### Reading bytes -/

/-- Bytes [o, o + n) are zero. -/
def zeroAt (bs : List Byte) (o n : Nat) : Bool := (slice bs o n).all fun b => b = 0

def wordsAt (bs : List Byte) (o n : Nat) : List Word := (List.range n).map fun i => BitVec.ofNat 64 (leAt bs (o + 8 * i) 8)

def round64 (n : Nat) : Nat := (n + 63) / 64 * 64

/-- Bits [hi:lo] of a word are zero. -/
def zeroBits (w : Word) (hi lo : Nat) : Bool := bits w hi lo = 0

/-- The first code whose check fails; 0 when all pass. -/
def firstFail : List (Nat × Bool) → Nat
  | [] => 0
  | (c, ok) :: t => if ok then firstFail t else c

/-! ### Layout (R30, R31, Tables 2.1 and 2.2) -/

def imgTotal (bs : List Byte) : Nat := leAt bs 0x18 4
def imgSigOff (bs : List Byte) : Nat := leAt bs 0x1C 4

/-- A directory entry: type, offset, length, digest. -/
structure DirEntry where
  type : Nat
  off : Nat
  len : Nat
  digest : BitVec 512

def dirEntries (bs : List Byte) : List DirEntry :=
  (List.range 7).map fun i =>
    let o := 0x40 + 80 * i
    ⟨leAt bs o 2, leAt bs (o + 8) 4, leAt bs (o + 12) 4, BitVec.ofNat 512 (leAt bs (o + 16) 64)⟩

def dirEntry (bs : List Byte) (t : Nat) : DirEntry := ((dirEntries bs).find? fun e => e.type = t).getD ⟨t, 0, 0, 0⟩

def secBytes (bs : List Byte) (t : Nat) : List Byte := let e := dirEntry bs t; slice bs e.off e.len

/-- The key records from offset `cur` on, and where they end. -/
def keyWalk (sec : List Byte) : Nat → Nat → List KeyRec × Nat
  | 0, cur => ([], cur)
  | n + 1, cur =>
    let len := leAt sec (cur + 2) 2
    let r : KeyRec :=
      ⟨BitVec.ofNat 8 (leAt sec cur 1), BitVec.ofNat 8 (leAt sec (cur + 1) 1), BitVec.ofNat 32 (leAt sec (cur + 4) 4),
       slice sec (cur + 8) len⟩
    let rest := keyWalk sec n (cur + 8 + (len + 7) / 8 * 8)
    (r :: rest.1, rest.2)

/-- Offset and length of each package of a microcode section, and where the last ends. -/
def pkgWalk (sec : List Byte) : Nat → Nat → List (Nat × Nat) × Nat
  | 0, cur => ([], cur)
  | n + 1, cur =>
    let o := round64 cur
    let len := leAt sec o 4
    let rest := pkgWalk sec n (o + len)
    ((o, len) :: rest.1, rest.2)

def microCount (sec : List Byte) : Nat := leAt sec 0 1 % 32

/-- Length that the content fields of a section imply (R31). -/
def impliedLen (t : Nat) (sec : List Byte) : Nat :=
  if t = 1 then 0x208 + 8 * (leAt sec 0x200 8 % 1024)
  else if t = 2 then 0x20 + 32 * (leAt sec 0 8 % 4096)
  else if t = 3 then 528
  else if t = 4 then 8 + 8 * (leAt sec 0 8 / 2 ^ 32 % 2048)
  else if t = 5 then 64
  else if t = 6 then (if sec.isEmpty then 0 else (pkgWalk sec (microCount sec) 64).2)
  else if t = 7 then (keyWalk sec (leAt sec 0 8 % 64) 8).2
  else sec.length

def entryPlaced (sig : Nat) (e : DirEntry) : Bool :=
  e.off % 64 = 0 && 0x280 ≤ e.off && e.off + e.len ≤ sig && (e.len ≠ 0 || e.type = 6)

def entriesApart : List DirEntry → Bool
  | [] => true
  | a :: t => (t.all fun b => a.len = 0 || b.len = 0 || a.off + a.len ≤ b.off || b.off + b.len ≤ a.off) && entriesApart t

/-! ### Signature block (Table 2.3) -/

def imgPub (bs : List Byte) : List Byte := slice bs (imgSigOff bs) 1793
def imgSigLen (bs : List Byte) : Nat := leAt bs (imgSigOff bs + 0x740) 2
def imgDigest (bs : List Byte) : BitVec 512 := Config.shake512 (bs.take (imgSigOff bs))

def sigOk (bs : List Byte) : Bool :=
  let s := imgSigOff bs
  let n := imgSigLen bs
  zeroAt bs (s + 0x701) 63 && zeroAt bs (s + 0xCF8) 8 && 1 ≤ n && n ≤ 1462 && zeroAt bs (s + 0x742 + n) (1462 - n) &&
    Config.falconVerify (imgPub bs) (leBytes 64 (imgDigest bs).toNat) (slice bs (s + 0x742) n)

/-! ### The contents -/

/-- The image that a byte string spells. -/
def readImage (bs : List Byte) : Image :=
  let st := secBytes bs 1
  let gr := secBytes bs 2
  let po := secBytes bs 4
  let ks := secBytes bs 7
  { seq := BitVec.ofNat 64 (leAt bs 8 8)
    secVersion := BitVec.ofNat 32 (leAt bs 0x10 4)
    pubDigest := Config.shake256 (imgPub bs)
    digest := imgDigest bs
    structDigest := (dirEntry bs 1).digest
    grantDigest := (dirEntry bs 2).digest
    worldDigest := (dirEntry bs 5).digest
    groups := wordsAt st 0 48
    parcels := wordsAt st 0x180 16
    ports := wordsAt st 0x208 (leAt st 0x200 8 % 1024)
    grants := (List.range (leAt gr 0 8 % 4096)).map fun i =>
      let o := 0x20 + 32 * i
      ⟨BitVec.ofNat 64 (leAt gr o 8), BitVec.ofNat 64 (leAt gr (o + 8) 8), BitVec.ofNat 64 (leAt gr (o + 16) 8)⟩
    qos := wordsAt (secBytes bs 3) 0 66
    policy := wordsAt po 0 (1 + leAt po 0 8 / 2 ^ 32 % 2048)
    world := wordsAt (secBytes bs 5) 0 8
    micro := secBytes bs 6
    keys := (keyWalk ks (leAt ks 0 8 % 64) 8).1 }

/-! ### Structure (R35 to R38, R399) -/

/-- Slots that a layout has (Table 2.5), and replicas of each. -/
def layoutSlots (lay : Nat) : List Nat := if lay = 0 then [0] else if lay = 1 then [0, 1] else if lay = 2 then [0, 1, 2, 3] else []
def layoutWidth (lay : Nat) : Nat := if lay = 0 then 3 else if lay = 1 then 2 else if lay = 2 then 1 else 0

/-- Core letters of a slot in order of stagger. -/
def layoutCores (lay k : Nat) : List (Fin 4) :=
  if lay = 0 then [0, 1, 2] else if lay = 1 then (if k = 0 then [0, 1] else [2, 3]) else (fin? 4 k).toList

/-- Logical core, parcel, island number and slot of every assigned slot, in order. -/
def Image.lcSlots (i : Image) : List (Nat × Nat × Nat × Nat) :=
  (List.range 48).flatMap fun g =>
    let e := wordAt i.groups g
    (layoutSlots (grpLayout e)).map fun k => (grpLc e k, grpParcel e k, g, k)

def groupEntryOk (e : Word) : Bool :=
  zeroBits e 63 56 && zeroBits e 7 3 && (grpLayout e = 0 || !grpLend e) &&
    (List.range 4).all fun k =>
      if (layoutSlots (grpLayout e)).contains k then grpLc e k ≠ 0xFF else grpLc e k = 0xFF && grpParcel e k = 0

def portWidth? (c : Nat) : Option Nat := if c ≤ 4 then some (2 ^ c) else none

/-- Rate family of a protocol (Table 14.2). -/
def protoFamily (p : Nat) : Nat := if isPcie p || isCxl p then 1 else p

def portRecOk (i : Image) (e : Word) : Bool :=
  let proto := prProtocol e
  let lane := bits e 6 0
  zeroBits e 63 27 && zeroBits e 7 7 && prWidth e ≤ 4 &&
    (if isLyvan proto then prWidth e ≤ 2
     else if isCxl proto then 2 ≤ prWidth e && prEngine e = 0
     else isPcie proto && prEngine e = 0) &&
    lane % 2 ^ prWidth e = 0 && lane + 2 ^ prWidth e ≤ 128 &&
    i.ports.all fun f =>
      let l2 := bits f 6 0
      bits f 9 8 ≠ bits e 9 8 || f = e ||
        ((lane + 2 ^ prWidth e ≤ l2 || l2 + 2 ^ prWidth f ≤ lane) &&
          (protoFamily (prProtocol f) = protoFamily proto ||
            (lane + 2 ^ prWidth e - 1) / 4 < l2 / 4 || (l2 + 2 ^ prWidth f - 1) / 4 < lane / 4))

/-- No two records of one port. -/
def portsDistinct : List Word → Bool
  | [] => true
  | a :: t => !t.contains a && portsDistinct t

def Image.structOk (i : Image) (st : List Byte) : Bool :=
  let slots := i.lcSlots
  let n := slots.length
  i.groups.all groupEntryOk && ((List.range n).all fun k => (slots.filter fun x => x.1 = k).length = 1) &&
    (slots.all fun x => i.parcelValid x.2.1) &&
    ((List.range 16).all fun p =>
      let e := wordAt i.parcels p
      zeroBits e 63 25 && zeroBits e 7 1 &&
        (if i.parcelValid p then
           (slots.any fun x => x.2.1 = p) && (slots.any fun x => x.2.1 = p && x.1 = i.serviceLc p 0) &&
             (i.serviceLc p 1 = 0xFF || slots.any fun x => x.2.1 = p && x.1 = i.serviceLc p 1)
         else e = 0)) &&
    leAt st 0x200 8 ≤ 512 && i.ports.all (portRecOk i) && portsDistinct i.ports &&
    ((List.range 128).all fun e => (i.ports.filter fun r => isLyvan (prProtocol r) && 32 * bits r 9 8 + prEngine r = e).length ≤ 4)

/-! ### Grants (R39, R40) -/

def Grant.overlaps (a b : Grant) : Bool := a.first.toNat ≤ b.last.toNat && b.first.toNat ≤ a.last.toNat

def Image.grantOk (i : Image) (g : Grant) : Bool :=
  let f := g.first.toNat
  let l := g.last.toNat
  let pages (n : Nat) : Bool := f % n = 0 && (l + 1) % n = 0
  zeroBits g.ctl 63 19 && zeroBits g.ctl 7 5 && f ≤ l && (g.owner = 16 || (g.owner < 16 && i.parcelValid g.owner)) &&
    (if g.kind = 1 then pages 4096 && l < csBase && g.rights ≠ 0
     else if g.kind = 2 then pages 4096 && l < csBase && g.rights = 0
     else if g.kind = 3 then pages 4096 && l < csBase && g.rights = 0 && g.owner = 16 && 0x200_0000 ≤ l + 1 - f
     else if g.kind = 4 then
       pages 0x1_0000 && csBase ≤ f && l < winBase 9 && 1 ≤ g.rights && g.rights ≤ 3 && (g.owner = 16 || winBase 1 ≤ f)
     else if g.kind = 5 then l < 2 ^ 18 && g.rights = 0
     else if g.kind = 6 then (i.portRec f).isSome && (i.portRec l).isSome && g.rights = 0
     else g.kind = 7 && l < 2 ^ 15 && g.rights = 0)

def grantsApart : List Grant → Bool
  | [] => true
  | a :: t =>
    (t.all fun b =>
      let mem (k : Nat) : Bool := 1 ≤ k && k ≤ 3
      let clash : Bool := (mem a.kind && mem b.kind) || (a.kind = b.kind && (a.kind = 5 || a.kind = 7))
      !(clash && a.overlaps b)) && grantsApart t

def Image.grantsOk (i : Image) (gr : List Byte) : Bool :=
  let kinds (k o : Nat) : Nat := (i.grants.filter fun g => g.kind = k && g.owner = o).length
  leAt gr 0 8 < 4096 && zeroAt gr 8 24 && ((List.range i.grants.length).all fun n => zeroAt gr (0x20 + 32 * n + 24) 8) &&
    i.grants.all i.grantOk && grantsApart i.grants &&
    (i.ports.all fun r => (i.grants.filter fun g => g.kind = 6 && g.covers (prIndex r)).length ≤ 1) &&
    ((List.range 17).all fun o => kinds 7 o = 0 || kinds 2 o = 1) && kinds 3 16 ≤ 1 &&
    (i.ports.all fun a => i.ports.all fun b =>
      !(isLyvan (prProtocol a) && isLyvan (prProtocol b) && bits a 9 8 = bits b 9 8 && prEngine a = prEngine b) ||
        (match i.ownerOf 6 (prIndex a), i.ownerOf 6 (prIndex b) with
         | some x, some y => x = y
         | _, _ => true))

/-! ### QoS (R41, R42) -/

/-- SHAREk of a parcel, in 1/64 units. -/
def Image.share (i : Image) (p k : Nat) : Nat :=
  (wordAt i.qos (4 * p + 1) ++ wordAt i.qos (4 * p)).toNat / 2 ^ (6 * k) % 64
def Image.ringCredit (i : Image) (p t : Nat) : Nat := bits (wordAt i.qos (4 * p + 3)) (8 * t + 7) (8 * t)
def Image.pathCredits (i : Image) (p : Nat) : Nat := bits (wordAt i.qos (4 * p + 3)) 47 32
def Image.accWeight (i : Image) (p : Nat) (cph : Bool) : Nat :=
  if cph then bits (wordAt i.qos (4 * p + 3)) 63 56 else bits (wordAt i.qos (4 * p + 3)) 55 48

def sumOver (n : Nat) (f : Nat → Nat) : Nat := (List.range n).foldl (fun a k => a + f k) 0

def Image.qosOk (i : Image) : Bool :=
  ((List.range 20).all fun k => sumOver 16 (fun p => i.share p k) ≤ 64) &&
    ((List.range 4).all fun t =>
      sumOver 16 (fun p => i.ringCredit p t) ≤ 64 && i.ioWays t ≠ 0 && i.accWays t ≠ 0) &&
    ((List.range 16).all fun p =>
      zeroBits (wordAt i.qos (4 * p + 1)) 63 56 &&
        (if i.parcelValid p then
           i.accWeight p false ≠ 0 && i.accWeight p true ≠ 0 &&
             (i.lcSlots.all fun x => x.2.1 ≠ p || i.parcelWays p (x.2.2.1 / 12) ≠ 0)
         else (List.range 4).all fun k => wordAt i.qos (4 * p + k) = 0))

/-! ### Fault policy (R43, R44) -/

def polN (r : Word) : Nat := bits r 29 22
def polW (r : Word) : Nat := bits r 21 16
/-- KIND, TILE, BLOCK, INSTANCE, ANY_TILE and ANY_INSTANCE of a record. -/
def polKey (r : Word) : Nat := bits r 63 38

def polRecOk (r : Word) : Bool :=
  zeroBits r 37 30 && zeroBits r 15 0 && 1 ≤ polN r && 10 ≤ polW r && polW r ≤ 40 &&
    (!r.getLsbD 39 || zeroBits r 55 52) && (!r.getLsbD 38 || zeroBits r 45 40)

def polDistinct : List Word → Bool
  | [] => true
  | a :: t => (t.all fun b => polKey b ≠ polKey a) && polDistinct t

def Image.policyOk (i : Image) : Bool :=
  let h := wordAt i.policy 0
  zeroBits h 63 43 && zeroBits h 31 22 && zeroBits h 7 1 && 1 ≤ bits h 15 8 && 10 ≤ bits h 21 16 && bits h 21 16 ≤ 40 &&
    (i.policy.drop 1).all polRecOk && polDistinct (i.policy.drop 1)

/-! ### World map (R45) -/

def Image.worldOk (i : Image) : Bool :=
  zeroBits (wordAt i.world 0) 63 49 && wordAt i.world 5 = 0 && wordAt i.world 6 = 0 && wordAt i.world 7 = 0 &&
    i.ports.all fun r =>
      !isLyvan (prProtocol r) ||
        (wordAt i.world (1 + (32 * bits r 9 8 + prEngine r) / 64)).getLsbD ((32 * bits r 9 8 + prEngine r) % 64) ==
          (i.ownerOf 6 (prIndex r) == some 16)

/-! ### Key manifest (R46) -/

def keyLenOk (alg len : Nat) : Bool := (alg = 1 && len = 1793) || (alg = 2 && len = 2592) || (alg = 3 && len = 97)

def keysDistinct : List KeyRec → Bool
  | [] => true
  | a :: t => (t.all fun b => b.id ≠ a.id) && keysDistinct t

/-- Padding after every key is zero. -/
def keyPadOk (sec : List Byte) : Nat → Nat → Bool
  | 0, _ => true
  | n + 1, cur =>
    let len := leAt sec (cur + 2) 2
    zeroAt sec (cur + 8 + len) ((len + 7) / 8 * 8 - len) && keyPadOk sec n (cur + 8 + (len + 7) / 8 * 8)

def Image.keysOk (i : Image) (ks : List Byte) : Bool :=
  1 ≤ leAt ks 0 8 && leAt ks 0 8 ≤ 63 && keysDistinct i.keys && keyPadOk ks (leAt ks 0 8) 8 &&
    (i.keys.all fun k =>
      (k.role = 1 || k.role = 2) && keyLenOk k.alg.toNat k.key.length && (k.role ≠ 1 || k.alg = 1)) &&
    i.keys.any fun k => k.role = 2

/-! ### Microwords and packages (Tables 7.1, 7.7 to 7.9) -/

def mwNext (w : Quad) : Nat := qbits w 127 112
def mwCond (w : Quad) : Nat := qbits w 111 106
def mwUstk (w : Quad) : Nat := qbits w 104 103
def mwCyc (w : Quad) : Nat := qbits w 102 101
def mwCommit (w : Quad) : Bool := w.getLsbD 100
def mwTerm (w : Quad) : Nat := qbits w 99 98
def mwAlu (w : Quad) : Nat := qbits w 95 90
def mwDest (w : Quad) : Nat := qbits w 89 84
def mwSrcA (w : Quad) : Nat := qbits w 83 78
def mwSrcB (w : Quad) : Nat := qbits w 77 72
def mwMem (w : Quad) : Nat := qbits w 71 69
def mwSize (w : Quad) : Nat := qbits w 68 66
def mwLatch (w : Quad) : Nat := qbits w 65 64
def mwImm (w : Quad) : Nat := qbits w 63 48
def mwExt (w : Quad) : Nat := qbits w 47 44
def mwExtSel (w : Quad) : Nat := qbits w 43 40
def mwSeg (w : Quad) : Nat := qbits w 39 34
def mwUsel (w : Quad) : Bool := w.getLsbD 33

/-- Least CYC of an ALUOP (Table 7.2). -/
def aluMinCyc (op : Nat) : Nat :=
  if op = 0x0A || op = 0x0B || op = 0x14 then 3 else if op = 0x12 || op = 0x13 then 1 else 0

/-- Check 0x5 of Table 7.9 for word `i` of `n`. -/
def microwordOk (w : Quad) (i n : Nat) : Bool :=
  qbits w 105 105 = 0 && qbits w 97 96 = 0 && qbits w 32 0 = 0 && mwUstk w ≠ 3 && mwTerm w ≠ 3 && mwAlu w ≤ 0x14 &&
    mwMem w ≤ 5 && mwExt w ≤ 3 && mwExtSel w ≤ 1 && mwSeg w ≤ 0x22 && mwCond w ≤ 0x0C && mwDest w ≤ 0x24 &&
    mwSrcA w ≤ 0x24 && mwSrcB w ≤ 0x24 && aluMinCyc (mwAlu w) ≤ mwCyc w &&
    (mwCond w = 0 || (0x8000 ≤ mwNext w && mwNext w < 0x8000 + n)) &&
    (i + 1 ≠ n || mwTerm w = 2 || mwCond w = 1 || mwUstk w = 2) &&
    (!(mwTerm w = 2 || mwUstk w = 2) || (mwNext w = 0 && mwCond w = 0)) && (mwAlu w = 0 || mwMem w = 0)

def pkgParcel (b : List Byte) : Nat := leAt b 4 1
def pkgCount (b : List Byte) : Nat := leAt b 0xC 2
/-- Offset S of the signature. -/
def pkgSig (b : List Byte) : Nat := 0x210 + 16 * pkgCount b
def pkgEntries (b : List Byte) : List Word := wordsAt b 0x10 64
def pkgWords (b : List Byte) : List Quad := (List.range (pkgCount b)).map fun i => BitVec.ofNat 128 (leAt b (0x210 + 16 * i) 16)

/-- Check 0x4 of Table 7.9. -/
def entryOk (n : Nat) (e : Word) : Bool :=
  if e.getLsbD 63 then zeroBits e 55 50 && zeroBits e 47 12 && bits e 49 48 ≠ 3 && bits e 11 0 < n else e = 0

/-- First failing check of Table 7.9, 0 when the package passes; `again` for a second package of its PARCEL. -/
def pkgCheck (keys : List KeyRec) (valid : Nat → Bool) (again : Bool) (b : List Byte) : Nat :=
  let s := pkgSig b
  let sl := leAt b s 2
  let key := keys.find? fun k => k.role = 1 && k.id.toNat = leAt b 8 4
  let n := pkgCount b
  firstFail [
    (1, key.isSome),
    (2, 1 ≤ sl && sl ≤ 1462 &&
      (match key with
       | some k => Config.falconVerify k.key (leBytes 64 (Config.shake512 (b.take s)).toNat) (slice b (s + 8) sl)
       | none => false)),
    (3, leAt b 0 4 = s + 1472 && 1 ≤ n && n ≤ 4096 && (pkgParcel b = 0xFF || (pkgParcel b < 16 && valid (pkgParcel b))) &&
      !again && zeroAt b 5 3 && zeroAt b 0xE 2 && zeroAt b (s + 2) 6 && zeroAt b (s + 8 + sl) (1464 - sl)),
    (4, (pkgEntries b).all (entryOk n)),
    (5, (List.range n).all fun i => microwordOk ((pkgWords b).getD i 0) i n)]

/-- The bytes of a package as far as WORD_COUNT makes it, whatever LENGTH says (Table 7.8). -/
def pkgSize (b : List Byte) : Nat := pkgSig b + 1472

/-- The packages of a microcode section. -/
def packagesOf (sec : List Byte) : List (List Byte) :=
  if sec.isEmpty then [] else (pkgWalk sec (microCount sec) 64).1.map fun p => (sec.drop p.1).take (pkgSize (sec.drop p.1))

/-- Zero padding between the packages. -/
def padsOk (sec : List Byte) : Nat → List (Nat × Nat) → Bool
  | _, [] => true
  | cur, (o, n) :: t => zeroAt sec cur (o - cur) && padsOk sec (o + n) t

/-- First failing check over the packages of an image, in their order; a fault of the section's own layout counts as
FORMAT (log entry 24). -/
def Image.microDetail (i : Image) : Nat :=
  let sec := i.micro
  if sec.isEmpty then 0
  else if !(microCount sec ≤ 17 && leAt sec 0 8 < 32 && zeroAt sec 8 56 && padsOk sec 64 (pkgWalk sec (microCount sec) 64).1) then 3
  else
    let ps := packagesOf sec
    ((List.range ps.length).map fun n =>
      let b := ps.getD n []
      pkgCheck i.keys i.parcelValid ((ps.take n).any fun c => pkgParcel c = pkgParcel b) b).foldl
        (fun a d => if a = 0 then d else a) 0

/-! ### Validation (R48, Table 2.12) -/

/-- Slots whose digest equals that of PUBKEY. -/
def Fuses.matching (f : Fuses) (d : BitVec 256) : List (Fin 4) := (List.finRange 4).filter fun n => f.slots.get n = some d

/-- Steps 1 to 18 on a source: the reason code of the first failing step, 0 when all pass.  `newer`: the image must
have a sequence number above this one (step 11). -/
def validate (f : Fuses) (newer : Option Word) (src : List Byte) : Nat :=
  let total := imgTotal src
  let sig := imgSigOff src
  let bs := src.take total
  let dir := dirEntries src
  let i := readImage bs
  let ms := f.matching i.pubDigest
  firstFail [
    (0x01, leAt src 0 4 = 0x414F4341),
    (0x02, leAt src 4 2 = 4 && leAt src 6 2 = 7 && leAt src 0x14 4 = 0x000400C0 && zeroAt src 0x20 32 && zeroAt src 0x270 16 &&
      (List.range 7).all fun n => zeroAt src (0x40 + 80 * n + 2) 6),
    (0x03, total = sig + 3328 && total ≤ 33554432 && total ≤ src.length && sig % 64 = 0 && dir.all (entryPlaced sig) &&
      entriesApart dir && dir.all fun e => e.len = impliedLen e.type (slice bs e.off e.len)),
    (0x04, (List.range 7).all fun t => (dir.filter fun e => e.type = t + 1).length = 1),
    (0x05, !ms.isEmpty),
    (0x06, ms.any fun n => !f.revoked.getLsbD n.val),
    (0x07, sigOk bs),
    (0x08, dir.all fun e => e.digest = Config.shake512 (slice bs e.off e.len)),
    (0x09, f.secVersion.val ≤ i.secVersion.toNat && i.secVersion.toNat ≤ 64),
    (0x0A, !f.sealed || i.structDigest = f.sealDigest),
    (0x0B, match newer with | some q => q.toNat < i.seq.toNat | none => true),
    (0x0C, i.structOk (secBytes bs 1)),
    (0x0D, i.grantsOk (secBytes bs 2)),
    (0x0E, i.qosOk),
    (0x0F, i.policyOk),
    (0x10, i.worldOk),
    (0x11, i.keysOk (secBytes bs 7)),
    (0x12, i.microDetail = 0)]

end Sys2Proof.Machine
end

