-- ==== Sys2Proof/Machine/Compose.lean ====
section
/-! DEFINITION. COMPOSE: the reset state of a logical core, microcode banks, the placement of logical cores on cores
that passed their self-test, and what begins and ends a composition (R49, R188, R201, R308 to R310, R492). -/

namespace Sys2Proof.Machine

/-! ### Microcode banks (R188, R193) -/

/-- The package that serves a parcel: its own, else the one for every other parcel. -/
def pkgFor (ps : List (Byte × List Byte)) (p : Nat) : Option (List Byte) :=
  match ps.find? fun e => e.1.toNat = p with
  | some e => some e.2
  | none => (ps.find? fun e => e.1 = 0xFF).map (·.2)

/-- A bank written from the packages for a parcel; empty where none serves it. -/
def bankFor (ps : List (Byte × List Byte)) (p : Nat) (epoch : BitVec 32) : WcsBank :=
  match pkgFor ps p with
  | some b => ⟨epoch, pkgEntries b, pkgWords b⟩
  | none => ⟨epoch, [], []⟩

def Image.packages (i : Image) : List (Byte × List Byte) := (packagesOf i.micro).map fun b => (BitVec.ofNat 8 (pkgParcel b), b)

/-! ### The reset state of a logical core (R492) -/

/-- PSW at reset: LEVEL H, the parcel, every other field 0. -/
def resetPsw (p : Nat) : Word := BitVec.ofNat 64 (2 + p % 16 * 2 ^ 44)

/-- The reset state: registers, translations, store buffer and gateway at their reset values; PINTGATE (R459), the
pending sets, the gate's messages, the banks and the host stay, and so does a freeze (R61).  The core starts at `start`, or
waits stopped. -/
def LCore.resetTo (l : LCore) (p : Nat) (start : Option Word) : LCore :=
  { LCore.init with
    psw := resetPsw p
    pc := start.getD 0
    gw := { Gateway.init with pintgate := l.gw.pintgate }
    pendS := l.pendS, pendH := l.pendH, pendG := l.pendG, pendP := l.pendP, gate := l.gate
    bank0 := l.bank0, bank1 := l.bank1, activeBank := l.activeBank, bankPend := l.bankPend
    breakpoints := l.breakpoints, host := l.host
    reqs := { StopReqs.none with debug := l.reqs.debug, migrate := l.reqs.migrate }
    stops := { Stops.none with
      start := start.isNone, frozen := l.stops.frozen, quiesce := l.stops.quiesce || l.reqs.quiesce, debug := l.stops.debug
      clockCut := l.stops.clockCut || l.reqs.clockCut
      migrating := l.stops.migrating, hard := l.stops.hard, lost := l.stops.lost } }

/-- PR_START.ADDR of a parcel while PR_START.VALID is 1. -/
def State.startAddr (s : State) (p : Nat) : Option Word :=
  match fin? 16 p with
  | none => none
  | some q =>
    if s.fld (.prStart q) 63 63 = 1 then some (BitVec.ofNat 64 (s.fld (.prStart q) 51 2 * 4)) else none

/-- Bring a logical core of parcel `p` to its reset state. -/
def State.resetLc (s : State) (lc : Lc) (p : Nat) : State := s.modLc lc.val fun l => l.resetTo p (s.startAddr p)

/-! ### Placement (R201, R202) -/

/-- Every island under an image, before any core serves: failed cores out of service, D sleepers, spare pools. -/
def islInit (i : Image) (fails : List Core) (n : Island) : Isl :=
  let lay := grpLayout (wordAt i.groups n.val)
  { Isl.init with
    layout := BitVec.ofNat 2 lay
    cores := Vector.ofFn fun c =>
      let ok := !fails.contains (coreAt n c)
      let role : Role :=
        if !ok then Role.failed else if lay = 3 then .poolSleeper else if lay = 0 && c = 3 then .ownSleeper else .unassigned
      { PCore.init with role := role, passed := ok } }

/-- Put a logical core on cores `cs` (in order of stagger) of a slot configured for `w` replicas; with fewer than `w` it
waits for a migration (R201). -/
def State.placeOn (s : State) (lc : Lc) (i : Island) (k : Fin 4) (cs : List (Fin 4)) (w : Nat) : State :=
  let s1 := s.modIsl i.val fun x =>
    let x1 := x.modSlot k fun _ => ⟨some lc, w, .full, cs⟩
    let x2 := cs.foldl (fun y c => y.modCore c fun z => { z.idle .replica with slot := k, lc := some lc, gated := false }) x1
    if cs.length = 3 && (x2.cores.get 3).pool then x2.modCore 3 fun z => { z with role := .ownSleeper } else x2
  (s1.settleSlot i k).modLc lc.val fun l =>
    { l with host := some (slotAt i k), reqs := { l.reqs with migrate := decide (cs.length < w) } }

/-- Own cores of a slot that passed, in order of stagger; a triple's sleeper takes the place of a failing core. -/
def Isl.ownCores (x : Isl) (lay k : Nat) : List (Fin 4) :=
  let ok (c : Fin 4) : Bool := (x.cores.get c).passed
  let cs := layoutCores lay k
  let bad := cs.filter fun c => !ok c
  match bad with
  | [] => cs
  | b :: _ =>
    if lay = 0 && ok 3 && (x.cores.get 3).role == .ownSleeper then
      (cs.map fun c => if c = b then (3 : Fin 4) else c).filter ok
    else cs.filter ok

/-- Cores of a slot that its logical core does not use are free for others. -/
def State.freeOwn (s : State) (i : Island) (lay k : Nat) : State :=
  let cs : List (Fin 4) := layoutCores lay k ++ (if lay = 0 then [3] else [])
  cs.foldl (fun (s : State) c => s.modCore i c fun x => if x.role == .failed then x else x.idle .poolSleeper) s

/-- The largest target smaller than the layout that gives more than `have_` replicas (R201 step 3). -/
def State.smallerTarget (s : State) (p t have_ : Nat) : Nat → Option (Island × Fin 4 × List (Fin 4))
  | 0 => none
  | w + 1 => s.target p t have_ w

/-- Steps 2 to 4 of R201 for one logical core; `none` when no core can be drawn for it. -/
def State.drawPlace (s : State) (e : Nat × Nat × Nat × Nat) : Option State :=
  match fin? 192 e.1, fin? 48 e.2.2.1, fin? 4 e.2.2.2 with
  | some lc, some i, some k =>
    let lay := grpLayout (wordAt ((s.image.map (·.groups)).getD []) i.val)
    let w := layoutWidth lay
    let own := (s.isl i.val).ownCores lay k.val
    let p := e.2.1
    let tgt := match s.targetFor p (i.val / 12) w with
      | some t => some t
      | none => s.smallerTarget p (i.val / 12) own.length w
    match tgt with
    | some t => some ((s.freeOwn i lay k.val).placeOn lc t.1 t.2.1 t.2.2 w)
    | none => if own.isEmpty then none else some (s.placeOn lc i k own w)
  | _, _, _ => none

/-- Place every logical core of the image in force (R201): those whose own cores suffice, then the others in order of
their numbers (R232). -/
def State.placeAll (s : State) (img : Image) : Option State :=
  let full (e : Nat × Nat × Nat × Nat) : Option (Lc × Island × Fin 4 × List (Fin 4)) :=
    match fin? 192 e.1, fin? 48 e.2.2.1, fin? 4 e.2.2.2 with
    | some lc, some i, some k =>
      let lay := grpLayout (wordAt img.groups i.val)
      let own := (s.isl i.val).ownCores lay k.val
      if own.length = layoutWidth lay then some (lc, i, k, own) else none
    | _, _, _ => none
  let s1 := img.lcSlots.foldl (fun s e =>
    match full e with
    | some (lc, i, k, own) => s.placeOn lc i k own own.length
    | none => s) s
  let rest := img.lcSlots.filter fun e => (full e).isNone
  (List.range 192).foldl (fun (o : Option State) n =>
    o.bind fun s => match rest.find? fun e => e.1 = n with
      | some e => s.drawPlace e
      | none => some s) (some s1)

/-! ### A composition from LOAD -/

/-- Every port of the image starts to train; no other port exists (R397, R412). -/
def State.formPorts (s : State) (i : Image) : State :=
  i.ports.foldl (fun s r => match fin? 512 (prIndex r) with
    | some p => s.setPort p.val { PortSt.init with st := .training, train := if isLyvan (prProtocol r) then .reset else .none }
    | none => s) { s with ports := [] }

/-- COMPOSE is entered with a validated image (R49 to R51, R65): self-test, training and zeroing begin.  The mirror
links come up with the I/O tiles (log entry 26). -/
def State.enterCompose (s : State) (bytes : List Byte) (source : BitVec 2) (fails : List Core) : State :=
  let i := readImage bytes
  let s1 := { s with
    loader := { s.loader with composing := some ⟨bytes, i, source⟩, staged := none, delivery := none }
    mirrorUp := 3 }
  let s2 := (List.finRange 48).foldl (fun s n => s.setIsl n.val (islInit i fails n)) s1
  ((s2.composeMemory).formPorts i).changeMode .compose

/-- Every populated channel has trained, or failed, and is zeroed. -/
def State.memoryReady (s : State) : Bool :=
  (List.finRange 20).all fun c =>
    let x := s.chan c.val
    x.st != .training && (x.st != .active || x.zeroed)

/-- Back to LOAD: the image is rejected with HARDWARE_SHORT and nothing of it is in force (R48 step 19, R65). -/
def State.hardwareShort (s : State) (src : BitVec 2) : State :=
  let s1 := if src = 0 then s.setFld .imgStatus 39 32 0x13
    else if src = 1 then s.setFld .imgStatus 47 40 0x13
    else (s.setFld .imgStatus 23 20 4).setFld .imgStatus 31 24 0x13
  { s1 with
    loader := { s1.loader with composing := none }
    isls := [], ports := [], mirrorUp := 0
    chans := s1.chans.map fun (e : Nat × ChanSt) => (e.1, { e.2 with st := match e.2.st with
      | .active | .failed | .training => ChState.untrained
      | x => x }) }.changeMode .load

/-- Built-in self-test, training and zeroing have ended (R49, R65, R188, R202). -/
def State.composeComplete (s : State) (cxl : List (Port × Nat)) : State :=
  match s.loader.composing with
  | none => s
  | some r =>
    if s.mode != .compose || !s.memoryReady || s.keeper.trans != .none then s
    else
      match { s with lcs := [] }.placeAll r.img with
      | none => s.hardwareShort r.source
      | some s1 =>
        let ps := r.img.packages
        let s2 := r.img.lcSlots.foldl (fun s e =>
          match fin? 192 e.1 with
          | some lc => ((s.resetLc lc e.2.1).modLc lc.val fun l => { l with bank0 := bankFor ps e.2.1 1 }).giveBanks lc
          | none => s) s1
        let s3 := cxl.foldl (fun s e =>
          if isCxl (s.portProto e.1) then s.modPort e.1.val fun x => { x with cxlUnits := min e.2 (2 ^ 14) } else s) s2
        let s4 := { s3 with
          loader := { s3.loader with running := some r, composing := none, mc := ⟨1, 0, ps, 0⟩ } }
        s4.changeMode s4.modeOf

end Sys2Proof.Machine
end

