-- ==== Sys2Proof/Machine/Ports.lean ====
section
/-! DEFINITION. Ports, the Lyvan link layer, and PCI Express and CXL ports (chapter 14). -/

namespace Sys2Proof.Machine

open Host (Outcome)

/-! ### Link down, training (R412, R413) -/

/-- Highest-protocol helpers of a port. -/
def State.isLyvanPort (s : State) (p : Port) : Bool := isLyvan (s.portProto p)
def State.isPciPort (s : State) (p : Port) : Bool := isPcie (s.portProto p) || isCxl (s.portProto p)
def State.portWidth (s : State) (p : Port) : Nat := (s.portRec p).elim 0 prWidth

/-- The link of an ACTIVE port goes down: link-layer state is discarded, LINK_DOWN is logged, the port's paths fail,
and the port stands in state `st` (R413). A port that is not ACTIVE changes state only. -/
def State.linkDown (s : State) (p : Port) (st : PortState) : State :=
  let was := (s.port p.val).st == .active
  let s1 := (s.dropMaster (.port p)).modPort p.val fun x =>
    { x.linkReset with st := st, train := if st == .training then .reset else .none }
  if was then (s1.report (portSrc p.val) 0x51 clsContained 0).portPathsFail p else s1

/-- The link goes down and trains again (R412, R413). -/
def State.retrain (s : State) (p : Port) : State := s.linkDown p .training

/-- Training fails (R412, R422): counted, logged when it is the first failure since the port was ACTIVE. -/
def State.trainFail (s : State) (p : Port) : State :=
  let first := !(s.port p.val).failedOnce
  let s1 := (s.modPort p.val fun x => { x.linkReset with train := .waiting, failedOnce := true }).bump (.portStatus p) 31 16 1
  if first then s1.report (portSrc p.val) 0x52 clsContained 0 else s1

/-- RATE code of a Lyvan port (PORT_STATUS). -/
def lyvanRate (proto : Nat) : BitVec 4 := if proto = 0x21 then 8 else if proto = 0x22 then 9 else 10

/-- The port becomes ACTIVE. -/
def State.linkUp (s : State) (p : Port) (width rate : BitVec 4) (flit reversed : Bool) : State :=
  (s.modPort p.val fun x =>
    { x with st := .active, train := .none, twidth := width, rate := rate, flit := flit, reversed := reversed
             failedOnce := false }).portPathsGained p

/-- A training port in state `t` of Table 14.7. -/
def State.inTraining (s : State) (p : Port) (t : Training) : Bool :=
  (s.port p.val).st == .training && (s.port p.val).train == t && s.isLyvanPort p

def State.setTrain (s : State) (p : Port) (t : Training) : State := s.modPort p.val fun x => { x with train := t }

/-- PARAM of the module's IDENT: role 1, protocol, width (R414). -/
def State.identParam (s : State) (p : Port) : Word :=
  BitVec.ofNat 64 (1 + s.portProto p * 2 ^ 8 + s.portWidth p * 2 ^ 16)

/-- Lock has held on every lane: the port sends its IDENT; its node identity is a free value. -/
def State.alignHeld (s : State) (p : Port) (reversed : Bool) : State :=
  if s.inTraining p .align then
    let d := s.draw
    ((d.2.setTrain p .ident).modPort p.val fun x => { x with reversed := reversed }).sendCtl p fIdent (s.identParam p)
      (leBytes 8 d.1.toNat)
  else s

/-- An IDENT frame arrives (R414). -/
def State.identArrive (s : State) (p : Port) (f : Frame) : State :=
  if s.inTraining p .ident && f.type = fIdent then
    if bits f.param 15 8 = s.portProto p && bits f.param 19 16 = s.portWidth p then
      (s.modPort p.val fun x => { x with peerRxWin := f.rxWin }).linkUp p (BitVec.ofNat 4 (s.portWidth p))
        (lyvanRate (s.portProto p)) false (s.port p.val).reversed
    else s.trainFail p
  else s

/-! ### Acknowledgement and retry (R416 to R419) -/

def State.lyvanActive (s : State) (p : Port) : Bool := (s.port p.val).st == .active && s.isLyvanPort p

/-- What every good frame carries: ACKSEQ and RXWIN of its sender; waiting frames then go out. -/
def State.takeAck (s : State) (p : Port) (f : Frame) : State :=
  (s.modPort p.val fun x => { (x.acked f.ackSeq) with peerRxWin := f.rxWin }).pump p

/-- Send again, in order, every frame from LSEQ `n` on; at the eighth sending of the oldest the link goes down. -/
def State.replayFrom (s : State) (p : Port) (n : BitVec 16) : State :=
  let x := s.port p.val
  match x.unacked with
  | [] => s
  | (_, k) :: _ =>
    if 8 ≤ k then s.retrain p
    else
      let again (e : Frame × Nat) : Bool := (e.1.lseq - n).toNat < 32768
      if !x.unacked.any again then s
      else
      let s1 := s.modPort p.val fun y =>
        { y with
          unacked := y.unacked.map fun e => if again e then (e.1, e.2 + 1) else e
          out := y.out ++ (y.unacked.filter again).map (·.1) }
      (s1.bump (.portErrcnt p) 47 32 1).report (portSrc p.val) 0x50 clsCorrected 0

/-- A NAK is sent, unless one was sent within 10 µs and the expected frame has not come since. -/
def State.sendNak (s : State) (p : Port) : State :=
  let x := s.port p.val
  let recent : Bool := match x.nakAt with | some t => s.now < t.toNat + 10000 | none => false
  if recent then s
  else (s.modPort p.val fun y => { y with nakAt := some s.tb.ns }).sendCtl p fNak (BitVec.ofNat 64 x.rxNext.toNat) []

/-- A frame arrives on an ACTIVE Lyvan port (R417). -/
def State.frameArrive (s : State) (p : Port) (f : Frame) (chk : FrameCheck) : State :=
  if !s.lyvanActive p then s
  else
    match chk with
    | .badCrc => (s.bump (.portErrcnt p) 63 48 1).sendNak p
    | .badCodeword => (s.bump (.portErrcnt p) 15 8 1).sendNak p
    | .good =>
      let s1 := s.takeAck p f
      let x := s1.port p.val
      if f.type = fAck then s1
      else if f.type = fNak then s1.replayFrom p (BitVec.ofNat 16 f.param.toNat)
      else if f.type = fIdent then s1
      else if f.lseq = x.rxNext then
        let s2 := s1.modPort p.val fun y => { y with rxNext := y.rxNext + 1, nakAt := none, ackOwed := true }
        if frameKnown f then s2.modPort p.val fun y => { y with rxQueue := y.rxQueue ++ [f] } else s2.onUnknown p f
      else if (x.rxNext - f.lseq).toNat ≤ 4096 then s1.modPort p.val fun y => { y with ackOwed := true }
      else s1.sendNak p

/-! ### PORT_CTL (R423) -/

/-- Ports with a lane in quad 32t + q. -/
def State.quadPorts (s : State) (q : Fin 128) : List Port :=
  (List.finRange 512).filter fun p =>
    (s.portRec p).any fun r =>
      p.val / 128 = q.val / 32 && p.val % 128 < 4 * (q.val % 32) + 4 && 4 * (q.val % 32) < p.val % 128 + 2 ^ prWidth r

/-- The power of a quad of the port is cut (R471). -/
def State.portUnpowered (s : State) (p : Port) : Bool :=
  (List.finRange 128).any fun q => s.cut (.quad q) == .powerCut && (s.quadPorts q).contains p

/-- An access to a port page (R335 with the PORT grant). -/
def State.portAccess (s : State) (m : Master) (p : Port) (pa need : Nat) (k : State → State) : State :=
  s.csAccess m pa need (s.holdsRes m 6 p.val) k

/-- A PORT_CTL command. -/
def State.portCtlW (s : State) (m : Master) (p : Port) (cmd : Nat) : State :=
  s.portAccess m p (CsReg.portCtl p).addr needW fun s =>
    let s := s.respond m .ok
    let x := s.port p.val
    let result (s : State) (r : Nat) : State := s.setFld (.portStatus p) 59 56 r
    if !s.runOrQuiesce then result s 2
    else if cmd = 1 && (x.st == .active || x.st == .training) then result (s.retrain p) 0
    else if cmd = 2 && (x.st == .active || x.st == .training) then result (s.linkDown p .disabled) 0
    else if cmd = 3 && x.st == .disabled && !s.portUnpowered p then result (s.linkDown p .training) 0
    else if cmd = 4 && x.st == .contained && !x.causeFw && !x.deadUntilCompose then result (s.retrain p) 0
    else result s 3

/-! ### PCI Express and CXL (R402 to R410) -/

/-- The range lies in memory of the port's owner with the right needed, line by line. -/
def State.portMayAccess (s : State) (p : Port) (a n need : Nat) : Bool :=
  s.fwRange (.port p) a n need

def State.inDoorbells (a : Nat) : Bool := 0xF_8000_0000_0000 ≤ a && a < 0xF_8000_0000_0000 + 512 * 0x1_0000

/-- An inbound memory request: answered with Unsupported Request where it names no memory, contained where the
firewall denies it (R403, R405). -/
def State.inbound (s : State) (p : Port) (a n need : Nat) (k : State → State) : State :=
  let x := s.port p.val
  if x.st != .active || !s.isPciPort p || x.inboundHeld || n = 0 then s
  else if State.inDoorbells a then s.respond (.port p) .error
  else if !s.portMayAccess p a n need then (s.freezeMaster (.port p) (s.fwDenied (.port p) a n need)).respond (.port p) .error
  else if !s.rangeReachable a n then s.respond (.port p) .error
  else s.admitMaster (.port p) [⟨a, n, if need = needR then .peek else .invWrite⟩] k

def State.inboundRead (s : State) (p : Port) (a n : Nat) : State :=
  s.inbound p a n needR fun s =>
    let v := s.freshBytes a n
    s.respond (.port p) (if v.2 then .poison else .bytes v.1)

def State.inboundWrite (s : State) (p : Port) (a : Nat) (bs : List Byte) : State :=
  s.inbound p a bs.length needW fun s => (s.invWriteBytes (.port p) a bs).respond (.port p) .ok

/-- A 4 B write to the port's own doorbell is an interrupt message (R403). -/
def State.doorbellW (s : State) (p : Port) (a : Nat) (v : BitVec 32) : State :=
  let x := s.port p.val
  if x.st != .active || !s.isPciPort p || x.inboundHeld then s
  else if s.doorbell a = some p && v.toNat < 2048 then
    (s.raiseOwned (5 + p.val / 128) 0x04 p.val v.toNat (s.portOwner p)).respond (.port p) .ok
  else s.respond (.port p) .error

/-- Downstream port containment (R406). -/
def State.dpc (s : State) (p : Port) (down : Bool) : State :=
  if (s.port p.val).st != .active || !s.isPciPort p then s
  else
    let s1 := ((s.dropMaster (.port p)).modPort p.val fun x =>
      { x.linkReset with st := .contained, causeFw := false, train := .none }).report (portSrc p.val) 0x55 clsSevere 0
    if down then s1.report (portSrc p.val) 0x51 clsContained 0 else s1

/-- A configuration read (R407): CPL, and the data or all ones. -/
def State.configR (s : State) (m : Master) (p : Port) (cpl : BitVec 2) (d : BitVec 32) : State :=
  s.portAccess m p (CsReg.portCfgdata p).addr needR fun s =>
    let c : BitVec 2 := if s.isPciPort p then cpl else 1
    let s1 := s.setFld (.portCfgaddr p) 63 62 c.toNat
    s1.respond m (.data (if c = 0 then d.setWidth 64 else 0xFFFFFFFF))

/-- A configuration write (R407). -/
def State.configW (s : State) (m : Master) (p : Port) (v : Word) (cpl : BitVec 2) : State :=
  s.portAccess m p (CsReg.portCfgdata p).addr needW fun s =>
    let c : BitVec 2 := if s.isPciPort p then cpl else 1
    ((s.setReg (.portCfgdata p) (softWrite (.portCfgdata p) (s.reg (.portCfgdata p)) v)).setFld (.portCfgaddr p) 63 62
      c.toNat).respond m .ok

/-- Highest RATE code of a PCI Express or CXL protocol (Table 14.2). -/
def pcieTop (proto : Nat) : Nat := if proto = 0x01 then 4 else if proto = 0x02 || proto = 0x11 then 5 else 6

/-- A CXL link returns to ACTIVE, at its full width and highest rate (log entry 22): every dropped line is written
with CXL poison first (R410). -/
def State.cxlUp (s : State) (p : Port) : State :=
  let x := s.port p.val
  let r := pcieTop (s.portProto p)
  if x.st != .training || !isCxl (s.portProto p) then s
  else
    let s1 := x.dropped.foldl (fun s l => s.setPoison l true) s
    (s1.modPort p.val fun y => { y with dropped := [] }).linkUp p (BitVec.ofNat 4 (s.portWidth p)) (BitVec.ofNat 4 r)
      (r = 6) false

/-- A PCI Express link completes training at an allowed width and rate (R401, R404). -/
def State.pcieUp (s : State) (p : Port) (width rate : BitVec 4) (flit reversed : Bool) : State :=
  if (s.port p.val).st != .training || !isPcie (s.portProto p) || width.toNat > s.portWidth p || rate = 0 ||
      rate.toNat > pcieTop (s.portProto p) then s
  else s.linkUp p width rate (flit || rate = 6) reversed

/-! ### Commands -/

/-- RESET ends after 10 µs (R412). -/
def execLyvanResetDone (p : Port) (s : State) : Outcome State Fault Refusal :=
  .next (if s.inTraining p .reset then s.setTrain p .detect else s)
/-- DETECT ends (R412). -/
def execLanesDetected (p : Port) (s : State) : Outcome State Fault Refusal :=
  .next (if s.inTraining p .detect then s.setTrain p .equalize else s)
/-- EQUALIZE ends (R412). -/
def execEqualizationDone (p : Port) (s : State) : Outcome State Fault Refusal :=
  .next (if s.inTraining p .equalize then s.setTrain p .align else s)
/-- ALIGN ends (R412). -/
def execAlignLockHeld (p : Port) (reversed : Bool) (s : State) : Outcome State Fault Refusal :=
  .next (s.alignHeld p reversed)
/-- IDENT (R414). -/
def execIdent (p : Port) (f : Frame) (s : State) : Outcome State Fault Refusal := .next (s.identArrive p f).settleMode
/-- 50 ms after RESET without ACTIVE (R412). -/
def execTrainingTimeout (p : Port) (s : State) : Outcome State Fault Refusal :=
  .next (if (s.port p.val).st == .training && s.isLyvanPort p && (s.port p.val).train != .reset &&
      (s.port p.val).train != .waiting then s.trainFail p else s)
/-- 1 s after a training failure (R412). -/
def execTrainingRetry (p : Port) (s : State) : Outcome State Fault Refusal :=
  .next (if s.inTraining p .waiting then s.setTrain p .reset else s)
/-- Lock lost for more than 1 µs (R413). -/
def execLaneLockLost (p : Port) (s : State) : Outcome State Fault Refusal :=
  .next (if s.lyvanActive p then (s.retrain p).settleMode else s)
/-- More than 16 uncorrectable codewords in 1 ms; Lyvan-16 has no FEC (R411, R413). -/
def execCodewordErrorLimit (p : Port) (s : State) : Outcome State Fault Refusal :=
  .next (if s.lyvanActive p && s.portProto p ≠ 0x21 then (s.retrain p).settleMode else s)
/-- A frame arrives (R417). -/
def execFrameReceive (p : Port) (f : Frame) (chk : FrameCheck) (s : State) : Outcome State Fault Refusal :=
  .next (s.frameArrive p f chk).settleMode
/-- ACK (R416, R417). -/
def execAck (p : Port) (f : Frame) (s : State) : Outcome State Fault Refusal :=
  .next (if s.lyvanActive p then s.takeAck p f else s)
/-- NAK (R418, R419). -/
def execNak (p : Port) (f : Frame) (s : State) : Outcome State Fault Refusal :=
  .next (if s.lyvanActive p then ((s.takeAck p f).replayFrom p (BitVec.ofNat 16 f.param.toNat)).settleMode else s)
/-- 2 µs with an acknowledgement owed and nothing to send (R417). -/
def execAckTimer (p : Port) (s : State) : Outcome State Fault Refusal :=
  .next (if s.lyvanActive p && (s.port p.val).ackOwed then s.sendCtl p fAck 0 [] else s)
/-- 20 µs without an advance of ACKSEQ (R418, R419). -/
def execReplayTimeout (p : Port) (s : State) : Outcome State Fault Refusal :=
  .next (if s.lyvanActive p then (s.replayFrom p (s.port p.val).txAcked).settleMode else s)
/-- PORT_CTL RETRAIN (R413, R423). -/
def execPortRetrain (m : Master) (p : Port) (s : State) : Outcome State Fault Refusal := .next (s.portCtlW m p 1).settleMode
/-- PORT_CTL DISABLE (R413, R423). -/
def execPortDisable (m : Master) (p : Port) (s : State) : Outcome State Fault Refusal := .next (s.portCtlW m p 2).settleMode
/-- PORT_CTL ENABLE (R412, R423). -/
def execPortEnable (m : Master) (p : Port) (s : State) : Outcome State Fault Refusal := .next (s.portCtlW m p 3)
/-- PORT_CTL RELEASE (R406, R423). -/
def execPortRelease (m : Master) (p : Port) (s : State) : Outcome State Fault Refusal := .next (s.portCtlW m p 4)
/-- An inbound memory read (R405). -/
def execInboundMemoryRead (p : Port) (addr : Word) (len : Nat) (s : State) : Outcome State Fault Refusal :=
  .next (s.inboundRead p addr.toNat (min len 4096))
/-- An inbound memory write (R405), or the interrupt message that it is on the port's own doorbell (R403). -/
def execInboundMemoryWrite (p : Port) (addr : Word) (data : List Byte) (s : State) : Outcome State Fault Refusal :=
  .next (if data.length = 4 && s.doorbell addr.toNat = some p then s.doorbellW p addr.toNat (BitVec.ofNat 32 (leAt data 0 4))
    else s.inboundWrite p addr.toNat (data.take 512))
/-- An interrupt message from a device (R403). -/
def execDoorbellWrite (p : Port) (addr : Word) (data : BitVec 32) (s : State) : Outcome State Fault Refusal :=
  .next (s.doorbellW p addr.toNat data)
/-- DPC (R406). -/
def execDpc (p : Port) (linkDown : Bool) (s : State) : Outcome State Fault Refusal := .next (s.dpc p linkDown)
/-- AER correctable error (R422). -/
def execPcieCe (p : Port) (s : State) : Outcome State Fault Refusal :=
  .next (if (s.port p.val).st == .active && s.isPciPort p then s.report (portSrc p.val) 0x53 clsCorrected 0 else s)
/-- AER non-fatal error (R422). -/
def execPcieNonfatal (p : Port) (s : State) : Outcome State Fault Refusal :=
  .next (if (s.port p.val).st == .active && s.isPciPort p then s.report (portSrc p.val) 0x54 clsContained 0 else s)
/-- A read of PORT_CFGDATA, with the completion the link returns (R407). -/
def execConfigRead (m : Master) (p : Port) (cpl : BitVec 2) (data : BitVec 32) (s : State) : Outcome State Fault Refusal :=
  .next (s.configR m p cpl data)
/-- A write of PORT_CFGDATA, with the completion the link returns (R407). -/
def execConfigWrite (m : Master) (p : Port) (value : Word) (cpl : BitVec 2) (s : State) : Outcome State Fault Refusal :=
  .next (s.configW m p value cpl)
/-- A CXL link returns to ACTIVE (R410). -/
def execCxlLinkActive (p : Port) (s : State) : Outcome State Fault Refusal := .next (s.cxlUp p)
/-- 50 ms without a completion of an outbound non-posted request of a master to the port's window: it ends with an
error response, BUS_ERROR in a core (R26, R404). -/
def execCompletionTimeout (m : Master) (p : Port) (addr : Word) (w : BitVec 32) (s : State) :
    Outcome State Fault Refusal :=
  .next (if (s.port p.val).st == .active && s.pcieWindow addr.toNat = some p then
      (match m with
       | .core lc =>
         if s.lcRuns lc then s.takeExc lc w { code := 0x10, addr := addr.toNat, access := 2 } else s
       | _ => s.respond m .error)
    else s)
/-- INTx is discarded and counted (R404). -/
def execIntxMessage (p : Port) (s : State) : Outcome State Fault Refusal :=
  .next (if (s.port p.val).st == .active && s.isPciPort p then s.bump (.portErrcnt p) 7 0 1 else s)
/-- A PCI Express link completes training (R401, R404). -/
def execPcieLinkActive (p : Port) (width rate : BitVec 4) (flit reversed : Bool) (s : State) :
    Outcome State Fault Refusal :=
  .next (s.pcieUp p width rate flit reversed)

end Sys2Proof.Machine
end

