-- ==== Sys2Proof/Machine/Tick.lean ====
section
/-! DEFINITION. One tick of the timebase: what the block does when no command waits (R73 to R75). -/

namespace Sys2Proof.Machine

/-- Fraction units of one 32.768 kHz tick beyond its 30,517 whole nanoseconds (R73). -/
def slowFrac : Nat := 0x94000000

/-- Signed value of TB_CTL.RATE. -/
def State.rate (s : State) : Int := (BitVec.ofNat 32 (s.fld .tbCtl 63 32)).toInt

/-- The timebase after one tick: 30,517.578125 ns on the 32.768 kHz clock, 1 ns plus RATE on the 1 GHz clock, then
the sum of the accepted TB_STEP writes, as one change (R73, R75).  A step back makes the multiples it passes over be
crossed again (log entry 25). -/
def State.tick (s : State) : State :=
  let t := s.tb
  let now : Nat := t.ns.toNat * 2 ^ 32 + t.frac.toNat
  let inc : Int := if t.fast then (2 ^ 32 : Nat) + s.rate else (30517 * 2 ^ 32 + slowFrac : Nat)
  let total : Int := (now : Int) + inc + t.step.toInt * ((2 ^ 32 : Nat) : Int)
  if s.mode == .off then s
  else
    let ns : Word := BitVec.ofInt 64 (total / ((2 ^ 32 : Nat) : Int))
    { s with
      tb := { t with ns := ns, frac := BitVec.ofInt 32 total, step := 0 }
      keeper := { s.keeper with aliveMult := min s.keeper.aliveMult (ns.toNat / 1000000)
                                ppsMult := min s.keeper.ppsMult (ns.toNat / 1000000000) } }

end Sys2Proof.Machine
end

