-- ==== Sys2Proof/Machine/Power.lean ====
section
/-! DEFINITION. Modes, supplies, the keeper, the timebase, the comparators and ZEROIZE (chapter 3). -/

namespace Sys2Proof.Machine

open Host (Outcome)

/-! ### Resets (R8, R70, R552) -/

/-- Everything outside the always-on island takes its module-reset value; DRAM loses its contents with its supply
(R70, R72, R491). -/
def State.moduleReset (s : State) : State :=
  { State.reset with
    pending := s.pending
    keeper := s.keeper
    tb := s.tb
    fuses := s.fuses
    loader := { Loader.init with flash := s.loader.flash }
    regs := moduleResetRegs s.regs
    mgmt := { Mgmt.init with tapIr := s.mgmt.tapIr, bsr := s.mgmt.bsr, tapDr := s.mgmt.tapDr }
    pins := s.pins.map fun (e : Nat × PinSt) => (e.1, { e.2 with rateWindow := 0, rateCount := 0 })
    resps := s.resps
    free := s.free }

/-- The always-on supplies are lost: nothing but the fuses and the flash keeps its contents (R63, R552). -/
def State.supplyLoss (s : State) : State :=
  { State.reset with
    pending := s.pending
    keeper := { Keeper.init with mode := .off }
    fuses := s.fuses
    loader := { Loader.init with flash := s.loader.flash }
    free := s.free }

/-- The power-on reset ends: straps are sampled and the module is in KEEPER (R65, R80, R552). -/
def State.powerOn (s : State) (st : Straps) : State :=
  if s.mode != .off then s
  else
    { s with keeper := { Keeper.init with straps := st, wakeLatch := if st.ponwake then [0x01] else [] } }

/-! ### WAKE (R65, R70, R79, R80) -/

/-- The lowest code of a list of wake causes. -/
def lowestCause (l : List Byte) : Nat := l.foldl (fun m c => min m c.toNat) 0xFF

/-- WAKE begins: PWREN0 rises. -/
def State.beginWake (s : State) (cause : Nat) : State :=
  let k := s.keeper
  let k1 := { k with trans := .none, wakePhase := .powerUp, wakeZeroize := !k.zeroLatch.isEmpty, wakeLatch := [],
                     zeroLatch := [], pwren := 1, holdFromStart := false, quiesced := false }
  (({ s with keeper := k1 }).setFld .ksWake 47 40 cause).changeMode .wake

def State.wakeEvent (s : State) : State :=
  let l := s.keeper.wakeLatch ++ s.keeper.zeroLatch
  if s.mode == .keeper && s.keeper.trans == .none && !l.isEmpty then s.beginWake (lowestCause l) else s

/-- The module is in a step of WAKE. -/
def State.inWake (s : State) (p : WakePhase) : Bool := s.mode == .wake && s.keeper.trans == .none && s.keeper.wakePhase == p

/-- The WAKE fails: the step is recorded and the power-down sequence begins. -/
def State.wakeFail (s : State) (code : Nat) : State := (s.setFld .ksStatus 47 40 code).beginPowerDown false

/-- PGOOD of the group raised last has stayed asserted: the next output rises, or the power-up sequence is complete. -/
def State.powerUpStep (s : State) : State :=
  if !s.inWake .powerUp then s
  else
    let k := s.keeper
    if k.pwren = 15 then
      { s with keeper := { k with pgood := 15, wakePhase := if k.wakeZeroize then .bist else .fuseSense } }
    else { s with keeper := { k with pgood := k.pwren, pwren := k.pwren * 2 + 1 } }

def State.fuseSensed (s : State) (ok : Bool) : State :=
  if !s.inWake .fuseSense then s
  else if ok then { s with keeper := { s.keeper with wakePhase := .bist } }
  else s.wakeFail 2

/-- LOAD is entered: SPDs are read, the module's identity keys derived, both copies are still to be tried (R50, R307). -/
def State.enterLoad (s : State) (dimms : List (Chan × Dimm)) : State :=
  let k := s.keeper
  let k1 := { k with wakePhase := .none, triedA := false, triedB := false, wroteA := false, aliveMult := s.now / 1000000,
                     aliveStopped := false }
  (({ s with keeper := k1, mgmt := { s.mgmt with keysValid := true } }).readSpds dimms).changeMode .load

/-! ### ZEROIZE (R79, R82, R83) -/

/-- Polder's ranges of kinds MEMORY, SPILLWAY and STAGING in the image in force. -/
def State.polderRanges (s : State) : List Grant :=
  match s.image with
  | some i => i.grants.filter fun g => g.owner = 16 && 1 ≤ g.kind && g.kind ≤ 3
  | none => []

/-- Every ZEROIZE action bit is cleared. -/
def State.clearZeroActions (s : State) : State :=
  let s1 := (List.finRange 16).foldl (fun s n => s.setFld (.tbCmpCfg n) 3 3 0) s
  (List.finRange 6).foldl (fun s e => s.setFld (.ecCfg e) 3 3 0) s1

/-- The erasure, in the order of R82; a queued write of an erased line is overwritten with it. -/
def State.erase (s : State) : State :=
  let s1 := { s with accs := s.accs.map fun (e : Nat × AccSt) => (e.1, { e.2 with kw := 0, kwWords := Vector.replicate 4 0 }) }
  let s2 := (List.finRange 4).foldl (fun s t => s.setFld (.engstat ⟨true, t⟩) 63 63 0) s1
  let s3 := { s2 with mgmt := { s2.mgmt with keysValid := false, sessions := [], queue := [] } }
  let s4 := s3.polderRanges.foldl (fun (s : State) g =>
    let out (l : Nat) : Bool := l * 128 + 127 < g.first.toNat || g.last.toNat < l * 128
    { s with mem := memZero s.mem g.first.toNat g.last.toNat
             poison := s.poison.filter out
             chans := s.chans.map fun (e : Nat × ChanSt) =>
               (e.1, { e.2 with
                 writeQ := e.2.writeQ.filter fun w => out w.line.toNat
                 caWrite := e.2.caWrite.map fun w =>
                   if out w.line.toNat then w else { w with data := 0, poison := false } }) }) s3
  { s4 with holders := [], slices := [], outReqs := [], loader := { s4.loader with staged := none, delivery := none } }

/-- ZEROIZE is entered: masters stop, exchanges are abandoned, and the erasure runs. -/
def State.enterZeroize (s : State) : State :=
  let k := s.keeper
  let s1 := { s with keeper := { k with trans := .none, wakePhase := .none, wakeZeroize := false, aliveStopped := true,
                                        wakeLatch := [], zeroLatch := [] } }
  ((((s1.debugEnd).dropExchanges).changeMode .zeroize).erase).clearZeroActions

/-- Modes in which a firing comparator's ZEROIZE action acts at once (Table 3.3). -/
def Mode.zeroizes (m : Mode) : Bool := m.running || m == .load || m == .compose || m == .quiesce || m == .hold

def State.keeperBistDone (s : State) (ok : Bool) (dimms : List (Chan × Dimm)) : State :=
  if !s.inWake .bist then s
  else if !ok then s.wakeFail 3
  else if s.keeper.wakeZeroize then s.enterZeroize
  else s.enterLoad dimms

def State.zeroizeComplete (s : State) : State :=
  if s.mode == .zeroize && s.keeper.trans == .none then s.beginPowerDown false else s

/-! ### The power-down sequence (R70, R80) -/

/-- The sequence is complete: KEEPER, or WAKE after RESTART. -/
def State.powerDownEnd (s : State) (restart : Bool) : State :=
  let k := s.keeper
  let s1 := { s with keeper := { k with trans := .none, wakePhase := .none, pgood := 0, pwren := 0, railLost := 0,
                                        alive := false, ppsOut := k.ppsOut, quiesced := false } }.moduleReset
  if restart then
    s1.beginWake (if k.zeroLatch.isEmpty then 0x30 else lowestCause k.zeroLatch)
  else s1.changeMode .keeper

/-- The previous group's PGOOD has fallen, or 5 ms have passed. -/
def State.powerDownStep (s : State) (pgoodFell : Bool) : State :=
  match s.keeper.trans with
  | .powerDown r =>
    let k := s.keeper
    let g := fallenGroup k.pwren
    let pg := if pgoodFell then k.pgood &&& ~~~(1#4 <<< g) else k.pgood
    if k.pwren = 0 then { s with keeper := { k with pgood := pg } }.powerDownEnd r
    else { s with keeper := { k with pgood := pg, pwren := lowerTop k.pwren } }
  | _ => s

/-! ### Rails (R71, R511) -/

/-- PGOOD of a group whose enable is raised deasserts, also within the 1 ms that WAKE waits for it (R71). -/
def State.pgoodLoss (s : State) (g : Fin 4) : State :=
  if s.poweringDown || !s.keeper.pwren.getLsbD g.val || s.keeper.railLost.getLsbD g.val then s
  else
    let k := s.keeper
    ({ s with keeper := { k with pgood := k.pgood &&& ~~~(1#4 <<< g.val), railLost := k.railLost ||| (1#4 <<< g.val) } }).report
      keeperSrc 0x04 clsGrave g.val

def State.pgoodBack (s : State) (g : Fin 4) : State :=
  if s.poweringDown || !s.keeper.railLost.getLsbD g.val then s
  else
    let k := s.keeper
    { s with keeper := { k with pgood := k.pgood ||| (1#4 <<< g.val), railLost := k.railLost &&& ~~~(1#4 <<< g.val) } }

/-! ### KS_CMD (R66 to R68, R82, R83) -/

/-- Every hosted logical core is stopped, no channel cycle is in flight, and no chunk of an instruction slot runs; a
context's request stands at its latest progress point whenever `chunkDone` does not move it (R437). -/
def State.mastersStopped (s : State) : Bool :=
  (allLc.all fun l => (s.lc l.val).host.isNone || (s.lc l.val).stops.any) && (s.scs.all fun e => e.2.exch.isNone) &&
    s.slots.all fun e => !e.2.busy

def State.ksQuiesce (s : State) : State :=
  if !s.mode.running then s.ksResult 2
  else
    let s1 := allLc.foldl (fun s l =>
      if (s.lc l.val).host.isSome then s.modLc l.val fun c => { c with reqs := { c.reqs with quiesce := true } } else s) s
    { s1 with keeper := { s1.keeper with trans := .quiescing } }

def State.quiesceComplete (s : State) : State :=
  if s.keeper.trans == .quiescing && s.mastersStopped then
    (({ s with keeper := { s.keeper with trans := .none, quiesced := true } }).ksResult 0).settleMode
  else s

/-- Accept the held writes of a queue while nothing holds them back. -/
def State.acceptHeld (s : State) (q : Qn) : Nat → State
  | 0 => s
  | n + 1 => (s.qHeldAccept q).acceptHeld q n

/-- RESUME; refused while a re-composition is being applied (log entry 27). -/
def State.ksResume (s : State) : State :=
  if s.mode != .quiesce then s.ksResult 2
  else if s.fld .imgStatus 23 20 = 5 then s.ksResult 1
  else
    let s1 := (({ s with keeper := { s.keeper with quiesced := false } }).unquiesce).settleMode
    (s1.queues.foldl (fun s e => match fin? 32768 e.1 with
      | some q => s.acceptHeld q e.2.held.length
      | none => s) s1).ksResult 0

/-- Some page of local DRAM between two addresses is homed on tile `t`. -/
def State.homedOn (s : State) (t first last : Nat) : Bool :=
  (List.range (s.dramTop / 2 ^ 26)).any fun g =>
    first < (g + 1) * 2 ^ 26 && g * 2 ^ 26 ≤ last && (s.dramPlace (g * 2 ^ 26)).map (·.1) == some t

/-- ISOLATE finds the tile in use (R67). -/
def State.tileInUse (s : State) (k : Nat) : Bool :=
  if k ≤ 4 then
    (allLc.any fun l => (s.lc l.val).host.map (fun h => h.val / 48 + 1) == some k) ||
      (match s.image with
       | some i => i.grants.any fun g => g.kind = 1 && s.homedOn (k - 1) g.first.toNat g.last.toNat
       | none => false)
  else
    (s.scList.any fun n => match (s.sc n.val).active with
      | some a => s.pathTile n a.val = k - 5
      | none => false) ||
      (match s.image with
       | some i => i.grants.any fun g => g.kind = 7 && g.first.toNat < 8192 * (k - 4) && 8192 * (k - 5) ≤ g.last.toNat
       | none => false)

/-- Every path on an I/O tile fails (R394). -/
def State.itDown (s : State) (t : Nat) : State :=
  ((List.finRange 512).foldl (fun s p => if p.val / 128 = t && s.isLyvanPort p then s.portPathsFail p else s) s).dropAgents
    (5 + t)

/-- A tile leaves service: an agent death for a compute tile, failed paths for an I/O tile. -/
def State.tileGone (s : State) (k : Nat) : State :=
  match fin? 4 (k - 1) with
  | some t => (s.tileDeath t).refreshStandbys
  | none => s.itDown (k - 5)

/-- ISOLATE.  DESIGN CHOICE (log entry 114): with a TILE that is no window index 1 to 8 it completes with NOT_VALID. -/
def State.ksIsolate (s : State) (k : Nat) : State :=
  if !(s.mode == .run || s.mode == .degraded || s.mode == .split) then s.ksResult 2
  else if k = 0 || 8 < k then s.ksResult 3
  else if s.tileInUse k then s.ksResult 4
  else (((s.setFld .ksStatus 39 36 k).tileGone k).ksResult 0).settleMode

def State.ksRestore (s : State) (k : Nat) : State :=
  if s.mode != .service then s.ksResult 2
  else if k ≠ s.svcTile then s.ksResult 3
  else { s with keeper := { s.keeper with trans := .restoring } }

/-- Ports of an I/O tile give their paths again. -/
def State.itBack (s : State) (t : Nat) : State :=
  (List.finRange 512).foldl (fun s p => if p.val / 128 = t && s.isLyvanPort p then s.portPathsGained p else s) s

def State.restoreDone (s : State) (ok : Bool) : State :=
  if s.keeper.trans != .restoring then s
  else
    let s1 := { s with keeper := { s.keeper with trans := .none } }
    if !ok then s1.ksResult 3
    else
      let k := s.svcTile
      let s2 := ({ s1 with loader := { s1.loader with qosHeld := none } }.setFld .ksStatus 39 36 0).ksResult 0
      (if 5 ≤ k then s2.itBack (k - 5) else s2).settleMode

def State.ksSleep (s : State) : State :=
  if s.mode == .load || s.mode == .quiesce || s.mode == .hold then (s.ksResult 0).beginPowerDown false else s.ksResult 2

def State.ksRestart (s : State) : State :=
  if s.mode == .hold then (s.ksResult 0).beginPowerDown true else s.ksResult 2

def confirmCode : BitVec 32 := 0x5A45524F

def State.ksZeroize (s : State) (confirm : BitVec 32) : State :=
  if !(s.mode.zeroizes || s.mode == .zeroize) then s.ksResult 2
  else if confirm ≠ confirmCode then s.ksResult 3
  else if s.mode == .zeroize then s.ksResult 0
  else (s.ksResult 0).enterZeroize

/-- A write of KS_CMD: `zero` for the ZEROIZE command. -/
def State.ksWrite (s : State) (m : Master) (zero : Bool) (k : State → State) : State :=
  s.csPriv m CsReg.ksCmd.addr fun s =>
    if s.mode == .zeroize && !zero then s.ksResult 2
    else if s.mode != .zeroize && s.keeper.trans != .none then s.ksResult 1
    else k s

/-- A write of any value to KS_CMD. -/
def State.ksCmdW (s : State) (m : Master) (v : Word) : State :=
  let tile := bits v 11 8
  match bits v 7 0 with
  | 1 => s.ksWrite m false State.ksQuiesce
  | 2 => s.ksWrite m false State.ksResume
  | 3 => s.ksWrite m false fun s => s.ksIsolate tile
  | 4 => s.ksWrite m false fun s => s.ksRestore tile
  | 5 => s.ksWrite m false State.ksSleep
  | 6 => s.ksWrite m false State.ksRestart
  | 7 => s.ksWrite m true fun s => s.ksZeroize (BitVec.ofNat 32 (bits v 63 32))
  | _ => s.ksWrite m false fun s => s.ksResult 3

/-! ### The timebase (R73 to R76) -/

def tbSrc : Nat := srcId 0 0x21 0

/-- TB_NOW: the fraction of the same instant is latched. -/
def State.tbNowR (s : State) (m : Master) : State :=
  s.csAccess m CsReg.tbNow.addr needR true fun s =>
    (s.setReg .tbFrac (BitVec.ofNat 64 s.tb.frac.toNat)).respond m (.data s.tb.ns)

def State.tbStepW (s : State) (m : Master) (d : Word) : State :=
  s.csOpen m CsReg.tbStep.addr fun s =>
    if s.fld .tbCtl 8 8 = 1 && d.msb then s.report tbSrc 0x03 clsNote 0
    else { s with tb := { s.tb with step := s.tb.step + d } }

/-- RATE limits of TB_CTL. -/
def rateLimit : Int := 2147484

def clampRate (v : Nat) : Nat :=
  let r := (BitVec.ofNat 32 v).toInt
  (BitVec.ofInt 32 (max (-rateLimit) (min rateLimit r))).toNat

/-- TB_CTL; PPS_OUT starts at the next crossing after PPS_OUT_EN is set.  DESIGN CHOICE (log entry 114): every write of TB_CTL
begins the count of crossings anew, so a crossing that has not yet risen is lost. -/
def State.tbCtlW (s : State) (m : Master) (v : Word) : State :=
  s.csOpen m CsReg.tbCtl.addr fun s =>
    let w := softWrite .tbCtl (s.reg .tbCtl) v
    let s1 := s.setReg .tbCtl (setBits w 63 32 (clampRate (bits w 63 32)))
    { s1 with keeper := { s1.keeper with ppsMult := s1.now / 1000000000 } }

def captureCode : CaptureSource → Nat
  | .ppsIn => 1 | .ptpMgt0 => 2 | .ptpMgt1 => 3

def State.capture (s : State) (src : CaptureSource) : State :=
  if s.mode != .off && s.fld .tbCtl 5 4 = captureCode src then s.setReg .tbCapture s.tb.ns else s

/-- The switch to the 1 GHz increment: its tick still adds the full 32.768 kHz increment (R74). -/
def State.tbFast (s : State) : State :=
  if s.tb.fast || s.poweringDown || s.mode == .off || s.mode == .keeper then s
  else let s1 := s.tick; { s1 with tb := { s1.tb with fast := true } }

/-- The switch back: its tick adds nothing. -/
def State.tbSlow (s : State) : State :=
  if s.tb.fast && (s.poweringDown || s.mode == .keeper || (s.mode == .wake && s.keeper.wakePhase == .powerUp)) then
    { s with tb := { s.tb with fast := false } }
  else s

def State.ppsRises (s : State) : State :=
  let q := s.now / 1000000000
  if s.mode != .off && s.fld .tbCtl 0 0 = 1 && s.keeper.ppsMult < q then
    { s with keeper := { s.keeper with ppsOut := true, ppsMult := q, ppsRise := s.tb.ns } }
  else s

def State.ppsFalls (s : State) : State :=
  if s.keeper.ppsOut && s.keeper.ppsRise.toNat + 100000000 ≤ s.now then { s with keeper := { s.keeper with ppsOut := false } }
  else s

/-! ### Comparators (R77 to R80) -/

def addCause (l : List Byte) (c : Byte) : List Byte := if l.contains c then l else l ++ [c]

/-- The comparators act as in KEEPER: in KEEPER, and while a power-down sequence runs. -/
def State.keeperLike (s : State) : Bool := s.mode == .keeper || s.poweringDown

/-- Perform the actions whose bits stand in a comparator's configuration. -/
def State.cmpActions (s : State) (cfg : Word) (code : Byte) (inst : Nat) : State :=
  let wakes := cfg.getLsbD 2
  let zeroes := cfg.getLsbD 3
  if s.keeperLike then
    let k := s.keeper
    { s with keeper := { k with wakeLatch := if wakes then addCause k.wakeLatch code else k.wakeLatch
                                zeroLatch := if zeroes then addCause k.zeroLatch code else k.zeroLatch } }
  else
    let s1 := if cfg.getLsbD 1 && s.runOrQuiesce then s.raiseIrq 0 ⟨0x08, BitVec.ofNat 18 inst, 0, true, 16, none⟩ else s
    if zeroes && s.mode.zeroizes then s1.enterZeroize else s1

def State.comparatorFire (s : State) (n : Fin 16) : State :=
  let cfg := s.reg (.tbCmpCfg n)
  let v := (s.reg (.tbCmpVal n)).toNat
  if s.mode == .off || !cfg.getLsbD 0 || s.now < v then s
  else
    let p := bits cfg 63 24
    let s1 := s.setFld (.tbCmpCfg n) 7 7 1
    let s2 := if p = 0 then s1.setFld (.tbCmpCfg n) 0 0 0
      else s1.setReg (.tbCmpVal n) (BitVec.ofNat 64 (v + ((s.now - v) / p + 1) * p))
    s2.cmpActions cfg (BitVec.ofNat 8 (0x10 + n.val)) n.val

/-- A SOURCE value that EC_CFG lists for the comparator's kind. -/
def ecSourceOk (e : Fin 6) (src : Nat) : Bool := if e.val < 4 then src ≤ 11 else src ≤ 9

/-- Sources that are sampled in KEEPER: VAON, VIO_AON, the KT sensor. -/
def ecInKeeper (e : Fin 6) (src : Nat) : Bool := if e.val < 4 then src ≤ 1 else src = 1

def State.ecSample (s : State) (e : Fin 6) (x : BitVec 12) : State :=
  let r := CsReg.ecCfg e
  let cfg := s.reg r
  let src := bits cfg 39 36
  if s.mode == .off || !ecSourceOk e src || (s.keeperLike && !ecInKeeper e src) then s
  else
    let lo := BitVec.ofNat 12 (bits cfg 51 40)
    let hi := BitVec.ofNat 12 (bits cfg 63 52)
    let below : Bool := if e.val < 4 then decide (x.toNat < lo.toNat) else decide (x.toInt < lo.toInt)
    let above : Bool := if e.val < 4 then decide (hi.toNat < x.toNat) else decide (hi.toInt < x.toInt)
    let s1 := { s with tb := { s.tb with ecValue := s.tb.ecValue.set e x } }
    let was := s.tb.ecOut.getLsbD e.val
    if !(below || above) then { s1 with tb := { s1.tb with ecOut := s1.tb.ecOut &&& ~~~(1#6 <<< e.val) } }
    else if !cfg.getLsbD 0 || was then s1
    else
      let s2 := { s1 with tb := { s1.tb with ecOut := s1.tb.ecOut ||| (1#6 <<< e.val) } }
      let s3 := if below then s2.setFld r 7 7 1 else s2
      let s4 := if above then s3.setFld r 6 6 1 else s3
      s4.cmpActions cfg (BitVec.ofNat 8 (0x20 + e.val)) (16 + e.val)

/-! ### XWAKE (R80) and the keeper pair (R81) -/

def State.xwake (s : State) (high : Bool) : State :=
  let k := s.keeper
  if s.mode == .off then s
  else if high then { s with keeper := { k with xwakeHigh := true } }
  else if !k.xwakeHigh then s
  else
    let latch : Bool := s.keeperLike && s.fld .ksWake 8 8 = 1
    { s with keeper := { k with xwakeHigh := false, wakeLatch := if latch then addCause k.wakeLatch 0x02 else k.wakeLatch } }

def State.pairMiss (s : State) : State :=
  if !s.ringsRun then s
  else
    let recent := s.keeper.mismatches.filter fun t => s.now < t.toNat + 1000000
    if 2 ≤ recent.length then
      ({ s with keeper := { s.keeper with mismatches := [] } }).report keeperSrc 0x05 clsGrave 0
    else { s with keeper := { s.keeper with mismatches := recent ++ [s.tb.ns] } }

/-! ### Commands -/

/-- R63, R65, R83. -/
def execSupplyLoss (s : State) : Outcome State Fault Refusal := .next s.supplyLoss

/-- R65, R552, R558. -/
def execPowerOnReset (straps : Straps) (s : State) : Outcome State Fault Refusal := .next (s.powerOn straps)

/-- R80. -/
def execWakeEvent (s : State) : Outcome State Fault Refusal := .next s.wakeEvent

/-- R80. -/
def execXwakeFall (s : State) : Outcome State Fault Refusal := .next (s.xwake false)

/-- R80. -/
def execXwakeRise (s : State) : Outcome State Fault Refusal := .next (s.xwake true)

/-- R70. -/
def execPowerUpStep (s : State) : Outcome State Fault Refusal := .next s.powerUpStep

/-- R70. -/
def execRailTimeout (s : State) : Outcome State Fault Refusal := .next (if s.inWake .powerUp then s.wakeFail 1 else s)

/-- R65. -/
def execFuseSenseDone (ok : Bool) (s : State) : Outcome State Fault Refusal := .next (s.fuseSensed ok)

/-- R65, R79. -/
def execKeeperBistDone (ok : Bool) (dimms : List (Chan × Dimm)) (s : State) : Outcome State Fault Refusal :=
  .next (s.keeperBistDone ok dimms)

/-- R65, R49, R201. -/
def execComposeComplete (cxlUnits : List (Port × Nat)) (s : State) : Outcome State Fault Refusal :=
  .next (s.composeComplete cxlUnits)

/-- R70. -/
def execPowerDownStep (pgoodFell : Bool) (s : State) : Outcome State Fault Refusal := .next (s.powerDownStep pgoodFell)

/-- R71, R511. -/
def execPgoodLoss (group : Fin 4) (s : State) : Outcome State Fault Refusal := .next (s.pgoodLoss group)

/-- R511. -/
def execPgoodReassertion (group : Fin 4) (s : State) : Outcome State Fault Refusal := .next (s.pgoodBack group)

/-- R66, R68. -/
def execKsQuiesce (m : Master) (s : State) : Outcome State Fault Refusal := .next (s.ksWrite m false State.ksQuiesce)

/-- R66. -/
def execQuiesceComplete (s : State) : Outcome State Fault Refusal := .next s.quiesceComplete

/-- R66, R68. -/
def execKsResume (m : Master) (s : State) : Outcome State Fault Refusal := .next (s.ksWrite m false State.ksResume)

/-- R67, R68. -/
def execKsIsolate (m : Master) (tile : BitVec 4) (s : State) : Outcome State Fault Refusal :=
  .next (s.ksWrite m false fun s => s.ksIsolate tile.toNat)

/-- R67, R68. -/
def execKsRestore (m : Master) (tile : BitVec 4) (s : State) : Outcome State Fault Refusal :=
  .next (s.ksWrite m false fun s => s.ksRestore tile.toNat)

/-- R67. -/
def execRestoreBistDone (ok : Bool) (s : State) : Outcome State Fault Refusal := .next (s.restoreDone ok)

/-- R65, R68. -/
def execKsSleep (m : Master) (s : State) : Outcome State Fault Refusal := .next (s.ksWrite m false State.ksSleep)

/-- R68, R70. -/
def execKsRestart (m : Master) (s : State) : Outcome State Fault Refusal := .next (s.ksWrite m false State.ksRestart)

/-- R82, R83. -/
def execKsZeroize (m : Master) (confirm : BitVec 32) (s : State) : Outcome State Fault Refusal :=
  .next (s.ksWrite m true fun s => s.ksZeroize confirm)

/-- R82. -/
def execZeroizeComplete (s : State) : Outcome State Fault Refusal := .next s.zeroizeComplete

/-- R75. -/
def execTbNowRead (m : Master) (s : State) : Outcome State Fault Refusal := .next (s.tbNowR m)

/-- R75. -/
def execTbStep (m : Master) (delta : Word) (s : State) : Outcome State Fault Refusal := .next (s.tbStepW m delta)

/-- R74. -/
def execTbSwitchTo1ghz (s : State) : Outcome State Fault Refusal := .next s.tbFast

/-- R74. -/
def execTbSwitchTo32k (s : State) : Outcome State Fault Refusal := .next s.tbSlow

/-- R76. -/
def execTbCaptureEvent (src : CaptureSource) (s : State) : Outcome State Fault Refusal := .next (s.capture src)

/-- R76. -/
def execPpsOutRise (s : State) : Outcome State Fault Refusal := .next s.ppsRises

/-- R76. -/
def execPpsOutFall (s : State) : Outcome State Fault Refusal := .next s.ppsFalls

/-- R77, R79. -/
def execComparatorFire (n : Fin 16) (s : State) : Outcome State Fault Refusal := .next (s.comparatorFire n)

/-- R78, R79. -/
def execEcSample (e : Fin 6) (sample : BitVec 12) (s : State) : Outcome State Fault Refusal := .next (s.ecSample e sample)

/-- R81. -/
def execKeeperPairMismatch (s : State) : Outcome State Fault Refusal := .next s.pairMiss

end Sys2Proof.Machine
end

