-- ==== Sys2Proof/Machine/Faults.lean ====
section
/-! DEFINITION. Fault collectors, promotion, the ALIVE signal and the input pins (chapter 18). -/

namespace Sys2Proof.Machine

open Host (Outcome)

/-! ### The fault policy in force (R43, R44, R563) -/

/-- Header word of the policy: N = 255 and W = 30 where no image governs (R563). -/
def State.policyDefault (s : State) : Nat × Nat :=
  match s.image with
  | none => (255, 30)
  | some i => let h := wordAt i.policy 0; (bits h 15 8, bits h 21 16)

/-- A record matches a source and kind; `tile`, `inst`: whether it does so by ANY_TILE, ANY_INSTANCE. -/
def recordMatches (r : Word) (src kind : Nat) (tile inst : Bool) : Bool :=
  bits r 63 56 = kind && bits r 51 46 = src / 64 % 64 && r.getLsbD 39 == tile && r.getLsbD 38 == inst &&
    (tile || bits r 55 52 = src / 4096) && (inst || bits r 45 40 = src % 64)

/-- N and W of a pair: exact tile and instance first, any instance next, any tile after that (R44). -/
def State.policyOf (s : State) (src kind : Nat) : Nat × Nat :=
  let recs := match s.image with | some i => i.policy.drop 1 | none => []
  let best := [(false, false), (false, true), (true, false), (true, true)].findSome? fun (k : Bool × Bool) =>
    recs.find? fun r => recordMatches r src kind k.1 k.2
  match best with
  | some r => (bits r 29 22, bits r 21 16)
  | none => s.policyDefault

/-! ### Counting and promotion (R514, R515) -/

/-- The full timestamp: the largest value not above TB_NOW.NS with the message's low 40 bits; a free value when there
is none. -/
def State.fullTime (s : State) (t40 : Nat) : Nat × State :=
  let d := (s.now % 2 ^ 40 + 2 ^ 40 - t40) % 2 ^ 40
  if d ≤ s.now then (s.now - d, s) else let r := s.draw; (r.1.toNat, r.2)

/-- The window of a counter has ended. -/
def Counter.ended (c : Counter) (now : Nat) : Bool := (c.window + 1) * 2 ^ c.w ≤ now

def Counter.pair (c : Counter) (src kind : Nat) : Bool := c.src.toNat = src && c.kind.toNat = kind

/-- Count one message of a pair at time `t`: the counters after it, and the count and threshold reached; `none` when no
counter is free. -/
def countPair (cs : List Counter) (src kind : Nat) (pol : Nat × Nat) (t now : Nat) : Option (List Counter × Nat × Nat) :=
  let fresh : Counter := ⟨BitVec.ofNat 16 src, BitVec.ofNat 8 kind, pol.1, pol.2, t / 2 ^ pol.2, 1⟩
  match cs.find? fun c => c.pair src kind with
  | some c =>
    let c' : Counter := if t / 2 ^ c.w = c.window then { c with count := c.count + 1 } else fresh
    some (cs.map fun x => if x.pair src kind then c' else x, c'.count, c'.n)
  | none =>
    if cs.length < 4096 then some (cs ++ [fresh], 1, fresh.n)
    else if cs.any fun c => c.ended now then some (cs.eraseP (fun c => c.ended now) ++ [fresh], 1, fresh.n)
    else none

/-- A message with another class, marked promoted. -/
def promoteMsg (m : Quad) : Quad :=
  let c := min (faultClass m + 1) clsGrave
  BitVec.ofNat 128 (m.toNat - faultClass m * 2 ^ 101 + c * 2 ^ 101 + if m.getLsbD 8 then 0 else 256)

/-- A message with its LOST field set. -/
def setLost (m : Quad) (n : Nat) : Quad := BitVec.ofNat 128 (m.toNat / 256 * 256 + min n 255)

/-- `State.countFault` with the full time of the message known. -/
def State.countFaultAt (s : State) (k : Tile) (m : Quad) (time : Nat) : Quad × State :=
  let src := faultSrc m
  let kind := faultKind m
  match countPair (s.col k.val).counters src kind (s.policyOf src kind) time s.now with
  | none => (m, s.bump (.fcLost k) 31 16 1)
  | some (cs, count, n) =>
    (if count % n = 0 then promoteMsg m else m, s.modCol k.val fun x => { x with counters := cs })

/-- The collector counts a message, and promotes it at each multiple of N. -/
def State.countFault (s : State) (k : Tile) (m : Quad) : Quad × State :=
  let r := s.fullTime (faultTime m)
  r.2.countFaultAt k m r.1

/-! ### The log (R517) -/

/-- Replace the oldest entry of the lowest class present by a new newest entry. -/
def logReplace (l : List Quad) (m : Quad) : List Quad :=
  let low := l.foldl (fun x q => min x (faultClass q)) 7
  l.eraseP (fun q => faultClass q = low) ++ [m]

def State.logFault (s : State) (k : Tile) (m : Quad) : State :=
  let l := (s.col k.val).log
  if l.length < 1024 then s.modCol k.val fun x => { x with log := l ++ [m] }
  else
    let low := l.foldl (fun x q => min x (faultClass q)) 7
    let s1 := s.bump (.fcLost k) 47 32 1
    if low ≤ faultClass m then s1.modCol k.val fun x => { x with log := logReplace l m } else s1

/-! ### Attribution (R520, Table 18.6) -/

/-- Owner of the source that a class and instance name (Table 17.2). -/
def State.irqOwner (s : State) (cls inst : Nat) : Option Nat :=
  match cls with
  | 1 => s.ownerOf 5 inst
  | 2 => s.ownerOf 7 inst
  | 3 => (fin? 64 inst).bind fun c => (s.dma c.val).queue.bind s.queueOwner
  | 4 => s.ownerOf 6 inst
  | _ => none

/-- The owner for which a frozen master acted, by its source ID. -/
def State.frozenOwner (s : State) (tile block inst : Nat) : Option Nat :=
  match block with
  | 0x13 => (fin? 128 (32 * (tile - 5) + inst)).bind s.peOwner
  | 0x14 => (fin? 64 (16 * (tile - 5) + (inst - 1))).bind fun c => (s.dma c.val).queue.bind s.queueOwner
  | 0x08 | 0x09 =>
    if inst = 0 then none
    else some (s.ctx (16 * (tile - 1) + (if block = 0x09 then 8 else 0) + (inst - 1))).owner.val
  | 0x11 => s.ownerOf 6 (128 * (tile - 5) + inst)
  | 0x12 => s.ownerOf 6 (128 * (tile - 5) + 64 + inst)
  | _ => none

/-- Parcel of a logical core. -/
def State.lcParcel (s : State) (n : Nat) : Option Nat := if n < 192 then some (pswParcel (s.lc n).psw) else none

/-- Parcel of the logical core that a physical core serves or is joining. -/
def State.coreParcel (s : State) (tile inst : Nat) : Option Nat :=
  let c := (s.isl (12 * (tile - 1) + inst / 4)).cores.get ⟨inst % 4, by omega⟩
  if c.role == .unassigned || c.role == .ownSleeper || c.role == .poolSleeper && !c.target || c.role == .failed then none
  else c.lc.bind fun l => s.lcParcel l.val

/-- The one parcel of every slot of an island. -/
def State.islandParcel (s : State) (tile nn : Nat) : Option Nat :=
  let x := s.isl (12 * (tile - 1) + nn)
  let ps := (List.finRange 4).filterMap fun k => (x.slots.get k).lc.map fun l => pswParcel (s.lc l.val).psw
  match ps with
  | [] => none
  | p :: t => if t.all (· = p) then some p else none

/-- The ADDR field of a kind carries a logical-core number. -/
def addrIsLc (kind : Nat) : Bool :=
  kind = 0x0C || kind = 0x20 || (0x10 ≤ kind && kind ≤ 0x1E && !(0x18 ≤ kind && kind ≤ 0x1A))

/-- A DDR, BASIN or COHERENCE kind whose ADDR is a physical address. -/
def addrIsPa (kind : Nat) : Bool :=
  [0x2C, 0x2D, 0x2E, 0x31, 0x32, 0x33, 0x35, 0x37].contains kind

/-- Owner that Table 18.6 names for a message. -/
def State.faultOwner (s : State) (m : Quad) : Option Nat :=
  let tile := faultTile m
  let block := faultBlock m
  let inst := faultInst m
  let kind := faultKind m
  let addr := faultAddr m
  if kind = 0x0B && block ≠ 0x01 then s.frozenOwner tile block inst
  else if addrIsLc kind then s.lcParcel addr
  else if block = 0x01 then s.coreParcel tile inst
  else if block = 0x02 then s.islandParcel tile inst
  else if block = 0x03 then s.islandParcel tile (inst / 3)
  else if block = 0x05 || block = 0x06 || block = 0x07 then (if addrIsPa kind then s.ownerOf 1 addr else none)
  else if kind = 0x4E then none
  else if kind = 0x4F then (fin? 128 (32 * (tile - 5) + inst)).bind s.peOwner
  else if 0x48 ≤ kind && kind ≤ 0x4D then s.ownerOf 5 addr
  else if block = 0x11 then s.ownerOf 6 (128 * (tile - 5) + inst)
  else if block = 0x12 then s.ownerOf 6 (128 * (tile - 5) + 64 + inst)
  else if kind = 0x40 || kind = 0x41 then s.ownerOf 7 addr
  else if kind = 0x5B then some addr
  else if 0x58 ≤ kind && kind ≤ 0x5A then
    if block = 0x0B then some inst
    else if block = 0x15 then s.irqOwner (addr % 256) (addr / 256 % 2 ^ 18)
    else none
  else none

/-- The parcel a message is attributed to; Polder and no one give none. -/
def State.faultParcel (s : State) (m : Quad) : Option Parcel := (s.faultOwner m).bind (fin? 16)

/-! ### Delivery (R518 to R520) -/

/-- A vector goes to the gate of a logical core without a route table (R483). -/
def State.gateVector (s : State) (lc : Nat) (set : Fin 4) (vec : BitVec 11) (cls : Byte) (inst : BitVec 18) : State :=
  s.modLc lc fun l => { l with gate := l.gate ++ [.vector set vec cls inst] }

/-- One write of the collector to a fault queue: dropped and counted when the queue answers with an error. -/
def State.faultEnq (s : State) (k : Tile) (q : Qn) (w : HeldWrite) : State :=
  if s.qEnabled q then s.qArrive q w else s.bump (.fcLost k) 15 0 1

/-- The message goes to the parcel's queue and to its service cores. -/
def State.faultToParcel (s : State) (k : Tile) (p : Parcel) (m : Quad) : State :=
  let r := s.reg (.fcParcel k p)
  let c := faultClass m
  if !r.getLsbD 63 then s
  else
    let s1 := s.setFld (.fcPstat k p) c c 1
    if !r.getLsbD (40 + c) then s1
    else
      let me := Master.collector k
      let s2 := match fin? 32768 (bits r 14 0) with
        | none => s1
        | some q =>
          let u := BitVec.ofNat 4 c
          let ws : List HeldWrite :=
            [⟨me, .open, BitVec.ofNat 64 c, false⟩, ⟨me, .enq u, BitVec.ofNat 64 (qbits m 63 0), false⟩,
             ⟨me, .enq u, BitVec.ofNat 64 (qbits m 127 64), false⟩, ⟨me, .close, 0, false⟩]
          ws.foldl (fun s w => s.faultEnq k q w) s1
      let set : Fin 4 := if r.getLsbD 62 then 1 else 0
      let vec := BitVec.ofNat 11 (bits r 58 48 + c)
      let send (s : State) (lc : Nat) : State := s.gateVector lc set vec 0x0B (BitVec.ofNat 18 k.val)
      match s2.image with
      | none => s2
      | some i =>
        let s3 := send s2 (i.serviceLc p.val 0)
        if i.serviceLc p.val 1 = 0xFF then s3 else send s3 (i.serviceLc p.val 1)

/-- The keeper retains the last 65,536 messages it receives (R541). -/
def State.retain (s : State) (m : Quad) (p : Option Parcel) : State :=
  let l := s.mgmt.log ++ [(m, p)]
  { s with mgmt := { s.mgmt with log := l.drop (l.length - 65536), logNext := s.mgmt.logNext + 1 } }

/-- The first GRAVE message received while the bit is 0 is copied, and ALIVE stops (R518, R525). -/
def State.latchGrave (s : State) (k : Tile) (m : Quad) : State :=
  if faultClass m ≠ clsGrave then s
  else
    let s1 := if s.fld (.fcStatus k) 4 4 = 1 then s
      else (s.setReg (.fcGraveHi k) (BitVec.ofNat 64 (qbits m 127 64))).setReg (.fcGraveLo k) (BitVec.ofNat 64 (qbits m 63 0))
    { s1 with keeper := { s1.keeper with aliveStopped := true } }

/-- Collector `k` handles one message: counted, promoted, logged, latched, signalled (R514 to R520). -/
def State.handleFault (s : State) (k : Tile) (m0 : Quad) : State :=
  let r := s.countFault k m0
  let m := r.1
  let c := faultClass m
  let s1 := ((r.2.bump (.fcLost k) 63 48 (qbits m 7 0)).logFault k m).latchGrave k m
  let s2 := s1.setFld (.fcStatus k) c c 1
  let s3 := if s2.fld (.fcCtl k) c c = 1 then
      s2.raiseIrq 0 ⟨0x0B, BitVec.ofNat 18 k.val, BitVec.ofNat 11 c, true, 16, none⟩ else s2
  let p := s3.faultParcel m
  let s4 := match p with | some p => s3.faultToParcel k p m | none => s3
  let s5 := s4.retain m p
  if m.getLsbD 8 then s5.modCol k.val fun x => { x with promoted := x.promoted ++ [m] } else s5

/-- The ring delivers the oldest message of a source to the collector of its tile (R508). -/
def State.faultArrive (s : State) (src : Nat) : State :=
  match (s.srcBuf src).msgs, fin? 9 (src / 4096) with
  | m :: t, some k =>
    if s.ringsRun then
      let s1 := s.setSrcBuf src ⟨t, 0⟩
      (s1.handleFault k (setLost m (s.srcBuf src).lost)).settleMode
    else s
  | _, _ => s

/-! ### Reactions to promotion (R516, R222, R225, R228, R234, R326, R454) -/

/-- An engine fails: its requests end with ENGINE_FAILED from then on (R454). -/
def State.accFail (s : State) (block tile : Nat) : State :=
  match fin? 4 (tile - 1) with
  | none => s
  | some t =>
    let a : Acc := ⟨block = 0x09, t⟩
    if (s.acc (accIdx a)).failed then s
    else ((s.modAcc (accIdx a) fun x => { x with failed := true }).setFld (.engstat a) 62 62 1).report
      (srcId tile block 0) 0x39 clsSevere 0

/-- The source block takes the reaction its chapter attaches to a promoted message of class CONTAINED. -/
def State.promotionReact (s : State) (m : Quad) : State :=
  let tile := faultTile m
  let inst := faultInst m
  if faultClass m ≠ clsContained || faultBlock m = 0x3F then s
  else
    match faultKind m with
    | 0x10 =>
      match fin? 192 (48 * (tile - 1) + inst) with
      | some c => s.replaceCore (coreIsland c) (coreLetter c)
      | none => s
    | 0x12 =>
      match fin? 192 (faultAddr m) with
      | some lc =>
        match (s.lc lc.val).host with
        | some h => s.pairTest (hostIsland h) (slotPos h)
        | none => s
      | none => s
    | 0x13 =>
      match fin? 192 (48 * (tile - 1) + inst) with
      | some c => s.simplexHard (coreIsland c) (coreLetter c) 0
      | none => s
    | 0x1A =>
      match fin? 48 (12 * (tile - 1) + inst / 3), fin? 3 (inst % 3) with
      | some i, some k => s.voterOut i k
      | _, _ => s
    | 0x33 =>
      match fin? 20 (5 * (tile - 1) + inst) with
      | some c => if (s.map (tile - 1)).stripe then s.chanFail c else s
      | none => s
    | 0x38 => s.accFail (faultBlock m) tile
    | _ => s

def State.promotionSignal (s : State) (k : Tile) : State :=
  match (s.col k.val).promoted with
  | [] => s
  | m :: t => ((s.modCol k.val fun x => { x with promoted := t }).promotionReact m).settleMode

/-! ### Conditions (R511, R512) and stopped tiles (R513) -/

/-- Classes of the condition kinds that are active in a collector (FC_STATUS.ACTIVE). -/
def State.colActive (s : State) (k : Tile) : Nat :=
  (if (s.col k.val).junction then 2 ^ clsSevere else 0) +
    (if k.val = 0 && s.keeper.railLost ≠ 0 then 2 ^ clsGrave else 0)

/-- One reading of a tile's junction sensors, lowest and highest, in signed 0.125 °C units. -/
def State.junction (s : State) (k : Tile) (lo hi : BitVec 12) : State :=
  if !s.ringsRun then s
  else
    let cold := lo.toInt < -440
    let hot := 1000 < hi.toInt
    if cold || hot then
      if (s.col k.val).junction then s
      else
        let t := if cold then lo else hi
        (s.modCol k.val fun x => { x with junction := true }).report (srcId k.val 0x0C 0) 0x06 clsSevere
          ((t.signExtend 52).toNat)
    else if -424 ≤ lo.toInt && hi.toInt ≤ 984 then s.modCol k.val fun x => { x with junction := false }
    else s

/-- Logical cores hosted on compute tile `t`. -/
def State.tileLcs (s : State) (t : Nat) : List Lc := allLc.filter fun l => (s.lc l.val).host.any fun h => h.val / 48 = t

/-- Block and instance that report a fatal kind of a tile, where the tile has that block. -/
def fatalSource (k kind : Nat) (ring : Fin 2) : Option (Nat × Nat) :=
  if kind = 0x08 && 1 ≤ k && k ≤ 4 then some (0x04, ring.val)
  else if kind = 0x09 then some (0x3F, 0)
  else if kind = 0x0A && 5 ≤ k then some (0x17, 0)
  else none

/-- RING_UE, FRING_UE or FABRIC_UE stops its tile (R513). -/
def State.tileFatal (s : State) (k : Tile) (kind : Nat) (ring : Fin 2) (addr : Nat) : State :=
  match fatalSource k.val kind ring with
  | none => s
  | some (b, i) =>
    if !s.ringsRun || (s.col k.val).stopped then s
    else
      let lcs := if 1 ≤ k.val && k.val ≤ 4 then s.tileLcs (k.val - 1) else []
      let grave := lcs.any fun l => pswPolder (s.lc l.val).psw
      let s1 := s.report (srcId k.val b i) kind clsSevere (if kind = 0x08 then addr else 0)
      let s2 := s1.modCol k.val fun x => { x with stopped := true }
      let s3 := s2.report keeperSrc 0x07 (if grave then clsGrave else clsSevere) (k.val + 256 * kind)
      let s4 := lcs.foldl (fun s l => s.modLc l.val fun c => { c with stops := { c.stops with lost := true } }) s3
      (if k.val = 0 then s4 else s4.tileGone k.val).settleMode

/-! ### Collector registers (R517, R521 to R524) -/

/-- FC_LOG_HI: the oldest entry leaves the log. -/
def State.fcLogR (s : State) (m : Master) (k : Tile) : State :=
  s.csAccess m (CsReg.fcLogHi k).addr needR true fun s =>
    match (s.col k.val).log with
    | [] => (s.setReg (.fcLogLo k) 0).respond m (.data 0)
    | e :: t =>
      ((s.modCol k.val fun x => { x with log := t }).setReg (.fcLogLo k) (BitVec.ofNat 64 (qbits e 63 0))).respond m
        (.data (BitVec.ofNat 64 (qbits e 127 64)))

/-- Kinds of Table 18.3. -/
def kindListed (n : Nat) : Bool :=
  (0x01 ≤ n && n ≤ 0x0D) || (0x10 ≤ n && n ≤ 0x1E) || (0x20 ≤ n && n ≤ 0x25) || (0x28 ≤ n && n ≤ 0x39) ||
    n = 0x40 || n = 0x41 || (0x48 ≤ n && n ≤ 0x4F) || (0x50 ≤ n && n ≤ 0x55) || (0x58 ≤ n && n ≤ 0x5B) || n = 0x60

/-- CMD_RESULT of FC_STATUS. -/
def State.fcResult (s : State) (k : Tile) (r : Nat) : State := s.setFld (.fcStatus k) 27 24 r

/-- FC_INJECT (R522). -/
def State.fcInjectW (s : State) (m : Master) (k : Tile) (v : Word) : State :=
  s.csPriv m (CsReg.fcInject k).addr fun s =>
    let kind := bits v 63 56
    let c := bits v 55 53
    if !kindListed kind || 4 < c then s.fcResult k 3
    else (s.fcResult k 0).report (srcId k.val 0x3F 0) kind c (bits v 51 0)

/-- FC_PARCEL (R521). -/
def State.fcParcelW (s : State) (m : Master) (k : Tile) (p : Parcel) (v : Word) : State :=
  s.csPriv m (CsReg.fcParcel k p).addr fun s =>
    let r := CsReg.fcParcel k p
    let store (s : State) : State := s.setReg r (softWrite r (s.reg r) v)
    if !v.getLsbD 63 then store s
    else
      match fin? 32768 (bits v 14 0) with
      | none => s
      | some q =>
        if s.qEnabled q && s.qOvertop q && s.queueOwner q == some p.val && bits v 44 40 ≠ 0 then (store s).fcResult k 0
        else s.fcResult k 3

/-- Clear class bits of a collector: a class with an active condition stays set, GRAVE follows the exit policy
(R523, R524). -/
def State.fcClear (s : State) (k : Tile) (bitsOff : Nat) : State :=
  let v := s.fld (.fcStatus k) 4 0
  let off := if s.softwareClear then bitsOff % 32 else bitsOff % 16
  let w := (v &&& (31 - off)) ||| (v &&& s.colActive k)
  s.setFld (.fcStatus k) 4 0 w

/-- FC_STATUS. -/
def State.fcStatusW (s : State) (m : Master) (k : Tile) (v : Word) : State :=
  s.csPriv m (CsReg.fcStatus k).addr fun s => (s.fcClear k (bits v 4 0)).settleMode

/-- FC_CTL. -/
def State.fcCtlW (s : State) (m : Master) (k : Tile) (v : Word) : State :=
  s.csPriv m (CsReg.fcCtl k).addr fun s => s.setReg (.fcCtl k) (softWrite (.fcCtl k) (s.reg (.fcCtl k)) v)

/-- FC_PSTAT (R522). -/
def State.fcPstatW (s : State) (m : Master) (k : Tile) (p : Parcel) (v : Word) : State :=
  let r := CsReg.fcPstat k p
  s.csOpen m r.addr fun s =>
    if s.privileged m || (s.masterOwners m).contains p.val then s.setReg r (softWrite r (s.reg r) v)
    else s.report (srcId k.val 0x3F 0) 0x0D clsNote (r.addr - winBase k.val)

/-! ### ALIVE (R525) -/

def State.aliveToggle (s : State) : State :=
  let q := s.now / 1000000
  let on := s.mode == .load || s.mode == .compose || s.runOrQuiesce
  if on && !s.keeper.aliveStopped && !s.gravePresent && s.keeper.aliveMult < q then
    { s with keeper := { s.keeper with alive := !s.keeper.alive, aliveMult := q } }
  else s

/-! ### Input pins (R526 to R529) -/

def pinSrc (n : Fin 48) : Nat := srcId 0 0x23 n.val

/-- One message of class PIN (R469, Table 17.2). -/
def State.pinRaise (s : State) (n : Fin 48) : State :=
  (s.bump (.pinStat n) 31 16 1).raiseIrq 0 ⟨0x07, BitVec.ofNat 18 n.val, 0, s.pinPolder n.val, 16, none⟩

/-- A storming pin is masked (R528). -/
def State.pinStorm (s : State) (n : Fin 48) (cause : Nat) : State :=
  ((s.setFld (.pinStat n) 62 62 1).setFld (.pinStat n) 61 60 cause).report (pinSrc n) 0x60 clsContained cause

/-- The rate count of a pin in the window of now. -/
def State.pinCount (s : State) (n : Fin 48) : Nat × Nat :=
  let w := s.now / 2 ^ s.fld (.pinCfg n) 21 16
  (w, if (s.pin n.val).rateWindow = w then (s.pin n.val).rateCount else 0)

/-- An event of an enabled, unmasked pin: raised, or the pin storms. -/
def State.pinFire (s : State) (n : Fin 48) (edges : Nat) : State :=
  let c := s.pinCount n
  let rate := s.fld (.pinCfg n) 31 24
  if rate ≠ 0 && rate ≤ c.2 then (s.bump (.pinStat n) 15 0 edges).pinStorm n 2
  else
    ((s.modPin n.val fun x => { x with rateWindow := c.1, rateCount := c.2 + 1 }).bump (.pinStat n) 15 0 (edges - 1)).pinRaise n

/-- An accepted change from inactive to active; `edges` raw edges since the previous event, its own included. -/
def State.pinEvent (s : State) (n : Fin 48) (edges : Nat) : State :=
  if !s.ringsRun || (s.pin n.val).active then s
  else
    let s1 := s.modPin n.val fun x => { x with active := true }
    if s.fld (.pinCfg n) 0 0 = 0 then s1.bump (.pinStat n) 15 0 edges
    else if s.fld (.pinStat n) 62 62 = 1 then (s1.bump (.pinStat n) 31 16 1).bump (.pinStat n) 15 0 (edges - 1)
    else s1.pinFire n edges

/-- A pin has stayed active for 2^STUCK_LOG µs. -/
def State.pinStuck (s : State) (n : Fin 48) : State :=
  if s.ringsRun && (s.pin n.val).active && s.fld (.pinCfg n) 12 8 ≠ 0 && s.fld (.pinStat n) 62 62 = 0 then s.pinStorm n 1
  else s

/-- A write of PIN_STAT: MASKED written 1 unmasks (R529). -/
def State.pinStatW (s : State) (m : Master) (n : Fin 48) (v : Word) : State :=
  s.csPriv m (CsReg.pinStat n).addr fun s =>
    if !v.getLsbD 62 || s.fld (.pinStat n) 62 62 = 0 then s
    else
      let s1 := (s.setFld (.pinStat n) 62 62 0).setFld (.pinStat n) 61 60 0
      let s2 := s1.modPin n.val fun x => { x with rateWindow := s1.now / 2 ^ s1.fld (.pinCfg n) 21 16, rateCount := 0 }
      if (s2.pin n.val).active && s2.fld (.pinCfg n) 0 0 = 1 then s2.pinFire n 1 else s2

/-- PIN_CFG: RATE_W outside 10 to 40 stores the nearer limit; a change of POLARITY turns the accepted level over. -/
def State.pinCfgW (s : State) (m : Master) (n : Fin 48) (v : Word) : State :=
  let r := CsReg.pinCfg n
  s.csPriv m r.addr fun s =>
    let w := softWrite r (s.reg r) v
    let s1 := if s.fld r 4 4 = bits w 4 4 then s else s.modPin n.val fun x => { x with active := !x.active }
    s1.setReg r (setBits w 21 16 (max 10 (min 40 (bits w 21 16))))

/-! ### Commands -/

/-- R508, R514 to R520. -/
def execFaultMessageArrival (src : BitVec 16) (s : State) : Outcome State Fault Refusal := .next (s.faultArrive src.toNat)

/-- R516. -/
def execPromotionSignal (k : Tile) (s : State) : Outcome State Fault Refusal := .next (s.promotionSignal k)

/-- R511, R512. -/
def execJunctionSample (k : Tile) (lo hi : BitVec 12) (s : State) : Outcome State Fault Refusal := .next (s.junction k lo hi)

/-- R513. -/
def execTileFatalError (k : Tile) (kind : Byte) (ring : Fin 2) (addr : BitVec 52) (s : State) :
    Outcome State Fault Refusal := .next (s.tileFatal k kind.toNat ring addr.toNat)

/-- R517. -/
def execFcLogRead (m : Master) (k : Tile) (s : State) : Outcome State Fault Refusal := .next (s.fcLogR m k)

/-- R522. -/
def execFcInject (m : Master) (k : Tile) (value : Word) (s : State) : Outcome State Fault Refusal :=
  .next (s.fcInjectW m k value)

/-- R521. -/
def execFcParcelEnable (m : Master) (k : Tile) (p : Parcel) (value : Word) (s : State) : Outcome State Fault Refusal :=
  .next (s.fcParcelW m k p (value ||| 0x8000000000000000))

/-- R524. -/
def execGraveBitClear (m : Master) (k : Tile) (s : State) : Outcome State Fault Refusal := .next (s.fcStatusW m k 16)

/-- R525. -/
def execAliveToggle (s : State) : Outcome State Fault Refusal := .next s.aliveToggle

/-- R526 to R528. -/
def execPinEvent (n : Fin 48) (rawEdges : Nat) (s : State) : Outcome State Fault Refusal := .next (s.pinEvent n rawEdges)

/-- R528. -/
def execPinStuck (n : Fin 48) (s : State) : Outcome State Fault Refusal := .next (s.pinStuck n)

/-- R529. -/
def execPinUnmask (m : Master) (n : Fin 48) (s : State) : Outcome State Fault Refusal :=
  .next (s.pinStatW m n 0x4000000000000000)

/-- R526, R528. -/
def execPinInactiveChange (n : Fin 48) (s : State) : Outcome State Fault Refusal :=
  .next (if s.ringsRun then s.modPin n.val fun x => { x with active := false } else s)

end Sys2Proof.Machine
end

