-- ==== Sys2Proof/Machine/Engines.lean ====
section
/-! DEFINITION. The compression and cryptography engines (chapter 15): request blocks and their checks, chunks, contexts,
wrapping keys, and deficit rounds (R502). -/

namespace Sys2Proof.Machine

open Host (Outcome)

/-! ### The request block (Table 15.1) -/

def rqFunc (b : List Byte) : Nat := leAt b 0 1
def rqAlg (b : List Byte) : Nat := leAt b 1 1
def rqStatus (b : List Byte) : Nat := leAt b 2 1
def rqFlag (b : List Byte) (i : Nat) : Bool := (b.getD 3 0).getLsbD i
def rqP0 (b : List Byte) : Nat := leAt b 0x04 4
def rqSrcLen (b : List Byte) : Nat := leAt b 0x10 8
def rqLimit (b : List Byte) : Nat := leAt b 0x20 8
def rqAuxLen (b : List Byte) : Nat := leAt b 0x58 4
def rqP1 (b : List Byte) : Nat := leAt b 0x5C 4
def rqTagLen (b : List Byte) : Nat := leAt b 0x68 4
def rqDir (b : List Byte) : Bool := rqFlag b 3
def rqProt (b : List Byte) : Bool := rqFlag b 2
def rqOutProt (b : List Byte) : Bool := rqFlag b 5

/-- The parameters that an output depends on: FUNC, ALG, FLAGS, P0, P1 and the lengths (R426). -/
def rqParams (b : List Byte) : List Byte :=
  slice b 0 2 ++ slice b 3 5 ++ slice b 0x10 8 ++ slice b 0x20 8 ++ slice b 0x58 8 ++ slice b 0x68 4

/-- LEVEL, WRAP, WINDOW_LOG and RATIO of P0 (R438). -/
def rqWrap (b : List Byte) : Nat := rqP0 b / 16 % 4
def rqWindowLog (b : List Byte) : Nat := rqP0 b / 256 % 32
def rqRatio (b : List Byte) : Nat := if rqP0 b / 65536 = 0 then 1032 else rqP0 b / 65536

/-- FUNC and ALG are defined for the engine (Tables 15.3 and 15.6). -/
def funcOk (cph : Bool) (f a : Nat) : Bool :=
  if !cph then 1 ≤ f && f ≤ 4 && a = 0
  else if 0x10 ≤ f && f ≤ 0x14 || f = 0x40 then a = 0
  else if f = 0x20 || f = 0x33 then 1 ≤ a && a ≤ 7
  else if f = 0x21 then 1 ≤ a && a ≤ 5
  else if f = 0x30 || f = 0x31 || f = 0x34 then a = 1 || a = 2
  else f = 0x32 && a = 1

/-- FLAGS bits that a function uses. -/
def flagsUsed (f : Nat) (dir : Bool) : Nat :=
  match f with
  | 0x03 => 0x13
  | 0x01 | 0x02 | 0x04 | 0x20 | 0x40 => 0x03
  | 0x10 | 0x12 | 0x13 => 0x0F
  | 0x11 => 0x07
  | 0x14 | 0x21 | 0x31 | 0x32 => 0x0D
  | 0x30 => 0x4D
  | 0x33 => 0x22
  | 0x34 => if dir then 0x2D else 0x2A
  | _ => 0

/-- P0 bits that a function uses. -/
def p0Used (f : Nat) (outProt : Bool) : Nat :=
  match f with
  | 0x01 => 0x3F
  | 0x02 => 0xFFFF0030
  | 0x03 => 0x1F0F
  | 0x04 => 0xFFFF0000
  | 0x13 | 0x40 => 0xFFFFFFFF
  | 0x34 => if outProt then 0xFF else 0
  | _ => 0

/-- The function takes a clear AES or HMAC key of P1 bytes. -/
def keyByP1 (f : Nat) : Bool := (0x10 ≤ f && f ≤ 0x14) || f = 0x21

/-- Digest lengths of the hashes, ALG 1 to 5. -/
def digestLen (a : Nat) : Nat := match a with | 1 | 4 => 32 | 2 => 48 | _ => 64

/-- A function that a protected key can serve (Table 15.8), and one that a secret under OUT_PROT can (R450). -/
def keyFunc (f : Nat) : Bool := (0x10 ≤ f && f ≤ 0x14) || f = 0x21 || (0x30 ≤ f && f ≤ 0x32) || f = 0x34
def secretFunc (f : Nat) : Bool := (0x10 ≤ f && f ≤ 0x14) || f = 0x21

/-- `n` bytes are no key of the AES function (R445). -/
def aesKeyBad (f n : Nat) : Bool :=
  0x10 ≤ f && f ≤ 0x14 && !(if f = 0x13 then n = 32 || n = 64 else n = 16 || n = 24 || n = 32)

/-- A length, key length or limit outside the chapter's limits (DETAIL 0x04). -/
def lengthBad (b : List Byte) : Bool :=
  let f := rqFunc b
  let n := rqSrcLen b
  let a := rqAuxLen b
  let t := rqTagLen b
  (!rqProt b && aesKeyBad f (rqP1 b)) ||
    (f = 0x10 && n % 16 ≠ 0) || (0x10 ≤ f && f ≤ 0x13 && rqLimit b < n) ||
    (f = 0x12 && !(12 ≤ t && t ≤ 16)) || (f = 0x14 && t ≠ 16) ||
    (f = 0x21 && digestLen (rqAlg b) < t) || (f = 0x30 && t ≠ 32 * rqAlg b + 32) || (f = 0x32 && 1462 < t) ||
    ((f = 1 || f = 2) && 32768 < a) || (f = 3 && 2 ^ rqWindowLog b < a) || (f = 4 && 8388608 < a) || (f = 0x31 && 255 < a) ||
    (f = 0x20 && rqAlg b ≤ 5 && rqLimit b < digestLen (rqAlg b)) ||
    (f = 0x30 && rqFlag b 6 && n ≠ 16 * rqAlg b + 16) || (f = 0x40 && !(16 ≤ n && n ≤ 4896))

/-- A function parameter outside its range (DETAIL 0x06). -/
def paramBad (b : List Byte) : Bool :=
  let f := rqFunc b
  let p := rqP0 b
  ((f = 1 || f = 2) && rqWrap b = 3) || (f = 3 && !(10 ≤ rqWindowLog b && rqWindowLog b ≤ 23)) ||
    (f = 0x13 && !(16 ≤ p && p ≤ 2 ^ 24)) || (f = 0x34 && rqOutProt b && !secretFunc (p % 256)) ||
    (f = 0x40 && (!keyFunc (p % 256) || !(p / 65536 % 256 ≤ 16 || p / 65536 % 256 = 31) || p / 2 ^ 29 ≠ 0))

/-- The lowest DETAIL code of the checks on the block alone (R429, R453). -/
def blockDetail (cph : Bool) (b : List Byte) : Nat :=
  let f := rqFunc b
  let fl := leAt b 3 1
  let used := flagsUsed f (rqDir b)
  if !funcOk cph f (rqAlg b) then 0x01
  else if leNat (b.drop 0x70) ≠ 0 || rqFlag b 7 || rqP0 b &&& p0Used f (rqOutProt b) ≠ rqP0 b ||
      (!keyByP1 f && rqP1 b ≠ 0) || rqStatus b ≠ 0 then 0x02
  else if fl &&& used ≠ fl then 0x03
  else if lengthBad b then 0x04
  else if leAt b 0x38 8 % 4096 ≠ 0 || (f = 0x13 && rqP0 b % 16 ≠ 0) then 0x05
  else if paramBad b then 0x06
  else 0

/-! ### Protected keys (Table 15.8, R449 to R452) -/

/-- USAGE bit an operation needs. -/
def usageBit (f : Nat) (dir : Bool) : Nat :=
  if f = 0x34 then 4 else if f ≤ 0x13 then (if dir then 1 else 0) else if dir then 3 else 2

/-- The requester of an engine access: its parcel, or Polder. -/
def State.reqOwner (s : State) (m : Master) : Nat :=
  match m with
  | .slot cph lc => if (s.aslot (slotIdx cph lc)).polder then 16 else pswParcel (s.lc lc.val).psw
  | .acc c => (s.ctx (ctxIdx c)).owner.val
  | _ => 16

/-- OWNER of a blob admits the requester. -/
def ownerAdmits (blob req : Nat) : Bool := blob = 31 || blob = req

/-- The lowest DETAIL code of the key checks of a blob whose bytes are `kb`, with its clear key. -/
def blobDetail (kw : BitVec 256) (kwValid : Bool) (b kb : List Byte) (req : Nat) : Nat × List Byte :=
  match (if kwValid then Config.keyUnwrap kw kb else none) with
  | none => (0x20, [])
  | some key =>
    let zero := leNat (slice kb 6 10) = 0 && leAt kb 3 1 / 32 = 0
    if leAt kb 0 1 ≠ rqFunc b || leAt kb 1 1 ≠ rqAlg b || !zero then (0x21, key)
    else if !ownerAdmits (leAt kb 2 1) req then (0x22, key)
    else if !(kb.getD 3 0).getLsbD (usageBit (rqFunc b) (rqDir b)) then (0x23, key)
    else (0, key)

/-- The blob that seals `key` (R449, R450). -/
def sealKey (kw : BitVec 256) (func alg owner usage : Nat) (key : List Byte) (rnd : Nat) : List Byte :=
  let hdr := leBytes 1 func ++ leBytes 1 alg ++ leBytes 1 owner ++ leBytes 1 usage ++ leBytes 2 key.length ++ leBytes 10 0
  hdr ++ Config.keyWrap kw hdr key rnd

/-! ### Accesses of a chunk (R427) -/

/-- Why a chunk stops at an access. -/
inductive AccStop where
  | freeze (pa : Nat)
  | addressError
  | poison
  /-- A scatter list that breaks R363. -/
  | scatter
  deriving DecidableEq, Repr

/-- Check a range for a master: firewall, reach, and poison for a read. -/
def State.accCheck (s : State) (m : Master) (a n need : Nat) : Option AccStop :=
  if n = 0 then none
  else if !s.fwRange m a n need then some (.freeze (s.fwDenied m a n need))
  else if !s.rangeReachable a n then some .addressError
  else if need = needR && (s.freshBytes a n).2 then some .poison
  else none

def State.accChecks (s : State) (m : Master) (need : Nat) : List (Nat × Nat) → Option AccStop
  | [] => none
  | (a, n) :: t => match s.accCheck m a n need with | some x => some x | none => s.accChecks m need t

/-- The elements of a scatter list, from its entry `k` from the end of the allowed 256 on (R363, R428). -/
def State.accScatter (s : State) (m : Master) : Nat → Nat → List (Nat × Nat) ⊕ AccStop
  | 0, _ => .inr .scatter
  | k + 1, a =>
    match s.accCheck m a 16 needR with
    | some x => .inr x
    | none =>
      let bs := (s.freshBytes a 16).1
      let len := leAt bs 8 4
      let fl := leAt bs 12 4
      if len = 0 || 16777216 < len || 1 < fl then .inr .scatter
      else if fl = 1 then .inl [(leAt bs 0 8, len)]
      else match s.accScatter m k (a + 16) with
        | .inr x => .inr x
        | .inl t => .inl ((leAt bs 0 8, len) :: t)

/-- The pieces of memory that a buffer of `n` bytes covers. -/
def State.accBuffer (s : State) (m : Master) (sg : Bool) (a n : Nat) : List (Nat × Nat) ⊕ AccStop :=
  if !sg then .inl [(a, n)]
  else if a % 16 ≠ 0 then .inr .scatter
  else match s.accScatter m 256 a with
    | .inr x => .inr x
    | .inl l => if (l.map (·.2)).foldl (· + ·) 0 < n then .inr .scatter else .inl l

/-- The bytes of a list of pieces. -/
def State.accGather (s : State) (ps : List (Nat × Nat)) : List Byte := ps.flatMap fun p => (s.freshBytes p.1 p.2).1

/-- Write bytes over pieces. -/
def State.accScatterWrite (s : State) (m : Master) : List (Nat × Nat) → List Byte → State
  | [], _ => s
  | (a, n) :: t, bs => (s.invWriteBytes m a (bs.take n)).accScatterWrite m t (bs.drop n)

/-! ### What a chunk does (R425, R442, R447) -/

/-- The progress a chunk reaches: counters, the final status when it is the last, whether a failed GCM open zeroes the
destination. -/
structure Prog where
  inn : Nat
  out : Nat
  status : Option Nat
  zero : Bool
  deriving DecidableEq, Repr

def chunkMax : Nat := 16384

/-- Final status of a stream: what the coder reports, DONE if it reports none of the codes a stream can end with. -/
def streamEnd (inp : List (List Byte)) : Nat :=
  let c := (Config.engineEnd inp).toNat
  if 0x13 ≤ c && c ≤ 0x16 then c else 0x10

/-- One chunk of a compression or decompression, output byte by output byte (R442). -/
def streamChunk (dec : Bool) (inp : List (List Byte)) (total srcLen limit ratio in0 out0 : Nat) : Nat → Nat → Nat → Prog
  | 0, i, o => ⟨i, o, none, false⟩
  | f + 1, i, o =>
    let atEnd : Bool := total ≤ o
    let whole : Bool := atEnd && (!dec || streamEnd inp = 0x10)
    let need := if whole then srcLen else min srcLen (max i (Config.engineNeed inp o))
    if in0 + chunkMax ≤ need then ⟨in0 + chunkMax, o, none, false⟩
    else if atEnd then ⟨need, o, some (if dec then streamEnd inp else 0x10), false⟩
    else if limit < o + 1 then ⟨need, o, some 0x11, false⟩
    else if dec && ratio * need < o + 1 then ⟨need, o, some 0x12, false⟩
    else if out0 + chunkMax ≤ o + 1 then ⟨need, o + 1, none, false⟩
    else streamChunk dec inp total srcLen limit ratio in0 out0 f need (o + 1)

/-- One chunk of a function whose progress its lengths decide. -/
def plainChunk (b : List Byte) (inp : List (List Byte)) (in0 out0 : Nat) : Prog :=
  let f := rqFunc b
  let len := rqSrcLen b
  let n := min chunkMax (len - in0)
  let i := in0 + n
  let fin : Bool := len ≤ i
  let verify (ok bad : Nat) : Nat := if Config.engineTrue inp then ok else bad
  if 0x10 ≤ f && f ≤ 0x13 then
    if !fin then ⟨i, out0 + n, none, false⟩
    else if f = 0x12 && rqDir b && !Config.engineTrue inp then ⟨i, 0, some 0x17, true⟩
    else ⟨i, out0 + n, some 0x10, false⟩
  else if f = 0x14 || f = 0x21 then
    if !fin then ⟨i, 0, none, false⟩ else ⟨i, 0, some (if rqDir b then verify 0x10 0x17 else 0x10), false⟩
  else if f = 0x20 then
    let total := if rqAlg b ≤ 5 then digestLen (rqAlg b) else rqLimit b
    let k := min chunkMax (total - out0)
    if in0 < len && (!fin || n = chunkMax) then ⟨i, 0, none, false⟩
    else ⟨i, out0 + k, if total ≤ out0 + k then some 0x10 else none, false⟩
  else if f = 0x30 || f = 0x31 || f = 0x32 then ⟨len, 0, some (if rqDir b then verify 0x10 0x18 else 0x10), false⟩
  else ⟨len, 0, some 0x10, false⟩

def chunkProg (b : List Byte) (inp : List (List Byte)) (in0 out0 : Nat) : Prog :=
  let f := rqFunc b
  if f ≤ 4 then
    streamChunk (f = 2 || f = 4) inp (Config.engineLen inp 0 0) (rqSrcLen b) (rqLimit b) (rqRatio b) in0 out0 (chunkMax + 1)
      in0 out0
  else plainChunk b inp in0 out0

/-- The function draws randomness (R444, R449). -/
def drawsRandom (b : List Byte) : Bool :=
  let f := rqFunc b
  ((f = 0x31 || f = 0x32) && !rqDir b) || f = 0x33 || (f = 0x34 && !rqDir b) || f = 0x40 || rqOutProt b

/-- Bytes `lo` to `hi` of an output. -/
def outBytes (inp : List (List Byte)) (rnd which lo hi : Nat) : List Byte :=
  (List.range (hi - lo)).map fun i => Config.engineByte inp rnd which (lo + i)

/-- What is written besides the destination stream: the destination of a public-key function, AUX and TAG. -/
def sideOutputs (b : List Byte) (kw : BitVec 256) (owner : Nat) (inp : List (List Byte)) (rnd : Nat) (src : List Byte) :
    List Byte × List Byte × List Byte :=
  let f := rqFunc b
  let out (which : Nat) : List Byte := outBytes inp rnd which 0 (Config.engineLen inp rnd which)
  let tagN (n : Nat) : List Byte := outBytes inp rnd 2 0 n
  if f = 0x12 && !rqDir b then ([], [], tagN (rqTagLen b))
  else if (f = 0x14 || f = 0x21 || f = 0x30) && !rqDir b then ([], [], tagN (rqTagLen b))
  else if (f = 0x31 || f = 0x32) && !rqDir b then ([], [], tagN (min (rqTagLen b) (Config.engineLen inp rnd 2)))
  else if f = 0x33 then
    let key := out 1
    let g := rqAlg b
    let kf := if g ≤ 2 then (0x30, g, 4) else if g ≤ 4 then (0x31, g - 2, 4) else if g = 5 then (0x32, 1, 4) else (0x34, g - 5, 16)
    (out 0, if rqOutProt b then sealKey kw kf.1 kf.2.1 owner kf.2.2 key rnd else key, [])
  else if f = 0x34 then
    let sec := out 2
    let u := rqP0 b % 256
    let usage := if u ≤ 0x13 then 3 else 12
    (if rqDir b then [] else out 0, [],
     if rqOutProt b then sealKey kw u (if u = 0x21 then (Config.engineByte inp rnd 3 0).toNat else 0) owner usage sec rnd else sec)
  else if f = 0x40 then
    let p := rqP0 b
    (sealKey kw (p % 256) (p / 256 % 256) (p / 65536 % 256) (p / 2 ^ 24) src rnd, [], [])
  else ([], [], [])

/-- Size of the state area (Table 15.4). -/
def stateSize (f : Nat) : Nat :=
  if f = 1 || f = 3 then 4194304 else if f = 2 || f = 4 then 262144 else if 0x10 ≤ f && f ≤ 0x21 then 4096 else 65536

/-- How a chunk ended for the request: at a denied access, at a progress point, or with a final STATUS. -/
inductive ChunkEnd where
  | frozen (pa : Nat)
  /-- A home slice has turned an access away: the chunk runs again. -/
  | waits
  | goesOn
  | ended (status : Nat)
  deriving DecidableEq, Repr

/-- Write STATUS, and the progress fields with DETAIL where they change. -/
def State.blockStatus (s : State) (m : Master) (blk st : Nat) : State := s.invWriteBytes m (blk + 2) (leBytes 1 st)
def State.blockProgress (s : State) (m : Master) (blk i o detail : Nat) : State :=
  (s.invWriteBytes m (blk + 0x28) (leBytes 8 i ++ leBytes 8 o)).invWriteBytes m (blk + 0x6C) (leBytes 4 detail)

/-- The request ends at its checks with a DETAIL code (R453). -/
def State.checkEnd (s : State) (m : Master) (blk detail : Nat) : State × ChunkEnd :=
  let st := if detail < 0x10 then 0x1A else if detail < 0x20 then 0x16 else 0x19
  ((s.blockProgress m blk 0 0 detail).blockStatus m blk st, .ended st)

/-- The request stops at an access of the chunk (R429, R433). -/
def State.stopEnd (s : State) (m : Master) (blk : Nat) (listDetail : Nat) : AccStop → State × ChunkEnd
  | .freeze pa => (s, .frozen pa)
  | .addressError => (s.blockStatus m blk 0x1B, .ended 0x1B)
  | .poison => (s.blockStatus m blk 0x1C, .ended 0x1C)
  | .scatter => s.checkEnd m blk listDetail

/-- What the request reads as its key, with the DETAIL code of its key checks. -/
def State.requestKey (s : State) (m : Master) (kw : BitVec 256) (kwValid : Bool) (b : List Byte) :
    List Byte × Nat ⊕ AccStop :=
  let a := leAt b 0x40 8
  let f := rqFunc b
  let keyed : Bool := keyByP1 f || (0x30 ≤ f && f ≤ 0x32) || f = 0x34
  if !keyed then
    .inl ([], if (f = 0x40 || rqOutProt b) && !kwValid then 0x20 else if f = 0x40 && !s.masterPolder m then 0x24 else 0)
  else if rqProt b then
    match s.accCheck m a 0x1C needR with
    | some x => .inr x
    | none =>
      let kl := leAt (s.freshBytes a 0x1C).1 4 2
      if kl < 16 || 4896 < kl then .inl ([], 0x20)
      else match s.accCheck m a (0x2C + kl) needR with
        | some x => .inr x
        | none =>
          let r := blobDetail kw kwValid b (s.freshBytes a (0x2C + kl)).1 (s.reqOwner m)
          .inl (r.2, r.1)
  else
    let n := if keyByP1 f then rqP1 b else Config.engineLen [b.take 8] 0 4
    match s.accCheck m a n needR with
    | some x => .inr x
    | none => .inl ((s.freshBytes a n).1, if rqOutProt b && !kwValid then 0x20 else 0)

/-- Ranges of IV, AUX and TAG that a request reads. -/
def sideReads (b : List Byte) : List (Nat × Nat) :=
  let f := rqFunc b
  let iv := if f = 0x10 || f = 0x11 || f = 0x13 then 16 else if f = 0x12 then 12 else 0
  let aux := if f ≤ 4 || f = 0x12 || f = 0x31 then rqAuxLen b else 0
  let tag := if rqDir b && (f = 0x12 || f = 0x14 || f = 0x21 || (0x30 ≤ f && f ≤ 0x32)) then rqTagLen b else 0
  [(leAt b 0x48 8, iv), (leAt b 0x50 8, aux), (leAt b 0x60 8, tag)]

/-- Entries of the scatter lists of a request. -/
def State.listReads (s : State) (m : Master) (b : List Byte) : List (Nat × Nat) :=
  let of (sg : Bool) (a n : Nat) : List (Nat × Nat) :=
    if !sg then []
    else match s.accBuffer m sg a n with | .inl l => [(a, 16 * l.length)] | .inr _ => []
  of (rqFlag b 0) (leAt b 0x08 8) (rqSrcLen b) ++ of (rqFlag b 1) (leAt b 0x18 8) (rqLimit b)

/-- Range that a request reads as its key. -/
def State.keyReads (s : State) (b : List Byte) : List (Nat × Nat) :=
  let a := leAt b 0x40 8
  let f := rqFunc b
  if !(keyByP1 f || (0x30 ≤ f && f ≤ 0x32) || f = 0x34) then []
  else if rqProt b then [(a, 0x2C + min 4896 (leAt (s.freshBytes a 0x1C).1 4 2))]
  else [(a, if keyByP1 f then rqP1 b else Config.engineLen [b.take 8] 0 4)]

/-- An engine's accesses are served by their home slices, or the chunk runs again (R282). -/
def State.chunkGate (s : State) (m : Master) (rs : List Reach) (k : State → State × ChunkEnd) : State × ChunkEnd :=
  match s.gate (s.requester m) m rs with
  | .inl t => (t, .waits)
  | .inr t => k t

/-- Write what a chunk produced, the state area of a request that goes on, and the progress fields (R425, R430). -/
def State.chunkCommit (s : State) (m : Master) (blk : Nat) (b : List Byte) (inp : List (List Byte)) (rnd : Nat)
    (dst : List (Nat × Nat)) (src : List Byte) (kw : BitVec 256) (in0 out0 : Nat) (p : Prog) : State × ChunkEnd :=
  let f := rqFunc b
  let side := if p.status = some 0x10 then sideOutputs b kw (s.reqOwner m) inp rnd src else ([], [], [])
  let stream : Bool := f ≤ 4 || (0x10 ≤ f && f ≤ 0x13) || f = 0x20
  let zeros := out0 + min chunkMax (rqSrcLen b - in0)
  let main : List (Nat × Nat) × List Byte :=
    if p.zero then (pieces dst 0 zeros, List.replicate zeros 0)
    else if stream then (pieces dst out0 (p.out - out0), outBytes inp rnd 0 out0 p.out)
    else (pieces dst 0 side.1.length, side.1)
  let aux := (leAt b 0x50 8, side.2.1.length)
  let tag := (leAt b 0x60 8, side.2.2.length)
  let area := if p.status.isNone then [(leAt b 0x38 8, stateSize f)] else []
  if !stream && rqLimit b < side.1.length then s.checkEnd m blk 0x04
  else match s.accChecks m needW (main.1 ++ [aux, tag] ++ area) with
  | some x => s.stopEnd m blk 0x08 x
  | none => s.chunkGate m (puts (main.1 ++ [aux, tag] ++ area)) fun s =>
    let s1 := (((s.accScatterWrite m main.1 main.2).invWriteBytes m aux.1 side.2.1).invWriteBytes m tag.1 side.2.2)
    let s2 := match area with
      | [] => s1
      | _ => s1.invWriteBytes m (leAt b 0x38 8) ((List.range (stateSize f)).map fun i => Config.engineState inp p.inn p.out i)
    let out := if stream then p.out else side.1.length
    let s3 := s2.blockProgress m blk p.inn out (if p.status = some 0x16 then 0x11 else 0)
    match p.status with
    | none => (s3.blockStatus m blk 0x01, .goesOn)
    | some st => (s3.blockStatus m blk st, .ended st)

/-- One chunk of a request whose block passed its checks. -/
def State.chunkRun (s : State) (m : Master) (blk : Nat) (b : List Byte) (kw : BitVec 256) (key : List Byte)
    (sp dp : List (Nat × Nat)) (in0 out0 : Nat) : State × ChunkEnd :=
  let reads := sideReads b
  match s.accChecks m needR reads with
  | some x => s.stopEnd m blk 0x07 x
  | none =>
    let src := (s.accGather sp).take (rqSrcLen b)
    let inp := [rqParams b, src, key] ++ reads.map fun r => (s.freshBytes r.1 r.2).1
    let p := chunkProg b inp in0 out0
    match s.accChecks m needR (pieces sp in0 (p.inn - in0)) with
    | some x => s.stopEnd m blk 0x07 x
    | none => s.chunkGate m (peeks (s.listReads m b ++ s.keyReads b ++ reads ++ pieces sp in0 (p.inn - in0))) fun s =>
      let rnd := s.free
      let s1 := if drawsRandom b then { s with free := s.free + 1 } else s
      s1.chunkCommit m blk b inp rnd dp src kw in0 out0 p

/-- The request whose block lies at `blk`, or `req`, which a SUBMIT has handed over for it, runs one chunk at its engine
(R425, R429, R430, R452, R454). -/
def State.chunk (s : State) (m : Master) (cph : Bool) (t : Ct) (blk : Nat) (req : Option (List Byte)) : State × ChunkEnd :=
  let a := s.acc (accIdx ⟨cph, t⟩)
  match if req.isSome then none else s.accCheck m blk 128 needR with
  | some (.freeze pa) => (s, .frozen pa)
  | some .addressError => (s, .ended 0x1B)
  | some _ => (s, .ended 0x1C)
  | none => s.chunkGate m (if req.isSome then [] else peeks [(blk, 128)]) fun s =>
    let b := req.getD (s.freshBytes blk 128).1
    if 0x10 ≤ rqStatus b then (s, .ended (rqStatus b))
    else if !s.fwRange m blk 128 needW then (s, .frozen (s.fwDenied m blk 128 needW))
    else s.chunkGate m (puts [(blk + 2, 1), (blk + 0x28, 16), (blk + 0x6C, 4)]) fun s =>
    if a.failed then (s.blockStatus m blk 0x1D, .ended 0x1D)
    else
      let fresh : Bool := rqStatus b ≠ 1
      let d := if fresh then blockDetail cph b else 0
      if d ≠ 0 then s.checkEnd m blk d
      else
        let srcN := if rqFunc b = 0x33 || (rqFunc b = 0x34 && !rqDir b) then 0 else rqSrcLen b
        match s.accBuffer m (rqFlag b 0) (leAt b 0x08 8) srcN with
        | .inr x => s.stopEnd m blk 0x07 x
        | .inl sp =>
          match s.accBuffer m (rqFlag b 1) (leAt b 0x18 8) (rqLimit b) with
          | .inr x => s.stopEnd m blk 0x08 x
          | .inl dp =>
            match s.requestKey m a.kw (s.fld (.engstat ⟨cph, t⟩) 63 63 = 1) b with
            | .inr x => s.stopEnd m blk 0x07 x
            | .inl (key, kd) =>
              if kd ≠ 0 then s.checkEnd m blk kd
              else if rqProt b && aesKeyBad (rqFunc b) key.length then s.checkEnd m blk 0x04
              else
                let i := if fresh then 0 else leAt b 0x28 8
                let o := if fresh then 0 else leAt b 0x30 8
                s.chunkRun m blk b a.kw key sp dp i o

/-! ### Contexts (R434 to R437) -/

/-- The engine of a context. -/
def ctxEngine (c : AccCtx) : Acc := ⟨c.cph, c.tile⟩

/-- The engine works: its tile is live, and neither its clock nor its power is cut. -/
def State.accOn (s : State) (a : Acc) : Bool := s.tileLive (1 + a.tile.val) && s.cut (.engine a) == .on

def State.ctxEnabled (s : State) (c : AccCtx) : Bool := s.fld (.ctxcfg c) 63 63 = 1
def State.ctxRq (s : State) (c : AccCtx) : Option Qn := fin? 32768 (s.fld (.ctxcfg c) 14 0)
def State.ctxCq (s : State) (c : AccCtx) : Option Qn := fin? 32768 (s.fld (.ctxcfg c) 46 32)

/-- A response word goes to CQ; a held one holds the context (R436). -/
def State.ctxRespond (s : State) (c : AccCtx) (status blk : Nat) : State :=
  let x := s.ctx (ctxIdx c)
  let w : Word := BitVec.ofNat 64 (status * 2 ^ 56 + blk)
  match s.ctxCq c with
  | none => s.ctxAnswered c false
  | some q =>
    if !s.qEnabled q then s.ctxAnswered c false
    else
      let h : HeldWrite := ⟨.acc c, .enq x.user, w, false⟩
      if s.mode == .quiesce || s.qBlocked q h false then
        (s.modQueue q.val fun y => { y with held := y.held ++ [h] }).setCtx (ctxIdx c)
          { x with response := some w, st := if x.st == .frozen then .frozen else .waitingCq }
      else (s.qPerform q h).ctxAnswered c true

/-- CTXCFG: the page is reached with the QUEUE grant of the RQ of an enabled context (R455). -/
def State.ctxAccessOk (s : State) (m : Master) (c : AccCtx) : Bool :=
  !s.ctxEnabled c || (match s.ctxRq c with | some q => s.holdsRes m 7 q.val | none => false)

/-- CTXCFG (R434, R437). -/
def State.ctxcfgW (s : State) (m : Master) (c : AccCtx) (v : Word) : State :=
  let r := CsReg.ctxcfg c
  s.csAccess m r.addr needW (s.ctxAccessOk m c) fun s =>
    let s := s.respond m .ok
    let store (s : State) : State := s.setReg r (softWrite r (s.reg r) v)
    let x := s.ctx (ctxIdx c)
    let res (s : State) (n : Nat) : State := s.setFld (.ctxstat c) 59 56 n
    if !v.getLsbD 63 then
      let st := match x.st with
        | .disabled => CtxState.disabled
        | .idle => .disabled
        | .frozen => .frozen
        | _ => .stopping
      (store s).setCtx (ctxIdx c) { x with st := st }
    else
      match fin? 32768 (bits v 14 0), fin? 32768 (bits v 46 32) with
      | some rq, some cq =>
        let o := s.queueOwner rq
        let polder : Bool := o == some 16
        let okOwner : Bool := match o with
          | some n => m == .keeper || (s.masterOwners m).contains n
          | none => false
        if s.qEnabled rq && s.qEnabled cq && s.queueOwner cq == o && !s.qOvertop cq && s.ctxPolder c == polder && okOwner then
          let st := match x.st with
            | .disabled => CtxState.idle
            | .stopping => if x.response.isSome then .waitingCq else .running
            | y => y
          (res (store s) 0).setCtx (ctxIdx c) { x with owner := ownerFin o, st := st }
        else res s 3
      | _, _ => s

/-- The context dequeues a request word (R435). -/
def State.ctxRequest (s : State) (c : AccCtx) : State :=
  let x := s.ctx (ctxIdx c)
  match s.ctxRq c with
  | none => s
  | some q =>
    if !s.mastersStart || x.st != .idle || !s.ctxEnabled c || !s.accOn (ctxEngine c) || !s.qEnabled q ||
        ((s.queue q.val).emptyReason).isSome then s
    else
      let r := s.qTake q .ok
      let w := r.2
      if w.isPoison then r.1.bump (.ctxcount c) 31 16 1
      else
        let blk := bits w.data 51 7 * 128
        let user := BitVec.ofNat 4 (w.tag.toNat % 16)
        let s1 := r.1.setCtx (ctxIdx c) { x with user := user, block := blk, st := .running }
        if w.data.toNat ≠ blk then s1.ctxRespond c 0x1A blk else s1

/-- The context stops where its request stands (R437). -/
def State.ctxStopHere (s : State) (c : AccCtx) : State :=
  if (s.ctx (ctxIdx c)).st == .stopping && (s.ctx (ctxIdx c)).response.isNone then
    s.modCtx (ctxIdx c) fun x => { x with st := .disabled }
  else s

/-! ### Chunks (R425, R432, R433, R502) -/

/-- Owner whose deficit a requester's chunk draws on (R498). -/
def State.chunkOwner (s : State) (m : Master) : Nat :=
  match m with
  | .slot _ lc => pswParcel (s.lc lc.val).psw
  | .acc c => (s.ctx (ctxIdx c)).owner.val
  | _ => 16

/-- The engine, block and readiness of a requester's chunk. -/
def State.chunkOf (s : State) (m : Master) : Option (Acc × Nat) :=
  match m with
  | .slot cph lc =>
    let x := s.aslot (slotIdx cph lc)
    match (s.lc lc.val).host with
    | some h =>
      match fin? 4 (h.val / 48) with
      | some t => if x.busy then some (⟨cph, t⟩, x.block) else none
      | none => none
    | none => none
  | .acc c =>
    let x := s.ctx (ctxIdx c)
    if x.st == .running || (x.st == .stopping && x.response.isNone) then some ((ctxEngine c), x.block) else none
  | _ => none

/-- The request that a SUBMIT handed over to a requester's slot. -/
def State.handed (s : State) (m : Master) : Option (List Byte) :=
  match m with
  | .slot cph lc => (s.aslot (slotIdx cph lc)).req
  | _ => none

/-- The slot is idle again, or takes the next request that waits for it. -/
def AccSlot.next (x : AccSlot) : AccSlot :=
  match x.queue with
  | [] => { x with busy := false, req := none }
  | (blk, bs, p) :: t => ⟨true, blk, p, some bs, t⟩

/-- Charge a chunk's duration to its owner. -/
def State.chargeDeficit (s : State) (a : Acc) (o d : Nat) : State :=
  s.modAcc (accIdx a) fun x => { x with deficit := Table.modify 0 x.deficit o fun (v : Int) => v - (d : Int) }

/-- A chunk goes on to its progress point: a context's only while contexts start new work (R66, R437). -/
def State.chunkRuns (s : State) (m : Master) : Bool :=
  match m with
  | .acc _ => s.mastersStart
  | _ => s.mode.running

/-- The requester's chunk ends: progress, or the end of its request. -/
def State.chunkDone (s : State) (m : Master) : State :=
  match s.chunkOf m with
  | none => s
  | some (a, blk) =>
    let o := s.chunkOwner m
    if !s.chunkRuns m || !s.accOn a || !(0 < Table.get 0 (s.acc (accIdx a)).deficit o) then s
    else
      let req := s.handed m
      let b := req.getD (s.freshBytes blk 128).1
      let r := s.chunk m a.cph a.tile blk req
      if r.2 = .waits then r.1
      else
      let s1 := r.1.chargeDeficit a o (Config.chunkNs [b] (leAt b 0x28 8))
      match m with
      | .slot cph lc =>
        let s2 := s1.modAslot (slotIdx cph lc) AccSlot.next
        (match r.2 with
         | .frozen pa => s2.freezeMaster m pa
         | _ => s2)
      | .acc c =>
        (match r.2 with
         | .frozen pa => s1.freezeMaster m pa
         | .ended st => s1.ctxRespond c st blk
         | _ => s1.ctxStopHere c)
      | _ => s1

/-- An engine's parity error re-runs the chunk in progress (R454). -/
def State.accParity (s : State) (m : Master) : State :=
  match s.chunkOf m with
  | none => s
  | some (a, _) => s.report (srcId (1 + a.tile.val) (accBlock a.cph) 0) 0x38 clsCorrected 0

/-- Requesters of an engine with a chunk that could run. -/
def State.chunkReady (s : State) (a : Acc) : List Master :=
  let slots := (allLc.map fun l => Master.slot a.cph l)
  let ctxs := (List.finRange 8).map fun c => Master.acc ⟨a.cph, a.tile, c⟩
  (slots ++ ctxs).filter fun m => match s.chunkOf m with | some (e, _) => e == a | none => false

/-- A deficit round begins (R502). -/
def State.deficitRound (s : State) (a : Acc) : State :=
  let ready := (s.chunkReady a).map s.chunkOwner
  let weight (o : Nat) : Nat := 
    match s.qosImage (1 + a.tile.val) with | some i => if o = 16 then 255 else i.accWeight o a.cph | none => 0
  (List.range 17).foldl (fun s o =>
    s.modAcc (accIdx a) fun x =>
      { x with deficit := Table.modify 0 x.deficit o fun (v : Int) =>
          if ready.contains o then v + ((weight o * 256 : Nat) : Int) else 0 }) s

/-! ### Wrapping keys (R448, R455) -/

def State.cphKwW (s : State) (m : Master) (t : Ct) (k : Fin 4) (v : Word) : State :=
  s.csPriv m (CsReg.cphKw t k).addr fun s =>
    let e : Acc := ⟨true, t⟩
    let s1 := s.modAcc (accIdx e) fun x => { x with kwWords := x.kwWords.set k v }
    if k.val = 3 then
      let w := (s1.acc (accIdx e)).kwWords
      let key := (w.get 0).toNat + (w.get 1).toNat * 2 ^ 64 + (w.get 2).toNat * 2 ^ 128 + (w.get 3).toNat * 2 ^ 192
      (s1.modAcc (accIdx e) fun x => { x with kw := BitVec.ofNat 256 key }).setFld (.engstat e) 63 63 1
    else s1

/-! ### Commands -/

/-- R425, R432, R436, R437. -/
def execChunkDone (r : Master) (s : State) : Outcome State Fault Refusal := .next (s.chunkDone r)

/-- R434, R437. -/
def execCtxcfgWrite (m : Master) (c : AccCtx) (value : Word) (s : State) : Outcome State Fault Refusal :=
  .next (s.ctxcfgW m c value)

/-- R435. -/
def execContextRequestWord (c : AccCtx) (s : State) : Outcome State Fault Refusal := .next (s.ctxRequest c)

/-- R448. -/
def execCphKwLoad (m : Master) (t : Ct) (value : Word) (s : State) : Outcome State Fault Refusal :=
  .next (s.cphKwW m t 3 value)

/-- R454. -/
def execAccParityError (r : Master) (s : State) : Outcome State Fault Refusal := .next (s.accParity r)

/-- R502. -/
def execDeficitRound (a : Acc) (s : State) : Outcome State Fault Refusal := .next (s.deficitRound a)

end Sys2Proof.Machine
end

