-- ==== Sys2Proof/Machine/Operands.lean ====
section
/-! DEFINITION. Operands of instructions: registers, immediates, the words of Table 4.3 from their fields (for
xINFO.WORD), and the offsets of memory forms. -/

namespace Sys2Proof.Machine

/-! ### Registers -/

def LCore.rg (l : LCore) (r : Reg) : Word := l.g.get r
def LCore.wg (l : LCore) (r : Reg) (v : Word) : LCore := { l with g := l.g.set r v }
def LCore.rf (l : LCore) (r : Reg) : Quad := l.f.get r
def LCore.wf (l : LCore) (r : Reg) (v : Quad) : LCore := { l with f := l.f.set r v }
def LCore.rs (l : LCore) (r : Reg) : Quad := l.seg.get r
def LCore.ws (l : LCore) (r : Reg) (v : Quad) : LCore := { l with seg := l.seg.set r v }

/-- Next word. -/
def LCore.next (l : LCore) : LCore := { l with pc := l.pc + 4 }

/-! ### Instruction words (R89, Table 4.3) -/

def encR (major d a b c minor : Nat) : BitVec 32 :=
  BitVec.ofNat 32 (major * 2 ^ 25 + d * 2 ^ 20 + a * 2 ^ 15 + b * 2 ^ 10 + c * 2 ^ 5 + minor)
def encI (major d a imm : Nat) : BitVec 32 := BitVec.ofNat 32 (major * 2 ^ 25 + d * 2 ^ 20 + a * 2 ^ 15 + imm)
def encU (major d imm : Nat) : BitVec 32 := BitVec.ofNat 32 (major * 2 ^ 25 + d * 2 ^ 20 + imm)
def encB (major a disp : Nat) : BitVec 32 := BitVec.ofNat 32 (major * 2 ^ 25 + a * 2 ^ 20 + disp)
def encJ (major disp : Nat) : BitVec 32 := BitVec.ofNat 32 (major * 2 ^ 25 + disp)
def encC (d a b cx minor : Nat) : BitVec 32 :=
  BitVec.ofNat 32 (0x3E * 2 ^ 25 + d * 2 ^ 20 + a * 2 ^ 15 + b * 2 ^ 10 + cx * 2 ^ 6 + minor)

/-- The word of an operation with a register or an IMM15 operand: register layout, or immediate layout. -/
def encRegImm (majorR minor majorI : Nat) (d a : Reg) : RegImm → BitVec 32
  | .reg b => encR majorR d.val a.val b.val 0 minor
  | .imm i => encI majorI d.val a.val i.toNat

/-- Operand value: the register, or IMM15 sign-extended (ADDI) or zero-extended (Table 4.4). -/
def LCore.regImm (l : LCore) (signed : Bool) : RegImm → Word
  | .reg b => l.rg b
  | .imm i => if signed then i.signExtend 64 else i.setWidth 64

/-! ### Offsets of memory forms (Table 4.4, R100) -/

def memBase : MemForm → Reg
  | .disp _ a _ => a
  | .index _ a _ _ _ => a
def memData : MemForm → Reg
  | .disp t _ _ => t
  | .index t _ _ _ _ => t
/-- Base plus displacement, or base plus index shifted left by C[1:0], modulo 2^64. -/
def LCore.memOffset (l : LCore) : MemForm → Word
  | .disp _ a d => l.rg a + d.signExtend 64
  | .index _ a b sh _ => l.rg a + (l.rg b <<< sh.val)

end Sys2Proof.Machine
end

