-- ==== Sys2Proof/Machine/Retire.lean ====
section
/-! DEFINITION. How one instruction of a logical core runs: its effect, its precise exception or its freeze, and its
retirement by the vote of the replicas on their retire signatures and outputs (R210 to R217, R224 to R228). -/

namespace Sys2Proof.Machine

/-! ### What leaves a group, and what the caches report -/

/-- An output of the slot's group: released as `k` does where the replicas agree or one is outvoted, else not (R212, R216,
R217, R224). -/
def State.leaves (s : State) (sl : Slot) (k : State → State) : State :=
  if s.outStruck sl then
    match s.voteOut sl with
    | (s1, true) => (k s1).settleMode
    | (s1, false) => s1.settleMode
  else k s

/-- The line is read or written in the caches of the slots by something else than an instruction: the errors that wait there
are met, and then `k` happens (R254, R256). -/
def State.lineMet (s : State) (sls : List Slot) (l : LineNo) (k : State → State) : State :=
  if sls.any fun sl => s.cacheErr sl l then (k (sls.foldl (fun s sl => (s.cacheMeet sl l).1) s)).settleMode else k s

/-! ### Running one instruction -/

/-- Count an instruction retired while an FP trap is recorded (R161). -/
def LCore.countFp (l : LCore) : LCore := { l with fpCount := l.fpCount + 1 }

/-- A cacheable line that the core's slot does not hold is asked for (R242). -/
def State.askLine (s : State) (sl : Slot) (l : LineNo) (fetch : Bool) : State :=
  if ((s.holder sl.val).stateOf l).isSome || !(s.place (lineAddr l)).isMemory then s
  else s.issue { newReq (.slot sl) l .readShared with fetch := fetch }

/-- The table lines that the walks of the core have read are asked for (R246). -/
def State.askWalks (t : State) (lc : Lc) : State :=
  let ls := (t.lc lc.val).walked
  if ls.isEmpty then t
  else
    let t1 := t.modLc lc.val fun c => { c with walked := [] }
    match (t.lc lc.val).host with
    | some sl => ls.foldl (fun t x => t.askLine sl x false) t1
    | none => t1

/-- The instruction that began in `s` has retired with its effect `t`: its fetch has used a line that the slot has (R259), and
the table lines of its walks are asked for (R246). -/
def State.retired (s : State) (lc : Lc) (t : State) : State :=
  let l := s.lc lc.val
  let t1 := t.askWalks lc
  match l.host with
  | none => t1
  | some sl =>
    let h := s.holder sl.val
    if h.l2.isEmpty && h.side.isEmpty then t1
    else
      match s.fetchTarget lc l l.pc.toNat with
      | .ok (pa, false) => (t1.modHolder sl.val fun h => h.fetched (lineOfAddr pa)).evictResv sl
      | _ => t1

/-- Execute once: the effect, the precise exception, the freeze, or nothing yet. -/
def State.runOnce (s : State) (lc : Lc) (w : BitVec 32) (f : State → LCore → Res State) : State :=
  let l := s.lc lc.val
  match f s l with
  | .ok s' => s.retired lc (if l.fpPend then s'.modLc lc.val LCore.countFp else s')
  | .exc e => s.takeExc lc w e
  | .freeze pa => s.freezeCore lc pa
  | .wait => s
  | .excIn s' e => (s'.askWalks lc).takeExc lc w e
  | .waitIn s' => s'.askWalks lc

/-- The instruction retires. -/
def Res.retires {α : Type} : Res α → Bool
  | .ok _ => true
  | _ => false

/-- Debug scope bits of the unlock in force (R546). -/
def State.debugScope (s : State) : BitVec 17 :=
  if s.fld .dbgStatus 63 63 = 1 then BitVec.ofNat 17 (s.fld .dbgStatus 48 32) else 0

/-- Polder is in debug scope, or the core is in Foreland: a halt need not wait for SLUICE.X (R546). -/
def State.haltable (s : State) (l : LCore) : Bool := !pswPolder l.psw || s.debugScope.getLsbD 16

/-- A halt request reaches a core (R546): delivered, or held until SLUICE.X. -/
def State.requestHalt (s : State) (lc : Lc) : State :=
  s.modLc lc.val fun l =>
    if s.haltable l then { l with reqs := { l.reqs with debug := true } } else { l with heldHalt := true }

/-! ### Retire records (R211, Table 8.5) -/

/-- A retire record: the destinations with the values written (rows 3 and 4, repeated), the memory accesses with physical
address, kind and size, and bytes stored (rows 7 to 9, repeated). -/
structure RetireRec where
  offset : Word
  word : BitVec 32
  dests : List (Nat × Nat)
  flags : Nat
  next : Word
  accs : List (Nat × Nat × List Byte)
  event : Nat
  deriving DecidableEq, Repr

/-- A field of `n` bytes, most significant first. -/
def beBytes (n v : Nat) : List Byte := (leBytes n v).reverse

/-- The fields in the order of Table 8.5; absent fields are 0. -/
def RetireRec.bytes (r : RetireRec) : List Byte :=
  let dests := if r.dests.isEmpty then [(0, 0)] else r.dests
  let accs := if r.accs.isEmpty then [(0, 0, [])] else r.accs
  beBytes 8 r.offset.toNat ++ beBytes 4 r.word.toNat ++
    dests.flatMap (fun d => beBytes 1 d.1 ++ beBytes 16 d.2) ++ beBytes 2 r.flags ++ beBytes 8 r.next.toNat ++
    accs.flatMap (fun a => beBytes 8 a.1 ++ beBytes 1 a.2.1 ++ a.2.2 ++ List.replicate (128 - a.2.2.length) 0) ++
    beBytes 2 r.event

/-- Fields of an instruction word (Table 4.3). -/
def wMajor (w : BitVec 32) : Nat := w.toNat / 2 ^ 25 % 64
def wD (w : BitVec 32) : Reg := ⟨w.toNat / 2 ^ 20 % 32, Nat.mod_lt _ (by decide)⟩
def wA (w : BitVec 32) : Reg := ⟨w.toNat / 2 ^ 15 % 32, Nat.mod_lt _ (by decide)⟩
def wB (w : BitVec 32) : Reg := ⟨w.toNat / 2 ^ 10 % 32, Nat.mod_lt _ (by decide)⟩
def wC (w : BitVec 32) : Nat := w.toNat / 2 ^ 5 % 32
def wMinor (w : BitVec 32) : Nat := w.toNat % 32

/-- Register file that field D names as the destination of a long word. -/
inductive DestFile where | none | g | f | s | control | several deriving DecidableEq, Repr

def destFile (w : BitVec 32) : DestFile :=
  let m := wMajor w
  let n := wMinor w
  if w.getLsbD 31 then .several
  else if 0x01 ≤ m && m ≤ 0x0F then .g
  else if m = 0x17 || m = 0x1D then .f
  else if 0x10 ≤ m && m ≤ 0x16 then .g
  else if m = 0x20 then .g
  else if m = 0x21 then (if n % 2 = 0 then .g else .none)
  else if m = 0x22 then (if n ≤ 1 then .s else if n = 2 then .g else .none)
  else if m = 0x23 then (if n = 3 then .g else .none)
  else if m = 0x2D then .g
  else if m = 0x2E then (if n = 1 then .g else .none)
  else if 0x30 ≤ m && m ≤ 0x35 then (if 11 ≤ n && n ≤ 13 then .g else .f)
  else if m = 0x36 then (if n / 8 = 1 || n / 8 = 2 then .g else .f)
  else if m = 0x37 then (if n = 1 || n = 3 then .g else .f)
  else if m = 0x38 then (if n = 3 then .g else if n = 4 then .control else .none)
  else if m = 0x3C || m = 0x3E then .several
  else .none

/-- Destinations of a retired word on a core that was `l` and is now `l'`: the register that field D names, with the value
it now holds; G31 for CALL; the number and value of a control register; every register changed for a paired word, a
long-running word and a custom opcode. -/
def retireDests (w : BitVec 32) (l l' : LCore) : List (Nat × Nat) :=
  let gOf (r : Reg) : Nat × Nat := (0x20 + r.val, (l'.rg r).toNat)
  let fOf (r : Reg) : Nat × Nat := (0x40 + r.val, (l'.rf r).toNat)
  match destFile w with
  | .none => []
  | .g => [gOf (if wMajor w = 0x2D then 31 else wD w)]
  | .f => [fOf (wD w)]
  | .s => [(0x60 + (wD w).val, (l'.rs (wD w)).toNat)]
  | .control => [(0x80, (l.rg (wA w)).toNat * 2 ^ 10 + ((wB w).val % 32 * 32 + wC w))]
  | .several =>
    ((List.finRange 32).filter fun r => l.rg r ≠ l'.rg r).map gOf ++
      ((List.finRange 32).filter fun r => l.rf r ≠ l'.rf r).map fOf

/-- Row 5 of Table 8.5. -/
def LCore.recFlags (l : LCore) : Nat := bits l.psw 19 16 + bits l.fpsr 4 0 * 2 ^ 4 + bits l.fpxr 63 63 * 2 ^ 9

/-- Kind (as xINFO.ACCESS) and size of the memory access of a long word. -/
def wAccess (w : BitVec 32) : Option (Nat × Nat) :=
  let m := wMajor w
  let n := wMinor w
  if w.getLsbD 31 then none
  else if m = 0x10 || m = 0x14 then some (2, 1)
  else if m = 0x11 || m = 0x15 then some (2, 2)
  else if m = 0x12 || m = 0x16 then some (2, 4)
  else if m = 0x13 || m = 0x1D then some (2, 8)
  else if m = 0x17 then some (2, 16)
  else if m = 0x18 then some (3, 1)
  else if m = 0x19 then some (3, 2)
  else if m = 0x1A then some (3, 4)
  else if m = 0x1B || m = 0x1E then some (3, 8)
  else if m = 0x1C then some (3, 16)
  else if m = 0x20 then some (if n = 1 then 2 else if n = 2 then 3 else 4, 8)
  else if m = 0x21 then some (if n % 2 = 0 then 2 else 3, if n < 2 then 8 else 4)
  else none

/-- Offset of that access. -/
def LCore.wOffset (l : LCore) (w : BitVec 32) : Word :=
  let m := wMajor w
  if m = 0x20 then l.rg (wA w)
  else if m = 0x21 then l.rg (wA w) + (l.rg (wB w) <<< (wC w % 4))
  else l.rg (wA w) + (BitVec.ofNat 15 w.toNat).signExtend 64

/-- Rows 7 to 9 of a word that retires from `s` on to `t`: the address that its translation gives, and the bytes that its
location then holds for the core, for a store. -/
def State.retireAccess (s t : State) (lc : Lc) (w : BitVec 32) : List (Nat × Nat × List Byte) :=
  let l := s.lc lc.val
  match wAccess w with
  | none => []
  | some (kind, n) =>
    match (segCheck (l.rs (wA w)) (pswPolder l.psw) l.level (l.wOffset w).toNat n 0).bind fun la =>
        s.translateAt lc l la needR with
    | .ok r =>
      let bs := if kind = 2 then [] else (t.lc lc.val).overlay r.1 (t.freshBytes r.1 n).1
      [(r.1, kind + Nat.log2 n * 16, bs)]
    | _ => []

/-- The record of an instruction that comes to retire, or to take its exception; `none` while it does neither. -/
def State.retireRec (s : State) (lc : Lc) (w : BitVec 32) (r : Res State) : Option RetireRec :=
  let l := s.lc lc.val
  let raised (e : Exc) : RetireRec :=
    let trap := l.fpPend
    let code := if trap then 0x12 else e.code
    ⟨l.pc, w, [], l.recFlags, (l.excBank (l.handler code)).vec, [], code + if trap then 2 ^ 9 else 0⟩
  match r with
  | .ok t =>
    let l' := t.lc lc.val
    some ⟨l.pc, w, retireDests w l l', l'.recFlags, l'.pc, s.retireAccess t lc w, 0⟩
  | .exc e | .excIn _ e => some (raised e)
  | _ => none

/-- Bit `b` of a byte string, from the most significant bit of its first byte on, inverted. -/
def flipBit (bs : List Byte) (b : Nat) : List Byte :=
  bs.mapIdx fun i x => if i = b / 8 then x ^^^ (0x80#8 >>> (b % 8)) else x

/-- Signature and outputs that a core presents for a record (R209, R211, R212). -/
def RetireRec.presented (r : RetireRec) : RetUpset → Word × Nat
  | .none | .check | .micro _ _ => (crc64 r.bytes, 0)
  | .record b => (crc64 (flipBit r.bytes (b % (8 * r.bytes.length))), 0)
  | .signature m => (crc64 r.bytes ^^^ m, 0)
  | .output m => (crc64 r.bytes, m)

/-! ### The vote (R210, R216, R217, R224, R226 to R228) -/

/-- What was to strike these cores has struck. -/
def State.popUpsets (s : State) (i : Island) (cs : List (Fin 4)) : State :=
  cs.foldl (fun s c => s.modCore i c fun y => { y with upsets := y.upsets.tail }) s

/-- The word runs in microcode: binary128 arithmetic, long-running instructions and custom opcodes. -/
def microcoded (w : BitVec 32) : Bool := !w.getLsbD 31 && (wMajor w = 0x33 || wMajor w = 0x3C || wMajor w = 0x3E)

/-- A microword fetch of core `c` reports an error at a micro-address: MC_ECC, or MC_UE, which makes a replica faulty and
is a hard fault of a simplex core, which then stops (R170). -/
def State.microError (s : State) (i : Island) (k : Fin 4) (c : Fin 4) (ue : Bool) (addr off : Nat) : State × Bool :=
  let src := coreSrc (4 * i.val + c.val)
  if !ue then (s.report src 0x21 clsCorrected addr, false)
  else if 2 ≤ (s.isl i.val).healthy k then ((s.report src 0x22 clsCorrected addr).faultyReplica i c off, false)
  else ((s.report src 0x22 clsSevere addr).simplexHard i c off, true)

/-- The first of the cores whose next microword fetch reports an error. -/
def Isl.microUpset (x : Isl) (cs : List (Fin 4)) : Option (Fin 4 × Bool × BitVec 16) :=
  cs.findSome? fun c => match (x.cores.get c).upsets.headD .none with
    | .micro ue a => some (c, ue, a)
    | _ => none

/-- The healthy cores of the slot compare their signatures and outputs, or a lone core its checks, until one execution
passes or the core is lost or stops: the state in which the instruction retires, or does not.  `again`: an execution of
it has failed before.  A pair whose third core is being resynchronised is lost when it differs again (Table 8.7). -/
def State.voteRetire (lc : Lc) (h : Slot) (r : RetireRec) : Nat → Bool → State → State × Bool
  | 0, _, s => (s, true)
  | n + 1, again, s =>
    let i := hostIsland h
    let k := slotPos h
    let x := s.isl i.val
    let cs := x.voting k
    let head (c : Fin 4) : RetUpset := (x.cores.get c).upsets.headD .none
    let off := r.offset.toNat
    match if microcoded r.word then x.microUpset cs else none with
    | some (c, ue, a) =>
      (match (s.popUpsets i [c]).microError i k c ue a.toNat off with
       | (s1, true) => (s1, false)
       | (s1, false) => State.voteRetire lc h r n again s1)
    | none =>
    let s1 := s.popUpsets i cs
    match cs with
    | [c] =>
      if head c = .check then
        let s2 := ((s1.rollback lc).chargeCore i c).coreEvent i c evSimplexRetry clsCorrected off
        if again then (s2.simplexHard i c off, false) else State.voteRetire lc h r n true s2
      else (s1, true)
    | _ =>
      match verdict (cs.map fun c => (c, r.presented (head c))) with
      | .agree => (s1, true)
      | .odd c => (s1.markOdd i c off true, true)
      | .differ =>
        if cs.length = 3 then
          if again then (s1.groupLostLc lc h off, false)
          else State.voteRetire lc h r n true ((s1.rollback lc).slotEvent i k evNoMajority clsContained lc.val off)
        else if again && s.resyncing h (s.lc lc.val) then (s1.groupLostLc lc h off, false)
        else State.voteRetire lc h r n true (s1.pairMismatch lc h off true)

/-- A bound of the executions that can differ and the fetches that can fail: the upsets to come. -/
def State.strikes (s : State) (h : Slot) : Nat :=
  let x := s.isl (hostIsland h).val
  (x.voting (slotPos h)).foldl (fun n c => n + (x.cores.get c).upsets.length) 0 + 1

/-- The instruction at `pc` comes to retire with record `r`. -/
def State.retireVote (s : State) (lc : Lc) (r : Option RetireRec) : State × Bool :=
  match (s.lc lc.val).host, r with
  | some h, some r => State.voteRetire lc h r (s.strikes h) false s
  | _, _ => (s, true)

/-- What retires with record `r` as `k`: where something strikes a core of the slot, it happens in the state that the vote
leaves, or not at all, and the mode follows what became of the cores (R64, R210). -/
def State.voted (s : State) (lc : Lc) (r : Option RetireRec) (k : State → State) : State :=
  if s.struck lc then
    match s.retireVote lc r with
    | (s1, true) => (k s1).settleMode
    | (s1, false) => s1.settleMode
  else k s

/-- The record of an entry into the handler that starts at `next`, without a word: an interrupt, or FP_TRAP (rows 6
and 10 of Table 8.5). -/
def LCore.entryRec (l : LCore) (next : Word) (event : Nat) : RetireRec := ⟨l.pc, 0, [], l.recFlags, next, [], event⟩

/-- The MACHINE_CHECK that an FP_TRAP displaced is due where the core stands (R161, R178). -/
def LCore.lateDue (l : LCore) : Option (Nat × BitVec 32) :=
  l.lateCheck.bind fun x => if x.2.1 = l.pc && !l.fpPend then some (x.1, x.2.2) else none

/-- A recorded FP trap is delivered: the group's next retirement (R161, row 10 of Table 8.5). -/
def State.fpVoted (s : State) (lc : Lc) : State :=
  let l := s.lc lc.val
  s.voted lc (some (l.entryRec (l.excBank (l.handler 0x12)).vec (2 ^ 9 + 0x12))) fun s => s.fpTrap lc

/-- The line of the word at `pc`, where an error waits on it in the caches of the core's slot (R254). -/
def State.fetchErr (s : State) (lc : Lc) : Option (Slot × LineNo) :=
  let l := s.lc lc.val
  match l.host with
  | none => none
  | some sl =>
    if (s.holder sl.val).errs.isEmpty then none
    else
      match s.fetchTarget lc l l.pc.toNat with
      | .ok (pa, false) => if s.cacheErr sl (lineOfAddr pa) then some (sl, lineOfAddr pa) else none
      | _ => none

/-- One instruction of logical core `lc`: its word `w` for xINFO, and its effect on the state.  A core that does not
run leaves everything as it is (log entry 5); a word at a breakpoint requests a halt in its place (R546, log entry
28); after the 256th instruction that follows a trapping operation, FP_TRAP comes before the next (R161); where
something strikes a core of its slot, the replicas' votes decide (R210); an error that waits on the word's line in the caches
is met as it is fetched (R254, R256). -/
def State.runInstr (s : State) (lc : Lc) (w : BitVec 32) (f : State → LCore → Res State) : State :=
  if s.lcRuns lc then
    let l := s.lc lc.val
    if l.breakpoints.contains l.pc && s.haltable l then s.requestHalt lc
    else if l.fpPend && 256 ≤ l.fpCount then s.fpVoted lc
    else
      match l.lateDue with
      | some (pa, w0) =>
        s.voted lc (some (l.entryRec (l.excBank (l.handler 0x11)).vec 0x11)) fun s =>
          (s.modLc lc.val fun c => { c with lateCheck := none }).enterExc lc w0 { code := 0x11, addr := pa, access := 2 }
      | none =>
        match s.fetchErr lc with
        | none => s.voted lc (s.retireRec lc w (f s l)) fun s => s.runOnce lc w f
        | some (sl, x) =>
          (match s.cacheMeet sl x with
           | (s1, .check pa) => (s1.takeExc lc w { code := 0x11, addr := pa, access := 1 }).settleMode
           | (s1, .retire) => (s1.voted lc (s1.retireRec lc w (f s1 (s1.lc lc.val))) fun s => s.runOnce lc w f).settleMode)
  else s

/-- An instruction that only changes its core and goes on to the next word. -/
def State.runLocal (s : State) (lc : Lc) (w : BitVec 32) (f : LCore → Res LCore) : State :=
  s.runInstr lc w fun s l => (f l).map fun l' => s.setLc lc.val { l' with pc := l.pc + 4 }

end Sys2Proof.Machine
end

