-- ==== Sys2Proof/Machine/Parcels.lean ====
section
/-! DEFINITION. Parcels: routing, delivery and posting of interrupt messages, storm limits, interrupt entry, the parcel,
logical-core and path resets, and service-level windows (chapter 17). -/

namespace Sys2Proof.Machine

open Host (Outcome)

/-! ### Route entries (R481, R482, Table 17.3) -/

/-- The two words of a route entry, or of what IR_SEND builds in its form. -/
structure Route where
  w0 : Word
  w1 : Word
  deriving DecidableEq, Repr

def Route.kind (r : Route) : Bool := r.w0.getLsbD 62
def Route.level (r : Route) : Bool := r.w0.getLsbD 61
def Route.vector (r : Route) : Nat := bits r.w0 58 48
def Route.rate (r : Route) : Nat := bits r.w0 47 32
def Route.burst (r : Route) : Nat := bits r.w0 31 24
def Route.lc (r : Route) : Nat := bits r.w0 7 0
def Route.pdesc (r : Route) : Nat := bits r.w1 51 9 * 512

/-- A reserved bit of the entry is set. -/
def Route.reserved (r : Route) : Bool :=
  bits r.w0 60 59 ≠ 0 || bits r.w0 23 8 ≠ 0 || bits r.w1 63 52 ≠ 0 || bits r.w1 8 0 ≠ 0

/-- The entry is invalid for a message of world `polder` in the table of `owner` (R482). -/
def State.routeBad (s : State) (owner : Fin 17) (polder : Bool) (r : Route) : Bool :=
  let lcOk : Bool := r.lc < 192 && (s.lc r.lc).host.isSome && (owner.val = 16 || pswParcel (s.lc r.lc).psw = owner.val)
  let descOk : Bool := s.fwAllows [owner.val] r.pdesc 512 needRW
  r.reserved || (r.rate ≠ 0 && r.burst = 0) || (if r.kind then polder || !descOk else !lcOk)

/-- The route entry of a message, read from its owner's table: `none` when the message is discarded by R481, an
unreadable entry counting as invalid.  A message of IR_SEND carries its own (R489). -/
def State.routeEntry (s : State) (m : IrqMsg) : Option Route :=
  if let some w := m.sent then some ⟨w.1, w.2⟩ else
  match fin? 12 m.cls.toNat with
  | none => none
  | some k =>
    let c := s.reg (.irClass m.owner k)
    if s.fld (.irCtl m.owner) 63 63 = 0 || !c.getLsbD 11 || 2 ^ bits c 4 0 ≤ m.inst.toNat then none
    else
      match s.peek (bits c 51 12 * 4096 + 16 * m.inst.toNat) 16 with
      | some (bs, false) =>
        let r : Route := ⟨BitVec.ofNat 64 (leAt bs 0 8), BitVec.ofNat 64 (leAt bs 8 8)⟩
        if r.w0.msb then some r else none
      | _ => some ⟨0xFFFFFFFFFFFFFFFF, 0xFFFFFFFFFFFFFFFF⟩

/-! ### Delivery and posting (R483, R485, R486) -/

/-- Set of a logical-core message (R483). -/
def irqSet (polder level : Bool) : Fin 4 := if polder then 3 else if level then 1 else 0

/-- OR a byte string into memory, where it can be reached. -/
def State.orMem (s : State) (a : Nat) (bs : List Byte) : State :=
  if s.rangeReachable a bs.length then s.invWriteBytes .keeper a (orBytes (s.freshBytes a bs.length).1 bs) else s

/-- Post vector `v` to a virtual core (R486). -/
def State.post (s : State) (pdesc v : Nat) (cls : Byte) (inst : BitVec 18) : State :=
  let s1 := s.orMem (pdesc + v / 8) [BitVec.ofNat 8 (2 ^ (v % 8))]
  let a := pdesc + 0x100
  if !s1.rangeReachable a 8 then s1
  else
    let c : Word := BitVec.ofNat 64 (leNat (s1.freshBytes a 8).1)
    let vec := BitVec.ofNat 11 (bits c 10 0)
    let push (s : State) (lc : Nat) (g : GateMsg) : State :=
      if lc < 192 then s.modLc lc fun l => { l with gate := l.gate ++ [g] } else s
    if c.msb then push s1 (bits c 47 40) (.notify pdesc vec cls inst)
    else if c.getLsbD 62 then s1
    else push (s1.orMem (a + 7) [0x40]) (bits c 31 24) (.vector 1 vec cls inst)

/-- Send a message where its route says, with its vector. -/
def State.sendRouted (s : State) (r : Route) (m : IrqMsg) : State :=
  let v := (r.vector + m.event.toNat) % 2048
  if r.kind then s.post r.pdesc v m.cls m.inst
  else s.gateVector r.lc (irqSet m.polder r.level) (BitVec.ofNat 11 v) m.cls m.inst

/-! ### Routing units (R481, R482, R490) -/

/-- Source ID of the routing unit of tile `k` for an owner. -/
def unitSrc (k : Nat) (o : Fin 17) : Nat :=
  if 5 ≤ k then srcId k 0x15 0 else if k = 0 || o.val = 16 then srcId k 0x25 0 else srcId k 0x0B o.val

/-- ADDR of an IRQ fault: class and instance. -/
def irqAddr (m : IrqMsg) : Nat := m.cls.toNat + 256 * m.inst.toNat

/-- A message is discarded as invalid (R482). -/
def State.routeFault (s : State) (k : Nat) (m : IrqMsg) : State :=
  (s.bump (.irStat m.owner) 31 16 1).report (unitSrc k m.owner) 0x58 clsContained (irqAddr m)

/-- Key of a route's token bucket. -/
def bucketKey (m : IrqMsg) : Nat := (m.owner.val * 256 + m.cls.toNat) * 2 ^ 18 + m.inst.toNat

def StormPair.sameRoute (p : StormPair) (m : IrqMsg) : Bool := bucketKey p.msg = bucketKey m

/-- A message finds no token (R490). -/
def State.suppress (s : State) (k : Nat) (m : IrqMsg) : State :=
  let l := s.stormAt k
  let first := !(l.any fun p => p.sameRoute m)
  let s1 := if first then (s.bump (.irStat m.owner) 15 0 1).report (unitSrc k m.owner) 0x59 clsNote (irqAddr m) else s
  if l.any fun p => p.sameRoute m && p.msg.event = m.event then s1
  else if l.length < 1024 then s1.setStorm k (l ++ [⟨m.owner, m⟩])
  else
    let s2 := match fin? 4 (k - 5) with
      | some t => if 5 ≤ k then s1.bump (.irtStat t) 31 0 1 else s1
      | none => s1
    s2.report (unitSrc k m.owner) 0x5A clsContained (irqAddr m)

/-- Tokens missing from a route's bucket. -/
def State.missing (s : State) (m : IrqMsg) : Nat := Table.get 0 s.buckets (bucketKey m)
def State.setMissing (s : State) (m : IrqMsg) (n : Nat) : State :=
  { s with buckets := Table.set 0 s.buckets (bucketKey m) n }

/-- Route one message at tile `k`: discarded, invalid, suppressed or delivered. -/
def State.routeMsg (s : State) (k : Nat) (m : IrqMsg) : State :=
  match s.routeEntry m with
  | none => s.bump (.irStat m.owner) 63 32 1
  | some r =>
    if s.routeBad m.owner m.polder r then s.routeFault k m
    else if r.rate = 0 then s.sendRouted r m
    else if s.missing m < r.burst then (s.setMissing m (s.missing m + 1)).sendRouted r m
    else s.suppress k m

/-- What a routing unit reads and writes in memory for a message: the route entry and, for a virtual core, its posting
descriptor (R482, R486). -/
def State.routeReach (s : State) (m : IrqMsg) : List Reach :=
  match fin? 12 m.cls.toNat, s.routeEntry m with
  | some k, some r =>
    let v := (r.vector + m.event.toNat) % 2048
    let entry := if m.sent.isSome then []
      else peeks [(bits (s.reg (.irClass m.owner k)) 51 12 * 4096 + 16 * m.inst.toNat, 16)]
    if r.kind && !s.routeBad m.owner m.polder r then entry ++ puts [(r.pdesc + v / 8, 1), (r.pdesc + 0x100, 8)] else entry
  | _, _ => []

/-- The routing unit routes its oldest message; messages wait in QUIESCE (R66, R481). -/
def State.routeNext (s : State) (k : Tile) : State :=
  match s.irqsAt k.val with
  | [] => s
  | m :: t =>
    if s.mode.running && s.tileLive k.val then
      s.admitAs (.agent (BitVec.ofNat 16 (unitSrc k.val m.owner))) .keeper (s.routeReach m) fun s =>
        { s with irqs := Table.insert s.irqs k.val t }.routeMsg k.val m
    else s

/-- A bucket gains its route's tokens. -/
def State.refillBucket (s : State) (key : Nat) : State :=
  let o := key / 2 ^ 26
  let m : IrqMsg := ⟨BitVec.ofNat 8 (key / 2 ^ 18), BitVec.ofNat 18 key, 0, false, ownerFin (some o), none⟩
  match s.routeEntry m with
  | some r => s.setMissing m (s.missing m - r.rate)
  | none => s.setMissing m 0

/-- Deliver recorded pairs of a storm table in order while tokens last. -/
def State.drainStorm (s : State) (k : Nat) : List StormPair → State
  | [] => s
  | p :: t =>
    let m := p.msg
    let drop (s : State) : State := s.setStorm k ((s.stormAt k).filter fun x => x ≠ p)
    let s1 := match s.routeEntry m with
      | none => (drop s).bump (.irStat m.owner) 63 32 1
      | some r =>
        if s.routeBad m.owner m.polder r then (drop s).routeFault k m
        else if r.rate = 0 then (drop s).sendRouted r m
        else if s.missing m < r.burst then ((drop s).setMissing m (s.missing m + 1)).sendRouted r m
        else s
    s1.drainStorm k t

/-- The timebase crosses a multiple of 2^20 ns (R490); suppressed messages are delivered in the running modes (R66). -/
def State.stormRefill (s : State) : State :=
  if !s.ringsRun then s
  else
    let s1 := (s.buckets.map (·.1)).foldl State.refillBucket s
    if s.mode.running then (List.range 9).foldl (fun s k => s.drainStorm k (s.stormAt k)) s1 else s1

/-- IR_SEND (R489), written at `pa`; outside the running modes its message is held like every other (R66). -/
def State.irSendW (s : State) (m : Master) (o : Fin 17) (pa : Nat) (v : Word) : State :=
  s.csAccess m pa needW true fun s =>
    let inst : Nat := match m with | .core lc => lc.val | _ => 0xFF
    let r : Route :=
      { w0 := BitVec.ofNat 64 (2 ^ 63 + bits v 63 63 * 2 ^ 62 + bits v 62 62 * 2 ^ 61 + bits v 61 51 * 2 ^ 48 + bits v 7 0)
        w1 := BitVec.ofNat 64 (bits v 50 8 * 512) }
    let msg : IrqMsg := ⟨0x06, BitVec.ofNat 18 inst, 0, s.masterPolder m, o, some (r.w0, r.w1)⟩
    let k := if o.val = 16 then 0 else 1
    if !s.mode.running then (s.respond m .ok).raiseIrq k msg
    else
      s.admitAs (.agent (BitVec.ofNat 16 (unitSrc k o))) .keeper (s.routeReach msg) fun s =>
        let s := s.respond m .ok
        if s.routeBad o msg.polder r then s.routeFault k msg else s.sendRouted r msg

/-! ### Arrival and entry (R117, R483, R484, R487) -/

/-- Set a vector of a pending set; a vector already pending keeps its source. -/
def pendPut (p : PendSet) (v : BitVec 11) (cls : Byte) (inst : BitVec 18) : PendSet :=
  if p.any fun e => e.1 = v.toNat then p else Table.insert p v.toNat (some (cls, inst))

def LCore.pend (l : LCore) (set : Fin 4) : PendSet :=
  match set with | 0 => l.pendS | 1 => l.pendH | 2 => l.pendG | 3 => l.pendP
def LCore.setPend (l : LCore) (set : Fin 4) (p : PendSet) : LCore :=
  match set with
  | 0 => { l with pendS := p } | 1 => { l with pendH := p } | 2 => { l with pendG := p } | 3 => { l with pendP := p }

/-- The set an interrupt is taken from, and the bank it enters (R484); the gate entry of R466 comes first. -/
def LCore.nextSet (l : LCore) : Option (Fin 4 × Bank) :=
  let ie := pswIe l.psw
  let has (n : Fin 4) : Bool := !(l.pend n).isEmpty
  if pswPolder l.psw then (if ie && has 3 then some (3, .s) else none)
  else if has 3 || !ie then none
  else if l.gv then
    if has 1 then some (1, .h) else if has 0 then some (0, .h) else if has 2 then some (2, .s) else none
  else if l.level = 2 then (if has 1 then some (1, .h) else none)
  else if has 1 then some (1, .h) else if has 0 then some (0, .s) else none

/-- An interrupt is pending for the core (R90, R466): one that it would take if IE were 1, or, in Foreland, a Polder one. -/
def LCore.intPending (l : LCore) : Bool :=
  (!pswPolder l.psw && !(l.pend 3).isEmpty) || ({ l with psw := setBits l.psw 8 8 1 }).nextSet.isSome

/-- A core in WAIT goes on when an interrupt is pending for it. -/
def LCore.wake (l : LCore) : LCore := { l with waiting := l.waiting && !l.intPending }

/-- A vector at the gate reaches its pending set; a core in WAIT goes on (R90, R483). -/
def State.pendArrive (s : State) (lc : Lc) : State :=
  let l := s.lc lc.val
  match l.gate with
  | .vector set v cls inst :: t =>
    if s.mode.running && l.host.isSome then
      s.setLc lc.val ({ l.setPend set (pendPut (l.pend set) v cls inst) with gate := t }).wake
    else s
  | _ => s

/-- The core stands at an instruction boundary where it can take a message: it executes or waits in WAIT. -/
def State.atBoundary (s : State) (l : LCore) : Bool :=
  s.coresRun && l.executes && l.ioWait.isNone && l.far.isNone && l.overrun.isNone

/-- A NOTIFY reaches its core: PEND is taken, or the doorbell vector is set (R487). -/
def State.notifyArrive (s : State) (lc : Lc) : State :=
  let l := s.lc lc.val
  match l.gate with
  | .notify a v cls inst :: t =>
    if !s.atBoundary l then s
    else
      let s1 := s.setLc lc.val { l with gate := t }
      if l.gv && vcidValid l.hyp.vcid && vcidPdesc l.hyp.vcid = a then
        match s1.guestIn lc with
        | .ok s2 => s2.modLc lc.val LCore.wake
        | .freeze pa => s.freezeCore lc pa
        | _ => s
      else s1.modLc lc.val fun c => ({ c with pendH := pendPut c.pendH v cls inst }).wake
  | _ => s

/-- Enter the handler for the lowest vector of a set; the source of a vector taken from a posting descriptor is not
recorded there, so its class and instance are free values. -/
def State.enterIrq (s : State) (lc : Lc) (set : Fin 4) (b : Bank) (v : Nat) (src : Option (Byte × BitVec 18)) : State :=
  let r : Nat × Nat × State := match src with
    | some (c, i) => (c.toNat, i.toNat, s)
    | none => let d := s.draw; let e := d.2.draw; (bits d.1 7 0, bits e.1 17 0, e.2)
  let s1 := r.2.2.modLc lc.val fun l =>
    { l.setPend set (Table.erase (l.pend set) v) with waiting := false }
  s1.enterAt lc b (s1.lc lc.val).pc (BitVec.ofNat 64 (2 ^ 63 + r.1 * 2 ^ 16)) (BitVec.ofNat 64 (v + set.val * 2 ^ 11))
    (BitVec.ofNat 64 r.2.1)

/-- The core takes an interrupt at a boundary (R117, R484); a denied write-back of GUEST freezes it first. -/
def State.irqEntry (s : State) (lc : Lc) : State :=
  let l := s.lc lc.val
  if !s.atBoundary l then s
  else
    match l.nextSet with
    | none => s
    | some (set, b) =>
      s.fpFirst lc fun s =>
        match (s.lc lc.val).pend set with
        | [] => s
        | (v, src) :: _ =>
          match (if b = .h && l.gv then s.guestOut lc else .ok s) with
          | .freeze pa => s.freezeCore lc pa
          | _ => s.enterIrq lc set b v src

/-- The entry is the group's next retirement (row 10 of Table 8.5). -/
def State.irqVoted (s : State) (lc : Lc) : State :=
  let l := s.lc lc.val
  match l.nextSet, s.atBoundary l with
  | some (_, b), true => s.voted lc (some (l.entryRec (l.excBank b).vec (2 ^ 8))) fun s => s.irqEntry lc
  | _, _ => s.irqEntry lc

/-! ### Waiting for Polder (R494) -/

/-- Some core of the parcel is to be reset and stands behind an open gate entry. -/
def State.prWaits (s : State) (p : Nat) : Bool := (s.parcelLcs p).any fun l => s.resetWaits (s.lc l.val)

/-- The PARCEL_RESET message is raised once on entry to the wait. -/
def State.notePolderWait (s : State) (p : Nat) : State :=
  let w := s.prWaits p
  let x := s.prst p
  let s1 := if x.waitPolder == w then s else s.setPrst p { x with waitPolder := w }
  if w && !x.waitPolder then s1.raiseIrq 0 ⟨0x0A, BitVec.ofNat 18 p, 0, true, 16, none⟩ else s1

/-! ### Pieces of a reset (Table 17.6) -/

/-- Steps that act on one core: its caches are written back and emptied, its reservation cleared (step 3). -/
def State.resetCaches (s : State) (lc : Lc) : State :=
  let s1 := s.modLc lc.val LCore.clearResv
  match (s1.lc lc.val).host with
  | some h => if (s1.lc lc.val).stops.lost then s1 else s1.emptySlot h
  | none => s1

/-- A stopped core takes its reset state (R492); a core with a hard fault, or a lost one, asks for its migration where
it has a target (R228, R235). -/
def State.resetStopped (s : State) (lc : Lc) (p : Nat) : State :=
  let s1 := s.resetLc lc p
  let l := s1.lc lc.val
  if l.stops.hard || (l.stops.lost && (s1.lcTarget lc).isSome) then s1.requestMigration lc else s1

def LCore.clearPending (l : LCore) : LCore := { l with pendS := [], pendH := [], pendG := [], pendP := [] }

/-- The core's instruction slots at the engines are idle again: its chunks stand at their last progress points. -/
def State.clearSlots (s : State) (lc : Lc) : State :=
  [false, true].foldl (fun s cph =>
    (s.dropMaster (.slot cph lc)).modAslot (slotIdx cph lc) fun x => { x with busy := false, req := none, queue := [] }) s

/-- An LC_RESET whose core has stopped; the packets that it opened are aborted (R348, R496). -/
def State.lcResetDone (s : State) (lc : Lc) : State :=
  let p := pswParcel (s.lc lc.val).psw
  let s1 := (((s.resetCaches lc).clearSlots lc).modLc lc.val LCore.clearPending).resetStopped lc p
  ((s1.abortPackets (.core lc)).modPrst p fun x => { x with consented := false }).notePolderWait p

/-- A stop request takes effect at a synchronisation point; an LC_RESET then completes (R207, R496). -/
def State.groupStopped (s : State) (lc : Lc) : State :=
  let s1 := s.groupStop lc
  let l := s1.lc lc.val
  if l.stops.reset && (s1.prst (pswParcel l.psw)).step.val = 0 then s1.lcResetDone lc else s1

/-- Masters of a parcel that are not its cores. -/
def State.parcelPes (s : State) (p : Nat) : List Pe := (List.finRange 128).filter fun e => s.peOwner e = some p
def State.parcelPorts (s : State) (p : Nat) : List Port := (List.finRange 512).filter fun q => s.portOwner q = some p
def allCtx : List AccCtx :=
  (List.finRange 4).flatMap fun t => [false, true].flatMap fun c => (List.finRange 8).map fun k => (⟨c, t, k⟩ : AccCtx)
def State.parcelCtxs (s : State) (p : Nat) : List AccCtx :=
  allCtx.filter fun c => (s.ctx (ctxIdx c)).owner.val = p && (s.ctx (ctxIdx c)).st != .disabled
def State.parcelScs (s : State) (p : Nat) : List Sc := s.scList.filter fun n => s.scOwner n = some p
def State.parcelQueues (s : State) (p : Nat) : List Qn :=
  s.queues.filterMap fun e => (fin? 32768 e.1).filter fun q => s.queueOwner q = some p

/-- Step 1: every master of the parcel is told to stop. -/
def State.prFreeze (s : State) (p : Nat) : State :=
  let s1 := (s.parcelLcs p).foldl (fun s l => s.modLc l.val fun c => { c with reqs := { c.reqs with reset := true } }) s
  let s2 := (s1.parcelPes p).foldl (fun s e => s.modPe e.val fun x => { x with stopped := true }) s1
  let s3 := (s2.parcelCtxs p).foldl (fun s c => s.modCtx (ctxIdx c) fun x =>
    { x with st := match x.st with | .idle => .disabled | .running => .stopping | y => y }) s2
  let s4 := (List.finRange 64).foldl (fun s c =>
    if ((s.dma c.val).queue.bind s.queueOwner) = some p then s.qdmaStop c else s) s3
  let s5 := (s4.parcelPorts p).foldl (fun s q =>
    if s.isPciPort q then s.modPort q.val fun x => { x with inboundHeld := true } else s) s4
  s5.notePolderWait p

/-- Step 1 has ended: every master has stopped (a context of an engine that runs no chunk stands at a progress point), and no resynchronisation of the parcel's groups goes on (R495). -/
def State.prFrozen (s : State) (p : Nat) : Bool :=
  ((s.parcelLcs p).all fun l => (s.lc l.val).stops.any &&
      !((s.lc l.val).host.any fun h => s.resyncing h (s.lc l.val)) &&
      !(s.aslot (slotIdx false l)).busy && !(s.aslot (slotIdx true l)).busy) &&
    (s.parcelCtxs p).all fun c => (s.ctx (ctxIdx c)).st != .stopping || (s.ctx (ctxIdx c)).response.isSome ||
      !s.mastersStart || !s.accOn (ctxEngine c)

/-- Step 2: running subchannels with no cycle in flight, and whose list has not ended, park with cause RESET. -/
def State.prPark (s : State) (p : Nat) : State :=
  (s.parcelScs p).foldl (fun s n =>
    if (s.sc n.val).st == .running && (s.sc n.val).exch.isNone && (s.sc n.val).post.isNone then s.park n 2 else s) s

def State.prParked (s : State) (p : Nat) : Bool := (s.parcelScs p).all fun n => (s.sc n.val).st != .running

/-- A deferred cut request is withdrawn: its unit is ON (R472, R474). -/
def State.withdrawCut (s : State) (u : CutUnit) : State :=
  { s.setCut u .on with cutReqs := s.cutReqs.filter fun r => r.target ≠ u }

/-- Step 4: routes, pending sets, storm pairs and deferred cuts. -/
def State.prRoutes (s : State) (p : Parcel) : State :=
  let o : Fin 17 := ⟨p.val, by omega⟩
  let s1 := s.setFld (.irCtl o) 63 63 0
  let s2 := (s1.parcelLcs p.val).foldl (fun s l => s.modLc l.val LCore.clearPending) s1
  let s3 := { s2 with storms := s2.storms.map fun (e : Nat × List StormPair) => (e.1, e.2.filter fun x => x.owner ≠ o) }
  (s3.cutReqs.filter fun r => r.parcel = p).foldl (fun s r => s.withdrawCut r.target) s3

/-- Step 5: OVERTOP queues are flushed, held writes and open packets of the parcel's masters go. -/
def State.prQueues (s : State) (p : Nat) : State :=
  let s1 := (s.parcelQueues p).foldl (fun s q => if s.qEnabled q && s.qOvertop q then s.qDiscard q else s) s
  let s2 := (s1.parcelLcs p).foldl (fun s l => s.abortPackets (.core l)) s1
  let s3 := (s2.parcelCtxs p).foldl (fun s c => s.abortPackets (.acc c)) s2
  (s3.parcelQueues p).foldl (fun s q => s.modQueue q.val fun x =>
    { x with held := x.held.filter fun w => match w.m with | .qdma _ => false | _ => true }) s3

/-- Step 6: credits, deficits and window counts. -/
def State.prCredits (s : State) (p : Nat) : State :=
  { s with
    cts := s.cts.map fun (e : Nat × CtSt) => (e.1, { e.2 with ringUsed := e.2.ringUsed.filter fun x => x.1 % 16 ≠ p })
    accs := s.accs.map fun (e : Nat × AccSt) => (e.1, { e.2 with deficit := e.2.deficit.erase p })
    chans := s.chans.map fun (e : Nat × ChanSt) => (e.1, { e.2 with served := e.2.served.erase p }) }

/-- A freeze of a logical core is lifted. -/
def State.thaw (s : State) (lc : Lc) : State :=
  s.modLc lc.val fun l => { l with stops := { l.stops with frozen := false } }

/-- Step 7: freezes are lifted, cores take their reset state, parked subchannels resume. -/
def State.prRelease (s : State) (p : Parcel) : State :=
  let s1 := (s.parcelLcs p.val).foldl (fun s l =>
    ((s.thaw l).clearSlots l).resetStopped l p.val) s
  let s2 := (s1.parcelPes p.val).foldl (fun s e => s.modPe e.val fun x => { x with stopped := false, frozen := false }) s1
  let s3 := (s2.parcelCtxs p.val).foldl (fun s c =>
    ((s.dropMaster (.acc c)).modCtx (ctxIdx c) fun x => { x with st := .disabled, response := none }).setFld (.ctxcfg c)
      63 63 0) s2
  let s4 := (List.finRange 64).foldl (fun s c =>
    if ((s.dma c.val).queue.bind s.queueOwner) = some p.val then
      (s.dropMaster (.qdma c)).modDma c.val fun x => { x with busy := false, frozen := false, queue := none } else s) s3
  let s5 := (s4.parcelPorts p.val).foldl (fun s q =>
    let s1 := (s.dropMaster (.port q)).modPort q.val fun x => { x with inboundHeld := false }
    if (s1.port q.val).st == .contained && (s1.port q.val).causeFw then s1.retrain q else s1) s4
  (s5.parcelScs p.val).foldl (fun s n =>
    if (s.sc n.val).st == .parked && (s.sc n.val).parkCause = 2 then
      (s.modSc n.val fun x => { x with parkCause := 1 }).pathsGained n
    else s) s5

/-- A reset in progress goes on after its current step (R493, R495). -/
def State.prStep (s : State) (p : Parcel) : State :=
  let go (s : State) (n : Fin 8) : State := s.modPrst p.val fun x => { x with step := n }
  if !s.runOrQuiesce then s
  else
    match (s.prst p.val).step with
    | 0 => s
    | 1 => if s.prFrozen p.val then go (s.prPark p.val) 2 else s
    | 2 =>
      let s1 := s.prPark p.val
      if s1.prParked p.val then go s1 3 else s1
    | 3 => go ((s.parcelLcs p.val).foldl State.resetCaches s) 4
    | 4 => go (s.prRoutes p) 5
    | 5 => go (s.prQueues p.val) 6
    | 6 => go (s.prCredits p.val) 7
    | 7 =>
      let s1 := (s.prRelease p).setPrst p.val PrSt.init
      (s1.bump (.prStatus p) 31 16 1).report (srcId 1 0x0B p.val) 0x5B clsNote p.val

/-! ### PR_CTL and PR_START (R493 to R497, R504) -/

def State.parcelValid (s : State) (p : Nat) : Bool := s.image.any fun i => i.parcelValid p

/-- LC_RESET of a core of the parcel (R496); a core into whose slot a replica is being resynchronised stops, and is reset,
when that has ended (R223). -/
def State.lcResetCmd (s : State) (lc : Lc) (p : Parcel) : State :=
  let s1 := s.modLc lc.val fun l => { l with reqs := { l.reqs with reset := true } }
  if s1.resetWaits (s1.lc lc.val) then s1.notePolderWait p.val
  else if (s1.lc lc.val).host.any fun h => s1.resyncing h (s1.lc lc.val) then s1
  else if (s1.lc lc.val).stops.any then s1.lcResetDone lc
  else s1

/-- PATH_RESET of a port (R497). -/
def State.pathResetCmd (s : State) (q : Port) : State :=
  let x := s.port q.val
  if x.st == .active || x.st == .training then s.retrain q else s

/-- CONSENT (R494): cores still in Polder stop where they are. -/
def State.consentCmd (s : State) (p : Parcel) : State :=
  if s.prWaits p.val then (s.modPrst p.val fun x => { x with consented := true }).notePolderWait p.val else s

/-- A PR_CTL command, written at `pa`: a parcel block answers in every compute tile's window (R504). -/
def State.prCtlW (s : State) (m : Master) (p : Parcel) (pa : Nat) (v : Word) : State :=
  let cmd := bits v 3 0
  let res (s : State) (r : Nat) : State := s.setFld (.prStatus p) 59 56 r
  let act (s : State) : State :=
    if !s.runOrQuiesce then res s 2
    else if !s.parcelValid p.val then res s 3
    else if cmd = 4 then (res s 0).consentCmd p
    else if (s.prst p.val).step.val ≠ 0 then res s 1
    else
      match cmd with
      | 1 => ((res s 0).modPrst p.val fun _ => ⟨1, false, false⟩).prFreeze p.val
      | 2 =>
        match fin? 192 (bits v 15 8) with
        | some lc =>
          let l := s.lc lc.val
          if l.host.isNone || pswParcel l.psw ≠ p.val || l.stops.lost then res s 3 else (res s 0).lcResetCmd lc p
        | none => res s 3
      | 3 =>
        match fin? 512 (bits v 24 16) with
        | some q => if s.portOwner q = some p.val then ((res s 0).pathResetCmd q).settleMode else res s 3
        | none => res s 3
      | _ => res s 3
  if cmd = 4 then s.csPriv m pa act else s.csOpen m pa act

/-- PR_START: a waiting core starts when VALID is written 1 (R492). -/
def State.prStartW (s : State) (m : Master) (p : Parcel) (pa : Nat) (v : Word) : State :=
  let r := CsReg.prStart p
  s.csPriv m pa fun s =>
    let s1 := s.setReg r (softWrite r (s.reg r) v)
    match s1.startAddr p.val with
    | none => s1
    | some a =>
      (s1.parcelLcs p.val).foldl (fun s l =>
        s.modLc l.val fun c => if c.stops.start then { c with pc := a, stops := { c.stops with start := false } } else c) s1

/-! ### Ring windows (R500) -/

/-- A window of 64 ring cycles ends: every parcel's claims on the ring restart. -/
def State.ringEnd (s : State) (t : Ct) (ring : Fin 2) : State :=
  s.modCt t.val fun c => { c with ringUsed := c.ringUsed.filter fun e => e.1 / 16 ≠ ring.val }

/-! ### Commands -/

/-- R481, R482, R490. -/
def execInterruptRoute (k : Tile) (s : State) : Outcome State Fault Refusal := .next (s.routeNext k)

/-- R483. -/
def execPendingSetArrival (lc : Lc) (s : State) : Outcome State Fault Refusal := .next (s.pendArrive lc)

/-- R117, R484. -/
def execInterruptEntry (lc : Lc) (s : State) : Outcome State Fault Refusal := .next (s.irqVoted lc)

/-- R487. -/
def execNotify (lc : Lc) (s : State) : Outcome State Fault Refusal := .next (s.notifyArrive lc)

/-- R489. -/
def execIrSend (m : Master) (owner : Fin 17) (value : Word) (s : State) : Outcome State Fault Refusal :=
  .next (s.irSendW m owner (CsReg.irSend owner).addr value)

/-- R490. -/
def execStormRefill (s : State) : Outcome State Fault Refusal := .next s.stormRefill

/-- R493. -/
def execParcelReset (m : Master) (p : Parcel) (s : State) : Outcome State Fault Refusal := .next (s.prCtlW m p (CsReg.prCtl p).addr 1)

/-- R493, R494, R495. -/
def execParcelResetStepDone (p : Parcel) (s : State) : Outcome State Fault Refusal := .next (s.prStep p).settleMode

/-- R496. -/
def execLcReset (m : Master) (p : Parcel) (lc : BitVec 8) (s : State) : Outcome State Fault Refusal :=
  .next (s.prCtlW m p (CsReg.prCtl p).addr (BitVec.ofNat 64 (2 + lc.toNat * 2 ^ 8)))

/-- R497. -/
def execPathReset (m : Master) (p : Parcel) (port : BitVec 9) (s : State) : Outcome State Fault Refusal :=
  .next (s.prCtlW m p (CsReg.prCtl p).addr (BitVec.ofNat 64 (3 + port.toNat * 2 ^ 16)))

/-- R494. -/
def execConsent (m : Master) (p : Parcel) (s : State) : Outcome State Fault Refusal := .next (s.prCtlW m p (CsReg.prCtl p).addr 4)

/-- R492, R504. -/
def execPrStartWrite (m : Master) (p : Parcel) (value : Word) (s : State) : Outcome State Fault Refusal :=
  .next (s.prStartW m p (CsReg.prStart p).addr value)

/-- R207, R493, R494. -/
def execGroupStop (lc : Lc) (s : State) : Outcome State Fault Refusal := .next (s.groupStopped lc)

/-- R500. -/
def execRingWindowEnd (t : Ct) (ring : Fin 2) (s : State) : Outcome State Fault Refusal := .next (s.ringEnd t ring)

end Sys2Proof.Machine
end

