-- ==== Sys2Proof/Machine/Control.lean ====
section
/-! DEFINITION. Control flow and system instructions (majors 0x23, 0x28 to 0x2E, 0x38): branches, SVC, HVC, RETX, BRK,
WAIT, the core control registers, time and barriers; TLB maintenance and the register moves of segments. -/

namespace Sys2Proof.Machine

open Host (Outcome)

/-! ### Jumps (R90, R91) -/

/-- An instruction that transfers to `f`. -/
def State.runJump (s : State) (lc : Lc) (w : BitVec 32) (f : LCore → LCore) : State :=
  s.runInstr lc w fun s l => .ok (s.setLc lc.val (f l))

/-- Target of a displacement of words. -/
def wordTarget {n : Nat} (pc : Word) (disp : BitVec n) : Word := pc + (disp.signExtend 64 <<< 2)

def branchMajor : BranchOp → Nat
  | .beqz => 0x28 | .bnez => 0x29 | .bltz => 0x2A | .bgez => 0x2B

def branchTaken : BranchOp → Word → Bool
  | .beqz, v => v == 0
  | .bnez, v => v != 0
  | .bltz, v => v.msb
  | .bgez, v => !v.msb

/-- BEQZ, BNEZ, BLTZ, BGEZ (R91). -/
def execConditionalBranch (lc : Lc) (op : BranchOp) (a : Reg) (disp : BitVec 20) (s : State) :
    Outcome State Fault Refusal :=
  .next (s.runJump lc (encB (branchMajor op) a.val disp.toNat) fun l =>
    { l with pc := if branchTaken op (l.rg a) then wordTarget l.pc disp else l.pc + 4 })

/-- JMP (R91). -/
def execJmp (lc : Lc) (disp : BitVec 25) (s : State) : Outcome State Fault Refusal :=
  .next (s.runJump lc (encJ 0x2C disp.toNat) fun l => { l with pc := wordTarget l.pc disp })

/-- CALL: G31 takes the offset after it (Table 4.4). -/
def execCall (lc : Lc) (disp : BitVec 25) (s : State) : Outcome State Fault Refusal :=
  .next (s.runJump lc (encJ 0x2D disp.toNat) fun l => { l.wg 31 (l.pc + 4) with pc := wordTarget l.pc disp })

/-- JR (R91). -/
def execJr (lc : Lc) (a : Reg) (s : State) : Outcome State Fault Refusal :=
  .next (s.runJump lc (encR 0x2E 0 a.val 0 0 0) fun l => { l with pc := l.rg a })

/-- JALR: GD takes the offset after it; the target is GA as it was (Table 4.4). -/
def execJalr (lc : Lc) (d a : Reg) (s : State) : Outcome State Fault Refusal :=
  .next (s.runJump lc (encR 0x2E d.val a.val 0 0 1) fun l => { l.wg d (l.pc + 4) with pc := l.rg a })

/-! ### Level transitions (R111, R113) -/

/-- SVC (Table 4.9). -/
def execSvc (lc : Lc) (s : State) : Outcome State Fault Refusal :=
  .next (s.runInstr lc (encR 0x38 0 0 0 0 0) fun _ _ => .exc { code := 0x0D, after := true })

/-- HVC (Table 4.9): ILLEGAL in Polder, PRIVILEGE at U and H. -/
def execHvc (lc : Lc) (s : State) : Outcome State Fault Refusal :=
  .next (s.runInstr lc (encR 0x38 0 0 0 0 1) fun _ l =>
    if pswPolder l.psw then .exc (excIllegal 0x05)
    else if l.level ≠ 1 then .exc excPrivilege
    else .exc { code := 0x0E, after := true })

/-- BRK (Table 4.10). -/
def execBrk (lc : Lc) (s : State) : Outcome State Fault Refusal :=
  .next (s.runInstr lc (encR 0x38 0 0 0 0 5) fun _ _ => .exc { code := 0x13 })

/-- PSW after RETX at level `x` with saved word `sv` (R113); GUEST reads 0 while GV is 0. -/
def retxPsw (psw sv : Word) (x : Nat) : Word :=
  let p1 := setBits (setBits psw 1 0 (bits sv 1 0)) 8 8 (bits sv 8 8)
  let p2 := setBits (setBits p1 19 16 (bits sv 19 16)) 23 22 (bits sv 23 22)
  if x = 2 then setBits p2 43 35 (if pswGv sv then bits sv 43 35 else 0) else p2

/-- RETX raises PRIVILEGE (R113). -/
def LCore.retxDenied (l : LCore) : Bool :=
  let sv := (l.excBank (if l.level = 2 then .h else .s)).saved
  l.level = 0 || pswLevel sv = 3 || l.level < pswLevel sv || (l.level = 2 && pswGv sv && pswLevel sv = 2)

/-- The transfer of RETX (R113, R140). -/
def LCore.retx (l : LCore) : LCore :=
  let e := l.excBank (if l.level = 2 then .h else .s)
  ({ l with psw := retxPsw l.psw e.saved l.level, csd := quadOf e.scsd1 e.scsd0, pc := e.epc }).clearResv

/-- RETX (R113, R161); entering a guest takes PEND in first (R487). -/
def execRetx (lc : Lc) (s : State) : Outcome State Fault Refusal :=
  .next (if s.lcRuns lc && (s.lc lc.val).fpPend then s.fpVoted lc
    else s.runInstr lc (encR 0x38 0 0 0 0 2) fun s l =>
      if l.retxDenied then .exc excPrivilege
      else
        let into : Bool := l.level = 2 && pswGv l.hyp.exc.saved && vcidValid l.hyp.vcid
        (if into then s.guestIn lc else .ok s).map fun s1 => s1.modLc lc.val LCore.retx)

/-! ### WAIT, barriers, time (R90, R119 to R121, R161) -/

/-- WAIT (R90). -/
def execWait (lc : Lc) (s : State) : Outcome State Fault Refusal :=
  .next (s.runLocal lc (encR 0x38 0 0 0 0 6) fun l => .ok { l with waiting := !l.intPending })

/-- Every earlier access of the core is complete (R119, R137), or one of them still waits for its line. -/
def State.synced (s : State) (lc : Lc) : Res State :=
  match (s.lc lc.val).host with
  | none => .ok s
  | some h => if s.canQuiet h lc then .ok (s.quiet h lc) else .wait

/-- SYNC (R119). -/
def execSync (lc : Lc) (s : State) : Outcome State Fault Refusal :=
  .next (s.runInstr lc (encR 0x23 0 0 0 0 0) fun s l =>
    (s.synced lc).map fun s1 => s1.modLc lc.val fun c => { c with pc := l.pc + 4 })

/-- ISYNC (R120): fetches of the model read the freshest copy, so it only goes on to the next word. -/
def execIsync (lc : Lc) (s : State) : Outcome State Fault Refusal :=
  .next (s.runLocal lc (encR 0x23 0 0 0 0 1) fun l => .ok l)

/-- FBAR: a recorded trap is delivered before it executes (R161). -/
def execFbar (lc : Lc) (s : State) : Outcome State Fault Refusal :=
  .next (if s.lcRuns lc && (s.lc lc.val).fpPend then s.fpVoted lc
    else s.runLocal lc (encR 0x23 0 0 0 0 2) fun l => .ok l)

/-- The released time value of the gate of a core's host (R208). -/
def State.groupTime (s : State) (l : LCore) : Word :=
  match l.host with
  | some h => (s.isl (slotIsland h)).timeReg
  | none => 0

/-- RDTIME (R121, R208). -/
def execRdtime (lc : Lc) (d : Reg) (s : State) : Outcome State Fault Refusal :=
  .next (s.runInstr lc (encR 0x23 d.val 0 0 0 3) fun s l =>
    if l.level = 0 && !l.bank.timectl.getLsbD 0 then .exc excPrivilege
    else .ok (s.setLc lc.val
      { l.wg d (s.groupTime l + if l.gv then l.hyp.toffset else 0) with pc := l.pc + 4 }))

/-! ### Core control registers (R87, Tables 4.2, 16.1 and 17.1, R164, R183) -/

/-- Least level that may read and that may write; `none` in place of a level: no one. -/
structure CrRights where
  read : Option Nat
  write : Option Nat

/-- The S-bank numbers 0x100 + i and the H-bank numbers 0x200 + i. -/
def isBankNo (n base : Nat) : Bool := base ≤ n && n ≤ base + 11

/-- H-bank registers, which do not exist in Polder (R98). -/
def isHypCr (n : Nat) : Bool := 0x200 ≤ n && n ≤ 0x211

/-- Gateway registers, which exist in Polder only (R459). -/
def isGateCr (n : Nat) : Bool := 0x300 ≤ n && n ≤ 0x308

/-- Who may reach a defined register; `none` when the number is undefined. -/
def crRights (n : Nat) : Option CrRights :=
  if n = 0 then some ⟨some 0, some 0⟩
  else if n ≤ 3 then some ⟨some 0, none⟩
  else if 0x10 ≤ n && n ≤ 0x14 then some ⟨some 1, some 1⟩
  else if n = 0x15 then some ⟨some 0, none⟩
  else if n = 0x20 || n = 0x21 then some ⟨some 0, some 0⟩
  else if n = 0x22 || n = 0x23 then some ⟨some 0, some 1⟩
  else if 0x30 ≤ n && n ≤ 0x35 then some ⟨some 0, some 0⟩
  else if isBankNo n 0x100 then some ⟨some 1, some 1⟩
  else if isHypCr n then some ⟨some 2, some 2⟩
  else if isGateCr n then some ⟨some 1, some 1⟩
  else none

/-- The check of an MFC or MTC: UNDEFINED_CR, NOT_IN_WORLD, then PRIVILEGE (R87, R98, R459). -/
def LCore.crCheck (l : LCore) (n : Nat) (write : Bool) : Res Unit :=
  match crRights n with
  | none => .exc (excIllegal 0x04)
  | some r =>
    if isHypCr n && pswPolder l.psw then .exc (excIllegal 0x05)
    else if isGateCr n && !pswPolder l.psw then .exc excPrivilege
    else
      match if write then r.write else r.read with
      | none => .exc excPrivilege
      | some lvl => check (decide (lvl ≤ l.level)) excPrivilege

/-- Register `i` of an exception bank. -/
def ExcBank.reg (e : ExcBank) (i : Nat) : Word :=
  match i with
  | 0 => e.epc | 1 => e.cause | 2 => e.info | 3 => e.addr | 4 => e.saved | 5 => e.vec
  | 6 => e.csd0 | 7 => e.csd1 | 8 => e.scsd0 | 9 => e.scsd1 | 10 => e.scratch0 | _ => e.scratch1

/-- Writable bits of xCAUSE and xINFO. -/
def causeMask : Word := 0x8000000000FF01FF
def infoMask : Word := 0x0000000FFFFFFFFF

def ExcBank.setReg (e : ExcBank) (i : Nat) (v : Word) : ExcBank :=
  match i with
  | 0 => { e with epc := v }
  | 1 => { e with cause := v &&& causeMask }
  | 2 => { e with info := v &&& infoMask }
  | 3 => { e with addr := v }
  | 4 => { e with saved := v }
  | 5 => { e with vec := v }
  | 6 => { e with csd0 := v }
  | 7 => { e with csd1 := v }
  | 8 => { e with scsd0 := v }
  | 9 => { e with scsd1 := v }
  | 10 => { e with scratch0 := v }
  | _ => { e with scratch1 := v }

/-- ISALVL: level 4, binary128 in microcode, custom opcodes. -/
def isalvl : Word := 0x304

/-- MFC's value (R87). -/
def LCore.crRead (l : LCore) (lc : Lc) (n : Nat) : Word :=
  let b := l.bank
  match n with
  | 0x000 => l.psw
  | 0x001 => isalvl
  | 0x002 => quadLo l.csd
  | 0x003 => quadHi l.csd
  | 0x010 => b.segtab0
  | 0x011 => b.segtab1
  | 0x012 => b.ptctl
  | 0x013 => b.ptroot
  | 0x014 => b.timectl
  | 0x015 => BitVec.ofNat 64 lc.val
  | 0x020 => l.fpsr
  | 0x021 => l.fpcr
  | 0x022 => l.fpxr
  | 0x023 => l.fpxa
  | 0x034 => b.proga
  | 0x035 => b.progs
  | 0x20C => l.hyp.h1ctl
  | 0x20D => l.hyp.h1root
  | 0x20E => l.hyp.s2ctl
  | 0x20F => l.hyp.s2root
  | 0x210 => l.hyp.toffset
  | 0x211 => l.hyp.vcid
  | 0x300 => l.gw.gwcsd0
  | 0x301 => l.gw.gwcsd1
  | 0x302 => l.gw.gatetab
  | 0x303 => l.gw.pintgate
  | 0x304 => l.gw.fsaved
  | 0x305 => l.gw.fepc
  | 0x306 => l.gw.fscsd0
  | 0x307 => l.gw.fscsd1
  | 0x308 => l.gw.gatestat
  | n =>
    if 0x30 ≤ n && n ≤ 0x33 then b.prog.toList.getD (n - 0x30) 0
    else if isBankNo n 0x100 then b.exc.reg (n - 0x100)
    else l.hyp.exc.reg (n - 0x200)

/-- Address field [51:12] of a root register. -/
def rootMask : Word := 0x000FFFFFFFFFF000
def ptctlMask : Word := 0xFFFF000000000003

/-- A write of PSW (R86): FLAGS, OVT and SW3T at every level, IE at S and H. -/
def LCore.pswWrite (l : LCore) (v : Word) : Res LCore :=
  if l.level = 0 && v.getLsbD 8 != l.psw.getLsbD 8 then .exc excPrivilege
  else
    let p := setBits (setBits l.psw 19 16 (bits v 19 16)) 23 22 (bits v 23 22)
    .ok { l with psw := setBits p 8 8 (bits v 8 8) }

/-- Rounding codes that FPCR may hold (R164). -/
def fpcrOk (v : Word) : Bool := bits v 2 0 ≤ 4 && bits v 6 4 ≤ 5

/-- MTC's effect on the core, reserved fields apart (R6, R87). -/
def LCore.crWrite (l : LCore) (n : Nat) (v : Word) : Res LCore :=
  let b := l.bank
  match n with
  | 0x000 => l.pswWrite v
  | 0x010 => .ok (l.setBank { b with segtab0 := v &&& 0x01FFFFFFFFFFFFF0 })
  | 0x011 => .ok (l.setBank { b with segtab1 := v &&& 0x1FFFF })
  | 0x012 => .ok (l.setBank { b with ptctl := v &&& ptctlMask })
  | 0x013 => .ok (l.setBank { b with ptroot := v &&& rootMask })
  | 0x014 => .ok (l.setBank { b with timectl := v &&& 1 })
  | 0x020 => .ok { l with fpsr := v &&& 0x1F }
  | 0x021 => if fpcrOk v then .ok { l with fpcr := v &&& 0x11F77 } else .exc (excIllegal 0x03)
  | 0x022 => .ok { l with fpxr := (l.fpxr &&& 0x8000000000000000) ||| (v &&& 0x6000001FFFFFFFFF) }
  | 0x023 => .ok { l with fpxa := v }
  | 0x034 => .ok (l.setBank { b with proga := v })
  | 0x035 => .ok (l.setBank { b with progs := v &&& 0x80000000FFFFFFFF })
  | 0x20C => .ok { l with hyp := { l.hyp with h1ctl := v &&& ptctlMask } }
  | 0x20D => .ok { l with hyp := { l.hyp with h1root := v &&& rootMask } }
  | 0x20E => .ok { l with hyp := { l.hyp with s2ctl := v &&& 2 } }
  | 0x20F => .ok { l with hyp := { l.hyp with s2root := v &&& rootMask } }
  | 0x210 => .ok { l with hyp := { l.hyp with toffset := v } }
  | 0x211 => .ok { l with hyp := { l.hyp with vcid := v &&& 0x800FFFFFFFFFFE00 } }
  | 0x300 => .ok { l with gw := { l.gw with gwcsd0 := v &&& 0x01FFFFFFFFFFFFFF } }
  | 0x301 => .ok { l with gw := { l.gw with gwcsd1 := v } }
  | 0x302 => .ok { l with gw := { l.gw with gatetab := v &&& 0x000FFFFFFFFFF7FF } }
  | 0x303 => .ok { l with gw := { l.gw with pintgate := v } }
  | 0x304 => .ok { l with gw := { l.gw with fsaved := v } }
  | 0x305 => .ok { l with gw := { l.gw with fepc := v } }
  | 0x306 => .ok { l with gw := { l.gw with fscsd0 := v } }
  | 0x307 => .ok { l with gw := { l.gw with fscsd1 := v } }
  | 0x308 =>
    .ok { l with gw := { l.gw with gatestat := setBits (setBits l.gw.gatestat 47 40 (bits v 47 40)) 25 16 (bits v 25 16) } }
  | n =>
    if 0x30 ≤ n && n ≤ 0x33 then
      match fin? 4 (n - 0x30) with
      | some k => .ok (l.setBank { b with prog := b.prog.set k v })
      | none => .ok l
    else if isBankNo n 0x100 then .ok (l.setBank { b with exc := b.exc.setReg (n - 0x100) v })
    else .ok { l with hyp := { l.hyp with exc := l.hyp.exc.setReg (n - 0x200) v } }

/-- The word of MFC or MTC: the number stands in B and C. -/
def encCr (d a : Nat) (n : BitVec 10) (minor : Nat) : BitVec 32 := encR 0x38 d a (n.toNat / 32) (n.toNat % 32) minor

/-- MFC (R87). -/
def execMfc (lc : Lc) (d : Reg) (n : BitVec 10) (s : State) : Outcome State Fault Refusal :=
  .next (s.runLocal lc (encCr d.val 0 n 3) fun l =>
    (l.crCheck n.toNat false).map fun _ => l.wg d (l.crRead lc n.toNat))

/-- MTC (R86, R87, R161, R164). -/
def execMtc (lc : Lc) (a : Reg) (n : BitVec 10) (s : State) : Outcome State Fault Refusal :=
  .next (if s.lcRuns lc && (s.lc lc.val).fpPend && 0x20 ≤ n.toNat && n.toNat ≤ 0x23 then s.fpVoted lc
    else s.runLocal lc (encCr 0 a.val n 4) fun l =>
      (l.crCheck n.toNat true).bind fun _ => l.crWrite n.toNat (l.rg a))

/-! ### TLB maintenance (R110) -/

/-- Tags of the current context, but for the ASID. -/
def TlbEntry.context (t : TlbEntry) (l : LCore) : Bool :=
  t.parcel.toNat = pswParcel l.psw && t.polder == pswPolder l.psw && t.atH == (l.level = 2) &&
    t.guest == (if l.gv then some (BitVec.ofNat 8 (pswGuest l.psw)) else none)

/-- ASID of the current context. -/
def LCore.asid (l : LCore) : Nat := bits (if l.level = 2 then l.hyp.h1ctl else l.bank.ptctl) 63 48

/-- Entries that a TLBI of core `l` with operand `v` drops. -/
def tlbiDrops (l : LCore) (op : TlbiOp) (v : Word) (t : TlbEntry) : Bool :=
  match op with
  | .va => t.matches l false (l.level = 2) l.asid v.toNat
  | .asid => !t.stage2 && t.context l && !t.global && t.asid.toNat = v.toNat % 65536
  | .all => !t.stage2 && t.context l
  | .guest => t.parcel.toNat = pswParcel l.psw && !t.polder && t.guest == some (v.setWidth 8)

def LCore.tlbi (c l : LCore) (op : TlbiOp) (v : Word) : LCore :=
  { c with tlb := c.tlb.filter fun t => !tlbiDrops l op v t }

/-- Levels permitted: S or H; TLBI.GUEST at H. -/
def tlbiLevel (l : LCore) (op : TlbiOp) : Bool :=
  match op with
  | .guest => l.level = 2
  | _ => 1 ≤ l.level

def tlbiMinor : TlbiOp → Nat
  | .va => 3 | .asid => 4 | .all => 5 | .guest => 6

/-- Every target drops the entries and completes the accesses that may have used them: the stores of its buffer, and a
far atomic; a TLBI waits for those (R110). -/
def State.tlbiTargets (s : State) (l : LCore) (op : TlbiOp) (v : Word) : List Lc → Res State
  | [] => .ok s
  | t :: ts =>
    let c := s.lc t.val
    if !(c.tlb.any (tlbiDrops l op v)) then s.tlbiTargets l op v ts
    else if c.far.isSome then .wait
    else (s.synced t).bind fun s1 => (s1.modLc t.val fun x => x.tlbi l op v).tlbiTargets l op v ts

/-- A TLBI that acts on the cores `ts`. -/
def State.tlbiRun (s : State) (lc : Lc) (op : TlbiOp) (a : Reg) (broadcast : Bool) (ts : LCore → List Lc) : State :=
  let an := match op with | .all => 0 | _ => a.val
  s.runInstr lc (encR 0x22 0 an 0 0 (tlbiMinor op + if broadcast then 8 else 0)) fun s l =>
    if tlbiLevel l op then
      (s.tlbiTargets l op (l.rg a) (ts l)).map fun s1 => s1.modLc lc.val fun c => { c with pc := l.pc + 4 }
    else .exc excPrivilege

/-- A TLBI on the executing core. -/
def State.tlbiLocal (s : State) (lc : Lc) (op : TlbiOp) (a : Reg) : State := s.tlbiRun lc op a false fun _ => [lc]

/-- TLBI.VA (R110). -/
def execTlbiVa (lc : Lc) (a : Reg) (s : State) : Outcome State Fault Refusal := .next (s.tlbiLocal lc .va a)
/-- TLBI.ASID (R110). -/
def execTlbiAsid (lc : Lc) (a : Reg) (s : State) : Outcome State Fault Refusal := .next (s.tlbiLocal lc .asid a)
/-- TLBI.ALL (R110). -/
def execTlbiAll (lc : Lc) (s : State) : Outcome State Fault Refusal := .next (s.tlbiLocal lc .all 0)
/-- TLBI.GUEST (R110). -/
def execTlbiGuest (lc : Lc) (a : Reg) (s : State) : Outcome State Fault Refusal := .next (s.tlbiLocal lc .guest a)

/-- The broadcast forms: every logical core of the parcel drops the entries (R110). -/
def execTlbiBroadcast (lc : Lc) (op : TlbiOp) (a : Reg) (s : State) : Outcome State Fault Refusal :=
  .next (s.tlbiRun lc op a true fun l => s.parcelLcs (pswParcel l.psw))

/-! ### Segment registers (R101) -/

/-- The checks of a descriptor that LSEG or WRSEG would write; `ga` GA. -/
def LCore.descCheck (l : LCore) (ga : Word) (d : Quad) : Res Unit :=
  let bad (sub : Nat) : Res Unit := .exc (excSeg sub (Config.segRightsAddr ga (quadHi d)).toNat)
  if !descWellFormed d then bad 0x06
  else if descValid d && descWorld d && !pswPolder l.psw then bad 0x04
  else if descValid d && l.level < descFloor d then bad 0x03
  else .ok ()

/-- WRSEG (R101): permitted at S and H. -/
def execWrseg (lc : Lc) (sn a b : Reg) (s : State) : Outcome State Fault Refusal :=
  .next (s.runLocal lc (encR 0x22 sn.val a.val b.val 0 1) fun l =>
    if l.level = 0 then .exc excPrivilege
    else
      let d := quadOf (l.rg b) (l.rg a)
      (l.descCheck (l.rg a) d).map fun _ => l.ws sn d)

/-- RDSEG (R101). -/
def execRdseg (lc : Lc) (d sn : Reg) (half : Bool) (s : State) : Outcome State Fault Refusal :=
  .next (s.runLocal lc (encR 0x22 d.val sn.val 0 half.toNat 2) fun l =>
    .ok (l.wg d (if half then quadHi (l.rs sn) else quadLo (l.rs sn))))

end Sys2Proof.Machine
end

