-- ==== Sys2Proof/Machine/Worlds.lean ====
section
/-! DEFINITION. The worlds: SLUICE, SLUICE.X, Polder interrupts at a Foreland core, clock and power cuts
(chapter 16). -/

namespace Sys2Proof.Machine

open Host (Outcome)

/-! ### Gate checks (R458, R460, R461, Tables 16.2 and 16.3) -/

/-- A gate mark. -/
def isMark (w : Nat) : Bool := w / 1024 = 0x7AA95400 / 1024

/-- The core as the gate reads see it: Polder S, the gateway's code segment. -/
def LCore.asGateway (l : LCore) : LCore :=
  { l with psw := setBits (setBits (setBits l.psw 1 0 1) 3 3 1) 43 35 0, csd := quadOf l.gw.gwcsd1 l.gw.gwcsd0 }

/-- Fetch of the word at an offset of the gateway segment; any failure is one. -/
def State.gateWord (s : State) (lc : Lc) (off : Nat) : Option Nat :=
  let l := (s.lc lc.val).asGateway
  let s1 := s.setLc lc.val l
  match s1.fetchCheck lc l off with
  | .ok pa => some (leNat (s.freshBytes pa 4).1)
  | _ => none

/-- Gate table entry `n`; it must lie in a Polder MEMORY grant with read right. -/
def State.gateEntry (s : State) (l : LCore) (n : Nat) : Option Word :=
  let a := bits l.gw.gatetab 51 12 * 4096 + 8 * n
  if !s.fwAllows [16] a 8 needR then none
  else
    match s.peek a 8 with
    | some (bs, false) => some (BitVec.ofNat 64 (leNat bs))
    | _ => none

/-- What the checks of Table 16.3 find: the gate and its level, or DETAIL, SUB and the gate number read. -/
inductive GateResult where
  | pass (n level : Nat)
  | fail (detail sub gate : Nat)
  deriving DecidableEq, Repr

/-- Step 7: the caller is admitted. -/
def callerOk (l : LCore) (e : Word) : Bool :=
  bits e 59 58 ≤ l.level && (!l.gv || e.getLsbD 61) && e.getLsbD (pswParcel l.psw)

/-- The checks, in order; `irq` for the interrupt entry of R466. -/
def State.gateCheck (s : State) (lc : Lc) (off : Nat) (irq : Bool) : GateResult :=
  let l := s.lc lc.val
  let d := quadOf l.gw.gwcsd1 l.gw.gwcsd0
  if !descWellFormed d || !descValid d || !descWorld d then .fail 1 2 0
  else
    match s.gateWord lc off with
    | none => .fail 2 2 0
    | some w =>
      if !isMark w then .fail 3 2 0
      else
        let n := w % 1024
        if bits l.gw.gatetab 10 0 ≤ n then .fail 4 2 n
        else
          match s.gateEntry l n with
          | none => .fail 5 2 n
          | some e =>
            if !e.msb || (e.getLsbD 62 && !irq) || bits e 59 58 = 3 || bits e 57 16 ≠ 0 then .fail 6 2 n
            else if !irq && !callerOk l e then .fail 7 3 n
            else .pass n (bits e 60 60)

/-! ### Entry and return (R461 to R466) -/

/-- The entry of a gate as one step: the resume offset, KIND, the gate, its level, and the target after the mark. -/
def LCore.enterGate (l : LCore) (resume : Word) (irq : Bool) (n level : Nat) (target : Word) : LCore :=
  let p := setBits (setBits (setBits (setBits l.psw 3 3 1) 1 0 level) 8 8 0) 43 35 0
  let st := setBits (setBits (setBit l.gw.gatestat 63 true) 62 62 irq.toNat) 9 0 n
  ({ l with
    psw := p, csd := quadOf l.gw.gwcsd1 l.gw.gwcsd0, pc := target + 4, micro := none
    gw := { l.gw with fsaved := l.psw, fepc := resume, fscsd0 := quadLo l.csd, fscsd1 := quadHi l.csd, gatestat := st } }).clearResv

/-- Record a failure in GATESTAT. -/
def LCore.gateFailed (l : LCore) (detail gate : Nat) : LCore :=
  { l with gw := { l.gw with gatestat := setBits (setBits l.gw.gatestat 47 40 detail) 25 16 gate } }

/-- SLUICE and SLUICE.X complete every earlier access and empty the side buffer (R462). -/
def State.gateSync (s : State) (lc : Lc) : Res State :=
  (s.synced lc).map fun s1 =>
    match (s1.lc lc.val).host with
    | some h => s1.modHolder h.val fun x => { x with side := [], streams := [] }
    | none => s1

/-- SLUICE (R461, R464). -/
def State.sluice (s : State) (lc : Lc) (a : Reg) : State :=
  let w := encR 0x39 0 a.val 0 0 0
  if s.lcRuns lc && (s.lc lc.val).fpPend then s.fpVoted lc
  else
    s.runInstr lc w fun s l =>
      let off := l.rg a
      if pswPolder l.psw then .exc { code := 0x0F, sub := 0x01, addr := off.toNat }
      else
        (s.gateSync lc).bind fun s1 =>
          match s1.gateCheck lc off.toNat false with
          | .fail d sub n =>
            .ok ((s1.modLc lc.val fun c => c.gateFailed d n).enterExc lc w { code := 0x0F, sub := sub, addr := off.toNat })
          | .pass n lv => .ok ((s1.modLc lc.val fun c => c.enterGate (l.pc + 4) false n lv off).notePolderWait (pswParcel l.psw))

/-- SUB of the GATE_FAULT that SLUICE.X raises (R463). -/
def LCore.sluiceXFault (l : LCore) : Option Nat :=
  let f := l.gw.fsaved
  if !pswPolder l.psw then some 0x04
  else if !l.gw.gatestat.msb then some 0x05
  else if pswPolder f || pswLevel f = 3 || (pswGv f && pswLevel f = 2) || pswParcel f ≠ pswParcel l.psw ||
      !descWellFormed (quadOf l.gw.fscsd1 l.gw.fscsd0) then some 0x06
  else none

/-- The return to Foreland as one step; a halt held until SLUICE.X becomes a request (R463, R546). -/
def LCore.leaveGate (l : LCore) : LCore :=
  let f := l.gw.fsaved
  let p1 := setBits (setBits (setBits l.psw 1 0 (bits f 1 0)) 3 3 0) 8 8 (bits f 8 8)
  let p2 := setBits (setBits p1 23 22 (bits f 23 22)) 43 35 (if pswGv f then bits f 43 35 else 0)
  ({ l with
    psw := p2, csd := quadOf l.gw.fscsd1 l.gw.fscsd0, pc := l.gw.fepc
    gw := { l.gw with gatestat := setBit l.gw.gatestat 63 false }
    seg := l.seg.map fun d => if descWorld d then 0 else d
    reqs := { l.reqs with debug := l.reqs.debug || l.heldHalt }
    heldHalt := false }).clearResv

/-- SLUICE.X (R463). -/
def State.sluiceX (s : State) (lc : Lc) : State :=
  let w := encR 0x39 0 0 0 0 1
  if s.lcRuns lc && (s.lc lc.val).fpPend then s.fpVoted lc
  else
    s.runInstr lc w fun s l =>
      match l.sluiceXFault with
      | some sub => .exc { code := 0x0F, sub := sub, addr := (Config.sluiceXAddr l.gw.fepc sub).toNat }
      | none => (s.gateSync lc).map fun s1 => (s1.modLc lc.val LCore.leaveGate).notePolderWait (pswParcel l.psw)

/-- A Polder message is taken by a core running in Foreland, through the gate at PINTGATE (R466, R468). -/
def State.gateIrq (s : State) (lc : Lc) : State :=
  let l := s.lc lc.val
  if !s.atBoundary l || pswPolder l.psw || l.pendP.isEmpty then s
  else
    s.fpFirst lc fun s =>
      let l := s.lc lc.val
      let off := l.gw.pintgate
      match s.gateCheck lc off.toNat true with
      | .fail d _ n =>
        (s.setLc lc.val { l.gateFailed d n with pendP := l.pendP.drop 1, waiting := false }).report (s.lcSrc lc.val) 0x0C
          clsSevere lc.val
      | .pass n lv => (s.setLc lc.val { l.enterGate l.pc true n lv off with waiting := false }).notePolderWait (pswParcel l.psw)

/-- The entry is the group's next retirement (row 10 of Table 8.5). -/
def State.gateIrqVoted (s : State) (lc : Lc) : State :=
  let l := s.lc lc.val
  if !s.atBoundary l || pswPolder l.psw || l.pendP.isEmpty || l.fpPend then s.gateIrq lc
  else
    match s.gateCheck lc l.gw.pintgate.toNat true with
    | .fail .. => s.gateIrq lc
    | .pass .. => s.voted lc (some (l.entryRec (l.gw.pintgate + 4) (2 ^ 8))) fun s => s.gateIrq lc

/-! ### Clock and power cuts (R471 to R474) -/

/-- Code and instance of a unit (Table 16.4, PWR_RELQ). -/
def unitCode : CutUnit → Nat
  | .core _ _ => 1
  | .engine a => if a.cph then 3 else 2
  | .quad _ => 4
def State.unitInst (s : State) : CutUnit → Nat
  | .core i k => (s.slotLc (slotAt i k)).elim 0 Fin.val
  | .engine a => a.tile.val
  | .quad q => q.val

/-- Polder is using the unit, for a cut of power or of the clock. -/
def State.polderUses (s : State) (u : CutUnit) (power : Bool) : Bool :=
  match u with
  | .core i k =>
    match s.slotLc (slotAt i k) with
    | some lc => pswPolder (s.lc lc.val).psw || (s.lc lc.val).gw.gatestat.msb
    | none => false
  | .engine a =>
    (allCtx.any fun c => ctxEngine c == a && s.ctxPolder c && (s.ctxEnabled c || (s.ctx (ctxIdx c)).st == .running ||
        (s.ctx (ctxIdx c)).st == .stopping)) ||
      (allLc.any fun l => let x := s.aslot (slotIdx a.cph l)
        x.busy && x.polder && (s.lc l.val).host.any fun h => h.val / 48 = a.tile.val) ||
      (power && s.fld (.engstat a) 63 63 = 1)
  | .quad q => (s.quadPorts q).any fun p => s.portOwner p = some 16

/-- A cut that Table 16.4 permits for the unit. -/
def State.cutPermitted (s : State) (u : CutUnit) (power : Bool) : Bool :=
  match u with
  | .core i k => !power && (s.slotLc (slotAt i k)).isSome
  | .engine a => !power || a.cph
  | .quad _ => power

/-- The cut is performed; a port that software disabled, or that is contained, stays so (R405, R412, R471). -/
def State.performCut (s : State) (u : CutUnit) (power : Bool) : State :=
  let s1 := s.setCut u (if power then .powerCut else .clockCut)
  match u with
  | .core i k =>
    match s1.slotLc (slotAt i k) with
    | some lc => s1.modLc lc.val fun l => { l with reqs := { l.reqs with clockCut := true } }
    | none => s1
  | .engine a =>
    if power then (s1.modAcc (accIdx a) fun x => { x with kw := 0, kwWords := Vector.replicate 4 0 }).setFld (.engstat a) 63 63 0 else s1
  | .quad q => (s1.quadPorts q).foldl (fun s p =>
      let x := s.port p.val
      if x.st == .absent || x.st == .disabled then s
      else if x.st == .contained then s.modPort p.val PortSt.linkReset
      else (s.linkDown p .disabled).modPort p.val fun y => { y with powerCut := true }) s1

/-- The unit runs again. -/
def State.performRestore (s : State) (u : CutUnit) : State :=
  let s1 := s.setCut u .on
  match u with
  | .core i k =>
    match s1.slotLc (slotAt i k) with
    | some lc => s1.modLc lc.val fun l =>
        { l with reqs := { l.reqs with clockCut := false }, stops := { l.stops with clockCut := false } }
    | none => s1
  | .engine _ => s1
  | .quad q => (s1.quadPorts q).foldl (fun s p =>
      if (s.port p.val).powerCut && !s.portUnpowered p then (s.modPort p.val fun y => { y with powerCut := false }).retrain p else s) s1

def State.cutResult (s : State) (u : CutUnit) (r : Nat) : State := s.setFld (.pwrStat u) 59 56 r

/-- The parcel a cut request is made for. -/
def State.cutParcel (s : State) (m : Master) : Parcel :=
  match (s.masterOwners m).filterMap (fin? 16) with
  | p :: _ => p
  | [] => 0

/-- A CUT command (R472). -/
def State.cutCmd (s : State) (m : Master) (u : CutUnit) (power : Bool) : State :=
  let c := s.cut u
  if !s.cutPermitted u power || c == .clockCut || c == .powerCut then s.cutResult u 3
  else if s.privileged m then ((s.withdrawCut u).performCut u power).cutResult u 0
  else if c == .deferred then s.cutResult u 1
  else if s.polderUses u power then
    let p := s.cutParcel m
    let req : CutReq := ⟨u, if power then 2 else 1, p, true⟩
    let s1 : State := { s.setCut u .deferred with cutReqs := s.cutReqs ++ [req] }
    ((s1.cutResult u 5).setFld (.pwrStat u) 55 52 p.val).raiseIrq 0 ⟨0x09, BitVec.ofNat 18 (unitCode u), 0, true, 16, none⟩
  else ((s.performCut u power).cutResult u 0).setFld (.pwrStat u) 55 52 (s.cutParcel m).val

/-- RESTORE: a deferred request is withdrawn, a cut unit restarts (R472, R474). -/
def State.restoreCmd (s : State) (u : CutUnit) : State :=
  match s.cut u with
  | .deferred => (s.withdrawCut u).cutResult u 0
  | .on => s.cutResult u 0
  | _ => (s.performRestore u).cutResult u 0

/-- PWR_REQ. -/
def State.pwrReqW (s : State) (m : Master) (u : CutUnit) (cmd : Nat) : State :=
  s.csOpen m (CsReg.pwrReq u).addr fun s =>
    if !s.runOrQuiesce then s.cutResult u 2
    else
      match cmd with
      | 1 => s.cutCmd m u false
      | 2 => (s.cutCmd m u true).settleMode
      | 3 => s.restoreCmd u
      | _ => s.cutResult u 3

/-- PWR_RELQ: the oldest request leaves the queue; it stays pending until answered (R473). -/
def State.relqR (s : State) (m : Master) : State :=
  s.csAccess m CsReg.pwrRelq.addr needR true fun s =>
    match s.cutReqs.find? (·.queued) with
    | none => s.respond m (.data 0)
    | some r =>
      let v := 2 ^ 63 + unitCode r.target * 2 ^ 60 + r.cmd.toNat * 2 ^ 56 + r.parcel.val * 2 ^ 52 + s.unitInst r.target
      let s1 : State := { s with
        cutReqs := s.cutReqs.map fun (x : CutReq) => if x.target = r.target then { x with queued := false } else x }
      s1.respond m (.data (BitVec.ofNat 64 v))

/-- PWR_RELEASE (R473, R474). -/
def State.pwrReleaseW (s : State) (m : Master) (cmd unit inst : Nat) : State :=
  s.csOpen m CsReg.pwrRelease.addr fun s =>
    let res (s : State) (r : Nat) : State := s.setFld .pwrRelres 59 56 r
    match s.cutReqs.find? fun r => unitCode r.target = unit && s.unitInst r.target = inst with
    | none => res s 3
    | some r =>
      if cmd = 1 then res (((s.withdrawCut r.target).performCut r.target (r.cmd = 2)).cutResult r.target 0).settleMode 0
      else if cmd = 2 then res ((s.withdrawCut r.target).cutResult r.target 6) 0
      else res s 3

/-! ### Commands -/

/-- R461, R462, R464. -/
def execSluice (lc : Lc) (a : Reg) (s : State) : Outcome State Fault Refusal := .next (s.sluice lc a)

/-- R462, R463. -/
def execSluiceX (lc : Lc) (s : State) : Outcome State Fault Refusal := .next (s.sluiceX lc)

/-- R466, R468. -/
def execGateInterruptEntry (lc : Lc) (s : State) : Outcome State Fault Refusal := .next (s.gateIrqVoted lc)

/-- R472. -/
def execCutClock (m : Master) (u : CutUnit) (s : State) : Outcome State Fault Refusal := .next (s.pwrReqW m u 1)

/-- R472. -/
def execCutPower (m : Master) (u : CutUnit) (s : State) : Outcome State Fault Refusal := .next (s.pwrReqW m u 2)

/-- R472, R474. -/
def execCutRestore (m : Master) (u : CutUnit) (s : State) : Outcome State Fault Refusal := .next (s.pwrReqW m u 3)

/-- R473. -/
def execPwrRelqRead (m : Master) (s : State) : Outcome State Fault Refusal := .next (s.relqR m)

/-- R473. -/
def execRelease (m : Master) (unitCode : BitVec 3) (inst : BitVec 16) (s : State) : Outcome State Fault Refusal :=
  .next (s.pwrReleaseW m 1 unitCode.toNat inst.toNat)

/-- R473. -/
def execDeny (m : Master) (unitCode : BitVec 3) (inst : BitVec 16) (s : State) : Outcome State Fault Refusal :=
  .next (s.pwrReleaseW m 2 unitCode.toNat inst.toNat)

end Sys2Proof.Machine
end

