-- ==== Sys2Proof/Machine/Loader.lean ====
section
/-! DEFINITION. The image loader: flash copies, staging, APPLY and re-composition, DISCARD, COMMIT_VERSION, SEAL and
UNFREEZE (chapter 2), and the rebuild of the microcode banks (R188 to R196). -/

namespace Sys2Proof.Machine

open Host (Outcome)

/-! ### Flash copies (R50, R65) -/

/-- Bytes of SPI flash; erased bytes read 0xFF. -/
def State.flashBytes (s : State) (o n : Nat) : List Byte := (List.range n).map fun i => Table.get 0xFF s.loader.flash (o + i)

/-- First flash byte of copy A or B. -/
def copyBase (b : Bool) : Nat := if b then 0x200_0000 else 0
def copySize : Nat := 0x200_0000

/-- The bytes of a copy that validation can look at: its header, and as much as TOTAL_LENGTH names. -/
def State.copyBytes (s : State) (b : Bool) : List Byte :=
  let n := imgTotal (s.flashBytes (copyBase b) 0x280)
  s.flashBytes (copyBase b) (if n ≤ copySize then max n 0x280 else 0x280)

/-- IMAGE_SEQ in the header of a copy. -/
def State.copySeq (s : State) (b : Bool) : Nat := leAt (s.flashBytes (copyBase b + 8) 8) 0 8

/-- The copy that is validated next (false A, true B): the higher IMAGE_SEQ first, A when equal. -/
def State.nextCopy (s : State) : Option Bool :=
  let k := s.keeper
  if k.triedA && k.triedB then none
  else if k.triedA then some true
  else if k.triedB then some false
  else some (decide (s.copySeq false < s.copySeq true))

/-- Verification reached step 18 of R48: DETAIL tells its first failing check, 0 if it passed (R195). -/
def State.setDetail (s : State) (reason : Nat) (bs : List Byte) : State :=
  if reason = 0 || reason = 0x12 then s.setFld .mcStatus 19 16 (readImage (bs.take (imgTotal bs))).microDetail else s

/-- Validation of the copy in turn ends (R48, R50). -/
def State.copyValidated (s : State) (fails : List Core) : State :=
  if s.mode != .load || s.keeper.trans != .none then s
  else
    match s.nextCopy with
    | none => s
    | some b =>
      let bs := s.copyBytes b
      let r := validate s.fuses none bs
      let k := s.keeper
      let s1 := { s with keeper := if b then { k with triedB := true } else { k with triedA := true } }
      let s2 := (s1.setFld .imgStatus (if b then 47 else 39) (if b then 40 else 32) r).setDetail r bs
      if r = 0 then s2.enterCompose (bs.take (imgTotal bs)) (if b then 1 else 0) fails else s2

/-! ### Staging (R51, R52, R540) -/

def State.setPend (s : State) (st reason : Nat) : State := (s.setFld .imgStatus 23 20 st).setFld .imgStatus 31 24 reason
def State.imgResult (s : State) (r : Nat) : State := s.setFld .imgStatus 55 52 r
def State.pendState (s : State) : Nat := s.fld .imgStatus 23 20

/-- Both copies have failed, so LOAD accepts images over the management port (R51). -/
def State.loadOpen (s : State) : Bool :=
  s.mode == .load && s.keeper.trans == .none && s.keeper.triedA && s.keeper.triedB

/-- A delivery may be opened now (R51, R52). -/
def State.deliveryOpen (s : State) : Bool :=
  s.loadOpen || (s.runOrQuiesce && s.staging.isSome && s.pendState ≠ 5)

/-- A delivered image is validated: in LOAD an image that passes is composed, at run time it is staged in the STAGING
grant (R51, R52, R540). -/
def State.stage (s : State) (bs : List Byte) (fails : List Core) : State :=
  let newer := if s.mode == .load then none else s.loader.running.map (·.img.seq)
  let r := validate s.fuses newer bs
  let s1 := s.setDetail r bs
  let img := bs.take (imgTotal bs)
  if r ≠ 0 then { s1 with loader := { s1.loader with staged := none } }.setPend 4 r
  else if s.mode == .load then (s1.setPend 0 0).enterCompose img 2 fails
  else
    let s2 := match s1.staging with
      | some g => s1.invWriteBytes .keeper g.first.toNat img
      | none => s1
    { s2 with loader := { s2.loader with staged := some img } }.setPend 3 0

/-! ### Microcode rebuild (R188, R189) -/

def allParcels : BitVec 16 := BitVec.allOnes 16

/-- A rebuild of the cores of `ps` starts, with the packages now in force. -/
def State.rebuild (s : State) (pkgs : List (Byte × List Byte)) (ps : BitVec 16) : State :=
  { s with loader := { s.loader with mc := ⟨s.loader.mc.epoch + 1, 2, pkgs, ps⟩ } }

/-- Logical cores whose banks a rebuild of `ps` writes. -/
def State.rebuilt (s : State) (ps : BitVec 16) : List Lc :=
  allLc.filter fun l => (s.lc l.val).host.isSome && ps.getLsbD (pswParcel (s.lc l.val).psw)

/-- An instruction that stands between two of its segments was decoded from the bank that is now inactive (R190). -/
def LCore.runsOldBank (c : LCore) : Bool := c.micro.any fun m => m.bank != c.activeBank

/-- The write phase ends: the inactive bank of every affected core holds the new contents (R189); it goes on while an
instruction decoded from an old bank has not retired (R190). -/
def State.rebuildWritten (s : State) : State :=
  let mc := s.loader.mc
  if mc.state ≠ 2 then s
  else
    let ls := s.rebuilt mc.parcels
    if ls.any fun l => (s.lc l.val).runsOldBank then s
    else
      let s1 := ls.foldl (fun s l => (s.modLc l.val fun c =>
        let b := bankFor mc.packages (pswParcel c.psw) mc.epoch
        if c.activeBank then { c with bank0 := b, bankPend := true } else { c with bank1 := b, bankPend := true }).giveBanks l) s
      { s1 with loader := { s1.loader with mc := { mc with state := if ls.isEmpty then 0 else 3 } } }

/-- At a synchronisation point, or at the boundary where it is stopped, a group swaps its banks; an instruction in the
middle of its post-commit part runs to its end first (R189, R190). -/
def State.bankSwap (s : State) (lc : Lc) : State :=
  let l := s.lc lc.val
  let joining := match l.host with
    | some h => ((s.isl (slotIsland h)).slots.get (slotPos h)).positions.any fun c =>
        ((s.isl (slotIsland h)).cores.get c).role == .rejoining
    | none => true
  if !l.bankPend || joining || l.overrun.isSome || !(s.runOrQuiesce || s.mode == .hold) then s
  else
    let s1 := (s.setLc lc.val { l with activeBank := !l.activeBank, bankPend := false }).syncVoters lc
    if s1.loader.mc.state = 3 && !(allLc.any fun n => (s1.lc n.val).host.isSome && (s1.lc n.val).bankPend) then
      { s1 with loader := { s1.loader with mc := { s1.loader.mc with state := 0 } } }
    else s1

/-- A run-time package replaces, for the parcels it serves, the ones in force (R193, R196). -/
def newPackages (old : List (Byte × List Byte)) (p : Nat) (b : List Byte) : List (Byte × List Byte) :=
  (BitVec.ofNat 8 p, b) :: old.filter fun e => e.1.toNat ≠ p

/-- Parcels a package serves: the one it names, or every valid parcel without a package of its own. -/
def State.servedBy (s : State) (old : List (Byte × List Byte)) (p : Nat) : BitVec 16 :=
  if p < 16 then BitVec.ofNat 16 (2 ^ p)
  else (List.range 16).foldl (fun (v : BitVec 16) q =>
    if s.parcelValid q && !(old.any fun e => e.1.toNat = q) then v ||| BitVec.ofNat 16 (2 ^ q) else v) 0

/-- The package lies wholly inside a Polder MEMORY grant (check 0x6 of Table 7.9). -/
def State.pkgSourceOk (s : State) (a n : Nat) : Bool :=
  s.image.any fun i => i.grants.any fun g => g.kind = 1 && g.owner = 16 && g.covers a && g.covers (a + n - 1)

/-- What MC_CTL LOAD reads: the package, where it may be loaded. -/
def State.mcReach (s : State) (v : Word) : List Reach :=
  let a := s.fld .mcPkg 51 0
  if bits v 3 0 = 1 && s.runOrQuiesce && s.loader.mc.state = 0 && a % 64 = 0 then
    peeks [(a, max 16 (match s.peek a 16 with | some (b, false) => pkgSize b | _ => 0))]
  else []

/-- MC_CTL (R195, R196): the package's size follows from its WORD_COUNT.  DESIGN CHOICE (log entry 114): a package that cannot
be read, or is poisoned, reads as no bytes, so that its first check, KEY, fails. -/
def State.mcCtlW (s : State) (m : Master) (v : Word) : State :=
  s.csAccess m CsReg.mcCtl.addr needW (s.privileged m) fun s => s.admitMaster .keeper (s.mcReach v) fun s =>
    let s := s.respond m .ok
    let res (s : State) (r : Nat) : State := s.setFld .mcStatus 23 20 r
    let bad (s : State) (d : Nat) : State := res (s.setFld .mcStatus 19 16 d) 3
    if bits v 3 0 ≠ 1 then res s 3
    else if !s.runOrQuiesce then res s 2
    else if s.loader.mc.state ≠ 0 then res s 1
    else
      let a := s.fld .mcPkg 51 0
      if a % 64 ≠ 0 then bad s 3
      else
        let n := match s.peek a 16 with | some (b, false) => pkgSize b | _ => 0
        let bs := match s.peek a n with | some (b, false) => b | _ => []
        match s.image with
        | none => res s 2
        | some i =>
          let d := pkgCheck i.keys i.parcelValid false bs
          let d := if d = 0 && !s.pkgSourceOk a n then 6 else d
          if d ≠ 0 then bad s d
          else
            let old := s.loader.mc.packages
            let p := pkgParcel bs
            res ((s.rebuild (newPackages old p bs) (s.servedBy old p)).setFld .mcStatus 19 16 0) 0

/-! ### Resets before a re-composition (R55) -/

/-- Owner of a byte of memory among MEMORY, SPILLWAY and STAGING ranges. -/
def Image.memOwner (i : Image) (a : Nat) : Option Nat :=
  (i.grants.find? fun g => 1 ≤ g.kind && g.kind ≤ 3 && g.covers a).map (·.owner)

def memMoves (old new : Image) (a : Nat) : Bool := old.memOwner a ≠ new.memOwner a

/-- Lines that some cache, basin, victim buffer or write queue holds. -/
def State.heldLines (s : State) : List LineNo :=
  (s.holders.flatMap fun e => (e.2.l2.map (·.line)) ++ (e.2.evict.map (·.line)) ++ (e.2.side.map (·.line)) ++
      (e.2.l1d.map (·.line)) ++ (e.2.l1i.map (·.line))) ++
    s.slices.flatMap fun e => (e.2.basin.map (·.line)) ++ (e.2.victims.flatMap fun v => [v.old.line, v.fill.line])

/-- Every byte whose owner changes reads 0, with no breach mark, and no cache holds it. -/
def State.zeroMoved (s : State) (old new : Image) : State :=
  let moved (l : LineNo) : Bool := memMoves old new (lineAddr l)
  let s1 := (s.heldLines.filter moved).foldl (fun s l => s.maintLine l 2 true false) s
  { s1 with
    mem := s1.mem.filter fun c => !memMoves old new c.1
    poison := s1.poison.filter fun l => !memMoves old new (l * 128)
    chans := s1.chans.map fun (e : Nat × ChanSt) =>
      (e.1, { e.2 with writeQ := e.2.writeQ.filter fun w => !moved w.line
                       caWrite := e.2.caWrite.map fun w => if moved w.line then { w with data := 0, poison := false } else w }) }

/-- A subchannel whose owner changes (R55): its list ends with CLEARED for the old owner, its registers return to their
reset values; claim number and sequence number stay. -/
def State.scReset (s : State) (n : Sc) : State :=
  let s1 := if (s.sc n.val).busy then s.acceptCompletion n 0x08 (s.sc n.val).orderSent else s
  let s2 := [CsReg.scCfg n, .scPaths n, .scLimits n, .scCount n].foldl (fun s r => s.setReg r r.resetValue) s1
  s2.setSc n.val ScSt.init

/-- A port whose owner changes (R55, R497): its link goes down, its registers return to their reset values and it trains
again. -/
def State.portReset (s : State) (p : Port) : State :=
  let lyvan := s.isLyvanPort p
  let s1 := s.linkDown p .training
  let s2 := [CsReg.portCfg p, .portStatus p, .portErrcnt p, .portCfgaddr p, .portCfgdata p, .portCxlcap p].foldl
    (fun s r => s.setReg r r.resetValue) s1
  s2.setPort p.val { PortSt.init with st := .training, train := if lyvan then .reset else .none }

/-- Subchannels one of whose registers has been written, enabled or not. -/
def State.scWritten (s : State) : List Sc :=
  s.regs.filterMap fun e => match csTarget e.1 with
    | .reg _ (.scCfg n) | .reg _ (.scPaths n) | .reg _ (.scLimits n) | .reg _ (.scCount n) => some n
    | _ => none

/-- Every resource whose owner changes is reset, under the grants of the running image. -/
def State.resetMoved (s : State) (old new : Image) : State :=
  let differs (kind n : Nat) : Bool := old.ownerOf kind n ≠ new.ownerOf kind n
  let s1 := (s.scList ++ s.scWritten).foldl (fun s n => if differs 5 n.val then s.scReset n else s) s
  let s2 := (List.finRange 32768).foldl (fun s q => if differs 7 q.val then s.qReset q else s) s1
  let s3 := (List.finRange 512).foldl (fun s p =>
    if (old.portRec p.val).isSome && differs 6 p.val then s.portReset p else s) s2
  s3.zeroMoved old new

/-! ### APPLY and the commit point (R53 to R56) -/

/-- An open delivery is discarded (R540). -/
def State.dropDelivery (s : State) : State :=
  let s1 := { s with loader := { s.loader with delivery := none } }
  if s.loader.delivery.isSome && s.pendState = 1 then s1.setPend 0 0 else s1

/-- A session closes: its delivery is discarded, its waiting requests are dropped (R537, R540; log entry 29). -/
def State.closeSession (s : State) (id : BitVec 32) : State :=
  let s1 := if s.loader.delivery.any fun d => d.session = id then s.dropDelivery else s
  { s1 with mgmt := { s1.mgmt with
      sessions := s1.mgmt.sessions.filter fun x => x.id ≠ id
      queue := s1.mgmt.queue.filter fun q => q.session ≠ id } }

/-- A key of an image that management peers sign with, with its authority (R46, R535). -/
def Image.peerKey (i : Image) (id : BitVec 32) : Option KeyRec := i.keys.find? fun k => k.role = 2 && k.id = id

/-- Sessions whose key the image no longer holds are closed (R535). -/
def State.keepSessions (s : State) (i : Image) : State :=
  (s.mgmt.sessions.filter fun x => x.phase != .recovery && (i.peerKey x.keyId).isNone).foldl
    (fun s x => s.closeSession x.id) s

/-- The QoS words that stay in force on an isolated tile until RESTORE returns it (R53). -/
def State.heldQos (s : State) (old : Image) : Option (List Word) :=
  if s.svcTile = 0 then none else some (s.loader.qosHeld.getD old.qos)

/-- The structure that SEAL fixes admits an image (R57). -/
def Fuses.admits (f : Fuses) (i : Image) : Bool := !f.sealed || i.structDigest = f.sealDigest

/-- New QoS, fault policy and key manifest at one instant; the windows of the service levels start afresh. -/
def State.applyLight (s : State) (bs : List Byte) (i : Image) : State :=
  let s1 := { s with
    loader := { s.loader with running := some ⟨bs, i, 2⟩, staged := none, qosHeld := s.loader.running.bind fun r => s.heldQos r.img }
    chans := s.chans.map fun (e : Nat × ChanSt) => (e.1, { e.2 with served := [], burstTotal := 0 })
    cts := s.cts.map fun (e : Nat × CtSt) => (e.1, { e.2 with ringUsed := [] })
    accs := s.accs.map fun (e : Nat × AccSt) => (e.1, { e.2 with deficit := [] }) }
  (((s1.keepSessions i).setPend 0 0).rebuild i.packages allParcels).imgResult 0

def sameShape (a b : Image) : Bool :=
  a.structDigest = b.structDigest && a.grantDigest = b.grantDigest && a.worldDigest = b.worldDigest

/-- A reset of some parcel is in progress. -/
def State.resetsRun (s : State) : Bool := s.resets.any fun e => e.2.step.val ≠ 0

/-- IMG_CTL APPLY.  DESIGN CHOICE (log entry 114): where several results apply, WRONG_MODE for a mode that takes no APPLY
comes first, then BUSY, then NOT_VALID, then WRONG_MODE for a re-composition outside QUIESCE; an image of another
structure that was staged before SEAL is NOT_VALID after it (R57). -/
def State.imgApply (s : State) : State :=
  if !s.runOrQuiesce then s.imgResult 2
  else if s.loader.mc.state ≠ 0 then s.imgResult 1
  else
    match s.loader.staged, s.loader.running with
    | some bs, some r =>
      if s.pendState ≠ 3 then s.imgResult 3
      else
        let i := readImage bs
        if !s.fuses.admits i then s.imgResult 3
        else if sameShape r.img i then s.applyLight bs i
        else if s.mode != .quiesce then s.imgResult 2
        else (s.setPend 5 0).resetMoved r.img i
    | _, _ => s.imgResult 3

/-- Physical cores that have not passed the self-test of the last COMPOSE, or have failed since. -/
def State.badCores (s : State) : List Core :=
  (List.finRange 192).filter fun c =>
    let x := (s.isl (coreIsland c).val).cores.get (coreLetter c)
    !x.passed || x.role == .failed

/-- The logical core exists in both images with the same parcel. -/
def State.keepsLc (s : State) (n p : Nat) : Bool :=
  let l := s.lc n
  l.host.isSome && pswParcel l.psw = p && !l.stops.lost

/-- A port of the new image: it stays when its record and its owner are unchanged, else it is formed anew. -/
def State.movePorts (s : State) (old new : Image) : State :=
  let same (p : Port) : Bool := old.portRec p.val = new.portRec p.val && old.ownerOf 6 p.val = new.ownerOf 6 p.val
  (List.finRange 512).foldl (fun s p =>
    match old.portRec p.val, new.portRec p.val with
    | none, none => s
    | some _, none => (s.linkDown p .absent).setPort p.val PortSt.init
    | _, some e =>
      if same p then s
      else if old.ownerOf 6 p.val ≠ new.ownerOf 6 p.val && old.portRec p.val = new.portRec p.val then s
      else ((if (old.portRec p.val).isSome then s.linkDown p .training else s).setPort p.val
        { PortSt.init with st := .training, train := if isLyvan (prProtocol e) then .reset else .none })) s

/-- One logical core after the placement: its state moves with it, or is its reset state. -/
def State.moveLc (s placed : State) (i : Image) (n p : Nat) : LCore :=
  let l := s.lc n
  let d := placed.lc n
  let moved := l.host ≠ d.host
  if s.keepsLc n p then
    let l1 := if moved then { l.clearResv with contention := [], tlb := [] } else l
    { l1 with
      host := d.host
      reqs := { l.reqs with migrate := d.reqs.migrate, debug := l.reqs.debug || l.stops.debug }
      stops := { l.stops with migrating := false, hard := false, debug := false } }
  else
    let r := { l with pendS := [], pendH := [], pendG := [], pendP := [], gate := [], breakpoints := [] }
    let x := r.resetTo p (placed.startAddr p)
    { x with
      bank0 := bankFor i.packages p (s.loader.mc.epoch + 1), bank1 := WcsBank.init, activeBank := false, bankPend := false
      host := d.host
      reqs := { StopReqs.none with migrate := d.reqs.migrate }
      stops := { Stops.none with start := x.stops.start, quiesce := true } }

/-- The commit point (R56): the new grants replace the old in every check, and the logical cores stand on the cores of
the new structure (R54). -/
def State.recompose (s : State) : State :=
  match s.loader.staged, s.loader.running with
  | some bs, some r =>
    if s.mode != .quiesce || s.pendState ≠ 5 || s.resetsRun then s
    else
      let i := readImage bs
      let bad := s.badCores
      let isls : Table Isl := (List.finRange 48).map fun n =>
        let o := s.isl n.val
        (n.val, { islInit i bad n with voterOk := o.voterOk, voterDead := o.voterDead, timeReg := o.timeReg })
      let new : RunImage := ⟨bs, i, 2⟩
      match { s with isls := isls, lcs := [], migrations := [], loader := { s.loader with running := some new } }.placeAll i with
      | none => ((s.setPend 4 0x13).imgResult 3)
      | some placed =>
        let gone := allLc.filter fun l =>
          (s.lc l.val).host.isSome && (s.lc l.val).host ≠ (placed.lc l.val).host
        let s1 := gone.foldl (fun s l => match (s.lc l.val).host with
          | some h => (s.quietStop h l).emptySlot h
          | none => s) s
        let s2 := s1.movePorts r.img i
        let lcs : Table LCore := i.lcSlots.foldl (fun (t : Table LCore) e =>
          Table.insert t e.1 (s2.moveLc placed i e.1 e.2.1)) []
        let s3 := { s2 with
          isls := placed.isls, lcs := lcs, migrations := []
          slices := s2.slices.map fun (e : Nat × SliceSt) => (e.1, { e.2 with migSlot := none, migRecord := none })
          loader := { s2.loader with running := some new, staged := none, qosHeld := s2.heldQos r.img } }
        let s4 := (((s3.keepSessions i).setPend 0 0).rebuild i.packages allParcels).imgResult 0
        let s5 := allLc.foldl (fun s l => s.giveBanks l) s4
        (allLc.foldl (fun s l => if (s.lc l.val).reqs.debug then s.debugHalt l else s) s5).settleMode
  | _, _ => s

/-! ### Other IMG_CTL commands -/

/-- DISCARD. -/
def State.imgDiscard (s : State) : State :=
  ({ s with loader := { s.loader with staged := none } }.setPend 0 0).imgResult 0

/-- COMMIT_VERSION (R34). -/
def State.commitVersion (s : State) : State :=
  match s.loader.running with
  | some r =>
    if !s.runOrQuiesce then s.imgResult 2
    else
      let v := min r.img.secVersion.toNat 64
      if s.fuses.secVersion.val < v then
        ({ s with fuses := { s.fuses with secVersion := ⟨v % 65, Nat.mod_lt _ (by decide)⟩ } }).imgResult 0
      else s.imgResult 0
  | none => s.imgResult 2

/-- SEAL (R57): the digest fuses already blown stay blown. -/
def State.sealStructure (s : State) : State :=
  if s.mode != .run && s.mode != .degraded then s.imgResult 2
  else
    match s.loader.running with
    | none => s.imgResult 2
    | some r =>
      let d := r.img.structDigest
      if s.fuses.sealDigest &&& d = s.fuses.sealDigest then
        ({ s with fuses := { s.fuses with sealDigest := s.fuses.sealDigest ||| d, sealed := true } }).imgResult 0
      else s.imgResult 4

/-- Every master that can freeze. -/
def freezable : List Master :=
  allLc.map Master.core ++ (List.finRange 128).map Master.pathEngine ++ (List.finRange 64).map Master.qdma ++
    allCtx.map Master.acc ++ (List.finRange 512).map Master.port

def State.isFrozen (s : State) : Master → Bool
  | .core lc => (s.lc lc.val).stops.frozen
  | .pathEngine e => (s.pe e.val).frozen
  | .qdma c => (s.dma c.val).frozen
  | .acc c => (s.ctx (ctxIdx c)).st == .frozen
  | .port p => (s.port p.val).st == .contained && (s.port p.val).causeFw
  | _ => false

/-- A frozen master goes on where it stopped (R61, R405); a context disabled while frozen stands at its progress point
(R437). -/
def State.unfreeze (s : State) : Master → State
  | .core lc => s.modLc lc.val fun l => { l with stops := { l.stops with frozen := false } }
  | .pathEngine e =>
    let s1 := s.modPe e.val fun x => { x with frozen := false }
    (s1.pePorts e).foldl
      (fun s p => if (s.port p.val).st == .active then s.portPathsGained p else s.portActiveFail p) s1
  | .qdma c => s.modDma c.val fun x => { x with frozen := false }
  | .acc c => s.modCtx (ctxIdx c) fun x =>
      { x with st := if x.response.isSome then .waitingCq else if s.fld (.ctxcfg c) 63 63 = 1 then .running
                      else .disabled }
  | .port p => s.modPort p.val fun x => { x with st := .active }
  | _ => s

/-- UNFREEZE (R61); a master whose parcel is being reset is released by the reset. -/
def State.unfreezeCmd (s : State) (id : Nat) : State :=
  match freezable.find? fun m => s.isFrozen m && s.masterSrc m = id with
  | none => s.imgResult 5
  | some m =>
    if (s.masterOwners m).any fun p => (s.prst p).step.val ≠ 0 then s.imgResult 5 else (s.unfreeze m).imgResult 0

/-- A write of IMG_CTL (R62, R83).  Only an APPLY that composes is still executing after its write. -/
def State.imgCtlW (s : State) (m : Master) (v : Word) : State :=
  s.csPriv m CsReg.imgCtl.addr fun s =>
    if s.mode == .zeroize then s.imgResult 2
    else if s.pendState = 5 then s.imgResult 1
    else
      match bits v 3 0 with
      | 1 => s.imgApply
      | 2 => s.imgDiscard
      | 3 => s.commitVersion
      | 4 => s.sealStructure
      | 5 => (s.unfreezeCmd (bits v 31 16)).settleMode
      | _ => s.imgResult 3

/-! ### Commands -/

/-- R48, R50. -/
def execFlashCopyValidated (bistFail : List Core) (s : State) : Outcome State Fault Refusal := .next (s.copyValidated bistFail)

/-- R53, R55, R62. -/
def execImgApply (m : Master) (s : State) : Outcome State Fault Refusal := .next (s.imgCtlW m 1)

/-- R54, R56. -/
def execRecompositionCommit (s : State) : Outcome State Fault Refusal := .next s.recompose

/-- R62. -/
def execImgDiscard (m : Master) (s : State) : Outcome State Fault Refusal := .next (s.imgCtlW m 2)

/-- R34. -/
def execCommitVersion (m : Master) (s : State) : Outcome State Fault Refusal := .next (s.imgCtlW m 3)

/-- R57. -/
def execSealFuses (m : Master) (s : State) : Outcome State Fault Refusal := .next (s.imgCtlW m 4)

/-- R61. -/
def execUnfreeze (m : Master) (target : BitVec 16) (s : State) : Outcome State Fault Refusal :=
  .next (s.imgCtlW m (BitVec.ofNat 64 (5 + target.toNat * 2 ^ 16)))

/-- R193, R195, R196. -/
def execMcLoad (m : Master) (s : State) : Outcome State Fault Refusal := .next (s.mcCtlW m 1)

/-- R189. -/
def execRebuildWriteDone (s : State) : Outcome State Fault Refusal := .next s.rebuildWritten

/-- R189, R190. -/
def execBankSwap (lc : Lc) (s : State) : Outcome State Fault Refusal := .next (s.bankSwap lc)

end Sys2Proof.Machine
end

