-- ==== Sys2Proof/Machine/CsSpace.lean ====
section
/-! DEFINITION. Control space as a whole: what every register reads as, the fields that reflect hardware computed, and
reads and writes by address (R5 to R9, R22 to R29). -/

namespace Sys2Proof.Machine

open Host (Outcome)

/-! ### Field codes -/

def SlotSt.code : SlotSt → Nat
  | .none => 0 | .full => 1 | .reduced => 2 | .resync => 3 | .migrating => 4 | .split => 5 | .stopped => 6 | .lost => 7

/-- Role codes of Table 8.1. -/
def Role.code : Role → Nat
  | .unassigned => 0 | .replica => 1 | .simplex => 2 | .ownSleeper => 3 | .poolSleeper => 4 | .rejoining => 5
  | .held => 6 | .failed => 7

def ChState.code : ChState → Nat
  | .absent => 0 | .training => 1 | .active => 2 | .selfRefresh => 3 | .retraining => 4 | .failed => 5 | .untrained => 6
  | .unused => 7

def ScState.code : ScState → Nat
  | .disabled => 0 | .idle => 1 | .running => 2 | .parked => 3 | .clearing => 4

def PortState.code : PortState → Nat
  | .absent => 0 | .disabled => 1 | .training => 2 | .active => 3 | .contained => 4

def CtxState.code : CtxState → Nat
  | .disabled => 0 | .idle => 1 | .running => 2 | .waitingCq => 3 | .frozen => 4 | .stopping => 5

def CutState.code : CutState → Nat
  | .on => 0 | .deferred => 1 | .clockCut => 2 | .powerCut => 3

/-- OR of values at bit positions. -/
def pack (l : List (Nat × Nat)) : Nat := l.foldl (fun a e => a + e.2 * 2 ^ e.1) 0

def optVal {n : Nat} (o : Option (Fin n)) : Nat := o.elim 0 (·.val)

/-! ### Fields that reflect hardware (R9) -/

/-- MC_BANK of slot `k` of an island: epoch, pending swap and number of the active bank. -/
def State.bankWord (s : State) (i : Island) (k : Fin 4) : Nat :=
  match ((s.isl i.val).slots.get k).lc with
  | none => 0
  | some lc =>
    let l := s.lc lc.val
    pack [(32, (if l.activeBank then l.bank1 else l.bank0).epoch.toNat), (16, l.bankPend.toNat), (0, l.activeBank.toNat)]

/-- GRP_STATUS.LOCKSTEP_BROKEN: a slot in SPLIT, or a HELD replica that has not rejoined (R237). -/
def Isl.lockBroken (x : Isl) : Bool :=
  (List.finRange 4).any fun k => (x.slots.get k).st == .split || (x.cores.get k).fromHeld

def State.grpWord (s : State) (i : Island) : Nat :=
  let x := s.isl i.val
  pack ([(63, x.lockBroken.toNat), (56, x.voterOk.toNat), (0, x.layout.toNat)] ++
    (List.finRange 4).map (fun k => (16 + 4 * k.val, (x.slots.get k).st.code)) ++
    (List.finRange 4).map fun k => (8 + 2 * k.val, min 3 (x.healthy k)))

def State.coreWord (s : State) (i : Island) : Nat :=
  let x := s.isl i.val
  pack ((List.finRange 4).flatMap fun c =>
    let y := x.cores.get c
    [(32 + 8 * c.val, match y.lc with | some lc => lc.val | none => 0xFF),
     (8 * c.val, y.role.code + 16 * y.slot.val + 64 * y.gated.toNat)])

def State.chWord (s : State) (c : Chan) : Nat :=
  let x := s.chan c.val
  let d (f : Dimm → Nat) : Nat := x.dimm.elim 0 f
  pack [(52, d (·.density.val)), (48, d (·.rankBits.val)), (44, d (·.dpc.val)), (40, x.rate.val), (32, d (·.kind.val)),
    (0, x.st.code)]

def State.qWord (s : State) (q : Qn) : Nat :=
  let x := s.queue q.val
  pack [(39, x.words.length), (14, x.retained.length), (13, x.opener.isSome.toNat), (12, x.mark.toNat),
    (11, x.markLost.toNat), (10, (!x.held.isEmpty).toNat)]

/-- SC_STATUS.REVERT_PEND: a running list keeps a usable path of higher priority waiting (R388). -/
def State.scRevertPend (s : State) (n : Sc) : Bool :=
  let x := s.sc n.val
  (x.st == .running || x.st == .clearing) && x.handoverTo.isNone && (s.revertTarget n).isSome

def State.scWord (s : State) (n : Sc) : Nat :=
  let x := s.sc n.val
  pack ([(60, x.st.code), (52, x.parkCause.val), (50, x.active.isSome.toNat), (49, x.standby.isSome.toNat),
    (48, (s.scRevertPend n).toNat), (35, optVal x.standby), (32, optVal x.active)] ++
    (List.range 8).map fun k => (40 + k, (s.pathUsable n k).toNat))

def State.peWord (s : State) (e : Pe) : Nat :=
  let x := s.pe e.val
  let st := if (s.pePorts e).isEmpty then 0 else if x.failed then 3 else if x.frozen then 2 else if x.stopped then 4 else 1
  let act := (s.scList.filter fun n => (s.sc n.val).holder = some e && s.scEnabled n).length
  let stb := (s.scList.filter fun n => ((s.sc n.val).standby.bind fun k => s.scPe n k.val) = some e).length
  pack [(60, st), (41, act), (24, stb), (0, s.peInflight e)]

def State.portCfgWord (s : State) (p : Port) : Nat :=
  match s.portRec p with
  | none => 0
  | some e => pack [(22, prEngine e), (14, prProtocol e), (10, prWidth e), (8, p.val / 128), (7, 1), (0, p.val % 128)]

def State.portWord (s : State) (p : Port) : Nat :=
  let x := s.port p.val
  pack [(60, x.st.code), (52, x.twidth.toNat), (48, x.rate.toNat), (47, x.flit.toNat), (46, x.reversed.toNat),
    (45, (x.st == .contained && x.causeFw).toNat), (0, x.peerRxWin.toNat)]

def State.engWord (s : State) (a : Acc) : Nat :=
  let busy := (s.tileLcs a.tile.val).filter fun l => (s.aslot (slotIdx a.cph l)).busy
  pack ((8, busy.length) :: (List.finRange 8).map fun c =>
    (c.val, ((s.ctx (ctxIdx ⟨a.cph, a.tile, c⟩)).st == .running).toNat))

def State.ksWord (s : State) : Nat :=
  pack [(19, (s.keeper.trans != .none).toNat), (18, (s.svcTile ≠ 0 : Bool).toNat), (17, s.splitHolds.toNat),
    (16, s.degradedHolds.toNat), (0, s.mode.code)]

/-- The fields of a register whose Reset column is HW. -/
def State.hwFields (s : State) : CsReg → Nat
  | .imgStatus => pack [(16, s.fuses.sealed.toNat), (8, s.fuses.secVersion.val),
      (0, ((s.loader.running.or s.loader.composing).map (·.source.toNat)).getD 0)]
  | .ksStatus => s.ksWord
  | .ksWake => s.keeper.straps.ponwake.toNat
  | .ecCfg e => if ecSourceOk e (s.fld (.ecCfg e) 39 36) then (s.tb.ecValue.get e).toNat * 2 ^ 24 else 0
  | .mcStatus => pack [(32, s.loader.mc.epoch.toNat), (24, Config.romRev.toNat), (8, s.loader.mc.state.val)]
  | .pinStat n => (s.pin n.val).active.toNat * 2 ^ 63
  | .mgtStatus n =>
    pack [(62, (if n.val = 0 then s.keeper.straps.mgtmode0 else s.keeper.straps.mgtmode1).toNat),
      (61, (s.mgmt.link.getLsbD n.val).toNat), (60, (s.mgmt.active == some n : Bool).toNat),
      (0, Config.mctpVendor.toNat / 2 ^ (16 * n.val) % 2 ^ 16)]
  | .mcBank i => s.bankWord i 0
  | .grpStatus i => s.grpWord i
  | .grpCore i => s.coreWord i
  | .maintStatus h => (s.maintBusy h).toNat * 2 ^ 63
  | .cohReclaim t => pack [(63, (!(s.ct t.val).reclaims.isEmpty).toNat), (48, (s.ct t.val).slicesDone.toNat)]
  | .mcChstat c => s.chWord c
  | .mcRhctl c => (s.rfmOn c).toNat * 2 ^ 30
  | .mcPwr c => (s.chan c.val).hot.toNat
  | .mcMap t =>
    let m := s.map t.val
    pack ([(16, m.granules), (5, m.stripe.toNat), (4, m.popErr.toNat)] ++
      (List.range 5).map fun c => (8 + c, (s.chanFailed (5 * t.val + c)).toNat))
  | .mcMaptop _ => s.dramTop
  | .qmQstat q => s.qWord q
  | .qmMstat t => (s.queues.filter fun e => e.1 / 8192 = t.val).foldl (fun a e => a + e.2.held.length) 0
  | .qmDmastat c => (s.dma c.val).busy.toNat * 2 ^ 63
  | .scStatus n => s.scWord n
  | .peStatus e => s.peWord e
  | .portCfg p => s.portCfgWord p
  | .portStatus p => s.portWord p
  | .portCxlcap p => (s.port p.val).cxlUnits
  | .engstat a => s.engWord a
  | .ctxstat c => pack [(60, (s.ctx (ctxIdx c)).st.code), (7, (s.ctx (ctxIdx c)).block / 128)]
  | .pwrStat u => (s.cut u).code * 2 ^ 60
  | .prStatus p => pack [(60, (s.prst p.val).step.val), (55, (s.prWaits p.val).toNat)]
  | .irtStat t => (s.stormAt (5 + t.val)).length * 2 ^ 32
  | .fcStatus k =>
    pack [(32, (s.col k.val).log.length), (31, (s.col k.val).stopped.toNat), (8, s.colActive k)]
  | _ => 0

/-- DBG_STATUS.REMAIN: whole seconds left, counted down by the timebase. -/
def State.remain (s : State) : Nat :=
  if s.fld .dbgStatus 63 63 = 1 then (s.mgmt.unlockEnd - s.now + 999999999) / 1000000000 else 0

/-- What a read of a register delivers. -/
def State.csValue (s : State) (r : CsReg) : Word :=
  let hw := BitVec.ofNat 64 (s.hwFields r)
  let w := r.fields.foldl (fun w f => if f.hw then setBits w f.hi f.lo (bits hw f.hi f.lo) else w) (s.reg r)
  match r with
  | .dbgStatus => setBits w 31 0 s.remain
  | .tbNow => s.tb.ns
  | _ => w

/-! ### Conditions that join the grants (R335, R359, R401, R455) -/

def State.csOk (s : State) (m : Master) : CsReg → Bool
  | .qmQcfg q | .qmQstat q | .qmQevt q | .qmQlost q | .qmQctl q | .qmQflushed q | .qmQfb q | .qmMark q | .qmDeq q
  | .qmRewind q | .qmOpen q | .qmClose q | .qmEnq q _ => s.holdsRes m 7 q.val
  | .scCfg n | .scPaths n | .scLimits n | .scStart n | .scCtl n | .scStatus n | .scClaim n | .scCount n =>
    s.holdsRes m 5 n.val
  | .portCfg p | .portStatus p | .portCtl p | .portErrcnt p | .portCfgaddr p | .portCfgdata p | .portCxlcap p =>
    s.holdsRes m 6 p.val
  | .ctxcfg c | .ctxstat c | .ctxcount c => s.ctxAccessOk m c
  | _ => true

/-! ### Reads and writes by address -/

/-- The register that stands for the page around an address, where access to the page asks for more than a CONTROL grant:
a subchannel's, a queue's, a port's or a context's (R335, R359, R423, R455). -/
def pageReg (pa : Nat) : Option CsReg :=
  let head (n : Nat) : Option CsReg := match csTarget (pa - pa % n) with | .reg _ r => some r | _ => none
  match head 0x40, head 0x400, head 0x1_0000 with
  | some (.scCfg n), _, _ => some (.scCfg n)
  | _, some (.qmQcfg q), _ => some (.qmQcfg q)
  | _, _, some (.portCfg p) => some (.portCfg p)
  | _, _, some (.ctxcfg c) => some (.ctxcfg c)
  | _, _, _ => none

/-- The master's owner holds what the pages of `n` bytes from `pa` on ask for. -/
def State.pageOk (s : State) (m : Master) (pa n : Nat) : Bool :=
  [pa, pa + n - 1].all fun a => (pageReg a).all fun r => s.csOk m r

/-- An access that no register takes: outside every block an error response, in a block's span a CS_HOLE note from the
collector of the window's tile (R24, R25). -/
def State.csMiss (s : State) (m : Master) (pa need : Nat) (t : CsTarget) : State :=
  s.csAccess m pa need (s.pageOk m pa 8) fun s =>
    match t with
    | .hole k => (s.report (srcId k.val 0x3F 0) 0x01 clsNote pa).respond m (if need = needR then .data 0 else .ok)
    | _ => s.respond m .error

/-- An access of another size than 8 B, or a misaligned one (R24). -/
def csFormOk (pa size : Nat) : Bool := size = 8 && pa % 8 = 0

def State.csError (s : State) (m : Master) (pa size need : Nat) : State :=
  s.csSized m pa size need (s.pageOk m pa size) fun s => s.respond m .error

/-- Slots 1 to 3 of a SIMPLEX island at MC_BANK + 8, + 16 and + 24 (chapter 7, MC_BANK). -/
def State.bankExtra (s : State) (pa : Nat) : Option (Island × Fin 4) :=
  let k := csTile pa
  let off := (pa - csBase) % 2 ^ 32
  let r := off % 0x0010_0000
  if 1 ≤ k && k ≤ 4 && 0x0600_0000 ≤ off && off < 0x06C0_0000 && 0x000F_0008 ≤ r && r ≤ 0x000F_0018 && r % 8 = 0 then
    match fin? 48 (12 * (k - 1) + (off - 0x0600_0000) / 0x0010_0000), fin? 4 ((r - 0x000F_0000) / 8) with
    | some i, some sl => if (s.isl i.val).layout = 2 then some (i, sl) else none
    | _, _ => none
  else none

/-- A read of a register without a row of its own: the value, then RC fields are cleared (R7). -/
def State.plainRead (s : State) (m : Master) (r : CsReg) (pa : Nat) : State :=
  s.csAccess m pa needR (s.csOk m r) fun s =>
    (s.setReg r (softReadClear r (s.reg r))).respond m (.data (s.csValue r))

/-- QM_DEQTAG: the latch of the reading master (R343). -/
def State.deqtagR (s : State) (m : Master) (t : It) : State :=
  s.csAccess m (CsReg.qmDeqtag t).addr needR true fun s =>
    let v := match s.tags.find? fun x => x.tile = t && x.m = m with
      | some x => pack [(63, 1), (48, x.index.toNat), (0, x.tag.toNat)]
      | none => 0
    s.respond m (.data (BitVec.ofNat 64 v))

/-- A read of the register at `pa`.  The completion of a configuration read, which a device gives, is free. -/
def State.regRead (s : State) (m : Master) (r : CsReg) (pa : Nat) : State :=
  match r with
  | .tbNow => s.tbNowR m
  | .pwrRelq => s.relqR m
  | .cohBrlog t => s.brlogR m t
  | .mcErrlog0 c => s.errlogR m c
  | .qmDeq q => s.qmDeqR m q .ok
  | .qmRewind q => s.qmRewindR m q .ok
  | .qmDeqtag t => s.deqtagR m t
  | .portCfgdata p =>
    let d := s.draw
    d.2.configR m p (BitVec.ofNat 2 (bits d.1 33 32)) (d.1.setWidth 32)
  | .fcLogHi k => s.fcLogR m k
  | r => s.plainRead m r pa

/-- A 64-bit control-space read, or a faulty form of one (R24 to R28). -/
def State.csRead (s : State) (m : Master) (pa size : Nat) : State :=
  if !csFormOk pa size then s.csError m pa size needR
  else
    match csTarget pa with
    | .reg _ r => s.regRead m r pa
    | t =>
      match s.bankExtra pa with
      | some (i, k) => s.csAccess m pa needR true fun s => s.respond m (.data (BitVec.ofNat 64 (s.bankWord i k)))
      | none => s.csMiss m pa needR t

/-- A write of a register without an effect of its own: every field under its access type (R7). -/
def State.plainWrite (s : State) (m : Master) (r : CsReg) (pa : Nat) (v : Word) : State :=
  s.csAccess m pa needW (s.csOk m r) fun s => (s.setReg r (softWrite r (s.reg r) v)).respond m .ok

/-- A write of the register at `pa`. -/
def State.regWrite (s : State) (m : Master) (r : CsReg) (pa : Nat) (v : Word) : State :=
  match r with
  | .imgCtl => s.imgCtlW m v
  | .ksCmd => (s.ksCmdW m v).settleMode
  | .tbCtl => s.tbCtlW m v
  | .tbStep => s.tbStepW m v
  | .mcCtl => s.mcCtlW m v
  | .pwrRelease => s.pwrReleaseW m (bits v 3 0) (bits v 10 8) (bits v 31 16)
  | .pinCfg n => s.pinCfgW m n v
  | .pinStat n => s.pinStatW m n v
  | .grpCtl i => (s.grpCtlW m i ⟨bits v 13 12 % 4, Nat.mod_lt _ (by decide)⟩ (bits v 3 0)).settleMode
  | .maintCtl h => s.maintW m h (bits v 1 0) (v.getLsbD 7) (v.getLsbD 6)
  | .maintFirst h | .maintLast h =>
    if s.maintBusy h then s.csOpen m pa id else s.plainWrite m r pa v
  | .mcRhctl c => s.mcRegW m c (.mcRhctl c) v
  | .mcPwr c => s.mcRegW m c (.mcPwr c) v
  | .qmQcfg q => s.qmQcfgW m q v
  | .qmQctl q => if v.getLsbD 1 then s.qmResetW m q else if v.getLsbD 0 then s.qmFlushW m q else s.plainWrite m r pa v
  | .qmMark q => s.qmMarkW m q (v.getLsbD 0)
  | .qmOpen q => s.qmOpenW m q v
  | .qmClose q => s.qmCloseW m q
  | .qmEnq q u => s.qmEnqW m q u v
  | .qmDmactl c => s.qmDmactlW m c v
  | .scCfg n => (s.scCfgW m n pa v).settleMode
  | .scPaths n => s.scPathsW m n pa v
  | .scLimits n => s.scLimitsW m n pa v
  | .scStart n => s.scStartW m n pa v
  | .scCtl n => s.scCtlW m n pa v
  | .portCtl p => (s.portCtlW m p (bits v 3 0)).settleMode
  | .portCfgdata p =>
    let d := s.draw
    d.2.configW m p v (BitVec.ofNat 2 (bits d.1 1 0))
  | .cphKw t k => s.cphKwW m t k v
  | .ctxcfg c => s.ctxcfgW m c v
  | .pwrReq u => s.pwrReqW m u (bits v 3 0)
  | .prCtl p => s.prCtlW m p pa v
  | .prStart p => s.prStartW m p pa v
  | .irSend o => s.irSendW m o pa v
  | .fcStatus k => s.fcStatusW m k v
  | .fcCtl k => s.fcCtlW m k v
  | .fcInject k => s.fcInjectW m k v
  | .fcParcel k p => s.fcParcelW m k p v
  | .fcPstat k p => s.fcPstatW m k p v
  | r => s.plainWrite m r pa v

/-- A 64-bit control-space write, or a faulty form of one (R24 to R28). -/
def State.csWrite (s : State) (m : Master) (pa size : Nat) (v : Word) : State :=
  if !csFormOk pa size then s.csError m pa size needW
  else
    match csTarget pa with
    | .reg _ r => s.regWrite m r pa v
    | t =>
      match s.bankExtra pa with
      | some _ => s.csAccess m pa needW true fun s => s.respond m .ok
      | none => s.csMiss m pa needW t

/-! ### Commands -/

/-- R7, R24, R25, R28, R29. -/
def execRegisterWrite (m : Master) (addr : Word) (size : Nat) (value : Word) (s : State) : Outcome State Fault Refusal :=
  .next (s.csWrite m addr.toNat size value)

end Sys2Proof.Machine
end

