-- ==== Sys2Proof/Machine/Access.lean ====
section
/-! DEFINITION. Memory instructions (majors 0x10 to 0x22): loads, stores, atomics, reservations and LSEG, over cached
and uncached memory, control space and device windows (chapters 4, 5, 9, 10; R26, R27, R138). -/

namespace Sys2Proof.Machine

open Host (Outcome)

/-! ### Running a memory instruction -/

/-- The core comes to execute its next word now: nothing that stands before an instruction happens instead. -/
def State.ready (s : State) (lc : Lc) : Bool :=
  let l := s.lc lc.val
  s.lcRuns lc && !(l.breakpoints.contains l.pc && s.haltable l) && !(l.fpPend && 256 ≤ l.fpCount) && l.lateDue.isNone &&
    (s.fetchErr lc).isNone

/-- An instruction whose effect may be to wait, with what it has asked for (the answer is then `false`). -/
def State.runMem (s : State) (lc : Lc) (w : BitVec 32) (f : State → LCore → Res (State × Bool)) : State :=
  if s.ready lc then
    match f s (s.lc lc.val) with
    | .ok (s1, false) => s1.askWalks lc
    | _ => s.runInstr lc w fun s l => (f s l).map (·.1)
  else s.runInstr lc w fun s l => (f s l).map (·.1)

/-- Exceptions of a data access carry its kind: 2 read, 3 write, 4 read-modify-write. -/
def Res.tag {α : Type} (r : Res α) (acc : Nat) : Res α :=
  match r with
  | .exc e => .exc { e with access := acc }
  | .excIn s e => .excIn s { e with access := acc }
  | x => x

def excBus (pa : Nat) : Exc := { code := 0x10, addr := pa }
def excCheck (pa : Nat) : Exc := { code := 0x11, addr := pa }

/-! ### Checks of a data access (R58, R100, R102, R116) -/

/-- A data access of `n` bytes at offset `off` of a descriptor: alignment, segment, paging and the firewall, in order.
Answers the physical address, whether the page is uncached, and the core with its cached translations. -/
def State.dataAddr (s : State) (lc : Lc) (l : LCore) (d : Quad) (off : Word) (n need : Nat) :
    Res (Nat × Bool × LCore) :=
  (check (off.toNat % n = 0) { code := 0x03, addr := off.toNat }).bind fun _ =>
    (segCheck d (pswPolder l.psw) l.level off.toNat n need).bind fun la =>
      (s.translateAt lc l la need).bind fun r =>
        if s.fwPass (.core lc) r.1 n need then .ok r else .freeze r.1

/-! ### Reading -/

/-- The latest response to a master. -/
def State.respOf (s : State) (m : Master) : Option Resp := (s.resps.find? fun e => e.1 = m).map (·.2)

/-- `n` bytes that a device returns (log entry 2). -/
def State.drawBytes (s : State) (n : Nat) : List Byte × State :=
  ((List.range n).map fun i => Config.deviceByte (s.free + i), { s with free := s.free + n })

/-- Every byte read waits in the core's own store buffer. -/
def LCore.forwards (l : LCore) (a n : Nat) : Bool :=
  (List.range n).all fun i => l.storeBuf.any fun e => e.addr ≤ a + i && a + i < e.addr + e.data.length

/-- A cached read at retirement: the slot's own copy, else the freshest, whose fill is asked for (R119, R242, R247); it waits
while its line has an open transaction of another, or is reserved for another (R282, R285). -/
def State.readLine (s : State) (lc : Lc) (pa n : Nat) : Res (List Byte × State) :=
  let l := s.lc lc.val
  let line := lineOfAddr pa
  match l.host with
  | none => .wait
  | some sl =>
    let h := s.holder sl.val
    let bytes (v : Line) : List Byte := l.overlay pa ((List.range n).map fun i => lineByte v ((pa + i) % 128))
    match h.dataOf line with
    | some v =>
      if v.2 && !l.forwards pa n then .exc (excCheck pa)
      else
        let s1 := s.setHolder sl.val (h.loaded line)
        .ok (bytes v.1, if (h.find line).isSome then s1 else s1.evictResv sl)
    | none =>
      let s0 := s.issueReq (.slot sl) line .readShared
      let taken : Bool := match s.homeSlice line, s.txn line with
        | some h, t => s.reserved h.val line (.slot sl) || t.any fun t => t.req ≠ .slot sl
        | none, _ => false
      if taken then .waitIn s0
      else
        let s1 := s.basinMeet line
        let v := s1.freshest line
        if v.2 && !l.forwards pa n then .excIn (s1.caClear line) (excCheck pa)
        else .ok (bytes v.1, (s1.issueReq (.slot sl) line .readShared).modHolder sl.val fun h => h.train line)

/-- An error that waits on the line in the caches of the slot is met by what the instruction does there (R254, R256). -/
def State.meetLine (s : State) (sl : Slot) (l : LineNo) : Res State :=
  if s.cacheErr sl l then
    match s.cacheMeet sl l with
    | (s1, .check a) => .excIn s1 (excCheck a)
    | (s1, .retire) => .ok s1
  else .ok s

/-- A cached read, an error that waits on its line in the caches met first (R254, R256). -/
def State.readCached (s : State) (lc : Lc) (pa n : Nat) : Res (List Byte × State) :=
  match (s.lc lc.val).host with
  | none => .wait
  | some sl => (s.meetLine sl (lineOfAddr pa)).bind fun s1 => (s1.readLine lc pa n).inState s1

/-- A request of the core that is not cached reaches its home slice (R296): NACKed while the line has an open transaction, is
reserved or, for a write, held; `k` what it does when it is served. -/
def State.uncached (s : State) (lc : Lc) (pa : Nat) (kind : ReqKind) (k : State → Res (List Byte × State)) :
    Res (List Byte × State) :=
  let m : Master := .core lc
  let line := lineOfAddr pa
  if (s.outReq (s.requester m) line).any (·.nacked) then .wait
  else
    match s.homeSlice line with
    | none => .exc (excBus pa)
    | some h =>
      if s.refuses h.val line (s.requester m) kind then .waitIn (s.nack h (s.requester m) line kind false)
      else if kind == .invWrite && s.homeWaits line then .wait
      else k (s.served (s.requester m) line)

/-- Read `n` bytes inside one line at a physical address that every check has passed: control space, a device window,
uncached or cached memory (R24, R26, R27, R108, R296, R404). -/
def State.readAt (s : State) (lc : Lc) (pa n : Nat) (unc : Bool) : Res (List Byte × State) :=
  match s.place pa with
  | .control =>
    (s.synced lc).bind fun s1 =>
      let s2 := s1.csRead (.core lc) pa n
      (match s2.respOf (.core lc) with
       | some (.data w) => .ok (leBytes n w.toNat, s2)
       | some .frozen => .freeze pa
       | _ => .exc (excBus pa))
  | .pcie p =>
    if (s.port p.val).st == .active then (s.synced lc).map fun s1 => s1.drawBytes n else .exc (excBus pa)
  | .bell _ | .nowhere => .exc (excBus pa)
  | _ =>
    if !s.memReachable pa then .exc (excBus pa)
    else if unc then
      (s.synced lc).bind fun s1 =>
        s1.uncached lc pa .peek fun s2 =>
          let v := s2.freshBytes pa n
          if v.2 then .excIn (s2.caClear (lineOfAddr pa)) (excCheck pa) else .ok (v.1, s2)
    else s.readCached lc pa n

/-! ### Writing -/

/-- A cached store enters the store buffer and leaves it at its release, at once when the slot owns its line and no
earlier store waits (R243, R247); it waits for dispatch while the buffer is full. -/
def State.writeCached (s : State) (lc : Lc) (pa : Nat) (bs : List Byte) : Res (State × Bool) :=
  let l := s.lc lc.val
  let line := lineOfAddr pa
  match l.host with
  | none => .wait
  | some sl =>
    if l.storeBuf.length ≥ 128 then .wait
    else
      let s0 := if s.cacheErr sl line then (s.cacheMeet sl line).1 else s
      let s1 := if (s0.holder sl.val).side.any fun p => p.line = line then
          (s0.modHolder sl.val fun h => h.promote line false).evictResv sl
        else s0
      let s2 := s1.modLc lc.val fun c => { c with storeBuf := c.storeBuf ++ [⟨pa, bs⟩] }
      let s3 := if (s2.holder sl.val).owns line then s2 else s2.issueReq (.slot sl) line (s2.ownKind sl line)
      .ok (s3.drainSlot sl, true)

/-- Uncached write of bytes inside one line: a partial INV_WRITE after every earlier access (R119, R296). -/
def State.writeUncached (s : State) (lc : Lc) (pa : Nat) (bs : List Byte) : Res (State × Bool) :=
  ((s.synced lc).bind fun s1 =>
    s1.uncached lc pa .invWrite fun s2 =>
      .ok ([], s2.invWriteLine (.core lc) (lineOfAddr pa) (pa % 128) bs)).map fun r => (r.2, true)

/-- Write bytes inside one line at a physical address that every check has passed.  `false`: the write is held at a
queue manager, and the instruction with it (R340). -/
def State.writeAt (s : State) (lc : Lc) (pa : Nat) (bs : List Byte) (unc : Bool) : Res (State × Bool) :=
  match s.place pa with
  | .control =>
    (s.synced lc).bind fun s0 =>
      let s1 : State := { s0 with resps := s0.resps.filter fun e => e.1 ≠ .core lc }
      let s2 := s1.csWrite (.core lc) pa bs.length (BitVec.ofNat 64 (leNat bs))
      (match s2.respOf (.core lc) with
       | none => .waitIn s2
       | some .error => .exc (excBus pa)
       | some .frozen => .freeze pa
       | some .held => .ok (s2.modLc lc.val fun c => { c with ioWait := some pa }, false)
       | _ => .ok (s2, true))
  | .pcie p =>
    if (s.port p.val).st == .active then (s.synced lc).map fun s1 => (s1, true) else .exc (excBus pa)
  | .bell _ | .nowhere => .exc (excBus pa)
  | _ =>
    if !s.memReachable pa then .exc (excBus pa)
    else if unc then s.writeUncached lc pa bs
    else s.writeCached lc pa bs

/-- The held write of the word at `pc` has been answered: the word retires by `fin`, or takes BUS_ERROR (R26, R340). -/
def State.ioResume (s : State) (lc : Lc) (w : BitVec 32) (fin : LCore → LCore) : State :=
  let l := s.lc lc.val
  match l.ioWait with
  | none => s
  | some pa =>
    if !(s.coresRun && l.executes) then s
    else
      match s.respOf (.core lc) with
      | some .held => s
      | some .error => (s.setLc lc.val { l with ioWait := none }).takeExc lc w { code := 0x10, addr := pa, access := 3 }
      | _ =>
        let l1 := { (fin l) with ioWait := none }
        s.setLc lc.val (if l.fpPend then l1.countFp else l1)

/-! ### Loads (R100, Table 4.4) -/

/-- Bytes and major opcode of a load. -/
def loadBytes : LoadOp → Nat
  | .ldb | .ldbu => 1 | .ldh | .ldhu => 2 | .ldw | .ldwu => 4 | .ldd | .lddf => 8 | .ldqf => 16
def loadMajor : LoadOp → Nat
  | .ldb => 0x10 | .ldh => 0x11 | .ldw => 0x12 | .ldd => 0x13 | .ldbu => 0x14 | .ldhu => 0x15 | .ldwu => 0x16
  | .ldqf => 0x17 | .lddf => 0x1D

/-- Bytes and major opcode of a store. -/
def storeBytes : StoreOp → Nat
  | .stb => 1 | .sth => 2 | .stw => 4 | .std | .stdf => 8 | .stqf => 16
def storeMajor : StoreOp → Nat
  | .stb => 0x18 | .sth => 0x19 | .stw => 0x1A | .std => 0x1B | .stqf => 0x1C | .stdf => 0x1E

/-- The word of a memory form: layout M, or major 0x21 with its two minors, doubleword and word. -/
def encMem (major minorD minorW : Nat) : MemForm → BitVec 32
  | .disp t a d => encI major t.val a.val d.toNat
  | .index t a b sh word => encR 0x21 t.val a.val b.val sh.val (if word then minorW else minorD)

/-- The operation that a form runs: LDXD and LDXW are LDD and LDW at an indexed offset. -/
def loadForm (op : LoadOp) : MemForm → LoadOp
  | .disp _ _ _ => op
  | .index _ _ _ _ word => if word then .ldw else .ldd
def storeForm (op : StoreOp) : MemForm → StoreOp
  | .disp _ _ _ => op
  | .index _ _ _ _ word => if word then .stw else .std

/-- A load's result goes to its register (Table 4.4, R85). -/
def LCore.loadInto (l : LCore) (op : LoadOp) (t : Reg) (bs : List Byte) : LCore :=
  let n := leNat bs
  match op with
  | .ldb => l.wg t ((BitVec.ofNat 8 n).signExtend 64)
  | .ldh => l.wg t ((BitVec.ofNat 16 n).signExtend 64)
  | .ldw => l.wg t ((BitVec.ofNat 32 n).signExtend 64)
  | .ldd | .ldbu | .ldhu | .ldwu => l.wg t (BitVec.ofNat 64 n)
  | .ldqf | .lddf => l.wf t (BitVec.ofNat 128 n)

/-- The bytes a store writes. -/
def LCore.storeData (l : LCore) (op : StoreOp) (t : Reg) : List Byte :=
  match op with
  | .stqf | .stdf => leBytes (storeBytes op) (l.rf t).toNat
  | _ => leBytes (storeBytes op) (l.rg t).toNat

/-- A read of `n` bytes by the instruction at `pc`, at an offset of a descriptor: the bytes, and the state in which
they have been read. -/
def State.dataRead (s : State) (lc : Lc) (l : LCore) (d : Quad) (off : Word) (n : Nat) : Res (List Byte × State) :=
  ((s.dataAddr lc l d off n needR).bind fun r =>
    let s1 := s.setLc lc.val r.2.2
    (s1.readAt lc r.1 n r.2.1).inState s1).tag 2

/-- A write of bytes by the instruction at `pc`. -/
def State.dataWrite (s : State) (lc : Lc) (l : LCore) (d : Quad) (off : Word) (bs : List Byte) : Res (State × Bool) :=
  ((s.dataAddr lc l d off bs.length needW).bind fun r =>
    let s1 := s.setLc lc.val r.2.2
    (s1.writeAt lc r.1 bs r.2.1).inState s1).tag 3

/-- The effect of a load. -/
def State.loadEffect (s : State) (lc : Lc) (op : LoadOp) (form : MemForm) (l : LCore) : Res State :=
  let o := loadForm op form
  (s.dataRead lc l (l.rs (memBase form)) (l.memOffset form) (loadBytes o)).map fun r =>
    r.2.modLc lc.val fun c => (c.loadInto o (memData form) r.1).next

/-- LDB to LDQF, LDDF, LDXD, LDXW, with what the replicas and codes report as it retires (R210; Table 9.3). -/
def State.load (s : State) (lc : Lc) (op : LoadOp) (form : MemForm) (ev : RetireEvent) : State :=
  let w := encMem (loadMajor op) 0 2 form
  if ev ≠ .ok && s.ready lc && (s.loadEffect lc op form (s.lc lc.val)).retires then
    (match s.retireEvent lc ev with
     | (s1, .retire) => s1.runInstr lc w fun s l => s.loadEffect lc op form l
     | (s1, .check pa) => s1.takeExc lc w { code := 0x11, addr := pa, access := 2 }).settleMode
  else s.runInstr lc w fun s l => s.loadEffect lc op form l

/-- LOAD (R100 to R110, R116, R119, R242). -/
def execLoad (lc : Lc) (op : LoadOp) (form : MemForm) (ev : RetireEvent) (s : State) : Outcome State Fault Refusal :=
  .next (s.load lc op form ev)

/-! ### Stores (R100, R243) -/

/-- The effect of a store. -/
def State.storeEffect (s : State) (lc : Lc) (op : StoreOp) (form : MemForm) (l : LCore) : Res (State × Bool) :=
  let o := storeForm op form
  (s.dataWrite lc l (l.rs (memBase form)) (l.memOffset form) (l.storeData o (memData form))).map fun r =>
    (if r.2 then r.1.modLc lc.val LCore.next else r.1, r.2)

/-- STORE (R100 to R110, R116, R119, R243). -/
def execStore (lc : Lc) (op : StoreOp) (form : MemForm) (s : State) : Outcome State Fault Refusal :=
  let w := encMem (storeMajor op) 1 3 form
  .next (if (s.lc lc.val).ioWait.isSome then s.ioResume lc w LCore.next
    else s.runMem lc w fun s l => s.storeEffect lc op form l)

/-! ### Atomics (Table 5.5, R136 to R138, R291 to R293) -/

def atomicMinor : AtomicOp → Nat
  | .tas => 0 | .fadd => 3 | .swap => 4 | .cas => 5 | .amin => 6 | .amax => 7

/-- The value an atomic leaves at M: `x` GB, `c` GC. -/
def atomicNew (op : AtomicOp) (m x c : Word) : Word :=
  match op with
  | .tas => m ||| 1
  | .fadd => m + x
  | .swap => x
  | .cas => if m = c then x else m
  | .amin => if x.slt m then x else m
  | .amax => if m.slt x then x else m

/-- The word of an atomic with fields D, A, B, C. -/
def encAtomic (op : AtomicOp) (d a b c : Reg) : BitVec 32 :=
  encR 0x20 d.val a.val b.val c.val (atomicMinor op)

/-- The atomic goes to the home slice: uncached, or a contended line (R138, R292). -/
def LCore.goesFar (l : LCore) (line : LineNo) (unc : Bool) : Bool :=
  unc || 2 ≤ (Table.get 0 l.contention (predIndex line)).toNat

/-- Send an atomic to the home slice (R292). -/
def State.sendFar (s : State) (lc : Lc) (sl : Slot) (f : FarReq) : State :=
  let r : Requester := .slot sl
  let line := lineOfAddr f.addr
  ((s.modLc lc.val fun c => { c with far := some f }).dropReq r line).issueReq r line .farAtomic

/-- A near atomic, the earlier accesses complete (R291, R292). -/
def State.nearAtomic (s0 : State) (lc : Lc) (sl : Slot) (f : FarReq) : Res (State × Bool) :=
  (s0.meetLine sl (lineOfAddr f.addr)).bind fun s =>
  let line := lineOfAddr f.addr
  let o := f.addr % 128
  if !s.canOwn sl line then .ok (s.issueReq (.slot sl) line (s.ownKind sl line), false)
  else
    let wasM : Bool := (s.holder sl.val).stateOf line = some .m
    let s1 := s.ownLine sl line
    let v := ((s1.holder sl.val).dataOf line).getD (0, false)
    if v.2 then .excIn s1 (excCheck f.addr)
    else
      let m : Word := BitVec.ofNat 64 (leNat ((List.range 8).map fun i => lineByte v.1 (o + i)))
      let new := atomicNew f.op m f.operand f.compare
      let s2 := s1.modHolder sl.val fun h => (h.write line o (leBytes 8 new.toNat)).use line false
      let down (c : LCore) : LCore := if wasM then c.predict line false else c
      .ok (s2.modLc lc.val fun c => ((down c).wg f.d m).next, true)

/-- TAS, FADD, SWAP, CAS, AMIN, AMAX on the 8 B at offset GA in segment SA. -/
def State.atomicEffect (s : State) (lc : Lc) (op : AtomicOp) (d a b c : Reg) (l : LCore) : Res (State × Bool) :=
  ((s.dataAddr lc l (l.rs a) (l.rg a) 8 needRW).bind fun r =>
    let pa := r.1
    let s0 := s.setLc lc.val r.2.2
    let f : FarReq := { op := op, d := d, addr := pa, operand := l.rg b, compare := l.rg c
                        word := encAtomic op d a b c, uncached := r.2.1, nacked := false }
    match s0.place pa, l.host with
    | .pcie p, _ =>
      if (s0.port p.val).st == .active then
        (s0.synced lc).map fun s1 =>
          let v := s1.drawBytes 8
          (v.2.modLc lc.val fun c => (c.wg d (BitVec.ofNat 64 (leNat v.1))).next, true)
      else .exc (excBus pa)
    | .control, _ | .bell _, _ | .nowhere, _ | _, none => .exc (excBus pa)
    | _, some sl =>
      if !s0.memReachable pa then .exc (excBus pa)
      else
        (s0.synced lc).bind fun s1 =>
          if l.goesFar (lineOfAddr pa) f.uncached then .ok (s1.sendFar lc sl f, false) else s1.nearAtomic lc sl f).tag 4

def State.atomic (s : State) (lc : Lc) (op : AtomicOp) (d a b c : Reg) : State :=
  s.runMem lc (encAtomic op d a b c) fun s l => s.atomicEffect lc op d a b c l

/-- TAS. -/
def execTas (lc : Lc) (d a : Reg) (s : State) : Outcome State Fault Refusal := .next (s.atomic lc .tas d a 0 0)
/-- FADD of major 0x20. -/
def execAtomicFadd (lc : Lc) (d a b : Reg) (s : State) : Outcome State Fault Refusal := .next (s.atomic lc .fadd d a b 0)
/-- SWAP. -/
def execSwap (lc : Lc) (d a b : Reg) (s : State) : Outcome State Fault Refusal := .next (s.atomic lc .swap d a b 0)
/-- CAS. -/
def execCas (lc : Lc) (d a b c : Reg) (s : State) : Outcome State Fault Refusal := .next (s.atomic lc .cas d a b c)
/-- AMIN. -/
def execAmin (lc : Lc) (d a b : Reg) (s : State) : Outcome State Fault Refusal := .next (s.atomic lc .amin d a b 0)
/-- AMAX. -/
def execAmax (lc : Lc) (d a b : Reg) (s : State) : Outcome State Fault Refusal := .next (s.atomic lc .amax d a b 0)

/-- The home slice performs a far atomic that it admits: SNP_INV to every holder, the operation on the freshest data,
the line kept in the basin, the old value returned (R260, R293); on uncached memory nothing is allocated (R138). -/
def State.farPerform (s : State) (lc : Lc) (h : Slice) (sl : Slot) (f : FarReq) : State :=
  let line := lineOfAddr f.addr
  let o := f.addr % 128
  let named : Bool := match s.sfGet h.val line with | some e => e.loc ≠ 0 || e.remote ≠ 0 | none => false
  let s0 := ((s.homeArrive line).sfMake h line).maintTouch line
  let v := s0.freshest line
  let held := s0.slotsWith line
  let s1 := held.foldl (fun (s : State) x => ((s.endHold x).snoop x line .inv true).1) s0
  let done (s : State) : State :=
    (((s.sfMod h.val line fun e => { (e.invalidated held) with pin := false }).clearResvs line none).caClear line).modLc lc.val fun c =>
      { c with far := none }
  if v.2 then (done s1).takeExc lc f.word { code := 0x11, addr := f.addr, access := 4 }
  else
    let m : Word := BitVec.ofNat 64 (leNat ((List.range 8).map fun i => lineByte v.1 (o + i)))
    let bs := leBytes 8 (atomicNew f.op m f.operand f.compare).toNat
    let s2 :=
      if f.uncached then s1.invWriteLine (.core lc) line o bs
      else (s1.basinFill line (lineWrite v.1 o bs) true false (s1.slotWays sl (h.val / 6)) 1 0).victimSettle line
    let sole : Bool := !named && !f.nacked
    let fin (s : State) : State := s.modLc lc.val fun c =>
      let c1 := if sole then c.predict line false else c
      let c2 := (c1.wg f.d m).next
      if c2.fpPend then c2.countFp else c2
    let s3 := done s2
    s3.voted lc (s3.retireRec lc f.word (.ok (fin s3))) fun s => s.retired lc (fin s)

/-- FAR_ATOMIC reaches its home slice (R282 to R285, R293, R303). -/
def State.farAtomic (s : State) (lc : Lc) (ev : BasinEvent) : State :=
  let l := s.lc lc.val
  match l.far, l.host with
  | some f, some sl =>
    let line := lineOfAddr f.addr
    let r : Requester := .slot sl
    if (s.outReq r line).any fun o => o.nacked then s
    else
      let fail : State := ((s.dropReq r line).modLc lc.val fun c => { c with far := none }).takeExc lc f.word
        { code := 0x10, addr := f.addr, access := 4 }
      match s.homeSlice line with
      | none => fail
      | some h =>
        if !s.memReachable f.addr then fail
        else
          let ways := s.slotWays sl (h.val / 6)
          if s.refuses h.val line r .farAtomic || s.sfFull h.val line || s.sfHeld h.val r line then
            (s.modLc lc.val fun c => { c with far := some { f with nacked := true } }).nack h r line .farAtomic
              (!s.refuses h.val line r .farAtomic && s.sfFull h.val line)
          else if s.sfWaits h.val line || s.homeWaits line then s
          else if !f.uncached && s.fillWaits line ways then s.waitFill line
          else if !f.uncached && s.fillStuck line ways then s
          else (((((s.unstarve h.val line r).dropReq r line).sfTouch line).basinMeet line).basinRead line ev).farPerform lc h sl f
  | _, _ => s

/-- FAR_ATOMIC (R293); the request leaves the group by the vote of its replicas, and the errors of the line's holders are
met (R212, R254). -/
def execFarAtomic (lc : Lc) (ev : BasinEvent) (s : State) : Outcome State Fault Refusal :=
  .next (match (s.lc lc.val).far, (s.lc lc.val).host with
    | some f, some sl =>
      let line := lineOfAddr f.addr
      if (s.outReq (.slot sl) line).any fun o => o.nacked then s
      else s.leaves sl fun s => s.lineMet (s.slotsWith line) line fun s => s.farAtomic lc ev
    | _, _ => s)

/-! ### Reservations (R138 to R141) -/

/-- LDRES: the line is taken in E or M and held; uncached memory sets no reservation. -/
def State.ldresEffect (s : State) (lc : Lc) (d a : Reg) (l : LCore) : Res (State × Bool) :=
  ((s.dataAddr lc l (l.rs a) (l.rg a) 8 needR).bind fun r =>
    let pa := r.1
    let line := lineOfAddr pa
    let s0 := s.setLc lc.val r.2.2
    let plain (x : List Byte × State) : State × Bool :=
      (x.2.modLc lc.val fun c => (c.wg d (BitVec.ofNat 64 (leNat x.1))).next, true)
    match s0.place pa, l.host with
    | .pcie _, _ => (s0.readAt lc pa 8 true).map plain
    | .control, _ | .bell _, _ | .nowhere, _ | _, none => .exc (excBus pa)
    | _, some sl =>
      if !s0.memReachable pa then .exc (excBus pa)
      else if r.2.1 then (s0.readAt lc pa 8 true).map plain
      else if !s0.canOwn sl line then .ok (s0.issueReq (.slot sl) line (s0.ownKind sl line), false)
      else
        (((s0.ownLine sl line).readCached lc pa 8).map plain).map fun x =>
          (x.1.modLc lc.val fun c => { c with resv := some line, resvHold := true }, true)).tag 2

/-- LDRES (R136, R138, R139, R141). -/
def execLdres (lc : Lc) (d a : Reg) (s : State) : Outcome State Fault Refusal :=
  .next (s.runMem lc (encR 0x20 d.val a.val 0 0 1) fun s l => s.ldresEffect lc d a l)

/-- STCND: every check first, then the reservation; a success stores in order after the earlier stores. -/
def State.stcndEffect (s : State) (lc : Lc) (d a b : Reg) (l : LCore) : Res (State × Bool) :=
  ((s.dataAddr lc l (l.rs a) (l.rg a) 8 needW).bind fun r =>
    let pa := r.1
    let line := lineOfAddr pa
    let s0 := s.setLc lc.val r.2.2
    let fail (s : State) : State × Bool := (s.modLc lc.val fun c => (c.wg d 1).clearResv.next, true)
    match s0.place pa, l.host with
    | .pcie _, _ => .ok (fail s0)
    | .control, _ | .bell _, _ | .nowhere, _ | _, none => .exc (excBus pa)
    | _, some sl =>
      if !s0.memReachable pa then .exc (excBus pa)
      else if r.2.1 then .ok (fail s0)
      else
        (s0.synced lc).bind fun s1 =>
          if (s1.lc lc.val).resv ≠ some line then .ok (fail s1)
          else if !s1.canOwn sl line then .ok (s1.issueReq (.slot sl) line (s1.ownKind sl line), false)
          else (s1.meetLine sl line).bind fun s2 =>
            let s3 := (s2.ownLine sl line).modHolder sl.val fun h =>
              (h.write line (pa % 128) (leBytes 8 (l.rg b).toNat)).use line false
            .ok (s3.modLc lc.val fun c => (c.wg d 0).clearResv.next, true)).tag 3

/-- STCND (R136, R138, R139). -/
def execStcnd (lc : Lc) (d a b : Reg) (s : State) : Outcome State Fault Refusal :=
  .next (s.runMem lc (encR 0x20 d.val a.val b.val 0 2) fun s l => s.stcndEffect lc d a b l)

/-- 256 core cycles after LDRES the hold ends; the reservation stays (R141). -/
def execReservationHoldExpiry (lc : Lc) (s : State) : Outcome State Fault Refusal :=
  .next (if (s.lc lc.val).resvHold then s.modLc lc.val fun c => { c with resvHold := false } else s)

/-! ### LSEG (R101) -/

/-- LSEG: the count of SEGTAB1, then a 16 B read with S-level rights at least, then the descriptor's checks. -/
def State.lsegEffect (s : State) (lc : Lc) (sn a : Reg) (l : LCore) : Res State :=
  let ga := l.rg a
  if bits l.bank.segtab1 16 0 ≤ ga.toNat then .exc (excSeg 0x05 (Config.segRightsAddr ga 0).toNat)
  else
    let la := bits l.bank.segtab0 56 4 * 16 + 16 * ga.toNat
    let lr : LCore := if l.level = 0 then { l with psw := setBits l.psw 1 0 1 } else l
    (((s.translateAt lc lr la needR).bind fun r =>
      if s.fwPass (.core lc) r.1 16 needR then
        (s.setLc lc.val { l with tlb := r.2.2.tlb, walked := r.2.2.walked }).readAt lc r.1 16 r.2.1
      else .freeze r.1).tag 2).bind fun x =>
        let d : Quad := BitVec.ofNat 128 (leNat x.1)
        (l.descCheck ga d).map fun _ => x.2.modLc lc.val fun c => (c.ws sn d).next

/-- LSEG. -/
def execLseg (lc : Lc) (sn a : Reg) (s : State) : Outcome State Fault Refusal :=
  .next (s.runInstr lc (encR 0x22 sn.val a.val 0 0 0) fun s l => s.lsegEffect lc sn a l)

end Sys2Proof.Machine
end

