-- ==== Sys2Proof/Machine/CohCmd.lean ====
section
/-! DEFINITION. The commands of chapter 10: requests, snoops and their answers, evictions, and the requests of agents
without caches.  What leaves a group passes the vote of its replicas (R209, R212), and a cache error on the line is met
(R254). -/

namespace Sys2Proof.Machine

open Host (Outcome)

/-! ### Requests of the slots -/

/-- READ_SHARED (R241, R276, R279): a confirmed load that missed, or the confirmed fetch of the word that the slot's core has
come to, from a cacheable page. -/
def execReadShared (slot : Slot) (line : LineNo) (ev : BasinEvent) (s : State) : Outcome State Fault Refusal :=
  let fetch : Bool := match s.slotLc slot with
    | some lc => (s.outReq (.slot slot) line).isNone && s.lcRuns lc && ((s.holder slot.val).stateOf line).isNone &&
        (match s.fetchTarget lc (s.lc lc.val) (s.lc lc.val).pc.toNat with
         | .ok (pa, unc) => lineOfAddr pa = line && !unc && (s.place pa).isMemory
         | _ => false)
    | none => false
  let due := s.ringsRun && (fetch || (s.outReq (.slot slot) line).any fun o => o.kind == .readShared && !o.nacked)
  .next (if due then s.leaves slot fun s =>
      (s.issue { newReq (.slot slot) line .readShared with fetch := fetch }).slotRequest slot line .readShared ev
    else s)

/-- PREFETCH (R249, R279). -/
def execPrefetch (slot : Slot) (line : LineNo) (ev : BasinEvent) (s : State) : Outcome State Fault Refusal :=
  let due := ((s.holder slot.val).pfReqs.any fun r => r.line = line) &&
    !((s.outReq (.slot slot) line).any fun o => o.nacked)
  .next (if due then s.leaves slot fun s => s.slotRequest slot line .prefetch ev else s)

/-- READ_OWN (R276, R279). -/
def execReadOwn (slot : Slot) (line : LineNo) (ev : BasinEvent) (s : State) : Outcome State Fault Refusal :=
  let due := (s.outReq (.slot slot) line).any fun o => o.kind == .readOwn && !o.nacked
  .next (if due then s.leaves slot fun s => s.slotRequest slot line .readOwn ev else s)

/-- UPGRADE (R276): handled as READ_OWN when the slot no longer holds the line. -/
def execUpgrade (slot : Slot) (line : LineNo) (s : State) : Outcome State Fault Refusal :=
  let due := (s.outReq (.slot slot) line).any fun o => (o.kind == .upgrade || o.kind == .readOwn) && !o.nacked
  .next (if due then s.leaves slot fun s => s.slotRequest slot line .upgrade .ok else s)

/-- WRITEBACK (R276, R282). -/
def execWriteback (slot : Slot) (line : LineNo) (s : State) : Outcome State Fault Refusal :=
  let due := (s.holder slot.val).evict.any fun c => c.line = line && (c.st == .m || c.st == .o)
  .next (if due then s.leaves slot fun s => s.lineMet [slot] line fun s => s.writeback slot line else s)

/-- EVICT_CLEAN (R275, R276). -/
def execEvictClean (slot : Slot) (line : LineNo) (s : State) : Outcome State Fault Refusal :=
  let due := (s.holder slot.val).evict.any fun c => c.line = line && (c.st == .e || c.st == .s)
  .next (if due then s.leaves slot fun s => s.evictClean slot line else s)

/-! ### Agents without caches (R294, R295) -/

/-- A request of a master reaches the home slice of the line at `a`: checked at the exit point (R58), answered with
an error when its home is out of reach, NACKed while the line is taken, else performed by `k`, the errors of the line's
holders met. -/
def State.agentRequest (s : State) (m : Master) (a need n : Nat) (kind : ReqKind) (k : State → State) : State :=
  let l := lineOfAddr a
  if (s.outReq (s.requester m) l).any fun o => o.nacked then s
  else if !s.fwPass m a n need then (s.freezeMaster m (s.fwDenied m a n need)).respond m .frozen
  else if !s.memReachable a then s.respond m .error
  else s.admitMaster m [⟨a, n, kind⟩] fun s => s.lineMet (s.slotsWith l) l k

/-- PEEK (R294): the bytes that lie in one line. -/
def execPeek (m : Master) (addr : Word) (size : Nat) (ev : BasinEvent) (s : State) : Outcome State Fault Refusal :=
  let a := addr.toNat
  let n := min (max size 1) (128 - a % 128)
  .next (if !s.ringsRun then s
    else s.agentRequest m a needR n .peek fun s =>
      let s1 := s.basinRead (lineOfAddr a) ev
      let v := s1.freshBytes a n
      s1.respond m (if v.2 then .poison else .bytes v.1))

/-- INV_WRITE (R295): the bytes that lie in one line. -/
def execInvWrite (m : Master) (addr : Word) (data : List Byte) (s : State) : Outcome State Fault Refusal :=
  let a := addr.toNat
  let bs := data.take (128 - a % 128)
  .next (if !s.ringsRun || bs.isEmpty then s
    else s.agentRequest m a needW bs.length .invWrite fun s =>
      (s.invWriteLine m (lineOfAddr a) (a % 128) bs).respond m .ok)

/-- CANCEL (R285, R287). -/
def execCancel (r : Requester) (line : LineNo) (s : State) : Outcome State Fault Refusal :=
  .next (match s.outReq r line, s.homeSlice line with
    | some o, some h => if o.nacked then (s.dropReq r line).unstarve h.val line r else s
    | some o, none => if o.nacked then s.dropReq r line else s
    | none, _ => s)

/-- COMPLETE (R280). -/
def execComplete (r : Requester) (line : LineNo) (s : State) : Outcome State Fault Refusal := .next (s.completeTxn r line)

/-- A NACKed request is sent again (R284); one whose instruction was discarded never is (R287). -/
def execNackResend (r : Requester) (line : LineNo) (s : State) : Outcome State Fault Refusal :=
  .next { s with outReqs := s.outReqs.map fun (o : Outstanding) =>
    if o.req = r ∧ o.line = line ∧ !o.dropped then { o with nacked := false } else o }

/-! ### Snoops and their answers -/

/-- A snoop reaches a slot: a cache error on the line is met, and the answer leaves the group (R277, R278). -/
def State.snoopCmd (s : State) (sl : Slot) (l : LineNo) (k : Snoop) : State :=
  let due := (s.homeSlice l).any fun h => s.snoopDue h sl l k
  if due then s.leaves sl fun s => s.lineMet [sl] l fun s => s.snoopArrive sl l k else s

/-- SNP_SHARE reaches a slot (Table 10.3, R286). -/
def execSnpShare (slot : Slot) (line : LineNo) (s : State) : Outcome State Fault Refusal := .next (s.snoopCmd slot line .share)
/-- SNP_INV reaches a slot (Table 10.3, R286, R291). -/
def execSnpInv (slot : Slot) (line : LineNo) (s : State) : Outcome State Fault Refusal := .next (s.snoopCmd slot line .inv)
/-- SNP_CLEAN reaches a slot. -/
def execSnpClean (slot : Slot) (line : LineNo) (s : State) : Outcome State Fault Refusal := .next (s.snoopCmd slot line .clean)
/-- SNP_PEEK reaches a slot. -/
def execSnpPeek (slot : Slot) (line : LineNo) (s : State) : Outcome State Fault Refusal := .next (s.snoopCmd slot line .peek)
/-- SNP_PROBE reaches a slot. -/
def execSnpProbe (slot : Slot) (line : LineNo) (s : State) : Outcome State Fault Refusal := .next (s.snoopCmd slot line .probe)
/-- SNP_RECOVER reaches a slot: every holder returns its copy, which is written to memory. -/
def execSnpRecover (slot : Slot) (line : LineNo) (s : State) : Outcome State Fault Refusal :=
  .next (s.snoopCmd slot line .recover)

/-- A snoop answer reaches the home slice (R275, R279, R283, R286, R289). -/
def execSnoopAnswer (slot : Slot) (line : LineNo) (s : State) : Outcome State Fault Refusal :=
  .next (s.answerArrive slot line)

/-- An action of a maintenance engine, the errors of the line's holders and of the basin met (R265, R267). -/
def execMaintAction (sl : Slice) (line : LineNo) (s : State) : Outcome State Fault Refusal :=
  .next ((s.basinMeet line).lineMet (s.slotsWith line) line fun s => s.maintAction sl line)

/-- RECLAIM_DONE (R299). -/
def execReclaimDone (t : Ct) (s : State) : Outcome State Fault Refusal := .next (s.reclaimDone t)

/-- A write queue accepts a dirty basin victim (R263). -/
def execVictimAccepted (sl : Slice) (st : State) : Outcome State Fault Refusal := .next (st.victimAccept sl.val)

/-- COH_BRLOG_READ (R306). -/
def execCohBrlogRead (m : Master) (t : Ct) (s : State) : Outcome State Fault Refusal := .next (s.brlogR m t)

end Sys2Proof.Machine
end

