-- ==== Sys2Proof/Machine/Flags.lean ====
section
/-! DEFINITION. The integer operations with their results and flags (R124 to R134), as functions of the operands:
exact arithmetic over the integers, narrowed once. -/

namespace Sys2Proof.Machine

/-- MIN = 0x8000_0000_0000_0000. -/
def minInt : Word := 0x8000000000000000

/-- The exact signed value lies outside −2^63 to 2^63 − 1 (R124). -/
def signedOver (x : Int) : Bool := x < -(2 ^ 63 : Nat) || (2 ^ 63 : Nat) ≤ x

/-- What an integer operation gives: its 64-bit result, and the flags it updates from the current ones. -/
structure IntRes where
  r : Word
  flags : FlagBits
  deriving DecidableEq, Repr

/-- N and Z of a result (R124). -/
def nz (r : Word) (f : FlagBits) : FlagBits := { f with n := r.msb, z := r == 0 }

/-- ADD, ADDI (R125, Table 5.1). -/
def intAdd (a b : Word) (f : FlagBits) : IntRes :=
  let r := a + b
  ⟨r, { nz r f with c := decide (2 ^ 64 ≤ a.toNat + b.toNat), ov := signedOver (a.toInt + b.toInt) }⟩

/-- SUB: C is the borrow. -/
def intSub (a b : Word) (f : FlagBits) : IntRes :=
  let r := a - b
  ⟨r, { nz r f with c := decide (a.toNat < b.toNat), ov := signedOver (a.toInt - b.toInt) }⟩

/-- NEG: 0 − GA; C when the operand is not 0. -/
def intNeg (a : Word) (f : FlagBits) : IntRes :=
  let r := -a
  ⟨r, { nz r f with c := a != 0, ov := signedOver (-a.toInt) }⟩

def intLogic (op : LogicOp) (a b : Word) (f : FlagBits) : IntRes :=
  let r := match op with
    | .and => a &&& b
    | .or => a ||| b
    | .xor => a ^^^ b
    | .not => ~~~ a
  ⟨r, nz r f⟩

/-- Left shift by the whole count (R127). -/
def intShl (x c : Word) (f : FlagBits) : IntRes :=
  let n := c.toNat
  let r : Word := if n ≤ 63 then x <<< n else 0
  let cf := if n = 0 then false else if n ≤ 64 then x.getLsbD (64 - n) else false
  let ov := if n ≤ 63 then (r.sshiftRight n) != x else x != 0
  ⟨r, { nz r f with c := cf, ov := ov }⟩

def intShr (x c : Word) (f : FlagBits) : IntRes :=
  let n := c.toNat
  let r : Word := if n ≤ 63 then x >>> n else 0
  let cf := if n = 0 then false else if n ≤ 64 then x.getLsbD (n - 1) else false
  ⟨r, { nz r f with c := cf }⟩

def intSar (x c : Word) (f : FlagBits) : IntRes :=
  let n := c.toNat
  let r : Word := if n ≤ 63 then x.sshiftRight n else if x.msb then BitVec.allOnes 64 else 0
  let cf := if n = 0 then false else if n ≤ 63 then x.getLsbD (n - 1) else x.msb
  ⟨r, { nz r f with c := cf }⟩

def intShift (op : ShiftOp) (x c : Word) (f : FlagBits) : IntRes :=
  match op with
  | .shl => intShl x c f
  | .shr => intShr x c f
  | .sar => intSar x c f

/-- SHL is the one shift that may set OV. -/
def shiftOverflows : ShiftOp → Bool
  | .shl => true
  | _ => false

/-- ROL, ROR by the count modulo 64 (R128). -/
def intRotate (op : RotateOp) (x c : Word) (f : FlagBits) : IntRes :=
  let n := c.toNat % 64
  let r := match op with
    | .rol => x.rotateLeft n
    | .ror => x.rotateRight n
  ⟨r, nz r f⟩

/-- MUL, MULH, MULHU (R129). -/
def intMul (op : MulOp) (a b : Word) (f : FlagBits) : IntRes :=
  let u := a.toNat * b.toNat
  let sg : Int := a.toInt * b.toInt
  match op with
  | .mul => let r : Word := BitVec.ofNat 64 u
            ⟨r, { nz r f with c := decide (2 ^ 64 ≤ u), ov := signedOver sg }⟩
  | .mulh => let r : Word := BitVec.ofInt 64 (sg / (2 ^ 64 : Nat))
             ⟨r, { nz r f with c := false, ov := false }⟩
  | .mulhu => let r : Word := BitVec.ofNat 64 (u / 2 ^ 64)
              ⟨r, { nz r f with c := false, ov := false }⟩

/-- DIV, DIVU, REM, REMU for a divisor other than 0 (R130). -/
def intDiv (op : DivOp) (a b : Word) (f : FlagBits) : IntRes :=
  let r : Word := match op with
    | .div => BitVec.ofInt 64 (a.toInt.tdiv b.toInt)
    | .divu => BitVec.ofNat 64 (a.toNat / b.toNat)
    | .rem => BitVec.ofInt 64 (a.toInt.tmod b.toInt)
    | .remu => BitVec.ofNat 64 (a.toNat % b.toNat)
  let ov := match op with
    | .div => signedOver (a.toInt.tdiv b.toInt)
    | _ => false
  ⟨r, { nz r f with c := false, ov := ov }⟩

/-- One step of radix-4 restoring division, for a divisor whose low half is not 0 (R132). -/
def intDivstep (a b : Word) (f : FlagBits) : IntRes :=
  let rr := bits a 63 32
  let q0 := bits a 31 0
  let d := bits b 31 0
  let t := 4 * rr + q0 / 2 ^ 30
  let q := min 3 (t / d)
  ⟨BitVec.ofNat 64 ((t - q * d) % 2 ^ 32 * 2 ^ 32 + (q0 * 4 % 2 ^ 32 + q) % 2 ^ 32), { f with ov := decide (d ≤ rr) }⟩

def intCompare (op : CompareOp) (a b : Word) : Bool :=
  match op with
  | .eq => a == b
  | .lt => a.slt b
  | .ltu => a.ult b

def intMinMax (op : MinMaxOp) (a b : Word) : Word :=
  match op with
  | .min => if a.slt b then a else b
  | .max => if a.slt b then b else a
  | .minu => if a.ult b then a else b
  | .maxu => if a.ult b then b else a

/-- SEXTW, ZEXTW. -/
def extendW (signed : Bool) (a : Word) : Word :=
  let w : BitVec 32 := a.setWidth 32
  if signed then w.signExtend 64 else w.setWidth 64

/-- Write an integer result and its flags; with PSW.OVT set, an operation of R126 that would set OV raises OVERFLOW
instead and writes nothing. -/
def LCore.intWrite (l : LCore) (d : Reg) (traps : Bool) (x : IntRes) : Res LCore :=
  if traps && x.flags.ov && pswOvt l.psw then .exc { code := 0x0C } else .ok ((l.wg d x.r).setFlags x.flags)

/-! ### Timing in the two modes (R133, R134) -/

/-- Position of the highest 1 bit plus one. -/
def sig (x : Nat) : Nat := if x = 0 then 0 else x.log2 + 1

/-- Latency of a multiply in core cycles. -/
def mulLatency (sw3 : Bool) (a b : Nat) : Nat := if sw3 then 2 + (min (sig a) (sig b) + 31) / 32 else 4

/-- Latency of a divide in core cycles. -/
def divLatency (sw3 : Bool) (a b : Nat) : Nat := if sw3 then 8 + (sig a + 1 - sig b + 1) / 2 else 40

end Sys2Proof.Machine
end

