-- ==== Sys2Proof/Machine/Fp.lean ====
section
/-! DEFINITION. Floating-point arithmetic (chapter 6): formats, decoding and encoding (binary interchange and densely
packed decimal), one rounding of an exact value, and every operation as a function of its operand bits.  Exact values
are integers scaled by a power of the radix; nothing is rounded twice. -/

namespace Sys2Proof.Machine

/-! ### Formats (Table 6.1) -/

structure Fmt where
  dec : Bool
  /-- Width in bits. -/
  n : Nat
  /-- Precision in bits or digits. -/
  p : Nat
  emax : Nat
  deriving DecidableEq, Repr

def b16 : Fmt := ⟨false, 16, 11, 15⟩
def b32 : Fmt := ⟨false, 32, 24, 127⟩
def b64 : Fmt := ⟨false, 64, 53, 1023⟩
def b128 : Fmt := ⟨false, 128, 113, 16383⟩
def d32 : Fmt := ⟨true, 32, 7, 96⟩
def d64 : Fmt := ⟨true, 64, 16, 384⟩
def d128 : Fmt := ⟨true, 128, 34, 6144⟩

/-- FMT codes (R143). -/
def fmtOfCode (c : Nat) : Option Fmt := [b16, b32, b64, b128, d32, d64, d128][c]?

def arithFmt : ArithFmt → Fmt
  | .b16 => b16 | .b32 => b32 | .b64 => b64 | .b128 => b128 | .d64 => d64 | .d128 => d128

/-- Majors 0x30 to 0x35 (R145). -/
def arithMajor : ArithFmt → Nat
  | .b16 => 0x30 | .b32 => 0x31 | .b64 => 0x32 | .b128 => 0x33 | .d64 => 0x34 | .d128 => 0x35

def Fmt.emin (f : Fmt) : Int := 1 - (f.emax : Int)
/-- Exponent of the least digit of the smallest subnormal. -/
def Fmt.etiny (f : Fmt) : Int := f.emin - f.p + 1
/-- Exponent of the last digit of the largest finite value. -/
def Fmt.etop (f : Fmt) : Int := (f.emax : Int) - f.p + 1
def Fmt.radix (f : Fmt) : Nat := if f.dec then 10 else 2
/-- Fraction bits of a binary format; trailing significand bits of a decimal format. -/
def Fmt.frac (f : Fmt) : Nat := if f.dec then (f.p - 1) / 3 * 10 else f.p - 1
/-- Exponent field bits of a binary format; exponent continuation bits of a decimal format. -/
def Fmt.ebits (f : Fmt) : Nat := if f.dec then f.n - 6 - f.frac else f.n - f.p

/-! ### Values -/

/-- A datum: NaN with sign, signalling, payload; infinity; or sign × coefficient × radix^exponent. -/
inductive FVal where
  | nan (sign sig : Bool) (payload : Nat)
  | inf (sign : Bool)
  | num (sign : Bool) (c : Nat) (e : Int)
  deriving DecidableEq, Repr

/-! ### Exceptions, in FPSR bit order (R151) -/

def fIV : Nat := 16
def fDZ : Nat := 8
def fOF : Nat := 4
def fUF : Nat := 2
def fIX : Nat := 1

/-- Rounding directions (Table 6.5). -/
inductive Round where | rne | rtz | rtp | rtn | rna | rps deriving DecidableEq, Repr

def roundOfCode : Nat → Option Round
  | 0 => some .rne | 1 => some .rtz | 2 => some .rtp | 3 => some .rtn | 4 => some .rna | 5 => some .rps | _ => none

/-! ### Densely packed decimal -/

/-- Three digits of a declet. -/
def dpdDecode (x : Nat) : Nat :=
  let b (i : Nat) : Nat := x / 2 ^ i % 2
  let three (i j k : Nat) : Nat := 4 * b i + 2 * b j + b k
  let p3 := three 9 8 7
  let s3 := three 6 5 4
  let w3 := three 2 1 0
  let digits (h t u : Nat) : Nat := 100 * h + 10 * t + u
  if b 3 = 0 then digits p3 s3 w3
  else
    match 2 * b 2 + b 1 with
    | 0 => digits p3 s3 (8 + b 0)
    | 1 => digits p3 (8 + b 4) (three 6 5 0)
    | 2 => digits (8 + b 7) s3 (three 9 8 0)
    | _ =>
      match 2 * b 6 + b 5 with
      | 0 => digits (8 + b 7) (8 + b 4) (three 9 8 0)
      | 1 => digits (8 + b 7) (three 9 8 4) (8 + b 0)
      | 2 => digits p3 (8 + b 4) (8 + b 0)
      | _ => digits (8 + b 7) (8 + b 4) (8 + b 0)

/-- The canonical declet of three digits. -/
def dpdEncode (x : Nat) : Nat :=
  let h := x / 100 % 10
  let t := x / 10 % 10
  let u := x % 10
  let hl := h % 2
  let tl := t % 2
  let ul := u % 2
  -- declet from bits pq, r, st, u, v, wx, y
  let mk (pq r st uu v wx y : Nat) : Nat := pq * 256 + r * 128 + st * 32 + uu * 16 + v * 8 + wx * 2 + y
  match decide (8 ≤ h), decide (8 ≤ t), decide (8 ≤ u) with
  | false, false, false => mk (h / 2) hl (t / 2) tl 0 (u / 2) ul
  | false, false, true => mk (h / 2) hl (t / 2) tl 1 0 ul
  | false, true, false => mk (h / 2) hl (u / 2) tl 1 1 ul
  | false, true, true => mk (h / 2) hl 2 tl 1 3 ul
  | true, false, false => mk (u / 2) hl (t / 2) tl 1 2 ul
  | true, false, true => mk (t / 2) hl 1 tl 1 3 ul
  | true, true, false => mk (u / 2) hl 0 tl 1 3 ul
  | true, true, true => mk 0 hl 3 tl 1 3 ul

/-- Value of `k` declets. -/
def dpdValue : Nat → Nat → Nat
  | 0, _ => 0
  | k + 1, x => dpdDecode (x % 1024) + 1000 * dpdValue k (x / 1024)

/-- `k` canonical declets of a number. -/
def dpdBits : Nat → Nat → Nat
  | 0, _ => 0
  | k + 1, v => dpdEncode (v % 1000) + 1024 * dpdBits k (v / 1000)

/-! ### Decoding and encoding -/

/-- Decode a binary datum; with FTZ a subnormal reads as zero of its sign (R153). -/
def decodeBin (f : Fmt) (x : Nat) (ftz : Bool) : FVal :=
  let sign := x / 2 ^ (f.n - 1) % 2 = 1
  let e := x / 2 ^ f.frac % 2 ^ f.ebits
  let m := x % 2 ^ f.frac
  if e = 2 ^ f.ebits - 1 then
    if m = 0 then .inf sign else .nan sign (m / 2 ^ (f.frac - 1) = 0) (m % 2 ^ (f.frac - 1))
  else if e = 0 then .num sign (if ftz then 0 else m) f.etiny
  else .num sign (2 ^ f.frac + m) (f.etiny + e - 1)

/-- Decode a decimal datum, canonical or not (R144). -/
def decodeDec (f : Fmt) (x : Nat) : FVal :=
  let sign := x / 2 ^ (f.n - 1) % 2 = 1
  let g := x / 2 ^ (f.n - 6) % 32
  let cont := x / 2 ^ f.frac % 2 ^ f.ebits
  let t := dpdValue (f.frac / 10) (x % 2 ^ f.frac)
  if g = 31 then .nan sign (cont / 2 ^ (f.ebits - 1) % 2 = 1) t
  else if g = 30 then .inf sign
  else
    let (top, lead) := if g / 8 = 3 then (g / 2 % 4, 8 + g % 2) else (g / 8, g % 8)
    .num sign (lead * 10 ^ (f.p - 1) + t) ((top * 2 ^ f.ebits + cont : Nat) + f.etiny)

/-- Decode an operand. -/
def decodeF (f : Fmt) (x : Quad) (ftz : Bool) : FVal :=
  let v := x.toNat % 2 ^ f.n
  if f.dec then decodeDec f v else decodeBin f v ftz

def signBit (f : Fmt) (sign : Bool) : Nat := if sign then 2 ^ (f.n - 1) else 0

/-- Encode a quiet datum whose number, if it is one, is representable with the exponent it has; canonical for
decimal formats. -/
def encodeF (f : Fmt) : FVal → Nat
  | .nan sign _ payload =>
    if f.dec then signBit f sign + 31 * 2 ^ (f.n - 6) + dpdBits (f.frac / 10) payload
    else signBit f sign + (2 ^ f.ebits - 1) * 2 ^ f.frac + 2 ^ (f.frac - 1) + payload % 2 ^ (f.frac - 1)
  | .inf sign =>
    if f.dec then signBit f sign + 30 * 2 ^ (f.n - 6) else signBit f sign + (2 ^ f.ebits - 1) * 2 ^ f.frac
  | .num sign c e =>
    if f.dec then
      let be := (e - f.etiny).toNat
      let lead := c / 10 ^ (f.p - 1)
      let top := be / 2 ^ f.ebits
      let g := if lead < 8 then top * 8 + lead else 24 + top * 2 + (lead - 8)
      signBit f sign + g * 2 ^ (f.n - 6) + be % 2 ^ f.ebits * 2 ^ f.frac + dpdBits (f.frac / 10) (c % 10 ^ (f.p - 1))
    else if c < 2 ^ f.frac then signBit f sign + c
    else signBit f sign + (e - f.etiny + 1).toNat * 2 ^ f.frac + (c - 2 ^ f.frac)

/-- The default NaN (Table 6.6). -/
def defaultNan : FVal := .nan false false 0

/-! ### Digits -/

/-- Number of digits of `c` in the radix of the format; 0 for 0. -/
def ndigits (dec : Bool) (c : Nat) : Nat :=
  if c = 0 then 0
  else if dec then
    let t := c.log2 * 30103 / 100000
    if 10 ^ (t + 1) ≤ c then t + 2 else if 10 ^ t ≤ c then t + 1 else t
  else c.log2 + 1

/-- Strip trailing zeros of a decimal coefficient while the exponent is below `lim`. -/
def stripZeros : Nat → Nat → Int → Int → Nat × Int
  | 0, c, e, _ => (c, e)
  | k + 1, c, e, lim => if e < lim ∧ c % 10 = 0 then stripZeros k (c / 10) (e + 1) lim else (c, e)

/-! ### Rounding (R148 to R151, R153) -/

/-- Whether a truncated magnitude is increased: last digit `q`, remainder against half (`cmp`: 0 exact, 1 below, 2
equal, 3 above half). -/
def roundUp (dir : Round) (sign : Bool) (q cmp : Nat) : Bool :=
  if cmp = 0 then false
  else
    match dir with
    | .rne => cmp = 3 || (cmp = 2 && q % 2 = 1)
    | .rna => cmp ≥ 2
    | .rtz => false
    | .rtp => !sign
    | .rtn => sign
    | .rps => q % 10 = 0 || q % 10 = 5

/-- Position of a remainder below half, at half, above half; `sticky` adds something less than one unit. -/
def halfCmp (rem unit : Nat) (sticky : Bool) : Nat :=
  if rem = 0 ∧ !sticky then 0
  else if 2 * rem < unit then 1
  else if 2 * rem = unit ∧ !sticky then 2
  else 3

/-- An exact magnitude: `c` × radix^`e`, plus less than one unit of radix^`e` when `sticky`. -/
structure Exact where
  c : Nat
  e : Int
  sticky : Bool := false
  deriving DecidableEq, Repr

/-- Round an exact magnitude to the digits above radix^`q`; answers the coefficient and whether it was inexact. -/
def roundAt (radix : Nat) (dir : Round) (sign : Bool) (x : Exact) (q : Int) : Nat × Bool :=
  if q ≤ x.e then (x.c * radix ^ (x.e - q).toNat, x.sticky)
  else
    let unit := radix ^ (q - x.e).toNat
    let cmp := halfCmp (x.c % unit) unit x.sticky
    let t := x.c / unit
    (if roundUp dir sign t cmp then t + 1 else t, cmp ≠ 0)

/-- The result of an overflow by direction (R150). -/
def overflowVal (f : Fmt) (dir : Round) (sign : Bool) : FVal :=
  let big : FVal := .num sign (f.radix ^ f.p - 1) f.etop
  match dir with
  | .rne | .rna => .inf sign
  | .rtz | .rps => big
  | .rtp => if sign then big else .inf sign
  | .rtn => if sign then .inf sign else big

/-- Zero of a format with the exponent nearest the preferred one. -/
def zeroVal (f : Fmt) (sign : Bool) (ideal : Int) : FVal :=
  if f.dec then .num sign 0 (max f.etiny (min ideal f.etop)) else .num sign 0 f.etiny

/-- The exact decimal member of the cohort nearest the preferred exponent, if the value fits the format (R144). -/
def decExact (f : Fmt) (x : Exact) (ideal : Int) : Option (Nat × Int) :=
  if x.sticky then none
  else
    -- lower the exponent toward the preferred one, or into range, while digits allow
    let d := ndigits true x.c
    let want := max f.etiny (min ideal f.etop)
    if want ≤ x.e then
      let k := min (x.e - want).toNat (f.p - d)
      let e' := x.e - k
      if d ≤ f.p ∧ e' ≤ f.etop then some (x.c * 10 ^ k, e')
      else
        let (c2, e2) := stripZeros d x.c x.e f.etop
        if ndigits true c2 ≤ f.p ∧ e2 ≤ f.etop ∧ x.e ≤ f.etop then some (stripZeros (d - f.p) x.c x.e (x.e + (d - f.p : Nat))) else none
    else
      let (c2, e2) := stripZeros d x.c x.e want
      if ndigits true c2 ≤ f.p ∧ f.etiny ≤ e2 then some (c2, e2)
      else
        -- more zeros must go than the preferred exponent asks for
        let need := max (f.etiny - x.e) ((d : Int) - f.p)
        let (c3, e3) := stripZeros d x.c x.e (x.e + need)
        if ndigits true c3 ≤ f.p ∧ f.etiny ≤ e3 ∧ e3 ≤ f.etop then some (c3, e3) else none

/-- Round an exact nonzero value once into a format; `ideal` is the preferred exponent of a decimal result. -/
def roundF (f : Fmt) (dir : Round) (ftz : Bool) (sign : Bool) (x : Exact) (ideal : Int) : FVal × Nat :=
  if x.c = 0 ∧ !x.sticky then (zeroVal f sign ideal, 0)
  else
    match (if f.dec then decExact f x ideal else none) with
    | some (c, e) => (.num sign c e, 0)
    | none =>
      let r := f.radix
      let d := ndigits f.dec x.c
      -- tininess: rounded to the precision with an unbounded exponent
      let eu := x.e + d - f.p
      let (cu, _) := roundAt r dir sign x eu
      let adju := eu + (ndigits f.dec cu : Int) - 1
      let tiny := adju < f.emin
      let q := max eu f.etiny
      let (c0, inexact) := roundAt r dir sign x q
      let (c, e) := if c0 = r ^ f.p then (r ^ (f.p - 1), q + 1) else (c0, q)
      if tiny ∧ ftz ∧ !f.dec then (zeroVal f sign ideal, fUF + fIX)
      else if f.emax < e + (ndigits f.dec c : Int) - 1 then (overflowVal f dir sign, fOF + fIX)
      else
        let fl := (if inexact then fIX else 0) + (if tiny ∧ inexact then fUF else 0)
        (.num sign c e, fl)

/-! ### NaN operands (R154, R155) -/

def FVal.isNan : FVal → Bool
  | .nan _ _ _ => true
  | _ => false
def FVal.isSnan : FVal → Bool
  | .nan _ s _ => s
  | _ => false
def FVal.quiet : FVal → FVal
  | .nan s _ p => .nan s false p
  | v => v

/-- The NaN result of an operation with a NaN among its operands, and IV for a signalling one. -/
def nanOf (ops : List FVal) : Option (FVal × Nat) :=
  match ops.find? FVal.isSnan with
  | some v => some (v.quiet, fIV)
  | none => (ops.find? FVal.isNan).map fun v => (v, 0)

def invalid : FVal × Nat := (defaultNan, fIV)

/-! ### Arithmetic -/

def FVal.neg : FVal → FVal
  | .nan s g p => .nan s g p
  | .inf s => .inf !s
  | .num s c e => .num (!s) c e

/-- Exact signed sum of two finite values: sign, magnitude; zero keeps no sign. -/
def sumExact (radix : Nat) (s1 : Bool) (c1 : Nat) (e1 : Int) (s2 : Bool) (c2 : Nat) (e2 : Int) : Int × Int :=
  let e := min e1 e2
  let v1 : Int := (c1 * radix ^ (e1 - e).toNat : Nat)
  let v2 : Int := (c2 * radix ^ (e2 - e).toNat : Nat)
  ((if s1 then -v1 else v1) + (if s2 then -v2 else v2), e)

/-- Sum of finite values (R150: an exact zero of opposite signs is +0, −0 under RTN). -/
def addFinite (f : Fmt) (dir : Round) (ftz : Bool) (s1 : Bool) (c1 : Nat) (e1 : Int) (s2 : Bool) (c2 : Nat) (e2 : Int)
    (ideal : Int) : FVal × Nat :=
  let (v, e) := sumExact f.radix s1 c1 e1 s2 c2 e2
  if v = 0 then (zeroVal f (if s1 = s2 then s1 else dir = .rtn) ideal, 0)
  else roundF f dir ftz (decide (v < 0)) ⟨v.natAbs, e, false⟩ ideal

def fAdd (f : Fmt) (dir : Round) (ftz : Bool) (a b : FVal) : FVal × Nat :=
  match nanOf [a, b] with
  | some r => r
  | none =>
    match a, b with
    | .inf s1, .inf s2 => if s1 = s2 then (.inf s1, 0) else invalid
    | .inf s1, _ => (.inf s1, 0)
    | _, .inf s2 => (.inf s2, 0)
    | .num s1 c1 e1, .num s2 c2 e2 => addFinite f dir ftz s1 c1 e1 s2 c2 e2 (min e1 e2)
    | _, _ => invalid

def fMul (f : Fmt) (dir : Round) (ftz : Bool) (a b : FVal) : FVal × Nat :=
  match nanOf [a, b] with
  | some r => r
  | none =>
    match a, b with
    | .inf s1, .inf s2 => (.inf (s1 != s2), 0)
    | .inf s1, .num s2 c _ => if c = 0 then invalid else (.inf (s1 != s2), 0)
    | .num s1 c _, .inf s2 => if c = 0 then invalid else (.inf (s1 != s2), 0)
    | .num s1 c1 e1, .num s2 c2 e2 => roundF f dir ftz (s1 != s2) ⟨c1 * c2, e1 + e2, false⟩ (e1 + e2)
    | _, _ => invalid

/-- a × b + c rounded once; 0 × ∞ signals IV even when c is a quiet NaN (R155). -/
def fFma (f : Fmt) (dir : Round) (ftz : Bool) (a b c : FVal) : FVal × Nat :=
  let zeroInf : Bool := match a, b with
    | .inf _, .num _ x _ => x = 0
    | .num _ x _, .inf _ => x = 0
    | _, _ => false
  match nanOf [a, b, c] with
  | some (v, fl) => (v, if zeroInf then fIV else fl)
  | none =>
    if zeroInf then invalid
    else
      match a, b, c with
      | .num s1 c1 e1, .num s2 c2 e2, .num s3 c3 e3 =>
        addFinite f dir ftz (s1 != s2) (c1 * c2) (e1 + e2) s3 c3 e3 (min (e1 + e2) e3)
      | .num _ _ _, .num _ _ _, .inf s3 => (.inf s3, 0)
      | x, y, z =>
        let sg (v : FVal) : Bool := match v with | .inf s => s | .num s _ _ => s | .nan s _ _ => s
        let ps := sg x != sg y
        match z with
        | .inf s3 => if ps = s3 then (.inf ps, 0) else invalid
        | _ => (.inf ps, 0)

def fDiv (f : Fmt) (dir : Round) (ftz : Bool) (a b : FVal) : FVal × Nat :=
  match nanOf [a, b] with
  | some r => r
  | none =>
    match a, b with
    | .inf _, .inf _ => invalid
    | .inf s1, .num s2 _ _ => (.inf (s1 != s2), 0)
    | .num s1 _ _, .inf s2 => (zeroVal f (s1 != s2) f.etiny, 0)
    | .num s1 c1 e1, .num s2 c2 e2 =>
      if c2 = 0 then (if c1 = 0 then invalid else (.inf (s1 != s2), fDZ))
      else if c1 = 0 then (zeroVal f (s1 != s2) (e1 - e2), 0)
      else
        let k := f.p + 3 + ndigits f.dec c2 - ndigits f.dec c1
        let num := c1 * f.radix ^ k
        roundF f dir ftz (s1 != s2) ⟨num / c2, e1 - e2 - k, decide (num % c2 ≠ 0)⟩ (e1 - e2)
    | _, _ => invalid

/-- Integer square root, from bit `k - 1` of the root down. -/
def isqrtAux : Nat → Nat → Nat → Nat
  | 0, _, r => r
  | k + 1, x, r => isqrtAux k x (if (r + 2 ^ k) * (r + 2 ^ k) ≤ x then r + 2 ^ k else r)
def isqrt (x : Nat) : Nat := isqrtAux (x.log2 / 2 + 1) x 0

def fSqrt (f : Fmt) (dir : Round) (ftz : Bool) (a : FVal) : FVal × Nat :=
  match nanOf [a] with
  | some r => r
  | none =>
    match a with
    | .inf s => if s then invalid else (.inf false, 0)
    | .num s c e =>
      if c = 0 then (zeroVal f s (e / 2), 0)
      else if s then invalid
      else
        let k0 := 2 * f.p + 6
        let k := if (e - k0) % 2 = 0 then k0 else k0 + 1
        let x := c * f.radix ^ k
        let r := isqrt x
        roundF f dir ftz false ⟨r, (e - k) / 2, decide (r * r ≠ x)⟩ (e / 2)
    | v => (v, 0)

/-- Round to an integral value in the operand's own format (R151). -/
def fRint (f : Fmt) (dir : Round) (a : FVal) : FVal × Nat :=
  match nanOf [a] with
  | some r => r
  | none =>
    match a with
    | .num s c e =>
      if 0 ≤ e then (a, 0)
      else
        let (q, inexact) := roundAt f.radix dir s ⟨c, e, false⟩ 0
        let v := if q = 0 then zeroVal f s 0 else (roundF f .rtz false s ⟨q, 0, false⟩ 0).1
        (v, if inexact then fIX else 0)
    | v => (v, 0)

/-- FQUANT: the value of `a` with the exponent of `b`; decimal formats only. -/
def fQuant (f : Fmt) (dir : Round) (a b : FVal) : FVal × Nat :=
  match nanOf [a, b] with
  | some r => r
  | none =>
    match a, b with
    | .inf s, .inf _ => (.inf s, 0)
    | .num s c e, .num _ _ q =>
      let (v, inexact) := roundAt 10 dir s ⟨c, e, false⟩ q
      if 10 ^ f.p ≤ v then invalid else (.num s v q, if inexact then fIX else 0)
    | _, _ => invalid

/-! ### Comparison (R157, R158) -/

/-- 0 below, 1 equal, 2 above, of two data that are not NaN; −0 equals +0. -/
def fpOrder (radix : Nat) (a b : FVal) : Nat :=
  let side (v : FVal) : Int := match v with
    | .inf s => if s then -2 else 2
    | .num s c _ => if c = 0 then 0 else if s then -1 else 1
    | .nan _ _ _ => 0
  if side a < side b then 0
  else if side b < side a then 2
  else
    match a, b with
    | .num s1 c1 e1, .num s2 c2 e2 =>
      let (v, _) := sumExact radix s1 c1 e1 (!s2) c2 e2
      if v < 0 then 0 else if v = 0 then 1 else 2
    | _, _ => 1

def fCompare (radix : Nat) (signalling : Bool) (a b : FVal) : Nat × Nat :=
  if a.isNan || b.isNan then (3, if signalling || a.isSnan || b.isSnan then fIV else 0) else (fpOrder radix a b, 0)

/-- FMIN, FMAX. -/
def fMinMax (radix : Nat) (max_ : Bool) (a b : FVal) : FVal × Nat :=
  match nanOf [a, b] with
  | some r => r
  | none =>
    match fpOrder radix a b with
    | 0 => (if max_ then b else a, 0)
    | 2 => (if max_ then a else b, 0)
    | _ =>
      match a, b with
      | .num s1 _ e1, .num s2 _ e2 =>
        if s1 ≠ s2 then (if s1 = max_ then b else a, 0)
        else if e1 = e2 then (a, 0)
        else (if decide (e1 < e2) = max_ then b else a, 0)
      | _, _ => (a, 0)

/-- FCLASS: the bit number of R158; `v` is decoded without FTZ. -/
def fClass (f : Fmt) (v : FVal) : Nat :=
  match v with
  | .nan _ s _ => if s then 8 else 9
  | .inf s => if s then 0 else 7
  | .num s c e =>
    if c = 0 then (if s then 3 else 4)
    else
      let sub := e + (ndigits f.dec c : Int) - 1 < f.emin
      if s then (if sub then 2 else 1) else if sub then 5 else 6

/-! ### Conversions (R156, R159) -/

/-- The exact value of a finite datum in another radix: binary into decimal is exact, decimal into binary is a
quotient with enough digits for the destination and a sticky remainder. -/
def reRadix (src dst : Fmt) (c : Nat) (e : Int) : Exact :=
  if src.dec = dst.dec then ⟨c, e, false⟩
  else if 0 ≤ e then ⟨c * src.radix ^ e.toNat, 0, false⟩
  else if dst.dec then ⟨c * 5 ^ (-e).toNat, e, false⟩
  else
    let den := 10 ^ (-e).toNat
    let k := dst.p + 3 + (den.log2 + 1) - (c.log2 + 1)
    let num := c * 2 ^ k
    ⟨num / den, -(k : Int), decide (num % den ≠ 0)⟩

/-- Payload of a NaN in another format. -/
def nanPayload (src dst : Fmt) (payload : Nat) : Nat :=
  match src.dec, dst.dec with
  | false, false =>
    if dst.p ≥ src.p then payload * 2 ^ (dst.p - src.p) else payload / 2 ^ (src.p - dst.p)
  | true, true => if payload < 10 ^ (dst.p - 1) then payload else 0
  | _, _ => 0

def fConvert (src dst : Fmt) (dir : Round) (ftz : Bool) (a : FVal) : FVal × Nat :=
  match a with
  | .nan s g p => (.nan s false (nanPayload src dst p), if g then fIV else 0)
  | .inf s => (.inf s, 0)
  | .num s c e =>
    let ideal := if src.dec then e else 0
    if c = 0 then (zeroVal dst s ideal, 0) else roundF dst dir ftz s (reRadix src dst c e) ideal

/-- To a 64-bit integer (R159). -/
def fToInt (src : Fmt) (dir : Round) (unsigned : Bool) (a : FVal) : Word × Nat :=
  let hi : Int := if unsigned then 2 ^ 64 - 1 else 2 ^ 63 - 1
  let lo : Int := if unsigned then 0 else -2 ^ 63
  match a with
  | .nan _ _ _ => (0, fIV)
  | .inf s => (BitVec.ofInt 64 (if s then lo else hi), fIV)
  | .num s c e =>
    let (q, inexact) := roundAt src.radix dir s ⟨c, e, false⟩ 0
    let v : Int := if s then -(q : Int) else q
    if hi < v then (BitVec.ofInt 64 hi, fIV)
    else if v < lo then (BitVec.ofInt 64 lo, fIV)
    else (BitVec.ofInt 64 v, if inexact then fIX else 0)

/-- From a 64-bit integer (R159). -/
def fFromInt (dst : Fmt) (dir : Round) (ftz unsigned : Bool) (g : Word) : FVal × Nat :=
  let v : Int := if unsigned then g.toNat else g.toInt
  if v = 0 then (zeroVal dst false 0, 0)
  else roundF dst dir ftz (decide (v < 0)) ⟨v.natAbs, 0, false⟩ 0

/-! ### The rounding direction of an operation (R148) -/

/-- Direction from a rounding code: code 7 from FPCR.RM or DRM; none for a code that raises ILLEGAL. -/
def rounding (fpcr : Word) (decimal : Bool) (code : Nat) : Option Round :=
  if code = 7 then roundOfCode (if decimal then bits fpcr 6 4 else bits fpcr 2 0)
  else if code = 5 && !decimal then none
  else if code = 6 then none
  else roundOfCode code

/-! ### Signalling (R152, R160) -/

/-- Set the sticky flags; record the trap, or set MULTI, when an enabled exception was signalled. -/
def LCore.fpSignal (l : LCore) (fl : Nat) (w : BitVec 32) (slot : Bool) : LCore :=
  let l1 := { l with fpsr := l.fpsr ||| BitVec.ofNat 64 fl }
  if bits l.fpcr 12 8 &&& fl = 0 then l1
  else if l.fpxr.getLsbD 63 then { l1 with fpxr := setBit l.fpxr 62 true }
  else
    { l1 with
      fpxa := l.pc
      fpxr := BitVec.ofNat 64 (2 ^ 63 + (if slot then 2 ^ 61 else 0) + fl * 2 ^ 32 + w.toNat)
      fpCount := 0 }

def LCore.ftz (l : LCore) : Bool := l.fpcr.getLsbD 16

/-- Write an operation's result and signal its exceptions. -/
def LCore.fpWrite (l : LCore) (f : Fmt) (d : Reg) (r : FVal × Nat) (w : BitVec 32) (slot : Bool) : LCore :=
  (l.fpSignal r.2 w slot).wf d (BitVec.ofNat 128 (encodeF f r.1))

/-- Operand of a format. -/
def LCore.fop (l : LCore) (f : Fmt) (r : Reg) : FVal := decodeF f (l.rf r) l.ftz

end Sys2Proof.Machine
end

