-- ==== Sys2Proof/Machine/FpOps.lean ====
section
/-! DEFINITION. The floating-point instructions (chapter 6, majors 0x30 to 0x37), but for FDIV, whose binary128 form
runs in microcode. -/

namespace Sys2Proof.Machine

open Host (Outcome)

/-- The rounding direction of an operation, or ILLEGAL with SUB RESERVED_FIELD (R148). -/
def LCore.roundFor (l : LCore) (decimal : Bool) (rm : Nat) : Res Round :=
  match rounding l.fpcr decimal rm with
  | some r => .ok r
  | none => .exc (excIllegal 0x03)

/-- An arithmetic operation with a rounding code. -/
def State.fpArith (s : State) (lc : Lc) (w : BitVec 32) (fmt : ArithFmt) (rm : Nat) (d : Reg)
    (f : LCore → Fmt → Round → Bool → FVal × Nat) : State :=
  let fm := arithFmt fmt
  s.runLocal lc w fun l => (l.roundFor fm.dec rm).map fun r => l.fpWrite fm d (f l fm r l.ftz) w false

/-- The word of an operation of majors 0x30 to 0x35. -/
def encFp (fmt : ArithFmt) (d a b c minor : Nat) : BitVec 32 := encR (arithMajor fmt) d a b c minor

/-- FADD (R142). -/
def execFadd (lc : Lc) (fmt : ArithFmt) (d a b : Reg) (rm : BitVec 3) (s : State) : Outcome State Fault Refusal :=
  .next (s.fpArith lc (encFp fmt d.val a.val b.val rm.toNat 0) fmt rm.toNat d fun l fm r z =>
    fAdd fm r z (l.fop fm a) (l.fop fm b))

/-- FSUB: the sum with FB's sign inverted; a NaN keeps its sign (R150, R155). -/
def execFsub (lc : Lc) (fmt : ArithFmt) (d a b : Reg) (rm : BitVec 3) (s : State) : Outcome State Fault Refusal :=
  .next (s.fpArith lc (encFp fmt d.val a.val b.val rm.toNat 1) fmt rm.toNat d fun l fm r z =>
    fAdd fm r z (l.fop fm a) (l.fop fm b).neg)

/-- FMUL. -/
def execFmul (lc : Lc) (fmt : ArithFmt) (d a b : Reg) (rm : BitVec 3) (s : State) : Outcome State Fault Refusal :=
  .next (s.fpArith lc (encFp fmt d.val a.val b.val rm.toNat 2) fmt rm.toNat d fun l fm r z =>
    fMul fm r z (l.fop fm a) (l.fop fm b))

/-- FSQRT. -/
def execFsqrt (lc : Lc) (fmt : ArithFmt) (d a : Reg) (rm : BitVec 3) (s : State) : Outcome State Fault Refusal :=
  .next (s.fpArith lc (encFp fmt d.val a.val 0 rm.toNat 4) fmt rm.toNat d fun l fm r z => fSqrt fm r z (l.fop fm a))

/-- FMIN, FMAX (R157). -/
def execFminFmax (lc : Lc) (fmt : ArithFmt) (max : Bool) (d a b : Reg) (s : State) : Outcome State Fault Refusal :=
  let w := encFp fmt d.val a.val b.val 0 (if max then 6 else 5)
  let fm := arithFmt fmt
  .next (s.runLocal lc w fun l => .ok (l.fpWrite fm d (fMinMax fm.radix max (l.fop fm a) (l.fop fm b)) w false))

/-- Minors of FABS, FNEG, FCPYSGN. -/
def signMinor : SignOp → Nat
  | .fabs => 7 | .fneg => 8 | .fcpysgn => 9

/-- The datum of `a` with another sign bit; nothing else changes (R154). -/
def fSign (f : Fmt) (op : SignOp) (a b : Quad) : Quad :=
  let x := a.toNat % 2 ^ f.n
  let sa := x / 2 ^ (f.n - 1) % 2
  let sb := b.toNat / 2 ^ (f.n - 1) % 2
  let sg := match op with
    | .fabs => 0
    | .fneg => 1 - sa
    | .fcpysgn => sb
  BitVec.ofNat 128 (x % 2 ^ (f.n - 1) + sg * 2 ^ (f.n - 1))

/-- FABS, FNEG, FCPYSGN: no exception is signalled. -/
def execFabsFnegFcpysgn (lc : Lc) (fmt : ArithFmt) (op : SignOp) (d a b : Reg) (s : State) :
    Outcome State Fault Refusal :=
  let bf := match op with | .fcpysgn => b.val | _ => 0
  .next (s.runLocal lc (encFp fmt d.val a.val bf 0 (signMinor op)) fun l =>
    .ok (l.wf d (fSign (arithFmt fmt) op (l.rf a) (l.rf b))))

/-- FRINT (R151). -/
def execFrint (lc : Lc) (fmt : ArithFmt) (d a : Reg) (rm : BitVec 3) (s : State) : Outcome State Fault Refusal :=
  .next (s.fpArith lc (encFp fmt d.val a.val 0 rm.toNat 10) fmt rm.toNat d fun l fm r _ => fRint fm r (l.fop fm a))

/-- FCMP, FCMPS: the code goes to GD (R158). -/
def execFcmp (lc : Lc) (fmt : ArithFmt) (signalling : Bool) (d a b : Reg) (s : State) : Outcome State Fault Refusal :=
  let w := encFp fmt d.val a.val b.val 0 (if signalling then 12 else 11)
  let fm := arithFmt fmt
  .next (s.runLocal lc w fun l =>
    let r := fCompare fm.radix signalling (l.fop fm a) (l.fop fm b)
    .ok ((l.fpSignal r.2 w false).wg d (BitVec.ofNat 64 r.1)))

/-- FCLASS: FTZ does not apply (R153, R158). -/
def execFclass (lc : Lc) (fmt : ArithFmt) (d a : Reg) (s : State) : Outcome State Fault Refusal :=
  let fm := arithFmt fmt
  .next (s.runLocal lc (encFp fmt d.val a.val 0 0 13) fun l =>
    .ok (l.wg d (BitVec.ofNat 64 (2 ^ fClass fm (decodeF fm (l.rf a) false)))))

/-- FQUANT: minor 14 is undefined in the binary majors (R145). -/
def execFquant (lc : Lc) (fmt : ArithFmt) (d a b : Reg) (rm : BitVec 3) (s : State) : Outcome State Fault Refusal :=
  let w := encFp fmt d.val a.val b.val rm.toNat 14
  let fm := arithFmt fmt
  .next (s.runLocal lc w fun l =>
    (check fm.dec (excIllegal 0x02)).bind fun _ =>
      (l.roundFor fm.dec rm.toNat).map fun r => l.fpWrite fm d (fQuant fm r (l.fop fm a) (l.fop fm b)) w false)

/-- Minors of FMA, FMS, FNMA, FNMS. -/
def fusedMinor : FusedOp → Nat
  | .fma => 16 | .fms => 17 | .fnma => 18 | .fnms => 19

/-- The fused operation as one product plus one addend: the negated forms negate both before the one rounding, so
an exact zero has the sign of that sum, +0 under RNE.  DESIGN CHOICE (log entry 15). -/
def fFused (f : Fmt) (dir : Round) (ftz : Bool) (op : FusedOp) (a b c : FVal) : FVal × Nat :=
  match op with
  | .fma => fFma f dir ftz a b c
  | .fms => fFma f dir ftz a b c.neg
  | .fnma => fFma f dir ftz a.neg b c.neg
  | .fnms => fFma f dir ftz a.neg b c

/-- FMA, FMS, FNMA, FNMS: they round under the FPCR field of their format (R145). -/
def execFusedMultiplyAdd (lc : Lc) (fmt : ArithFmt) (op : FusedOp) (d a b c : Reg) (s : State) :
    Outcome State Fault Refusal :=
  .next (s.fpArith lc (encFp fmt d.val a.val b.val c.val (fusedMinor op)) fmt 7 d fun l fm r z =>
    fFused fm r z op (l.fop fm a) (l.fop fm b) (l.fop fm c))

/-- Source and destination of a conversion, or ILLEGAL for one the manual leaves undefined (R146; log entry 14). -/
def convFmts (src dst : Nat) : Res (Fmt × Fmt) :=
  match fmtOfCode src, fmtOfCode dst with
  | some f, some g => if src = dst then .exc (excIllegal 0x02) else .ok (f, g)
  | _, _ => .exc (excIllegal 0x02)

/-- FCVT.FF (R148, R156, R159). -/
def execFcvtFf (lc : Lc) (src dst : BitVec 3) (d a : Reg) (rm : BitVec 3) (s : State) : Outcome State Fault Refusal :=
  let w := encR 0x36 d.val a.val dst.toNat rm.toNat src.toNat
  .next (s.runLocal lc w fun l =>
    (convFmts src.toNat dst.toNat).bind fun fg =>
      (l.roundFor fg.2.dec rm.toNat).map fun r => l.fpWrite fg.2 d (fConvert fg.1 fg.2 r l.ftz (l.fop fg.1 a)) w false)

/-- The format of a conversion to or from an integer: FMT 7 and decimal32 are undefined (R146). -/
def intFmt (code : Nat) : Res Fmt :=
  match fmtOfCode code with
  | some f => if code = 4 then .exc (excIllegal 0x02) else .ok f
  | none => .exc (excIllegal 0x02)

/-- A conversion to a 64-bit integer. -/
def State.fpToInt (s : State) (lc : Lc) (w : BitVec 32) (unsigned : Bool) (src : Nat) (d a : Reg) (rm : Nat) : State :=
  s.runLocal lc w fun l =>
    (intFmt src).bind fun f =>
      (l.roundFor f.dec rm).map fun r =>
        let x := fToInt f r unsigned (l.fop f a)
        (l.fpSignal x.2 w false).wg d x.1

/-- FCVT.FI. -/
def execFcvtFi (lc : Lc) (src : BitVec 3) (d a : Reg) (rm : BitVec 3) (s : State) : Outcome State Fault Refusal :=
  .next (s.fpToInt lc (encR 0x36 d.val a.val 0 rm.toNat (8 + src.toNat)) false src.toNat d a rm.toNat)

/-- FCVT.FU. -/
def execFcvtFu (lc : Lc) (src : BitVec 3) (d a : Reg) (rm : BitVec 3) (s : State) : Outcome State Fault Refusal :=
  .next (s.fpToInt lc (encR 0x36 d.val a.val 0 rm.toNat (16 + src.toNat)) true src.toNat d a rm.toNat)

/-- FCVT.IF. -/
def execFcvtIf (lc : Lc) (unsigned : Bool) (dst : BitVec 3) (d a : Reg) (rm : BitVec 3) (s : State) :
    Outcome State Fault Refusal :=
  let w := encR 0x36 d.val a.val dst.toNat rm.toNat (24 + unsigned.toNat)
  .next (s.runLocal lc w fun l =>
    (intFmt dst.toNat).bind fun f =>
      (l.roundFor f.dec rm.toNat).map fun r => l.fpWrite f d (fFromInt f r l.ftz unsigned (l.rg a)) w false)

/-- Minors of the moves (Table 6.4). -/
def fmoveMinor : FmoveOp → Nat
  | .fmvgf => 0 | .fmvfg => 1 | .fmvgfh => 2 | .fmvfgh => 3 | .fmov => 4

def LCore.fmove (l : LCore) (op : FmoveOp) (d a : Reg) : LCore :=
  match op with
  | .fmvgf => l.wf d ((l.rg a).setWidth 128)
  | .fmvfg => l.wg d (quadLo (l.rf a))
  | .fmvgfh => l.wf d (quadOf (l.rg a) (quadLo (l.rf d)))
  | .fmvfgh => l.wg d (quadHi (l.rf a))
  | .fmov => l.wf d (l.rf a)

/-- FMVGF, FMVFG, FMVGFH, FMVFGH, FMOV (R147). -/
def execFpMove (lc : Lc) (op : FmoveOp) (d a : Reg) (s : State) : Outcome State Fault Refusal :=
  .next (s.runLocal lc (encR 0x37 d.val a.val 0 0 (fmoveMinor op)) fun l => .ok (l.fmove op d a))

/-- Delivery right after the 256th instruction that follows the trapping one (R161). -/
def execFpTrapDelivery (lc : Lc) (s : State) : Outcome State Fault Refusal :=
  let l := s.lc lc.val
  .next (if s.lcRuns lc && l.fpPend && 256 ≤ l.fpCount then s.fpVoted lc else s)

end Sys2Proof.Machine
end

