-- ==== Sys2Proof/Machine/Integer.lean ====
section
/-! DEFINITION. The integer instructions (chapter 5; majors 0x01 to 0x03, 0x08 to 0x0F). -/

namespace Sys2Proof.Machine

open Host (Outcome)

/-- ADD, ADDI (R125, R126). -/
def execAdd (lc : Lc) (d a : Reg) (b : RegImm) (s : State) : Outcome State Fault Refusal :=
  .next (s.runLocal lc (encRegImm 0x01 0 0x08 d a b) fun l =>
    l.intWrite d true (intAdd (l.rg a) (l.regImm true b) l.flags))

/-- SUB (R125, R126). -/
def execSub (lc : Lc) (d a b : Reg) (s : State) : Outcome State Fault Refusal :=
  .next (s.runLocal lc (encR 0x01 d.val a.val b.val 0 1) fun l =>
    l.intWrite d true (intSub (l.rg a) (l.rg b) l.flags))

/-- NEG (R125, R126). -/
def execNeg (lc : Lc) (d a : Reg) (s : State) : Outcome State Fault Refusal :=
  .next (s.runLocal lc (encR 0x01 d.val a.val 0 0 5) fun l => l.intWrite d true (intNeg (l.rg a) l.flags))

/-- Minors and immediate majors of AND, OR, XOR, NOT. -/
def logicMinor : LogicOp → Nat
  | .and => 2 | .or => 3 | .xor => 4 | .not => 6
def logicMajorI : LogicOp → Nat
  | .and => 0x09 | .or => 0x0A | .xor => 0x0B | .not => 0x01

/-- AND, OR, XOR, ANDI, ORI, XORI, and NOT, which has one operand (Table 5.1). -/
def execLogicalOperation (lc : Lc) (op : LogicOp) (d a : Reg) (b : RegImm) (s : State) :
    Outcome State Fault Refusal :=
  let w := match op with
    | .not => encR 0x01 d.val a.val 0 0 6
    | _ => encRegImm 0x01 (logicMinor op) (logicMajorI op) d a b
  .next (s.runLocal lc w fun l => l.intWrite d false (intLogic op (l.rg a) (l.regImm false b) l.flags))

def compareMinor : CompareOp → Nat
  | .eq => 7 | .lt => 8 | .ltu => 9

/-- CMPEQ, CMPLT, CMPLTU: 1 or 0; no flag changes. -/
def execCompare (lc : Lc) (op : CompareOp) (d a b : Reg) (s : State) : Outcome State Fault Refusal :=
  .next (s.runLocal lc (encR 0x01 d.val a.val b.val 0 (compareMinor op)) fun l =>
    .ok (l.wg d (if intCompare op (l.rg a) (l.rg b) then 1 else 0)))

def minMaxMinor : MinMaxOp → Nat
  | .min => 10 | .max => 11 | .minu => 12 | .maxu => 13

/-- MIN, MAX, MINU, MAXU; no flag changes. -/
def execMinMax (lc : Lc) (op : MinMaxOp) (d a b : Reg) (s : State) : Outcome State Fault Refusal :=
  .next (s.runLocal lc (encR 0x01 d.val a.val b.val 0 (minMaxMinor op)) fun l =>
    .ok (l.wg d (intMinMax op (l.rg a) (l.rg b))))

/-- SEXTW, ZEXTW; no flag changes. -/
def execSextwZextw (lc : Lc) (signed : Bool) (d a : Reg) (s : State) : Outcome State Fault Refusal :=
  .next (s.runLocal lc (encR 0x01 d.val a.val 0 0 (if signed then 14 else 15)) fun l =>
    .ok (l.wg d (extendW signed (l.rg a))))

def shiftMinor : ShiftOp → Nat
  | .shl => 0 | .shr => 1 | .sar => 2

/-- SHL, SHR, SAR by the whole of GB; SHLI, SHRI, SARI by IMM15 unsigned (R126, R127). -/
def execShift (lc : Lc) (op : ShiftOp) (d a : Reg) (b : RegImm) (s : State) : Outcome State Fault Refusal :=
  .next (s.runLocal lc (encRegImm 0x02 (shiftMinor op) (0x0C + shiftMinor op) d a b) fun l =>
    l.intWrite d (shiftOverflows op) (intShift op (l.rg a) (l.regImm false b) l.flags))

/-- ROL, ROR (R128). -/
def execRotate (lc : Lc) (op : RotateOp) (d a b : Reg) (s : State) : Outcome State Fault Refusal :=
  let m := match op with | .rol => 3 | .ror => 4
  .next (s.runLocal lc (encR 0x02 d.val a.val b.val 0 m) fun l =>
    l.intWrite d false (intRotate op (l.rg a) (l.rg b) l.flags))

/-- LUI: IMM20 shifted left by 12, sign-extended from bit 31 (Table 4.4). -/
def execLui (lc : Lc) (d : Reg) (imm : BitVec 20) (s : State) : Outcome State Fault Refusal :=
  .next (s.runLocal lc (encU 0x0F d.val imm.toNat) fun l =>
    .ok (l.wg d ((imm ++ (0 : BitVec 12)).signExtend 64)))

def mulMinor : MulOp → Nat
  | .mul => 0 | .mulh => 1 | .mulhu => 2
def mulOverflows : MulOp → Bool
  | .mul => true
  | _ => false

/-- MUL, MULH, MULHU (R126, R129). -/
def execMul (lc : Lc) (op : MulOp) (d a b : Reg) (s : State) : Outcome State Fault Refusal :=
  .next (s.runLocal lc (encR 0x03 d.val a.val b.val 0 (mulMinor op)) fun l =>
    l.intWrite d (mulOverflows op) (intMul op (l.rg a) (l.rg b) l.flags))

def divMinor : DivOp → Nat
  | .div => 3 | .divu => 4 | .rem => 5 | .remu => 6
def divOverflows : DivOp → Bool
  | .div => true
  | _ => false

/-- DIV, DIVU, REM, REMU; a zero divisor raises DIVIDE_CHECK before OVERFLOW (R126, R130, R131). -/
def execDiv (lc : Lc) (op : DivOp) (d a b : Reg) (s : State) : Outcome State Fault Refusal :=
  .next (s.runLocal lc (encR 0x03 d.val a.val b.val 0 (divMinor op)) fun l =>
    (check (l.rg b != 0) { code := 0x0B }).bind fun _ =>
      l.intWrite d (divOverflows op) (intDiv op (l.rg a) (l.rg b) l.flags))

/-- DIVSTEP (R126, R131, R132): the divisor is GB[31:0]. -/
def execDivstep (lc : Lc) (d a b : Reg) (s : State) : Outcome State Fault Refusal :=
  .next (s.runLocal lc (encR 0x03 d.val a.val b.val 0 7) fun l =>
    (check (bits (l.rg b) 31 0 != 0) { code := 0x0B }).bind fun _ =>
      l.intWrite d true (intDivstep (l.rg a) (l.rg b) l.flags))

end Sys2Proof.Machine
end

