-- ==== Sys2Proof/Machine/Paired.lean ====
section
/-! DEFINITION. Paired words (R92 to R96, Table 4.5), the encodings that raise ILLEGAL (R97, R98), and a fetch that
fails (R91, R116). -/

namespace Sys2Proof.Machine

open Host (Outcome)

/-! ### Short operations -/

/-- A short operation. -/
structure Short where
  sop : Nat
  x : Reg
  y : Reg
  deriving DecidableEq, Repr

/-- Register number of a 5-bit field. -/
def regOf (n : Nat) : Reg := ⟨n % 32, Nat.mod_lt _ (by decide)⟩

/-- The short operation in 15 bits. -/
def shortOf (n : Nat) : Short := ⟨n / 1024 % 32, regOf (n / 32), regOf n⟩

def Short.isMem (o : Short) : Bool := 20 ≤ o.sop && o.sop ≤ 23
def Short.isBranch (o : Short) : Bool := 28 ≤ o.sop

/-- The register an operation writes: G (`false`) or F. -/
def Short.dest (o : Short) : Option (Bool × Reg) :=
  if o.sop = 21 || o.sop = 23 || o.sop = 28 || o.sop ≥ 30 then none
  else if 24 ≤ o.sop && o.sop ≤ 27 then some (true, o.x)
  else some (false, o.x)

/-- A binary64 operation of a short word, with dynamic rounding. -/
def LCore.shortFp (l : LCore) (o : Short) (w : BitVec 32) (slot : Bool) (f : Round → FVal → FVal → FVal × Nat) :
    Res LCore :=
  (l.roundFor false 7).map fun r => l.fpWrite b64 o.x (f r (l.fop b64 o.x) (l.fop b64 o.y)) w slot

/-- A short operation that addresses no memory, as its long counterpart does it (R95): registers, flags, and the
target of a branch. -/
def LCore.short (l : LCore) (o : Short) (w : BitVec 32) (slot : Bool) : Res LCore :=
  let gx := l.rg o.x
  let gy := l.rg o.y
  let bool (b : Bool) : Res LCore := .ok (l.wg o.x (if b then 1 else 0))
  match o.sop with
  | 1 => .ok (l.wg o.x gy)
  | 2 => l.intWrite o.x true (intAdd gx gy l.flags)
  | 3 => l.intWrite o.x true (intSub gx gy l.flags)
  | 4 => l.intWrite o.x false (intLogic .and gx gy l.flags)
  | 5 => l.intWrite o.x false (intLogic .or gx gy l.flags)
  | 6 => l.intWrite o.x false (intLogic .xor gx gy l.flags)
  | 7 => l.intWrite o.x true (intShl gx gy l.flags)
  | 8 => l.intWrite o.x false (intShr gx gy l.flags)
  | 9 => l.intWrite o.x false (intSar gx gy l.flags)
  | 10 => l.intWrite o.x true (intNeg gy l.flags)
  | 11 => l.intWrite o.x false (intLogic .not gy 0 l.flags)
  | 12 => l.intWrite o.x true (intMul .mul gx gy l.flags)
  | 13 => bool (intCompare .eq gx gy)
  | 14 => bool (intCompare .lt gx gy)
  | 15 => bool (intCompare .ltu gx gy)
  | 16 => .ok (l.wg o.x (extendW true gy))
  | 17 => .ok (l.wg o.x (extendW false gy))
  | 18 => .ok (l.wg o.x (intMinMax .min gx gy))
  | 19 => .ok (l.wg o.x (intMinMax .max gx gy))
  | 24 => .ok (l.wf o.x (l.rf o.y))
  | 25 => l.shortFp o w slot fun r a b => fAdd b64 r l.ftz a b
  | 26 => l.shortFp o w slot fun r a b => fAdd b64 r l.ftz a b.neg
  | 27 => l.shortFp o w slot fun r a b => fMul b64 r l.ftz a b
  | 28 => .ok { l with pc := gy }
  | 29 => .ok { l.wg o.x (l.pc + 4) with pc := gy }
  | 30 => .ok { l with pc := if gx == 0 then gy else l.pc + 4 }
  | 31 => .ok { l with pc := if gx == 0 then l.pc + 4 else gy }
  | _ => .ok l

/-- What the memory operation of a paired word read, and whether its store is done. -/
structure ShortMem where
  st : State
  value : Word
  done : Bool

/-- A short memory operation: 8 B or 4 B at offset GY in segment SY. -/
def State.shortMem (s : State) (lc : Lc) (o : Short) (l : LCore) : Res ShortMem :=
  let n := if o.sop ≤ 21 then 8 else 4
  if o.sop = 20 || o.sop = 22 then
    (s.dataRead lc l (l.rs o.y) (l.rg o.y) n).map fun r => ⟨r.2, BitVec.ofNat 64 (leNat r.1), true⟩
  else
    (s.dataWrite lc l (l.rs o.y) (l.rg o.y) (leBytes n (l.rg o.x).toNat)).map fun r => ⟨r.1, 0, r.2⟩

/-- Exceptions of the second operation set xCAUSE.SLOT (R96). -/
def Res.inSlot {α : Type} (r : Res α) (slot : Bool) : Res α :=
  match r with
  | .exc e => .exc { e with slot := slot }
  | .excIn s e => .excIn s { e with slot := slot }
  | x => x

/-! ### The word -/

/-- ILLEGAL conditions of a paired word in the order of Table 4.6: SUB and SLOT. -/
def pairIllegal (a : Short) (b : Option Short) (rest : Nat) : Option (Nat × Bool) :=
  let jr (o : Short) : Bool := o.sop = 28 && o.x ≠ 0
  match b with
  | none =>
    if rest ≠ 0 then some (0x10, true)
    else if a.sop = 0 then some (0x11, false)
    else if jr a then some (0x12, false)
    else if a.isBranch then some (0x13, false)
    else none
  | some o =>
    if a.sop = 0 then some (0x11, false)
    else if o.sop = 0 then some (0x11, true)
    else if jr a then some (0x12, false)
    else if jr o then some (0x12, true)
    else if a.isBranch then some (0x13, false)
    else if a.isMem && o.isMem then some (0x14, false)
    else if a.dest.isSome && a.dest = o.dest then some (0x15, false)
    else none

/-- Write a loaded value. -/
def LCore.shortLoad (l : LCore) (o : Short) (v : Word) : LCore :=
  if o.sop = 20 || o.sop = 22 then l.wg o.x v else l

/-- Both operations on registers: each reads the core as it was; the second's flags stand (R93). -/
def LCore.pairRegs (l : LCore) (a b : Short) (w : BitVec 32) : Res LCore :=
  ((l.short a w false).inSlot false).bind fun l1 =>
    (({ l1 with g := l.g, f := l.f }.short b w true).inSlot true).map fun l2 =>
      match a.dest with
      | some (false, r) => l2.wg r (l1.rg r)
      | some (true, r) => l2.wf r (l1.rf r)
      | none => l2

/-- The word goes on to the next unless its second operation is a branch. -/
def LCore.pairNext (l : LCore) (b : Option Short) : LCore :=
  match b with
  | some o => if o.isBranch then l else l.next
  | none => l.next

/-- The effect of a legal paired word: `false` while its store is held. -/
def State.pairEffect (s : State) (lc : Lc) (a : Short) (b : Option Short) (w : BitVec 32) (l : LCore) :
    Res (State × Bool) :=
  let finish (m : ShortMem) (o : Short) (c : LCore) : State × Bool :=
    if m.done then (m.st.setLc lc.val ((c.shortLoad o m.value).pairNext b), true) else (m.st, false)
  match b with
  | none =>
    if a.isMem then (s.shortMem lc a l).map fun m => finish m a (m.st.lc lc.val)
    else (l.short a w false).map fun c => (s.setLc lc.val c.next, true)
  | some o =>
    if a.isMem then
      (s.shortMem lc a l).bind fun m =>
        (((m.st.lc lc.val).short o w true).inSlot true).map fun c => finish m a c
    else if o.isMem then
      (l.short a w false).bind fun _ =>
        ((s.shortMem lc o l).inSlot true).bind fun m =>
          ((m.st.lc lc.val).short a w false).map fun c => finish m o c
    else (l.pairRegs a o w).map fun c => (s.setLc lc.val (c.pairNext b), true)

/-- What remains of a paired word whose store was held: its other operation (R93, R340). -/
def LCore.pairRest (l : LCore) (a : Short) (b : Option Short) (w : BitVec 32) : LCore :=
  let run (o : Short) (slot : Bool) : LCore :=
    match l.short o w slot with
    | .ok c => c
    | _ => l
  match b with
  | none => l.next
  | some o => (if a.isMem then run o true else run a false).pairNext b

/-- A paired word, bits [30:0] given. -/
def State.paired (s : State) (lc : Lc) (w : BitVec 31) : State :=
  let word : BitVec 32 := (1 : BitVec 1) ++ w
  let a := shortOf (w.toNat / 2 ^ 16)
  let b := if w.getLsbD 15 then some (shortOf w.toNat) else none
  match pairIllegal a b (w.toNat % 2 ^ 15) with
  | some (sub, slot) => s.runInstr lc word fun _ _ => .exc { code := 0x01, sub := sub, slot := slot }
  | none =>
    if (s.lc lc.val).ioWait.isSome then s.ioResume lc word fun l => l.pairRest a b word
    else s.runMem lc word fun s l => s.pairEffect lc a b word l

/-- PAIRED_WORD (R92 to R96, R98). -/
def execPairedWord (lc : Lc) (w : BitVec 31) (s : State) : Outcome State Fault Refusal := .next (s.paired lc w)

/-! ### Undefined encodings (R90, R97, R98, R145 to R148) -/

/-- Reserved bits of a register-layout word: fields D, A, B, C. -/
def resD : Nat := 0x1F * 2 ^ 20
def resA : Nat := 0x1F * 2 ^ 15
def resB : Nat := 0x1F * 2 ^ 10
def resC : Nat := 0x1F * 2 ^ 5
/-- C[4:3], C[4:2], C[4:1] and B[4:3]. -/
def resC43 : Nat := 0x3 * 2 ^ 8
def resC42 : Nat := 0x7 * 2 ^ 7
def resC41 : Nat := 0xF * 2 ^ 6
def resB43 : Nat := 0x3 * 2 ^ 13

/-- Reserved bits of the arithmetic majors of Table 6.2. -/
def fpReserved (decimal : Bool) (minor : Nat) : Option Nat :=
  if minor ≤ 3 then some resC43
  else if minor = 4 || minor = 10 then some (resB + resC43)
  else if minor = 7 || minor = 8 || minor = 13 then some (resB + resC)
  else if minor = 5 || minor = 6 || minor = 9 || minor = 11 || minor = 12 then some resC
  else if minor = 14 then (if decimal then some resC43 else none)
  else if 16 ≤ minor && minor ≤ 19 then some 0
  else none

/-- Reserved bits of the conversions of Table 6.3; `dst` is B[2:0]. -/
def cvtReserved (minor dst : Nat) : Option Nat :=
  let src := minor % 8
  let ofInt (f : Nat) : Bool := f ≤ 6 && f ≠ 4
  match minor / 8 with
  | 0 => if src ≤ 6 && dst ≤ 6 && src ≠ dst then some (resB43 + resC43) else none
  | 1 | 2 => if ofInt src then some (resB + resC43) else none
  | _ => if src ≤ 1 && ofInt dst then some (resB43 + resC43) else none

/-- Reserved bits of a register-layout word by major and minor; `none`: the minor is undefined. -/
def rReserved (major minor w : Nat) : Option Nat :=
  match major with
  | 0x01 => if minor = 5 || minor = 6 || minor = 14 || minor = 15 then some (resB + resC) else if minor ≤ 15 then some resC else none
  | 0x02 => if minor ≤ 4 then some resC else none
  | 0x03 => if minor ≤ 7 then some resC else none
  | 0x20 =>
    if minor ≤ 1 then some (resB + resC) else if minor = 5 then some 0 else if minor ≤ 7 then some resC else none
  | 0x21 => if minor ≤ 3 then some resC42 else none
  | 0x22 =>
    if minor = 0 then some (resB + resC)
    else if minor = 1 then some resC
    else if minor = 2 then some (resB + resC41)
    else if minor = 5 || minor = 13 then some (resD + resA + resB + resC)
    else if (3 ≤ minor && minor ≤ 6) || (11 ≤ minor && minor ≤ 14) then some (resD + resB + resC)
    else none
  | 0x23 => if minor ≤ 2 then some (resD + resA + resB + resC) else if minor = 3 then some (resA + resB + resC) else none
  | 0x2E => if minor = 0 then some (resD + resB + resC) else if minor = 1 then some (resB + resC) else none
  | 0x30 | 0x31 | 0x32 | 0x33 => fpReserved false minor
  | 0x34 | 0x35 => fpReserved true minor
  | 0x36 => cvtReserved minor (w / 2 ^ 10 % 8)
  | 0x37 => if minor ≤ 4 then some (resB + resC) else none
  | 0x38 =>
    if minor = 3 then some resA
    else if minor = 4 then some resD
    else if minor ≤ 6 then some (resD + resA + resB + resC)
    else none
  | 0x39 => if minor = 0 then some (resD + resB + resC) else if minor = 1 then some (resD + resA + resB + resC) else none
  | 0x3C =>
    if minor = 0 then some resC
    else if minor = 1 || minor = 2 then some (resB + resC)
    else if minor = 3 then some resC42
    else none
  | _ => none

/-- The word rounds under a code in C[2:0] that its encoding does not allow (R148). -/
def badRounding (major minor w : Nat) : Bool :=
  let rm := w / 2 ^ 5 % 8
  let bad (decimal : Bool) : Bool := rm = 6 || (rm = 5 && !decimal)
  let arith : Bool := minor ≤ 4 || minor = 10 || minor = 14
  if 0x30 ≤ major && major ≤ 0x33 then arith && bad false
  else if major = 0x34 || major = 0x35 then arith && bad true
  else if major = 0x36 then
    let dst := w / 2 ^ 10 % 8
    bad (match minor / 8 with
      | 0 | 3 => decide (4 ≤ dst)
      | _ => decide (4 ≤ minor % 8))
  else false

/-- Layout of a major: register, undefined, or one whose every word is defined. -/
def majorUndefined (m : Nat) : Bool :=
  m = 0 || (0x04 ≤ m && m ≤ 0x07) || m = 0x1F || (0x24 ≤ m && m ≤ 0x27) || m = 0x2F || m = 0x3A || m = 0x3B || m = 0x3D
def majorAnyWord (m : Nat) : Bool :=
  (0x08 ≤ m && m ≤ 0x1E) || (0x28 ≤ m && m ≤ 0x2D) || m = 0x3E

/-- SUB and SLOT of the ILLEGAL that a word raises by its encoding alone; `none`: the word is defined. -/
def illegalWord (w : BitVec 32) : Option (Nat × Bool) :=
  let n := w.toNat
  if w.getLsbD 31 then
    pairIllegal (shortOf (n / 2 ^ 16)) (if w.getLsbD 15 then some (shortOf n) else none) (n % 2 ^ 15)
  else
    let major := n / 2 ^ 25
    let minor := n % 32
    if majorUndefined major then some (0x01, false)
    else if majorAnyWord major then none
    else
      match rReserved major minor n with
      | none => some (0x02, false)
      | some r => if n &&& r ≠ 0 || badRounding major minor n then some (0x03, false) else none

/-- UNDEFINED_ENCODING (R97, R98, R458). -/
def execUndefinedEncoding (lc : Lc) (w : BitVec 32) (s : State) : Outcome State Fault Refusal :=
  .next (match illegalWord w with
    | some (sub, slot) => s.runInstr lc w fun _ _ => .exc { code := 0x01, sub := sub, slot := slot }
    | none => s)

/-! ### Fetch (R88, R91, R116) -/

/-- INSTRUCTION_FETCH_FAULT: the word at the next offset cannot be fetched. -/
def execInstructionFetchFault (lc : Lc) (s : State) : Outcome State Fault Refusal :=
  .next (match s.fetchCheck lc (s.lc lc.val) (s.lc lc.val).pc.toNat with
    | .ok _ | .wait | .waitIn _ => s
    | .exc e => s.runInstr lc 0 fun _ _ => .exc e
    | .excIn _ e => s.runInstr lc 0 fun _ _ => .exc e
    | .freeze pa => s.runInstr lc 0 fun _ _ => .freeze pa)

end Sys2Proof.Machine
end

