-- ==== Sys2Proof/Machine/Micro.lean ====
section
/-! DEFINITION. Micro-routines of custom opcodes (chapter 7): ranges and their translations, the micro-operations, the
sequencer, commit points, and the ends of a segment. -/

namespace Sys2Proof.Machine

open Host (Outcome)

/-! ### Ranges (R172) -/

/-- A piece of a range inside one 4 KiB page. -/
structure Piece where
  pa : Nat
  len : Nat
  unc : Bool
  deriving DecidableEq, Repr

/-- Every check of a range of at most 128 B for the rights named, as a confirmed access makes them: its linear address,
its pieces, and the core with its cached translations. -/
def State.rangeAddr (s : State) (lc : Lc) (l : LCore) (d : Quad) (off n need : Nat) : Res (Nat × List Piece × LCore) :=
  (segCheck d (pswPolder l.psw) l.level off n need).bind fun la =>
    let k := min n (4096 - la % 4096)
    (s.translateAt lc l la need).bind fun r =>
      if !s.fwPass (.core lc) r.1 k need then .freeze r.1
      else if k = n then .ok (la, [⟨r.1, k, r.2.1⟩], r.2.2)
      else
        (s.translateAt lc r.2.2 (la + k) need).bind fun q =>
          if !s.fwPass (.core lc) q.1 (n - k) need then .freeze q.1
          else .ok (la, [⟨r.1, k, r.2.1⟩, ⟨q.1, n - k, q.2.1⟩], q.2.2)

/-- The pieces cut at line boundaries. -/
def Piece.lines (p : Piece) : List Piece :=
  let k := min p.len (128 - p.pa % 128)
  if k = p.len then [p] else [⟨p.pa, k, p.unc⟩, ⟨p.pa + k, p.len - k, p.unc⟩]

/-- Read the bytes of pieces that every check has passed. -/
def State.readPieces (s : State) (lc : Lc) : List Piece → Res (List Byte × State)
  | [] => .ok ([], s)
  | p :: t =>
    (s.readAt lc p.pa p.len p.unc).bind fun r =>
      (r.2.readPieces lc t).map fun q => (r.1 ++ q.1, q.2)

/-- Write bytes to pieces that every check has passed. -/
def State.writePieces (s : State) (lc : Lc) : List Piece → List Byte → Res State
  | [], _ => .ok s
  | p :: t, bs => (s.writeAt lc p.pa (bs.take p.len) p.unc).bind fun r => r.1.writePieces lc t (bs.drop p.len)

/-! ### Errors of a microword (R170) -/

/-- A microword fetch reports an error on core letter `c` of the core's slot: corrected, or uncorrectable; answers
whether the core stops there. -/
def State.microEvent (s : State) (lc : Lc) (ev : MicroEvent) : State × Bool :=
  match (s.lc lc.val).host with
  | none => (s, false)
  | some h =>
    let i := hostIsland h
    let k := slotPos h
    let x := s.isl i.val
    let mine (c : Fin 4) : Bool := (x.slots.get k).positions.contains c && (x.cores.get c).healthy
    let met (c : Fin 4) (ue : Bool) (a : BitVec 16) : State × Bool :=
      if mine c then s.microError i k c ue a.toNat (s.lc lc.val).pc.toNat else (s, false)
    match ev with
    | .ok => (s, false)
    | .ecc c a => met c false a
    | .ue c a => met c true a

/-! ### A segment in execution -/

/-- What a custom instruction names: its fields, its decode entry, its word. -/
structure MicroCtx where
  lc : Lc
  d : Reg
  a : Reg
  b : Reg
  cx : Fin 16
  entry : Word
  word : BitVec 32

def MicroCtx.long (x : MicroCtx) : Bool := x.entry.getLsbD 62
def MicroCtx.mem (x : MicroCtx) : Bool := x.entry.getLsbD 61
def MicroCtx.freg (x : MicroCtx) : Bool := x.entry.getLsbD 60

/-- A segment: the module with the effects of its reads, the core's registers as the routine sees them, the micro-state,
the held stores (R176), the latches, and what followed the commit. -/
structure Seg where
  st : State
  core : LCore
  m : MicroSt
  stores : List (List Piece × List Byte)
  /-- The stores that the COMMIT made visible, which its retire record folds in (R211). -/
  written : List (List Piece × List Byte)
  latches : List (Nat × Latch)
  committed : Bool
  /-- Micro-cycles after the COMMIT microword (R179). -/
  cycles : Nat
  /-- Poison met after the commit: its physical address (R178). -/
  late : Option Nat

/-- How a segment ends. -/
inductive SegEnd where
  | boundary
  | done
  | exc (e : Exc)
  | freeze (pa : Nat)
  | wait
  /-- MC_STACK or MC_ORDER: the kind of its fault. -/
  | stop (kind : Nat)
  | overrun

def mcStack : Nat := 0x23
def mcOrder : Nat := 0x24
def mcOverrun : Nat := 0x25

/-! ### Selectors (Table 7.3, R187) -/

/-- A free value (log entry 2). -/
def Seg.draw (g : Seg) : Word × Seg := let r := g.st.draw; (r.1, { g with st := r.2 })

/-- The low or high half of an F register. -/
def quadHalf (q : Quad) (hi : Bool) : Word := if hi then quadHi q else quadLo q
def setHalf (q : Quad) (hi : Bool) (v : Word) : Quad := if hi then quadOf v (quadLo q) else quadOf (quadHi q) v

/-- Value of a source selector; FC of an F-register routine, a line buffer as an operand: free. -/
def Seg.read (g : Seg) (x : MicroCtx) (imm sel : Nat) : Word × Seg :=
  let gr (r : Reg) : Word := if x.freg then 0 else g.core.rg r
  let fr (r : Reg) : Quad := if x.freg then g.core.rf r else g.core.rf 0
  let hi : Bool := sel % 2 = 1
  if sel < 0x10 then (g.m.t.getD sel 0, g)
  else if sel = 0x10 then (gr x.d, g)
  else if sel = 0x11 then (gr x.a, g)
  else if sel = 0x12 then (gr x.b, g)
  else if sel = 0x13 then (BitVec.ofNat 64 x.cx.val, g)
  else if sel ≤ 0x15 then (quadHalf (fr x.d) hi, g)
  else if sel ≤ 0x17 then (quadHalf (fr x.a) hi, g)
  else if sel ≤ 0x19 then (quadHalf (fr x.b) hi, g)
  else if sel ≤ 0x1B then (if x.freg then g.draw else (quadHalf (g.core.rf 0) hi, g))
  else if sel ≤ 0x1F then (g.core.bank.prog.toList.getD (sel - 0x1C) 0, g)
  else if sel = 0x20 then (BitVec.ofNat 64 imm, g)
  else if sel = 0x21 then (0, g)
  else if sel = 0x22 then (BitVec.ofNat 64 (bits g.core.psw 19 16), g)
  else g.draw

/-- Write a destination selector; `none`: the entry does not permit the write (R187).  A read-only selector and ZERO
discard it. -/
def Seg.write (g : Seg) (x : MicroCtx) (sel : Nat) (v : Word) : Option Seg :=
  let wr (c : LCore) : Option Seg := some { g with core := c }
  let gw (bit : Nat) (r : Reg) : Option Seg := if !x.freg && x.entry.getLsbD bit then wr (g.core.wg r v) else none
  let fw (bit : Nat) (r : Reg) : Option Seg :=
    if x.freg && x.entry.getLsbD bit then wr (g.core.wf r (setHalf (g.core.rf r) (sel % 2 = 1) v)) else none
  if sel < 0x10 then some { g with m := { g.m with t := g.m.t.set sel v } }
  else if sel = 0x10 then gw 59 x.d
  else if sel = 0x11 then gw 58 x.a
  else if sel = 0x12 then gw 57 x.b
  else if sel = 0x13 then none
  else if sel ≤ 0x15 then fw 59 x.d
  else if sel ≤ 0x17 then fw 58 x.a
  else if sel ≤ 0x19 then fw 57 x.b
  else if sel ≤ 0x1B then none
  else if sel ≤ 0x1F then
    if !x.long then none
    else
      match fin? 4 (sel - 0x1C) with
      | some k => wr (g.core.setBank { g.core.bank with prog := g.core.bank.prog.set k v })
      | none => none
  else if sel = 0x22 then
    if x.entry.getLsbD 56 then wr { g.core with psw := setBits g.core.psw 19 16 (bits v 3 0) } else none
  else some g

/-! ### ALU operations (Table 7.2) -/

/-- What an operation gives: its result, and C and V where the manual says what they are. -/
structure AluRes where
  r : Option Word
  c : Option Bool := none
  v : Option Bool := none

/-- Packed BCD: every digit is at most 9. -/
def bcdOk (n k : Nat) : Bool := (List.range k).all fun i => n / 16 ^ i % 16 ≤ 9
/-- Value of packed BCD digits, and packed BCD digits of a value. -/
def bcdVal (n k : Nat) : Nat := (List.range k).foldl (fun a i => a + n / 16 ^ i % 16 * 10 ^ i) 0
def bcdOf (v k : Nat) : Nat := (List.range k).foldl (fun a i => a + v / 10 ^ i % 10 * 16 ^ i) 0

/-- Number of leading zero bits. -/
def clz (x : Word) : Nat := if x = 0 then 64 else 63 - x.toNat.log2

def aluOp (op : Nat) (a b : Word) : AluRes :=
  let f : FlagBits := ⟨false, false, false, false⟩
  let full (x : IntRes) : AluRes := ⟨some x.r, some x.flags.c, some x.flags.ov⟩
  let shift (x : IntRes) : AluRes := ⟨some x.r, some x.flags.c, none⟩
  let val (n : Nat) : AluRes := { r := some (BitVec.ofNat 64 n) }
  match op with
  | 0x01 => { r := some a }
  | 0x02 => full (intAdd a b f)
  | 0x03 => full (intSub a b f)
  | 0x04 => { r := some (a &&& b) }
  | 0x05 => { r := some (a ||| b) }
  | 0x06 => { r := some (a ^^^ b) }
  | 0x07 => full (intShl a b f)
  | 0x08 => shift (intShr a b f)
  | 0x09 => shift (intSar a b f)
  | 0x0A => val (a.toNat * b.toNat)
  | 0x0B => val (a.toNat * b.toNat / 2 ^ 64)
  | 0x0C => val (clz a)
  | 0x0D => val (leNat (leBytes 8 a.toNat).reverse)
  | 0x0E => val (if a = b then 1 else 0)
  | 0x0F => val (if a.ult b then 1 else 0)
  | 0x10 => val (bcdOf (dpdDecode (a.toNat % 1024)) 3)
  | 0x11 => if bcdOk (a.toNat % 4096) 3 then val (dpdEncode (bcdVal (a.toNat % 4096) 3)) else { r := none }
  | 0x12 =>
    if bcdOk a.toNat 16 && bcdOk b.toNat 16 then
      let t := bcdVal a.toNat 16 + bcdVal b.toNat 16
      ⟨some (BitVec.ofNat 64 (bcdOf t 16)), some (10 ^ 16 ≤ t), none⟩
    else { r := none }
  | 0x13 =>
    if bcdOk a.toNat 16 && bcdOk b.toNat 16 then
      let x := bcdVal a.toNat 16
      let y := bcdVal b.toNat 16
      ⟨some (BitVec.ofNat 64 (bcdOf (x + 10 ^ 16 - y) 16)), some (x < y), none⟩
    else { r := none }
  | 0x14 => { r := some ((Config.recip a).setWidth 64) }
  | _ => { r := some 0 }

/-- The ALU part of a word: the result goes to DEST, the micro-flags are set from it, what is not stated is free. -/
def Seg.alu (g : Seg) (x : MicroCtx) (w : Quad) : Option Seg :=
  if mwAlu w = 0 then some g
  else
    let ra := g.read x (mwImm w) (mwSrcA w)
    let rb := ra.2.read x (mwImm w) (mwSrcB w)
    let o := aluOp (mwAlu w) ra.1 rb.1
    let g0 := rb.2
    let u : Word × Seg := match o.r, o.c, o.v with
      | some _, some _, some _ => (0, g0)
      | _, _, _ => g0.draw
    let q : Word × Seg := match o.r with
      | some r => (r, u.2)
      | none => u.2.draw
    let r := q.1
    let g1 : Seg := { q.2 with m := { q.2.m with
      z := r == 0, n := r.msb, c := o.c.getD (u.1.getLsbD 0), v := o.v.getD (u.1.getLsbD 1) } }
    g1.write x (mwDest w) r

/-! ### Memory operations (R172, R176, R178) -/

/-- Segment register that SEG names: its index. -/
def segIndex (x : MicroCtx) (n : Nat) : Reg :=
  if n = 0x20 then x.d else if n = 0x21 then x.a else if n = 0x22 then x.b else regOf n

/-- Pieces of the part [la, la + n) of a latched range. -/
def Latch.part (k : Latch) (la n : Nat) : List Piece :=
  let go := k.pieces.foldl (fun (acc : Nat × List Piece) (p : Nat × Nat × Bool) =>
    let lo := max la acc.1
    let hi := min (la + n) (acc.1 + p.2.1)
    (acc.1 + p.2.1, if lo < hi then acc.2 ++ [⟨p.1 + (lo - acc.1), hi - lo, p.2.2⟩] else acc.2)) (k.first, [])
  go.2

/-- The pieces a LOAD or STORE accesses: through its latch without a check, else checked now; `none`: no latch covers
it. -/
def Seg.access (g : Seg) (x : MicroCtx) (w : Quad) (off : Word) (n need : Nat) : Option (Res (List Piece × LCore)) :=
  let sn := segIndex x (mwSeg w)
  let d := g.core.rs sn
  let l := g.st.lc x.lc.val
  if mwUsel w then
    match g.latches.find? fun e => e.1 = mwLatch w with
    | none => none
    | some (_, k) =>
      let la := descBase d + off.toNat
      if k.seg = sn.val && k.first ≤ la && la + n ≤ k.first + k.size && (if need = needR then k.r else k.w) then
        some (.ok (k.part la n, l))
      else none
  else if g.committed then none
  else
    some ((check (off.toNat % n = 0) { code := 0x03, addr := off.toNat }).bind fun _ =>
      (g.st.rangeAddr x.lc l d off.toNat n need).map fun r => (r.2.1, r.2.2))

/-- Bytes of a source selector of a STORE. -/
def Seg.storeBytes (g : Seg) (x : MicroCtx) (w : Quad) (n : Nat) : List Byte × Seg :=
  if mwSrcB w = 0x23 then (g.m.lb0.take n, g)
  else if mwSrcB w = 0x24 then (g.m.lb1.take n, g)
  else
    let r := g.read x (mwImm w) (mwSrcB w)
    if n ≤ 8 then (leBytes n r.1.toNat, r.2)
    else (leBytes 8 r.1.toNat ++ (r.2.st.drawBytes (n - 8)).1, { r.2 with st := (r.2.st.drawBytes (n - 8)).2 })

/-- Put loaded bytes where DEST says; a 64-bit selector takes at most 8 B. -/
def Seg.loadInto (g : Seg) (x : MicroCtx) (w : Quad) (bs : List Byte) (pa : Nat) : Option Seg :=
  let fill (old : List Byte) : List Byte := bs ++ old.drop bs.length
  if mwDest w = 0x23 then some { g with m := { g.m with lb0 := fill g.m.lb0, lbAddr := if bs.length = 128 then some pa else g.m.lbAddr } }
  else if mwDest w = 0x24 then some { g with m := { g.m with lb1 := fill g.m.lb1 } }
  else if bs.length ≤ 8 then g.write x (mwDest w) (BitVec.ofNat 64 (leNat bs))
  else let r := g.draw; r.2.write x (mwDest w) r.1

/-- Keep the translations a check has cached. -/
def Seg.keepTlb (g : Seg) (x : MicroCtx) (l : LCore) : Seg :=
  { g with st := g.st.modLc x.lc.val fun c => { c with tlb := l.tlb } }

def accOf (need : Nat) : Nat := if need = needR then 2 else if need = needW then 3 else 4

/-- Go on with the value of an operation, or end the segment. -/
def segBind {α : Type} (g : Seg) (r : Res α) (acc : Nat) (k : α → Seg × Option SegEnd) : Seg × Option SegEnd :=
  match r.tag acc with
  | .ok a => k a
  | .exc e => (g, some (.exc e))
  | .freeze pa => (g, some (.freeze pa))
  | .excIn st e => ({ g with st := st }, some (.exc e))
  | .wait | .waitIn _ => (g, some .wait)

def segKeep (g : Seg) (o : Option Seg) : Seg × Option SegEnd :=
  match o with
  | some g1 => (g1, none)
  | none => (g, some (.stop mcOrder))

/-- A LOAD. -/
def Seg.load (g : Seg) (x : MicroCtx) (w : Quad) (off : Word) (n : Nat) : Seg × Option SegEnd :=
  match g.access x w off n needR with
  | none => (g, some (.stop mcOrder))
  | some r =>
    segBind g r 2 fun p =>
      let g1 := g.keepTlb x p.2
      let ps := p.1.flatMap Piece.lines
      let pa := (ps.map (·.pa)).headD 0
      let held := g1.stores.flatMap fun e =>
        (e.1.foldl (fun (a : List Byte × List StoreEntry) q => (a.1.drop q.len, a.2 ++ [⟨q.pa, a.1.take q.len⟩])) (e.2, [])).2
      let withHeld (bs : List Byte) : List Byte :=
        (ps.foldl (fun (a : List Byte × List Byte) q =>
          (a.1.drop q.len, a.2 ++ overlayBytes held q.pa (a.1.take q.len))) (bs, [])).2
      let failed (st : State) (e : Exc) : Seg × Option SegEnd :=
        let v := st.drawBytes n
        let late := if e.code = 0x11 then some e.addr else g1.late
        let g2 : Seg := { g1 with st := v.2, late := late, m := { g1.m with poison := decide (e.code = 0x11) } }
        segKeep g (g2.loadInto x w v.1 pa)
      if g1.committed then
        match g1.st.readPieces x.lc ps with
        | .ok (bs, st) => segKeep g ({ g1 with st := st }.loadInto x w (withHeld bs) pa)
        | .wait | .waitIn _ => (g1, some .wait)
        | .exc e => failed g1.st e
        | .excIn st e => failed st e
        | .freeze _ =>
          let v := g1.st.drawBytes n
          segKeep g ({ g1 with st := v.2 }.loadInto x w v.1 pa)
      else
        segBind g1 (g1.st.readPieces x.lc ps) 2 fun q =>
          let g2 : Seg := { g1 with st := q.2, m := { g1.m with poison := false } }
          segKeep g1 (g2.loadInto x w (withHeld q.1) pa)

/-- A STORE: held before the commit, when it makes every check now; performed after it. -/
def Seg.store (g : Seg) (x : MicroCtx) (w : Quad) (off : Word) (n : Nat) : Seg × Option SegEnd :=
  let b := g.storeBytes x w n
  match b.2.access x w off n needW with
  | none => (g, some (.stop mcOrder))
  | some r =>
    segBind g r 3 fun p =>
      let g1 := b.2.keepTlb x p.2
      let ps := p.1.flatMap Piece.lines
      if g1.committed then
        match g1.st.writePieces x.lc ps b.1 with
        | .ok st => ({ g1 with st := st }, none)
        | .wait | .waitIn _ => (g1, some .wait)
        | _ => (g1, none)
      else if g1.stores.length ≥ 32 then (g1, some (.stop mcOrder))
      else
        segBind g1 (g1.st.writePieces x.lc ps b.1) 3 fun _ =>
          ({ g1 with stores := g1.stores ++ [(ps, b.1)] }, none)

/-- PROBE_R, PROBE_W, PROBE_RW: the range is checked and latched; after the commit point no latch covers it (R178). -/
def Seg.probe (g : Seg) (x : MicroCtx) (w : Quad) (off : Word) (n need : Nat) : Seg × Option SegEnd :=
  let sn := segIndex x (mwSeg w)
  let l := g.st.lc x.lc.val
  if g.committed then (g, some (.stop mcOrder)) else
  segBind g (g.st.rangeAddr x.lc l (g.core.rs sn) off.toNat n need) (accOf need) fun r =>
    let g1 := g.keepTlb x r.2.2
    let k : Latch := ⟨sn.val, r.1, n, r.2.1.map fun p => (p.pa, p.len, p.unc), need ≠ needW, need ≠ needR⟩
    ({ g1 with latches := (mwLatch w, k) :: g1.latches.filter fun e => e.1 ≠ mwLatch w }, none)

/-- The memory part of a word. -/
def Seg.mem (g : Seg) (x : MicroCtx) (w : Quad) : Seg × Option SegEnd :=
  if mwMem w = 0 then (g, none)
  else if !x.mem then (g, some (.stop mcOrder))
  else
    let a := g.read x (mwImm w) (mwSrcA w)
    let off := a.1 + (BitVec.ofNat 16 (mwImm w)).signExtend 64
    let n := 2 ^ mwSize w
    match mwMem w with
    | 1 => a.2.load x w off n
    | 2 => a.2.store x w off n
    | 3 => a.2.probe x w off n needR
    | 4 => a.2.probe x w off n needW
    | _ => a.2.probe x w off n needRW

/-! ### Engine requests and floating-point flags (R172, R180) -/

/-- SUBMIT hands the request in LB0 to the core's slot at an engine, for whose block the line that filled LB0 stands; a
request for a slot that is not idle waits for it.  DESIGN CHOICE (log entry 114): where no LOAD of this routine has filled
LB0, there is no request, and nothing is submitted. -/
def Seg.submit (g : Seg) (si : Nat) : Seg :=
  match g.m.lbAddr with
  | none => g
  | some pa =>
    let p := pswPolder g.core.psw
    { g with st := g.st.modAslot si fun y =>
        if y.busy then { y with queue := y.queue ++ [(pa / 128 * 128, g.m.lb0, p)] }
        else { y with busy := true, block := pa / 128 * 128, polder := p, req := some g.m.lb0 } }

/-- EXTOP of a word. -/
def Seg.ext (g : Seg) (x : MicroCtx) (w : Quad) : Seg × Option SegEnd :=
  let cph : Bool := mwExtSel w = 1
  let si := slotIdx cph x.lc
  let eng := g.st.aslot si
  match mwExt w with
  | 0 => (g, none)
  | 3 =>
    let r := g.read x (mwImm w) (mwSrcA w)
    ({ r.2 with core := r.2.core.fpSignal (bits r.1 4 0) x.word false }, none)
  | 1 =>
    if !x.mem || !g.committed then (g, some (.stop mcOrder)) else (g.submit si, none)
  | _ =>
    if !x.mem then (g, some (.stop mcOrder))
    else
      let st := ((g.st.freshBytes (eng.block + 2) 1).1.headD 0).toNat
      ({ g with m := { g.m with engDone := !eng.busy, engErr := !eng.busy && 0x10 < st } }, none)

/-! ### Sequencing (R173, R174, Table 7.4) -/

/-- An interrupt would be taken, or a stop is requested. -/
def State.stopReq (s : State) (lc : Lc) : Bool :=
  let l := s.lc lc.val
  l.reqs.quiesce || l.reqs.debug || l.reqs.clockCut || l.reqs.reset || l.reqs.migrate || l.nextSet.isSome ||
    (!pswPolder l.psw && !l.pendP.isEmpty)

def Seg.cond (g : Seg) (lc : Lc) (n : Nat) : Bool :=
  match n with
  | 0x01 => true
  | 0x02 => g.m.z
  | 0x03 => !g.m.z
  | 0x04 => g.m.n
  | 0x05 => !g.m.n
  | 0x06 => g.m.c
  | 0x07 => g.m.v
  | 0x08 => g.m.engDone
  | 0x09 => g.m.engErr
  | 0x0A => g.m.poison
  | 0x0B => g.m.resuming
  | 0x0C => g.st.stopReq lc
  | _ => false

/-- The next micro-address, or MC_STACK. -/
def Seg.advance (g : Seg) (x : MicroCtx) (w : Quad) : Seg × Option SegEnd :=
  let a := g.m.addr
  if mwUstk w = 2 then
    match g.m.stack with
    | [] => (g, some (.stop mcStack))
    | n :: t => ({ g with m := { g.m with addr := n, stack := t } }, none)
  else if mwUstk w = 1 && g.m.stack.length ≥ 8 then (g, some (.stop mcStack))
  else
    let stack := if mwUstk w = 1 then (a + 1) :: g.m.stack else g.m.stack
    ({ g with m := { g.m with addr := if g.cond x.lc (mwCond w) then mwNext w else a + 1, stack := stack } }, none)

/-! ### Commit and ends (R176 to R179, R182, R184) -/

/-- The registers that a routine changes become the core's. -/
def Seg.publish (g : Seg) (x : MicroCtx) : State :=
  g.st.modLc x.lc.val fun c =>
    let k := g.core
    { c with g := k.g, f := k.f, psw := k.psw, fpsr := k.fpsr, fpxr := k.fpxr, fpxa := k.fpxa, fpCount := k.fpCount
             fore := k.fore, pold := k.pold }

/-- Everything held becomes visible together; `none`: a store cannot be accepted yet. -/
def Seg.commit (g : Seg) (x : MicroCtx) : Option Seg :=
  let r := g.stores.foldl (fun (o : Option State) e =>
    o.bind fun s =>
      match s.writePieces x.lc e.1 e.2 with
      | .ok s1 => some s1
      | .wait | .waitIn _ => none
      | _ => some s) (some g.st)
  r.map fun st => { g with st := st, stores := [], written := g.stores, committed := true }

/-- One microword: the operations, a commit, the next address.  Answers the segment's end when it ends there.  DESIGN
CHOICE (log entry 114): the ALU operation comes before FPFLAGS, which reads SRCA after DEST is written. -/
def Seg.word (g : Seg) (x : MicroCtx) (w : Quad) : Seg × Option SegEnd :=
  if g.committed && mwCommit w then (g, some (.stop mcOrder))
  else if g.committed && 512 < g.cycles + mwCyc w + 1 then (g, some .overrun)
  else
    match g.alu x w with
    | none => (g, some (.stop mcOrder))
    | some g1 =>
      match g1.mem x w with
      | (g2, some e) => (g2, some e)
      | (g2, none) =>
        match g2.ext x w with
        | (g3, some e) => (g3, some e)
        | (g3, none) =>
          let g4 : Seg := if g3.committed then { g3 with cycles := g3.cycles + mwCyc w + 1 } else g3
          let g5 := if !g4.committed && (mwCommit w || mwTerm w ≠ 0) then g4.commit x else some g4
          match g5 with
          | none => (g, some .wait)
          | some g6 =>
            if mwTerm w = 2 then (g6, some .done)
            else if mwTerm w = 1 && !x.long then (g, some (.stop mcOrder))
            else
              match g6.advance x w with
              | (g7, some e) => (g7, some e)
              | (g7, none) => (g7, if mwTerm w = 1 then some .boundary else none)

/-- The microword at an address: ROM, word of the bank, or what no package has written there (R169). -/
def microword (words : List Quad) (addr : Nat) : Quad :=
  if addr < 0x8000 then Config.romWord addr
  else if addr < 0x9000 then (words[addr - 0x8000]?).getD (Config.bareWord addr)
  else Config.bareWord addr

/-- The segment runs to its end; a count of words that no routine need exceed ends it as not yet done. -/
def Seg.run (x : MicroCtx) (words : List Quad) : Nat → Seg → Seg × SegEnd
  | 0, g => (g, .wait)
  | n + 1, g =>
    match g.word x (microword words g.m.addr) with
    | (g1, some e) => (g1, e)
    | (g1, none) => Seg.run x words n g1

/-- Microwords that a segment may run before the model calls it not yet done. -/
def segFuel : Nat := 2 ^ 32

/-! ### Custom opcodes (R186, R187) -/

def LCore.wcs (l : LCore) (bank : Bool) : WcsBank := if bank then l.bank1 else l.bank0

/-- PROGS names this instruction (R184). -/
def LCore.resumes (l : LCore) (w : BitVec 32) : Bool :=
  let b := l.bank
  b.progs.msb && b.progs.setWidth 32 = w && b.proga = l.pc

/-- PROGA and PROGS after a committed boundary, and after END. -/
def LCore.progSet (l : LCore) (w : BitVec 32) : LCore :=
  l.setBank { l.bank with proga := l.pc, progs := BitVec.ofNat 64 (2 ^ 63 + w.toNat) }
def LCore.progEnd (l : LCore) : LCore := l.setBank { l.bank with progs := setBit l.bank.progs 63 false }

/-- A fresh routine: temporaries 0, the micro-stack empty, the line buffers free. -/
def State.microStart (s : State) (l : LCore) (w : BitVec 32) (entry : Word) : MicroSt × State :=
  let a := s.drawBytes 128
  let b := a.2.drawBytes 128
  ({ word := w, pc := l.pc, bank := l.activeBank, addr := 0x8000 + bits entry 11 0, t := List.replicate 16 0, stack := []
     z := false, n := false, c := false, v := false, engDone := false, engErr := false, poison := false
     resuming := entry.getLsbD 62 && l.resumes w, lb0 := a.1, lb1 := b.1, lbAddr := none }, b.2)

/-- The core stops as under R118, with a SEVERE fault of a kind at a micro-address. -/
def State.microStop (s : State) (lc : Lc) (kind addr : Nat) : State :=
  (s.modLc lc.val fun c => { c with stops := { c.stops with fatal := true }, micro := none, overrun := none }).report
    (s.lcSrc lc.val) kind clsSevere addr

/-- Requests that an abandoned segment, which began in `s`, has issued are not sent again (R177, R287). -/
def State.abandonReqs (s t : State) (lc : Lc) : State :=
  match (s.lc lc.val).host with
  | none => t
  | some h =>
    let new (o : Outstanding) : Bool := o.req = .slot h && !(s.outReqs.any fun x => x.req = o.req && x.line = o.line)
    { t with outReqs := t.outReqs.map fun o => if new o then { o with dropped := true } else o }

/-- What the end of a segment leaves.  A MACHINE_CHECK of poison met after the commit follows it, after an FP_TRAP that is
pending (R161, R178).  DESIGN CHOICE (log entry 114): at END the instruction counts toward the 256 of R161 also when an
earlier segment of its own has recorded the trap. -/
def State.segEnd (s : State) (x : MicroCtx) (g : Seg) (e : SegEnd) : State :=
  let lc := x.lc
  let kept := if g.committed then g.publish x else s.abandonReqs g.st lc
  let late (t : State) : State :=
    match g.late with
    | some pa =>
      if (t.lc lc.val).fpPend then
        (t.modLc lc.val fun c => { c with lateCheck := some (pa, c.pc, x.word) }).fpTrap lc
      else t.enterExc lc x.word { code := 0x11, addr := pa, access := 2 }
    | none => t
  match e with
  | .wait => s
  | .exc e => (s.abandonReqs g.st lc).takeExc lc x.word e
  | .freeze pa => (s.abandonReqs g.st lc).freezeCore lc pa
  | .stop kind => kept.microStop lc kind g.m.addr
  | .overrun => kept.modLc lc.val fun c => { c with overrun := some (BitVec.ofNat 16 g.m.addr) }
  | .boundary =>
    late ((g.publish x).modLc lc.val fun c => { c.progSet x.word with micro := some g.m })
  | .done =>
    let pend := (s.lc lc.val).fpPend
    let t := (g.publish x).modLc lc.val fun c =>
      let c1 := if x.long then c.progEnd else c
      let c2 : LCore := { c1.next with micro := none }
      if pend then c2.countFp else c2
    late (s.retired lc t)

/-- The segment committed, or its instruction takes an exception: it yields a retire record. -/
def SegEnd.records : SegEnd → Bool
  | .boundary | .done | .exc _ => true
  | _ => false

/-- A custom opcode on a core that is ready for it runs one segment of its routine, from its entry or on from the boundary
it stands at: the state after it, whether it yields a retire record, and the stores that it made visible. -/
def State.customRun (s : State) (lc : Lc) (k : Fin 64) (d a b : Reg) (cx : Fin 16) (ev : MicroEvent) :
    State × Bool × List (List Piece × List Byte) :=
  let w := encC d.val a.val b.val cx.val k.val
  let l := s.lc lc.val
  let cont := match l.micro with
    | some m => if m.word = w ∧ m.pc = l.pc then some m else none
    | none => none
  let bank := (cont.map (·.bank)).getD l.activeBank
  let entry := (l.wcs bank).entries.getD k.val 0
  if cont.isNone && !entry.msb then (s.takeExc lc w (excIllegal 0x06), true, [])
  else if cont.isNone && l.level < bits entry 49 48 then (s.takeExc lc w excPrivilege, true, [])
  else
    let x : MicroCtx := ⟨lc, d, a, b, cx, entry, w⟩
    match s.microEvent lc ev with
    | (s1, true) => (s1, false, [])
    | (s1, false) =>
      let m : MicroSt × State := match cont with
        | some m => (m, s1)
        | none => s1.microStart l w entry
      let g : Seg := ⟨m.2, m.2.lc lc.val, m.1, [], [], [], false, 0, none⟩
      let r := Seg.run x (l.wcs bank).words segFuel g
      (s1.segEnd x r.1 r.2, r.2.records, r.1.written)

/-- The record of a segment: the registers that it changed, and its STOREs in program order (R211). -/
def State.segRec (s t : State) (lc : Lc) (w : BitVec 32) (ws : List (List Piece × List Byte)) : Option RetireRec :=
  (s.retireRec lc w (.ok t)).map fun r =>
    { r with accs := ws.map fun e => ((e.1.headD ⟨0, 0, false⟩).pa, 3 + Nat.log2 e.2.length * 16, e.2) }

/-- A custom opcode: the vote of the replicas comes before its segment takes effect (R210). -/
def State.custom (s : State) (lc : Lc) (k : Fin 64) (d a b : Reg) (cx : Fin 16) (ev : MicroEvent) : State :=
  let w := encC d.val a.val b.val cx.val k.val
  let r := s.customRun lc k d a b cx ev
  if !s.ready lc then s.runInstr lc w fun _ _ => .wait
  else if r.2.1 then s.voted lc (s.segRec r.1 lc w r.2.2) fun s => (s.customRun lc k d a b cx ev).1
  else r.1

/-- CUSTOM_OPCODE (R171 to R180, R186, R187). -/
def execCustomOpcode (lc : Lc) (k : Fin 64) (d a b : Reg) (cx : Fin 16) (ev : MicroEvent) (s : State) :
    Outcome State Fault Refusal := .next (s.custom lc k d a b cx ev)

/-- MC_OVERRUN: the 513th micro-cycle after a COMMIT (R179). -/
def execMcOverrun (lc : Lc) (s : State) : Outcome State Fault Refusal :=
  .next (match (s.lc lc.val).overrun with
    | some a => if s.coresRun && (s.lc lc.val).executes then s.microStop lc mcOverrun a.toNat else s
    | none => s)

end Sys2Proof.Machine
end

