-- ==== Sys2Proof/Machine/LongRun.lean ====
section
/-! DEFINITION. FDIV and the long-running instructions MVL, CMPX, CIPH and DCONV (chapter 7, majors 0x30 to 0x35 minor
3, 0x3C): one command runs one iteration, from one instruction boundary to the next (R181, R182). -/

namespace Sys2Proof.Machine

open Host (Outcome)

/-! ### Iterations and their progress (R182 to R184) -/

/-- One iteration: `false` at a BOUNDARY, `true` when the instruction retires. -/
def State.runLong (s : State) (lc : Lc) (w : BitVec 32) (ev : MicroEvent) (f : State → LCore → Res (State × Bool)) : State :=
  if s.ready lc then
    match s.microEvent lc ev with
    | (s1, true) => s1
    | (s1, false) => s1.runMem lc w f
  else s.runMem lc w f

/-- What the module wrote to PROG0 to PROG3 for this instruction, when the registers hold it. -/
def State.progFind (s : State) (l : LCore) (w : BitVec 32) : Option Progress :=
  s.progress.find? fun p => p.regs = l.bank.prog.toList && p.word = w

/-- A committed boundary of a routine that keeps its progress in PROG0 to PROG3. -/
def State.progWrite (s : State) (lc : Lc) (w : BitVec 32) (ops : List Quad) (iter : Nat) (bs : List Byte) : State :=
  let v (i : Nat) : Word := Config.progWord i w ops iter bs
  let s1 := s.modLc lc.val fun c => (c.setBank { c.bank with prog := Vector.ofFn fun i => v i.val }).progSet w
  { s1 with progress := ⟨[v 0, v 1, v 2, v 3], w, ops, iter, bs⟩ :: s1.progress }

/-- A register half that software restored wrongly makes a free 128-bit result (R183). -/
def State.drawQuad (s : State) : Quad × State :=
  let a := s.draw
  let b := a.2.draw
  (quadOf a.1 b.1, b.2)

/-- FPSR after a resume from values the module did not write: any flags. -/
def LCore.anyFlags (l : LCore) (v : Word) : LCore := { l with fpsr := l.fpsr ||| (v &&& 0x1F) }

/-! ### FDIV -/

/-- FDIV.B128: four iterations of 29 quotient bits, FD written at END (Table 7.5). -/
def State.fdiv128 (s : State) (lc : Lc) (w : BitVec 32) (d a b : Reg) (rm : Nat) (l : LCore) : Res (State × Bool) :=
  (l.roundFor false rm).map fun r =>
    let ops := [l.rf a, l.rf b]
    let last (s : State) : State × Bool :=
      (s.modLc lc.val fun c =>
        ((c.fpWrite b128 d (fDiv b128 r c.ftz (c.fop b128 a) (c.fop b128 b)) w false).progEnd).next, true)
    let go (k : Nat) : State × Bool := if k < 3 then (s.progWrite lc w ops (k + 1) [], false) else last s
    if !l.resumes w then go 0
    else
      match s.progFind l w with
      | some p =>
        if p.operands = ops then go p.iter
        else
          let q := s.drawQuad
          (q.2.modLc lc.val fun c => (((c.wf d q.1).anyFlags (quadLo q.1)).progEnd).next, true)
      | none =>
        let q := s.drawQuad
        (q.2.modLc lc.val fun c => (((c.wf d q.1).anyFlags (quadLo q.1)).progEnd).next, true)

/-- FDIV (R142, R145, R181). -/
def execFdiv (lc : Lc) (fmt : ArithFmt) (d a b : Reg) (rm : BitVec 3) (ev : MicroEvent) (s : State) :
    Outcome State Fault Refusal :=
  let w := encFp fmt d.val a.val b.val rm.toNat 3
  .next (match fmt with
    | .b128 => s.runLong lc w ev fun s l => s.fdiv128 lc w d a b rm.toNat l
    | _ => s.fpArith lc w fmt rm.toNat d fun l fm r z => fDiv fm r z (l.fop fm a) (l.fop fm b))

/-! ### MVL -/

/-- The bytes that an iteration stores, as if it moved them one at a time in ascending order: a source byte that the
iteration has already written reads as written. -/
def mvlBytes (src : List Nat) (dst : Nat) (old : List Byte) : List Byte :=
  (List.zip src old).foldl (fun out e =>
    out ++ [if dst ≤ e.1 ∧ e.1 < dst + out.length then out.getD (e.1 - dst) e.2 else e.2]) []

/-- A piece in control space: MVL makes no 64-bit accesses there. -/
def State.controlPiece (s : State) (ps : List Piece) : Option Nat :=
  (ps.find? fun p => s.place p.pa == .control).map (·.pa)

/-- The lines that the stores of an MVL iteration allocate are filled as streaming (R258). -/
def State.streamStores (s : State) (lc : Lc) (ls : List LineNo) : State :=
  match (s.lc lc.val).host with
  | none => s
  | some sl =>
    { s with outReqs := s.outReqs.map fun (o : Outstanding) =>
        if o.req = .slot sl ∧ o.kind == .readOwn ∧ ls.contains o.line then { o with stream := true } else o }

/-- One iteration of MVL: at most to the end of the destination's line. -/
def State.mvlEffect (s : State) (lc : Lc) (d a b : Reg) (l : LCore) : Res (State × Bool) :=
  let gd := l.rg d
  let ga := l.rg a
  let gb := l.rg b
  if gb = 0 then .ok (s.modLc lc.val LCore.next, true)
  else
    let dl := (descBase (l.rs d) + gd.toNat) % 128
    let n := min gb.toNat (128 - dl)
    ((s.rangeAddr lc l (l.rs a) ga.toNat n needR).tag 2).bind fun r =>
      ((s.rangeAddr lc r.2.2 (l.rs d) gd.toNat n needW).tag 3).bind fun t =>
        let s0 := s.setLc lc.val t.2.2
        match s0.controlPiece r.2.1, s0.controlPiece t.2.1 with
        | some pa, _ => .exc { excBus pa with access := 2 }
        | none, some pa => .exc { excBus pa with access := 3 }
        | none, none =>
          ((s0.readPieces lc (r.2.1.flatMap Piece.lines)).tag 2).bind fun x =>
            let src := r.2.1.flatMap fun p => (List.range p.len).map fun i => p.pa + i
            let bs := mvlBytes src ((t.2.1.map (·.pa)).headD 0) x.1
            ((x.2.writePieces lc (t.2.1.flatMap Piece.lines) bs).tag 3).map fun s2 =>
              let s1 := s2.streamStores lc (t.2.1.map fun p => lineOfAddr p.pa)
              let k : Word := BitVec.ofNat 64 n
              let last : Bool := gb.toNat = n
              (s1.modLc lc.val fun c =>
                let c1 := ((c.wg d (gd + k)).wg a (ga + k)).wg b (gb - k)
                if last then c1.next else c1, last)

/-- MVL (R181, R182, R302). -/
def execMvl (lc : Lc) (d a b : Reg) (ev : MicroEvent) (s : State) : Outcome State Fault Refusal :=
  .next (s.runLong lc (encR 0x3C d.val a.val b.val 0 0) ev fun s l => s.mvlEffect lc d a b l)

/-! ### CMPX and CIPH (R424, R431 to R433) -/

/-- One iteration: it waits for the core's slot at the engine, then submits the next chunk; a block with a final STATUS
ends the instruction. -/
def State.engineOp (s : State) (lc : Lc) (cph : Bool) (d a : Reg) (l : LCore) : Res (State × Bool) :=
  let ga := l.rg a
  let si := slotIdx cph lc
  if l.level = 0 || l.gv then .exc excPrivilege
  else
    (check (ga.toNat % 128 = 0) { code := 0x03, addr := ga.toNat, access := 4 }).bind fun _ =>
      ((s.rangeAddr lc l (l.rs a) ga.toNat 128 needRW).tag 4).bind fun r =>
        let pa := (r.2.1.map (·.pa)).headD 0
        let unc : Bool := r.2.1.any (·.unc)
        let s0 := s.setLc lc.val r.2.2
        if !s0.memReachable pa then .exc { excBus pa with access := 4 }
        else if (s0.aslot si).busy then .wait
        else
          ((s0.readAt lc (pa + 2) 1 unc).tag 4).bind fun x =>
            let st := (x.1.headD 0).toNat
            if 0x10 ≤ st then .ok (x.2.modLc lc.val fun c => (c.wg d (BitVec.ofNat 64 st)).next, true)
            else
              (x.2.synced lc).map fun s1 => (s1.modAslot si fun y => { y with busy := true, block := pa, polder := pswPolder l.psw, req := none }, false)

/-- CMPX. -/
def execCmpx (lc : Lc) (d a : Reg) (s : State) : Outcome State Fault Refusal :=
  .next (s.runMem lc (encR 0x3C d.val a.val 0 0 1) fun s l => s.engineOp lc false d a l)
/-- CIPH. -/
def execCiph (lc : Lc) (d a : Reg) (s : State) : Outcome State Fault Refusal :=
  .next (s.runMem lc (encR 0x3C d.val a.val 0 0 2) fun s l => s.engineOp lc true d a l)

/-! ### DCONV: strings (R185) -/

/-- ASCII codes of a literal. -/
def ascii (t : String) : List Byte := t.toList.map fun c => BitVec.ofNat 8 c.toNat

def isDigit (b : Byte) : Bool := 0x30 ≤ b.toNat && b.toNat ≤ 0x39

/-- Leading digits of a string: value, number, rest. -/
def spanDigits : List Byte → Nat → Nat → Nat × Nat × List Byte
  | [], v, n => (v, n, [])
  | b :: t, v, n => if isDigit b then spanDigits t (10 * v + (b.toNat - 0x30)) (n + 1) else (v, n, b :: t)

def lower (b : Byte) : Byte := if 0x41 ≤ b.toNat ∧ b.toNat ≤ 0x5A then b + 0x20 else b

/-- An optional sign. -/
def takeSign : List Byte → Bool × List Byte
  | b :: t => if b = 0x2D then (true, t) else if b = 0x2B then (false, t) else (false, b :: t)
  | [] => (false, [])

/-- The exponent part: nothing, or E or e, an optional sign, and 1 to 8 digits. -/
def parseExp : List Byte → Option Int
  | [] => some 0
  | b :: t =>
    if lower b ≠ 0x65 then none
    else
      let s := takeSign t
      match spanDigits s.2 0 0 with
      | (v, n, []) => if 1 ≤ n ∧ n ≤ 8 then some (if s.1 then -(v : Int) else v) else none
      | _ => none

/-- A number: digits with at most one point, then an exponent; its coefficient and exponent. -/
def parseNum (bs : List Byte) : Option (Nat × Int) :=
  let i := spanDigits bs 0 0
  let fr : Nat × Nat × List Byte := match i.2.2 with
    | b :: t => if b = 0x2E then spanDigits t i.1 0 else (i.1, 0, i.2.2)
    | [] => (i.1, 0, [])
  if i.2.1 + fr.2.1 = 0 then none else (parseExp fr.2.2).map fun e => (fr.1, e - fr.2.1)

/-- The exact value with an exponent brought near the format's range: a magnitude far below it is only more than 0. -/
def clampExact (f : Fmt) (c : Nat) (e : Int) : Exact :=
  if c ≠ 0 ∧ e + ndigits true c < f.etiny - 10 then ⟨1, f.etiny - 10, true⟩ else ⟨c, e, false⟩

/-- The datum of an input string, and what it signals. -/
def decOfString (f : Fmt) (dir : Round) (bs : List Byte) : Quad × Nat :=
  let s := takeSign bs
  let t := s.2.map lower
  let q (n : Nat) : Quad := BitVec.ofNat 128 n
  if t = ascii "inf" || t = ascii "infinity" then (q (encodeF f (.inf s.1)), 0)
  else if t = ascii "nan" then (q (encodeF f (.nan s.1 false 0)), 0)
  else if t = ascii "snan" then (q (encodeF f (.nan s.1 true 0) + 2 ^ (f.n - 7)), 0)
  else
    match parseNum s.2 with
    | some (c, e) => let r := roundF f dir false s.1 (clampExact f c e) e; (q (encodeF f r.1), r.2)
    | none => (q (encodeF f defaultNan), fIV)

/-- Decimal digits of a number without leading zeros, "0" for zero. -/
def decDigits (n : Nat) : List Byte := (Nat.toDigits 10 n).map fun c => BitVec.ofNat 8 c.toNat

/-- The output string of a datum, and what it signals. -/
def stringOfDec (v : FVal) : List Byte × Nat :=
  let sg (b : Bool) : List Byte := if b then [0x2D] else []
  match v with
  | .inf s => (sg s ++ ascii "Inf", 0)
  | .nan s sig p => (sg s ++ ascii (if sig then "sNaN" else "NaN") ++ (if p = 0 then [] else decDigits p), if sig then fIV else 0)
  | .num s c e =>
    (sg s ++ decDigits c ++ [0x45, if e < 0 then 0x2D else 0x2B] ++ decDigits e.natAbs, 0)

/-! ### DCONV: iterations -/

def dconvFmt (wide : Bool) : Fmt := if wide then d128 else d64

/-- A resume from values that the module did not write ends the instruction with free destinations (R183). -/
def State.dconvLost (s : State) (lc : Lc) (out : Bool) (d a b : Reg) (l : LCore) : Res (State × Bool) :=
  let q := s.drawQuad
  let r := q.2.drawQuad
  let fin (s : State) : State × Bool :=
    (s.modLc lc.val fun c =>
      let c1 := if out then c.wg d (quadLo r.1) else (c.wf d q.1).wg a (quadLo r.1)
      (((c1.wg b (quadHi r.1)).anyFlags (quadLo q.1)).progEnd).next, true)
  let n := if out then min (l.rg b).toNat 41 else 0
  if n = 0 then .ok (fin r.2)
  else
    ((r.2.rangeAddr lc l (l.rs d) (l.rg d).toNat n needW).tag 3).bind fun t =>
      let bs := (r.2.setLc lc.val t.2.2).drawBytes n
      ((bs.2.writePieces lc (t.2.1.flatMap Piece.lines) bs.1).tag 3).map fin

/-- From a string to a decimal datum: at most 16 bytes an iteration.  DEDUCED (log entry 93): GA is written before GB, so
where both are one register it holds the count. -/
def State.dconvIn (s : State) (lc : Lc) (w : BitVec 32) (wide : Bool) (d a b : Reg) (l : LCore) (old : List Byte)
    (iter : Nat) : Res (State × Bool) :=
  let f := dconvFmt wide
  let ga := l.rg a
  let gb := l.rg b
  let n := min gb.toNat 16
  let ends (s : State) (bs : List Byte) : Res (State × Bool) :=
    (l.roundFor true 7).map fun r =>
      let x := decOfString f r bs
      (s.modLc lc.val fun c => ((((c.fpSignal x.2 w false).wf d x.1)).progEnd).next, true)
  if n = 0 then ends s old
  else
    ((s.rangeAddr lc l (l.rs a) ga.toNat n needR).tag 2).bind fun t =>
      (((s.setLc lc.val t.2.2).readPieces lc (t.2.1.flatMap Piece.lines)).tag 2).bind fun x =>
        let k : Word := BitVec.ofNat 64 n
        let s1 := x.2.modLc lc.val fun c => (c.wg a (ga + k)).wg b (gb - k)
        if gb.toNat = n then ends s1 (old ++ x.1) else .ok (s1.progWrite lc w [] (iter + 1) (old ++ x.1), false)

/-- From a decimal datum to a string: at most 16 bytes an iteration.  DEDUCED (log entry 93): GD is written before GB. -/
def State.dconvOut (s : State) (lc : Lc) (w : BitVec 32) (d b : Reg) (l : LCore) (str : List Byte) (fl done : Nat) :
    Res (State × Bool) :=
  let gd := l.rg d
  let gb := l.rg b
  let rest := str.drop done
  let n := min rest.length 16
  let k : Word := BitVec.ofNat 64 n
  if gb.toNat < rest.length then
    .ok (s.modLc lc.val fun c =>
      (((c.wg b (gb - BitVec.ofNat 64 rest.length)).fpSignal fl w false).progEnd).next, true)
  else
    ((s.rangeAddr lc l (l.rs d) gd.toNat n needW).tag 3).bind fun t =>
      (((s.setLc lc.val t.2.2).writePieces lc (t.2.1.flatMap Piece.lines) (rest.take n)).tag 3).map fun s0 =>
        let s1 := s0.modLc lc.val fun c => (c.wg d (gd + k)).wg b (gb - k)
        if n = rest.length then (s1.modLc lc.val fun c => ((c.fpSignal fl w false).progEnd).next, true)
        else (s1.progWrite lc w [BitVec.ofNat 128 fl] (done + n) str, false)

/-- One iteration of DCONV in a direction. -/
def State.dconvEffect (s : State) (lc : Lc) (w : BitVec 32) (d a b : Reg) (dir : BitVec 2) (l : LCore) :
    Res (State × Bool) :=
  let out := dir.getLsbD 1
  let wide := dir.getLsbD 0
  let fresh : Res (State × Bool) :=
    if out then
      let x := stringOfDec (decodeF (dconvFmt wide) (l.rf a) false)
      s.dconvOut lc w d b l x.1 x.2 0
    else s.dconvIn lc w wide d a b l [] 0
  if !l.resumes w then fresh
  else
    match s.progFind l w with
    | some p =>
      if out then s.dconvOut lc w d b l p.bytes ((p.operands.headD 0).toNat) p.iter
      else s.dconvIn lc w wide d a b l p.bytes p.iter
    | none => s.dconvLost lc out d a b l

/-- DCONV (R181 to R185). -/
def execDconv (lc : Lc) (d a b : Reg) (dir : BitVec 2) (ev : MicroEvent) (s : State) : Outcome State Fault Refusal :=
  let w := encR 0x3C d.val a.val b.val dir.toNat 3
  .next (s.runLong lc w ev fun s l => s.dconvEffect lc w d a b dir l)

end Sys2Proof.Machine
end

