-- ==== Sys2Proof/Machine/Mgmt.lean ====
section
/-! DEFINITION. The management endpoint (chapter 19): ports and failover, PTP timestamps, sessions, the request queue
and every operation of Table 19.2, and the MCTP control messages. -/

namespace Sys2Proof.Machine

open Host (Outcome)

/-! ### The endpoint and its ports (R530 to R533) -/

/-- The keeper's endpoint answers: from WAKE until the power-down sequence ends. -/
def State.mgmtOn (s : State) : Bool := s.mode != .off && s.mode != .keeper

/-- Port `n` is in use: land pair MGTMODEn does not read 0b11. -/
def State.macUsed (s : State) (n : Fin 2) : Bool :=
  s.mgmtOn && (if n.val = 0 then s.keeper.straps.mgtmode0 else s.keeper.straps.mgtmode1) ≠ 3

/-- Addresses of the module: the link-local one, and one for each advertised prefix. -/
def State.addressCount (s : State) : Nat := 1 + s.mgmt.prefixes.length

def otherMac (n : Fin 2) : Fin 2 := if n.val = 0 then 1 else 0

/-- The active port's link has been down for 10 ms: a standby with its link up takes over and advertises every address
(R532). -/
def State.failover (s : State) : State :=
  match s.mgmt.active with
  | none => s
  | some n =>
    if !s.mgmtOn then s
    else
      let link := bvPut s.mgmt.link n.val false
      let o := otherMac n
      if link.getLsbD o.val then
        ({ s with mgmt := { s.mgmt with link := link, active := some o,
                                        advertised := s.mgmt.advertised + s.addressCount } }).bump (.mgtStatus o) 47 32 1
      else { s with mgmt := { s.mgmt with link := link, active := none } }

/-- A port's link comes up; the first one to come up while both are down becomes active (R532). -/
def State.macUp (s : State) (n : Fin 2) : State :=
  if !s.macUsed n then s
  else
    let link := bvPut s.mgmt.link n.val true
    { s with mgmt := { s.mgmt with link := link, active := if s.mgmt.active.isNone then some n else s.mgmt.active } }

/-- A PTP event message: TB_NOW.NS, corrected by the signed offset of its direction; the ingress timestamp of an
accepted Sync on the port that TB_CTL.DISC names is captured (R76, R533). -/
def State.ptpEvent (s : State) (n : Fin 2) (msg : PtpMsg) (ingress accepted : Bool) : State :=
  if !s.macUsed n then s
  else
    let r := CsReg.mgtPtpadj n
    let adj := BitVec.ofNat 32 (if ingress then s.fld r 63 32 else s.fld r 31 0)
    let ts := s.tb.ns + adj.signExtend 64
    let s1 := { s with mgmt := { s.mgmt with ptp := s.mgmt.ptp.set n ts } }
    if ingress && accepted && msg == .sync && s1.fld .tbCtl 5 4 = 2 + n.val then s1.setReg .tbCapture ts else s1

/-- A Router Advertisement on the active port gives one more global address (R531). -/
def State.routerAdv (s : State) (n : Fin 2) (pfx : Word) : State :=
  if s.mgmtOn && s.mgmt.active == some n && !s.mgmt.prefixes.contains pfx then
    { s with mgmt := { s.mgmt with prefixes := s.mgmt.prefixes ++ [pfx] } }
  else s

/-! ### Sessions (R535 to R537) -/

def Sess.authority (x : Sess) : Nat := x.keyId.toNat / 2 ^ 27
def Sess.polder (x : Sess) : Bool := x.phase == .open && x.authority = 16
def Sess.recovers (x : Sess) : Bool := x.phase == .recovery
def Sess.live (x : Sess) : Bool := x.phase != .challenged
/-- The parcel a session stands for. -/
def Sess.parcel (x : Sess) : Option Parcel := if x.phase == .open then fin? 16 x.authority else none

def State.sess (s : State) (id : BitVec 32) : Option Sess := s.mgmt.sessions.find? fun x => x.id = id
def State.modSess (s : State) (id : BitVec 32) (f : Sess → Sess) : State :=
  { s with mgmt := { s.mgmt with sessions := s.mgmt.sessions.map fun x => if x.id = id then f x else x } }

/-- A record leaves the module. -/
def State.emit (s : State) (o : MgtOut) : State := { s with mgmt := { s.mgmt with out := s.mgmt.out ++ [o] } }

/-- The keeper chooses a SESSION: a free value, made nonzero and distinct (log entry 30). -/
def State.newSession (s : State) : BitVec 32 × State :=
  let d := s.draw
  let base := d.1.setWidth 32
  let used (v : BitVec 32) : Bool := v = 0 || s.mgmt.sessions.any fun x => x.id = v
  (((List.range 10).map fun i => base + BitVec.ofNat 32 i).find? (fun v => !used v) |>.getD base, d.2)

/-- Who a HELLO may open a session for: a RECOVERY session, a peer of the running manifest, or no one (R535, R536). -/
def State.helloPhase (s : State) (keyId : BitVec 32) : Option SessPhase :=
  if keyId = 0xFFFFFFFF then (if s.mode == .load && s.loader.running.isNone then some .recovery else none)
  else
    match s.loader.running with
    | some r => if keyId.toNat / 2 ^ 27 ≤ 17 && (r.img.peerKey keyId).isSome then some .challenged else none
    | none => none

/-- HELLO: the module answers with CHALLENGE, or not at all (R535 to R537; log entry 31). -/
def State.hello (s : State) (via : Transport) (keyId : BitVec 32) (nonce : BitVec 256) (kem : List Byte) : State :=
  if !s.mgmtOn || !s.mgmt.keysValid || 8 ≤ s.mgmt.sessions.length then s
  else
    match s.helloPhase keyId with
    | none => s
    | some ph =>
      let msg := leBytes 4 keyId.toNat ++ leBytes 32 nonce.toNat ++ kem
      let n := s.newSession
      let own := n.2.drawBytes 32
      let e := own.2.draw
      let ct := Config.kemEncap kem e.1.toNat
      let g := e.2.draw
      let sig := Config.identitySign (leBytes 64 (Config.shake512 msg).toNat) g.1.toNat
      let data := leBytes 4 n.1.toNat ++ own.1 ++ ct.1 ++ sig
      let x : Sess := ⟨n.1, keyId, ph, via, msg ++ data, ct.2, [], 1, []⟩
      ({ g.2 with mgmt := { g.2.mgmt with sessions := g.2.mgmt.sessions ++ [x] } }).emit ⟨n.1, 0x02, 0, 0, data⟩

/-- FINISH (R535). -/
def State.finish (s : State) (id : BitVec 32) (signature : List Byte) : State :=
  match s.sess id with
  | none => s
  | some x =>
    if !s.mgmtOn || x.phase != .challenged then s
    else
      let ok := s.loader.running.any fun r => match r.img.peerKey x.keyId with
        | some k => Config.peerVerify k.alg k.key (leBytes 64 (Config.shake512 x.transcript).toNat) signature
        | none => false
      if ok then s.modSess id fun y => { y with phase := .open } else s.closeSession id

/-- A record is dropped under R537; MGT_STATUS counts it on the port it came by. -/
def State.authDrop (s : State) : Transport → State
  | .udp n => s.bump (.mgtStatus n) 31 16 1
  | .mctp => s

/-- The highest SEQ accepted. -/
def Sess.top (x : Sess) : Nat := x.seen.foldl (fun m v => max m v.toNat) 0

/-- SEQ repeats one accepted, or lies 64 or more below the highest. -/
def Sess.replayed (x : Sess) (seq : Word) : Bool := x.seen.contains seq || seq.toNat + 64 ≤ x.top

/-- Accept a SEQ; values that have left the window need not be kept. -/
def Sess.accept (x : Sess) (seq : Word) : Sess :=
  let y := { x with seen := seq :: x.seen }
  { y with seen := y.seen.filter fun v => y.top < v.toNat + 64 }

/-- Records of a session arrive over the transport it was opened on (R542). -/
def sameTransport : Transport → Transport → Bool
  | .udp _, .udp _ => true
  | .mctp, .mctp => true
  | _, _ => false

/-- CLOSE (R537). -/
def State.close (s : State) (id : BitVec 32) (seq : Word) : State :=
  match s.sess id with
  | none => s
  | some x =>
    if !s.mgmtOn || !x.live then s
    else if x.replayed seq then s.authDrop x.via
    else s.closeSession id

/-! ### Requests (R538) -/

/-- RESULT codes. -/
def resOk : Byte := 0
def resDenied : Byte := 1
def resBusy : Byte := 2
def resMode : Byte := 3
def resInvalid : Byte := 4
def resCsError : Byte := 5
def resRejected : Byte := 6

/-- A RESPONSE leaves and is stored among the session's last 16. -/
def State.answer (s : State) (id : BitVec 32) (reqId : Word) (result : Byte) (data : List Byte) : State :=
  match s.sess id with
  | none => s
  | some _ =>
    (s.modSess id fun x => { x with txSeq := x.txSeq + 1, responses := ((reqId, result, data) :: x.responses).take 16 }).emit
      ⟨id, 0x11, reqId, result, data⟩

/-- A stored response leaves again. -/
def State.resend (s : State) (id : BitVec 32) (r : Word × Byte × List Byte) : State :=
  (s.modSess id fun x => { x with txSeq := x.txSeq + 1 }).emit ⟨id, 0x11, r.1, r.2.1, r.2.2⟩

def Sess.stored (x : Sess) (reqId : Word) : Option (Word × Byte × List Byte) := x.responses.find? fun r => r.1 = reqId

/-- Operations of Table 19.2. -/
def definedOps : List Nat :=
  [0x01, 0x02, 0x03, 0x10, 0x11, 0x12, 0x13, 0x14, 0x15, 0x16, 0x20, 0x21, 0x30, 0x40, 0x41, 0x50]

/-- A REQUEST record: authenticated, then queued, or its stored response is sent again (R537, R538; log entry 32). -/
def State.request (s : State) (via : Transport) (id : BitVec 32) (seq : Word) (tagOk : Bool) (reqId : Word)
    (op : BitVec 16) (args : List Byte) : State :=
  match s.sess id with
  | none => s
  | some x =>
    if !s.mgmtOn || !x.live || !sameTransport x.via via then s
    else if !tagOk || x.replayed seq then s.authDrop via
    else
      let s1 := s.modSess id fun y => y.accept seq
      match x.stored reqId with
      | some r => s1.resend id r
      | none =>
        if definedOps.contains op.toNat then
          { s1 with mgmt := { s1.mgmt with queue := s1.mgmt.queue ++ [⟨id, reqId, op, args⟩] } }
        else s1.answer id reqId resInvalid []

/-- The keeper executes the request at the head of its queue, when the command names it: `allowed` is the authority
that the operation's row asks for, `k` its effect, result and data.  A request stored meanwhile is answered as before. -/
def State.serve (s : State) (h : ReqHdr) (op : Nat) (allowed : Sess → Bool)
    (k : State → Sess → State × Byte × List Byte) : State :=
  match s.mgmt.queue with
  | [] => s
  | q :: rest =>
    if !s.mgmtOn || q.session ≠ h.session || q.reqId ≠ h.reqId || q.op.toNat ≠ op then s
    else
      let s1 := { s with mgmt := { s.mgmt with queue := rest } }
      match s1.sess h.session with
      | none => s1
      | some x =>
        match x.stored h.reqId with
        | some r => s1.resend h.session r
        | none =>
          if !allowed x then s1.answer h.session h.reqId resDenied []
          else
            let r := k s1 x
            r.1.answer h.session h.reqId r.2.1 r.2.2

def anySess (_ : Sess) : Bool := true
def polderOrParcel (x : Sess) : Bool := x.polder || x.parcel.isSome
def polderOrRecovery (x : Sess) : Bool := x.polder || x.recovers

def le8 (v : Word) : List Byte := leBytes 8 v.toNat

/-! ### STATUS, CS_READ, CS_WRITE (R539) -/

def State.opStatus (s : State) (h : ReqHdr) : State :=
  s.serve h 0x01 anySess fun s _ =>
    (s, resOk, le8 (s.csValue .ksStatus) ++ le8 (s.csValue .imgStatus) ++ le8 (s.csValue .mcStatus) ++
      le8 (s.csValue (.mgtStatus 0)) ++ le8 (s.csValue (.mgtStatus 1)))

/-- A parcel session stays inside a CONTROL grant of its parcel with the right needed. -/
def State.csAllowed (s : State) (x : Sess) (addr need : Nat) : Bool :=
  match x.parcel with
  | some p => s.image.any fun i => i.granted p.val 4 addr need
  | none => true

/-- Field that holds the CMD_RESULT of a command register. -/
def cmdResult : CsReg → Option (CsReg × Nat)
  | .imgCtl => some (.imgStatus, 52)
  | .ksCmd => some (.ksStatus, 24)
  | .mcCtl => some (.mcStatus, 20)
  | .grpCtl i => some (.grpStatus i, 52)
  | .maintCtl h => some (.maintStatus h, 60)
  | .scStart n | .scCtl n => some (.scStatus n, 56)
  | .portCtl p => some (.portStatus p, 56)
  | .ctxcfg c => some (.ctxstat c, 56)
  | .pwrReq u => some (.pwrStat u, 56)
  | .pwrRelease => some (.pwrRelres, 56)
  | .prCtl p => some (.prStatus p, 56)
  | .fcInject k | .fcParcel k _ => some (.fcStatus k, 24)
  | _ => none

/-- CMD_RESULT after a command register has been written, as one byte. -/
def State.resultOf (s : State) (r : CsReg) : List Byte :=
  match cmdResult r with
  | some (q, lo) => [BitVec.ofNat 8 (s.fld q (if lo = 60 then 62 else lo + 3) lo)]
  | none => []

def State.resultAt (s : State) (addr : Nat) : List Byte :=
  match csTarget addr with
  | .reg _ r => s.resultOf r
  | _ => []

/-- CS_READ: the keeper's own access. -/
def State.opCsRead (s : State) (h : ReqHdr) (addr : Word) : State :=
  s.serve h 0x02 polderOrParcel fun s x =>
    if !s.csAllowed x addr.toNat needR then (s, resDenied, [])
    else
      let s1 := (s.respond .keeper .error).csRead .keeper addr.toNat 8
      match s1.respOf .keeper with
      | some (.data w) => (s1, resOk, le8 w)
      | _ => (s1, resCsError, [])

/-- CS_WRITE. -/
def State.opCsWrite (s : State) (h : ReqHdr) (addr value : Word) : State :=
  s.serve h 0x03 polderOrParcel fun s x =>
    if !s.csAllowed x addr.toNat needW then (s, resDenied, [])
    else
      let s1 := (s.respond .keeper .error).csWrite .keeper addr.toNat 8 value
      if s1.respOf .keeper = some .error then (s1, resCsError, []) else (s1, resOk, s1.resultAt addr.toNat)

/-! ### Images (R33, R51, R52, R540) -/

/-- Longest image: 32 MiB. -/
def imageLimit : Nat := 0x200_0000

/-- Bytes of a put enter the delivery. -/
def Delivery.put (d : Delivery) (o : Nat) (bs : List Byte) : Delivery :=
  let e : Nat × Table Byte := bs.foldl (fun (e : Nat × Table Byte) b => (e.1 + 1, Table.insert e.2 e.1 b)) (o, d.bytes)
  { d with bytes := e.2, length := max d.length (o + bs.length) }

/-- A delivery opens: a staged image that has not been applied is discarded (R52). -/
def State.openDelivery (s : State) (id : BitVec 32) (bs : List Byte) : State :=
  ({ s with loader := { s.loader with staged := none, delivery := some (Delivery.put ⟨id, [], 0⟩ 0 bs) } }).setPend 1 0

def State.opImagePut (s : State) (h : ReqHdr) (offset : Nat) (bs : List Byte) : State :=
  s.serve h 0x10 polderOrRecovery fun s _ =>
    if bs.isEmpty || 1024 < bs.length then (s, resInvalid, [])
    else
      match s.loader.delivery with
      | some d =>
        if d.session ≠ h.session then (s, resBusy, [])
        else if offset = 0 then
          if s.deliveryOpen then (s.openDelivery h.session bs, resOk, []) else (s, resBusy, [])
        else if imageLimit < offset + bs.length then (s.dropDelivery, resInvalid, [])
        else ({ s with loader := { s.loader with delivery := some (d.put offset bs) } }, resOk, [])
      | none =>
        if offset ≠ 0 then (s, resInvalid, [])
        else if s.deliveryOpen then (s.openDelivery h.session bs, resOk, [])
        else (s, resBusy, [])

/-- The delivered bytes; a byte below the length that no put has written is free (log entry 33). -/
def State.deliveredBytes (s : State) (d : Delivery) : List Byte × State :=
  ((List.range d.length).map fun i =>
      match d.bytes.find? fun e => e.1 = i with
      | some e => e.2
      | none => Config.deviceByte (s.free + i),
    { s with free := s.free + d.length })

def State.opImageEnd (s : State) (h : ReqHdr) (fails : List Core) : State :=
  s.serve h 0x11 polderOrRecovery fun s _ =>
    match s.loader.delivery with
    | none => (s, resInvalid, [])
    | some d =>
      if d.session ≠ h.session then (s, resBusy, [])
      else if !s.deliveryOpen then (s, resMode, [])
      else
        let b := s.deliveredBytes d
        let s1 := ({ b.2 with loader := { b.2.loader with delivery := none } }).stage b.1 fails
        if s1.pendState = 4 then (s1, resRejected, [BitVec.ofNat 8 (s1.fld .imgStatus 31 24)]) else (s1, resOk, [])

/-- IMG_CMD: a write of IMG_CTL by the keeper. -/
def State.opImgCmd (s : State) (h : ReqHdr) (value : Word) : State :=
  s.serve h 0x12 Sess.polder fun s _ => let s1 := s.imgCtlW .keeper value; (s1, resOk, s1.resultOf .imgCtl)

/-- Bytes written to flash from address `a` on. -/
def State.flashPut (s : State) (a : Nat) (bs : List Byte) : State :=
  let e : Nat × Table Byte := bs.foldl (fun (e : Nat × Table Byte) b => (e.1 + 1, Table.set 0xFF e.2 e.1 b)) (a, s.loader.flash)
  { s with loader := { s.loader with flash := e.2 } }

/-- Flash bytes [a, a + n) are erased. -/
def State.flashErase (s : State) (a n : Nat) : State :=
  { s with loader := { s.loader with flash := s.loader.flash.filter fun e => e.1 < a || a + n ≤ e.1 } }

/-- The copy that an update is written to: the one the module did not start from (R52). -/
def State.updateCopy (s : State) (source : BitVec 2) : Bool :=
  if source = 0 then true else if source = 1 then false else s.keeper.wroteA

/-- FLASH_UPDATE.  DESIGN CHOICE (log entry 114): an update of copy A whose read-back fails, so that it is erased again,
counts as one that has written copy A. -/
def State.opFlashUpdate (s : State) (h : ReqHdr) (readBackOk : Bool) : State :=
  s.serve h 0x13 Sess.polder fun s _ =>
    match s.loader.staged, s.loader.running with
    | some bs, some r =>
      if s.pendState ≠ 3 then (s, resInvalid, [])
      else
        let b := s.updateCopy r.source
        let s1 := s.flashErase (copyBase b) copySize
        let s2 := if readBackOk then s1.flashPut (copyBase b) bs else s1
        let k := s2.keeper
        ({ s2 with keeper := { k with wroteA := k.wroteA || !b } }, if readBackOk then resOk else resInvalid, [])
    | _, _ => (s, resInvalid, [])

/-- Some programmed, unrevoked slot still holds the digest. -/
def Fuses.matched (f : Fuses) (d : BitVec 256) : Bool :=
  (List.finRange 4).any fun k => f.slots.get k == some d && !f.revoked.getLsbD k.val

/-- A slot is revoked, unless the running image's key would then match none (R33). -/
def State.revokeSlot (s : State) (k : Fin 4) : State × Byte × List Byte :=
  let f := { s.fuses with revoked := bvPut s.fuses.revoked k.val true }
  match s.loader.running with
  | some r => if f.matched r.img.pubDigest then ({ s with fuses := f }, resOk, []) else (s, resInvalid, [])
  | none => ({ s with fuses := f }, resOk, [])

def State.opKeySlot (s : State) (h : ReqHdr) (k : Fin 4) (program : Option (BitVec 256)) : State :=
  s.serve h 0x14 Sess.polder fun s _ =>
    match program with
    | none => s.revokeSlot k
    | some d =>
      if k.val = 0 || (s.fuses.slots.get k).isSome then (s, resInvalid, [])
      else ({ s with fuses := { s.fuses with slots := s.fuses.slots.set k (some d) } }, resOk, [])

/-! ### MODE_CMD, GRAVE_CLEAR (R68, R524) -/

def State.opModeCmd (s : State) (h : ReqHdr) (value : Word) : State :=
  s.serve h 0x15 Sess.polder fun s _ =>
    let s1 := (s.ksCmdW .keeper value).settleMode
    (s1, resOk, s1.resultOf .ksCmd)

def State.opGraveClear (s : State) (h : ReqHdr) : State :=
  s.serve h 0x16 Sess.polder fun s _ =>
    (((List.finRange 9).foldl (fun (s : State) k => s.fcClear k 16) s).settleMode, resOk, [])

/-! ### Attestation (R543, R544) -/

/-- Bytes [0x000, 0x448) of the report (Table 19.3). -/
def State.reportBody (s : State) (nonce : BitVec 256) (recovery : Bool) : List Byte :=
  let f := s.fuses
  let run := if recovery then none else s.loader.running
  let img : List Byte := match run with
    | some r => le8 r.img.seq ++ leBytes 64 r.img.digest.toNat ++
        ((List.range 7).flatMap fun t => leBytes 64 (dirEntry r.bytes (t + 1)).digest.toNat) ++
        leBytes 64 (if f.sealed then f.sealDigest.toNat else 0)
    | none => List.replicate 0x248 0
  let slots := (List.finRange 4).foldl (fun a k => a + if (f.slots.get k).isSome then 2 ^ k.val else 0) 0
  let flags := pack [(0, f.sealed.toNat), (1, s.fld .dbgStatus 63 63), (2, (s.isls.any fun e => e.2.lockBroken).toNat),
    (3, s.degradedHolds.toNat)]
  leBytes 2 1 ++ leBytes 2 0x448 ++ leBytes 4 0 ++ leBytes 32 nonce.toNat ++ le8 s.tb.ns ++ [BitVec.ofNat 8 s.mode.code] ++
    [BitVec.ofNat 8 flags] ++ [BitVec.ofNat 8 f.secVersion.val] ++ [Config.romRev] ++ leBytes 4 Config.fwVersion.toNat ++
    img ++ leBytes 4 (slots + 16 * f.revoked.toNat) ++
    leBytes 4 (if recovery then 0 else s.loader.mc.epoch.toNat) ++ leBytes 64 Config.fwDigest.toNat ++
    (List.finRange 48).flatMap fun i => le8 (s.csValue (.grpStatus i))

/-- ATTEST: the report with its signature by the attestation key. -/
def State.opAttest (s : State) (h : ReqHdr) (nonce : BitVec 256) : State :=
  s.serve h 0x20 anySess fun s x =>
    let body := s.reportBody nonce x.recovers
    let d := s.draw
    let sig := (Config.identitySign (leBytes 64 (Config.shake512 body).toNat) d.1.toNat).take 1462
    (d.2, resOk, body ++ leBytes 2 sig.length ++ sig ++ List.replicate (1462 - sig.length) 0)

def State.opCerts (s : State) (h : ReqHdr) : State := s.serve h 0x21 anySess fun s _ => (s, resOk, Config.certChain)

/-! ### LOG_READ (R541) -/

/-- The retained messages with their indices. -/
def Mgmt.indexed (m : Mgmt) : List (Nat × Quad × Option Parcel) :=
  (List.range m.log.length).zip m.log |>.map fun e => (m.logNext - m.log.length + e.1, e.2)

/-- The oldest retained index when the first one asked for has been overwritten, and then GAP in the first byte; then
index and message of each. -/
def State.opLogRead (s : State) (h : ReqHdr) (first count : Nat) : State :=
  s.serve h 0x30 (fun x => !x.recovers) fun s x =>
    let oldest := s.mgmt.logNext - s.mgmt.log.length
    let mine (e : Nat × Quad × Option Parcel) : Bool := match x.parcel with
      | some p => e.2.2 = some p
      | none => true
    let l := (s.mgmt.indexed.filter fun e => first ≤ e.1 && mine e).take (min count 64)
    (s, resOk, BitVec.ofNat 8 (decide (first < oldest)).toNat :: l.flatMap fun e => leBytes 8 e.1 ++ leBytes 16 e.2.1.toNat)

/-! ### FLASH_READ, FLASH_WRITE (R469, R539) -/

def sectorSize : Nat := 4096
/-- First flash byte above the two copies. -/
def flashFree : Nat := 0x400_0000

/-- A parcel session reaches only the bytes above the copies, and only while the flash is mapped Foreland. -/
def State.flashAllowed (s : State) (x : Sess) (a : Nat) : Bool := x.polder || (!s.flashPolder && flashFree ≤ a)

/-- The copy that the loader is reading. -/
def State.loaderReads (s : State) (a : Nat) : Bool :=
  s.mode == .load && s.keeper.trans == .none &&
    (match s.nextCopy with
     | some b => copyBase b ≤ a && a < copyBase b + copySize
     | none => false)

def State.opFlashRead (s : State) (h : ReqHdr) (a n : Nat) : State :=
  s.serve h 0x40 polderOrParcel fun s x =>
    if !s.flashAllowed x a then (s, resDenied, [])
    else if 1024 < n then (s, resInvalid, [])
    else (s, resOk, s.flashBytes a n)

/-- Program bytes, or erase the sector of `a` (log entry 34). -/
def State.opFlashWrite (s : State) (h : ReqHdr) (a : Nat) (data : Option (List Byte)) : State :=
  s.serve h 0x41 polderOrParcel fun s x =>
    let n := match data with | some bs => bs.length | none => 1
    if !s.flashAllowed x a then (s, resDenied, [])
    else if n = 0 || sectorSize < a % sectorSize + n then (s, resInvalid, [])
    else if s.loaderReads a then (s, resBusy, [])
    else
      match data with
      | some bs => (s.flashPut a bs, resOk, [])
      | none => (s.flashErase (a / sectorSize * sectorSize) sectorSize, resOk, [])

/-! ### DEBUG (R546) -/

/-- The scope covers the logical core: its parcel's bit. -/
def inScope (scope : BitVec 17) (l : LCore) : Bool := scope.getLsbD (pswParcel l.psw)

/-- A core that the new scope no longer covers is resumed and loses its breakpoints, one halted in Polder is resumed when
Polder leaves the scope; a halt held for want of Polder in
scope is delivered when the new scope has it (log entry 35). -/
def State.rescope (s : State) (scope : BitVec 17) : State :=
  allLc.foldl (fun s l =>
    let c := s.lc l.val
    if c.host.isNone then s
    else if !inScope scope c then
      let s1 := if c.stops.debug || c.reqs.debug || c.heldHalt then s.debugResume l else s
      if c.breakpoints.isEmpty then s1 else s1.modLc l.val fun y => { y with breakpoints := [] }
    else if c.stops.debug && pswPolder c.psw && !scope.getLsbD 16 then s.debugResume l
    else if c.heldHalt && scope.getLsbD 16 then
      s.modLc l.val fun y => { y with heldHalt := false, reqs := { y.reqs with debug := true } }
    else s) s

/-- Seconds an unlock may last. -/
def unlockMax : Nat := 86400

def State.opUnlock (s : State) (h : ReqHdr) (scope : BitVec 17) (seconds : Nat) : State :=
  s.serve h 0x50 Sess.polder fun s _ =>
    if seconds = 0 || unlockMax < seconds then (s, resInvalid, [])
    else
      let s1 := (s.setFld .dbgStatus 63 63 1).setFld .dbgStatus 48 32 scope.toNat
      let s2 := { s1 with mgmt := { s1.mgmt with unlockEnd := s.now + seconds * 1000000000 } }
      ((s2.rescope scope).settleMode, resOk, [])

def State.opLock (s : State) (h : ReqHdr) : State :=
  s.serve h 0x50 Sess.polder fun s _ => (s.debugEnd.settleMode, resOk, [])

/-- The duration of the unlock expires. -/
def State.unlockExpiry (s : State) : State :=
  if s.fld .dbgStatus 63 63 = 1 && s.mgmt.unlockEnd ≤ s.now then s.debugEnd.settleMode else s

/-! ### MCTP control messages (R542) -/

/-- The module answers an MCTP control message on the KT I3C bus. -/
def State.mctpAnswer (s : State) (cmd : Nat) (operand : Byte) : State :=
  if s.mgmtOn then s.emit ⟨0, 0, 0, 0, Config.mctpReply cmd operand s.mgmt.eid⟩ else s

/-! ### Commands -/

/-- R535, R536, R537. -/
def execHello (via : Transport) (keyId : BitVec 32) (nonce : BitVec 256) (kemKey : List Byte) (s : State) :
    Outcome State Fault Refusal := .next (s.hello via keyId nonce kemKey)

/-- R535. -/
def execFinish (session : BitVec 32) (signature : List Byte) (s : State) : Outcome State Fault Refusal :=
  .next (s.finish session signature)

/-- R537. -/
def execClose (session : BitVec 32) (seq : Word) (s : State) : Outcome State Fault Refusal := .next (s.close session seq)

/-- R537, R540. -/
def execSessionTimeout (session : BitVec 32) (s : State) : Outcome State Fault Refusal :=
  .next (if s.mgmtOn then s.closeSession session else s)

/-- R537, R538. -/
def execRequest (via : Transport) (session : BitVec 32) (seq : Word) (tagOk : Bool) (reqId : Word) (op : BitVec 16)
    (args : List Byte) (s : State) : Outcome State Fault Refusal := .next (s.request via session seq tagOk reqId op args)

/-- R538. -/
def execStatus (h : ReqHdr) (s : State) : Outcome State Fault Refusal := .next (s.opStatus h)

/-- R539. -/
def execCsRead (h : ReqHdr) (addr : Word) (s : State) : Outcome State Fault Refusal := .next (s.opCsRead h addr)

/-- R539. -/
def execCsWrite (h : ReqHdr) (addr value : Word) (s : State) : Outcome State Fault Refusal := .next (s.opCsWrite h addr value)

/-- R540. -/
def execImagePut (h : ReqHdr) (offset : BitVec 32) (data : List Byte) (s : State) : Outcome State Fault Refusal :=
  .next (s.opImagePut h offset.toNat data)

/-- R48, R51, R52, R540. -/
def execImageEnd (h : ReqHdr) (bistFail : List Core) (s : State) : Outcome State Fault Refusal := .next (s.opImageEnd h bistFail)

/-- R540. -/
def execDeliveryTimeout (s : State) : Outcome State Fault Refusal := .next s.dropDelivery

/-- R62. -/
def execImgCmd (h : ReqHdr) (value : Word) (s : State) : Outcome State Fault Refusal := .next (s.opImgCmd h value)

/-- R52. -/
def execFlashUpdate (h : ReqHdr) (readBackOk : Bool) (s : State) : Outcome State Fault Refusal :=
  .next (s.opFlashUpdate h readBackOk)

/-- R33. -/
def execKeySlot (h : ReqHdr) (slot : Fin 4) (program : Option (BitVec 256)) (s : State) : Outcome State Fault Refusal :=
  .next (s.opKeySlot h slot program)

/-- R68. -/
def execModeCmd (h : ReqHdr) (value : Word) (s : State) : Outcome State Fault Refusal := .next (s.opModeCmd h value)

/-- R524. -/
def execGraveClear (h : ReqHdr) (s : State) : Outcome State Fault Refusal := .next (s.opGraveClear h)

/-- R544. -/
def execAttest (h : ReqHdr) (nonce : BitVec 256) (s : State) : Outcome State Fault Refusal := .next (s.opAttest h nonce)

/-- R543. -/
def execCerts (h : ReqHdr) (s : State) : Outcome State Fault Refusal := .next (s.opCerts h)

/-- R541. -/
def execLogRead (h : ReqHdr) (first : Word) (count : Nat) (s : State) : Outcome State Fault Refusal :=
  .next (s.opLogRead h first.toNat count)

/-- R539. -/
def execFlashRead (h : ReqHdr) (addr : BitVec 32) (len : Nat) (s : State) : Outcome State Fault Refusal :=
  .next (s.opFlashRead h addr.toNat len)

/-- R539. -/
def execFlashWrite (h : ReqHdr) (addr : BitVec 32) (data : Option (List Byte)) (s : State) : Outcome State Fault Refusal :=
  .next (s.opFlashWrite h addr.toNat data)

/-- R546. -/
def execDebugUnlock (h : ReqHdr) (scope : BitVec 17) (seconds : BitVec 32) (s : State) : Outcome State Fault Refusal :=
  .next (s.opUnlock h scope seconds.toNat)

/-- R546. -/
def execDebugLock (h : ReqHdr) (s : State) : Outcome State Fault Refusal := .next (s.opLock h)

/-- R546. -/
def execDebugUnlockExpiry (s : State) : Outcome State Fault Refusal := .next s.unlockExpiry

/-- R542: the endpoint takes the ID. -/
def execSetEndpointId (eid : Byte) (s : State) : Outcome State Fault Refusal :=
  .next (if s.mgmtOn then ({ s with mgmt := { s.mgmt with eid := eid } }).mctpAnswer 1 eid else s)

/-- R542. -/
def execGetEndpointId (s : State) : Outcome State Fault Refusal := .next (s.mctpAnswer 2 0)

/-- R542. -/
def execGetMctpVersionSupport (msgType : Byte) (s : State) : Outcome State Fault Refusal := .next (s.mctpAnswer 4 msgType)

/-- R542. -/
def execGetMessageTypeSupport (s : State) : Outcome State Fault Refusal := .next (s.mctpAnswer 5 0)

/-- R532. -/
def execMgtPortFailover (s : State) : Outcome State Fault Refusal := .next s.failover

/-- R532. -/
def execMgtLinkUp (n : Fin 2) (s : State) : Outcome State Fault Refusal := .next (s.macUp n)

/-- R533. -/
def execPtpEventMessage (n : Fin 2) (msg : PtpMsg) (ingress accepted : Bool) (s : State) : Outcome State Fault Refusal :=
  .next (s.ptpEvent n msg ingress accepted)

/-- R531. -/
def execRouterAdvertisement (n : Fin 2) (pfx : Word) (s : State) : Outcome State Fault Refusal := .next (s.routerAdv n pfx)

end Sys2Proof.Machine
end

