-- ==== Sys2Proof/Machine/Tap.lean ====
section
/-! DEFINITION. The JTAG TAP: the instructions of IEEE 1149.1 and the debug instructions (R545, R546). -/

namespace Sys2Proof.Machine

open Host (Outcome)

/-! ### Boundary scan (R545) -/

/-- The always-on group powers the TAP: it runs in every mode except OFF. -/
def State.tapOn (s : State) : Bool := s.mode != .off

/-- EXTEST, CLAMP and HIGHZ take effect: KEEPER, WAKE, and LOAD before any image has passed validation. -/
def State.scanAllowed (s : State) : Bool :=
  s.mode == .keeper || s.mode == .wake || (s.mode == .load && s.loader.running.isNone)

/-- Debug is unlocked (R546). -/
def State.unlocked (s : State) : Bool := s.fld .dbgStatus 63 63 = 1

/-- The instruction that the loaded one acts as. -/
def State.tapActs (s : State) : TapIr :=
  match s.mgmt.tapIr with
  | .extest => if s.scanAllowed then .extest else .bypass
  | .clamp => if s.scanAllowed then .clamp else .bypass
  | .highz => if s.scanAllowed then .highz else .bypass
  | .debug => if s.unlocked then .debug else .bypass
  | i => i

/-- The lands are driven from the boundary-scan register: in KEEPER those referred to VIO_AON, later those whose supply
group is on. -/
def State.landsScanned (s : State) : Bool := s.tapActs == .extest || s.tapActs == .clamp
/-- The outputs are at high impedance. -/
def State.landsHighZ (s : State) : Bool := s.tapActs == .highz

/-- IDCODE: silicon revision, part number 0x4C0, Tuixia's JEP106 code, and the constant 1 of IEEE 1149.1. -/
def idcodeWord : Nat :=
  pack [(28, Config.siliconRev.toNat), (12, 0x4C0), (1, Config.jep106.toNat), (0, 1)]

def bitsNat : List Bool → Nat
  | [] => 0
  | b :: t => b.toNat + 2 * bitsNat t

/-- The data register that an instruction selects, as it is captured: the bypass register captures 0. -/
def State.tapCapture (s : State) (i : TapIr) : Quad :=
  match i with
  | .idcode => BitVec.ofNat 128 idcodeWord
  | .samplePreload | .extest => BitVec.ofNat 128 (bitsNat s.mgmt.bsr)
  | .bypass | .clamp | .highz => 0
  | .debug => s.mgmt.tapDr

/-- An instruction is loaded into the TAP. -/
def State.tapLoad (s : State) (i : TapIr) : State :=
  if !s.tapOn then s
  else
    let s1 := { s with mgmt := { s.mgmt with tapIr := i } }
    { s1 with mgmt := { s1.mgmt with tapDr := s1.tapCapture s1.tapActs } }

/-- SAMPLE/PRELOAD: the register takes the levels of the lands, which are free, or is preloaded. -/
def State.tapSample (s : State) (preload : Option (List Bool)) : State :=
  if !s.tapOn then s
  else
    match preload with
    | some l => ({ s with mgmt := { s.mgmt with bsr := l } }).tapLoad .samplePreload
    | none =>
      let d := s.drawBytes Config.boundaryCells
      ({ d.2 with mgmt := { d.2.mgmt with bsr := d.1.map fun (b : Byte) => b.getLsbD 0 } }).tapLoad .samplePreload

/-! ### Debug instructions (R236, R237, R546) -/

/-- A debug instruction on core `lc`: it acts only while the unlock in force covers the core's parcel. -/
def State.tapDebug (s : State) (lc : Lc) (k : State → State) : State :=
  if !s.tapOn then s
  else
    let s1 := s.tapLoad .debug
    let l := s1.lc lc.val
    if s1.unlocked && l.host.isSome && inScope s1.debugScope l then k s1 else s1

/-- A debug instruction on a halted core. -/
def State.tapHalted (s : State) (lc : Lc) (k : State → State) : State :=
  s.tapDebug lc fun s => if (s.lc lc.val).stops.debug then k s else s

def State.setDr (s : State) (v : Quad) : State := { s with mgmt := { s.mgmt with tapDr := v } }

/-- Halt: a request that the core meets at its synchronisation point, or after SLUICE.X. -/
def State.tapHalt (s : State) (lc : Lc) : State :=
  s.tapDebug lc fun s => if (s.lc lc.val).stops.debug then s else s.requestHalt lc

def State.tapResume (s : State) (lc : Lc) : State := (s.tapDebug lc fun s => s.debugResume lc).settleMode

/-- Value of a register of the lead replica. -/
def LCore.debugRead (l : LCore) (lc : Lc) : DebugReg → Quad
  | .g n => (l.rg n).setWidth 128
  | .f n => l.rf n
  | .s n => l.rs n
  | .pc => l.pc.setWidth 128
  | .csd => l.csd
  | .cr n => if (crRights n.toNat).isSome then (l.crRead lc n.toNat).setWidth 128 else 0

/-- The register written; a control register takes what MTC may write to it, at any level (log entry 36). -/
def LCore.debugWrite (l : LCore) (r : DebugReg) (v : Quad) : LCore :=
  match r with
  | .g n => l.wg n (v.setWidth 64)
  | .f n => l.wf n v
  | .s n => l.ws n v
  | .pc => { l with pc := v.setWidth 64 }
  | .csd => { l with csd := v }
  | .cr n =>
    match crRights n.toNat with
    | some ⟨_, some _⟩ => (match l.crWrite n.toNat (v.setWidth 64) with | .ok l' => l' | _ => l)
    | _ => l

def State.tapReg (s : State) (lc : Lc) (r : DebugReg) (write : Option Quad) : State :=
  s.tapHalted lc fun s =>
    match write with
    | some v => s.modLc lc.val fun l => l.debugWrite r v
    | none => s.setDr ((s.lc lc.val).debugRead lc r)

/-- An access is 1, 2, 4 or 8 bytes, aligned to its size. -/
def tapForm (a n : Nat) : Bool := (n = 1 || n = 2 || n = 4 || n = 8) && a % n = 0

/-- A read as the halted core's lead replica; a location that cannot be read leaves the data register (log entry 36). -/
def State.tapRead (s : State) (lc : Lc) (a n : Nat) : State :=
  match s.readAt lc a n false with
  | .ok r => r.2.setDr (BitVec.ofNat 128 (leNat r.1))
  | _ => s

/-- A write as the halted core's lead replica; a control-space write that a queue manager holds is left to it. -/
def State.tapWrite (s : State) (lc : Lc) (a : Nat) (bs : List Byte) : State :=
  match s.place a with
  | .control => s.csWrite (.core lc) a bs.length (BitVec.ofNat 64 (leNat bs))
  | _ =>
    match s.writeAt lc a bs false with
    | .ok r => r.1
    | _ => s

/-- Memory access at a physical address, checked under R58: a denied one freezes the core (R60). -/
def State.tapMem (s : State) (lc : Lc) (addr : Word) (n : Nat) (write : Option Word) : State :=
  s.tapHalted lc fun s =>
    let a := addr.toNat
    if !tapForm a n then s
    else if !s.fwPass (.core lc) a n (if write.isSome then needW else needR) then s.freezeMaster (.core lc) (s.fwDenied (.core lc) a n (if write.isSome then needW else needR))
    else
      match write with
      | some v => s.tapWrite lc a (leBytes n v.toNat)
      | none => s.tapRead lc a n

/-- A breakpoint at an offset of the code segment is set or cleared. -/
def State.tapBreak (s : State) (lc : Lc) (offset : Word) (set : Bool) : State :=
  s.tapDebug lc fun s => s.modLc lc.val fun l =>
    let rest := l.breakpoints.filter fun b => b ≠ offset
    { l with breakpoints := if set then rest ++ [offset] else rest }

/-! ### Commands -/

/-- R545. -/
def execBypass (s : State) : Outcome State Fault Refusal := .next (s.tapLoad .bypass)

/-- R545. -/
def execIdcode (s : State) : Outcome State Fault Refusal := .next (s.tapLoad .idcode)

/-- R545. -/
def execSamplePreload (preload : Option (List Bool)) (s : State) : Outcome State Fault Refusal := .next (s.tapSample preload)

/-- R545. -/
def execExtest (s : State) : Outcome State Fault Refusal := .next (s.tapLoad .extest)

/-- R545. -/
def execClamp (s : State) : Outcome State Fault Refusal := .next (s.tapLoad .clamp)

/-- R545. -/
def execHighz (s : State) : Outcome State Fault Refusal := .next (s.tapLoad .highz)

/-- R546. -/
def execTapHalt (lc : Lc) (s : State) : Outcome State Fault Refusal := .next (s.tapHalt lc)

/-- R237, R546. -/
def execTapResume (lc : Lc) (s : State) : Outcome State Fault Refusal := .next (s.tapResume lc)

/-- R546. -/
def execTapRegisterAccess (lc : Lc) (r : DebugReg) (write : Option Quad) (s : State) : Outcome State Fault Refusal :=
  .next (s.tapReg lc r write)

/-- R58, R546. -/
def execTapMemoryAccess (lc : Lc) (addr : Word) (size : Nat) (write : Option Word) (s : State) : Outcome State Fault Refusal :=
  .next (s.tapMem lc addr size write)

/-- R546. -/
def execTapBreakpoint (lc : Lc) (offset : Word) (set : Bool) (s : State) : Outcome State Fault Refusal :=
  .next (s.tapBreak lc offset set)

end Sys2Proof.Machine
end

