-- ==== Sys2Proof/Machine/Dispatch.lean ====
section
/-! DEFINITION. `exec`: each command's one meaning, arm by arm in the order of the table. -/

namespace Sys2Proof.Machine

def exec (i : Instr) (s : State) : Host.Outcome State Fault Refusal :=
  match i with
  | .registerWrite m addr size value => Sys2Proof.Machine.execRegisterWrite m addr size value s
  | .supplyLoss => Sys2Proof.Machine.execSupplyLoss s
  | .powerOnReset straps => Sys2Proof.Machine.execPowerOnReset straps s
  | .wakeEvent => Sys2Proof.Machine.execWakeEvent s
  | .xwakeFall => Sys2Proof.Machine.execXwakeFall s
  | .powerUpStep => Sys2Proof.Machine.execPowerUpStep s
  | .railTimeout => Sys2Proof.Machine.execRailTimeout s
  | .fuseSenseDone ok => Sys2Proof.Machine.execFuseSenseDone ok s
  | .keeperBistDone ok dimms => Sys2Proof.Machine.execKeeperBistDone ok dimms s
  | .flashCopyValidated bistFail => Sys2Proof.Machine.execFlashCopyValidated bistFail s
  | .composeComplete cxlUnits => Sys2Proof.Machine.execComposeComplete cxlUnits s
  | .powerDownStep pgoodFell => Sys2Proof.Machine.execPowerDownStep pgoodFell s
  | .pgoodLoss group => Sys2Proof.Machine.execPgoodLoss group s
  | .ksQuiesce m => Sys2Proof.Machine.execKsQuiesce m s
  | .quiesceComplete => Sys2Proof.Machine.execQuiesceComplete s
  | .ksResume m => Sys2Proof.Machine.execKsResume m s
  | .ksIsolate m tile => Sys2Proof.Machine.execKsIsolate m tile s
  | .ksRestore m tile => Sys2Proof.Machine.execKsRestore m tile s
  | .restoreBistDone ok => Sys2Proof.Machine.execRestoreBistDone ok s
  | .ksSleep m => Sys2Proof.Machine.execKsSleep m s
  | .ksRestart m => Sys2Proof.Machine.execKsRestart m s
  | .ksZeroize m confirm => Sys2Proof.Machine.execKsZeroize m confirm s
  | .zeroizeComplete => Sys2Proof.Machine.execZeroizeComplete s
  | .tbNowRead m => Sys2Proof.Machine.execTbNowRead m s
  | .tbStep m delta => Sys2Proof.Machine.execTbStep m delta s
  | .tbSwitchTo1ghz => Sys2Proof.Machine.execTbSwitchTo1ghz s
  | .tbSwitchTo32k => Sys2Proof.Machine.execTbSwitchTo32k s
  | .tbCaptureEvent src => Sys2Proof.Machine.execTbCaptureEvent src s
  | .ppsOutRise => Sys2Proof.Machine.execPpsOutRise s
  | .ppsOutFall => Sys2Proof.Machine.execPpsOutFall s
  | .comparatorFire n => Sys2Proof.Machine.execComparatorFire n s
  | .ecSample e sample => Sys2Proof.Machine.execEcSample e sample s
  | .keeperPairMismatch => Sys2Proof.Machine.execKeeperPairMismatch s
  | .imgApply m => Sys2Proof.Machine.execImgApply m s
  | .recompositionCommit => Sys2Proof.Machine.execRecompositionCommit s
  | .imgDiscard m => Sys2Proof.Machine.execImgDiscard m s
  | .commitVersion m => Sys2Proof.Machine.execCommitVersion m s
  | .sealFuses m => Sys2Proof.Machine.execSealFuses m s
  | .unfreeze m target => Sys2Proof.Machine.execUnfreeze m target s
  | .add lc d a b => Sys2Proof.Machine.execAdd lc d a b s
  | .sub lc d a b => Sys2Proof.Machine.execSub lc d a b s
  | .neg lc d a => Sys2Proof.Machine.execNeg lc d a s
  | .logicalOperation lc op d a b => Sys2Proof.Machine.execLogicalOperation lc op d a b s
  | .compare lc op d a b => Sys2Proof.Machine.execCompare lc op d a b s
  | .minMax lc op d a b => Sys2Proof.Machine.execMinMax lc op d a b s
  | .sextwZextw lc signed d a => Sys2Proof.Machine.execSextwZextw lc signed d a s
  | .shift lc op d a b => Sys2Proof.Machine.execShift lc op d a b s
  | .rotate lc op d a b => Sys2Proof.Machine.execRotate lc op d a b s
  | .lui lc d imm => Sys2Proof.Machine.execLui lc d imm s
  | .mul lc op d a b => Sys2Proof.Machine.execMul lc op d a b s
  | .div lc op d a b => Sys2Proof.Machine.execDiv lc op d a b s
  | .divstep lc d a b => Sys2Proof.Machine.execDivstep lc d a b s
  | .load lc op form ev => Sys2Proof.Machine.execLoad lc op form ev s
  | .store lc op form => Sys2Proof.Machine.execStore lc op form s
  | .tas lc d a => Sys2Proof.Machine.execTas lc d a s
  | .atomicFadd lc d a b => Sys2Proof.Machine.execAtomicFadd lc d a b s
  | .swap lc d a b => Sys2Proof.Machine.execSwap lc d a b s
  | .cas lc d a b c => Sys2Proof.Machine.execCas lc d a b c s
  | .amin lc d a b => Sys2Proof.Machine.execAmin lc d a b s
  | .amax lc d a b => Sys2Proof.Machine.execAmax lc d a b s
  | .ldres lc d a => Sys2Proof.Machine.execLdres lc d a s
  | .stcnd lc d a b => Sys2Proof.Machine.execStcnd lc d a b s
  | .reservationHoldExpiry lc => Sys2Proof.Machine.execReservationHoldExpiry lc s
  | .lseg lc sn a => Sys2Proof.Machine.execLseg lc sn a s
  | .wrseg lc sn a b => Sys2Proof.Machine.execWrseg lc sn a b s
  | .rdseg lc d sn half => Sys2Proof.Machine.execRdseg lc d sn half s
  | .tlbiVa lc a => Sys2Proof.Machine.execTlbiVa lc a s
  | .tlbiAsid lc a => Sys2Proof.Machine.execTlbiAsid lc a s
  | .tlbiAll lc => Sys2Proof.Machine.execTlbiAll lc s
  | .tlbiGuest lc a => Sys2Proof.Machine.execTlbiGuest lc a s
  | .tlbiBroadcast lc op a => Sys2Proof.Machine.execTlbiBroadcast lc op a s
  | .sync lc => Sys2Proof.Machine.execSync lc s
  | .isync lc => Sys2Proof.Machine.execIsync lc s
  | .fbar lc => Sys2Proof.Machine.execFbar lc s
  | .rdtime lc d => Sys2Proof.Machine.execRdtime lc d s
  | .conditionalBranch lc op a disp => Sys2Proof.Machine.execConditionalBranch lc op a disp s
  | .jmp lc disp => Sys2Proof.Machine.execJmp lc disp s
  | .call lc disp => Sys2Proof.Machine.execCall lc disp s
  | .jr lc a => Sys2Proof.Machine.execJr lc a s
  | .jalr lc d a => Sys2Proof.Machine.execJalr lc d a s
  | .svc lc => Sys2Proof.Machine.execSvc lc s
  | .hvc lc => Sys2Proof.Machine.execHvc lc s
  | .retx lc => Sys2Proof.Machine.execRetx lc s
  | .mfc lc d n => Sys2Proof.Machine.execMfc lc d n s
  | .mtc lc a n => Sys2Proof.Machine.execMtc lc a n s
  | .brk lc => Sys2Proof.Machine.execBrk lc s
  | .wait lc => Sys2Proof.Machine.execWait lc s
  | .pairedWord lc w => Sys2Proof.Machine.execPairedWord lc w s
  | .fadd lc fmt d a b rm => Sys2Proof.Machine.execFadd lc fmt d a b rm s
  | .fsub lc fmt d a b rm => Sys2Proof.Machine.execFsub lc fmt d a b rm s
  | .fmul lc fmt d a b rm => Sys2Proof.Machine.execFmul lc fmt d a b rm s
  | .fdiv lc fmt d a b rm ev => Sys2Proof.Machine.execFdiv lc fmt d a b rm ev s
  | .fsqrt lc fmt d a rm => Sys2Proof.Machine.execFsqrt lc fmt d a rm s
  | .fminFmax lc fmt max d a b => Sys2Proof.Machine.execFminFmax lc fmt max d a b s
  | .fabsFnegFcpysgn lc fmt op d a b => Sys2Proof.Machine.execFabsFnegFcpysgn lc fmt op d a b s
  | .frint lc fmt d a rm => Sys2Proof.Machine.execFrint lc fmt d a rm s
  | .fcmp lc fmt signalling d a b => Sys2Proof.Machine.execFcmp lc fmt signalling d a b s
  | .fclass lc fmt d a => Sys2Proof.Machine.execFclass lc fmt d a s
  | .fquant lc fmt d a b rm => Sys2Proof.Machine.execFquant lc fmt d a b rm s
  | .fusedMultiplyAdd lc fmt op d a b c => Sys2Proof.Machine.execFusedMultiplyAdd lc fmt op d a b c s
  | .fcvtFf lc src dst d a rm => Sys2Proof.Machine.execFcvtFf lc src dst d a rm s
  | .fcvtFi lc src d a rm => Sys2Proof.Machine.execFcvtFi lc src d a rm s
  | .fcvtFu lc src d a rm => Sys2Proof.Machine.execFcvtFu lc src d a rm s
  | .fcvtIf lc unsigned dst d a rm => Sys2Proof.Machine.execFcvtIf lc unsigned dst d a rm s
  | .fpMove lc op d a => Sys2Proof.Machine.execFpMove lc op d a s
  | .fpTrapDelivery lc => Sys2Proof.Machine.execFpTrapDelivery lc s
  | .mvl lc d a b ev => Sys2Proof.Machine.execMvl lc d a b ev s
  | .cmpx lc d a => Sys2Proof.Machine.execCmpx lc d a s
  | .ciph lc d a => Sys2Proof.Machine.execCiph lc d a s
  | .dconv lc d a b dir ev => Sys2Proof.Machine.execDconv lc d a b dir ev s
  | .customOpcode lc k d a b cx ev => Sys2Proof.Machine.execCustomOpcode lc k d a b cx ev s
  | .mcOverrun lc => Sys2Proof.Machine.execMcOverrun lc s
  | .mcLoad m => Sys2Proof.Machine.execMcLoad m s
  | .rebuildWriteDone => Sys2Proof.Machine.execRebuildWriteDone s
  | .bankSwap lc => Sys2Proof.Machine.execBankSwap lc s
  | .groupTimeLoad island => Sys2Proof.Machine.execGroupTimeLoad island s
  | .fillArrival slot line ev => Sys2Proof.Machine.execFillArrival slot line ev s
  | .resyncWakeDone core => Sys2Proof.Machine.execResyncWakeDone core s
  | .resyncTestDone core ok => Sys2Proof.Machine.execResyncTestDone core ok s
  | .resyncInvalidateDone core => Sys2Proof.Machine.execResyncInvalidateDone core s
  | .resyncMirrorDone core ok => Sys2Proof.Machine.execResyncMirrorDone core ok s
  | .mirrorTimeout core => Sys2Proof.Machine.execMirrorTimeout core s
  | .rejoin core => Sys2Proof.Machine.execRejoin core s
  | .rejoinTimeout core => Sys2Proof.Machine.execRejoinTimeout core s
  | .grpResync m island tcore => Sys2Proof.Machine.execGrpResync m island tcore s
  | .grpInject m island tcore => Sys2Proof.Machine.execGrpInject m island tcore s
  | .grpRetireCore m island tcore => Sys2Proof.Machine.execGrpRetireCore m island tcore s
  | .migrationStart lc => Sys2Proof.Machine.execMigrationStart lc s
  | .migrationComplete lc => Sys2Proof.Machine.execMigrationComplete lc s
  | .voterRailFailure island copy => Sys2Proof.Machine.execVoterRailFailure island copy s
  | .groupStop lc => Sys2Proof.Machine.execGroupStop lc s
  | .debugHalt lc => Sys2Proof.Machine.execDebugHalt lc s
  | .debugResume lc => Sys2Proof.Machine.execDebugResume lc s
  | .hardwarePrefetch lc trained line stream => Sys2Proof.Machine.execHardwarePrefetch lc trained line stream s
  | .prefetchFill slot line => Sys2Proof.Machine.execPrefetchFill slot line s
  | .maintClean m n1 all discard => Sys2Proof.Machine.execMaintClean m n1 all discard s
  | .maintInvalidate m n1 all discard => Sys2Proof.Machine.execMaintInvalidate m n1 all discard s
  | .maintCleanInvalidate m n1 all discard => Sys2Proof.Machine.execMaintCleanInvalidate m n1 all discard s
  | .maintDone n0 => Sys2Proof.Machine.execMaintDone n0 s
  | .victimAccepted n0 => Sys2Proof.Machine.execVictimAccepted n0 s
  | .readShared slot line ev => Sys2Proof.Machine.execReadShared slot line ev s
  | .prefetch slot line ev => Sys2Proof.Machine.execPrefetch slot line ev s
  | .readOwn slot line ev => Sys2Proof.Machine.execReadOwn slot line ev s
  | .upgrade slot line => Sys2Proof.Machine.execUpgrade slot line s
  | .writeback slot line => Sys2Proof.Machine.execWriteback slot line s
  | .evictClean slot line => Sys2Proof.Machine.execEvictClean slot line s
  | .farAtomic lc ev => Sys2Proof.Machine.execFarAtomic lc ev s
  | .peek m addr size ev => Sys2Proof.Machine.execPeek m addr size ev s
  | .invWrite m addr data => Sys2Proof.Machine.execInvWrite m addr data s
  | .maintAction n0 line => Sys2Proof.Machine.execMaintAction n0 line s
  | .cancel r line => Sys2Proof.Machine.execCancel r line s
  | .complete r line => Sys2Proof.Machine.execComplete r line s
  | .nackResend r line => Sys2Proof.Machine.execNackResend r line s
  | .snpShare slot line => Sys2Proof.Machine.execSnpShare slot line s
  | .snpInv slot line => Sys2Proof.Machine.execSnpInv slot line s
  | .snpClean slot line => Sys2Proof.Machine.execSnpClean slot line s
  | .snpPeek slot line => Sys2Proof.Machine.execSnpPeek slot line s
  | .snpProbe slot line => Sys2Proof.Machine.execSnpProbe slot line s
  | .snpRecover slot line => Sys2Proof.Machine.execSnpRecover slot line s
  | .snoopAnswer slot line => Sys2Proof.Machine.execSnoopAnswer slot line s
  | .reclaimDone t => Sys2Proof.Machine.execReclaimDone t s
  | .cohBrlogRead m t => Sys2Proof.Machine.execCohBrlogRead m t s
  | .mcRead c line by_ ev => Sys2Proof.Machine.execMcRead c line by_ ev s
  | .mcWrite c line mask data poison by_ ev => Sys2Proof.Machine.execMcWrite c line mask data poison by_ ev s
  | .refreshDue c bank => Sys2Proof.Machine.execRefreshDue c bank s
  | .dimmThermalChange c hot => Sys2Proof.Machine.execDimmThermalChange c hot s
  | .neighbourRefresh c bank => Sys2Proof.Machine.execNeighbourRefresh c bank s
  | .rfm c bank => Sys2Proof.Machine.execRfm c bank s
  | .selfRefreshEntry c => Sys2Proof.Machine.execSelfRefreshEntry c s
  | .selfRefreshEntryDone c => Sys2Proof.Machine.execSelfRefreshEntryDone c s
  | .selfRefreshExit c => Sys2Proof.Machine.execSelfRefreshExit c s
  | .selfRefreshExitDone c => Sys2Proof.Machine.execSelfRefreshExitDone c s
  | .patrolRead c line ev => Sys2Proof.Machine.execPatrolRead c line ev s
  | .caParityError c line isWrite retryFails => Sys2Proof.Machine.execCaParityError c line isWrite retryFails s
  | .caRetrainDone c ok writeOk => Sys2Proof.Machine.execCaRetrainDone c ok writeOk s
  | .ddrTrainingDone c ok => Sys2Proof.Machine.execDdrTrainingDone c ok s
  | .dramZeroingDone c => Sys2Proof.Machine.execDramZeroingDone c s
  | .mcErrlogRead m c => Sys2Proof.Machine.execMcErrlogRead m c s
  | .qmQcfgWrite m q value => Sys2Proof.Machine.execQmQcfgWrite m q value s
  | .qmEnq m q user value => Sys2Proof.Machine.execQmEnq m q user value s
  | .qmOpen m q value => Sys2Proof.Machine.execQmOpen m q value s
  | .qmClose m q => Sys2Proof.Machine.execQmClose m q s
  | .qmDeq m q ev => Sys2Proof.Machine.execQmDeq m q ev s
  | .qmRewind m q ev => Sys2Proof.Machine.execQmRewind m q ev s
  | .qmMarkSet m q => Sys2Proof.Machine.execQmMarkSet m q s
  | .qmMarkClear m q => Sys2Proof.Machine.execQmMarkClear m q s
  | .qmFlush m q => Sys2Proof.Machine.execQmFlush m q s
  | .qmReset m q => Sys2Proof.Machine.execQmReset m q s
  | .heldWriteAccept q => Sys2Proof.Machine.execHeldWriteAccept q s
  | .spillBlockMove q toSpill ev => Sys2Proof.Machine.execSpillBlockMove q toSpill ev s
  | .qmDmaStart m c value => Sys2Proof.Machine.execQmDmaStart m c value s
  | .qdmaRecord c => Sys2Proof.Machine.execQdmaRecord c s
  | .scCfgWrite m sc value => Sys2Proof.Machine.execScCfgWrite m sc value s
  | .scStart m sc value => Sys2Proof.Machine.execScStart m sc value s
  | .scClear m sc => Sys2Proof.Machine.execScClear m sc s
  | .orderEvaluation sc => Sys2Proof.Machine.execOrderEvaluation sc s
  | .dataFrame p f => Sys2Proof.Machine.execDataFrame p f s
  | .endFrame p f => Sys2Proof.Machine.execEndFrame p f s
  | .establishedFrame p f => Sys2Proof.Machine.execEstablishedFrame p f s
  | .staleClaim p f => Sys2Proof.Machine.execStaleClaim p f s
  | .seqError p f => Sys2Proof.Machine.execSeqError p f s
  | .notEstablished p f => Sys2Proof.Machine.execNotEstablished p f s
  | .orderTimeout sc => Sys2Proof.Machine.execOrderTimeout sc s
  | .mirrorRecord sc r check => Sys2Proof.Machine.execMirrorRecord sc r check s
  | .mirrorAck sc => Sys2Proof.Machine.execMirrorAck sc s
  | .heartbeat e => Sys2Proof.Machine.execHeartbeat e s
  | .heartbeatTimeout sc => Sys2Proof.Machine.execHeartbeatTimeout sc s
  | .handover sc => Sys2Proof.Machine.execHandover sc s
  | .claimRequest sc e => Sys2Proof.Machine.execClaimRequest sc e s
  | .revocationAck sc => Sys2Proof.Machine.execRevocationAck sc s
  | .revocationTimeout sc => Sys2Proof.Machine.execRevocationTimeout sc s
  | .completionPost sc => Sys2Proof.Machine.execCompletionPost sc s
  | .mirrorLinkDown pair => Sys2Proof.Machine.execMirrorLinkDown pair s
  | .mirrorLinkUp pair => Sys2Proof.Machine.execMirrorLinkUp pair s
  | .pathHoldoffExpiry sc path => Sys2Proof.Machine.execPathHoldoffExpiry sc path s
  | .parkExpiry sc => Sys2Proof.Machine.execParkExpiry sc s
  | .lyvanResetDone p => Sys2Proof.Machine.execLyvanResetDone p s
  | .lanesDetected p => Sys2Proof.Machine.execLanesDetected p s
  | .equalizationDone p => Sys2Proof.Machine.execEqualizationDone p s
  | .alignLockHeld p reversed => Sys2Proof.Machine.execAlignLockHeld p reversed s
  | .ident p f => Sys2Proof.Machine.execIdent p f s
  | .trainingTimeout p => Sys2Proof.Machine.execTrainingTimeout p s
  | .trainingRetry p => Sys2Proof.Machine.execTrainingRetry p s
  | .laneLockLost p => Sys2Proof.Machine.execLaneLockLost p s
  | .codewordErrorLimit p => Sys2Proof.Machine.execCodewordErrorLimit p s
  | .frameReceive p f chk => Sys2Proof.Machine.execFrameReceive p f chk s
  | .ack p f => Sys2Proof.Machine.execAck p f s
  | .nak p f => Sys2Proof.Machine.execNak p f s
  | .ackTimer p => Sys2Proof.Machine.execAckTimer p s
  | .replayTimeout p => Sys2Proof.Machine.execReplayTimeout p s
  | .portRetrain m p => Sys2Proof.Machine.execPortRetrain m p s
  | .portDisable m p => Sys2Proof.Machine.execPortDisable m p s
  | .portEnable m p => Sys2Proof.Machine.execPortEnable m p s
  | .portRelease m p => Sys2Proof.Machine.execPortRelease m p s
  | .inboundMemoryRead p addr len => Sys2Proof.Machine.execInboundMemoryRead p addr len s
  | .inboundMemoryWrite p addr data => Sys2Proof.Machine.execInboundMemoryWrite p addr data s
  | .doorbellWrite p addr data => Sys2Proof.Machine.execDoorbellWrite p addr data s
  | .dpc p linkDown => Sys2Proof.Machine.execDpc p linkDown s
  | .pcieCe p => Sys2Proof.Machine.execPcieCe p s
  | .pcieNonfatal p => Sys2Proof.Machine.execPcieNonfatal p s
  | .configRead m p cpl data => Sys2Proof.Machine.execConfigRead m p cpl data s
  | .configWrite m p value cpl => Sys2Proof.Machine.execConfigWrite m p value cpl s
  | .cxlLinkActive p => Sys2Proof.Machine.execCxlLinkActive p s
  | .chunkDone r => Sys2Proof.Machine.execChunkDone r s
  | .ctxcfgWrite m c value => Sys2Proof.Machine.execCtxcfgWrite m c value s
  | .contextRequestWord c => Sys2Proof.Machine.execContextRequestWord c s
  | .cphKwLoad m t value => Sys2Proof.Machine.execCphKwLoad m t value s
  | .accParityError r => Sys2Proof.Machine.execAccParityError r s
  | .sluice lc a => Sys2Proof.Machine.execSluice lc a s
  | .sluiceX lc => Sys2Proof.Machine.execSluiceX lc s
  | .gateInterruptEntry lc => Sys2Proof.Machine.execGateInterruptEntry lc s
  | .cutClock m u => Sys2Proof.Machine.execCutClock m u s
  | .cutPower m u => Sys2Proof.Machine.execCutPower m u s
  | .cutRestore m u => Sys2Proof.Machine.execCutRestore m u s
  | .pwrRelqRead m => Sys2Proof.Machine.execPwrRelqRead m s
  | .release m unitCode inst => Sys2Proof.Machine.execRelease m unitCode inst s
  | .deny m unitCode inst => Sys2Proof.Machine.execDeny m unitCode inst s
  | .interruptRoute k => Sys2Proof.Machine.execInterruptRoute k s
  | .pendingSetArrival lc => Sys2Proof.Machine.execPendingSetArrival lc s
  | .interruptEntry lc => Sys2Proof.Machine.execInterruptEntry lc s
  | .notify lc => Sys2Proof.Machine.execNotify lc s
  | .irSend m owner value => Sys2Proof.Machine.execIrSend m owner value s
  | .stormRefill => Sys2Proof.Machine.execStormRefill s
  | .parcelReset m p => Sys2Proof.Machine.execParcelReset m p s
  | .parcelResetStepDone p => Sys2Proof.Machine.execParcelResetStepDone p s
  | .lcReset m p lc => Sys2Proof.Machine.execLcReset m p lc s
  | .pathReset m p port => Sys2Proof.Machine.execPathReset m p port s
  | .consent m p => Sys2Proof.Machine.execConsent m p s
  | .prStartWrite m p value => Sys2Proof.Machine.execPrStartWrite m p value s
  | .shareWindowEnd c => Sys2Proof.Machine.execShareWindowEnd c s
  | .ringWindowEnd t ring => Sys2Proof.Machine.execRingWindowEnd t ring s
  | .deficitRound a => Sys2Proof.Machine.execDeficitRound a s
  | .faultMessageArrival src => Sys2Proof.Machine.execFaultMessageArrival src s
  | .promotionSignal k => Sys2Proof.Machine.execPromotionSignal k s
  | .junctionSample k lo hi => Sys2Proof.Machine.execJunctionSample k lo hi s
  | .tileFatalError k kind ring addr => Sys2Proof.Machine.execTileFatalError k kind ring addr s
  | .fcLogRead m k => Sys2Proof.Machine.execFcLogRead m k s
  | .fcInject m k value => Sys2Proof.Machine.execFcInject m k value s
  | .fcParcelEnable m k p value => Sys2Proof.Machine.execFcParcelEnable m k p value s
  | .graveBitClear m k => Sys2Proof.Machine.execGraveBitClear m k s
  | .aliveToggle => Sys2Proof.Machine.execAliveToggle s
  | .pinEvent n rawEdges => Sys2Proof.Machine.execPinEvent n rawEdges s
  | .pinStuck n => Sys2Proof.Machine.execPinStuck n s
  | .pinUnmask m n => Sys2Proof.Machine.execPinUnmask m n s
  | .hello via keyId nonce kemKey => Sys2Proof.Machine.execHello via keyId nonce kemKey s
  | .finish session signature => Sys2Proof.Machine.execFinish session signature s
  | .close session seq => Sys2Proof.Machine.execClose session seq s
  | .sessionTimeout session => Sys2Proof.Machine.execSessionTimeout session s
  | .request via session seq tagOk reqId op args => Sys2Proof.Machine.execRequest via session seq tagOk reqId op args s
  | .status h => Sys2Proof.Machine.execStatus h s
  | .csRead h addr => Sys2Proof.Machine.execCsRead h addr s
  | .csWrite h addr value => Sys2Proof.Machine.execCsWrite h addr value s
  | .imagePut h offset data => Sys2Proof.Machine.execImagePut h offset data s
  | .imageEnd h bistFail => Sys2Proof.Machine.execImageEnd h bistFail s
  | .deliveryTimeout => Sys2Proof.Machine.execDeliveryTimeout s
  | .imgCmd h value => Sys2Proof.Machine.execImgCmd h value s
  | .flashUpdate h readBackOk => Sys2Proof.Machine.execFlashUpdate h readBackOk s
  | .keySlot h slot program => Sys2Proof.Machine.execKeySlot h slot program s
  | .modeCmd h value => Sys2Proof.Machine.execModeCmd h value s
  | .graveClear h => Sys2Proof.Machine.execGraveClear h s
  | .attest h nonce => Sys2Proof.Machine.execAttest h nonce s
  | .certs h => Sys2Proof.Machine.execCerts h s
  | .logRead h first count => Sys2Proof.Machine.execLogRead h first count s
  | .flashRead h addr len => Sys2Proof.Machine.execFlashRead h addr len s
  | .flashWrite h addr data => Sys2Proof.Machine.execFlashWrite h addr data s
  | .debugUnlock h scope seconds => Sys2Proof.Machine.execDebugUnlock h scope seconds s
  | .debugLock h => Sys2Proof.Machine.execDebugLock h s
  | .debugUnlockExpiry => Sys2Proof.Machine.execDebugUnlockExpiry s
  | .setEndpointId eid => Sys2Proof.Machine.execSetEndpointId eid s
  | .getEndpointId => Sys2Proof.Machine.execGetEndpointId s
  | .getMctpVersionSupport msgType => Sys2Proof.Machine.execGetMctpVersionSupport msgType s
  | .getMessageTypeSupport => Sys2Proof.Machine.execGetMessageTypeSupport s
  | .mgtPortFailover => Sys2Proof.Machine.execMgtPortFailover s
  | .mgtLinkUp n => Sys2Proof.Machine.execMgtLinkUp n s
  | .ptpEventMessage n msg ingress accepted => Sys2Proof.Machine.execPtpEventMessage n msg ingress accepted s
  | .routerAdvertisement n pfx => Sys2Proof.Machine.execRouterAdvertisement n pfx s
  | .bypass => Sys2Proof.Machine.execBypass s
  | .idcode => Sys2Proof.Machine.execIdcode s
  | .samplePreload preload => Sys2Proof.Machine.execSamplePreload preload s
  | .extest => Sys2Proof.Machine.execExtest s
  | .clamp => Sys2Proof.Machine.execClamp s
  | .highz => Sys2Proof.Machine.execHighz s
  | .tapHalt lc => Sys2Proof.Machine.execTapHalt lc s
  | .tapResume lc => Sys2Proof.Machine.execTapResume lc s
  | .tapRegisterAccess lc r write => Sys2Proof.Machine.execTapRegisterAccess lc r write s
  | .tapMemoryAccess lc addr size write => Sys2Proof.Machine.execTapMemoryAccess lc addr size write s
  | .tapBreakpoint lc offset set => Sys2Proof.Machine.execTapBreakpoint lc offset set s
  | .undefinedEncoding lc w => Sys2Proof.Machine.execUndefinedEncoding lc w s
  | .instructionFetchFault lc => Sys2Proof.Machine.execInstructionFetchFault lc s
  | .pgoodReassertion group => Sys2Proof.Machine.execPgoodReassertion group s
  | .xwakeRise => Sys2Proof.Machine.execXwakeRise s
  | .pinInactiveChange n => Sys2Proof.Machine.execPinInactiveChange n s
  | .peInternalFault e => Sys2Proof.Machine.execPeInternalFault e s
  | .completionTimeout m p addr w => Sys2Proof.Machine.execCompletionTimeout m p addr w s
  | .intxMessage p => Sys2Proof.Machine.execIntxMessage p s
  | .pcieLinkActive p width rate flit reversed => Sys2Proof.Machine.execPcieLinkActive p width rate flit reversed s

end Sys2Proof.Machine
end

