-- ==== Sys2Proof/Machine/Step.lean ====
section
/-! DEFINITION. `step`: take the command at the front of the queue and run it; on an empty queue, one tick of the
timebase (log entry 4). -/

namespace Sys2Proof.Machine

/-- One step of the block. -/
def step (s : State) : Host.Outcome State Fault Refusal :=
  match s.pending with
  | [] => .next s.tick
  | c :: rest => exec c { s with pending := rest }

/-- `s` with the command that a word spells by the table's bits put at the front of its queue; unchanged where the
word spells none.  No row of the table gives bits, so no word spells a command. -/
def State.withFetchWord (s : State) (nbits w : Nat) : State :=
  match decodeTableWord nbits w with
  | some c => { s with pending := c :: s.pending }
  | none => s

end Sys2Proof.Machine
end

