-- ==== Sys2Proof/Safety.lean ====
section
/-! DEFINITION. The conditions that statements about the module are made under: when a logical core executes a
command, when a control-space access reaches its block, and what every step keeps. -/

namespace Sys2Proof.Machine

/-- The command of `lc` executes now and nothing displaces it: the core runs, its word is at no breakpoint that acts, no
FP trap is recorded and no MACHINE_CHECK of a routine is due, no error waits in the caches on the word's line, and nothing
strikes a core of its slot (R64, R161, R178, R210, R254, R546). -/
def State.clear (s : State) (lc : Lc) : Bool :=
  s.lcRuns lc && !((s.lc lc.val).breakpoints.contains (s.lc lc.val).pc && s.haltable (s.lc lc.val)) &&
    !(s.lc lc.val).fpPend && (s.lc lc.val).lateDue.isNone && (s.fetchErr lc).isNone && !s.struck lc

/-- The core becomes `l` and goes on to the next word, and the instruction retires: `State.retired` uses the fetched line in
the slot's caches and asks for what the instruction's walks read (R242, R246, R259). -/
def State.retire (s : State) (lc : Lc) (l : LCore) : State :=
  s.retired lc (s.setLc lc.val { l with pc := (s.lc lc.val).pc + 4 })

/-- A control-space access of `m` to `n` bytes at `pa` reaches its block: the master is the keeper, or the grants and the
condition `ok` admit it, the window answers, and the access is not behind a held write (R28, R58, R59, R340). -/
def State.admitsBytes (s : State) (m : Master) (pa n need : Nat) (ok : Bool) : Bool :=
  s.ringsRun && (m == .keeper || (s.fwPass m pa n need && ok)) && s.windowOpen m pa && !s.behindHeld m pa

/-- A control-space access of `m` to the 8 bytes at `pa` reaches its block. -/
abbrev State.admits (s : State) (m : Master) (pa need : Nat) (ok : Bool) : Bool := s.admitsBytes m pa 8 need ok

/-- The state in which the home slices have served the requests of `r` for these ranges: the filter and the basin are used, and
an error that waited in the basin is met (R254, R257, R285, R289). -/
def State.atHome (s : State) (r : Requester) (rs : List Reach) : State := (s.reached rs).foldl (fun t e => t.served r e.1) s

/-- The keeper's next request is the one that `h` names, of operation `op`, of the live or challenged session `x` that has
no stored response to it (R538). -/
def State.serving (s : State) (h : ReqHdr) (op : Nat) (x : Sess) : Prop :=
  s.mgmtOn = true ∧ s.sess h.session = some x ∧ x.stored h.reqId = none ∧
    ∃ q, s.mgmt.queue.head? = some q ∧ q.session = h.session ∧ q.reqId = h.reqId ∧ q.op.toNat = op

/-- The next request has left the keeper's queue. -/
def State.dequeued (s : State) : State := { s with mgmt := { s.mgmt with queue := s.mgmt.queue.tail } }

/-! ### What every step keeps -/

/-- No fuse of `a` is intact again in `b`: fuses are blown once (R33, R34, R57). -/
def Fuses.kept (a b : Fuses) : Prop :=
  a.secVersion ≤ b.secVersion ∧ (a.sealed = true → b.sealed = true) ∧ a.sealDigest &&& b.sealDigest = a.sealDigest ∧
    a.revoked &&& b.revoked = a.revoked ∧
    ∀ k : Fin 4, (a.slots.get k).isSome = true → b.slots.get k = a.slots.get k

/-- Memory is held in its canonical form. -/
def State.memWf (s : State) : Bool := Memory.wf s.mem

/-! ### What each command can touch -/

/-- Parts of the state that a frame names. -/
inductive Part where
  | keeper | loader | tb | mgmt | mem | lcs | queues | scs | ports | holders | ctxs
  deriving DecidableEq, Repr

/-- The part is the same in both states. -/
def Part.same (s t : State) : Part → Prop
  | .keeper => t.keeper = s.keeper
  | .loader => t.loader = s.loader
  | .tb => t.tb = s.tb
  | .mgmt => t.mgmt = s.mgmt
  | .mem => t.mem = s.mem
  | .lcs => t.lcs = s.lcs
  | .queues => t.queues = s.queues
  | .scs => t.scs = s.scs
  | .ports => t.ports = s.ports
  | .holders => t.holders = s.holders
  | .ctxs => t.ctxs = s.ctxs

/-- The parts that a command can change, its exceptions, freezes and error reports included: `keeper` the sequencer,
`loader` images and flash, `tb` the timebase, `mgmt` the endpoint and TAP, `mem` memory, `lcs` the logical cores, `queues`
the queue managers, `scs` the subchannels, `ports` the ports, `holders` caches and buffers, `ctxs` the engines'
contexts. -/
def touches (i : Instr) : List Part :=
  match i with
  | .registerWrite .. | .supplyLoss | .powerDownStep .. | .store .. | .pairedWord .. | .mvl .. | .dconv .. |
    .customOpcode .. | .csWrite .. | .tapMemoryAccess .. =>
    [.keeper, .loader, .tb, .mgmt, .mem, .lcs, .queues, .scs, .ports, .holders, .ctxs]
  | .powerOnReset .. | .wakeEvent | .xwakeFall | .powerUpStep | .railTimeout | .fuseSenseDone .. | .pgoodLoss .. |
    .zeroizeComplete | .ppsOutRise | .ppsOutFall | .keeperPairMismatch | .aliveToggle | .pgoodReassertion .. |
    .xwakeRise =>
    [.keeper]
  | .keeperBistDone .. | .comparatorFire .. =>
    [.keeper, .loader, .mgmt, .mem, .lcs, .scs, .holders]
  | .flashCopyValidated .. =>
    [.keeper, .loader, .ports]
  | .composeComplete .. =>
    [.keeper, .loader, .lcs, .ports]
  | .ksQuiesce .. | .ksRestore .. | .ksSleep .. | .ksRestart .. =>
    [.keeper, .lcs, .ports, .ctxs]
  | .quiesceComplete | .restoreBistDone .. | .resyncTestDone .. | .mirrorTimeout .. | .rejoinTimeout .. |
    .migrationComplete .. | .debugResume .. | .orderTimeout .. | .heartbeatTimeout .. | .revocationTimeout .. |
    .pathHoldoffExpiry .. | .debugUnlockExpiry | .peInternalFault .. =>
    [.keeper, .loader, .lcs, .scs]
  | .ksResume .. =>
    [.keeper, .loader, .lcs, .queues, .scs, .ports, .ctxs]
  | .ksIsolate .. | .invWrite .. | .dataFrame .. =>
    [.keeper, .loader, .mem, .lcs, .scs, .ports, .holders, .ctxs]
  | .ksZeroize .. =>
    [.keeper, .loader, .mgmt, .mem, .lcs, .scs, .ports, .holders, .ctxs]
  | .tbNowRead .. | .grpInject .. | .maintClean .. | .maintInvalidate .. | .maintCleanInvalidate .. |
    .cohBrlogRead .. | .mcErrlogRead .. | .qmDmaStart .. | .inboundMemoryRead .. | .configRead .. | .configWrite .. |
    .ctxcfgWrite .. | .cphKwLoad .. | .pwrRelqRead .. | .prStartWrite .. | .fcLogRead .. | .fcInject .. |
    .fcParcelEnable .. | .pinUnmask .. =>
    [.lcs, .ports, .ctxs]
  | .tbStep .. =>
    [.tb, .lcs, .ports, .ctxs]
  | .tbSwitchTo1ghz =>
    [.keeper, .tb]
  | .tbSwitchTo32k =>
    [.tb]
  | .tbCaptureEvent .. | .groupTimeLoad .. | .resyncWakeDone .. | .resyncInvalidateDone .. | .maintDone .. |
    .cancel .. | .complete .. | .nackResend .. | .reclaimDone .. | .mcRead .. | .refreshDue .. |
    .dimmThermalChange .. | .neighbourRefresh .. | .rfm .. | .selfRefreshEntry .. | .selfRefreshEntryDone .. |
    .selfRefreshExit .. | .patrolRead .. | .caParityError .. | .doorbellWrite .. | .pcieCe .. | .pcieNonfatal .. |
    .accParityError .. | .shareWindowEnd .. | .ringWindowEnd .. | .deficitRound .. | .junctionSample .. |
    .pinEvent .. | .pinStuck .. | .pinInactiveChange .. | .intxMessage .. =>
    []
  | .ecSample .. =>
    [.keeper, .loader, .tb, .mgmt, .mem, .lcs, .scs, .holders]
  | .imgApply .. | .imgDiscard .. | .commitVersion .. | .sealFuses .. | .unfreeze .. | .imgCmd .. | .modeCmd .. =>
    [.keeper, .loader, .mgmt, .mem, .lcs, .queues, .scs, .ports, .holders, .ctxs]
  | .recompositionCommit =>
    [.keeper, .loader, .mgmt, .mem, .lcs, .scs, .ports, .holders]
  | .add .. | .sub .. | .neg .. | .logicalOperation .. | .compare .. | .minMax .. | .sextwZextw .. | .shift .. |
    .rotate .. | .lui .. | .mul .. | .div .. | .divstep .. | .tas .. | .atomicFadd .. | .swap .. | .cas .. |
    .amin .. | .amax .. | .stcnd .. | .wrseg .. | .rdseg .. | .tlbiVa .. | .tlbiAsid .. | .tlbiAll .. |
    .tlbiGuest .. | .tlbiBroadcast .. | .sync .. | .isync .. | .fbar .. | .rdtime .. | .conditionalBranch .. |
    .jmp .. | .call .. | .jr .. | .jalr .. | .svc .. | .hvc .. | .retx .. | .mfc .. | .mtc .. | .brk .. | .wait .. |
    .fadd .. | .fsub .. | .fmul .. | .fdiv .. | .fsqrt .. | .fminFmax .. | .fabsFnegFcpysgn .. | .frint .. |
    .fcmp .. | .fclass .. | .fquant .. | .fusedMultiplyAdd .. | .fcvtFf .. | .fcvtFi .. | .fcvtFu .. | .fcvtIf .. |
    .fpMove .. | .fpTrapDelivery .. | .fillArrival .. | .rejoin .. | .migrationStart .. | .voterRailFailure .. |
    .debugHalt .. | .writeback .. | .evictClean .. | .farAtomic .. | .maintAction .. | .snpShare .. | .snpInv .. |
    .snpClean .. | .snpPeek .. | .snpProbe .. | .snpRecover .. | .sluice .. | .sluiceX .. | .gateInterruptEntry .. |
    .interruptEntry .. | .promotionSignal .. | .tileFatalError .. | .undefinedEncoding .. |
    .instructionFetchFault .. =>
    [.keeper, .loader, .mem, .lcs, .scs, .ports, .holders]
  | .load .. | .ldres .. | .lseg .. | .cmpx .. | .ciph .. | .scCfgWrite .. | .parcelReset .. |
    .parcelResetStepDone .. | .lcReset .. | .pathReset .. | .consent .. =>
    [.keeper, .loader, .mem, .lcs, .queues, .scs, .ports, .holders, .ctxs]
  | .reservationHoldExpiry .. | .mcOverrun .. | .snoopAnswer .. | .pendingSetArrival .. =>
    [.lcs]
  | .mcLoad .. =>
    [.loader, .lcs, .ports, .ctxs]
  | .rebuildWriteDone | .bankSwap .. =>
    [.loader, .lcs]
  | .resyncMirrorDone .. | .readShared .. | .prefetch .. | .readOwn .. | .upgrade .. =>
    [.keeper, .loader, .lcs, .scs, .holders]
  | .grpResync .. | .grpRetireCore .. | .orderEvaluation .. | .portRetrain .. | .portDisable .. | .cutClock .. |
    .cutPower .. | .cutRestore .. | .release .. | .deny .. | .graveBitClear .. =>
    [.keeper, .loader, .lcs, .scs, .ports, .ctxs]
  | .groupStop .. | .spillBlockMove .. =>
    [.mem, .lcs, .queues, .ports, .holders]
  | .hardwarePrefetch .. =>
    [.holders]
  | .prefetchFill .. | .interruptRoute .. | .notify .. | .stormRefill | .completionTimeout .. =>
    [.mem, .lcs, .ports, .holders]
  | .victimAccepted .. =>
    [.mem, .ports]
  | .peek .. =>
    [.keeper, .loader, .lcs, .scs, .ports, .holders, .ctxs]
  | .mcWrite .. | .selfRefreshExitDone .. | .caRetrainDone .. | .ddrTrainingDone .. | .dramZeroingDone .. =>
    [.mem]
  | .qmQcfgWrite .. | .qmEnq .. | .qmOpen .. | .qmClose .. | .qmDeq .. | .qmRewind .. | .qmMarkSet .. |
    .qmMarkClear .. | .qmFlush .. | .qmReset .. =>
    [.lcs, .queues, .ports, .ctxs]
  | .heldWriteAccept .. | .contextRequestWord .. =>
    [.queues, .ctxs]
  | .qdmaRecord .. | .chunkDone .. =>
    [.mem, .lcs, .queues, .ports, .holders, .ctxs]
  | .scStart .. | .portEnable .. | .portRelease .. =>
    [.lcs, .scs, .ports, .ctxs]
  | .scClear .. =>
    [.mem, .lcs, .queues, .scs, .ports, .holders, .ctxs]
  | .endFrame .. | .establishedFrame .. | .staleClaim .. | .seqError .. | .notEstablished .. | .cxlLinkActive .. |
    .pcieLinkActive .. =>
    [.scs, .ports]
  | .mirrorRecord .. | .mirrorAck .. | .heartbeat .. | .handover .. | .claimRequest .. | .revocationAck .. |
    .mirrorLinkDown .. | .mirrorLinkUp .. =>
    [.scs]
  | .completionPost .. | .parkExpiry .. =>
    [.mem, .lcs, .queues, .scs, .ports, .holders]
  | .lyvanResetDone .. | .lanesDetected .. | .equalizationDone .. | .alignLockHeld .. | .trainingTimeout .. |
    .trainingRetry .. | .ack .. | .ackTimer .. | .dpc .. =>
    [.ports]
  | .ident .. | .laneLockLost .. | .codewordErrorLimit .. | .frameReceive .. | .nak .. | .replayTimeout .. =>
    [.keeper, .loader, .lcs, .scs, .ports]
  | .inboundMemoryWrite .. | .irSend .. =>
    [.mem, .lcs, .ports, .holders, .ctxs]
  | .faultMessageArrival .. =>
    [.keeper, .loader, .mgmt, .lcs, .queues, .scs]
  | .hello .. | .request .. | .status .. | .keySlot .. | .attest .. | .certs .. | .logRead .. | .flashRead .. |
    .setEndpointId .. | .getEndpointId | .getMctpVersionSupport .. | .getMessageTypeSupport | .mgtPortFailover |
    .mgtLinkUp .. | .ptpEventMessage .. | .routerAdvertisement .. | .bypass | .idcode | .samplePreload .. | .extest |
    .clamp | .highz =>
    [.mgmt]
  | .finish .. | .close .. | .sessionTimeout .. | .imagePut .. | .flashWrite .. =>
    [.loader, .mgmt]
  | .csRead .. =>
    [.mgmt, .lcs, .queues, .ports, .ctxs]
  | .imageEnd .. =>
    [.keeper, .loader, .mgmt, .mem, .lcs, .ports, .holders]
  | .deliveryTimeout =>
    [.loader]
  | .flashUpdate .. =>
    [.keeper, .loader, .mgmt]
  | .graveClear .. | .debugUnlock .. | .debugLock .. | .tapResume .. =>
    [.keeper, .loader, .mgmt, .lcs, .scs]
  | .tapHalt .. | .tapRegisterAccess .. | .tapBreakpoint .. =>
    [.mgmt, .lcs]

end Sys2Proof.Machine
end

