-- ==== Sys2Proof/Certificates/Slice0/Obligations.lean ====
section
/-! DEFINITION. The statements about the module, for the provers: what each command does, what it leaves alone, and
what every step keeps. -/

open Sys2Proof Sys2Proof.Machine

/-- The command at the front of the queue is taken off it and executed on the rest of the state.  The queue is the
model's own (INVENTORY.md, Host interface). -/
def Obligations.FrontCommandRuns : Prop :=
  ∀ (c : Instr) (rest : List Instr) (s : State), s.pending = c :: rest → step s = exec c { s with pending := rest }

/-- R73 and R75: one tick adds the increment of the clock in use and the sum of the accepted TB_STEP writes, as one
change.  That an empty queue lets time pass is the model's choice (log entry 4). -/
def Obligations.EmptyQueueTicks : Prop :=
  ∀ s : State, s.pending = [] →
    (s.mode = .off → step s = .next s) ∧
    (s.mode ≠ .off → ∃ t, step s = .next t ∧
      t.tb.ns ++ t.tb.frac =
        (s.tb.ns ++ s.tb.frac) +
          (if s.tb.fast then BitVec.ofInt 96 (2 ^ 32 + s.rate) else BitVec.ofNat 96 (30517578125 * 2 ^ 32 / 1000000)) +
          (s.tb.step ++ (0 : BitVec 32)) ∧
      t.tb.step = 0 ∧ t.tb.fast = s.tb.fast ∧ { t with tb := s.tb, keeper := s.keeper } = s ∧
      t.keeper.mode = s.keeper.mode)

/-- The values that the manual's Reset columns give.  The zeros of the general and floating registers are the model's
choice (log entry 1). -/
def Obligations.StateAfterReset : Prop :=
  State.reset.mode = .keeper ∧ State.reset.pending = [] ∧ State.reset.keeper.trans = .none ∧
    State.reset.keeper.pwren = 0 ∧ (∀ r : CsReg, State.reset.reg r = r.resetValue) ∧
    (∀ n, (State.reset.lc n).psw = 0 ∧ (State.reset.lc n).fore.ptctl = 2 ∧ (State.reset.lc n).pold.ptctl = 2 ∧
      (State.reset.lc n).fore.timectl = 1 ∧ (State.reset.lc n).host = none ∧ (State.reset.lc n).resv = none ∧
      ∀ r : Reg, (State.reset.lc n).rg r = 0) ∧
    (∀ q, (State.reset.queue q).words = [] ∧ (State.reset.queue q).opener = none) ∧
    (∀ n, (State.reset.sc n).st = .disabled) ∧ (∀ p, (State.reset.port p).st = .absent) ∧
    (∀ a, State.reset.memByte a = 0) ∧ State.reset.mgmt.sessions = [] ∧ State.reset.fuses.sealed = false

/-- R63, R65, R552, R558. -/
def Obligations.SuppliesAndPowerOnReset : Prop :=
  (∀ s : State, ∃ t, exec .supplyLoss s = .next t ∧ t.mode = .off ∧ t.fuses = s.fuses ∧
    t.loader.flash = s.loader.flash ∧ t.loader.running = none ∧ t.regs = [] ∧ t.mem = [] ∧ t.lcs = [] ∧ t.queues = [] ∧
    t.mgmt.sessions = [] ∧ t.pending = s.pending) ∧
  (∀ (s : State) (st : Straps), s.mode = .off → ∃ t, exec (.powerOnReset st) s = .next t ∧ t.mode = .keeper ∧
    t.keeper.straps = st ∧ t.keeper.wakeLatch = (if st.ponwake then [0x01] else []) ∧ t.keeper.pwren = 0 ∧
    { t with keeper := s.keeper } = s)

/-- R65, R70, R80. -/
def Obligations.WakeSequence : Prop :=
  (∀ s : State, s.mode = .keeper → s.keeper.trans = .none → s.keeper.wakeLatch ++ s.keeper.zeroLatch ≠ [] →
    ∃ t, exec .wakeEvent s = .next t ∧ t.mode = .wake ∧ t.keeper.pwren = 1 ∧ t.keeper.wakePhase = .powerUp ∧
      t.keeper.wakeLatch = [] ∧ t.keeper.zeroLatch = [] ∧ t.keeper.wakeZeroize = !s.keeper.zeroLatch.isEmpty ∧
      ∃ c ∈ s.keeper.wakeLatch ++ s.keeper.zeroLatch, t.fld .ksWake 47 40 = c.toNat ∧
        ∀ d ∈ s.keeper.wakeLatch ++ s.keeper.zeroLatch, c.toNat ≤ d.toNat) ∧
  (∀ s : State, s.mode = .keeper → s.keeper.xwakeHigh = true → s.fld .ksWake 8 8 = 1 →
    ∃ t, exec .xwakeFall s = .next t ∧ t.keeper.xwakeHigh = false ∧ (0x02 : Byte) ∈ t.keeper.wakeLatch ∧
      { t with keeper := s.keeper } = s) ∧
  (∀ s : State, s.mode ≠ .off → exec .xwakeRise s = .next { s with keeper := { s.keeper with xwakeHigh := true } }) ∧
  (∀ s : State, s.mode = .wake → s.keeper.trans = .none → s.keeper.wakePhase = .powerUp → s.keeper.pwren ≠ 15 →
    exec .powerUpStep s =
      .next { s with keeper := { s.keeper with pgood := s.keeper.pwren, pwren := s.keeper.pwren * 2 + 1 } }) ∧
  (∀ s : State, s.mode = .wake → s.keeper.trans = .none → s.keeper.wakePhase = .powerUp → s.keeper.pwren = 15 →
    ∃ t, exec .powerUpStep s = .next t ∧ t.keeper.pgood = 15 ∧ t.mode = .wake ∧
      t.keeper.wakePhase = (if s.keeper.wakeZeroize then .bist else .fuseSense)) ∧
  (∀ s : State, s.mode = .wake → s.keeper.trans = .none → s.keeper.wakePhase = .powerUp →
    ∃ t, exec .railTimeout s = .next t ∧ t.fld .ksStatus 47 40 = 1 ∧ t.keeper.trans = .powerDown false ∧
      t.keeper.pwren = lowerTop s.keeper.pwren) ∧
  (∀ s : State, s.mode = .wake → s.keeper.trans = .none → s.keeper.wakePhase = .fuseSense →
    (∃ t, exec (.fuseSenseDone true) s = .next t ∧ t.keeper.wakePhase = .bist ∧ t.mode = .wake) ∧
    (∃ t, exec (.fuseSenseDone false) s = .next t ∧ t.fld .ksStatus 47 40 = 2 ∧ t.keeper.trans = .powerDown false))

/-- R48 to R50, R65, R79, R201. -/
def Obligations.LoadAndComposition : Prop :=
  (∀ (s : State) (d : List (Chan × Dimm)), s.mode = .wake → s.keeper.trans = .none → s.keeper.wakePhase = .bist →
    (∃ t, exec (.keeperBistDone false d) s = .next t ∧ t.fld .ksStatus 47 40 = 3 ∧ t.keeper.trans = .powerDown false ∧
      t.mode = .wake) ∧
    (s.keeper.wakeZeroize = true → ∃ t, exec (.keeperBistDone true d) s = .next t ∧ t.mode = .zeroize ∧
      t.mgmt.keysValid = false ∧ t.mgmt.sessions = [] ∧ t.holders = []) ∧
    (s.keeper.wakeZeroize = false → ∃ t, exec (.keeperBistDone true d) s = .next t ∧ t.mode = .load ∧
      t.keeper.triedA = false ∧ t.keeper.triedB = false ∧ t.mgmt.keysValid = true ∧ t.lcs = s.lcs ∧ t.mem = s.mem)) ∧
  (∀ (s : State) (b : Bool) (f : List Core), s.mode = .load → s.keeper.trans = .none → s.nextCopy = some b →
    ∃ t, exec (.flashCopyValidated f) s = .next t ∧ (if b then t.keeper.triedB else t.keeper.triedA) = true ∧
      t.fuses = s.fuses ∧ t.loader.flash = s.loader.flash ∧
      (validate s.fuses none (s.copyBytes b) = 0 → t.mode = .compose ∧ ∃ r, t.loader.composing = some r ∧
        r.source = (if b then 1 else 0) ∧ r.bytes = (s.copyBytes b).take (imgTotal (s.copyBytes b))) ∧
      (validate s.fuses none (s.copyBytes b) ≠ 0 → t.mode = .load ∧ t.loader.composing = s.loader.composing ∧
        (if b then t.fld .imgStatus 47 40 else t.fld .imgStatus 39 32) = validate s.fuses none (s.copyBytes b) % 256)) ∧
  (∀ (s s1 : State) (u : List (Port × Nat)) (r : RunImage), s.mode = .compose → s.keeper.trans = .none →
    s.memoryReady = true → s.loader.composing = some r → { s with lcs := [] }.placeAll r.img = some s1 →
    ∃ t, exec (.composeComplete u) s = .next t ∧ t.loader.running = some r ∧ t.loader.composing = none ∧
      t.loader.mc.epoch = 1 ∧ t.mode ≠ .compose ∧ t.fuses = s.fuses ∧ t.mem = s.mem)

/-- R70, R71, R82, R83, R511. -/
def Obligations.PowerDownAndRails : Prop :=
  (∀ (s : State) (r fell : Bool), s.keeper.trans = .powerDown r →
    (s.keeper.pwren ≠ 0 → ∃ t, exec (.powerDownStep fell) s = .next t ∧ t.keeper.pwren = lowerTop s.keeper.pwren ∧
      { t with keeper := s.keeper } = s ∧ t.mode = s.mode) ∧
    (s.keeper.pwren = 0 → ∃ t, exec (.powerDownStep fell) s = .next t ∧
      t.mode = (if r then .wake else .keeper) ∧ t.keeper.trans = .none ∧ t.keeper.pwren = (if r then 1 else 0) ∧
      t.mem = [] ∧ t.lcs = [] ∧ t.holders = [] ∧ t.queues = [] ∧ t.scs = [] ∧ t.fuses = s.fuses ∧
      t.loader.flash = s.loader.flash ∧ t.loader.running = none)) ∧
  (∀ (s : State) (m : Master), s.admits m CsReg.ksCmd.addr needW (s.privileged m) = true → s.keeper.trans = .none →
    (s.mode = .load ∨ s.mode = .quiesce ∨ s.mode = .hold → ∃ t, exec (.ksSleep m) s = .next t ∧
      t.keeper.trans = .powerDown false ∧ t.keeper.pwren = lowerTop s.keeper.pwren ∧ t.fld .ksStatus 27 24 = 0) ∧
    (s.mode = .hold → ∃ t, exec (.ksRestart m) s = .next t ∧ t.keeper.trans = .powerDown true ∧
      t.keeper.pwren = lowerTop s.keeper.pwren ∧ t.fld .ksStatus 27 24 = 0) ∧
    (s.mode.zeroizes = true → ∃ t, exec (.ksZeroize m confirmCode) s = .next t ∧ t.mode = .zeroize ∧
      t.mgmt.sessions = [] ∧ t.mgmt.keysValid = false ∧ t.holders = [] ∧ t.outReqs = [] ∧ t.loader.staged = none ∧
      t.keeper.aliveStopped = true) ∧
    (∀ w, w ≠ confirmCode → s.mode.zeroizes = true → ∃ t, exec (.ksZeroize m w) s = .next t ∧ t.mode = s.mode ∧
      t.fld .ksStatus 27 24 = 3)) ∧
  (∀ s : State, s.mode = .zeroize → s.keeper.trans = .none → ∃ t, exec .zeroizeComplete s = .next t ∧
    t.keeper.trans = .powerDown false ∧ t.keeper.pwren = lowerTop s.keeper.pwren ∧
    (∀ n, (s.chan n).issues = true → (t.chan n).st = .selfRefresh ∧ (t.chan n).openRow = []) ∧
    { t with keeper := s.keeper, chans := s.chans } = s) ∧
  (∀ (s : State) (g : Fin 4), s.poweringDown = false →
    (s.keeper.pwren.getLsbD g.val = true → s.keeper.railLost.getLsbD g.val = false →
      ∃ t, exec (.pgoodLoss g) s = .next t ∧
      t.keeper.pgood.getLsbD g.val = false ∧ t.keeper.railLost.getLsbD g.val = true ∧
      (∀ k : Fin 4, k ≠ g → t.keeper.pgood.getLsbD k.val = s.keeper.pgood.getLsbD k.val) ∧
      t.srcBufs = (s.report keeperSrc 0x04 clsGrave g.val).srcBufs ∧
      { t with keeper := s.keeper, srcBufs := s.srcBufs } = s) ∧
    (s.keeper.railLost.getLsbD g.val = true → ∃ t, exec (.pgoodReassertion g) s = .next t ∧
      t.keeper.pgood.getLsbD g.val = true ∧ t.keeper.railLost.getLsbD g.val = false ∧ { t with keeper := s.keeper } = s))

/-- R66 to R68. -/
def Obligations.QuiesceAndService : Prop :=
  (∀ (s : State) (m : Master), s.admits m CsReg.ksCmd.addr needW (s.privileged m) = true → s.keeper.trans = .none →
    (s.mode.running = true → ∃ t, exec (.ksQuiesce m) s = .next t ∧ t.keeper.trans = .quiescing ∧ t.mode = s.mode ∧
      ∀ l : Lc, (s.lc l.val).host.isSome = true → (t.lc l.val).reqs.quiesce = true) ∧
    (s.mode = .quiesce → s.fld .imgStatus 23 20 ≠ 5 → ∃ t, exec (.ksResume m) s = .next t ∧
      t.keeper.quiesced = false ∧ t.fld .ksStatus 27 24 = 0 ∧
      ∀ l, (t.lc l).stops.quiesce = false ∧ (t.lc l).reqs.quiesce = false) ∧
    (∀ k : BitVec 4, (s.mode = .run ∨ s.mode = .degraded ∨ s.mode = .split) → 1 ≤ k.toNat → k.toNat ≤ 8 →
      s.tileInUse k.toNat = false → ∃ t, exec (.ksIsolate m k) s = .next t ∧ t.fld .ksStatus 27 24 = 0) ∧
    (∀ k : BitVec 4, s.mode = .service → k.toNat = s.svcTile → ∃ t, exec (.ksRestore m k) s = .next t ∧
      t.keeper.trans = .restoring ∧ t.mode = .service)) ∧
  (∀ s : State, s.keeper.trans = .quiescing → s.mastersStopped = true → s.mode.running = true → s.gravePresent = false →
    ∃ t, exec .quiesceComplete s = .next t ∧ t.mode = .quiesce ∧ t.keeper.trans = .none ∧ t.keeper.quiesced = true ∧
      t.fld .ksStatus 27 24 = 0 ∧ t.lcs = s.lcs ∧ t.mem = s.mem) ∧
  (∀ s : State, s.keeper.trans = .restoring → s.mode = .service →
    (∃ t, exec (.restoreBistDone true) s = .next t ∧ t.keeper.trans = .none ∧ t.svcTile = 0 ∧
      t.fld .ksStatus 27 24 = 0) ∧
    (∃ t, exec (.restoreBistDone false) s = .next t ∧ t.keeper.trans = .none ∧ t.mode = .service ∧
      t.fld .ksStatus 27 24 = 3 ∧ t.svcTile = s.svcTile)) ∧
  (∀ (s : State) (m : Master), s.admits m CsReg.ksCmd.addr needW (s.privileged m) = true →
    ∀ k : BitVec 4, ∀ c ∈ [Instr.ksQuiesce m, .ksResume m, .ksIsolate m k, .ksRestore m k, .ksSleep m, .ksRestart m],
      (s.mode = .zeroize → exec c s = .next ((s.respond m .ok).setFld .ksStatus 27 24 2)) ∧
      (s.mode ≠ .zeroize → s.keeper.trans ≠ .none →
        exec c s = .next ((s.respond m .ok).setFld .ksStatus 27 24 1)))

/-- R73 to R76. -/
def Obligations.TimebaseAccesses : Prop :=
  (∀ (s : State) (m : Master), s.admits m CsReg.tbNow.addr needR true = true →
    ∃ t, exec (.tbNowRead m) s = .next t ∧ t.respOf m = some (.data s.tb.ns) ∧
      t.reg .tbFrac = BitVec.ofNat 64 s.tb.frac.toNat ∧ { t with regs := s.regs, resps := s.resps } = s) ∧
  (∀ (s : State) (m : Master) (d : Word), s.admits m CsReg.tbStep.addr needW true = true →
    (s.fld .tbCtl 8 8 = 0 ∨ d.msb = false → exec (.tbStep m d) s =
      .next { s.respond m .ok with tb := { s.tb with step := s.tb.step + d } }) ∧
    (s.fld .tbCtl 8 8 = 1 → d.msb = true → ∃ t, exec (.tbStep m d) s = .next t ∧ t.tb = s.tb ∧
      { t with resps := s.resps, srcBufs := s.srcBufs } = s)) ∧
  (∀ s : State, s.tb.fast = false → s.poweringDown = false → s.mode ≠ .off → s.mode ≠ .keeper →
    ∃ t, exec .tbSwitchTo1ghz s = .next t ∧ t.tb.fast = true ∧
      t.tb.ns ++ t.tb.frac = (s.tb.ns ++ s.tb.frac) + BitVec.ofNat 96 (30517578125 * 2 ^ 32 / 1000000) +
        (s.tb.step ++ (0 : BitVec 32)) ∧ t.mem = s.mem ∧ t.lcs = s.lcs ∧ t.regs = s.regs) ∧
  (∀ s : State, s.tb.fast = true → s.mode = .keeper →
    exec .tbSwitchTo32k s = .next { s with tb := { s.tb with fast := false } }) ∧
  (∀ (s : State) (c : CaptureSource), s.mode ≠ .off →
    (s.fld .tbCtl 5 4 = captureCode c → exec (.tbCaptureEvent c) s = .next (s.setReg .tbCapture s.tb.ns)) ∧
    (s.fld .tbCtl 5 4 ≠ captureCode c → exec (.tbCaptureEvent c) s = .next s)) ∧
  (∀ s : State, s.mode ≠ .off → s.fld .tbCtl 0 0 = 1 → s.keeper.ppsMult < s.now / 1000000000 →
    ∃ t, exec .ppsOutRise s = .next t ∧ t.keeper.ppsOut = true ∧ t.keeper.ppsRise = s.tb.ns ∧
      { t with keeper := s.keeper } = s) ∧
  (∀ s : State, s.keeper.ppsOut = true → s.keeper.ppsRise.toNat + 100000000 ≤ s.now →
    exec .ppsOutFall s = .next { s with keeper := { s.keeper with ppsOut := false } })

/-- R77 to R79, R81. -/
def Obligations.ComparatorsAndSensors : Prop :=
  (∀ (s : State) (n : Fin 16), s.mode = .keeper → s.fld (.tbCmpCfg n) 0 0 = 1 →
    (s.reg (.tbCmpVal n)).toNat ≤ s.now →
    ∃ t, exec (.comparatorFire n) s = .next t ∧ t.fld (.tbCmpCfg n) 7 7 = 1 ∧ t.mode = .keeper ∧
      (s.fld (.tbCmpCfg n) 63 24 = 0 → t.fld (.tbCmpCfg n) 0 0 = 0 ∧ t.reg (.tbCmpVal n) = s.reg (.tbCmpVal n)) ∧
      (s.fld (.tbCmpCfg n) 63 24 ≠ 0 → t.fld (.tbCmpCfg n) 0 0 = 1 ∧ ∃ k, 0 < k ∧
        t.reg (.tbCmpVal n) = BitVec.ofNat 64 ((s.reg (.tbCmpVal n)).toNat + k * s.fld (.tbCmpCfg n) 63 24) ∧
        s.now < (s.reg (.tbCmpVal n)).toNat + k * s.fld (.tbCmpCfg n) 63 24) ∧
      (s.fld (.tbCmpCfg n) 2 2 = 1 → BitVec.ofNat 8 (0x10 + n.val) ∈ t.keeper.wakeLatch) ∧ t.mem = s.mem ∧ t.lcs = s.lcs) ∧
  (∀ (s : State) (e : Fin 6) (x : BitVec 12), e.val < 4 → s.ringsRun = true → s.poweringDown = false →
    s.fld (.ecCfg e) 39 36 ≤ 11 → ∃ t, exec (.ecSample e x) s = .next t ∧ t.tb.ecValue.get e = x ∧
      (s.fld (.ecCfg e) 0 0 = 1 → s.fld (.ecCfg e) 3 1 = 0 → s.tb.ecOut.getLsbD e.val = false →
        x.toNat < s.fld (.ecCfg e) 51 40 → t.tb.ecOut.getLsbD e.val = true ∧ t.fld (.ecCfg e) 7 7 = 1) ∧
      (s.fld (.ecCfg e) 51 40 ≤ x.toNat → x.toNat ≤ s.fld (.ecCfg e) 63 52 → t.tb.ecOut.getLsbD e.val = false ∧
        t.regs = s.regs)) ∧
  (∀ s : State, s.ringsRun = true →
    ∃ t, exec .keeperPairMismatch s = .next t ∧ { t with keeper := s.keeper, srcBufs := s.srcBufs } = s ∧
      (2 ≤ (s.keeper.mismatches.filter fun x => s.now < x.toNat + 1000000).length → t.keeper.mismatches = [] ∧
        t = { s with keeper := { s.keeper with mismatches := [] } }.report keeperSrc 0x05 clsGrave 0) ∧
      ((s.keeper.mismatches.filter fun x => s.now < x.toNat + 1000000).length < 2 → s.tb.ns ∈ t.keeper.mismatches ∧
        t.srcBufs = s.srcBufs))

/-- R34, R53 to R57, R61, R62. -/
def Obligations.StructureCommands : Prop :=
  (∀ (s : State) (m : Master), s.admits m CsReg.imgCtl.addr needW (s.privileged m) = true → s.mode ≠ .zeroize →
    s.pendState ≠ 5 →
    (∀ (bs : List Byte) (r : RunImage), s.runOrQuiesce = true → s.loader.mc.state = 0 → s.loader.staged = some bs →
      s.loader.running = some r → s.pendState = 3 →
      (s.fuses.admits (readImage bs) = false → exec (.imgApply m) s = .next ((s.respond m .ok).setFld .imgStatus 55 52 3)) ∧
      (s.fuses.admits (readImage bs) = true → sameShape r.img (readImage bs) = true → ∃ t, exec (.imgApply m) s = .next t ∧
        t.loader.running = some ⟨bs, readImage bs, 2⟩ ∧ t.loader.staged = none ∧ t.loader.mc.state = 2 ∧
        t.loader.mc.epoch = s.loader.mc.epoch + 1 ∧ t.fld .imgStatus 55 52 = 0 ∧ t.pendState = 0 ∧ t.lcs = s.lcs ∧
        t.mem = s.mem ∧ t.keeper = s.keeper ∧ t.fuses = s.fuses) ∧
      (s.fuses.admits (readImage bs) = true → sameShape r.img (readImage bs) = false → s.mode = .quiesce →
        ∃ t, exec (.imgApply m) s = .next t ∧ t.loader = s.loader ∧ t.keeper = s.keeper ∧ t.fuses = s.fuses)) ∧
    (∃ t, exec (.imgDiscard m) s = .next t ∧ t.loader.staged = none ∧ t.pendState = 0 ∧ t.fld .imgStatus 55 52 = 0 ∧
      t.loader.running = s.loader.running ∧ t.fuses = s.fuses ∧ t.mem = s.mem ∧ t.lcs = s.lcs) ∧
    (∀ r : RunImage, s.runOrQuiesce = true → s.loader.running = some r →
      ∃ t, exec (.commitVersion m) s = .next t ∧ t.fld .imgStatus 55 52 = 0 ∧
        t.fuses.secVersion.val = max s.fuses.secVersion.val (min r.img.secVersion.toNat 64) ∧
        { t with fuses := s.fuses, regs := s.regs, resps := s.resps } = s) ∧
    (∀ r : RunImage, s.mode = .run ∨ s.mode = .degraded → s.loader.running = some r →
      (s.fuses.sealDigest &&& r.img.structDigest = s.fuses.sealDigest → ∃ t, exec (.sealFuses m) s = .next t ∧
        t.fld .imgStatus 55 52 = 0 ∧ t.fuses.sealed = true ∧
        t.fuses.sealDigest = s.fuses.sealDigest ||| r.img.structDigest ∧
        { t with fuses := s.fuses, regs := s.regs, resps := s.resps } = s) ∧
      (s.fuses.sealDigest &&& r.img.structDigest ≠ s.fuses.sealDigest → ∃ t, exec (.sealFuses m) s = .next t ∧
        t.fld .imgStatus 55 52 = 4 ∧ t.fuses = s.fuses)) ∧
    (∀ (id : BitVec 16) (x : Master), (freezable.find? fun y => s.isFrozen y && s.masterSrc y = id.toNat) = some x →
      (∀ p ∈ s.masterOwners x, (s.prst p).step.val = 0) → ∃ t, exec (.unfreeze m id) s = .next t ∧
        t.isFrozen x = false ∧ t.fld .imgStatus 55 52 = 0 ∧ t.mem = s.mem)) ∧
  (∀ (s placed : State) (bs : List Byte) (r : RunImage), s.loader.staged = some bs → s.loader.running = some r →
    s.mode = .quiesce → s.pendState = 5 → s.resetsRun = false →
    { s with
      isls := (List.finRange 48).map fun (n : Fin 48) => (n.val, { islInit (readImage bs) s.badCores n with
        voterOk := (s.isl n.val).voterOk, voterDead := (s.isl n.val).voterDead, timeReg := (s.isl n.val).timeReg })
      lcs := [], migrations := []
      loader := { s.loader with running := some ⟨bs, readImage bs, 2⟩ } }.placeAll (readImage bs) = some placed →
    ∃ t, exec .recompositionCommit s = .next t ∧ t.loader.running = some ⟨bs, readImage bs, 2⟩ ∧
      t.loader.staged = none ∧ t.loader.mc.epoch = s.loader.mc.epoch + 1 ∧ t.fuses = s.fuses)

/-- R188 to R190, R193, R195, R196. -/
def Obligations.MicrocodeBanks : Prop :=
  (∀ (s u : State) (m : Master) (hd bs : List Byte) (i : Image),
    s.admits m CsReg.mcCtl.addr needW (s.privileged m) = true → s.runOrQuiesce = true → s.loader.mc.state = 0 →
    s.fld .mcPkg 51 0 % 64 = 0 → s.homesServe (s.requester .keeper) .keeper (s.mcReach 1) = true →
    s.atHome (s.requester .keeper) (s.mcReach 1) = u → u.peek (s.fld .mcPkg 51 0) 16 = some (hd, false) →
    u.peek (s.fld .mcPkg 51 0) (pkgSize hd) = some (bs, false) → s.image = some i →
    pkgCheck i.keys i.parcelValid false bs = 0 → s.pkgSourceOk (s.fld .mcPkg 51 0) (pkgSize hd) = true →
    ∃ t, exec (.mcLoad m) s = .next t ∧ t.fld .mcStatus 23 20 = 0 ∧ t.fld .mcStatus 19 16 = 0 ∧
      t.loader.mc.epoch = s.loader.mc.epoch + 1 ∧ t.loader.mc.state = 2 ∧
      (BitVec.ofNat 8 (pkgParcel bs), bs) ∈ t.loader.mc.packages ∧
      t.loader.mc.parcels = s.servedBy s.loader.mc.packages (pkgParcel bs) ∧ t.lcs = s.lcs ∧ t.mem = s.mem) ∧
  (∀ s : State, s.loader.mc.state = 2 →
    ((∃ l ∈ s.rebuilt s.loader.mc.parcels, (s.lc l.val).runsOldBank = true) → exec .rebuildWriteDone s = .next s) ∧
    ((∀ l ∈ s.rebuilt s.loader.mc.parcels, (s.lc l.val).runsOldBank = false) →
    ∃ t, exec .rebuildWriteDone s = .next t ∧
    (∀ l ∈ s.rebuilt s.loader.mc.parcels, (t.lc l.val).bankPend = true ∧
      (t.lc l.val).activeBank = (s.lc l.val).activeBank ∧
      (if (s.lc l.val).activeBank then (t.lc l.val).bank0 else (t.lc l.val).bank1) =
        bankFor s.loader.mc.packages (pswParcel (s.lc l.val).psw) s.loader.mc.epoch ∧
      (if (s.lc l.val).activeBank then (t.lc l.val).bank1 else (t.lc l.val).bank0) =
        (if (s.lc l.val).activeBank then (s.lc l.val).bank1 else (s.lc l.val).bank0)) ∧
    (∀ l : Lc, l ∉ s.rebuilt s.loader.mc.parcels → t.lc l.val = s.lc l.val) ∧
    (s.rebuilt s.loader.mc.parcels ≠ [] → t.loader.mc.state = 3) ∧ t.mem = s.mem ∧ t.regs = s.regs)) ∧
  (∀ (s : State) (l : Lc) (h : Slot), (s.lc l.val).bankPend = true → (s.lc l.val).host = some h →
    (∀ c ∈ ((s.isl (slotIsland h)).slots.get (slotPos h)).positions,
      ((s.isl (slotIsland h)).cores.get c).role ≠ .rejoining) → (s.lc l.val).overrun = none → s.runOrQuiesce = true →
    ∃ t, exec (.bankSwap l) s = .next t ∧
      t.lc l.val = { s.lc l.val with activeBank := !(s.lc l.val).activeBank, bankPend := false } ∧
      (∀ k : Lc, k ≠ l → t.lc k.val = s.lc k.val) ∧
      { t with lcs := s.lcs, loader := s.loader, isls := s.isls } = s)

/-- R6, R7, R24, R25, R28.  Fields of one register do not overlap, so each clause stands by itself. -/
def Obligations.RegisterWriteRules : Prop :=
  (∀ (s : State) (m : Master) (a v : Word) (k : Tile) (r : CsReg), csTarget a.toNat = .reg k r → a.toNat % 8 = 0 →
    ((∃ n, r = .tbCmpVal n) ∨ (∃ n, r = .tbCmpCfg n) ∨ (∃ e, r = .ecCfg e) ∨ r = .ksWake ∨ ∃ q, r = .qmQevt q) →
    s.admits m a.toNat needW (s.csOk m r) = true →
    exec (.registerWrite m a 8 v) s = .next ((s.setReg r (softWrite r (s.reg r) v)).respond m .ok)) ∧
  (∀ (s : State) (m : Master) (a v : Word) (n : Nat), n ≠ 8 ∨ a.toNat % 8 ≠ 0 →
    s.admitsBytes m a.toNat n needW (s.pageOk m a.toNat n) = true →
    exec (.registerWrite m a n v) s = .next (s.respond m .error)) ∧
  (∀ (s : State) (m : Master) (a v : Word), a.toNat % 8 = 0 → s.bankExtra a.toNat = none →
    s.admits m a.toNat needW (s.pageOk m a.toNat 8) = true →
    (csTarget a.toNat = .outside → exec (.registerWrite m a 8 v) s = .next (s.respond m .error)) ∧
    (∀ k, csTarget a.toNat = .hole k → exec (.registerWrite m a 8 v) s =
      .next ((s.report (srcId k.val 0x3F 0) 0x01 clsNote a.toNat).respond m .ok))) ∧
  (∀ (r : CsReg) (old v : Word), ∀ f ∈ r.fields,
    (f.acc = .rw → f.hw = false → bits (softWrite r old v) f.hi f.lo = bits v f.hi f.lo) ∧
    (f.acc = .rw1c → bits (softWrite r old v) f.hi f.lo = bits (old &&& ~~~v) f.hi f.lo) ∧
    (f.acc = .rw1s → bits (softWrite r old v) f.hi f.lo = bits (old ||| v) f.hi f.lo) ∧
    (f.acc = .ro ∨ f.acc = .wo ∨ f.acc = .rc → bits (softWrite r old v) f.hi f.lo = bits old f.hi f.lo))

/-- R124 to R126.  `State.retire` replaces the core, advances its pc and retires the instruction; the second clause says
that retiring changes nothing but the caches' use and age of lines, the reservation of a line that the use evicts, and the
outstanding requests. -/
def Obligations.AddSubtractNegate : Prop :=
  (∀ (s t : State) (lc : Lc),
    { s.retired lc t with lcs := t.lcs, holders := t.holders, outReqs := t.outReqs } = t ∧
    (∀ n, ∃ (w : List LineNo) (r : Option LineNo) (b : Bool), (s.retired lc t).lc n =
      { t.lc n with walked := w, resv := r, resvHold := b } ∧ (r = (t.lc n).resv ∨ r = none)) ∧
    (∀ q ∈ t.outReqs, q ∈ (s.retired lc t).outReqs)) ∧
  (∀ (s : State) (lc : Lc) (d a : Reg), s.clear lc = true →
    let l := s.lc lc.val
    (∀ b : RegImm, (signedOver ((l.rg a).toInt + (l.regImm true b).toInt) && pswOvt l.psw) = false →
      exec (.add lc d a b) s = .next (s.retire lc ((l.wg d (l.rg a + l.regImm true b)).setFlags
        ⟨(l.rg a + l.regImm true b).msb, l.rg a + l.regImm true b == 0,
          decide (2 ^ 64 ≤ (l.rg a).toNat + (l.regImm true b).toNat),
          signedOver ((l.rg a).toInt + (l.regImm true b).toInt)⟩))) ∧
    (∀ b : Reg, (signedOver ((l.rg a).toInt - (l.rg b).toInt) && pswOvt l.psw) = false →
      exec (.sub lc d a b) s = .next (s.retire lc ((l.wg d (l.rg a - l.rg b)).setFlags
        ⟨(l.rg a - l.rg b).msb, l.rg a - l.rg b == 0, decide ((l.rg a).toNat < (l.rg b).toNat),
          signedOver ((l.rg a).toInt - (l.rg b).toInt)⟩))) ∧
    ((signedOver (-(l.rg a).toInt) && pswOvt l.psw) = false →
      exec (.neg lc d a) s = .next (s.retire lc ((l.wg d (-l.rg a)).setFlags
        ⟨(-l.rg a).msb, -l.rg a == 0, l.rg a != 0, signedOver (-(l.rg a).toInt)⟩))))

/-- Tables 4.4 and 5.1. -/
def Obligations.LogicCompareExtend : Prop :=
  ∀ (s : State) (lc : Lc) (d a : Reg), s.clear lc = true →
    let l := s.lc lc.val
    (∀ (op : LogicOp) (b : RegImm), ∃ r : Word,
      r = (match op with
        | .and => l.rg a &&& l.regImm false b
        | .or => l.rg a ||| l.regImm false b
        | .xor => l.rg a ^^^ l.regImm false b
        | .not => ~~~l.rg a) ∧
      exec (.logicalOperation lc op d a b) s = .next (s.retire lc ((l.wg d r).setFlags
        ⟨r.msb, r == 0, l.psw.getLsbD 17, l.psw.getLsbD 16⟩))) ∧
    (∀ b : Reg,
      exec (.compare lc .eq d a b) s = .next (s.retire lc (l.wg d (if l.rg a = l.rg b then 1 else 0))) ∧
      exec (.compare lc .lt d a b) s = .next (s.retire lc (l.wg d (if (l.rg a).toInt < (l.rg b).toInt then 1 else 0))) ∧
      exec (.compare lc .ltu d a b) s = .next (s.retire lc (l.wg d (if (l.rg a).toNat < (l.rg b).toNat then 1 else 0))) ∧
      ∀ op : MinMaxOp, ∃ r : Word, exec (.minMax lc op d a b) s = .next (s.retire lc (l.wg d r)) ∧
        (r = l.rg a ∨ r = l.rg b) ∧ (match op with
          | .min => r.toInt = min (l.rg a).toInt (l.rg b).toInt
          | .max => r.toInt = max (l.rg a).toInt (l.rg b).toInt
          | .minu => r.toNat = min (l.rg a).toNat (l.rg b).toNat
          | .maxu => r.toNat = max (l.rg a).toNat (l.rg b).toNat)) ∧
    exec (.sextwZextw lc true d a) s = .next (s.retire lc (l.wg d (((l.rg a).setWidth 32).signExtend 64))) ∧
    exec (.sextwZextw lc false d a) s = .next (s.retire lc (l.wg d (l.rg a &&& 0xFFFFFFFF))) ∧
    ∀ imm : BitVec 20, exec (.lui lc d imm) s = .next (s.retire lc (l.wg d ((imm ++ (0 : BitVec 12)).signExtend 64)))

/-- R124, R126, R127. -/
def Obligations.ShiftResults : Prop :=
  ∀ (s : State) (lc : Lc) (d a : Reg) (b : RegImm), s.clear lc = true →
    let l := s.lc lc.val
    let x := l.rg a
    let n := (l.regImm false b).toNat
    ((signedOver (x.toInt * 2 ^ n) && pswOvt l.psw) = false → ∃ r : Word, r.toNat = x.toNat * 2 ^ n % 2 ^ 64 ∧
      exec (.shift lc .shl d a b) s = .next (s.retire lc ((l.wg d r).setFlags
        ⟨r.msb, r == 0, decide (1 ≤ n) && decide (n ≤ 64) && x.getLsbD (64 - n), signedOver (x.toInt * 2 ^ n)⟩))) ∧
    (∃ r : Word, r.toNat = x.toNat / 2 ^ n ∧
      exec (.shift lc .shr d a b) s = .next (s.retire lc ((l.wg d r).setFlags
        ⟨r.msb, r == 0, decide (1 ≤ n) && decide (n ≤ 64) && x.getLsbD (n - 1), l.psw.getLsbD 16⟩))) ∧
    (∃ r : Word, r.toInt = x.toInt / 2 ^ n ∧
      exec (.shift lc .sar d a b) s = .next (s.retire lc ((l.wg d r).setFlags
        ⟨r.msb, r == 0, decide (1 ≤ n) && (if n ≤ 63 then x.getLsbD (n - 1) else x.msb), l.psw.getLsbD 16⟩)))

/-- R128. -/
def Obligations.RotationByAnyCount : Prop :=
  ∀ (s : State) (lc : Lc) (d a b : Reg), s.clear lc = true →
    let l := s.lc lc.val
    let x := l.rg a
    let n := (l.rg b).toNat
    (∃ r : Word, (∀ i, i < 64 → r.getLsbD ((i + n) % 64) = x.getLsbD i) ∧ (n % 64 = 0 → r = x) ∧
      exec (.rotate lc .rol d a b) s = .next (s.retire lc ((l.wg d r).setFlags
        ⟨r.msb, r == 0, l.psw.getLsbD 17, l.psw.getLsbD 16⟩))) ∧
    (∃ r : Word, (∀ i, i < 64 → r.getLsbD i = x.getLsbD ((i + n) % 64)) ∧ (n % 64 = 0 → r = x) ∧
      exec (.rotate lc .ror d a b) s = .next (s.retire lc ((l.wg d r).setFlags
        ⟨r.msb, r == 0, l.psw.getLsbD 17, l.psw.getLsbD 16⟩)))

/-- R124, R126, R129, R130, R132. -/
def Obligations.MultiplyAndDivide : Prop :=
  ∀ (s : State) (lc : Lc) (d a b : Reg), s.clear lc = true →
    let l := s.lc lc.val
    let x := l.rg a
    let y := l.rg b
    let put (r : Word) (c ov : Bool) := Host.Outcome.next (φ := Fault) (ρ := Refusal)
      (s.retire lc ((l.wg d r).setFlags ⟨r.msb, r == 0, c, ov⟩))
    ((signedOver (x.toInt * y.toInt) && pswOvt l.psw) = false → exec (.mul lc .mul d a b) s =
      put (x * y) (decide (2 ^ 64 ≤ x.toNat * y.toNat)) (signedOver (x.toInt * y.toInt))) ∧
    (∃ r : Word, r.toInt = x.toInt * y.toInt / 2 ^ 64 ∧ exec (.mul lc .mulh d a b) s = put r false false) ∧
    (∃ r : Word, r.toNat = x.toNat * y.toNat / 2 ^ 64 ∧ exec (.mul lc .mulhu d a b) s = put r false false) ∧
    (y ≠ 0 → (x ≠ minInt ∨ y ≠ -1 → ∃ r : Word, r.toInt = x.toInt.tdiv y.toInt ∧
        exec (.div lc .div d a b) s = put r false false) ∧
      (x = minInt → y = -1 → pswOvt l.psw = false → exec (.div lc .div d a b) s = put minInt false true) ∧
      (∃ r : Word, r.toInt = x.toInt.tmod y.toInt ∧ exec (.div lc .rem d a b) s = put r false false) ∧
      (∃ r : Word, r.toNat = x.toNat / y.toNat ∧ exec (.div lc .divu d a b) s = put r false false) ∧
      (∃ r : Word, r.toNat = x.toNat % y.toNat ∧ exec (.div lc .remu d a b) s = put r false false)) ∧
    (bits y 31 0 ≠ 0 → (decide (bits y 31 0 ≤ bits x 63 32) && pswOvt l.psw) = false →
      ∃ (r : Word) (q : Nat), q = min 3 ((4 * bits x 63 32 + bits x 31 30) / bits y 31 0) ∧
        bits r 63 32 = (4 * bits x 63 32 + bits x 31 30 - q * bits y 31 0) % 2 ^ 32 ∧
        bits r 31 0 = (4 * bits x 31 0 + q) % 2 ^ 32 ∧
        exec (.divstep lc d a b) s = .next (s.retire lc ((l.wg d r).setFlags
          ⟨l.psw.getLsbD 19, l.psw.getLsbD 18, l.psw.getLsbD 17, decide (bits y 31 0 ≤ bits x 63 32)⟩)))

/-- R131, with the entry of R112. -/
def Obligations.ZeroDivisorRaises : Prop :=
  ∀ (s : State) (lc : Lc) (d a b : Reg), s.clear lc = true →
    let l := s.lc lc.val
    ∀ c : Instr, (l.rg b = 0 ∧ ∃ op, c = .div lc op d a b) ∨ (bits (l.rg b) 31 0 = 0 ∧ c = .divstep lc d a b) →
      l.level ≤ 1 ∨ l.gv = false →
      ∃ t, exec c s = .next t ∧ (∀ r, (t.lc lc.val).rg r = l.rg r) ∧
        bits (t.lc lc.val).psw 19 16 = bits l.psw 19 16 ∧
        let e := (t.lc lc.val).excBank (if l.level = 2 then .h else .s)
        e.cause = 0x0B ∧ e.epc = l.pc ∧ e.saved = l.psw ∧ e.addr = 0 ∧ (t.lc lc.val).pc = e.vec

/-- R126. -/
def Obligations.OverflowTraps : Prop :=
  ∀ (s : State) (lc : Lc) (d a b : Reg), s.clear lc = true →
    let l := s.lc lc.val
    pswOvt l.psw = true → l.level ≤ 1 ∨ l.gv = false →
    ∀ c : Instr, (∃ x : RegImm, c = .add lc d a x ∧ signedOver ((l.rg a).toInt + (l.regImm true x).toInt) = true) ∨
        (c = .neg lc d a ∧ signedOver (-(l.rg a).toInt) = true) ∨
        (∃ x : RegImm, c = .shift lc .shl d a x ∧ signedOver ((l.rg a).toInt * 2 ^ (l.regImm false x).toNat) = true) ∨
        (c = .divstep lc d a b ∧ bits (l.rg b) 31 0 ≠ 0 ∧ bits (l.rg b) 31 0 ≤ bits (l.rg a) 63 32) ∨
        (c = .sub lc d a b ∧ signedOver ((l.rg a).toInt - (l.rg b).toInt) = true) ∨
        (c = .mul lc .mul d a b ∧ signedOver ((l.rg a).toInt * (l.rg b).toInt) = true) ∨
        (c = .div lc .div d a b ∧ l.rg a = minInt ∧ l.rg b = -1) →
      ∃ t, exec c s = .next t ∧ (∀ r, (t.lc lc.val).rg r = l.rg r) ∧
        bits (t.lc lc.val).psw 19 16 = bits l.psw 19 16 ∧
        let e := (t.lc lc.val).excBank (if l.level = 2 then .h else .s)
        e.cause = 0x0C ∧ e.epc = l.pc ∧ e.saved = l.psw ∧ (t.lc lc.val).pc = e.vec

/-- R90, R91. -/
def Obligations.JumpsAndBranches : Prop :=
  ∀ (s : State) (lc : Lc), s.clear lc = true →
    let l := s.lc lc.val
    let go (l1 : LCore) (pc : Word) := Host.Outcome.next (φ := Fault) (ρ := Refusal)
      (s.retired lc (s.setLc lc.val { l1 with pc := pc }))
    (∀ (a : Reg) (n : BitVec 20),
      exec (.conditionalBranch lc .beqz a n) s =
        go l (if l.rg a = 0 then l.pc + 4 * n.signExtend 64 else l.pc + 4) ∧
      exec (.conditionalBranch lc .bnez a n) s =
        go l (if l.rg a ≠ 0 then l.pc + 4 * n.signExtend 64 else l.pc + 4) ∧
      exec (.conditionalBranch lc .bltz a n) s =
        go l (if (l.rg a).toInt < 0 then l.pc + 4 * n.signExtend 64 else l.pc + 4) ∧
      exec (.conditionalBranch lc .bgez a n) s =
        go l (if 0 ≤ (l.rg a).toInt then l.pc + 4 * n.signExtend 64 else l.pc + 4)) ∧
    (∀ n : BitVec 25, exec (.jmp lc n) s = go l (l.pc + 4 * n.signExtend 64) ∧
      exec (.call lc n) s = go (l.wg 31 (l.pc + 4)) (l.pc + 4 * n.signExtend 64)) ∧
    (∀ d a : Reg, exec (.jr lc a) s = go l (l.rg a) ∧ exec (.jalr lc d a) s = go (l.wg d (l.pc + 4)) (l.rg a))

/-- R112, R114, R115.  A guest's pending set is empty here; writing it back is R487's. -/
def Obligations.EntryToAHandler : Prop :=
  ∀ (s : State) (lc : Lc), s.clear lc = true →
    let l := s.lc lc.val
    l.pendG = [] →
    let entered (t : State) (b : Bank) (code : Word) (epc : Word) (w : Word) : Prop :=
      let k := t.lc lc.val
      let x := l.excBank b
      k.excBank b = { x with
        epc := epc, cause := code, info := w, addr := 0, saved := l.psw
        scsd0 := l.csd.setWidth 64, scsd1 := (l.csd >>> 64).setWidth 64 } ∧
      k.pc = x.vec ∧ k.csd = x.csd1 ++ x.csd0 ∧ k.g = l.g ∧ k.f = l.f ∧ k.seg = l.seg ∧ k.resv = none ∧
      pswLevel k.psw = (match b with | .s => 1 | .h => 2) ∧ k.psw.getLsbD 8 = false ∧
      (∀ i, i < 64 → 2 ≤ i → i ≠ 8 → (i < 35 ∨ 43 < i ∨ b = .s) → k.psw.getLsbD i = l.psw.getLsbD i) ∧
      (b = .h → bits k.psw 43 35 = 0) ∧ (b = .s → k.hyp = l.hyp) ∧ (b = .h → k.fore = l.fore ∧ k.pold = l.pold) ∧
      k.gw = l.gw
    let b : Bank := if l.level = 2 then .h else .s
    (∃ t, exec (.svc lc) s = .next t ∧ entered t b 0x0D (l.pc + 4) 0x70000000) ∧
    (∃ t, exec (.brk lc) s = .next t ∧ entered t b 0x13 l.pc 0x70000005) ∧
    (pswPolder l.psw = false → l.level = 1 → ∃ t, exec (.hvc lc) s = .next t ∧ entered t .h 0x0E (l.pc + 4) 0x70000001) ∧
    (pswPolder l.psw = true → ∃ t, exec (.hvc lc) s = .next t ∧ entered t b 0x50001 l.pc 0x70000001) ∧
    (pswPolder l.psw = false → l.level ≠ 1 → ∃ t, exec (.hvc lc) s = .next t ∧ entered t b 0x02 l.pc 0x70000001)

/-- R113. -/
def Obligations.ReturnFromAHandler : Prop :=
  ∀ (s : State) (lc : Lc), s.clear lc = true →
    let l := s.lc lc.val
    let x := l.excBank (if l.level = 2 then .h else .s)
    let ok : Bool := l.level ≠ 0 && pswLevel x.saved ≠ 3 && pswLevel x.saved ≤ l.level &&
      !(l.level = 2 && pswGv x.saved && pswLevel x.saved = 2)
    (ok = true → ¬ (l.level = 2 ∧ pswGv x.saved = true ∧ vcidValid l.hyp.vcid = true) →
      ∃ p : Word, exec (.retx lc) s = .next (s.retired lc (s.setLc lc.val
          { l with psw := p, csd := x.scsd1 ++ x.scsd0, pc := x.epc, resv := none, resvHold := false })) ∧
        (∀ i ∈ [0, 1, 8, 16, 17, 18, 19, 22, 23], p.getLsbD i = x.saved.getLsbD i) ∧
        (l.level = 2 → pswGv p = pswGv x.saved ∧ (pswGv x.saved = true → bits p 43 36 = bits x.saved 43 36)) ∧
        (∀ i, i < 64 → i ∉ [0, 1, 8, 16, 17, 18, 19, 22, 23] → (i < 35 ∨ 43 < i ∨ l.level = 1) →
          p.getLsbD i = l.psw.getLsbD i)) ∧
    (ok = false → l.pendG = [] → ∃ t, exec (.retx lc) s = .next t ∧
      let e := (t.lc lc.val).excBank (if l.level = 2 then .h else .s)
      e.cause = 0x02 ∧ e.epc = l.pc ∧ e.saved = l.psw ∧ (t.lc lc.val).pc = x.vec ∧ (t.lc lc.val).g = l.g)

/-- R86, R87, R98, R164, R183, R478. -/
def Obligations.ControlRegisterMoves : Prop :=
  ∀ (s : State) (lc : Lc), s.clear lc = true →
    let l := s.lc lc.val
    let e := l.bank.exc
    let h := l.hyp.exc
    let everyone : List (BitVec 10 × Word) :=
      [(0x000, l.psw), (0x001, 0x304), (0x002, l.csd.setWidth 64), (0x003, (l.csd >>> 64).setWidth 64),
       (0x015, BitVec.ofNat 64 lc.val), (0x020, l.fpsr), (0x021, l.fpcr), (0x022, l.fpxr), (0x023, l.fpxa),
       (0x030, l.bank.prog[0]), (0x031, l.bank.prog[1]), (0x032, l.bank.prog[2]), (0x033, l.bank.prog[3]),
       (0x034, l.bank.proga), (0x035, l.bank.progs)]
    let hyper : List (BitVec 10 × Word) :=
      [(0x010, l.bank.segtab0), (0x011, l.bank.segtab1), (0x012, l.bank.ptctl), (0x013, l.bank.ptroot),
       (0x014, l.bank.timectl), (0x100, e.epc), (0x101, e.cause), (0x102, e.info), (0x103, e.addr), (0x104, e.saved),
       (0x105, e.vec), (0x106, e.csd0), (0x107, e.csd1), (0x108, e.scsd0), (0x109, e.scsd1), (0x10A, e.scratch0),
       (0x10B, e.scratch1), (0x200, h.epc), (0x201, h.cause), (0x202, h.info), (0x203, h.addr), (0x204, h.saved),
       (0x205, h.vec), (0x206, h.csd0), (0x207, h.csd1), (0x208, h.scsd0), (0x209, h.scsd1), (0x20A, h.scratch0),
       (0x20B, h.scratch1), (0x20C, l.hyp.h1ctl), (0x20D, l.hyp.h1root), (0x20E, l.hyp.s2ctl), (0x20F, l.hyp.s2root),
       (0x210, l.hyp.toffset), (0x211, l.hyp.vcid)]
    (∀ (d : Reg) (n : BitVec 10) (v : Word), (n, v) ∈ everyone ∨ ((n, v) ∈ hyper ∧ l.level = 2 ∧ pswPolder l.psw = false) →
      exec (.mfc lc d n) s = .next (s.retire lc (l.wg d v))) ∧
    (∀ (a : Reg) (n : BitVec 10) (mask : Word),
      (n, mask) ∈ [((0x010 : BitVec 10), (0x01FFFFFFFFFFFFF0 : Word)), (0x011, 0x1FFFF), (0x012, 0xFFFF000000000003),
        (0x013, 0x000FFFFFFFFFF000), (0x014, 1), (0x100, -1), (0x101, 0x8000000000FF01FF), (0x102, 0xFFFFFFFFF),
        (0x103, -1), (0x104, -1), (0x105, -1), (0x106, -1), (0x107, -1), (0x108, -1), (0x109, -1), (0x10A, -1),
        (0x10B, -1)] → 1 ≤ l.level → ∃ k, exec (.mtc lc a n) s = .next (s.retire lc k) ∧
        k.crRead lc n.toNat = l.rg a &&& mask ∧ k.psw = l.psw ∧
        (∀ n' : BitVec 10, n' ≠ n → k.crRead lc n'.toNat = l.crRead lc n'.toNat) ∧ k.g = l.g) ∧
    (∀ a : Reg, 1 ≤ l.level ∨ (l.rg a).getLsbD 8 = l.psw.getLsbD 8 → ∃ p : Word,
      exec (.mtc lc a 0) s = .next (s.retire lc { l with psw := p }) ∧
      ∀ i, i < 64 → p.getLsbD i = if i ∈ [8, 16, 17, 18, 19, 22, 23] then (l.rg a).getLsbD i else l.psw.getLsbD i) ∧
    (l.pendG = [] → ∀ (a : Reg) (n : BitVec 10),
      let raises (c : Instr) (cause : Word) : Prop := ∃ t, exec c s = .next t ∧ (t.lc lc.val).g = l.g ∧
        let x := (t.lc lc.val).excBank (if l.level = 2 then .h else .s)
        x.cause = cause ∧ x.epc = l.pc ∧ x.saved = l.psw
      (n ∈ [(0x004 : BitVec 10), 0x016, 0x0FF, 0x10C, 0x212, 0x309, 0x3FF] →
        raises (.mfc lc a n) 0x40001 ∧ raises (.mtc lc a n) 0x40001) ∧
      (l.level = 0 → n ∈ [(0x010 : BitVec 10), 0x014, 0x105] → raises (.mfc lc a n) 0x02 ∧ raises (.mtc lc a n) 0x02) ∧
      (pswPolder l.psw = true → n ∈ [(0x200 : BitVec 10), 0x20C, 0x211] →
        raises (.mfc lc a n) 0x50001 ∧ raises (.mtc lc a n) 0x50001))

/-- R90, R119 to R121, R161, R208. -/
def Obligations.TimeBarriersAndWait : Prop :=
  ∀ (s : State) (lc : Lc), s.clear lc = true →
    let l := s.lc lc.val
    (∀ d : Reg, (1 ≤ l.level ∨ l.bank.timectl.getLsbD 0 = true) →
      exec (.rdtime lc d) s = .next (s.retire lc (l.wg d (s.groupTime l + if l.gv then l.hyp.toffset else 0)))) ∧
    (∀ d : Reg, l.level = 0 → l.bank.timectl.getLsbD 0 = false → ∃ t, exec (.rdtime lc d) s = .next t ∧
      (t.lc lc.val).bank.exc.cause = 0x02 ∧ (t.lc lc.val).bank.exc.epc = l.pc ∧ (t.lc lc.val).g = l.g) ∧
    exec (.wait lc) s = .next (s.retire lc { l with waiting := !l.intPending }) ∧
    exec (.isync lc) s = .next (s.retire lc l) ∧ exec (.fbar lc) s = .next (s.retire lc l) ∧
    (∀ h : Slot, l.host = some h → s.canQuiet h lc = true → ∃ t, exec (.sync lc) s = .next t ∧
      (t.lc lc.val).pc = l.pc + 4 ∧ (t.lc lc.val).storeBuf = [] ∧ (t.lc lc.val).g = l.g ∧ (t.lc lc.val).psw = l.psw) ∧
    (∀ h : Slot, l.host = some h → s.canQuiet h lc = false → exec (.sync lc) s = .next s)

/-- R110. -/
def Obligations.TranslationInvalidates : Prop :=
  ∀ (s : State) (lc : Lc), s.clear lc = true →
    let l := s.lc lc.val
    let context (t : TlbEntry) : Bool := t.parcel.toNat = pswParcel l.psw && t.polder == pswPolder l.psw &&
      t.atH == (l.level = 2) && t.guest == (if l.gv then some (BitVec.ofNat 8 (pswGuest l.psw)) else none)
    let drops (op : TlbiOp) (v : Word) (t : TlbEntry) : Bool := match op with
      | .va => !t.stage2 && context t && (t.global || t.asid.toNat = l.asid) &&
          v.toNat / 2 ^ t.size * 2 ^ t.size = t.base.toNat
      | .asid => !t.stage2 && context t && !t.global && t.asid.toNat = v.toNat % 65536
      | .all => !t.stage2 && context t
      | .guest => t.parcel.toNat = pswParcel l.psw && !t.polder && t.guest == some (v.setWidth 8)
    let kept (k : LCore) (op : TlbiOp) (v : Word) : List TlbEntry := k.tlb.filter fun t => !drops op v t
    let ready (k : Lc) (op : TlbiOp) (v : Word) : Prop := kept (s.lc k.val) op v = (s.lc k.val).tlb ∨
      ((s.lc k.val).far = none ∧ (s.lc k.val).storeBuf = [] ∧ ∀ h : Slot, (s.lc k.val).host = some h → s.noFills h = true)
    let done (i : Instr) (op : TlbiOp) (v : Word) : Prop :=
      (ready lc op v → exec i s = .next (s.retire lc { l with tlb := kept l op v })) ∧
      (∀ h : Slot, l.host = some h → kept l op v ≠ l.tlb → s.canQuiet h lc = false → exec i s = .next s)
    (∀ a : Reg, 1 ≤ l.level → done (.tlbiVa lc a) .va (l.rg a) ∧ done (.tlbiAsid lc a) .asid (l.rg a) ∧
      done (.tlbiAll lc) .all 0) ∧
    (∀ a : Reg, l.level = 2 → done (.tlbiGuest lc a) .guest (l.rg a)) ∧
    (∀ (a : Reg) (op : TlbiOp), (if op = .guest then l.level = 2 else 1 ≤ l.level) →
      (∀ k ∈ s.parcelLcs (pswParcel l.psw), ready k op (l.rg a)) →
      ∃ u, exec (.tlbiBroadcast lc op a) s = .next (s.retired lc u) ∧ (u.lc lc.val).pc = l.pc + 4 ∧
        (∀ k : Lc, (k ∈ s.parcelLcs (pswParcel l.psw) → (u.lc k.val).tlb = kept (s.lc k.val) op (l.rg a)) ∧
          (k ∉ s.parcelLcs (pswParcel l.psw) → k ≠ lc → u.lc k.val = s.lc k.val)) ∧ { u with lcs := s.lcs } = s) ∧
    (∀ a : Reg, l.level = 0 → ∃ t, exec (.tlbiAll lc) s = .next t ∧ (t.lc lc.val).bank.exc.cause = 0x02 ∧
      (t.lc lc.val).bank.exc.epc = l.pc ∧ (t.lc lc.val).tlb = l.tlb)

/-- R100 to R102. -/
def Obligations.SegmentRegisterMoves : Prop :=
  ∀ (s : State) (lc : Lc), s.clear lc = true →
    let l := s.lc lc.val
    let raises (c : Instr) (n : Reg) (cause : Word) : Prop := ∃ t, exec c s = .next t ∧ (t.lc lc.val).rs n = l.rs n ∧
      (t.lc lc.val).bank.exc.cause = cause ∧ (t.lc lc.val).bank.exc.epc = l.pc
    let mayHold (d : Quad) : Bool := descWellFormed d &&
      !(descValid d && ((descWorld d && !pswPolder l.psw) || l.level < descFloor d))
    (∀ d n : Reg, exec (.rdseg lc d n false) s = .next (s.retire lc (l.wg d ((l.rs n).setWidth 64))) ∧
      exec (.rdseg lc d n true) s = .next (s.retire lc (l.wg d ((l.rs n >>> 64).setWidth 64)))) ∧
    (∀ n a b : Reg, (1 ≤ l.level → mayHold (l.rg b ++ l.rg a) = true →
        exec (.wrseg lc n a b) s = .next (s.retire lc (l.ws n (l.rg b ++ l.rg a)))) ∧
      (l.level = 1 → descWellFormed (l.rg b ++ l.rg a) = false → raises (.wrseg lc n a b) n 0x60005) ∧
      (l.level = 0 → raises (.wrseg lc n a b) n 0x02)) ∧
    (∀ n a : Reg,
      (l.level ≤ 1 → bits l.bank.segtab1 16 0 ≤ (l.rg a).toNat → raises (.lseg lc n a) n 0x50005) ∧
      (∀ (pa : Nat) (unc : Bool) (bs : List Byte) (s1 : State), (l.rg a).toNat < bits l.bank.segtab1 16 0 →
        s.translateAt lc (if l.level = 0 then { l with psw := setBits l.psw 1 0 1 } else l)
          (bits l.bank.segtab0 56 4 * 16 + 16 * (l.rg a).toNat) needR =
            .ok (pa, unc, if l.level = 0 then { l with psw := setBits l.psw 1 0 1 } else l) →
        s.fwPass (.core lc) pa 16 needR = true → (s.setLc lc.val l).readAt lc pa 16 unc = .ok (bs, s1) →
        mayHold (BitVec.ofNat 128 (leNat bs)) = true → ∃ t, exec (.lseg lc n a) s = .next t ∧
          (t.lc lc.val).rs n = BitVec.ofNat 128 (leNat bs) ∧ (t.lc lc.val).pc = (s1.lc lc.val).pc + 4))

/-- R142, R145, R148, R152, R154, R155, R160. -/
def Obligations.FloatingArithmetic : Prop :=
  (∀ (s : State) (lc : Lc) (fmt : ArithFmt) (d a b c : Reg) (rm : BitVec 3), s.clear lc = true →
    let l := s.lc lc.val
    let f := arithFmt fmt
    let va := l.fop f a
    let vb := l.fop f b
    let vc := l.fop f c
    let gives (i : Instr) (x : FVal × Nat) : Prop := ∃ k, exec i s = .next (s.retire lc k) ∧
      k.rf d = BitVec.ofNat 128 (encodeF f x.1) ∧ (∀ r, r ≠ d → k.rf r = l.rf r) ∧ k.g = l.g ∧ k.psw = l.psw ∧
      k.fpcr = l.fpcr ∧ k.fpsr = l.fpsr ||| BitVec.ofNat 64 x.2 ∧ k.resv = l.resv ∧
      (bits l.fpcr 12 8 &&& x.2 = 0 → k.fpxr = l.fpxr ∧ k.fpxa = l.fpxa) ∧
      (bits l.fpcr 12 8 &&& x.2 ≠ 0 → k.fpPend = true ∧ k.fpxa = l.pc ∧ bits k.fpxr 36 32 = x.2 % 32)
    (∀ r, rounding l.fpcr f.dec rm.toNat = some r →
      gives (.fadd lc fmt d a b rm) (fAdd f r l.ftz va vb) ∧ gives (.fsub lc fmt d a b rm) (fAdd f r l.ftz va vb.neg) ∧
      gives (.fmul lc fmt d a b rm) (fMul f r l.ftz va vb) ∧ gives (.fsqrt lc fmt d a rm) (fSqrt f r l.ftz va) ∧
      (∀ ev, fmt ≠ .b128 → gives (.fdiv lc fmt d a b rm ev) (fDiv f r l.ftz va vb)) ∧
      gives (.frint lc fmt d a rm) (fRint f r va) ∧ (f.dec = true → gives (.fquant lc fmt d a b rm) (fQuant f r va vb))) ∧
    (∀ r, rounding l.fpcr f.dec 7 = some r →
      gives (.fusedMultiplyAdd lc fmt .fma d a b c) (fFma f r l.ftz va vb vc) ∧
      gives (.fusedMultiplyAdd lc fmt .fms d a b c) (fFma f r l.ftz va vb vc.neg) ∧
      gives (.fusedMultiplyAdd lc fmt .fnma d a b c) (fFma f r l.ftz va.neg vb vc.neg) ∧
      gives (.fusedMultiplyAdd lc fmt .fnms d a b c) (fFma f r l.ftz va.neg vb vc)) ∧
    (rounding l.fpcr f.dec rm.toNat = none → l.level ≤ 1 → ∃ t, exec (.fadd lc fmt d a b rm) s = .next t ∧
      (t.lc lc.val).bank.exc.cause = 0x30001 ∧ (t.lc lc.val).f = l.f ∧ (t.lc lc.val).fpsr = l.fpsr)) ∧
  (∀ (f : Fmt) (r : Round) (z s1 s2 : Bool) (c1 c2 : Nat) (e1 e2 e v : Int), e = min e1 e2 →
    v = (if s1 then -1 else 1) * c1 * f.radix ^ (e1 - e).toNat + (if s2 then -1 else 1) * c2 * f.radix ^ (e2 - e).toNat →
    v ≠ 0 → fAdd f r z (.num s1 c1 e1) (.num s2 c2 e2) = roundF f r z (decide (v < 0)) ⟨v.natAbs, e, false⟩ e) ∧
  (∀ (f : Fmt) (r : Round) (z : Bool) (a b : FVal) (g : Bool) (p : Nat), (a.isSnan = true → g = true) →
    ∀ sg, a = .nan sg g p → (g = true → fAdd f r z a b = (.nan sg false p, 16) ∧ fMul f r z a b = (.nan sg false p, 16)) ∧
      (g = false → b.isSnan = false → fAdd f r z a b = (a, 0) ∧ fMul f r z a b = (a, 0) ∧ fDiv f r z a b = (a, 0)))

/-- R147, R153, R154, R157, R158. -/
def Obligations.FloatingSelectCompareMove : Prop :=
  ∀ (s : State) (lc : Lc) (fmt : ArithFmt) (d a b : Reg), s.clear lc = true →
    let l := s.lc lc.val
    let f := arithFmt fmt
    let va := l.fop f a
    let vb := l.fop f b
    (∀ op : SignOp, ∃ q : Quad, exec (.fabsFnegFcpysgn lc fmt op d a b) s = .next (s.retire lc (l.wf d q)) ∧
      (∀ i, i + 1 < f.n → q.getLsbD i = (l.rf a).getLsbD i) ∧ (∀ i, f.n ≤ i → q.getLsbD i = false) ∧
      q.getLsbD (f.n - 1) = (match op with
        | .fabs => false
        | .fneg => !(l.rf a).getLsbD (f.n - 1)
        | .fcpysgn => (l.rf b).getLsbD (f.n - 1))) ∧
    (∀ mx : Bool, ∃ (k : LCore) (v : FVal) (x : Nat), exec (.fminFmax lc fmt mx d a b) s = .next (s.retire lc k) ∧
      k.rf d = BitVec.ofNat 128 (encodeF f v) ∧ k.fpsr = l.fpsr ||| BitVec.ofNat 64 x ∧ k.g = l.g ∧
      (∀ r, r ≠ d → k.rf r = l.rf r) ∧
      (va.isNan = false → vb.isNan = false → x = 0 ∧ (v = va ∨ v = vb) ∧
        (mx = false → fpOrder f.radix v va ≠ 2 ∧ fpOrder f.radix v vb ≠ 2) ∧
        (mx = true → fpOrder f.radix v va ≠ 0 ∧ fpOrder f.radix v vb ≠ 0)) ∧
      (va.isSnan = true → v = va.quiet ∧ x = 16) ∧
      (va.isSnan = false → vb.isSnan = false → va.isNan = true → v = va ∧ x = 0)) ∧
    (∀ q : Bool, ∃ (k : LCore) (r x : Nat), exec (.fcmp lc fmt q d a b) s = .next (s.retire lc k) ∧
      k.rg d = BitVec.ofNat 64 r ∧ k.fpsr = l.fpsr ||| BitVec.ofNat 64 x ∧ k.f = l.f ∧
      (∀ y, y ≠ d → k.rg y = l.rg y) ∧
      (r = 3 ↔ va.isNan = true ∨ vb.isNan = true) ∧ r ≤ 3 ∧
      (x = 16 ↔ va.isSnan = true ∨ vb.isSnan = true ∨ (q = true ∧ (va.isNan = true ∨ vb.isNan = true))) ∧
      (x = 16 ∨ x = 0) ∧
      ∀ (s1 s2 : Bool) (c1 c2 : Nat) (e1 e2 e : Int), va = .num s1 c1 e1 → vb = .num s2 c2 e2 → e = min e1 e2 →
        let u : Int := (if s1 then -1 else 1) * c1 * f.radix ^ (e1 - e).toNat
        let w : Int := (if s2 then -1 else 1) * c2 * f.radix ^ (e2 - e).toNat
        r = if u < w then 0 else if u = w then 1 else 2) ∧
    (∃ n, n ≤ 9 ∧ exec (.fclass lc fmt d a) s = .next (s.retire lc (l.wg d (BitVec.ofNat 64 (2 ^ n)))) ∧
      let v := decodeF f (l.rf a) false
      (n = 8 ↔ v.isSnan = true) ∧ (n = 8 ∨ n = 9 ↔ v.isNan = true) ∧ (n = 0 ↔ v = .inf true) ∧ (n = 7 ↔ v = .inf false) ∧
      (n = 3 ↔ ∃ e, v = .num true 0 e) ∧ (n = 4 ↔ ∃ e, v = .num false 0 e)) ∧
    exec (.fpMove lc .fmvgf d a) s = .next (s.retire lc (l.wf d ((0 : Word) ++ l.rg a))) ∧
    exec (.fpMove lc .fmvfg d a) s = .next (s.retire lc (l.wg d ((l.rf a).setWidth 64))) ∧
    exec (.fpMove lc .fmvgfh d a) s = .next (s.retire lc (l.wf d (l.rg a ++ (l.rf d).setWidth 64))) ∧
    exec (.fpMove lc .fmvfgh d a) s = .next (s.retire lc (l.wg d ((l.rf a >>> 64).setWidth 64))) ∧
    exec (.fpMove lc .fmov d a) s = .next (s.retire lc (l.wf d (l.rf a)))

/-- R143, R146, R148, R156, R159. -/
def Obligations.FloatingConversions : Prop :=
  ∀ (s : State) (lc : Lc) (x y : BitVec 3) (d a : Reg) (rm : BitVec 3), s.clear lc = true →
    let l := s.lc lc.val
    (∀ f g r, x ≠ y → fmtOfCode x.toNat = some f → fmtOfCode y.toNat = some g →
      rounding l.fpcr g.dec rm.toNat = some r → ∃ (k : LCore) (v : FVal) (e : Nat),
        exec (.fcvtFf lc x y d a rm) s = .next (s.retire lc k) ∧ k.rf d = BitVec.ofNat 128 (encodeF g v) ∧
        k.fpsr = l.fpsr ||| BitVec.ofNat 64 e ∧ k.g = l.g ∧ (∀ n, n ≠ d → k.rf n = l.rf n) ∧
        (∀ sg, l.fop f a = .inf sg → v = .inf sg ∧ e = 0) ∧
        (∀ sg q p, l.fop f a = .nan sg q p → (∃ p', v = .nan sg false p') ∧ e = if q then 16 else 0) ∧
        (∀ sg c n, l.fop f a = .num sg c n → f.dec = g.dec → c ≠ 0 →
          (v, e) = roundF g r l.ftz sg ⟨c, n, false⟩ (if f.dec then n else 0))) ∧
    (∀ f r (u : Bool), fmtOfCode x.toNat = some f → x ≠ 4 → rounding l.fpcr f.dec rm.toNat = some r →
      let i : Instr := if u then .fcvtFu lc x d a rm else .fcvtFi lc x d a rm
      let hi : Int := if u then 2 ^ 64 - 1 else 2 ^ 63 - 1
      let lo : Int := if u then 0 else -2 ^ 63
      ∃ (k : LCore) (v : Int) (e : Nat), exec i s = .next (s.retire lc k) ∧ k.rg d = BitVec.ofInt 64 v ∧
        k.fpsr = l.fpsr ||| BitVec.ofNat 64 e ∧ k.f = l.f ∧ (∀ n, n ≠ d → k.rg n = l.rg n) ∧ lo ≤ v ∧ v ≤ hi ∧
        (∀ sg q p, l.fop f a = .nan sg q p → v = 0 ∧ e = 16) ∧
        (∀ sg, l.fop f a = .inf sg → v = (if sg then lo else hi) ∧ e = 16) ∧
        (∀ sg c n, l.fop f a = .num sg c n →
          let q := roundAt f.radix r sg ⟨c, n, false⟩ 0
          let w : Int := if sg then -q.1 else q.1
          (hi < w → v = hi ∧ e = 16) ∧ (w < lo → v = lo ∧ e = 16) ∧
          (lo ≤ w → w ≤ hi → v = w ∧ e = if q.2 then 1 else 0))) ∧
    (∀ f r (u : Bool), fmtOfCode y.toNat = some f → y ≠ 4 → rounding l.fpcr f.dec rm.toNat = some r →
      let v : Int := if u then (l.rg a).toNat else (l.rg a).toInt
      ∃ (k : LCore) (w : FVal) (e : Nat), exec (.fcvtIf lc u y d a rm) s = .next (s.retire lc k) ∧
        k.rf d = BitVec.ofNat 128 (encodeF f w) ∧ k.fpsr = l.fpsr ||| BitVec.ofNat 64 e ∧ k.g = l.g ∧
        (v ≠ 0 → (w, e) = roundF f r l.ftz (decide (v < 0)) ⟨v.natAbs, 0, false⟩ 0) ∧
        (v = 0 → e = 0 ∧ ∃ n, w = .num false 0 n)) ∧
    (l.level ≤ 1 →
      let illegal (i : Instr) : Prop := ∃ t, exec i s = .next t ∧ (t.lc lc.val).bank.exc.cause = 0x20001 ∧
        (t.lc lc.val).f = l.f ∧ (t.lc lc.val).g = l.g
      (x = y ∨ x = 7 ∨ y = 7 → illegal (.fcvtFf lc x y d a rm)) ∧
      (x = 4 ∨ x = 7 → illegal (.fcvtFi lc x d a rm) ∧ illegal (.fcvtFu lc x d a rm)) ∧
      ∀ u, y = 4 ∨ y = 7 → illegal (.fcvtIf lc u y d a rm))

/-- R160, R161. -/
def Obligations.FloatingTrapDelivery : Prop :=
  ∀ (s : State) (lc : Lc), s.lcRuns lc = true → s.struck lc = false →
    let l := s.lc lc.val
    l.fpPend = true → l.level ≤ 1 →
    let delivered (i : Instr) : Prop := ∃ t, exec i s = .next t ∧
      let k := t.lc lc.val
      k.fpPend = false ∧ (∀ j, j < 63 → k.fpxr.getLsbD j = l.fpxr.getLsbD j) ∧ k.fpsr = l.fpsr ∧ k.fpxa = l.fpxa ∧
      k.f = l.f ∧ k.g = l.g ∧ k.bank.exc.cause = 0x12 ∧ k.bank.exc.epc = l.pc ∧ k.bank.exc.saved = l.psw ∧
      k.bank.exc.info = (l.fpxr.setWidth 32 : BitVec 32).setWidth 64 ∧ k.pc = l.bank.exc.vec ∧ pswLevel k.psw = 1
    (256 ≤ l.fpCount → delivered (.fpTrapDelivery lc)) ∧
    (l.fpCount < 256 → exec (.fpTrapDelivery lc) s = .next s) ∧
    delivered (.fbar lc) ∧ delivered (.retx lc) ∧ ∀ a, ∀ n ∈ [(0x020 : BitVec 10), 0x021, 0x022, 0x023], delivered (.mtc lc a n)

/-- R100, R242, R243, Table 4.4. -/
def Obligations.LoadsAndStores : Prop :=
  ∀ (s : State) (lc : Lc) (form : MemForm), s.clear lc = true →
    let l := s.lc lc.val
    (∀ (op : LoadOp) (pa t o : Nat) (l' : LCore) (sl : Slot) (c : CLine),
      s.dataAddr lc l (l.rs (memBase form)) (l.memOffset form) (loadBytes (loadForm op form)) needR =
        .ok (pa, false, l') →
      s.place pa = .dram t o → s.memReachable pa = true → l'.host = some sl →
      s.cacheErr sl (lineOfAddr pa) = false →
      (s.holder sl.val).find (lineOfAddr pa) = some c → c.poison = false →
      ∃ v : Nat, v = leNat (l'.overlay pa ((List.range (loadBytes (loadForm op form))).map fun i =>
        lineByte c.data ((pa + i) % 128))) ∧
      exec (.load lc op form .ok) s = .next (s.retired lc ((s.setLc lc.val (LCore.next (match loadForm op form with
        | .ldb => l'.wg (memData form) ((BitVec.ofNat 8 v).signExtend 64)
        | .ldh => l'.wg (memData form) ((BitVec.ofNat 16 v).signExtend 64)
        | .ldw => l'.wg (memData form) ((BitVec.ofNat 32 v).signExtend 64)
        | .ldd | .ldbu | .ldhu | .ldwu => l'.wg (memData form) (BitVec.ofNat 64 v)
        | .lddf | .ldqf => l'.wf (memData form) (BitVec.ofNat 128 v)))).setHolder sl.val
          ((s.holder sl.val).loaded (lineOfAddr pa))))) ∧
    (∀ (op : StoreOp) (pa t o : Nat) (l' : LCore) (sl : Slot) (bs : List Byte),
      bs = leBytes (storeBytes (storeForm op form)) (match storeForm op form with
        | .stdf | .stqf => (l.rf (memData form)).toNat
        | _ => (l.rg (memData form)).toNat) →
      s.dataAddr lc l (l.rs (memBase form)) (l.memOffset form) (storeBytes (storeForm op form)) needW =
        .ok (pa, false, l') →
      s.place pa = .dram t o → s.memReachable pa = true → l.ioWait = none → l'.host = some sl →
      s.cacheErr sl (lineOfAddr pa) = false → (∀ p ∈ (s.holder sl.val).side, p.line ≠ lineOfAddr pa) →
      s.slotLc sl = some lc → l'.storeBuf = [] → (s.holder sl.val).owns (lineOfAddr pa) = true →
      exec (.store lc op form) s = .next (s.retired lc (((s.setLc lc.val l'.next).setHolder sl.val
        (((s.holder sl.val).write (lineOfAddr pa) (pa % 128) bs).use (lineOfAddr pa) false)).maintTouch
          (lineOfAddr pa)))) ∧
    (∀ op : LoadOp, (l.memOffset form).toNat % loadBytes (loadForm op form) ≠ 0 →
      exec (.load lc op form .ok) s = .next (s.enterExc lc (encMem (loadMajor op) 0 2 form)
        { code := 0x03, addr := (l.memOffset form).toNat, access := 2 })) ∧
    (∀ op : StoreOp, l.ioWait = none → (l.memOffset form).toNat % storeBytes (storeForm op form) ≠ 0 →
      exec (.store lc op form) s = .next (s.enterExc lc (encMem (storeMajor op) 1 3 form)
        { code := 0x03, addr := (l.memOffset form).toNat, access := 3 }))

/-- Table 5.5; R136 to R141, R291 to R293. -/
def Obligations.AtomicsAndReservations : Prop :=
  (∀ (s s1 : State) (lc : Lc) (d a b c : Reg) (pa t o : Nat) (l' : LCore) (sl : Slot), s.clear lc = true →
    let l := s.lc lc.val
    let line := lineOfAddr pa
    s.dataAddr lc l (l.rs a) (l.rg a) 8 needRW = .ok (pa, false, l') → s.place pa = .dram t o →
    s.memReachable pa = true → l.host = some sl → (s.setLc lc.val l').synced lc = .ok s1 →
    ((Table.get 0 l.contention (predIndex line)).toNat < 2 → s1.cacheErr sl line = false → s1.canOwn sl line = true →
      ∀ (v : Line) (m : Word), ((s1.ownLine sl line).holder sl.val).dataOf line = some (v, false) →
      m = BitVec.ofNat 64 (leNat ((List.range 8).map fun i => lineByte v (pa % 128 + i))) →
      let near (new : Word) := Host.Outcome.next (φ := Fault) (ρ := Refusal) (s.retired lc
        (((s1.ownLine sl line).modHolder sl.val fun h =>
          (h.write line (pa % 128) (leBytes 8 new.toNat)).use line false).modLc lc.val fun y =>
            ((if (s1.holder sl.val).stateOf line = some .m then y.predict line false else y).wg d m).next))
      exec (.tas lc d a) s = near (m ||| 1) ∧ exec (.atomicFadd lc d a b) s = near (m + l.rg b) ∧
      exec (.swap lc d a b) s = near (l.rg b) ∧
      exec (.cas lc d a b c) s = near (if m = l.rg c then l.rg b else m) ∧
      exec (.amin lc d a b) s = near (if (l.rg b).toInt < m.toInt then l.rg b else m) ∧
      exec (.amax lc d a b) s = near (if m.toInt < (l.rg b).toInt then l.rg b else m)) ∧
    (2 ≤ (Table.get 0 l.contention (predIndex line)).toNat →
      let far (op : AtomicOp) (bx cx : Reg) := Host.Outcome.next (φ := Fault) (ρ := Refusal) ((s1.sendFar lc sl
        { op := op, d := d, addr := pa, operand := l.rg bx, compare := l.rg cx, word := encAtomic op d a bx cx
          uncached := false, nacked := false }).askWalks lc)
      exec (.tas lc d a) s = far .tas 0 0 ∧ exec (.atomicFadd lc d a b) s = far .fadd b 0 ∧
      exec (.swap lc d a b) s = far .swap b 0 ∧ exec (.cas lc d a b c) s = far .cas b c ∧
      exec (.amin lc d a b) s = far .amin b 0 ∧ exec (.amax lc d a b) s = far .amax b 0)) ∧
  (∀ (s : State) (lc : Lc) (f : FarReq) (sl : Slot) (h : Slice) (ev : BasinEvent) (v : Line),
    let line := lineOfAddr f.addr
    (s.lc lc.val).far = some f → (s.lc lc.val).host = some sl → s.struck lc = false → s.outStruck sl = false →
    (∀ x ∈ s.slotsWith line, s.cacheErr x line = false) →
    ((s.outReq (.slot sl) line).any fun o => o.nacked) = false → s.homeSlice line = some h →
    s.memReachable f.addr = true → s.refuses h.val line (.slot sl) .farAtomic = false →
    s.sfRoom h (.slot sl) line = true → s.homeWaits line = false →
    s.fillWaits line (s.slotWays sl (h.val / 6)) = false → s.fillStuck line (s.slotWays sl (h.val / 6)) = false →
    let s1 := ((((s.unstarve h.val line (.slot sl)).dropReq (.slot sl) line).sfTouch line).basinMeet line).basinRead line ev
    (((s1.homeArrive line).sfMake h line).maintTouch line).freshest line = (v, false) →
    ∃ t : State, exec (.farAtomic lc ev) s = .next t ∧ (t.lc lc.val).far = none ∧
      (t.lc lc.val).rg f.d = BitVec.ofNat 64 (leNat ((List.range 8).map fun i => lineByte v (f.addr % 128 + i)))) ∧
  (∀ (s s1 : State) (lc : Lc) (d a : Reg) (pa t o : Nat) (l' : LCore) (sl : Slot) (bs : List Byte),
    s.clear lc = true →
    s.dataAddr lc (s.lc lc.val) ((s.lc lc.val).rs a) ((s.lc lc.val).rg a) 8 needR = .ok (pa, false, l') →
    s.place pa = .dram t o → s.memReachable pa = true → (s.lc lc.val).host = some sl →
    (s.setLc lc.val l').canOwn sl (lineOfAddr pa) = true →
    ((s.setLc lc.val l').ownLine sl (lineOfAddr pa)).readCached lc pa 8 = .ok (bs, s1) →
    exec (.ldres lc d a) s = .next (s.retired lc (s1.modLc lc.val fun y =>
      { (y.wg d (BitVec.ofNat 64 (leNat bs))).next with resv := some (lineOfAddr pa), resvHold := true }))) ∧
  (∀ (s s1 : State) (lc : Lc) (d a b : Reg) (pa t o : Nat) (l' : LCore) (sl : Slot), s.clear lc = true →
    let line := lineOfAddr pa
    s.dataAddr lc (s.lc lc.val) ((s.lc lc.val).rs a) ((s.lc lc.val).rg a) 8 needW = .ok (pa, false, l') →
    s.place pa = .dram t o → s.memReachable pa = true → (s.lc lc.val).host = some sl →
    (s.setLc lc.val l').synced lc = .ok s1 →
    ((s1.lc lc.val).resv ≠ some line → exec (.stcnd lc d a b) s = .next (s.retired lc (s1.modLc lc.val
      fun y => { (y.wg d 1).next with resv := none, resvHold := false }))) ∧
    ((s1.lc lc.val).resv = some line → s1.cacheErr sl line = false → s1.canOwn sl line = true →
      exec (.stcnd lc d a b) s = .next (s.retired lc (((s1.ownLine sl line).modHolder sl.val fun h =>
        (h.write line (pa % 128) (leBytes 8 ((s.lc lc.val).rg b).toNat)).use line false).modLc lc.val
          fun y => { (y.wg d 0).next with resv := none, resvHold := false })))) ∧
  ∀ (s : State) (lc : Lc), (s.lc lc.val).resvHold = true →
    exec (.reservationHoldExpiry lc) s = .next (s.modLc lc.val fun y => { y with resvHold := false })

/-- R91 to R93, R97, R98. -/
def Obligations.PairedWordsAndBadWords : Prop :=
  ∀ (s : State) (lc : Lc), s.clear lc = true →
    let l := s.lc lc.val
    (∀ (w : BitVec 31) (word : BitVec 32) (a b : Short) (l1 l2 : LCore), word = (1 : BitVec 1) ++ w →
      w.getLsbD 15 = true → a = shortOf (w.toNat / 2 ^ 16) → b = shortOf w.toNat →
      (∀ sub slot, pairIllegal a (some b) (w.toNat % 2 ^ 15) = some (sub, slot) →
        exec (.pairedWord lc w) s = .next (s.enterExc lc word { code := 0x01, sub := sub, slot := slot })) ∧
      (pairIllegal a (some b) (w.toNat % 2 ^ 15) = none → a.isMem = false → b.isMem = false → l.ioWait = none →
        l.short a word false = .ok l1 → ({ l1 with g := l.g, f := l.f }).short b word true = .ok l2 →
        ∃ k : LCore, exec (.pairedWord lc w) s = .next (s.retired lc (s.setLc lc.val k)) ∧ k.psw = l2.psw ∧
          (∀ r : Reg, k.rg r = if a.dest = some (false, r) then l1.rg r else l2.rg r) ∧
          (∀ r : Reg, k.rf r = if a.dest = some (true, r) then l1.rf r else l2.rf r) ∧
          k.pc = (if b.isBranch then l2.pc else l2.pc + 4))) ∧
    (∀ w : BitVec 32, w.getLsbD 31 = false → majorUndefined (w.toNat / 2 ^ 25) = true →
      exec (.undefinedEncoding lc w) s = .next (s.enterExc lc w { code := 0x01, sub := 0x01, slot := false })) ∧
    ∀ e : Exc, s.fetchCheck lc l l.pc.toNat = .exc e →
      exec (.instructionFetchFault lc) s = .next (s.enterExc lc 0 e)

/-- R181 to R185, R431, R432. -/
def Obligations.LongRunningInstructions : Prop :=
  ∀ (s : State) (lc : Lc) (d a b : Reg), s.clear lc = true →
    let l := s.lc lc.val
    (l.rg b = 0 → exec (.mvl lc d a b .ok) s = .next (s.retire lc l)) ∧
    (∀ (t : State) (fin : Bool) (n : Nat), d ≠ a → d ≠ b → a ≠ b → l.rg b ≠ 0 →
      n = min (l.rg b).toNat (128 - (descBase (l.rs d) + (l.rg d).toNat) % 128) →
      s.mvlEffect lc d a b l = .ok (t, fin) → fin = decide ((l.rg b).toNat = n) ∧
        exec (.mvl lc d a b .ok) s = .next (if fin then s.retired lc t else t.askWalks lc) ∧
        ∃ c : LCore, t.lc lc.val = (if fin then { c with pc := c.pc + 4 } else c) ∧
          c.rg d = l.rg d + BitVec.ofNat 64 n ∧ c.rg a = l.rg a + BitVec.ofNat 64 n ∧
          c.rg b = l.rg b - BitVec.ofNat 64 n) ∧
    (∀ (cph : Bool) (la pa : Nat) (p : Piece) (l' : LCore) (st : Byte) (s1 s2 : State),
      l.level ≠ 0 → l.gv = false → (l.rg a).toNat % 128 = 0 →
      s.rangeAddr lc l (l.rs a) (l.rg a).toNat 128 needRW = .ok (la, [p], l') → p.pa = pa →
      s.memReachable pa = true → (s.aslot (slotIdx cph lc)).busy = false →
      (s.setLc lc.val l').readAt lc (pa + 2) 1 p.unc = .ok ([st], s1) → (st.toNat < 0x10 → s1.synced lc = .ok s2) →
      let done := if 0x10 ≤ st.toNat then s.retired lc (s1.modLc lc.val fun c => (c.wg d (st.setWidth 64)).next)
        else (s2.modAslot (slotIdx cph lc) fun y =>
          { y with busy := true, block := pa, polder := pswPolder l.psw, req := none }).askWalks lc
      (cph = false → exec (.cmpx lc d a) s = .next done) ∧ (cph = true → exec (.ciph lc d a) s = .next done)) ∧
    (∀ (wide : Bool) (la : Nat) (ps : List Piece) (l' : LCore) (r : Round) (bs : List Byte) (s1 : State) (w : BitVec 32),
      w = encR 0x3C d.val a.val b.val wide.toNat 3 → l.resumes w = false → 0 < (l.rg b).toNat → (l.rg b).toNat ≤ 16 →
      s.rangeAddr lc l (l.rs a) (l.rg a).toNat (l.rg b).toNat needR = .ok (la, ps, l') →
      (s.setLc lc.val l').readPieces lc (ps.flatMap Piece.lines) = .ok (bs, s1) → l.roundFor true 7 = .ok r →
      ∃ (u : State) (c : LCore), exec (.dconv lc d a b (BitVec.ofNat 2 wide.toNat) .ok) s = .next (s.retired lc u) ∧
        u.lc lc.val = c.next ∧ c.rf d = (decOfString (dconvFmt wide) r bs).1) ∧
    (∀ (wide : Bool) (w : BitVec 32) (str : List Byte) (fl : Nat), w = encR 0x3C d.val a.val b.val (2 + wide.toNat) 3 →
      l.resumes w = false → (str, fl) = stringOfDec (decodeF (dconvFmt wide) (l.rf a) false) →
      (l.rg b).toNat < str.length → exec (.dconv lc d a b (BitVec.ofNat 2 (2 + wide.toNat)) .ok) s =
        .next (s.retired lc (s.modLc lc.val fun c =>
          (((c.wg b (l.rg b - BitVec.ofNat 64 str.length)).fpSignal fl w false).progEnd).next))) ∧
    (∀ (rm : BitVec 3) (r : Round) (w : BitVec 32), w = encFp .b128 d.val a.val b.val rm.toNat 3 →
      l.roundFor false rm.toNat = .ok r →
      (l.resumes w = false →
        exec (.fdiv lc .b128 d a b rm .ok) s = .next ((s.progWrite lc w [l.rf a, l.rf b] 1 []).askWalks lc)) ∧
      (∀ p : Progress, l.resumes w = true → s.progFind l w = some p → p.operands = [l.rf a, l.rf b] → p.iter = 3 →
        exec (.fdiv lc .b128 d a b rm .ok) s = .next (s.retired lc (s.modLc lc.val fun c =>
          ((c.fpWrite b128 d (fDiv b128 r c.ftz (c.fop b128 a) (c.fop b128 b)) w false).progEnd).next))))

/-- R171 to R190. -/
def Obligations.CustomRoutines : Prop :=
  (∀ (s : State) (lc : Lc) (k : Fin 64) (d a b : Reg) (cx : Fin 16) (w : BitVec 32) (entry : Word),
    s.clear lc = true →
    let l := s.lc lc.val
    l.micro = none → w = encC d.val a.val b.val cx.val k.val → entry = (l.wcs l.activeBank).entries.getD k.val 0 →
    (entry.msb = false → exec (.customOpcode lc k d a b cx .ok) s =
      .next (s.enterExc lc w { code := 0x01, sub := 0x06 })) ∧
    (entry.msb = true → l.level < bits entry 49 48 → exec (.customOpcode lc k d a b cx .ok) s =
      .next (s.enterExc lc w { code := 0x02 })) ∧
    (∀ (m : MicroSt) (s0 : State) (g : Seg) (e : SegEnd), entry.msb = true → bits entry 49 48 ≤ l.level →
      s.microStart l w entry = (m, s0) →
      Seg.run ⟨lc, d, a, b, cx, entry, w⟩ (l.wcs l.activeBank).words segFuel
        ⟨s0, s0.lc lc.val, m, [], [], [], false, 0, none⟩ = (g, e) →
      (e = .done → g.late = none → ∃ t, exec (.customOpcode lc k d a b cx .ok) s = .next t ∧
        (t.lc lc.val).g = g.core.g ∧ (t.lc lc.val).f = g.core.f ∧ (t.lc lc.val).psw = g.core.psw ∧
        (t.lc lc.val).fpsr = g.core.fpsr ∧ (t.lc lc.val).pc = (g.st.lc lc.val).pc + 4 ∧
        (t.lc lc.val).micro = none ∧ t.mem = g.st.mem) ∧
      (e = .overrun → ∃ t, exec (.customOpcode lc k d a b cx .ok) s = .next t ∧
        (t.lc lc.val).overrun = some (BitVec.ofNat 16 g.m.addr)))) ∧
  ∀ (s : State) (lc : Lc) (a : BitVec 16), (s.lc lc.val).overrun = some a → s.coresRun = true →
    (s.lc lc.val).executes = true → ∃ t, exec (.mcOverrun lc) s = .next t ∧
      t = (s.modLc lc.val fun c => { c with stops := { c.stops with fatal := true }, micro := none, overrun := none }).report
        (s.lcSrc lc.val) 0x25 clsSevere a.toNat ∧
      (t.lc lc.val).stops.fatal = true ∧ (t.lc lc.val).micro = none ∧ (t.lc lc.val).overrun = none ∧
      ∀ k : Lc, k ≠ lc → t.lc k.val = s.lc k.val

/-- R205, R208, R218 to R221, R242. -/
def Obligations.Resynchronisation : Prop :=
  (∀ (s : State) (i : Island), s.islandLive i = true →
    exec (.groupTimeLoad i) s = .next (s.modIsl i.val fun x => { x with timeReg := s.tb.ns })) ∧
  (∀ (s : State) (core : Core) (i : Island) (c : Fin 4) (y : PCore), i = coreIsland core → c = coreLetter core →
    y = (s.isl i.val).cores.get c →
    let goes (p : Phase) (v : State) : Prop :=
      (v.isl i.val).cores.get c = { y with phase := p, gated := false } ∧ { v with isls := s.isls } = s
    let fails (v : State) : Prop := ((v.isl i.val).cores.get c).role = .failed ∧ v.mem = s.mem
    (y.phase = .wake → ∃ v : State, exec (.resyncWakeDone core) s = .next v ∧ goes .test v) ∧
    (y.phase = .test → y.healthy = false ∨ y.target = true →
      (∃ v : State, exec (.resyncTestDone core true) s = .next v.settleMode ∧ goes .invalidate v) ∧
      (∃ v : State, exec (.resyncTestDone core false) s = .next v.settleMode ∧ fails v)) ∧
    (y.phase = .invalidate →
      ∃ v : State, exec (.resyncInvalidateDone core) s = .next v ∧ goes (if y.target then .wait else .mirror) v) ∧
    (y.phase = .mirror → (s.outStruck (slotAt i y.slot) = false →
        ∃ v : State, exec (.resyncMirrorDone core true) s = .next v.settleMode ∧ goes .wait v) ∧
      (∃ v : State, exec (.resyncMirrorDone core false) s = .next v.settleMode ∧ fails v) ∧
      (∃ v : State, exec (.mirrorTimeout core) s = .next v.settleMode ∧ fails v)) ∧
    (y.phase = .wait → y.role = .rejoining → y.target = false →
      (2 ≤ y.attempts → ∃ v : State, exec (.rejoinTimeout core) s = .next v.settleMode ∧ fails v) ∧
      (y.attempts < 2 → ∃ v : State, exec (.rejoinTimeout core) s = .next v.settleMode ∧
        (v.isl i.val).cores.get c = { y with attempts := y.attempts + 1 } ∧ { v with isls := s.isls } = s) ∧
      ∀ lc : Lc, y.lc = some lc → (s.lc lc.val).stops.lost = false → (s.lc lc.val).stops.migrating = false →
        (s.lc lc.val).far = none → (s.lc lc.val).overrun = none → s.canQuiet (slotAt i y.slot) lc = true →
        ∃ v : State, exec (.rejoin core) s = .next v.settleMode ∧
          (((v.isl i.val).cores.get c).role = .replica ∨ ((v.isl i.val).cores.get c).role = .simplex) ∧
          ((v.isl i.val).cores.get c).odd = false ∧ ((v.isl i.val).cores.get c).phase = .none ∧
          (v.isl i.val).voterOk =
            (s.isl i.val).voterOk ||| ~~~((s.isl i.val).voterDead ||| (s.isl i.val).voterBad) ∧
          (v.lc lc.val).resv = none ∧ (v.lc lc.val).contention = [] ∧ (v.holder (slotAt i y.slot).val).side = [])) ∧
  ∀ (s : State) (slot : Slot) (line : LineNo) (h : Slice) (t : Txn) (d : Line × Bool),
    s.islandLive (hostIsland slot) = true → s.homeSlice line = some h → s.homeLive (lineAddr line) = true →
    s.txnAt h.val line = some t → t.req = .slot slot → t.ready = true → t.delivered = false → t.kind ≠ .prefetch →
    t.data.getD (s.freshest line) = d →
    (s.holder slot.val).find line = none → ((s.holder slot.val).evict.any fun c => c.line = line) = false →
    (∃ w < 16, ∀ x ∈ (s.holder slot.val).l2, x.line.toNat % 1024 = line.toNat % 1024 → x.way ≠ w) →
    (∀ lc : Lc, s.slotLc slot = some lc → (s.lc lc.val).storeBuf = []) →
    ∃ v : State, exec (.fillArrival slot line .ok) s = .next v.settleMode ∧
      (v.txnAt h.val line).map (·.delivered) = some true ∧
      v.outReq (.slot slot) line = none ∧ ∃ x, (v.holder slot.val).find line = some x ∧ x.st = t.grant ∧
        x.data = d.1 ∧ x.poison = d.2

/-- R207, R229 to R239. -/
def Obligations.GroupCommandsAndMigration : Prop :=
  (∀ (s : State) (m : Master) (i : Island) (c : Fin 4) (y : PCore) (lc : Lc),
    s.admits m (CsReg.grpCtl i).addr needW (s.privileged m) = true → s.mode.running = true →
    y = (s.isl i.val).cores.get c → y.lc = some lc →
    ((s.isl i.val).slots.get y.slot).st ≠ .resync → ((s.isl i.val).slots.get y.slot).st ≠ .migrating →
    (y.role = .replica → (s.isl i.val).healthy y.slot = 3 → ∃ v : State, exec (.grpResync m i c) s = .next v.settleMode ∧
      ((v.isl i.val).cores.get c).role = .rejoining ∧ ((v.isl i.val).cores.get c).phase = .test ∧
      ((v.isl i.val).cores.get c).odd = true ∧ v.fld (.grpStatus i) 55 52 = 0 ∧ v.lcs = s.lcs ∧ v.mem = s.mem) ∧
    (y.role = .replica → ∃ v : State, exec (.grpInject m i c) s = .next v ∧ v.fld (.grpStatus i) 55 52 = 0 ∧
      v.isls = (s.modCore i c fun x => { x with upsets := .signature 1 :: x.upsets }).isls ∧ v.lcs = s.lcs ∧
      v.mem = s.mem) ∧
    (y.role = .replica ∧ ((s.isl i.val).slots.get y.slot).width = 3 ∨ y.role = .simplex ∧ y.odd = false →
      ∃ v : State, exec (.grpRetireCore m i c) s = .next v.settleMode ∧ ((v.isl i.val).cores.get c).role = .failed ∧
        v.fld (.grpStatus i) 55 52 = 0 ∧ v.mem = s.mem)) ∧
  (∀ (s : State) (lc : Lc) (h : Slot) (t : Island × Fin 4 × List (Fin 4)) (sl : Slice), s.runOrQuiesce = true →
    (s.lc lc.val).host = some h → s.lcTarget lc = some t → s.freeMigSlot (h.val / 48) = some sl →
    (s.lc lc.val).reqs.migrate = true → (∀ m ∈ s.migrations, m.lc ≠ lc) →
    (∀ o : Lc, o.val < lc.val → (s.lc o.val).reqs.migrate = false) →
    ((s.lc lc.val).stops.hard = true ∨ ((s.lc lc.val).overrun = none ∧ (s.lc lc.val).far = none)) →
    s.canQuiet h lc = true → s.rejoinDue h (s.lc lc.val) = false → (s.lc lc.val).bankPend = false →
    ∃ v : State, exec (.migrationStart lc) s = .next v.settleMode ∧ (v.lc lc.val).stops.migrating = true ∧
      (v.lc lc.val).reqs.migrate = false ∧ (v.lc lc.val).resv = none ∧ (v.slice sl.val).migSlot = some lc ∧
      (v.slice sl.val).migRecord = some (v.lc lc.val) ∧
      v.migrations = s.migrations ++ [⟨lc, some h, slotAt t.1 t.2.1, t.2.2.length, sl⟩]) ∧
  (∀ (s : State) (lc : Lc) (m : Migration) (cs : List (Fin 4)), (s.migrations.find? fun m => m.lc = lc) = some m →
    cs = ((List.finRange 4).filter fun c => ((s.isl (hostIsland m.target).val).cores.get c).target &&
      ((s.isl (hostIsland m.target).val).cores.get c).lc = some lc) →
    m.width ≤ cs.length → (∀ c ∈ cs, ((s.isl (hostIsland m.target).val).cores.get c).phase = .wait) →
    (s.slice m.migSlice.val).recordBad = false →
    ∃ v : State, exec (.migrationComplete lc) s = .next v.settleMode ∧ (v.lc lc.val).host = some m.target ∧
      (v.lc lc.val).stops.migrating = false ∧ (v.lc lc.val).tlb = [] ∧
      ((v.isl (hostIsland m.target).val).slots.get (slotPos m.target)).lc = some lc ∧
      ((v.isl (hostIsland m.target).val).slots.get (slotPos m.target)).positions = cs ∧
      (v.slice m.migSlice.val).migSlot = none ∧ v.migrations = s.migrations.filter (fun y => y.lc ≠ lc) ∧
      v.mem = s.mem) ∧
  (∀ (s : State) (i : Island) (k : Fin 3), (s.isl i.val).voterOk.getLsbD k.val = true →
    ∃ v : State, exec (.voterRailFailure i k) s = .next v.settleMode ∧
      (v.isl i.val).voterOk = (s.isl i.val).voterOk &&& ~~~(1#3 <<< k.val)) ∧
  ∀ (s : State) (lc : Lc) (h : Slot), (s.lc lc.val).host = some h →
    ((s.lc lc.val).far = none → (s.lc lc.val).overrun = none → s.canQuiet h lc = true →
      s.beforeHalt lc h (s.lc lc.val) = false →
      (s.runOrQuiesce = true → (s.lc lc.val).reqs.debug = true → (s.lc lc.val).stops.lost = false →
        (s.lc lc.val).stops.migrating = false → ∃ v : State, exec (.debugHalt lc) s = .next v.settleMode ∧
          (v.lc lc.val).stops.debug = true ∧ (v.lc lc.val).reqs.debug = false ∧
          ((v.isl (hostIsland h).val).slots.get (slotPos h)).st =
            (if ((s.isl (hostIsland h).val).slots.get (slotPos h)).st = .stopped then .stopped else .split) ∧
          ∀ c ∈ ((s.isl (hostIsland h).val).slots.get (slotPos h)).positions,
            ((s.isl (hostIsland h).val).cores.get c).role ≠ .failed → ((v.isl (hostIsland h).val).cores.get c).role =
              (if c = (s.isl (hostIsland h).val).lead (slotPos h) then .simplex else .held)) ∧
      (∀ x : LCore, x = (s.quietStop h lc).lc lc.val → (s.lc lc.val).reqs.quiesce = true →
        (s.lc lc.val).reqs.reset = false → (s.lc lc.val).reqs.debug = false → x.stops.reset = false →
        ∃ v : State, exec (.groupStop lc) s = .next v ∧
          (v.lc lc.val).stops.quiesce = (x.stops.quiesce || x.reqs.quiesce) ∧
          (v.lc lc.val).stops.clockCut = (x.stops.clockCut || x.reqs.clockCut) ∧ (v.lc lc.val).reqs.quiesce = false ∧
          (v.lc lc.val).reqs.clockCut = false ∧ (v.lc lc.val).g = x.g ∧ (v.lc lc.val).pc = x.pc)) ∧
    ((s.lc lc.val).stops.debug = true → ∃ v : State, exec (.debugResume lc) s = .next v.settleMode ∧
      (v.lc lc.val).stops.debug = false ∧ (∀ k : Lc, k ≠ lc → v.lc k.val = s.lc k.val) ∧ v.mem = s.mem)

/-- R249, R276, R279, R282 to R288. -/
def Obligations.RequestsAtTheHomeSlice : Prop :=
  (∀ (s : State) (slot : Slot) (line : LineNo) (h : Slice) (o : Outstanding), s.ringsRun = true →
    s.outStruck slot = false → s.homeSlice line = some h → s.memReachable (lineAddr line) = true →
    o = (s.outReq (.slot slot) line).getD (newReq (.slot slot) line .prefetch) → o.nacked = false →
    let nacked (u : State) : Prop := ∃ o', u.outReq (.slot slot) line = some o' ∧ o'.nacked = true ∧
      o'.age = min 16 (o.age + 1) ∧ (u.slice h.val).txns = (s.slice h.val).txns ∧ u.holders = s.holders ∧ u.mem = s.mem
    let named : List Slot := match s.sfGet h.val line with
      | some e => s.snoopTargets e (h.val / 6) (.slot slot)
      | none => []
    let opened (u : State) (k : ReqKind) (sn : Snoop) (grant : Moesi) : Prop :=
      ∃ t, u.txnAt h.val line = some t ∧ t.req = .slot slot ∧ t.kind = k ∧
        t.snoops = named.map (fun x => ⟨x, sn, o.starving, none, false⟩) ∧ t.grant = grant ∧ t.delivered = false ∧
        (u.sfGet h.val line).map (·.pin) = some true ∧ u.holders = s.holders ∧ u.mem = s.mem ∧ u.lcs = s.lcs
    let own : Option Moesi := (s.holder slot.val).stateOf line
    let mine : Moesi := if own = some .m ∨ own = some .o then .m else .e
    let prefetches : Prop := ((s.holder slot.val).pfReqs.any fun r => r.line = line) = true
    (s.blocked h.val line (.slot slot) = true →
      (s.outReq (.slot slot) line = some o →
        (o.kind = .readShared → ∃ u, exec (.readShared slot line .ok) s = .next u ∧ nacked u) ∧
        (o.kind = .readOwn → ∃ u, exec (.readOwn slot line .ok) s = .next u ∧ nacked u) ∧
        (o.kind = .upgrade → ∃ u, exec (.upgrade slot line) s = .next u ∧ nacked u)) ∧
      (prefetches → ∃ u, exec (.prefetch slot line .ok) s = .next u ∧ nacked u)) ∧
    (s.blocked h.val line (.slot slot) = false → (s.sfGet h.val line).isSome = true →
      (∀ e ∈ (s.slice h.val).errs, e.1 ≠ line) →
      (s.outReq (.slot slot) line = some o →
        (o.kind = .readShared → ∃ u, exec (.readShared slot line .ok) s = .next u ∧
          opened u .readShared .share (if named.isEmpty then .e else .s)) ∧
        (o.kind = .readOwn → ∃ u, exec (.readOwn slot line .ok) s = .next u ∧ opened u .readOwn .inv mine) ∧
        (o.kind = .upgrade → ∃ u, exec (.upgrade slot line) s = .next u ∧
          opened u (if own.isNone then .readOwn else .upgrade) .inv mine)) ∧
      (prefetches → ∃ u, exec (.prefetch slot line .ok) s = .next u ∧ opened u .prefetch .share .s))) ∧
  ∀ (s : State) (r : Requester) (line : LineNo) (o : Outstanding), s.outReq r line = some o → o.nacked = true →
    (∃ u, exec (.cancel r line) s = .next u ∧ u.outReq r line = none ∧ u.holders = s.holders ∧ u.mem = s.mem) ∧
    (o.dropped = false → ∃ u, exec (.nackResend r line) s = .next u ∧
      u.outReq r line = some { o with nacked := false } ∧ { u with outReqs := s.outReqs } = s)

/-- R275 to R286, Table 10.3. -/
def Obligations.SnoopsAndCompletion : Prop :=
  (∀ (s : State) (slot : Slot) (line : LineNo) (h : Slice) (t : Txn), s.homeSlice line = some h →
    s.txnAt h.val line = some t → s.outStruck slot = false → s.cacheErr slot line = false → s.homeWaits line = false →
    ((s.holder slot.val).evict.any fun c => c.line = line && (c.st == .m || c.st == .o)) = false →
    let sent (k : Snoop) : Prop := ∃ m ∈ t.snoops, m.slot = slot ∧ m.kind = k ∧ m.answer = none
    let recorded (k : Snoop) (a : SnoopAnswer × Option Moesi) (v : Option (Line × Bool)) : Txn := { t with
      snoops := t.snoops.map fun m => if m.slot = slot ∧ m.kind = k ∧ m.answer = none then { m with answer := some a } else m
      data := v }
    ((s.holder slot.val).stateOf line = none →
      let missed (k : Snoop) (out : Host.Outcome State Fault Refusal) : Prop := sent k → ∃ u, out = .next u ∧
        u.txnAt h.val line = some (recorded k (.miss, none) t.data) ∧ u.holders = s.holders ∧ u.mem = s.mem
      missed .share (exec (.snpShare slot line) s) ∧ missed .inv (exec (.snpInv slot line) s) ∧
      missed .clean (exec (.snpClean slot line) s) ∧ missed .peek (exec (.snpPeek slot line) s) ∧
      missed .probe (exec (.snpProbe slot line) s) ∧ missed .recover (exec (.snpRecover slot line) s)) ∧
    (∀ (c : CLine), (s.holder slot.val).find line = some c → s.holdOn slot line = false →
      let dirty : Bool := c.st == .m || c.st == .o
      let byState : SnoopAnswer := if dirty then .data else .hit
      let met (k : Snoop) (st' : Option Moesi) (ans : SnoopAnswer) (brings wr : Bool)
          (out : Host.Outcome State Fault Refusal) : Prop := sent k → ∃ u, out = .next u ∧
        u.txnAt h.val line = some (recorded k (ans, some c.st) (if brings then some (c.data, c.poison) else t.data)) ∧
        ((u.holder slot.val).find line).map (·.st) = st' ∧
        (wr = true → ∀ tile off, s.place (lineAddr line) = .dram tile off →
          s.chanIssues (s.chanOf tile off) = true → u.memLine line = c.data ∧ u.isPoison line = c.poison)
      met .share (some (if dirty then .o else .s)) byState dirty dirty (exec (.snpShare slot line) s) ∧
      met .inv none byState dirty dirty (exec (.snpInv slot line) s) ∧
      met .clean (some (if c.st = .m then .e else if c.st = .o then .s else c.st)) byState false dirty
        (exec (.snpClean slot line) s) ∧
      met .peek (some c.st) byState false false (exec (.snpPeek slot line) s) ∧
      met .probe (some c.st) .hit false false (exec (.snpProbe slot line) s) ∧
      met .recover (some c.st) .data false true (exec (.snpRecover slot line) s))) ∧
  (∀ (s : State) (slot : Slot) (line : LineNo) (h : Slice) (t : Txn) (m : SnoopMsg) (a : SnoopAnswer) (st : Option Moesi),
    s.homeSlice line = some h → s.txnAt h.val line = some t →
    (t.snoops.find? fun m => m.slot = slot && m.answer.isSome && !m.received) = some m → m.answer = some (a, st) →
    (a = .held → (∀ x ∈ (s.slice h.val).txns, x.backInv ≠ some line) → ∃ u, exec (.snoopAnswer slot line) s = .next u ∧
      u.txnAt h.val line = none ∧ (u.outReq t.req line).map (·.nacked) = some true ∧ u.mem = s.mem) ∧
    (a ≠ .held → a ≠ .wbPending → t.kind ≠ .maint → ∃ u, exec (.snoopAnswer slot line) s = .next u ∧
      u.txnAt h.val line = some { t with
        snoops := t.snoops.map fun x => if x.slot = slot then { x with received := true } else x
        grant := if (t.kind = .readOwn ∨ t.kind = .upgrade) ∧ (st = some .m ∨ st = some .o) then .m else t.grant } ∧
      u.holders = s.holders ∧ u.mem = s.mem)) ∧
  ∀ (s : State) (slot : Slot) (line : LineNo) (h : Slice) (t : Txn), s.homeSlice line = some h →
    s.txnAt h.val line = some t → t.req = .slot slot → t.delivered = true →
    ∃ u, exec (.complete (.slot slot) line) s = .next u ∧ u.txnAt h.val line = none ∧ u.holders = s.holders ∧
      u.mem = s.mem ∧ ∀ e : SfEntry, s.sfGet h.val line = some e → t.kind = .readOwn ∨ t.kind = .upgrade →
        ∃ e', u.sfGet h.val line = some e' ∧ e'.owner = BitVec.ofNat 6 (ownerCode (h.val / 6) slot.val) ∧
          e'.ostate = (if t.grant = .m then 1 else 0) ∧ e'.pin = false

/-- R248, R249, R263, R275, R276, R294, R295, R299, R306. -/
def Obligations.EvictionsAndAgents : Prop :=
  (∀ (s : State) (slot : Slot) (line : LineNo) (h : Slice) (c : CLine), s.homeSlice line = some h →
    s.homeLive (lineAddr line) = true → s.outStruck slot = false → s.fillWaits line (s.slotWays slot (h.val / 6)) = false →
    (((s.holder slot.val).evict.find? fun c => c.line = line && (c.st == .m || c.st == .o)) = some c →
      s.cacheErr slot line = false → s.homeWaits line = false → ∃ u, exec (.writeback slot line) s = .next u ∧
        (u.holder slot.val).evict = (s.holder slot.val).evict.filter (fun y => y ≠ c) ∧
        (u.holder slot.val).l2 = (s.holder slot.val).l2 ∧ u.lcs = s.lcs) ∧
    (((s.holder slot.val).evict.find? fun c => c.line = line && (c.st == .e || c.st == .s)) = some c →
      s.blocked h.val line (.slot slot) = false → ∃ u, exec (.evictClean slot line) s = .next u ∧
        (u.holder slot.val).evict = (s.holder slot.val).evict.filter (fun y => y ≠ c) ∧ u.lcs = s.lcs)) ∧
  (∀ (s : State) (h : Slice) (v : Victim) (rest : List Victim) (tile off : Nat), (s.slice h.val).victims = v :: rest →
    s.place (lineAddr v.old.line) = .dram tile off → s.chanIssues (s.chanOf tile off) = true →
    ∃ u, exec (.victimAccepted h) s = .next u ∧ (u.slice h.val).victims = rest ∧
      (u.slice h.val).basin = (s.slice h.val).basin ++ [v.fill] ∧ u.memLine v.old.line = v.old.data ∧
      u.isPoison v.old.line = v.old.poison) ∧
  (∀ (s : State) (m : Master) (a : Word) (size n : Nat), s.ringsRun = true →
    n = min (max size 1) (128 - a.toNat % 128) →
    ((s.outReq (s.requester m) (lineOfAddr a.toNat)).any fun o => o.nacked) = false →
    s.fwPass m a.toNat n needR = true →
    (s.memReachable a.toNat = false → exec (.peek m a size .ok) s = .next (s.respond m .error)) ∧
    (∀ h : Slice, s.memReachable a.toNat = true → s.homeSlice (lineOfAddr a.toNat) = some h →
      s.homesServe (s.requester m) m [⟨a.toNat, n, .peek⟩] = true → (∀ e ∈ (s.slice h.val).errs, e.1 ≠ lineOfAddr a.toNat) →
      (∀ x ∈ s.slotsWith (lineOfAddr a.toNat), s.cacheErr x (lineOfAddr a.toNat) = false) → ∃ u, exec (.peek m a size .ok) s = .next u ∧
        u.respOf m = some (if (s.freshBytes a.toNat n).2 then .poison else .bytes (s.freshBytes a.toNat n).1) ∧
        u.mem = s.mem ∧ u.holders = s.holders ∧ u.lcs = s.lcs)) ∧
  (∀ (s : State) (a : Word) (bs : List Byte) (line : LineNo), s.ringsRun = true → line = lineOfAddr a.toNat →
    bs.length = 128 → a.toNat % 128 = 0 →
    ((s.outReq (s.requester .keeper) line).any fun o => o.nacked) = false →
    (s.memReachable a.toNat = false → exec (.invWrite .keeper a bs) s = .next (s.respond .keeper .error)) ∧
    (∀ (h : Slice) (tile off : Nat), s.memReachable a.toNat = true → s.homeSlice line = some h →
      s.homesServe (s.requester .keeper) .keeper [⟨a.toNat, 128, .invWrite⟩] = true →
      (∀ e ∈ (s.slice h.val).errs, e.1 ≠ line) → (∀ x ∈ s.slotsWith line, s.cacheErr x line = false) →
      s.place (lineAddr line) = .dram tile off → s.chanIssues (s.chanOf tile off) = true →
      ∃ u, exec (.invWrite .keeper a bs) s = .next u ∧ u.memLine line = lineOf bs ∧ u.isPoison line = false ∧
        u.respOf .keeper = some .ok)) ∧
  (∀ (s : State) (lc : Lc) (slot : Slot) (trained line : LineNo) (k : Fin 16), (s.lc lc.val).host = some slot →
    s.lcRuns lc = true → trained ∈ (s.holder slot.val).trained → trained.toNat / 32 = line.toNat / 32 → (s.place (lineAddr line)).isMemory = true →
    s.fwPass (.core lc) (lineAddr line) 128 needR = true → (s.holder slot.val).holds line = false →
    ((s.holder slot.val).pfReqs.any fun r => r.line = line) = false →
    ∃ u, exec (.hardwarePrefetch lc trained line k) s = .next u ∧
      (u.holder slot.val).pfReqs = (s.holder slot.val).pfReqs ++ [⟨line, k.val⟩] ∧ { u with holders := s.holders } = s) ∧
  (∀ (s : State) (slot : Slot) (line : LineNo) (r : PfReq) (t : Txn),
    ((s.holder slot.val).pfReqs.find? fun r => r.line = line) = some r → s.txn line = some t →
    t.req = .slot slot → t.kind = .prefetch → t.ready = true → t.delivered = false →
    s.homeLive (lineAddr line) = true →
    ((s.holder slot.val).evict.any fun c => c.line = line) = false →
    ∃ u, exec (.prefetchFill slot line) s = .next u ∧ (u.holder slot.val).side =
      (if 24 ≤ (s.holder slot.val).side.length then (s.holder slot.val).side.drop 1 else (s.holder slot.val).side) ++
        [⟨line, (t.data.getD (s.freshest line)).1, (t.data.getD (s.freshest line)).2, false, r.stream⟩] ∧
      (u.holder slot.val).l2 = (s.holder slot.val).l2 ∧ u.mem = s.mem) ∧
  (∀ (s : State) (t : Ct) (n : Nat) (rest : List Nat), (s.ct t.val).reclaims = n :: rest →
    s.tileLive (1 + t.val) = true → ∃ u, exec (.reclaimDone t) s = .next u ∧ (u.ct t.val).reclaims = rest ∧
      (u.ct t.val).slicesDone = (if rest.isEmpty then 0x3F else 0) ∧ u.fld (.cohReclaim t) 31 0 = n % 2 ^ 32 ∧
      u.mem = s.mem ∧ u.holders = s.holders) ∧
  ∀ (s : State) (m : Master) (t : Ct), s.admits m (CsReg.cohBrlog t).addr needR true = true →
    ((s.ct t.val).brlog = [] → exec (.cohBrlogRead m t) s = .next (s.respond m (.data 0))) ∧
    (∀ e rest, (s.ct t.val).brlog = e :: rest → exec (.cohBrlogRead m t) s =
      .next ((s.modCt t.val fun c => { c with brlog := rest }).respond m (.data e)))

/-- R265 to R270. -/
def Obligations.MaintenanceOperations : Prop :=
  (∀ (s : State) (m : Master) (h : Slice) (all discard : Bool), s.admits m (CsReg.maintCtl h).addr needW true = true →
    let first : LineNo := BitVec.ofNat 45 (s.reg (.maintFirst h)).toNat
    let last : LineNo := BitVec.ofNat 45 (s.reg (.maintLast h)).toNat
    let busy : Prop := s.maintBusy h = true ∨ (all = true ∧ ∃ k : Slice, s.maintBusy k = true)
    let fits (op : Nat) : Prop := first.toNat ≤ last.toNat ∧ (discard = true → op = 2 ∧ s.masterLevel m ≠ 0) ∧
      s.maintGranted m first.toNat last.toNat = true
    let refused (v : Nat) : State := (s.respond m .ok).setFld (.maintStatus h) 62 60 v
    let after (op : Nat) (u : State) : Prop :=
      (busy → u = refused 1) ∧
      (¬ busy → s.runOrQuiesce = false → u = refused 2) ∧
      (¬ busy → s.runOrQuiesce = true → ¬ fits op → u = refused 3) ∧
      (¬ busy → s.runOrQuiesce = true → fits op →
        u.fld (.maintStatus h) 62 60 = 0 ∧ u.mem = s.mem ∧ u.holders = s.holders ∧ u.respOf m = some .ok ∧
        (∀ k : Slice, k = h ∨ all = true → ∃ o, (u.slice k.val).maint = some o ∧ o.op = BitVec.ofNat 2 op ∧
          o.discard = discard ∧ o.first = first ∧ o.last = last ∧ o.issuer = h ∧ o.finished = false ∧
          o.todo = s.maintLines k.val first last ∧ u.fld (.maintStatus k) 47 47 = 0 ∧ u.fld (.maintStatus k) 46 0 = 0) ∧
        ∀ k : Slice, k ≠ h → all = false → u.slice k.val = s.slice k.val)
    (∃ u : State, exec (.maintClean m h all discard) s = .next u ∧ after 1 u) ∧
    (∃ u : State, exec (.maintInvalidate m h all discard) s = .next u ∧ after 2 u) ∧
    ∃ u : State, exec (.maintCleanInvalidate m h all discard) s = .next u ∧ after 3 u) ∧
  (∀ (s : State) (h : Slice) (line : LineNo) (o : MaintOp) (r : Requester),
    r = .agent (BitVec.ofNat 16 (maintSrc h.val)) → (s.slice h.val).maint = some o → o.finished = false →
    line ∈ o.todo.take 16 → s.homeSlice line = some h → ((s.outReq r line).any fun x => x.nacked) = false →
    s.refuses h.val line r (if o.op = 1 then .peek else .maint) = false → s.homeWaits line = false →
    (∀ e ∈ (s.slice h.val).errs, e.1 ≠ line) → (∀ x ∈ s.slotsWith line, s.cacheErr x line = false) →
    ∃ u, exec (.maintAction h line) s = .next u ∧ (u.slice h.val).maint = some { o with
      todo := o.todo.filter (· ≠ line), lines := o.lines + 1, poisoned := o.poisoned || (s.freshest line).2 } ∧
      (o.op ≠ 1 → line ∉ o.touched → ∀ b ∈ (u.slice h.val).basin, b.line ≠ line)) ∧
  ∀ (s : State) (h : Slice) (o : MaintOp), (s.slice h.val).maint = some o → o.finished = false → o.todo = [] →
    ∃ u, exec (.maintDone h) s = .next u ∧ (u.slice h.val).maint = some { o with finished := true } ∧
      u.fld (.maintStatus h) 46 32 = 16384 ∧ u.mem = s.mem ∧ u.holders = s.holders

/-- R315 to R330, R499. -/
def Obligations.DramControllers : Prop :=
  (∀ (s : State) (c : Chan) (line : LineNo) (t off lead : Nat) (p : Option Parcel), s.onChannel c line = some (t, off) →
    lead = s.chanOf t off →
    let paired : Prop := (s.map t).stripe = true ∧ line ∈ (s.map t).pairBuf
    let served : Prop := ∃ e ∈ (s.chan lead).writeQ, e.line = line ∧ e.mask = fullMask
    (served → exec (.mcRead c line p .ok) s = .next s) ∧
    (¬ served → paired → exec (.mcRead c line p .ok) s =
      .next (s.modMap t fun m => { m with pairBuf := pbUse m.pairBuf line })) ∧
    (s.chanIssues lead = true →
      (¬ served → ¬ paired → ∃ u, exec (.mcRead c line p .ok) s = .next u ∧
        (u.chan c.val).burstTotal = (s.chan c.val).burstTotal + 1 ∧ u.mem = s.mem ∧
        (s.dramGood t off = true → u.poison = s.poison) ∧
        ((s.map t).stripe = true → companion line off ∈ (u.map t).pairBuf)) ∧
      ∀ (mask : BitVec 128) (d : Line) (poison : Bool), ∃ u, exec (.mcWrite c line mask d poison p .ok) s = .next u ∧
        (u.chan c.val).burstTotal = (s.chan c.val).burstTotal + (if mask = fullMask then 1 else 2) ∧
        u.memLine line = (if mask = fullMask then d else lineMerge (s.memLine line) d mask) ∧
        (mask = fullMask → u.isPoison line = poison) ∧
        (mask ≠ fullMask → s.dramGood t off = true → u.isPoison line = (s.readsPoison line || poison)) ∧
        ∀ l, l ≠ line → u.memLine l = s.memLine l) ∧
    (s.chanIssues lead = false → (s.chan lead).st ≠ .failed →
      (¬ served → ¬ paired → s.rqLen lead < s.rqMax lead → exec (.mcRead c line p .ok) s =
        .next (s.modChan lead fun x => { x with readQ := x.readQ ++ [line] })) ∧
      ∀ (mask : BitVec 128) (d : Line) (poison : Bool), s.wqLen lead < s.wqMax lead →
        ∃ u, exec (.mcWrite c line mask d poison p .ok) s = .next u ∧ u.mem = s.mem ∧
          (u.chan lead).writeQ = wqAccept (s.chan lead).writeQ ⟨line, mask, d, poison, false, .ok⟩) ∧
    ((s.chan c.val).issues = true →
      (∃ u, exec (.patrolRead c line .ok) s = .next u ∧ u.mem = s.mem ∧ (s.dramGood t off = true → u.poison = s.poison)) ∧
      (∀ w : Bool, exec (.caParityError c line w false) s = .next ((s.bump (.mcErrcnt c) 15 8 1).report (ddrSrc c) 0x35
        clsCorrected (lineAddr line))) ∧
      (∃ u, exec (.caParityError c line false true) s = .next u ∧ u.mem = s.mem ∧ u.poison = s.poison ∧
        (u.chan lead).caPoison = (s.chan lead).caPoison ++ [line] ∧ ((s.chan c.val).errlog.length < 16 →
          (u.chan c.val).errlog = (s.chan c.val).errlog ++ [errWords 3 (lineAddr line) 0 (s.posOf t off)])) ∧
      ∃ u, exec (.caParityError c line true true) s = .next u ∧ (u.chan c.val).st = .retraining ∧
        (u.chan c.val).caWrite = some ⟨line, fullMask, s.memLine line, s.isPoison line, true, .ok⟩ ∧ u.mem = s.mem ∧
        ((s.chan c.val).errlog.length < 16 →
          (u.chan c.val).errlog = (s.chan c.val).errlog ++ [errWords 4 (lineAddr line) 0 (s.posOf t off)]))) ∧
  (∀ (s : State) (c : Chan) (b : Fin 128), (s.chan c.val).issues = true →
    (∃ u, exec (.refreshDue c b) s = .next u ∧ Table.get 0 (u.chan c.val).postponed b.val = 0 ∧
      Table.get none (u.chan c.val).openRow b.val = none ∧ u.mem = s.mem) ∧
    (∀ r rest, Table.get [] (s.chan c.val).neighbours b.val = r :: rest → ∃ u, exec (.neighbourRefresh c b) s = .next u ∧
      Table.get [] (u.chan c.val).neighbours b.val = rest ∧
      Table.get 0 (u.chan c.val).raa b.val = Table.get 0 (s.chan c.val).raa b.val + 1 ∧ u.mem = s.mem) ∧
    (∀ d : Dimm, (s.chan c.val).dimm = some d → s.rfmOn c = true → d.raaimt ≤ Table.get 0 (s.chan c.val).raa b.val →
      ∃ u, exec (.rfm c b) s = .next u ∧
        Table.get 0 (u.chan c.val).raa b.val = Table.get 0 (s.chan c.val).raa b.val - d.raaimt ∧ u.mem = s.mem) ∧
    (s.mode = .hold ∨ s.poweringDown = true ∨
        (s.fld (.mcPwr (s.governs c)) 31 16 ≠ 0 ∧ s.rqLen c.val = 0 ∧ s.wqLen c.val = 0) →
      exec (.selfRefreshEntry c) s = .next (s.modChan c.val fun x => { x with sr := .entering, openRow := [] }))) ∧
  ∀ (s : State) (c : Chan),
    let drained (q : List WqEntry) (u : State) : Prop :=
      (u.chan c.val).writeQ = [] ∧ (u.chan c.val).readQ = [] ∧
      (∀ e ∈ q, e.mask = fullMask → (∀ e' ∈ q, e'.line = e.line → e' = e) →
        u.memLine e.line = e.data ∧ u.isPoison e.line = e.poison) ∧
      ∀ l, (∀ e ∈ q, e.line ≠ l) → u.memLine l = s.memLine l
    ((s.chan c.val).st = .retraining → ∀ b : Fin 128, ∃ u, exec (.refreshDue c b) s = .next u ∧
      Table.get 0 (u.chan c.val).postponed b.val = min 4 (Table.get 0 (s.chan c.val).postponed b.val + 1) ∧ u.mem = s.mem) ∧
    ((s.chan c.val).dimm.isSome = true → ∀ hot : Bool, exec (.dimmThermalChange c hot) s =
      .next (s.modChan c.val fun x => { x with hot := hot })) ∧
    ((s.chan c.val).sr = .entering → exec (.selfRefreshEntryDone c) s =
      .next (s.modChan c.val fun x => { x with st := .selfRefresh, sr := .none })) ∧
    ((s.chan c.val).st = .selfRefresh → (s.chan c.val).sr = .none → s.rqLen c.val ≠ 0 ∨ s.wqLen c.val ≠ 0 →
      exec (.selfRefreshExit c) s = .next (s.modChan c.val fun x => { x with sr := .exiting })) ∧
    ((s.chan c.val).sr = .exiting → (s.chan c.val).caWrite = none → (s.map (c.val / 5)).stripe = false →
      ∃ u, exec (.selfRefreshExitDone c) s = .next u ∧
        (u.chan c.val).st = (if s.mode = .hold then .selfRefresh else .active) ∧ (u.chan c.val).sr = .none ∧
        drained (s.chan c.val).writeQ u) ∧
    (∀ e, (s.chan c.val).caWrite = some e →
      ((s.chan c.val).sr = .none → (s.map (c.val / 5)).stripe = false → ∃ u, exec (.caRetrainDone c true true) s = .next u ∧
        (u.chan c.val).st = .active ∧ (u.chan c.val).caWrite = none ∧ drained (e :: (s.chan c.val).writeQ) u) ∧
      ∀ ok again : Bool, (ok && again) = false → ∃ u, exec (.caRetrainDone c ok again) s = .next u ∧
        (u.chan c.val).st = .failed) ∧
    ((s.chan c.val).st = .training →
      exec (.ddrTrainingDone c true) s = .next (s.modChan c.val fun x => { x with st := .active }) ∧
      ∃ u, exec (.ddrTrainingDone c false) s = .next u ∧ (u.chan c.val).st = .failed) ∧
    (s.mode = .compose → (s.chan c.val).st = .active → (s.chan c.val).zeroed = false →
      ∃ u, exec (.dramZeroingDone c) s = .next u ∧ (u.chan c.val).zeroed = true ∧
        (∀ e ∈ u.mem, ∀ t off, s.place e.1 = .dram t off → s.chanOf t off ≠ c.val) ∧
        ∀ l ∈ u.poison, ∀ t off, s.place (l * 128) = .dram t off → s.chanOf t off ≠ c.val) ∧
    exec (.shareWindowEnd c) s = .next (s.modChan c.val fun x => { x with served := [], burstTotal := 0 }) ∧
    ∀ m : Master, s.admits m (CsReg.mcErrlog0 c).addr needR true = true →
      ((s.chan c.val).errlog = [] → exec (.mcErrlogRead m c) s =
        .next ((s.setReg (.mcErrlog1 c) 0).respond m (.data 0))) ∧
      ∀ e rest, (s.chan c.val).errlog = e :: rest → exec (.mcErrlogRead m c) s =
        .next (((s.modChan c.val fun x => { x with errlog := rest }).setReg (.mcErrlog1 c) e.2).respond m (.data e.1))

/-- R332 to R351. -/
def Obligations.QueueProducers : Prop :=
  (∀ (s : State) (m : Master) (q : Qn) (user : Fin 16) (v : Word),
    s.admits m (CsReg.qmEnq q user).addr needW (s.holdsRes m 7 q.val) = true →
    let x := s.queue q.val
    let w : HeldWrite := ⟨m, .enq (BitVec.ofNat 4 user.val), v, false⟩
    (s.qEnabled q = false → exec (.qmEnq m q user v) s = .next (s.respond m .error)) ∧
    (s.qEnabled q = true →
      (s.mode = .quiesce ∨ (s.mode ≠ .quiesce ∧ m ∉ x.aborted ∧ x.opener = none ∧ s.qFull q = true ∧
          s.qOvertop q = false) → exec (.qmEnq m q user v) s =
        .next ((s.modQueue q.val fun y => { y with held := y.held ++ [w] }).respond m .held)) ∧
      (s.mode ≠ .quiesce → m ∉ x.aborted → x.opener = none → x.held = [] → s.qFull q = false →
        ∃ u, exec (.qmEnq m q user v) s = .next u ∧ u.respOf m = some .ok ∧ u.mem = s.mem ∧ u.lcs = s.lcs ∧
          u.queue q.val = { x with words := x.words ++ [⟨v, 0x80 ||| BitVec.ofNat 8 user.val, false⟩] }) ∧
      (∀ (o : Master) (n : Nat), s.mode ≠ .quiesce → m ∉ x.aborted → x.opener = some (o, n) →
        (o ≠ m → exec (.qmEnq m q user v) s =
          .next ((s.modQueue q.val fun y => { y with held := y.held ++ [w] }).respond m .held)) ∧
        (o = m → s.qFull q = false → ∃ u, exec (.qmEnq m q user v) s = .next u ∧ u.respOf m = some .ok ∧ u.mem = s.mem ∧
          u.queue q.val = { x with words := x.words ++ [⟨v, 0xC0 ||| BitVec.ofNat 8 user.val, false⟩]
                                   opener := some (m, n + 1) })))) ∧
  (∀ (s : State) (m : Master) (q : Qn) (v : Word) (x : QSt), x = s.queue q.val → s.qEnabled q = true →
    s.mode ≠ .quiesce →
    (s.admits m (CsReg.qmOpen q).addr needW (s.holdsRes m 7 q.val) = true → x.opener = none → x.held = [] →
      s.qFull q = false → ∃ u, exec (.qmOpen m q v) s = .next u ∧ u.respOf m = some .ok ∧
        (u.queue q.val).words = x.words ++ [⟨0, 0xE0 ||| (v.setWidth 4).setWidth 8, false⟩] ∧
        (u.queue q.val).opener = some (m, 0) ∧ u.mem = s.mem) ∧
    (∀ (n : Nat) (t : List QWord) (w : QWord) (r : List QWord),
      s.admits m (CsReg.qmClose q).addr needW (s.holdsRes m 7 q.val) = true → x.opener = some (m, n) →
      x.words = t ++ w :: r → r.length = n →
      (w.spilled = false → w.isPoison = false → exec (.qmClose m q) s = .next ((s.setQueue q.val { x with
        words := t ++ { w with data := BitVec.ofNat 64 (n % 2 ^ 24) } :: r, opener := none }).respond m .ok)) ∧
      ∃ u, exec (.qmClose m q) s = .next u ∧ u.respOf m = some .ok ∧ (u.queue q.val).opener = none ∧ u.mem = s.mem) ∧
    (∀ (w : HeldWrite) (t : List HeldWrite), x.held = w :: t →
      s.qBlocked q w true = false → ∃ u, exec (.heldWriteAccept q) s = .next u ∧ (u.queue q.val).held = t ∧
        u.respOf w.m = some .ok ∧ u.mem = s.mem)) ∧
  (∀ (s : State) (m : Master) (q : Qn) (v : Word),
    s.admits m (CsReg.qmQcfg q).addr needW (s.holdsRes m 7 q.val) = true →
    (s.qEnabled q = false → v.getLsbD 63 = true → bits v 60 56 = 4 ∨ (4 < bits v 60 56 ∧ bits v 60 56 ≤ 24 ∧
        s.qSpillOk q v = true) → ∃ u, exec (.qmQcfgWrite m q v) s = .next u ∧
      u.reg (.qmQcfg q) = softWrite (.qmQcfg q) (s.reg (.qmQcfg q)) v ∧ u.fld (.qmQstat q) 9 9 = 0 ∧
      (u.queue q.val).words = [] ∧ (u.queue q.val).retained = [] ∧ (u.queue q.val).opener = none ∧
      (u.queue q.val).held = [] ∧ u.mem = s.mem) ∧
    (s.qEnabled q = false → v.getLsbD 63 = true → bits v 60 56 < 4 ∨ 24 < bits v 60 56 ∨
        (bits v 60 56 ≠ 4 ∧ s.qSpillOk q v = false) → exec (.qmQcfgWrite m q v) s =
      .next ((s.respond m .ok).setFld (.qmQstat q) 9 9 1)) ∧
    (s.qEnabled q = false → v.getLsbD 63 = false → exec (.qmQcfgWrite m q v) s =
      .next ((s.respond m .ok).setReg (.qmQcfg q) (softWrite (.qmQcfg q) (s.reg (.qmQcfg q)) v))) ∧
    (s.qEnabled q = true → v.getLsbD 63 = true → exec (.qmQcfgWrite m q v) s =
      .next ((s.respond m .ok).setFld (.qmQcfg q) 61 61 (bits v 61 61))) ∧
    (s.qEnabled q = true → v.getLsbD 63 = false → ∃ u, exec (.qmQcfgWrite m q v) s = .next u ∧
      (u.queue q.val).words = [] ∧ (u.queue q.val).retained = [] ∧ (u.queue q.val).held = [] ∧
      u.fld (.qmQcfg q) 63 63 = 0 ∧ u.mem = s.mem)) ∧
  ∀ (s : State) (m : Master) (q : Qn) (x : QSt), x = s.queue q.val →
    (s.admits m (CsReg.qmQctl q).addr needW (s.holdsRes m 7 q.val) = true →
      (s.qEnabled q = true → ∃ u, exec (.qmFlush m q) s = .next u ∧ (u.queue q.val).words = [] ∧
        (u.queue q.val).retained = [] ∧ (u.queue q.val).opener = none ∧ (u.queue q.val).held = x.held ∧
        u.fld (.qmQflushed q) 24 0 = (x.retained.length + x.words.length) % 2 ^ 25 ∧ u.mem = s.mem) ∧
      ∃ u, exec (.qmReset m q) s = .next u ∧ u.queue q.val = QSt.init ∧ u.qEnabled q = false ∧
        u.reg (.qmQevt q) = (CsReg.qmQevt q).resetValue ∧ u.mem = s.mem) ∧
    (s.admits m (CsReg.qmMark q).addr needW (s.holdsRes m 7 q.val) = true → s.qEnabled q = true →
      exec (.qmMarkSet m q) s = .next ((s.respond m .ok).setQueue q.val
        { x with retained := [], pos := x.pos + x.retained.length, mark := true, markLost := false }) ∧
      exec (.qmMarkClear m q) s = .next ((s.respond m .ok).setQueue q.val
        { x with retained := [], pos := x.pos + x.retained.length, mark := false, markLost := false }))

/-- R333, R342 to R356. -/
def Obligations.QueueConsumers : Prop :=
  (∀ (s : State) (m : Master) (q : Qn) (x : QSt), x = s.queue q.val →
    let answers (i : Instr) (n : Nat) : Prop := exec i s = .next (s.qAnswer m q (BitVec.ofNat 64 n) 0)
    (s.admits m (CsReg.qmDeq q).addr needR (s.holdsRes m 7 q.val) = true →
      (s.qEnabled q = false → answers (.qmDeq m q .ok) 6) ∧
      (s.qEnabled q = true → s.mode = .quiesce → answers (.qmDeq m q .ok) 5) ∧
      (s.qEnabled q = true → s.mode ≠ .quiesce →
        (x.words = [] → answers (.qmDeq m q .ok) 1) ∧
        ∀ (w : QWord) (t : List QWord), x.words = w :: t → x.opener = none → w.spilled = false →
          ∃ u, exec (.qmDeq m q .ok) s = .next u ∧ u.respOf m = some (.data w.data) ∧ u.queue q.val =
            (if x.mark then { x with words := t, retained := x.retained ++ [w] }
              else { x with words := t, pos := x.pos + 1 }) ∧
            (∃ l ∈ u.tags, l.m = m ∧ l.tag = w.tag ∧ l.index = BitVec.ofNat 13 (q.val % 8192)) ∧ u.mem = s.mem)) ∧
    (s.admits m (CsReg.qmRewind q).addr needR (s.holdsRes m 7 q.val) = true → s.qEnabled q = true →
      s.mode ≠ .quiesce → x.markLost = false →
      (x.mark = false → answers (.qmRewind m q .ok) 4) ∧
      ∀ (w : QWord) (r : List QWord), x.mark = true → x.retained = w :: r → x.opener = none → w.spilled = false →
        ∃ u, exec (.qmRewind m q .ok) s = .next u ∧ u.respOf m = some (.data w.data) ∧
          u.queue q.val = { x with words := r ++ x.words, retained := [w] } ∧ u.mem = s.mem)) ∧
  (∀ (s : State) (q : Qn), (∃ u, exec (.spillBlockMove q true .ok) s = .next u ∧
      (u.queue q.val).words.map (fun w => (w.data, w.tag)) = (s.queue q.val).words.map (fun w => (w.data, w.tag)) ∧
      (u.queue q.val).retained = (s.queue q.val).retained) ∧
    ∃ u, exec (.spillBlockMove q false .ok) s = .next u ∧ u.mem = s.mem ∧
      (u.queue q.val).words.length = (s.queue q.val).words.length ∧
      (u.queue q.val).retained = (s.queue q.val).retained) ∧
  (∀ (s : State) (m : Master) (c : Qdma) (q : Qn) (v : Word), s.admits m (CsReg.qmDmactl c).addr needW true = true →
    c.val / 16 * 8192 + bits v 34 22 = q.val → v.getLsbD 0 = true →
    ((s.dma c.val).busy = true → exec (.qmDmaStart m c v) s = .next ((s.respond m .ok).setFld (.qmDmastat c) 62 60 1)) ∧
    ((s.dma c.val).busy = false → s.qEnabled q = true → m = .keeper ∨ s.holdsRes m 7 q.val = true →
      s.qdmaPolder c = decide (s.queueOwner q = some 16 ∨ s.queueOwner q = none) → bits v 63 40 ≠ 0 →
      s.fld (.qmDmaaddr c) 51 0 % 16 = 0 → ∃ u, exec (.qmDmaStart m c v) s = .next u ∧
        u.dma c.val = ⟨true, v.getLsbD 1, some q, s.fld (.qmDmaaddr c) 51 0, bits v 63 40, false⟩ ∧
        u.fld (.qmDmastat c) 23 0 = 0 ∧ u.mem = s.mem)) ∧
  ∀ (s : State) (c : Qdma) (q : Qn) (x : QdmaSt), x = s.dma c.val → s.mastersStart = true → x.busy = true →
    x.frozen = false → x.queue = some q → s.qEnabled q = true → (s.queue q.val).opener = none →
    s.homesServe (s.requester (.qdma c)) (.qdma c) [⟨x.addr, 16, if x.drain then .invWrite else .peek⟩] = true →
    (∀ (w : QWord) (t : List QWord), x.drain = true →
      s.fwPass (.qdma c) x.addr 16 needW = true → (s.queue q.val).words = w :: t → w.spilled = false →
      ∃ u, exec (.qdmaRecord c) s = .next u ∧ (u.queue q.val).words = t ∧ (u.dma c.val).addr = x.addr + 16 ∧
        (u.dma c.val).left = x.left - 1) ∧
    (∀ bs : List Byte, x.drain = false → (∀ h : Slice, (s.slice h.val).errs = []) → s.fwPass (.qdma c) x.addr 16 needR = true → s.peek x.addr 16 = some (bs, false) →
      (s.queue q.val).held = [] → (s.queue q.val).aborted = [] → s.qFull q = false →
      ∃ u, exec (.qdmaRecord c) s = .next u ∧ (u.queue q.val).words = (s.queue q.val).words ++
          [⟨BitVec.ofNat 64 (leAt bs 0 8), 0x80 ||| ((bs.getD 8 0).setWidth 4).setWidth 8, false⟩] ∧
        (u.dma c.val).addr = x.addr + 16 ∧ (u.dma c.val).left = x.left - 1 ∧ u.mem = s.mem)

/-- R360 to R366, R370, R383 to R387, R392, R415. -/
def Obligations.SubchannelsAndFrames : Prop :=
  (∀ (s : State) (m : Master) (n : Sc) (v : Word),
    (s.admits m (CsReg.scCfg n).addr needW (s.holdsRes m 5 n.val) = true → s.scEnabled n = false →
      v.getLsbD 63 = true →
      (s.scCfgOk n v = true → ∃ u : State, exec (.scCfgWrite m n v) s = .next u.settleMode ∧ (u.sc n.val).st = .idle ∧
        (u.sc n.val).needEstablish = true ∧ (u.sc n.val).holder = none ∧ (u.sc n.val).active = none ∧ u.mem = s.mem ∧
        u.fld (.scStatus n) 51 51 = 0 ∧ u.reg (.scCfg n) = softWrite (.scCfg n) (s.reg (.scCfg n)) v) ∧
      (s.scCfgOk n v = false → exec (.scCfgWrite m n v) s =
        .next ((s.respond m .ok).setFld (.scStatus n) 51 51 1).settleMode)) ∧
    (s.admits m (CsReg.scCfg n).addr needW (s.holdsRes m 5 n.val) = true → v.getLsbD 63 = false →
      (s.scEnabled n = false → exec (.scCfgWrite m n v) s =
        .next ((s.respond m .ok).setReg (.scCfg n) (softWrite (.scCfg n) (s.reg (.scCfg n)) v)).settleMode) ∧
      (s.scEnabled n = true → (s.sc n.val).st = .idle → ∃ u : State, exec (.scCfgWrite m n v) s = .next u.settleMode ∧
        (u.sc n.val).st = .disabled ∧ u.scEnabled n = false ∧ (u.sc n.val).holder = none ∧ u.mem = s.mem)) ∧
    (s.admits m (CsReg.scStart n).addr needW (s.holdsRes m 5 n.val) = true →
      let result (c : Nat) : Prop := exec (.scStart m n v) s =
        .next ((s.respond m .ok).setFld (.scStatus n) 59 56 c)
      (s.runOrQuiesce = false → result 2) ∧
      (s.runOrQuiesce = true → s.scEnabled n = false → result 3) ∧
      (s.runOrQuiesce = true → s.scEnabled n = true → (s.sc n.val).st ≠ .idle → result 1) ∧
      (s.runOrQuiesce = true → s.scEnabled n = true → (s.sc n.val).st = .idle → (∀ h : Slice, (s.slice h.val).errs = []) →
        s.homesServe (s.requester (s.scWriter n)) (s.scWriter n) (s.startReach n (bits v 51 5 * 32)) = true →
        (s.readStart n (bits v 51 5 * 32) = none → ∃ u, exec (.scStart m n v) s = .next u ∧
          u.fld (.scStatus n) 59 56 = 3 ∧ u.scs = s.scs ∧ u.mem = s.mem) ∧
        ∀ b : StartBlock, s.readStart n (bits v 51 5 * 32) = some b → ∃ u, exec (.scStart m n v) s = .next u ∧
          (u.sc n.val).start = some b ∧ (u.sc n.val).listOpen = true ∧
          u.fld (.scClaim n) 31 0 = (s.scListNo n + 1) % 2 ^ 32 ∧ u.fld (.scStatus n) 59 56 = 0 ∧ u.mem = s.mem)) ∧
    (s.admits m (CsReg.scCtl n).addr needW (s.holdsRes m 5 n.val) = true →
      ((s.sc n.val).busy = false → exec (.scClear m n) s =
        .next ((s.respond m .ok).setFld (.scStatus n) 59 56 4)) ∧
      ((s.sc n.val).st = .running → (s.sc n.val).clearing = false → (s.sc n.val).exch.isSome = true →
        (s.sc n.val).post = none → exec (.scClear m n) s = .next (((s.respond m .ok).setFld (.scStatus n) 59 56 0).modSc n.val fun x =>
          { x with st := .clearing, clearing := true })))) ∧
  (∀ (s : State) (n : Sc) (k : Fin 8) (e : Pe) (p : Port) (x : ScSt), x = s.sc n.val → x.active = some k →
    x.holder = some e → s.scPort n k.val = some p → x.st = .running → x.exch = none → x.sent = none → x.post = none →
    x.handoverTo = none → s.scPe n k.val = some e → s.peStarts e = true → s.pathUp n k.val = true →
    (s.creditLeft n = false → exec (.orderEvaluation n) s = .next s.settleMode) ∧
    (s.creditLeft n = true → s.peTurn n e = false → exec (.orderEvaluation n) s = .next (s.peWait n e).settleMode) ∧
    (s.creditLeft n = true → s.peTurn n e = true → x.needEstablish = true →
      ∃ (u : State) (ex : Exchange), exec (.orderEvaluation n) s = .next u.settleMode ∧ (u.sc n.val).exch = some ex ∧
      ex.establishing = true ∧ ex.tag = s.scNextTag n ∧ ex.claim = s.scClaimNo n ∧ u.mem = s.mem) ∧
    (s.creditLeft n = true → s.peTurn n e = true → x.needEstablish = false → (∀ h : Slice, (s.slice h.val).errs = []) →
      s.homesServe (s.requester (.pathEngine e)) (.pathEngine e) (s.orderReach e x.nextOrder.toNat) = true →
      (x.nextOrder.toNat % 32 ≠ 0 → ∃ u : State, exec (.orderEvaluation n) s = .next u.settleMode ∧
        (u.sc n.val).post = some (0x03, x.orderSent)) ∧
      ∀ (bs : List Byte) (elems : List (Nat × Nat)), x.nextOrder.toNat % 32 = 0 →
        s.engineRead e x.nextOrder.toNat 32 = .inl bs → orderOk bs = true → isExchange (leAt bs 0 1) = true →
        s.orderElems e bs = .inl elems → (leAt bs 0 1 = 2 ∨ leAt bs 0 1 = 3 →
          ∀ q ∈ pieces elems 0 (leAt bs 4 4), s.fwRange (.pathEngine e) q.1 q.2 needR = true) →
        ∃ (u : State) (ex : Exchange), exec (.orderEvaluation n) s = .next u.settleMode ∧ (u.sc n.val).exch = some ex ∧
          (u.sc n.val).orderSent = true ∧ ex.path = k ∧ ex.order = x.nextOrder ∧ ex.op = bs.getD 0 0 ∧
          ex.count = leAt bs 4 4 ∧ ex.elems = elems ∧ ex.tag = s.scNextTag n ∧ ex.received = 0 ∧ u.mem = s.mem)) ∧
  ∀ (s : State) (p : Port) (f : Frame) (n : Sc) (ex : Exchange) (x : ScSt), x = s.sc n.val →
    s.frameExch p f = some (n, ex) → (s.port p.val).rxQueue.head? = some f →
    (∀ e ps, s.dataReach p f = some (e, ps) → s.homesServe (s.requester (.pathEngine e)) (.pathEngine e) (puts ps) = true) →
    (frameReserved f = true →
      let ends (u : State) : Prop := (u.sc n.val).post = some (0x06, x.orderSent) ∧ (u.sc n.val).exch = none
      (f.type = fData → ∃ u : State, exec (.dataFrame p f) s = .next u.settleMode ∧ ends u) ∧
      (f.type = fEnd → ∃ u, exec (.endFrame p f) s = .next u ∧ ends u) ∧
      (f.type = fEstablished → ∃ u, exec (.establishedFrame p f) s = .next u ∧ ends u) ∧
      (f.type = fReject → f.payload = [] →
        (f.param = 1 → ∃ u, exec (.staleClaim p f) s = .next u ∧ ends u) ∧
        (f.param = 2 → ∃ u, exec (.seqError p f) s = .next u ∧ ends u) ∧
        (f.param = 3 → ∃ u, exec (.notEstablished p f) s = .next u ∧ ends u))) ∧
    (frameReserved f = false →
      (∀ e : Pe, x.holder = some e → ex.establishing = false →
        (f.type = fData → ex.op = 1 ∨ ex.op = 4 → f.param.toNat = ex.received → ex.received < 2 ^ 25 → f.payload ≠ [] →
          ex.received + f.payload.length ≤ ex.count →
          (∀ q ∈ pieces ex.elems ex.received f.payload.length, s.fwRange (.pathEngine e) q.1 q.2 needW = true ∧
            s.rangeReachable q.1 q.2 = true) →
          ∃ u : State, exec (.dataFrame p f) s = .next u.settleMode ∧
            (u.sc n.val).exch = some { ex with received := ex.received + f.payload.length }) ∧
        (∀ done : Nat, f.type = fEnd → done = f.param.toNat / 2 ^ 16 → (s.pe e.val).frozen = false → f.param.toNat < 2 ^ 41 →
          f.param.toNat / 2 ^ 8 % 2 ^ 8 = 0 → f.payload = [] → done ≤ ex.count →
          (ex.op = 1 ∨ ex.op = 4 → done = ex.received) → ∃ u, exec (.endFrame p f) s = .next u ∧
            (u.sc n.val).exch = none ∧ (u.sc n.val).nextOrder = x.nextOrder + 32 ∧
            (u.sc n.val).lastResidual = BitVec.ofNat 32 (ex.count - done) ∧
            (u.sc n.val).moved = x.moved + BitVec.ofNat 64 done ∧ (u.sc n.val).lastDevstat = f.param.setWidth 8 ∧
            u.fld (.scStatus n) 31 0 = (s.scSeq n + 1) % 2 ^ 32 ∧
            ∀ c : Byte, endCode x.clearing ex (f.param.setWidth 8) (ex.count - done) = some c →
              (u.sc n.val).post = some (c, false))) ∧
      (f.type = fEstablished → ex.establishing = true → f.param = BitVec.ofNat 64 (s.scSeq n) → f.payload = [] →
        ∃ u, exec (.establishedFrame p f) s = .next u ∧ (u.sc n.val).exch = none ∧
          (u.sc n.val).needEstablish = false ∧ u.mem = s.mem) ∧
      (f.type = fReject → f.param = 1 → f.payload = [] → ∃ u, exec (.staleClaim p f) s = .next u ∧ (u.sc n.val).exch = none ∧ (u.sc n.val).holder = none ∧
        (u.sc n.val).post = none ∧ u.mem = s.mem) ∧
      (f.type = fReject → f.param = 2 → f.payload = [] → ∃ u, exec (.seqError p f) s = .next u ∧ (u.sc n.val).exch = none ∧
        (u.sc n.val).post = some (0x06, false) ∧ u.mem = s.mem) ∧
      (f.type = fReject → f.param = 3 → f.payload = [] → ∃ u, exec (.notEstablished p f) s = .next u ∧ (u.sc n.val).exch = none ∧
        (u.sc n.val).post = some (0x07, false) ∧ u.mem = s.mem))

/-- R367 to R379, R388, R390, R395. -/
def Obligations.ClaimsAndPaths : Prop :=
  (∀ (s : State) (n : Sc) (e : Pe) (x : ScSt), x = s.sc n.val → x.asking = some e →
    let granted (u : State) : Prop := (u.sc n.val).holder = some e ∧ (u.sc n.val).asking = none ∧ (u.sc n.val).revoking = false ∧
      u.fld (.scClaim n) 63 32 = (s.fld (.scClaim n) 63 32 + 1) % 2 ^ 32
    (x.revoking = false → x.holder = none → ∃ u, exec (.claimRequest n e) s = .next u ∧ granted u) ∧
    (∀ h : Pe, x.revoking = false → x.holder = some h → h ≠ e → s.peGone h = false →
      exec (.claimRequest n e) s = .next (s.setSc n.val { x with revoking := true })) ∧
    (x.revoking = true → (∃ u, exec (.revocationAck n) s = .next u ∧ granted u) ∧
      ∀ h : Pe, x.holder = some h → ∃ u : State, exec (.revocationTimeout n) s = .next u.settleMode ∧ granted u ∧
        (u.pe h.val).failed = true)) ∧
  (∀ (s : State) (n : Sc) (x : ScSt), x = s.sc n.val →
    (∀ (k : Fin 8) (r : MirrorRec), x.standby = some k → x.sent = some r → s.itLive (s.pathTile n k.val) = true →
      ∃ u, exec (.mirrorRecord n r (recCheck r)) s = .next u ∧ (u.sc n.val).stored = true ∧
        ((u.sc n.val).ownRec = some r ∨ (u.sc n.val).partnerRec = some r) ∧ u.mem = s.mem) ∧
    (x.stored = true → exec (.mirrorAck n) s =
      .next (s.modSc n.val fun x => { x with sent := none, stored := false })) ∧
    (∀ k : Fin 8, x.standby = some k → x.st = .running → x.beatFrozen = false → x.handoverTo = none →
      s.pathUsable n k.val = true → ∃ u : State, exec (.heartbeatTimeout n) s = .next u.settleMode ∧
        (u.sc n.val).handoverTo = some (k, false) ∧ (u.sc n.val).asking = s.scPe n k.val ∧ u.mem = s.mem) ∧
    (∀ (k : Fin 8) (b : Bool), x.handoverTo = some (k, b) → x.asking = none →
      exec (.handover n) s = .next (s.modSc n.val fun x => { x with asking := s.scPe n k.val })) ∧
    (∀ ex : Exchange, x.exch = some ex → s.fld (.scLimits n) 23 16 ≠ 0 → ∃ u : State,
      exec (.orderTimeout n) s = .next u.settleMode ∧ (u.sc n.val).holdoff.getLsbD ex.path.val = true ∧ u.mem = s.mem) ∧
    (∀ k : Fin 8, x.holdoff.getLsbD k.val = true → s.pathUp n k.val = true →
      ∃ u : State, exec (.pathHoldoffExpiry n k) s = .next u.settleMode ∧ (u.sc n.val).holdoff.getLsbD k.val = false ∧ u.mem = s.mem) ∧
    (∀ b : StartBlock, x.start = some b → x.listOpen = true →
      s.homesServe (s.requester (s.scWriter n)) (s.scWriter n) (s.statusReach n) = true →
      (∀ (c : Byte) (d : Bool), x.post = some (c, d) → s.runOrQuiesce = true → ∃ u, exec (.completionPost n) s = .next u ∧
        (u.sc n.val).listOpen = false ∧ (u.sc n.val).post = none ∧
        (u.sc n.val).st = (if x.disableAfter then .disabled else .idle)) ∧
      (x.st = .parked → x.parkCause = 1 → ∃ u, exec (.parkExpiry n) s = .next u ∧ (u.sc n.val).listOpen = false ∧
        (u.sc n.val).st = (if x.disableAfter then .disabled else .idle)))) ∧
  (∀ (s : State) (e : Pe), ∃ u, exec (.heartbeat e) s = .next u ∧ { u with scs := s.scs } = s ∧
    ∀ n : Sc, u.sc n.val = if (s.sc n.val).holder = some e ∧ (s.sc n.val).standby.isSome = true then
      { s.sc n.val with beatFrozen := (s.pe e.val).frozen } else s.sc n.val) ∧
  (∀ (s : State) (e : Pe), (s.pe e.val).failed = false → ∃ u : State, exec (.peInternalFault e) s = .next u.settleMode ∧
    (u.pe e.val).failed = true ∧ (∀ g : Pe, g ≠ e → u.pe g.val = s.pe g.val) ∧ u.mem = s.mem) ∧
  ∀ (s : State) (k : Fin 2),
    (s.mirrorUp.getLsbD k.val = true → ∃ u, exec (.mirrorLinkDown k) s = .next u ∧
      u.mirrorUp.getLsbD k.val = false ∧ (∀ j : Fin 2, j ≠ k → u.mirrorUp.getLsbD j.val = s.mirrorUp.getLsbD j.val) ∧
      (∀ n : Sc, (u.sc n.val).st = (s.sc n.val).st ∧ (u.sc n.val).active = (s.sc n.val).active ∧
        (u.sc n.val).exch = (s.sc n.val).exch ∧ (u.sc n.val).holder = (s.sc n.val).holder) ∧ u.mem = s.mem) ∧
    (s.mirrorUp.getLsbD k.val = false → ∃ u, exec (.mirrorLinkUp k) s = .next u ∧
      u.mirrorUp.getLsbD k.val = true ∧ (∀ j : Fin 2, j ≠ k → u.mirrorUp.getLsbD j.val = s.mirrorUp.getLsbD j.val) ∧
      (∀ n : Sc, (u.sc n.val).st = (s.sc n.val).st ∧ (u.sc n.val).active = (s.sc n.val).active ∧
        (u.sc n.val).exch = (s.sc n.val).exch ∧ (u.sc n.val).holder = (s.sc n.val).holder) ∧
      { u with mirrorUp := s.mirrorUp, scs := s.scs } = s)

/-- R412 to R419, R423. -/
def Obligations.LyvanLinks : Prop :=
  (∀ (s : State) (p : Port),
    let trains (b : Training) : State := s.modPort p.val fun x => { x with train := b }
    (s.inTraining p .reset = true → exec (.lyvanResetDone p) s = .next (trains .detect)) ∧
    (s.inTraining p .detect = true → exec (.lanesDetected p) s = .next (trains .equalize)) ∧
    (s.inTraining p .equalize = true → exec (.equalizationDone p) s = .next (trains .align)) ∧
    (s.inTraining p .waiting = true → exec (.trainingRetry p) s = .next (trains .reset)) ∧
    (∀ rev : Bool, s.inTraining p .align = true → ∃ u, exec (.alignLockHeld p rev) s = .next u ∧
      (u.port p.val).train = .ident ∧ (u.port p.val).reversed = rev ∧ ∃ f : Frame, f.type = 0x12 ∧
        f.param = s.identParam p ∧ (u.port p.val).out = (s.port p.val).out ++ [f]) ∧
    (∀ f : Frame, s.inTraining p .ident = true → f.type = 0x12 →
      (bits f.param 15 8 = s.portProto p → bits f.param 19 16 = s.portWidth p →
        ∃ u : State, exec (.ident p f) s = .next u.settleMode ∧
        (u.port p.val).st = .active ∧ (u.port p.val).peerRxWin = f.rxWin ∧ (u.port p.val).failedOnce = false ∧
        u.mem = s.mem) ∧
      (bits f.param 15 8 ≠ s.portProto p ∨ bits f.param 19 16 ≠ s.portWidth p →
        ∃ u : State, exec (.ident p f) s = .next u.settleMode ∧ (u.port p.val).train = .waiting ∧
        (u.port p.val).failedOnce = true ∧ (u.port p.val).st = .training)) ∧
    ((s.port p.val).st = .training → s.isLyvanPort p = true → (s.port p.val).train ≠ .reset →
      (s.port p.val).train ≠ .waiting → ∃ u, exec (.trainingTimeout p) s = .next u ∧
        (u.port p.val).train = .waiting ∧ (u.port p.val).failedOnce = true ∧
        u.fld (.portStatus p) 31 16 = min (s.fld (.portStatus p) 31 16 + 1) 65535)) ∧
  (∀ (s : State) (p : Port) (f : Frame), s.lyvanActive p = true →
    let x := s.port p.val
    let down (u : State) : Prop := (u.port p.val).st = .training ∧ (u.port p.val).train = .reset ∧
      (u.port p.val).unacked = [] ∧ (u.port p.val).txWait = [] ∧ u.mem = s.mem
    (∃ u : State, exec (.laneLockLost p) s = .next u.settleMode ∧ down u) ∧
    (s.portProto p ≠ 0x21 → ∃ u : State, exec (.codewordErrorLimit p) s = .next u.settleMode ∧ down u) ∧
    (exec (.ack p f) s = .next (s.takeAck p f)) ∧
    (∀ (g : Frame) (k : Nat) (rest : List (Frame × Nat)), x.unacked = (g, k) :: rest → 8 ≤ k →
      ∃ u : State, exec (.replayTimeout p) s = .next u.settleMode ∧ down u) ∧
    (∀ (g : Frame) (k : Nat) (rest : List (Frame × Nat)), x.unacked = (g, k) :: rest → k < 8 →
      ∃ u : State, exec (.replayTimeout p) s = .next u.settleMode ∧ (u.port p.val).out = x.out ++
        (x.unacked.filter fun e => decide ((e.1.lseq - x.txAcked).toNat < 32768)).map (·.1) ∧ u.mem = s.mem) ∧
    (∀ (g : Frame) (k : Nat) (rest : List (Frame × Nat)), ((s.takeAck p f).port p.val).unacked = (g, k) :: rest →
      (8 ≤ k → ∃ u : State, exec (.nak p f) s = .next u.settleMode ∧ down u) ∧
      (k < 8 → ∃ u : State, exec (.nak p f) s = .next u.settleMode ∧ (u.port p.val).out = ((s.takeAck p f).port p.val).out ++
        (((s.takeAck p f).port p.val).unacked.filter fun e =>
          decide ((e.1.lseq - BitVec.ofNat 16 f.param.toNat).toNat < 32768)).map (·.1) ∧ u.mem = s.mem)) ∧
    (x.ackOwed = true → exec (.ackTimer p) s = .next (s.sendCtl p 0x10 0 [])) ∧
    (f.type ≠ 0x10 → f.type ≠ 0x11 → f.type ≠ 0x12 → f.lseq = x.rxNext →
      ∃ u : State, exec (.frameReceive p f .good) s = .next u.settleMode ∧
      (u.port p.val).rxNext = x.rxNext + 1 ∧ (frameKnown f = true → (u.port p.val).rxQueue = x.rxQueue ++ [f]) ∧
      (u.port p.val).ackOwed = true ∧ (u.port p.val).peerRxWin = f.rxWin ∧ u.mem = s.mem) ∧
    (∃ u : State, exec (.frameReceive p f .badCrc) s = .next u.settleMode ∧ (u.port p.val).rxQueue = x.rxQueue ∧
      (u.port p.val).rxNext = x.rxNext ∧ u.fld (.portErrcnt p) 63 48 = min (s.fld (.portErrcnt p) 63 48 + 1) 65535) ∧
    (∃ u : State, exec (.frameReceive p f .badCodeword) s = .next u.settleMode ∧ (u.port p.val).rxQueue = x.rxQueue ∧
      u.fld (.portErrcnt p) 15 8 = min (s.fld (.portErrcnt p) 15 8 + 1) 255)) ∧
  ∀ (s : State) (m : Master) (p : Port), s.admits m (CsReg.portCtl p).addr needW (s.holdsRes m 6 p.val) = true →
    let x := s.port p.val
    let goes (st : PortState) (u : State) : Prop := (u.port p.val).st = st ∧ (u.port p.val).unacked = [] ∧
      u.fld (.portStatus p) 59 56 = 0 ∧ u.mem = s.mem
    let refused (v : Nat) : State := (s.respond m .ok).setFld (.portStatus p) 59 56 v
    (s.runOrQuiesce = true →
      (x.st = .active ∨ x.st = .training →
        (∃ u : State, exec (.portRetrain m p) s = .next u.settleMode ∧ goes .training u) ∧
        ∃ u : State, exec (.portDisable m p) s = .next u.settleMode ∧ goes .disabled u) ∧
      (¬ (x.st = .active ∨ x.st = .training) → exec (.portRetrain m p) s = .next (refused 3).settleMode ∧
        exec (.portDisable m p) s = .next (refused 3).settleMode) ∧
      (x.st = .disabled → s.portUnpowered p = false → ∃ u, exec (.portEnable m p) s = .next u ∧ goes .training u) ∧
      (x.st = .contained → x.causeFw = false → x.deadUntilCompose = false →
        ∃ u, exec (.portRelease m p) s = .next u ∧ goes .training u) ∧
      (x.st ≠ .disabled ∨ s.portUnpowered p = true → exec (.portEnable m p) s = .next (refused 3)) ∧
      (x.st ≠ .contained ∨ x.causeFw = true ∨ x.deadUntilCompose = true →
        exec (.portRelease m p) s = .next (refused 3))) ∧
    (s.runOrQuiesce = false → exec (.portRetrain m p) s = .next (refused 2).settleMode ∧
      exec (.portDisable m p) s = .next (refused 2).settleMode ∧ exec (.portEnable m p) s = .next (refused 2) ∧
      exec (.portRelease m p) s = .next (refused 2))

/-- R401 to R410, R422. -/
def Obligations.PcieAndCxlPorts : Prop :=
  (∀ (s : State) (p : Port), (s.port p.val).st = .active → s.isPciPort p = true →
    let contained (u : State) : Prop := (u.port p.val).st = .contained ∧ (u.port p.val).causeFw = true ∧
      u.respOf (.port p) = some .error ∧ u.mem = s.mem
    ((s.port p.val).inboundHeld = false →
      (∀ (a : Word) (len : Nat), 0 < len →
        let n := min len 4096
        (State.inDoorbells a.toNat = true → exec (.inboundMemoryRead p a len) s =
          .next (s.respond (.port p) .error)) ∧
        (State.inDoorbells a.toNat = false → s.portMayAccess p a.toNat n needR = true →
          (s.rangeReachable a.toNat n = false → exec (.inboundMemoryRead p a len) s =
            .next (s.respond (.port p) .error)) ∧
          (s.rangeReachable a.toNat n = true → (∀ h : Slice, (s.slice h.val).errs = []) →
            s.homesServe (s.requester (.port p)) (.port p) [⟨a.toNat, n, .peek⟩] = true →
            ∃ u, exec (.inboundMemoryRead p a len) s = .next u ∧ u.mem = s.mem ∧ u.holders = s.holders ∧
              u.respOf (.port p) = some (if (s.freshBytes a.toNat n).2 then .poison else .bytes (s.freshBytes a.toNat n).1))) ∧
        (State.inDoorbells a.toNat = false → s.portMayAccess p a.toNat n needR = false →
          ∃ u, exec (.inboundMemoryRead p a len) s = .next u ∧ contained u)) ∧
      (∀ (a : Word) (bs : List Byte), bs ≠ [] → State.inDoorbells a.toNat = false →
        (s.portMayAccess p a.toNat (min 512 bs.length) needW = false →
          ∃ u, exec (.inboundMemoryWrite p a bs) s = .next u ∧ contained u) ∧
        (s.portMayAccess p a.toNat (min 512 bs.length) needW = true → s.rangeReachable a.toNat (min 512 bs.length) = false → exec (.inboundMemoryWrite p a bs) s =
          .next (s.respond (.port p) .error)) ∧
        (s.portMayAccess p a.toNat (min 512 bs.length) needW = true → s.rangeReachable a.toNat (min 512 bs.length) = true →
          s.homesServe (s.requester (.port p)) (.port p) [⟨a.toNat, min 512 bs.length, .invWrite⟩] = true →
          ∃ u, exec (.inboundMemoryWrite p a bs) s = .next u ∧ u.respOf (.port p) = some .ok)) ∧
      (∀ (a : Word) (v : BitVec 32),
        (s.doorbell a.toNat = some p → v.toNat < 2048 → ∃ u, exec (.doorbellWrite p a v) s = .next u ∧
          exec (.inboundMemoryWrite p a (leBytes 4 v.toNat)) s = .next u ∧
          u.respOf (.port p) = some .ok ∧ u.mem = s.mem ∧ u.lcs = s.lcs) ∧
        (s.doorbell a.toNat ≠ some p ∨ 2048 ≤ v.toNat → exec (.doorbellWrite p a v) s =
          .next (s.respond (.port p) .error)))) ∧
    (∀ down : Bool, ∃ u, exec (.dpc p down) s = .next u ∧ (u.port p.val).st = .contained ∧
      (u.port p.val).causeFw = false ∧ (u.port p.val).unacked = [] ∧ u.mem = s.mem) ∧
    exec (.pcieCe p) s = .next (s.report (portSrc p.val) 0x53 clsCorrected 0) ∧
    exec (.pcieNonfatal p) s = .next (s.report (portSrc p.val) 0x54 clsContained 0) ∧
    (∃ u, exec (.intxMessage p) s = .next u ∧
      u.fld (.portErrcnt p) 7 0 = min (s.fld (.portErrcnt p) 7 0 + 1) 255 ∧ { u with regs := s.regs } = s)) ∧
  (∀ (s : State) (m : Master) (p : Port) (cpl : BitVec 2) (d : BitVec 32) (v : Word) (c : BitVec 2),
    c = (if s.isPciPort p then cpl else 1) →
    (s.admits m (CsReg.portCfgdata p).addr needR (s.holdsRes m 6 p.val) = true → ∃ u,
      exec (.configRead m p cpl d) s = .next u ∧ u.fld (.portCfgaddr p) 63 62 = c.toNat ∧
      u.respOf m = some (.data (if c = 0 then d.setWidth 64 else 0xFFFFFFFF)) ∧ u.mem = s.mem) ∧
    (s.admits m (CsReg.portCfgdata p).addr needW (s.holdsRes m 6 p.val) = true → ∃ u,
      exec (.configWrite m p v cpl) s = .next u ∧ u.fld (.portCfgaddr p) 63 62 = c.toNat ∧ u.respOf m = some .ok ∧
      u.reg (.portCfgdata p) = softWrite (.portCfgdata p) (s.reg (.portCfgdata p)) v ∧ u.mem = s.mem)) ∧
  (∀ (s : State) (p : Port), (s.port p.val).st = .training →
    (isCxl (s.portProto p) = true → ∃ u, exec (.cxlLinkActive p) s = .next u ∧ (u.port p.val).st = .active ∧
      (u.port p.val).dropped = [] ∧ (∀ l ∈ (s.port p.val).dropped, u.isPoison l = true) ∧ u.mem = s.mem) ∧
    (∀ (w r : BitVec 4) (flit rev : Bool), isPcie (s.portProto p) = true → w.toNat ≤ s.portWidth p → r ≠ 0 →
      r.toNat ≤ pcieTop (s.portProto p) → ∃ u, exec (.pcieLinkActive p w r flit rev) s = .next u ∧
        (u.port p.val).st = .active ∧ (u.port p.val).twidth = w ∧ (u.port p.val).rate = r ∧
        (u.port p.val).flit = (flit || decide (r = 6)) ∧ (u.port p.val).reversed = rev ∧ u.mem = s.mem)) ∧
  ∀ (s : State) (p : Port) (a : Word) (w : BitVec 32), (s.port p.val).st = .active → s.pcieWindow a.toNat = some p →
    (∀ lc : Lc, s.clear lc = true → exec (.completionTimeout (.core lc) p a w) s =
      .next (s.enterExc lc w { code := 0x10, addr := a.toNat, access := 2 })) ∧
    ∀ m : Master, (∀ lc, m ≠ .core lc) → exec (.completionTimeout m p a w) s = .next (s.respond m .error)

/-- R425 to R454, R502. -/
def Obligations.EnginesAndContexts : Prop :=
  (∀ (s v : State) (m : Master) (a : Acc) (blk o : Nat) (b : List Byte) (e : ChunkEnd), s.chunkOf m = some (a, blk) →
    s.chunkRuns m = true → s.accOn a = true → o = s.chunkOwner m → 0 < Table.get 0 (s.acc (accIdx a)).deficit o →
    b = (s.handed m).getD (s.freshBytes blk 128).1 → s.chunk m a.cph a.tile blk (s.handed m) = (v, e) →
    (e = .waits → exec (.chunkDone m) s = .next v) ∧
    (∀ (cph : Bool) (lc : Lc), m = .slot cph lc → e ≠ .waits → (∀ pa, e ≠ .frozen pa) → ∃ u, exec (.chunkDone m) s = .next u ∧
      u.aslot (slotIdx cph lc) = (v.aslot (slotIdx cph lc)).next ∧ u.mem = v.mem ∧ Table.get 0 (u.acc (accIdx a)).deficit o =
        Table.get 0 (v.acc (accIdx a)).deficit o - (Config.chunkNs [b] (leAt b 0x28 8) : Nat)) ∧
    (∀ (c : AccCtx) (st : Nat) (q : Qn), m = .acc c → e = .ended st → v.ctxCq c = some q → v.qEnabled q = true →
      v.mode ≠ .quiesce → v.qBlocked q ⟨m, .enq (v.ctx (ctxIdx c)).user, BitVec.ofNat 64 (st * 2 ^ 56 + blk), false⟩
        false = false → (v.ctx (ctxIdx c)).st ≠ .frozen → v.ctxEnabled c = true →
      ∃ u, exec (.chunkDone m) s = .next u ∧ (u.ctx (ctxIdx c)).st = .idle ∧ (u.ctx (ctxIdx c)).response = none) ∧
    (∀ (c : AccCtx) (pa : Nat), m = .acc c → e = .frozen pa → ∃ u, exec (.chunkDone m) s = .next u ∧
      (u.ctx (ctxIdx c)).st = .frozen ∧ u.mem = v.mem) ∧
    (∀ c : AccCtx, m = .acc c → e = .goesOn → ∃ u, exec (.chunkDone m) s = .next u ∧ u.mem = v.mem ∧
      (u.ctx (ctxIdx c)).st = (if (v.ctx (ctxIdx c)).st = .stopping ∧ (v.ctx (ctxIdx c)).response = none then .disabled
        else (v.ctx (ctxIdx c)).st))) ∧
  (∀ (s : State) (m : Master) (c : AccCtx) (x : CtxSt) (v : Word), x = s.ctx (ctxIdx c) →
    s.admits m (CsReg.ctxcfg c).addr needW (s.ctxAccessOk m c) = true →
    (v.getLsbD 63 = false →
      (x.st = .idle → ∃ u, exec (.ctxcfgWrite m c v) s = .next u ∧ u.ctx (ctxIdx c) = { x with st := .disabled } ∧
        u.reg (.ctxcfg c) = softWrite (.ctxcfg c) (s.reg (.ctxcfg c)) v ∧ u.mem = s.mem) ∧
      (x.st = .running → ∃ u, exec (.ctxcfgWrite m c v) s = .next u ∧ u.ctx (ctxIdx c) = { x with st := .stopping } ∧
        u.mem = s.mem)) ∧
    (∀ (rq cq : Qn) (o : Nat), v.getLsbD 63 = true → bits v 14 0 = rq.val → bits v 46 32 = cq.val →
      s.queueOwner rq = some o → s.queueOwner cq = some o → m = .keeper ∨ o ∈ s.masterOwners m → x.st = .disabled →
      (s.qEnabled rq = true → s.qEnabled cq = true → s.qOvertop cq = false → s.ctxPolder c = decide (o = 16) →
        ∃ u, exec (.ctxcfgWrite m c v) s = .next u ∧ u.ctx (ctxIdx c) = { x with owner := ownerFin (some o), st := .idle } ∧
          u.fld (.ctxstat c) 59 56 = 0 ∧ u.mem = s.mem) ∧
      (s.qEnabled rq = false → exec (.ctxcfgWrite m c v) s =
        .next ((s.respond m .ok).setFld (.ctxstat c) 59 56 3)))) ∧
  (∀ (s : State) (c : AccCtx) (q : Qn) (w : QWord) (t : List QWord), s.ctxRq c = some q → s.mastersStart = true →
    (s.ctx (ctxIdx c)).st = .idle → s.ctxEnabled c = true → s.accOn (ctxEngine c) = true → s.qEnabled q = true →
    (s.queue q.val).opener = none → (s.queue q.val).words = w :: t → w.spilled = false → w.isPoison = false →
    w.data.toNat < 2 ^ 52 → w.data.toNat % 128 = 0 → ∃ u, exec (.contextRequestWord c) s = .next u ∧
      u.ctx (ctxIdx c) = { s.ctx (ctxIdx c) with
        user := w.tag.setWidth 4, block := w.data.toNat, st := .running } ∧
      (u.queue q.val).words = t ∧ u.mem = s.mem) ∧
  (∀ (s : State) (m : Master) (t : Ct) (v : Word),
    s.admits m (CsReg.cphKw t 3).addr needW (s.privileged m) = true →
    let k := (s.acc (accIdx ⟨true, t⟩)).kwWords
    ∃ u, exec (.cphKwLoad m t v) s = .next u ∧ u.fld (.engstat ⟨true, t⟩) 63 63 = 1 ∧
      (u.acc (accIdx ⟨true, t⟩)).kw = v ++ k.get 2 ++ k.get 1 ++ k.get 0 ∧ u.mem = s.mem) ∧
  (∀ (s : State) (m : Master) (a : Acc) (blk : Nat), s.chunkOf m = some (a, blk) → exec (.accParityError m) s =
    .next (s.report (srcId (1 + a.tile.val) (accBlock a.cph) 0) 0x38 clsCorrected 0)) ∧
  ∀ (s : State) (a : Acc) (im : Image), s.qosImage (1 + a.tile.val) = some im → ∃ u, exec (.deficitRound a) s = .next u ∧
    { u with accs := s.accs } = s ∧ ∀ o : Fin 17, Table.get 0 (u.acc (accIdx a)).deficit o.val =
      (if o.val ∈ (s.chunkReady a).map s.chunkOwner then Table.get 0 (s.acc (accIdx a)).deficit o.val +
        (((if o.val = 16 then 255 else im.accWeight o.val a.cph) * 256 : Nat) : Int) else 0)

/-- R117, R461 to R466, R481 to R490. -/
def Obligations.GatewayAndInterrupts : Prop :=
  (∀ (s : State) (lc : Lc) (a : Reg) (w : BitVec 32), s.clear lc = true → w = encR 0x39 0 a.val 0 0 0 →
    let l := s.lc lc.val
    (pswPolder l.psw = true → exec (.sluice lc a) s =
      .next (s.enterExc lc w { code := 0x0F, sub := 0x01, addr := (l.rg a).toNat })) ∧
    (pswPolder l.psw = false → s.gateSync lc = .wait → exec (.sluice lc a) s = .next s) ∧
    (∀ s1 : State, pswPolder l.psw = false → s.gateSync lc = .ok s1 →
      let c := s1.lc lc.val
      (∀ n lv : Nat, s1.gateCheck lc (l.rg a).toNat false = .pass n lv → lv < 2 → ∃ t, exec (.sluice lc a) s = .next t ∧
        (t.lc lc.val).pc = l.rg a + 4 ∧ (t.lc lc.val).gw.fepc = l.pc + 4 ∧ (t.lc lc.val).gw.fsaved = c.psw ∧
        pswPolder (t.lc lc.val).psw = true ∧ pswLevel (t.lc lc.val).psw = lv ∧ pswIe (t.lc lc.val).psw = false ∧
        (t.lc lc.val).csd = quadOf c.gw.gwcsd1 c.gw.gwcsd0 ∧ (t.lc lc.val).gw.gatestat.msb = true ∧
        (t.lc lc.val).resv = none ∧ t.mem = s1.mem) ∧
      (∀ d sub n : Nat, s1.gateCheck lc (l.rg a).toNat false = .fail d sub n → exec (.sluice lc a) s =
        .next (s.retired lc ((s1.modLc lc.val fun c => c.gateFailed d n).enterExc lc w
          { code := 0x0F, sub := sub, addr := (l.rg a).toNat }))))) ∧
  (∀ (s : State) (lc : Lc), s.clear lc = true →
    let l := s.lc lc.val
    (l.sluiceXFault = none → s.gateSync lc = .wait → exec (.sluiceX lc) s = .next s) ∧
    (∀ s1 : State, l.sluiceXFault = none → s.gateSync lc = .ok s1 →
      let c := s1.lc lc.val
      ∃ t, exec (.sluiceX lc) s = .next t ∧ (t.lc lc.val).pc = c.gw.fepc ∧
      pswPolder (t.lc lc.val).psw = false ∧ (t.lc lc.val).csd = quadOf c.gw.fscsd1 c.gw.fscsd0 ∧
      (t.lc lc.val).gw.gatestat.msb = false ∧ (t.lc lc.val).resv = none ∧
      bits (t.lc lc.val).psw 1 0 = bits c.gw.fsaved 1 0 ∧ t.mem = s1.mem) ∧
    (∀ sub : Nat, l.sluiceXFault = some sub → exec (.sluiceX lc) s = .next (s.enterExc lc (encR 0x39 0 0 0 0 1)
      { code := 0x0F, sub := sub, addr := (Config.sluiceXAddr l.gw.fepc sub).toNat }))) ∧
  (∀ (s : State) (lc : Lc) (l : LCore), l = s.lc lc.val → s.atBoundary l = true → pswPolder l.psw = false →
    l.pendP ≠ [] → l.fpPend = false → s.struck lc = false →
    (∀ n lv : Nat, s.gateCheck lc l.gw.pintgate.toNat true = .pass n lv → ∃ t, exec (.gateInterruptEntry lc) s = .next t ∧
      (t.lc lc.val).pc = l.gw.pintgate + 4 ∧ (t.lc lc.val).gw.fepc = l.pc ∧ (t.lc lc.val).gw.fsaved = l.psw ∧
      pswPolder (t.lc lc.val).psw = true ∧ (t.lc lc.val).pendP = l.pendP ∧ (t.lc lc.val).waiting = false ∧
      t.mem = s.mem) ∧
    (∀ d sub n : Nat, s.gateCheck lc l.gw.pintgate.toNat true = .fail d sub n → exec (.gateInterruptEntry lc) s =
      .next ((s.setLc lc.val { l.gateFailed d n with pendP := l.pendP.drop 1, waiting := false }).report
        (s.lcSrc lc.val) 0x0C clsSevere lc.val))) ∧
  (∀ (s v : State) (k : Tile) (m : IrqMsg) (rest : List IrqMsg), s.irqsAt k.val = m :: rest → s.mode.running = true →
    s.tileLive k.val = true → v = { s with irqs := Table.insert s.irqs k.val rest } →
    (s.routeEntry m = none → exec (.interruptRoute k) s = .next (v.bump (.irStat m.owner) 63 32 1)) ∧
    (∀ r : Route, s.routeEntry m = some r → (∀ h : Slice, (s.slice h.val).errs = []) →
      s.homesServe (.agent (BitVec.ofNat 16 (unitSrc k.val m.owner))) .keeper (s.routeReach m) = true →
      (s.routeBad m.owner m.polder r = true → ∃ t, exec (.interruptRoute k) s = .next t ∧ t.irqsAt k.val = rest ∧
        t.fld (.irStat m.owner) 31 16 = min (s.fld (.irStat m.owner) 31 16 + 1) 65535 ∧ t.lcs = s.lcs ∧ t.mem = s.mem) ∧
      (s.routeBad m.owner m.polder r = false → r.kind = false →
        (r.rate = 0 ∨ s.missing m < r.burst → ∃ t, exec (.interruptRoute k) s = .next t ∧ t.irqsAt k.val = rest ∧
          (t.lc r.lc).gate = (s.lc r.lc).gate ++ [.vector (irqSet m.polder r.level)
            (BitVec.ofNat 11 ((r.vector + m.event.toNat) % 2048)) m.cls m.inst] ∧
          t.missing m = (if r.rate = 0 then s.missing m else s.missing m + 1) ∧ t.mem = s.mem) ∧
        (r.rate ≠ 0 → r.burst ≤ s.missing m → ∃ t, exec (.interruptRoute k) s = .next t ∧ t.irqsAt k.val = rest ∧
          t.lcs = s.lcs ∧ t.missing m = s.missing m ∧ t.mem = s.mem)) ∧
      (s.routeBad m.owner m.polder r = false → r.kind = true → ∃ t, exec (.interruptRoute k) s = .next t ∧
        t.irqsAt k.val = rest))) ∧
  (∀ (s : State) (lc : Lc) (l : LCore), l = s.lc lc.val →
    (∀ (set : Fin 4) (v : BitVec 11) (cls : Byte) (inst : BitVec 18) (rest : List GateMsg),
      l.gate = .vector set v cls inst :: rest → s.mode.running = true → l.host.isSome = true →
      ∃ t, exec (.pendingSetArrival lc) s = .next t ∧ (t.lc lc.val).gate = rest ∧
        (t.lc lc.val).pend set = pendPut (l.pend set) v cls inst ∧ (t.lc lc.val).pc = l.pc ∧
        { t with lcs := s.lcs } = s) ∧
    (∀ (set : Fin 4) (b : Bank) (v : Nat) (cls : Byte) (inst : BitVec 18) (rest : PendSet), s.atBoundary l = true →
      l.nextSet = some (set, b) → l.fpPend = false → s.struck lc = false → l.pend set = (v, some (cls, inst)) :: rest →
      (∀ pa : Nat, b = .h → l.gv = true → s.guestOut lc = .freeze pa →
        exec (.interruptEntry lc) s = .next (s.freezeCore lc pa)) ∧
      ((∀ pa : Nat, ¬ (b = .h ∧ l.gv = true ∧ s.guestOut lc = .freeze pa)) → exec (.interruptEntry lc) s = .next ((s.modLc lc.val fun l =>
        { l.setPend set (Table.erase (l.pend set) v) with waiting := false }).enterAt lc b
          l.pc (BitVec.ofNat 64 (2 ^ 63 + cls.toNat * 2 ^ 16)) (BitVec.ofNat 64 (v + set.val * 2 ^ 11))
          (BitVec.ofNat 64 inst.toNat)))) ∧
    (∀ (d : Nat) (v : BitVec 11) (cls : Byte) (inst : BitVec 18) (rest : List GateMsg),
      l.gate = .notify d v cls inst :: rest → s.atBoundary l = true →
      (l.gv && vcidValid l.hyp.vcid && decide (vcidPdesc l.hyp.vcid = d)) = false →
      ∃ t, exec (.notify lc) s = .next t ∧ (t.lc lc.val).gate = rest ∧ (t.lc lc.val).pendH = pendPut l.pendH v cls inst ∧
        { t with lcs := s.lcs } = s)) ∧
  (∀ (s : State) (m : Master) (o : Fin 17) (v : Word) (r : Route) (msg : IrqMsg),
    s.admits m (CsReg.irSend o).addr needW true = true →
    r = ⟨BitVec.ofNat 64 (2 ^ 63 + bits v 63 63 * 2 ^ 62 + bits v 62 62 * 2 ^ 61 + bits v 61 51 * 2 ^ 48 + bits v 7 0),
      BitVec.ofNat 64 (bits v 50 8 * 512)⟩ →
    msg = ⟨0x06, BitVec.ofNat 18 (match m with | .core lc => lc.val | _ => 0xFF), 0, s.masterPolder m, o,
      some (r.w0, r.w1)⟩ →
    (s.mode.running = false → exec (.irSend m o v) s =
      .next ((s.respond m .ok).raiseIrq (if o.val = 16 then 0 else 1) msg)) ∧
    (s.mode.running = true → s.routeBad o msg.polder r = false →
      (r.kind = false → exec (.irSend m o v) s = .next ((s.respond m .ok).sendRouted r msg)) ∧
      (r.kind = true → s.homesServe (.agent (BitVec.ofNat 16 (unitSrc (if o.val = 16 then 0 else 1) o))) .keeper
        (s.routeReach msg) = true → ∃ t, exec (.irSend m o v) s = .next t ∧ t.respOf m = some .ok)) ∧
    (s.mode.running = true → s.routeBad o msg.polder r = true → exec (.irSend m o v) s =
      .next ((s.respond m .ok).routeFault (if o.val = 16 then 0 else 1) msg))) ∧
  ∀ (s : State) (m : IrqMsg) (n : Nat) (r : Route), s.mode.running = true → s.buckets = [(bucketKey m, n)] →
    m.sent = none →
    (∀ k < 9, s.stormAt k = []) → s.routeEntry m = some r → ∃ t, exec .stormRefill s = .next t ∧
      t.missing m = n - r.rate ∧ { t with buckets := s.buckets } = s

/-- R471 to R474, R492 to R497, R500. -/
def Obligations.CutsAndParcelResets : Prop :=
  (∀ (s : State) (m : Master) (unit : CutUnit), s.admits m (CsReg.pwrReq unit).addr needW true = true →
    let result (i : Instr) (n : Nat) : Prop := exec i s = .next ((s.respond m .ok).setFld (.pwrStat unit) 59 56 n)
    (s.runOrQuiesce = false → result (.cutClock m unit) 2 ∧ result (.cutRestore m unit) 2 ∧ result (.cutPower m unit) 2) ∧
    (s.runOrQuiesce = true →
      (s.cutPermitted unit false = false ∨ s.cut unit = .clockCut ∨ s.cut unit = .powerCut →
        result (.cutClock m unit) 3) ∧
      (s.cut unit = .on → s.privileged m = true →
        (s.cutPermitted unit false = true → ∃ t, exec (.cutClock m unit) s = .next t ∧ t.cut unit = .clockCut ∧
          t.fld (.pwrStat unit) 59 56 = 0 ∧ t.mem = s.mem) ∧
        (s.cutPermitted unit true = true → ∃ t : State, exec (.cutPower m unit) s = .next t.settleMode ∧ t.cut unit = .powerCut ∧
          t.mem = s.mem)) ∧
      (s.cut unit = .on → s.privileged m = false → s.cutPermitted unit false = true → s.polderUses unit false = true →
        ∃ t, exec (.cutClock m unit) s = .next t ∧ t.cut unit = .deferred ∧ t.fld (.pwrStat unit) 59 56 = 5 ∧
          t.cutReqs = s.cutReqs ++ [⟨unit, 1, s.cutParcel m, true⟩] ∧ t.lcs = s.lcs ∧ t.mem = s.mem) ∧
      (s.cut unit = .clockCut ∨ s.cut unit = .powerCut → ∃ t, exec (.cutRestore m unit) s = .next t ∧
        t.cut unit = .on ∧ t.fld (.pwrStat unit) 59 56 = 0 ∧ t.mem = s.mem))) ∧
  (∀ (s : State) (m : Master),
    (s.admits m CsReg.pwrRelq.addr needR true = true →
      ((∀ r ∈ s.cutReqs, r.queued = false) → exec (.pwrRelqRead m) s = .next (s.respond m (.data 0))) ∧
      ∀ (r : CutReq) (rest : List CutReq), s.cutReqs = r :: rest → r.queued = true → (∀ x ∈ rest, x.target ≠ r.target) →
        ∃ t v, exec (.pwrRelqRead m) s = .next t ∧ t.cutReqs = { r with queued := false } :: rest ∧
          t.respOf m = some (.data v) ∧ v.msb = true ∧ bits v 62 60 = unitCode r.target ∧
          bits v 59 56 = r.cmd.toNat ∧ bits v 55 52 = r.parcel.val) ∧
    (s.admits m CsReg.pwrRelease.addr needW true = true →
      ∀ (code : BitVec 3) (inst : BitVec 16) (r : CutReq), (s.cutReqs.find? fun r =>
        unitCode r.target = code.toNat && s.unitInst r.target = inst.toNat) = some r →
        (∃ t : State, exec (.release m code inst) s = .next (t.settleMode.setFld .pwrRelres 59 56 0) ∧
          t.cut r.target = (if r.cmd = 2 then .powerCut else .clockCut) ∧ t.fld (.pwrStat r.target) 59 56 = 0 ∧
          t.cutReqs = s.cutReqs.filter (fun x => x.target ≠ r.target) ∧ t.mem = s.mem) ∧
        ∃ t, exec (.deny m code inst) s = .next t ∧ t.cut r.target = .on ∧ t.fld .pwrRelres 59 56 = 0 ∧
          t.cutReqs = s.cutReqs.filter (fun x => x.target ≠ r.target) ∧ t.lcs = s.lcs ∧ t.mem = s.mem)) ∧
  (∀ (s : State) (m : Master) (p : Parcel), s.runOrQuiesce = true → s.parcelValid p.val = true →
    (s.admits m (CsReg.prCtl p).addr needW true = true →
      ((s.prst p.val).step = 0 → ∃ t, exec (.parcelReset m p) s = .next t ∧ (t.prst p.val).step = 1 ∧
        t.fld (.prStatus p) 59 56 = 0 ∧ t.mem = s.mem) ∧
      ((s.prst p.val).step ≠ 0 → exec (.parcelReset m p) s =
        .next ((s.respond m .ok).setFld (.prStatus p) 59 56 1)) ∧
      (∀ lc : Lc, (s.prst p.val).step = 0 → (s.lc lc.val).host.isSome = true → pswParcel (s.lc lc.val).psw = p.val →
        (s.lc lc.val).stops.any = false → (s.lc lc.val).gw.gatestat.msb = false →
        exec (.lcReset m p (BitVec.ofNat 8 lc.val)) s = .next (((s.respond m .ok).setFld (.prStatus p) 59 56 0).modLc lc.val
          fun l => { l with reqs := { l.reqs with reset := true } })) ∧
      (∀ q : Port, (s.prst p.val).step = 0 → s.portOwner q = some p.val → (s.port q.val).st = .active →
        ∃ t : State, exec (.pathReset m p (BitVec.ofNat 9 q.val)) s = .next t.settleMode ∧ (t.port q.val).st = .training ∧
          (t.port q.val).unacked = [] ∧ t.mem = s.mem)) ∧
    (s.admits m (CsReg.prCtl p).addr needW (s.privileged m) = true → s.prWaits p.val = true →
      ∃ t, exec (.consent m p) s = .next t ∧ (t.prst p.val).consented = true ∧ t.lcs = s.lcs ∧ t.mem = s.mem)) ∧
  (∀ (s : State) (p : Parcel), s.runOrQuiesce = true →
    ((s.prst p.val).step = 1 → s.prFrozen p.val = true →
      ∃ t : State, exec (.parcelResetStepDone p) s = .next t.settleMode ∧ (t.prst p.val).step = 2) ∧
    ((s.prst p.val).step = 1 → s.prFrozen p.val = false → exec (.parcelResetStepDone p) s = .next s.settleMode) ∧
    ((s.prst p.val).step = 2 → (s.prPark p.val).prParked p.val = true →
      ∃ t : State, exec (.parcelResetStepDone p) s = .next t.settleMode ∧ (t.prst p.val).step = 3) ∧
    ((s.prst p.val).step = 3 → ∃ t : State, exec (.parcelResetStepDone p) s = .next t.settleMode ∧ (t.prst p.val).step = 4) ∧
    ((s.prst p.val).step = 4 → ∃ t : State, exec (.parcelResetStepDone p) s = .next t.settleMode ∧ (t.prst p.val).step = 5 ∧
      t.mem = s.mem ∧ ∀ r ∈ t.cutReqs, r.parcel ≠ p) ∧
    ((s.prst p.val).step = 5 → ∃ t : State, exec (.parcelResetStepDone p) s = .next t.settleMode ∧ (t.prst p.val).step = 6 ∧
      t.mem = s.mem ∧ t.lcs = s.lcs) ∧
    ((s.prst p.val).step = 6 → ∃ t : State, exec (.parcelResetStepDone p) s = .next t.settleMode ∧ (t.prst p.val).step = 7 ∧
      t.mem = s.mem ∧ t.lcs = s.lcs) ∧
    ((s.prst p.val).step = 7 → ∃ t : State, exec (.parcelResetStepDone p) s = .next t.settleMode ∧
      t.prst p.val = PrSt.init ∧ t.fld (.prStatus p) 31 16 = min (s.fld (.prStatus p) 31 16 + 1) 65535 ∧ t.mem = s.mem)) ∧
  (∀ (s : State) (m : Master) (p : Parcel) (v : Word), s.admits m (CsReg.prStart p).addr needW (s.privileged m) = true →
    v.getLsbD 63 = true → ∃ t, exec (.prStartWrite m p v) s = .next t ∧
      t.reg (.prStart p) = softWrite (.prStart p) (s.reg (.prStart p)) v ∧ t.mem = s.mem ∧
      ∀ l ∈ s.parcelLcs p.val, (s.lc l.val).stops.start = true → (t.lc l.val).stops.start = false ∧
        (t.lc l.val).pc = BitVec.ofNat 64 (bits v 51 2 * 4) ∧ (t.lc l.val).g = (s.lc l.val).g) ∧
  ∀ (s : State) (t : Ct) (ring : Fin 2), exec (.ringWindowEnd t ring) s =
    .next (s.modCt t.val fun c => { c with ringUsed := c.ringUsed.filter fun e => e.1 / 16 ≠ ring.val })

/-- R508, R511 to R517, R521, R522, R524. -/
def Obligations.FaultCollectors : Prop :=
  (∀ (s : State) (src : BitVec 16) (k : Tile) (m q : Quad) (rest : List Quad) (n w t : Nat), s.ringsRun = true →
    (s.srcBuf src.toNat).msgs = m :: rest → src.toNat / 4096 = k.val → q = setLost m (s.srcBuf src.toNat).lost →
    s.policyOf (faultSrc q) (faultKind q) = (n, w) → (s.now % 2 ^ 40 + 2 ^ 40 - faultTime q) % 2 ^ 40 ≤ s.now →
    t = s.now - (s.now % 2 ^ 40 + 2 ^ 40 - faultTime q) % 2 ^ 40 → (s.col k.val).log.length < 1024 → faultClass q ≤ 4 →
    let c := faultClass q
    let one (x : Nat) : Counter := ⟨BitVec.ofNat 16 (faultSrc q), BitVec.ofNat 8 (faultKind q), n, w, t / 2 ^ w, x⟩
    ((s.col k.val).counters = [] → n ≠ 1 → ∃ v : State, exec (.faultMessageArrival src) s = .next v.settleMode ∧
      (v.col k.val).log = (s.col k.val).log ++ [q] ∧ (v.col k.val).counters = [one 1] ∧
      v.fld (.fcStatus k) c c = 1 ∧ rest <+: (v.srcBuf src.toNat).msgs ∧ v.mgmt.logNext = s.mgmt.logNext + 1) ∧
    (∀ c0 : Nat, (s.col k.val).counters = [one c0] → n ≠ 0 → (c0 + 1) % n = 0 → q.getLsbD 8 = false →
      ∃ (v : State) (r : Quad), exec (.faultMessageArrival src) s = .next v.settleMode ∧ faultClass r = min (c + 1) clsGrave ∧
        r.getLsbD 8 = true ∧ (v.col k.val).log = (s.col k.val).log ++ [r] ∧
        (v.col k.val).promoted = (s.col k.val).promoted ++ [r] ∧ (v.col k.val).counters = [one (c0 + 1)])) ∧
  (∀ (s : State) (k : Tile) (m : Quad) (t : List Quad), (s.col k.val).promoted = m :: t →
    let u := s.modCol k.val fun x => { x with promoted := t }
    (faultClass m ≠ clsContained → exec (.promotionSignal k) s = .next u.settleMode) ∧
    (∀ c : Core, faultClass m = clsContained → faultBlock m ≠ 0x3F → faultKind m = 0x10 →
      48 * (faultTile m - 1) + faultInst m = c.val →
      exec (.promotionSignal k) s = .next (u.replaceCore (coreIsland c) (coreLetter c)).settleMode) ∧
    (∀ a : Acc, faultClass m = clsContained → faultKind m = 0x38 → faultTile m = 1 + a.tile.val →
      faultBlock m = accBlock a.cph → (s.acc (accIdx a)).failed = false →
      ∃ v : State, exec (.promotionSignal k) s = .next v.settleMode ∧ (v.acc (accIdx a)).failed = true ∧
        v.fld (.engstat a) 62 62 = 1 ∧ v.mem = s.mem)) ∧
  (∀ (s : State) (k : Tile) (lo hi : BitVec 12), s.ringsRun = true →
    (lo.toInt < -440 → (s.col k.val).junction = false → exec (.junctionSample k lo hi) s =
      .next ((s.modCol k.val fun x => { x with junction := true }).report (srcId k.val 0x0C 0) 0x06 clsSevere
        (lo.signExtend 52).toNat)) ∧
    (¬lo.toInt < -440 → 1000 < hi.toInt → (s.col k.val).junction = false → exec (.junctionSample k lo hi) s =
      .next ((s.modCol k.val fun x => { x with junction := true }).report (srcId k.val 0x0C 0) 0x06 clsSevere
        (hi.signExtend 52).toNat)) ∧
    (lo.toInt < -440 ∨ 1000 < hi.toInt → (s.col k.val).junction = true → exec (.junctionSample k lo hi) s = .next s) ∧
    (-424 ≤ lo.toInt → hi.toInt ≤ 984 → exec (.junctionSample k lo hi) s =
      .next (s.modCol k.val fun x => { x with junction := false }))) ∧
  (∀ (s : State) (k : Tile) (ring : Fin 2) (a : BitVec 52), s.ringsRun = true → (s.col k.val).stopped = false → k ≠ 0 →
    ∃ v : State, exec (.tileFatalError k 0x09 ring a) s = .next (v.tileGone k.val).settleMode ∧ (v.col k.val).stopped = true ∧
      v.mem = s.mem ∧ ∀ t : Ct, k.val = 1 + t.val → ∀ l ∈ s.tileLcs t.val, (v.lc l.val).stops.lost = true) ∧
  (∀ (s : State) (m : Master) (k : Tile), s.admits m (CsReg.fcLogHi k).addr needR true = true →
    ((s.col k.val).log = [] → exec (.fcLogRead m k) s = .next ((s.setReg (.fcLogLo k) 0).respond m (.data 0))) ∧
    ∀ (e : Quad) (t : List Quad), (s.col k.val).log = e :: t → ∃ u, exec (.fcLogRead m k) s = .next u ∧
      (u.col k.val).log = t ∧ u.reg (.fcLogLo k) = e.setWidth 64 ∧
      u.respOf m = some (.data (BitVec.ofNat 64 (qbits e 127 64)))) ∧
  (∀ (s : State) (m : Master) (k : Tile) (v : Word),
    (s.admits m (CsReg.fcInject k).addr needW (s.privileged m) = true →
      (kindListed (bits v 63 56) = true → bits v 55 53 ≤ 4 → exec (.fcInject m k v) s =
        .next (((s.respond m .ok).setFld (.fcStatus k) 27 24 0).report (srcId k.val 0x3F 0) (bits v 63 56) (bits v 55 53)
          (bits v 51 0))) ∧
      (kindListed (bits v 63 56) = false ∨ 4 < bits v 55 53 → exec (.fcInject m k v) s =
        .next ((s.respond m .ok).setFld (.fcStatus k) 27 24 3))) ∧
    ∀ p : Parcel, s.admits m (CsReg.fcParcel k p).addr needW (s.privileged m) = true → ∀ q : Qn, bits v 14 0 = q.val →
      ((s.qEnabled q && s.qOvertop q && s.queueOwner q == some p.val && bits v 44 40 ≠ 0) = true →
        ∃ u, exec (.fcParcelEnable m k p v) s = .next u ∧ u.fld (.fcParcel k p) 63 63 = 1 ∧
          u.fld (.fcParcel k p) 14 0 = q.val ∧ u.fld (.fcStatus k) 27 24 = 0 ∧ u.cols = s.cols) ∧
      ((s.qEnabled q && s.qOvertop q && s.queueOwner q == some p.val && bits v 44 40 ≠ 0) = false →
        exec (.fcParcelEnable m k p v) s = .next ((s.respond m .ok).setFld (.fcStatus k) 27 24 3))) ∧
  ∀ (s : State) (m : Master) (k : Tile), s.admits m (CsReg.fcStatus k).addr needW (s.privileged m) = true →
    ∃ v : State, exec (.graveBitClear m k) s = .next v.settleMode ∧ { v with regs := s.regs, resps := s.resps } = s ∧
      v.fld (.fcStatus k) 3 0 = s.fld (.fcStatus k) 3 0 ∧ v.fld (.fcStatus k) 4 4 =
        (if s.softwareClear = true ∧ ¬(k.val = 0 ∧ s.keeper.railLost ≠ 0) then 0 else s.fld (.fcStatus k) 4 4)

/-- R525 to R529. -/
def Obligations.PinsAndAlive : Prop :=
  (∀ (s : State) (n : Fin 48) (e : Nat), s.ringsRun = true → 0 < e →
    ((s.pin n.val).active = true → exec (.pinEvent n e) s = .next s) ∧
    ((s.pin n.val).active = false → ∃ u, exec (.pinEvent n e) s = .next u ∧ (u.pin n.val).active = true ∧
      u.mem = s.mem ∧ u.lcs = s.lcs ∧
      (s.fld (.pinCfg n) 0 0 = 0 → u.irqs = s.irqs ∧ u.fld (.pinStat n) 31 16 = s.fld (.pinStat n) 31 16 ∧
        u.fld (.pinStat n) 15 0 = min (s.fld (.pinStat n) 15 0 + e) 65535) ∧
      (s.fld (.pinCfg n) 0 0 = 1 → s.fld (.pinStat n) 62 62 = 1 → u.irqs = s.irqs ∧
        u.fld (.pinStat n) 31 16 = min (s.fld (.pinStat n) 31 16 + 1) 65535) ∧
      (s.fld (.pinCfg n) 0 0 = 1 → s.fld (.pinStat n) 62 62 = 0 →
        (s.fld (.pinCfg n) 31 24 = 0 → u.irqsAt 0 = s.irqsAt 0 ++
            [⟨0x07, BitVec.ofNat 18 n.val, 0, s.pinPolder n.val, 16, none⟩] ∧
          u.fld (.pinStat n) 31 16 = min (s.fld (.pinStat n) 31 16 + 1) 65535 ∧
          u.fld (.pinStat n) 15 0 = min (s.fld (.pinStat n) 15 0 + (e - 1)) 65535) ∧
        (s.fld (.pinCfg n) 31 24 ≠ 0 → s.fld (.pinCfg n) 31 24 ≤ (s.pinCount n).2 → u.irqs = s.irqs ∧
          u.fld (.pinStat n) 62 62 = 1 ∧ u.fld (.pinStat n) 61 60 = 2)))) ∧
  (∀ (s : State) (n : Fin 48),
    ((s.ringsRun = true ∧ (s.pin n.val).active = true ∧ s.fld (.pinCfg n) 12 8 ≠ 0 ∧ s.fld (.pinStat n) 62 62 = 0) →
      ∃ u, exec (.pinStuck n) s = .next u ∧ u.irqs = s.irqs ∧ u.fld (.pinStat n) 62 62 = 1 ∧
        u.fld (.pinStat n) 61 60 = 1 ∧ u.pins = s.pins) ∧
    ((s.pin n.val).active = false ∨ s.fld (.pinCfg n) 12 8 = 0 ∨ s.fld (.pinStat n) 62 62 = 1 →
      exec (.pinStuck n) s = .next s) ∧
    (s.ringsRun = true → exec (.pinInactiveChange n) s =
      .next (s.modPin n.val fun x => { x with active := false })) ∧
    ∀ m : Master, s.admits m (CsReg.pinStat n).addr needW (s.privileged m) = true →
      (s.fld (.pinStat n) 62 62 = 0 → exec (.pinUnmask m n) s = .next (s.respond m .ok)) ∧
      (s.fld (.pinStat n) 62 62 = 1 → ∃ u, exec (.pinUnmask m n) s = .next u ∧ u.fld (.pinStat n) 62 62 = 0 ∧
        u.fld (.pinStat n) 61 60 = 0 ∧ (u.pin n.val).active = (s.pin n.val).active ∧ u.irqsAt 0 =
          (if (s.pin n.val).active = true ∧ s.fld (.pinCfg n) 0 0 = 1 then
            s.irqsAt 0 ++ [⟨0x07, BitVec.ofNat 18 n.val, 0, s.pinPolder n.val, 16, none⟩] else s.irqsAt 0))) ∧
  ∀ s : State, s.keeper.aliveStopped = false → s.gravePresent = false →
    (s.mode = .load ∨ s.mode = .compose ∨ s.runOrQuiesce = true → s.keeper.aliveMult < s.now / 1000000 →
      exec .aliveToggle s = .next { s with keeper := { s.keeper with alive := !s.keeper.alive, aliveMult := s.now / 1000000 } }) ∧
    (¬s.keeper.aliveMult < s.now / 1000000 → exec .aliveToggle s = .next s)

/-- R62, R68, R524, R535 to R540. -/
def Obligations.ManagementSessions : Prop :=
  (∀ (s : State) (via : Transport) (key : BitVec 32) (nonce : BitVec 256) (kem : List Byte),
    (s.mgmtOn = false ∨ s.mgmt.keysValid = false ∨ 8 ≤ s.mgmt.sessions.length ∨ s.helloPhase key = none →
      exec (.hello via key nonce kem) s = .next s) ∧
    ∀ ph : SessPhase, s.mgmtOn = true → s.mgmt.keysValid = true → s.mgmt.sessions.length < 8 →
      s.helloPhase key = some ph → ∃ u x d, exec (.hello via key nonce kem) s = .next u ∧
        u.mgmt.sessions = s.mgmt.sessions ++ [x] ∧ x.keyId = key ∧ x.phase = ph ∧ x.via = via ∧ x.seen = [] ∧
        x.responses = [] ∧ u.mgmt.out = s.mgmt.out ++ [⟨x.id, 0x02, 0, 0, d⟩] ∧ u.mem = s.mem) ∧
  (∀ (s : State) (id : BitVec 32) (seq : Word) (x : Sess), s.mgmtOn = true → s.sess id = some x →
    let shut (u : State) : Prop := u.sess id = none ∧ (∀ q ∈ u.mgmt.queue, q.session ≠ id) ∧
      (∀ q ∈ s.mgmt.queue, q.session ≠ id → q ∈ u.mgmt.queue) ∧ u.mgmt.out = s.mgmt.out ∧
      (∀ d, s.loader.delivery = some d → (d.session = id → u.loader.delivery = none) ∧
        (d.session ≠ id → u.loader = s.loader))
    (∃ u, exec (.sessionTimeout id) s = .next u ∧ shut u) ∧
    (x.live = true → x.replayed seq = false → ∃ u, exec (.close id seq) s = .next u ∧ shut u) ∧
    (x.live = true → x.replayed seq = true → exec (.close id seq) s = .next (s.authDrop x.via)) ∧
    (x.phase = .challenged → ∀ (r : RunImage) (k : KeyRec) (sg : List Byte), s.loader.running = some r →
      r.img.peerKey x.keyId = some k →
      (Config.peerVerify k.alg k.key (leBytes 64 (Config.shake512 x.transcript).toNat) sg = true →
        ∃ u, exec (.finish id sg) s = .next u ∧ u.sess id = some { x with phase := .open } ∧ u.mem = s.mem ∧
          u.mgmt.queue = s.mgmt.queue) ∧
      (Config.peerVerify k.alg k.key (leBytes 64 (Config.shake512 x.transcript).toNat) sg = false →
        ∃ u, exec (.finish id sg) s = .next u ∧ shut u))) ∧
  (∀ (s : State) (via : Transport) (id : BitVec 32) (seq req : Word) (tag : Bool) (op : BitVec 16) (a : List Byte) (x : Sess),
    s.mgmtOn = true → s.sess id = some x → x.live = true → sameTransport x.via via = true →
    (tag = false ∨ x.replayed seq = true → exec (.request via id seq tag req op a) s = .next (s.authDrop via)) ∧
    (tag = true → x.replayed seq = false → ∃ u y, exec (.request via id seq tag req op a) s = .next u ∧
      u.sess id = some y ∧ y.seen = (x.accept seq).seen ∧ seq ∈ y.seen ∧ u.mem = s.mem ∧
      (∀ r, x.stored req = some r → u.mgmt.queue = s.mgmt.queue ∧
        u.mgmt.out = s.mgmt.out ++ [⟨id, 0x11, r.1, r.2.1, r.2.2⟩]) ∧
      (x.stored req = none → op.toNat ∈ definedOps →
        u.mgmt.queue = s.mgmt.queue ++ [⟨id, req, op, a⟩] ∧ u.mgmt.out = s.mgmt.out) ∧
      (x.stored req = none → op.toNat ∉ definedOps →
        u.mgmt.queue = s.mgmt.queue ∧ u.mgmt.out = s.mgmt.out ++ [⟨id, 0x11, req, resInvalid, []⟩]))) ∧
  (∀ (s : State) (h : ReqHdr) (x : Sess),
    let p := s.dequeued
    let answer (u : State) (r : Byte) (d : List Byte) : State := u.answer h.session h.reqId r d
    (s.serving h 0x01 x → exec (.status h) s = .next (answer p resOk (le8 (p.csValue .ksStatus) ++ le8 (p.csValue .imgStatus) ++
      le8 (p.csValue .mcStatus) ++ le8 (p.csValue (.mgtStatus 0)) ++ le8 (p.csValue (.mgtStatus 1))))) ∧
    (∀ a : Word, s.serving h 0x02 x →
      (polderOrParcel x = false ∨ p.csAllowed x a.toNat needR = false → exec (.csRead h a) s = .next (answer p resDenied [])) ∧
      (polderOrParcel x = true → p.csAllowed x a.toNat needR = true →
        let v := (p.respond .keeper .error).csRead .keeper a.toNat 8
        (∀ w : Word, v.respOf .keeper = some (.data w) → exec (.csRead h a) s = .next (answer v resOk (le8 w))) ∧
        (v.respOf .keeper = some .error → exec (.csRead h a) s = .next (answer v resCsError [])))) ∧
    (∀ a w : Word, s.serving h 0x03 x →
      (polderOrParcel x = false ∨ p.csAllowed x a.toNat needW = false → exec (.csWrite h a w) s = .next (answer p resDenied [])) ∧
      (polderOrParcel x = true → p.csAllowed x a.toNat needW = true →
        let v := (p.respond .keeper .error).csWrite .keeper a.toNat 8 w
        (v.respOf .keeper ≠ some .error → exec (.csWrite h a w) s = .next (answer v resOk (v.resultAt a.toNat))) ∧
        (v.respOf .keeper = some .error → exec (.csWrite h a w) s = .next (answer v resCsError [])))) ∧
    (∀ w : Word, s.serving h 0x15 x →
      (x.polder = false → exec (.modeCmd h w) s = .next (answer p resDenied [])) ∧
      (x.polder = true → exec (.modeCmd h w) s =
          .next (answer (p.ksCmdW .keeper w).settleMode resOk ((p.ksCmdW .keeper w).settleMode.resultOf .ksCmd)))) ∧
    (∀ w : Word, s.serving h 0x12 x →
      (x.polder = false → exec (.imgCmd h w) s = .next (answer p resDenied [])) ∧
      (x.polder = true → exec (.imgCmd h w) s =
          .next (answer (p.imgCtlW .keeper w) resOk ((p.imgCtlW .keeper w).resultOf .imgCtl)))) ∧
    (s.serving h 0x16 x →
      (x.polder = false → exec (.graveClear h) s = .next (answer p resDenied [])) ∧
      (x.polder = true → ∃ v : State, exec (.graveClear h) s =
          .next (answer v.settleMode resOk []) ∧ { v with regs := p.regs } = p ∧
        ∀ k : Tile, v.fld (.fcStatus k) 3 0 = p.fld (.fcStatus k) 3 0 ∧ v.fld (.fcStatus k) 4 4 =
          (if p.softwareClear = true ∧ ¬(k.val = 0 ∧ p.keeper.railLost ≠ 0) then 0 else p.fld (.fcStatus k) 4 4))))

/-- R33, R52, R530 to R533, R539 to R544. -/
def Obligations.ManagementObjects : Prop :=
  (∀ (s : State) (h : ReqHdr) (x : Sess),
    let p := s.dequeued
    let answer (u : State) (r : Byte) (d : List Byte) : State := u.answer h.session h.reqId r d
    (∀ (o : BitVec 32) (bs : List Byte), s.serving h 0x10 x →
      (polderOrRecovery x = false → exec (.imagePut h o bs) s = .next (answer p resDenied [])) ∧
      (polderOrRecovery x = true → (bs = [] ∨ 1024 < bs.length) → exec (.imagePut h o bs) s = .next (answer p resInvalid [])) ∧
      (polderOrRecovery x = true → bs ≠ [] → bs.length ≤ 1024 →
        (s.loader.delivery = none → o = 0 → s.deliveryOpen = true →
          ∃ u : State, exec (.imagePut h o bs) s = .next (answer u resOk []) ∧ u.loader.staged = none ∧ u.pendState = 1 ∧
            u.loader.delivery = some (Delivery.put ⟨h.session, [], 0⟩ 0 bs)) ∧
        (∀ d, s.loader.delivery = some d →
          (d.session ≠ h.session → exec (.imagePut h o bs) s = .next (answer p resBusy [])) ∧
          (d.session = h.session → o ≠ 0 → o.toNat + bs.length ≤ imageLimit → exec (.imagePut h o bs) s =
              .next (answer { p with loader := { p.loader with delivery := some (d.put o.toNat bs) } } resOk [])) ∧
          (d.session = h.session → o ≠ 0 → imageLimit < o.toNat + bs.length →
            ∃ u : State, exec (.imagePut h o bs) s = .next (answer u resInvalid []) ∧ u.loader.delivery = none)))) ∧
    (∀ f : List Core, s.serving h 0x11 x → polderOrRecovery x = true →
      (s.loader.delivery = none → exec (.imageEnd h f) s = .next (answer p resInvalid [])) ∧
      ∀ d, s.loader.delivery = some d →
        (d.session ≠ h.session → exec (.imageEnd h f) s = .next (answer p resBusy [])) ∧
        (d.session = h.session → s.deliveryOpen = true →
          let b := (p.deliveredBytes d).1
          let r := validate s.fuses (if s.mode == .load then none else s.loader.running.map (·.img.seq)) b
          (r ≠ 0 → ∃ u : State, exec (.imageEnd h f) s =
              .next (answer u resRejected [BitVec.ofNat 8 r]) ∧ u.loader.staged = none ∧
            u.loader.delivery = none ∧ u.pendState = 4) ∧
          (r = 0 → s.mode ≠ .load → ∃ u : State, exec (.imageEnd h f) s = .next (answer u resOk []) ∧
            u.loader.staged = some (b.take (imgTotal b)) ∧ u.loader.delivery = none ∧ u.pendState = 3))) ∧
    (∀ ok : Bool, s.serving h 0x13 x →
      (x.polder = false → exec (.flashUpdate h ok) s = .next (answer p resDenied [])) ∧
      (x.polder = true → s.pendState ≠ 3 → exec (.flashUpdate h ok) s = .next (answer p resInvalid [])) ∧
      (x.polder = true → s.pendState = 3 → ∀ (bs : List Byte) (r : RunImage), s.loader.staged = some bs →
        s.loader.running = some r → bs.length ≤ copySize → let c := s.updateCopy r.source
        ∃ u : State, exec (.flashUpdate h ok) s = .next (answer u (if ok then resOk else resInvalid) []) ∧
          (ok = true → u.flashBytes (copyBase c) bs.length = bs) ∧
          u.flashBytes (copyBase !c) copySize = s.flashBytes (copyBase !c) copySize)) ∧
    (∀ (k : Fin 4) (d : BitVec 256), s.serving h 0x14 x →
      (x.polder = false → exec (.keySlot h k (some d)) s = .next (answer p resDenied []) ∧ exec (.keySlot h k none) s =
          .next (answer p resDenied [])) ∧
      (x.polder = true →
        (k = 0 ∨ (s.fuses.slots.get k).isSome = true → exec (.keySlot h k (some d)) s = .next (answer p resInvalid [])) ∧
        (k ≠ 0 → s.fuses.slots.get k = none → exec (.keySlot h k (some d)) s =
            .next (answer { p with fuses := { p.fuses with slots := p.fuses.slots.set k (some d) } } resOk [])) ∧
        (let f := { s.fuses with revoked := bvPut s.fuses.revoked k.val true }
         (∀ r, s.loader.running = some r → f.matched r.img.pubDigest = false → exec (.keySlot h k none) s =
             .next (answer p resInvalid [])) ∧
         (∀ r, s.loader.running = some r → f.matched r.img.pubDigest = true →
           exec (.keySlot h k none) s = .next (answer { p with fuses := f } resOk [])) ∧
         (s.loader.running = none → exec (.keySlot h k none) s = .next (answer { p with fuses := f } resOk []))))) ∧
    (∀ n : BitVec 256, s.serving h 0x20 x → ∃ (u : State) (d : List Byte), exec (.attest h n) s = .next (answer u resOk d) ∧
      p.reportBody n x.recovers <+: d ∧ u.fuses = s.fuses ∧ u.loader = s.loader ∧ u.mem = s.mem) ∧
    (s.serving h 0x21 x → exec (.certs h) s = .next (answer p resOk Config.certChain)) ∧
    (∀ (first : Word) (count : Nat), s.serving h 0x30 x →
      (x.recovers = true → exec (.logRead h first count) s = .next (answer p resDenied [])) ∧
      (x.recovers = false → ∃ (l : List (Nat × Quad × Option Parcel)),
        exec (.logRead h first count) s = .next (answer p resOk (BitVec.ofNat 8
          (decide (first.toNat < s.mgmt.logNext - s.mgmt.log.length)).toNat ::
          l.flatMap fun e => leBytes 8 e.1 ++ leBytes 16 e.2.1.toNat)) ∧ l.length ≤ min count 64 ∧
        ∀ e ∈ l, first.toNat ≤ e.1 ∧ e ∈ s.mgmt.indexed ∧ ∀ q, x.parcel = some q → e.2.2 = some q)) ∧
    (∀ (a : BitVec 32) (n : Nat), s.serving h 0x40 x →
      (polderOrParcel x = false ∨ s.flashAllowed x a.toNat = false → exec (.flashRead h a n) s = .next (answer p resDenied [])) ∧
      (polderOrParcel x = true → s.flashAllowed x a.toNat = true → n ≤ 1024 →
        exec (.flashRead h a n) s = .next (answer p resOk (s.flashBytes a.toNat n)))) ∧
    (∀ (a : BitVec 32) (data : Option (List Byte)), s.serving h 0x41 x →
      (polderOrParcel x = false ∨ s.flashAllowed x a.toNat = false → exec (.flashWrite h a data) s =
          .next (answer p resDenied [])) ∧
      (polderOrParcel x = true → s.flashAllowed x a.toNat = true → s.loaderReads a.toNat = false →
        (∀ bs, data = some bs → bs ≠ [] → a.toNat % sectorSize + bs.length ≤ sectorSize →
          ∃ u : State, exec (.flashWrite h a data) s = .next (answer u resOk []) ∧ u.flashBytes a.toNat bs.length = bs) ∧
        (data = none → ∃ u : State, exec (.flashWrite h a data) s = .next (answer u resOk []) ∧
          u.flashBytes (a.toNat / sectorSize * sectorSize) sectorSize = List.replicate sectorSize 0xFF)))) ∧
  (∀ s : State, (s.loader.delivery = none → exec .deliveryTimeout s = .next s) ∧
    ∀ d, s.loader.delivery = some d → ∃ u, exec .deliveryTimeout s = .next u ∧ u.loader.delivery = none ∧
      u.loader.staged = s.loader.staged ∧ u.pendState = (if s.pendState = 1 then 0 else s.pendState)) ∧
  (∀ (s : State) (n : Fin 2), s.mgmtOn = true →
    (s.mgmt.active = some n → s.mgmt.link.getLsbD (otherMac n).val = true → ∃ u, exec .mgtPortFailover s = .next u ∧
      u.mgmt.active = some (otherMac n) ∧ u.mgmt.link.getLsbD n.val = false ∧
      u.mgmt.advertised = s.mgmt.advertised + s.addressCount ∧
      u.fld (.mgtStatus (otherMac n)) 47 32 = min (s.fld (.mgtStatus (otherMac n)) 47 32 + 1) 65535) ∧
    (s.mgmt.active = some n → s.mgmt.link.getLsbD (otherMac n).val = false → ∃ u, exec .mgtPortFailover s = .next u ∧
      u.mgmt.active = none ∧ u.regs = s.regs) ∧
    (s.macUsed n = true → ∃ u, exec (.mgtLinkUp n) s = .next u ∧ u.mgmt.link.getLsbD n.val = true ∧
      u.mgmt.active = (if s.mgmt.active = none then some n else s.mgmt.active)) ∧
    (s.macUsed n = true → ∀ (msg : PtpMsg) (inward ok : Bool), ∃ u, exec (.ptpEventMessage n msg inward ok) s = .next u ∧
      u.mgmt.ptp.get n = s.tb.ns + (BitVec.ofNat 32 (if inward then s.fld (.mgtPtpadj n) 63 32
        else s.fld (.mgtPtpadj n) 31 0)).signExtend 64 ∧
      u.reg .tbCapture = (if inward = true ∧ ok = true ∧ msg = .sync ∧ s.fld .tbCtl 5 4 = 2 + n.val then u.mgmt.ptp.get n
        else s.reg .tbCapture)) ∧
    (∀ q : Word, s.mgmt.active = some n →
      (q ∉ s.mgmt.prefixes → exec (.routerAdvertisement n q) s =
        .next { s with mgmt := { s.mgmt with prefixes := s.mgmt.prefixes ++ [q] } }) ∧
      (q ∈ s.mgmt.prefixes → exec (.routerAdvertisement n q) s = .next s)) ∧
    ∀ (e t : Byte), ∃ u1 u2 u3 u4 : State, exec (.setEndpointId e) s = .next u1 ∧ exec .getEndpointId s = .next u2 ∧
      exec (.getMctpVersionSupport t) s = .next u3 ∧ exec .getMessageTypeSupport s = .next u4 ∧ u1.mgmt.eid = e ∧
      u1.mgmt.out = s.mgmt.out ++ [⟨0, 0, 0, 0, Config.mctpReply 1 e e⟩] ∧
      u2.mgmt.out = s.mgmt.out ++ [⟨0, 0, 0, 0, Config.mctpReply 2 0 s.mgmt.eid⟩] ∧
      u3.mgmt.out = s.mgmt.out ++ [⟨0, 0, 0, 0, Config.mctpReply 4 t s.mgmt.eid⟩] ∧
      u4.mgmt.out = s.mgmt.out ++ [⟨0, 0, 0, 0, Config.mctpReply 5 0 s.mgmt.eid⟩] ∧ u2.mgmt.eid = s.mgmt.eid)

/-- R97, R237, R545, R546. -/
def Obligations.TapAndDebug : Prop :=
  (∀ s : State,
    (s.mode = .off → exec .bypass s = .next s ∧ exec .idcode s = .next s ∧ exec .extest s = .next s ∧
      exec .clamp s = .next s ∧ exec .highz s = .next s ∧ ∀ l : Option (List Bool), exec (.samplePreload l) s = .next s) ∧
    (s.mode ≠ .off → ∃ u1 u2 u3 u4 u5 : State, exec .bypass s = .next u1 ∧ exec .idcode s = .next u2 ∧
      exec .extest s = .next u3 ∧ exec .clamp s = .next u4 ∧ exec .highz s = .next u5 ∧ u1.mgmt.tapDr = 0 ∧
      u2.mgmt.tapDr = BitVec.ofNat 128 idcodeWord ∧ u3.landsScanned = s.scanAllowed ∧ u4.landsScanned = s.scanAllowed ∧
      u5.landsHighZ = s.scanAllowed ∧ u1.landsScanned = false ∧ u2.landsScanned = false ∧
      (s.scanAllowed = false → u3.mgmt.tapDr = 0) ∧ ∀ u ∈ [u1, u2, u3, u4, u5],
        u.mgmt.bsr = s.mgmt.bsr ∧ { u with mgmt := s.mgmt } = s) ∧
    (s.mode ≠ .off → (∀ l : List Bool, ∃ u, exec (.samplePreload (some l)) s = .next u ∧ u.mgmt.bsr = l ∧
        u.mgmt.tapIr = .samplePreload ∧ { u with mgmt := s.mgmt } = s) ∧
      ∃ u, exec (.samplePreload none) s = .next u ∧ u.mgmt.bsr.length = Config.boundaryCells ∧ u.mem = s.mem)) ∧
  (∀ (s : State) (h : ReqHdr) (x : Sess) (scope : BitVec 17) (sec : BitVec 32), s.serving h 0x50 x →
    let p := s.dequeued
    let answer (u : State) (r : Byte) : State := u.answer h.session h.reqId r []
    (x.polder = false → exec (.debugUnlock h scope sec) s = .next (answer p resDenied) ∧ exec (.debugLock h) s =
        .next (answer p resDenied)) ∧
    (x.polder = true →
      (sec = 0 ∨ 86400 < sec.toNat → exec (.debugUnlock h scope sec) s = .next (answer p resInvalid)) ∧
      (sec ≠ 0 → sec.toNat ≤ 86400 → ∃ v : State, exec (.debugUnlock h scope sec) s = .next (answer v.settleMode resOk) ∧
        v.fld .dbgStatus 63 63 = 1 ∧ v.debugScope = scope ∧ v.mgmt.unlockEnd = s.now + sec.toNat * 1000000000 ∧
        v.mem = s.mem) ∧
      ∃ v : State, exec (.debugLock h) s = .next (answer v.settleMode resOk) ∧ v.unlocked = false ∧ v.debugScope = 0 ∧
        (∀ n : Nat, (v.lc n).breakpoints = []) ∧ v.mem = s.mem)) ∧
  (∀ s : State,
    (s.unlocked = true → s.mgmt.unlockEnd ≤ s.now → ∃ v : State, exec .debugUnlockExpiry s = .next v.settleMode ∧
      v.unlocked = false ∧ v.debugScope = 0 ∧ (∀ n : Nat, (v.lc n).breakpoints = []) ∧ v.mem = s.mem) ∧
    (s.unlocked = false ∨ s.now < s.mgmt.unlockEnd → exec .debugUnlockExpiry s = .next s)) ∧
  ∀ (s : State) (lc : Lc) (l : LCore), l = s.lc lc.val → s.mode ≠ .off →
    ((s.unlocked && l.host.isSome && inScope s.debugScope l) = false → ∀ (r : DebugReg) (w : Option Quad) (a : Word) (n : Nat)
      (v : Option Word) (b : Bool), ∃ u1 u2 u3 u4 : State, exec (.tapHalt lc) s = .next u1 ∧
        exec (.tapRegisterAccess lc r w) s = .next u2 ∧ exec (.tapMemoryAccess lc a n v) s = .next u3 ∧
        exec (.tapBreakpoint lc a b) s = .next u4 ∧ ∀ u ∈ [u1, u2, u3, u4], { u with mgmt := s.mgmt } = s) ∧
    ((s.unlocked && l.host.isSome && inScope s.debugScope l) = true →
      let act (u : State) (f : LCore → LCore) : Prop := u.lc lc.val = f l ∧ { u with mgmt := s.mgmt, lcs := s.lcs } = s
      (l.stops.debug = false → s.haltable l = true →
        (∃ u, exec (.tapHalt lc) s = .next u ∧ act u (fun l => { l with reqs := { l.reqs with debug := true } }))) ∧
      (l.stops.debug = false → s.haltable l = false → (∃ u, exec (.tapHalt lc) s = .next u ∧
          act u (fun l => { l with heldHalt := true }))) ∧
      (l.stops.debug = false → ∃ v : State, exec (.tapResume lc) s = .next v.settleMode ∧
        (v.lc lc.val).reqs.debug = false ∧ (v.lc lc.val).heldHalt = false ∧ { v with mgmt := s.mgmt, lcs := s.lcs } = s) ∧
      (l.stops.debug = true → exec (.tapResume lc) s = .next ((s.tapLoad .debug).debugResume lc).settleMode) ∧
      (∀ o : Word, (∃ u, exec (.tapBreakpoint lc o true) s = .next u ∧ act u (fun l => { l with
          breakpoints := (l.breakpoints.filter fun b => b ≠ o) ++ [o] })) ∧
        (∃ u, exec (.tapBreakpoint lc o false) s = .next u ∧
            act u (fun l => { l with breakpoints := l.breakpoints.filter fun b => b ≠ o }))) ∧
      (l.stops.debug = true →
        (∀ (n : Reg) (v : Quad), (∃ u, exec (.tapRegisterAccess lc (.g n) (some v)) s = .next u ∧
            act u (fun l => l.wg n (v.setWidth 64))) ∧
          (∃ u, exec (.tapRegisterAccess lc (.f n) (some v)) s = .next u ∧ act u (fun l => l.wf n v)) ∧
          (∃ u, exec (.tapRegisterAccess lc .pc (some v)) s = .next u ∧ act u (fun l => { l with pc := v.setWidth 64 })) ∧
          (∃ u, exec (.tapRegisterAccess lc .csd (some v)) s = .next u ∧ act u (fun l => { l with csd := v }))) ∧
        (∀ r : DebugReg, ∃ u, exec (.tapRegisterAccess lc r none) s = .next u ∧ u.mgmt.tapDr = l.debugRead lc r ∧
          { u with mgmt := s.mgmt } = s) ∧
        (∀ (a : Word) (n : Nat), tapForm a.toNat n = true →
          (s.fwPass (.core lc) a.toNat n needR = false → ∃ u, exec (.tapMemoryAccess lc a n none) s = .next u ∧
            (u.lc lc.val).stops.frozen = true ∧ u.mem = s.mem) ∧
          (s.fwPass (.core lc) a.toNat n needR = true → ∀ (bs : List Byte) (v : State),
            (s.tapLoad .debug).readAt lc a.toNat n false = .ok (bs, v) → ∃ u,
              exec (.tapMemoryAccess lc a n none) s = .next u ∧ u.mgmt.tapDr = BitVec.ofNat 128 (leNat bs) ∧
              u.mem = v.mem))))

/-- R33, R34, R57; the frame is `touches` of Safety.lean. -/
def Obligations.EveryCommandCompletesInItsFrame : Prop :=
  ∀ (i : Instr) (s : State), ∃ t, exec i s = .next t ∧ t.pending = s.pending ∧ s.fuses.kept t.fuses ∧
    (s.memWf = true → t.memWf = true) ∧ ∀ p : Part, p ∉ touches i → p.same s t

/-- R33, R34, R57. -/
def Obligations.EveryStepKeepsMemoryFormFusesAndQueue : Prop :=
  ∀ s : State, ∃ t, step s = .next t ∧ t.pending = s.pending.tail ∧ (s.memWf = true → t.memWf = true) ∧
    s.fuses.kept t.fuses

/-- The invariant of EveryStepKeepsMemoryFormFusesAndQueue holds at reset. -/
def Obligations.ResetMemoryIsInCanonicalForm : Prop := State.reset.memWf = true ∧ State.reset.mem = []
end

