-- ==== Sys2Proof/Laws/Table.lean ====
section
/-! SUPPORT. What the operations of a sparse table read back, and that they keep its canonical form. -/

namespace Sys2Proof.Machine

variable {V : Type}

@[simp] theorem Table.get_nil (d : V) (k : Nat) : Table.get d [] k = d := rfl

theorem Table.get_cons (d : V) (a : Nat) (v : V) (t : Table V) (k : Nat) :
    Table.get d ((a, v) :: t) k = if a = k then v else Table.get d t k := rfl

@[simp] theorem Table.get_insert_self (d : V) (t : Table V) (k : Nat) (v : V) :
    Table.get d (Table.insert t k v) k = v := by
  induction t with
  | nil => simp [Table.insert, Table.get]
  | cons e t ih =>
    obtain ⟨a, w⟩ := e
    by_cases h : a = k
    · simp [Table.insert, Table.get, h]
    · by_cases h2 : k < a <;> simp [Table.insert, Table.get, h, h2, ih]

theorem Table.get_insert_ne (d : V) (t : Table V) {k j : Nat} (v : V) (h : k ≠ j) :
    Table.get d (Table.insert t k v) j = Table.get d t j := by
  induction t with
  | nil => simp [Table.insert, Table.get, h]
  | cons e t ih =>
    obtain ⟨a, w⟩ := e
    by_cases h1 : a = k
    · subst h1; simp [Table.insert, Table.get, h]
    · by_cases h2 : k < a <;> simp [Table.insert, Table.get, h, h1, h2, ih]

@[simp] theorem Table.get_erase_self (d : V) (t : Table V) (k : Nat) : Table.get d (Table.erase t k) k = d := by
  induction t with
  | nil => rfl
  | cons e t ih =>
    obtain ⟨a, w⟩ := e
    by_cases h : a = k <;> simp [Table.erase, Table.get, h, ih]

theorem Table.get_erase_ne (d : V) (t : Table V) {k j : Nat} (h : k ≠ j) :
    Table.get d (Table.erase t k) j = Table.get d t j := by
  induction t with
  | nil => rfl
  | cons e t ih =>
    obtain ⟨a, w⟩ := e
    by_cases h1 : a = k
    · subst h1; simp [Table.erase, Table.get, h, ih]
    · simp [Table.erase, Table.get, h1, ih]

/-- A write is read back. -/
@[simp] theorem Table.get_set_self [DecidableEq V] (d : V) (t : Table V) (k : Nat) (v : V) :
    Table.get d (Table.set d t k v) k = v := by
  by_cases h : v = d <;> simp [Table.set, h]

/-- A write leaves every other key alone. -/
theorem Table.get_set_ne [DecidableEq V] (d : V) (t : Table V) {k j : Nat} (v : V) (h : k ≠ j) :
    Table.get d (Table.set d t k v) j = Table.get d t j := by
  by_cases hv : v = d <;> simp [Table.set, hv, Table.get_erase_ne _ _ h, Table.get_insert_ne _ _ _ h]

/-- The same for a key whose default is another (the registers). -/
theorem Table.get_set_ne' [DecidableEq V] (d e : V) (t : Table V) {k j : Nat} (v : V) (h : k ≠ j) :
    Table.get e (Table.set d t k v) j = Table.get e t j := by
  by_cases hv : v = d <;> simp [Table.set, hv, Table.get_erase_ne _ _ h, Table.get_insert_ne _ _ _ h]

/-! ### Canonical form -/

/-- Keys of a sorted table, as a list relation. -/
theorem Table.sorted_iff (t : Table V) : Table.sorted t = true ↔ t.Pairwise fun a b => a.1 < b.1 := by
  induction t with
  | nil => simp [Table.sorted]
  | cons e t ih =>
    cases t with
    | nil => simp [Table.sorted]
    | cons f t =>
      obtain ⟨a, v⟩ := e
      obtain ⟨b, w⟩ := f
      simp only [Table.sorted, Bool.and_eq_true, decide_eq_true_eq, ih, List.pairwise_cons, List.mem_cons]
      constructor
      · rintro ⟨h, h2, h3⟩
        refine ⟨?_, h2, h3⟩
        rintro x (rfl | hx)
        · exact h
        · exact Nat.lt_trans h (h2 x hx)
      · rintro ⟨h, h2, h3⟩
        exact ⟨h _ (Or.inl rfl), h2, h3⟩

theorem Table.mem_insert {t : Table V} {k : Nat} {v : V} {e : Nat × V} (h : e ∈ Table.insert t k v) :
    e = (k, v) ∨ e ∈ t := by
  induction t with
  | nil => simpa [Table.insert] using h
  | cons f t ih =>
    obtain ⟨a, w⟩ := f
    by_cases h1 : a = k
    · simp [Table.insert, h1] at h
      rcases h with h | h
      · exact Or.inl h
      · exact Or.inr (List.mem_cons_of_mem _ h)
    · by_cases h2 : k < a
      · simpa [Table.insert, h1, h2] using h
      · simp [Table.insert, h1, h2] at h
        rcases h with h | h
        · exact Or.inr (h ▸ List.mem_cons_self ..)
        · rcases ih h with h | h
          · exact Or.inl h
          · exact Or.inr (List.mem_cons_of_mem _ h)

theorem Table.mem_erase {t : Table V} {k : Nat} {e : Nat × V} (h : e ∈ Table.erase t k) : e ∈ t := by
  induction t with
  | nil => exact h
  | cons f t ih =>
    obtain ⟨a, w⟩ := f
    by_cases h1 : a = k
    · simp [Table.erase, h1] at h
      exact List.mem_cons_of_mem _ (ih h)
    · simp [Table.erase, h1] at h
      rcases h with h | h
      · exact h ▸ List.mem_cons_self ..
      · exact List.mem_cons_of_mem _ (ih h)

theorem Table.sorted_insert {t : Table V} (h : Table.sorted t = true) (k : Nat) (v : V) :
    Table.sorted (Table.insert t k v) = true := by
  rw [Table.sorted_iff] at h ⊢
  induction t with
  | nil => simp [Table.insert]
  | cons f t ih =>
    obtain ⟨a, w⟩ := f
    rw [List.pairwise_cons] at h
    by_cases h1 : a = k
    · subst h1
      simpa [Table.insert, List.pairwise_cons] using h
    · by_cases h2 : k < a
      · simp only [Table.insert, h1, h2, if_true, if_false, List.pairwise_cons, List.mem_cons]
        refine ⟨?_, h.1, h.2⟩
        rintro x (rfl | hx)
        · exact h2
        · exact Nat.lt_trans h2 (h.1 x hx)
      · simp only [Table.insert, h1, h2, if_false, List.pairwise_cons]
        refine ⟨fun x hx => ?_, ih h.2⟩
        rcases Table.mem_insert hx with rfl | hx
        · simp only; omega
        · exact h.1 x hx

theorem Table.sorted_erase {t : Table V} (h : Table.sorted t = true) (k : Nat) :
    Table.sorted (Table.erase t k) = true := by
  rw [Table.sorted_iff] at h ⊢
  induction t with
  | nil => simp [Table.erase]
  | cons f t ih =>
    obtain ⟨a, w⟩ := f
    rw [List.pairwise_cons] at h
    by_cases h1 : a = k
    · simp [Table.erase, h1, ih h.2]
    · simp only [Table.erase, h1, if_false, List.pairwise_cons]
      exact ⟨fun x hx => h.1 x (Table.mem_erase hx), ih h.2⟩

theorem Table.wf_iff [DecidableEq V] (d : V) (t : Table V) :
    Table.wf d t = true ↔ Table.sorted t = true ∧ ∀ e ∈ t, e.2 ≠ d := by
  simp [Table.wf, Bool.and_eq_true, List.all_eq_true]

/-- A write keeps the canonical form. -/
theorem Table.wf_set [DecidableEq V] {d : V} {t : Table V} (h : Table.wf d t = true) (k : Nat) (v : V) :
    Table.wf d (Table.set d t k v) = true := by
  rw [Table.wf_iff] at h ⊢
  by_cases hv : v = d
  · simp only [Table.set, hv, if_true]
    exact ⟨Table.sorted_erase h.1 k, fun e he => h.2 e (Table.mem_erase he)⟩
  · simp only [Table.set, hv, if_false]
    refine ⟨Table.sorted_insert h.1 k v, fun e he => ?_⟩
    rcases Table.mem_insert he with rfl | he
    · exact hv
    · exact h.2 e he

/-- Dropping entries keeps the canonical form. -/
theorem Table.wf_filter [DecidableEq V] {d : V} {t : Table V} (h : Table.wf d t = true) (p : Nat × V → Bool) :
    Table.wf d (t.filter p) = true := by
  rw [Table.wf_iff] at h ⊢
  refine ⟨?_, fun e he => h.2 e (List.mem_of_mem_filter he)⟩
  rw [Table.sorted_iff]
  exact ((Table.sorted_iff t).1 h.1).filter p

end Sys2Proof.Machine
end

