-- ==== Sys2Proof/Laws/State.lean ====
section
/-! SUPPORT. What each elementary update of the state leaves alone, field by field, and what reading a record back
gives, so that no proof unfolds a record update. -/

namespace Sys2Proof.Machine

/-- `setLc` changes `lcs` alone. -/
@[simp] theorem State.setLc_fields (s : State) (n : Nat) (v : LCore) :
    (s.setLc n v).pending = s.pending ∧ (s.setLc n v).keeper = s.keeper ∧ (s.setLc n v).tb = s.tb ∧
    (s.setLc n v).fuses = s.fuses ∧ (s.setLc n v).loader = s.loader ∧ (s.setLc n v).regs = s.regs ∧
    (s.setLc n v).mem = s.mem ∧ (s.setLc n v).poison = s.poison ∧ (s.setLc n v).isls = s.isls ∧
    (s.setLc n v).migrations = s.migrations ∧ (s.setLc n v).holders = s.holders ∧
    (s.setLc n v).slices = s.slices ∧ (s.setLc n v).cts = s.cts ∧ (s.setLc n v).outReqs = s.outReqs ∧
    (s.setLc n v).chans = s.chans ∧ (s.setLc n v).maps = s.maps ∧ (s.setLc n v).queues = s.queues ∧
    (s.setLc n v).qdma = s.qdma ∧ (s.setLc n v).tags = s.tags ∧ (s.setLc n v).scs = s.scs ∧
    (s.setLc n v).pes = s.pes ∧ (s.setLc n v).mirrorUp = s.mirrorUp ∧ (s.setLc n v).ports = s.ports ∧
    (s.setLc n v).ctxs = s.ctxs ∧ (s.setLc n v).slots = s.slots ∧ (s.setLc n v).accs = s.accs ∧
    (s.setLc n v).cuts = s.cuts ∧ (s.setLc n v).cutReqs = s.cutReqs ∧ (s.setLc n v).irqs = s.irqs ∧
    (s.setLc n v).storms = s.storms ∧ (s.setLc n v).buckets = s.buckets ∧ (s.setLc n v).resets = s.resets ∧
    (s.setLc n v).srcBufs = s.srcBufs ∧ (s.setLc n v).cols = s.cols ∧ (s.setLc n v).pins = s.pins ∧
    (s.setLc n v).mgmt = s.mgmt ∧ (s.setLc n v).resps = s.resps ∧ (s.setLc n v).progress = s.progress ∧
    (s.setLc n v).free = s.free :=
  ⟨rfl, rfl, rfl, rfl, rfl, rfl, rfl, rfl, rfl, rfl, rfl, rfl, rfl, rfl, rfl, rfl, rfl, rfl, rfl, rfl, rfl, rfl, rfl, rfl, rfl, rfl, rfl, rfl, rfl, rfl, rfl, rfl, rfl, rfl, rfl, rfl, rfl, rfl, rfl⟩

@[simp] theorem State.setLc_reads (s : State) (n : Nat) (v : LCore) (j : Nat) :
    (s.setLc n v).isl j = s.isl j ∧ (s.setLc n v).holder j = s.holder j ∧ (s.setLc n v).slice j = s.slice j ∧
    (s.setLc n v).ct j = s.ct j ∧ (s.setLc n v).chan j = s.chan j ∧ (s.setLc n v).map j = s.map j ∧
    (s.setLc n v).queue j = s.queue j ∧ (s.setLc n v).dma j = s.dma j ∧ (s.setLc n v).sc j = s.sc j ∧
    (s.setLc n v).pe j = s.pe j ∧ (s.setLc n v).port j = s.port j ∧ (s.setLc n v).ctx j = s.ctx j ∧
    (s.setLc n v).aslot j = s.aslot j ∧ (s.setLc n v).acc j = s.acc j ∧ (s.setLc n v).prst j = s.prst j ∧
    (s.setLc n v).srcBuf j = s.srcBuf j ∧ (s.setLc n v).col j = s.col j ∧ (s.setLc n v).pin j = s.pin j ∧
    (s.setLc n v).stormAt j = s.stormAt j ∧ (s.setLc n v).irqsAt j = s.irqsAt j ∧
    (s.setLc n v).memByte j = s.memByte j :=
  ⟨rfl, rfl, rfl, rfl, rfl, rfl, rfl, rfl, rfl, rfl, rfl, rfl, rfl, rfl, rfl, rfl, rfl, rfl, rfl, rfl, rfl⟩

@[simp] theorem State.setLc_cut (s : State) (n : Nat) (v : LCore) (w : CutUnit) :
    (s.setLc n v).cut w = s.cut w :=
  rfl

@[simp] theorem State.setLc_reg (s : State) (n : Nat) (v : LCore) (q : CsReg) :
    (s.setLc n v).reg q = s.reg q ∧ (∀ hi lo, (s.setLc n v).fld q hi lo = s.fld q hi lo) :=
  ⟨rfl, fun _ _ => rfl⟩

@[simp] theorem State.setLc_isPoison (s : State) (n : Nat) (v : LCore) (y : LineNo) :
    (s.setLc n v).isPoison y = s.isPoison y :=
  rfl

@[simp] theorem State.setLc_mode (s : State) (n : Nat) (v : LCore) : (s.setLc n v).mode = s.mode ∧ (s.setLc n v).now = s.now := ⟨rfl, rfl⟩

/-- `setIsl` changes `isls` alone. -/
@[simp] theorem State.setIsl_fields (s : State) (n : Nat) (v : Isl) :
    (s.setIsl n v).pending = s.pending ∧ (s.setIsl n v).keeper = s.keeper ∧ (s.setIsl n v).tb = s.tb ∧
    (s.setIsl n v).fuses = s.fuses ∧ (s.setIsl n v).loader = s.loader ∧ (s.setIsl n v).regs = s.regs ∧
    (s.setIsl n v).mem = s.mem ∧ (s.setIsl n v).poison = s.poison ∧ (s.setIsl n v).lcs = s.lcs ∧
    (s.setIsl n v).migrations = s.migrations ∧ (s.setIsl n v).holders = s.holders ∧
    (s.setIsl n v).slices = s.slices ∧ (s.setIsl n v).cts = s.cts ∧ (s.setIsl n v).outReqs = s.outReqs ∧
    (s.setIsl n v).chans = s.chans ∧ (s.setIsl n v).maps = s.maps ∧ (s.setIsl n v).queues = s.queues ∧
    (s.setIsl n v).qdma = s.qdma ∧ (s.setIsl n v).tags = s.tags ∧ (s.setIsl n v).scs = s.scs ∧
    (s.setIsl n v).pes = s.pes ∧ (s.setIsl n v).mirrorUp = s.mirrorUp ∧ (s.setIsl n v).ports = s.ports ∧
    (s.setIsl n v).ctxs = s.ctxs ∧ (s.setIsl n v).slots = s.slots ∧ (s.setIsl n v).accs = s.accs ∧
    (s.setIsl n v).cuts = s.cuts ∧ (s.setIsl n v).cutReqs = s.cutReqs ∧ (s.setIsl n v).irqs = s.irqs ∧
    (s.setIsl n v).storms = s.storms ∧ (s.setIsl n v).buckets = s.buckets ∧ (s.setIsl n v).resets = s.resets ∧
    (s.setIsl n v).srcBufs = s.srcBufs ∧ (s.setIsl n v).cols = s.cols ∧ (s.setIsl n v).pins = s.pins ∧
    (s.setIsl n v).mgmt = s.mgmt ∧ (s.setIsl n v).resps = s.resps ∧ (s.setIsl n v).progress = s.progress ∧
    (s.setIsl n v).free = s.free :=
  ⟨rfl, rfl, rfl, rfl, rfl, rfl, rfl, rfl, rfl, rfl, rfl, rfl, rfl, rfl, rfl, rfl, rfl, rfl, rfl, rfl, rfl, rfl, rfl, rfl, rfl, rfl, rfl, rfl, rfl, rfl, rfl, rfl, rfl, rfl, rfl, rfl, rfl, rfl, rfl⟩

@[simp] theorem State.setIsl_reads (s : State) (n : Nat) (v : Isl) (j : Nat) :
    (s.setIsl n v).lc j = s.lc j ∧ (s.setIsl n v).holder j = s.holder j ∧ (s.setIsl n v).slice j = s.slice j ∧
    (s.setIsl n v).ct j = s.ct j ∧ (s.setIsl n v).chan j = s.chan j ∧ (s.setIsl n v).map j = s.map j ∧
    (s.setIsl n v).queue j = s.queue j ∧ (s.setIsl n v).dma j = s.dma j ∧ (s.setIsl n v).sc j = s.sc j ∧
    (s.setIsl n v).pe j = s.pe j ∧ (s.setIsl n v).port j = s.port j ∧ (s.setIsl n v).ctx j = s.ctx j ∧
    (s.setIsl n v).aslot j = s.aslot j ∧ (s.setIsl n v).acc j = s.acc j ∧ (s.setIsl n v).prst j = s.prst j ∧
    (s.setIsl n v).srcBuf j = s.srcBuf j ∧ (s.setIsl n v).col j = s.col j ∧ (s.setIsl n v).pin j = s.pin j ∧
    (s.setIsl n v).stormAt j = s.stormAt j ∧ (s.setIsl n v).irqsAt j = s.irqsAt j ∧
    (s.setIsl n v).memByte j = s.memByte j :=
  ⟨rfl, rfl, rfl, rfl, rfl, rfl, rfl, rfl, rfl, rfl, rfl, rfl, rfl, rfl, rfl, rfl, rfl, rfl, rfl, rfl, rfl⟩

@[simp] theorem State.setIsl_cut (s : State) (n : Nat) (v : Isl) (w : CutUnit) :
    (s.setIsl n v).cut w = s.cut w :=
  rfl

@[simp] theorem State.setIsl_reg (s : State) (n : Nat) (v : Isl) (q : CsReg) :
    (s.setIsl n v).reg q = s.reg q ∧ (∀ hi lo, (s.setIsl n v).fld q hi lo = s.fld q hi lo) :=
  ⟨rfl, fun _ _ => rfl⟩

@[simp] theorem State.setIsl_isPoison (s : State) (n : Nat) (v : Isl) (y : LineNo) :
    (s.setIsl n v).isPoison y = s.isPoison y :=
  rfl

@[simp] theorem State.setIsl_mode (s : State) (n : Nat) (v : Isl) : (s.setIsl n v).mode = s.mode ∧ (s.setIsl n v).now = s.now := ⟨rfl, rfl⟩

/-- `setHolder` changes `holders` alone. -/
@[simp] theorem State.setHolder_fields (s : State) (n : Nat) (v : Holder) :
    (s.setHolder n v).pending = s.pending ∧ (s.setHolder n v).keeper = s.keeper ∧ (s.setHolder n v).tb = s.tb ∧
    (s.setHolder n v).fuses = s.fuses ∧ (s.setHolder n v).loader = s.loader ∧ (s.setHolder n v).regs = s.regs ∧
    (s.setHolder n v).mem = s.mem ∧ (s.setHolder n v).poison = s.poison ∧ (s.setHolder n v).lcs = s.lcs ∧
    (s.setHolder n v).isls = s.isls ∧ (s.setHolder n v).migrations = s.migrations ∧
    (s.setHolder n v).slices = s.slices ∧ (s.setHolder n v).cts = s.cts ∧
    (s.setHolder n v).outReqs = s.outReqs ∧ (s.setHolder n v).chans = s.chans ∧
    (s.setHolder n v).maps = s.maps ∧ (s.setHolder n v).queues = s.queues ∧ (s.setHolder n v).qdma = s.qdma ∧
    (s.setHolder n v).tags = s.tags ∧ (s.setHolder n v).scs = s.scs ∧ (s.setHolder n v).pes = s.pes ∧
    (s.setHolder n v).mirrorUp = s.mirrorUp ∧ (s.setHolder n v).ports = s.ports ∧
    (s.setHolder n v).ctxs = s.ctxs ∧ (s.setHolder n v).slots = s.slots ∧ (s.setHolder n v).accs = s.accs ∧
    (s.setHolder n v).cuts = s.cuts ∧ (s.setHolder n v).cutReqs = s.cutReqs ∧ (s.setHolder n v).irqs = s.irqs ∧
    (s.setHolder n v).storms = s.storms ∧ (s.setHolder n v).buckets = s.buckets ∧
    (s.setHolder n v).resets = s.resets ∧ (s.setHolder n v).srcBufs = s.srcBufs ∧
    (s.setHolder n v).cols = s.cols ∧ (s.setHolder n v).pins = s.pins ∧ (s.setHolder n v).mgmt = s.mgmt ∧
    (s.setHolder n v).resps = s.resps ∧ (s.setHolder n v).progress = s.progress ∧
    (s.setHolder n v).free = s.free :=
  ⟨rfl, rfl, rfl, rfl, rfl, rfl, rfl, rfl, rfl, rfl, rfl, rfl, rfl, rfl, rfl, rfl, rfl, rfl, rfl, rfl, rfl, rfl, rfl, rfl, rfl, rfl, rfl, rfl, rfl, rfl, rfl, rfl, rfl, rfl, rfl, rfl, rfl, rfl, rfl⟩

@[simp] theorem State.setHolder_reads (s : State) (n : Nat) (v : Holder) (j : Nat) :
    (s.setHolder n v).lc j = s.lc j ∧ (s.setHolder n v).isl j = s.isl j ∧
    (s.setHolder n v).slice j = s.slice j ∧ (s.setHolder n v).ct j = s.ct j ∧
    (s.setHolder n v).chan j = s.chan j ∧ (s.setHolder n v).map j = s.map j ∧
    (s.setHolder n v).queue j = s.queue j ∧ (s.setHolder n v).dma j = s.dma j ∧
    (s.setHolder n v).sc j = s.sc j ∧ (s.setHolder n v).pe j = s.pe j ∧ (s.setHolder n v).port j = s.port j ∧
    (s.setHolder n v).ctx j = s.ctx j ∧ (s.setHolder n v).aslot j = s.aslot j ∧
    (s.setHolder n v).acc j = s.acc j ∧ (s.setHolder n v).prst j = s.prst j ∧
    (s.setHolder n v).srcBuf j = s.srcBuf j ∧ (s.setHolder n v).col j = s.col j ∧
    (s.setHolder n v).pin j = s.pin j ∧ (s.setHolder n v).stormAt j = s.stormAt j ∧
    (s.setHolder n v).irqsAt j = s.irqsAt j ∧ (s.setHolder n v).memByte j = s.memByte j :=
  ⟨rfl, rfl, rfl, rfl, rfl, rfl, rfl, rfl, rfl, rfl, rfl, rfl, rfl, rfl, rfl, rfl, rfl, rfl, rfl, rfl, rfl⟩

@[simp] theorem State.setHolder_cut (s : State) (n : Nat) (v : Holder) (w : CutUnit) :
    (s.setHolder n v).cut w = s.cut w :=
  rfl

@[simp] theorem State.setHolder_reg (s : State) (n : Nat) (v : Holder) (q : CsReg) :
    (s.setHolder n v).reg q = s.reg q ∧ (∀ hi lo, (s.setHolder n v).fld q hi lo = s.fld q hi lo) :=
  ⟨rfl, fun _ _ => rfl⟩

@[simp] theorem State.setHolder_isPoison (s : State) (n : Nat) (v : Holder) (y : LineNo) :
    (s.setHolder n v).isPoison y = s.isPoison y :=
  rfl

@[simp] theorem State.setHolder_mode (s : State) (n : Nat) (v : Holder) : (s.setHolder n v).mode = s.mode ∧ (s.setHolder n v).now = s.now := ⟨rfl, rfl⟩

/-- `setSlice` changes `slices` alone. -/
@[simp] theorem State.setSlice_fields (s : State) (n : Nat) (v : SliceSt) :
    (s.setSlice n v).pending = s.pending ∧ (s.setSlice n v).keeper = s.keeper ∧ (s.setSlice n v).tb = s.tb ∧
    (s.setSlice n v).fuses = s.fuses ∧ (s.setSlice n v).loader = s.loader ∧ (s.setSlice n v).regs = s.regs ∧
    (s.setSlice n v).mem = s.mem ∧ (s.setSlice n v).poison = s.poison ∧ (s.setSlice n v).lcs = s.lcs ∧
    (s.setSlice n v).isls = s.isls ∧ (s.setSlice n v).migrations = s.migrations ∧
    (s.setSlice n v).holders = s.holders ∧ (s.setSlice n v).cts = s.cts ∧
    (s.setSlice n v).outReqs = s.outReqs ∧ (s.setSlice n v).chans = s.chans ∧ (s.setSlice n v).maps = s.maps ∧
    (s.setSlice n v).queues = s.queues ∧ (s.setSlice n v).qdma = s.qdma ∧ (s.setSlice n v).tags = s.tags ∧
    (s.setSlice n v).scs = s.scs ∧ (s.setSlice n v).pes = s.pes ∧ (s.setSlice n v).mirrorUp = s.mirrorUp ∧
    (s.setSlice n v).ports = s.ports ∧ (s.setSlice n v).ctxs = s.ctxs ∧ (s.setSlice n v).slots = s.slots ∧
    (s.setSlice n v).accs = s.accs ∧ (s.setSlice n v).cuts = s.cuts ∧ (s.setSlice n v).cutReqs = s.cutReqs ∧
    (s.setSlice n v).irqs = s.irqs ∧ (s.setSlice n v).storms = s.storms ∧
    (s.setSlice n v).buckets = s.buckets ∧ (s.setSlice n v).resets = s.resets ∧
    (s.setSlice n v).srcBufs = s.srcBufs ∧ (s.setSlice n v).cols = s.cols ∧ (s.setSlice n v).pins = s.pins ∧
    (s.setSlice n v).mgmt = s.mgmt ∧ (s.setSlice n v).resps = s.resps ∧
    (s.setSlice n v).progress = s.progress ∧ (s.setSlice n v).free = s.free :=
  ⟨rfl, rfl, rfl, rfl, rfl, rfl, rfl, rfl, rfl, rfl, rfl, rfl, rfl, rfl, rfl, rfl, rfl, rfl, rfl, rfl, rfl, rfl, rfl, rfl, rfl, rfl, rfl, rfl, rfl, rfl, rfl, rfl, rfl, rfl, rfl, rfl, rfl, rfl, rfl⟩

@[simp] theorem State.setSlice_reads (s : State) (n : Nat) (v : SliceSt) (j : Nat) :
    (s.setSlice n v).lc j = s.lc j ∧ (s.setSlice n v).isl j = s.isl j ∧
    (s.setSlice n v).holder j = s.holder j ∧ (s.setSlice n v).ct j = s.ct j ∧
    (s.setSlice n v).chan j = s.chan j ∧ (s.setSlice n v).map j = s.map j ∧
    (s.setSlice n v).queue j = s.queue j ∧ (s.setSlice n v).dma j = s.dma j ∧ (s.setSlice n v).sc j = s.sc j ∧
    (s.setSlice n v).pe j = s.pe j ∧ (s.setSlice n v).port j = s.port j ∧ (s.setSlice n v).ctx j = s.ctx j ∧
    (s.setSlice n v).aslot j = s.aslot j ∧ (s.setSlice n v).acc j = s.acc j ∧
    (s.setSlice n v).prst j = s.prst j ∧ (s.setSlice n v).srcBuf j = s.srcBuf j ∧
    (s.setSlice n v).col j = s.col j ∧ (s.setSlice n v).pin j = s.pin j ∧
    (s.setSlice n v).stormAt j = s.stormAt j ∧ (s.setSlice n v).irqsAt j = s.irqsAt j ∧
    (s.setSlice n v).memByte j = s.memByte j :=
  ⟨rfl, rfl, rfl, rfl, rfl, rfl, rfl, rfl, rfl, rfl, rfl, rfl, rfl, rfl, rfl, rfl, rfl, rfl, rfl, rfl, rfl⟩

@[simp] theorem State.setSlice_cut (s : State) (n : Nat) (v : SliceSt) (w : CutUnit) :
    (s.setSlice n v).cut w = s.cut w :=
  rfl

@[simp] theorem State.setSlice_reg (s : State) (n : Nat) (v : SliceSt) (q : CsReg) :
    (s.setSlice n v).reg q = s.reg q ∧ (∀ hi lo, (s.setSlice n v).fld q hi lo = s.fld q hi lo) :=
  ⟨rfl, fun _ _ => rfl⟩

@[simp] theorem State.setSlice_isPoison (s : State) (n : Nat) (v : SliceSt) (y : LineNo) :
    (s.setSlice n v).isPoison y = s.isPoison y :=
  rfl

@[simp] theorem State.setSlice_mode (s : State) (n : Nat) (v : SliceSt) : (s.setSlice n v).mode = s.mode ∧ (s.setSlice n v).now = s.now := ⟨rfl, rfl⟩

/-- `setCt` changes `cts` alone. -/
@[simp] theorem State.setCt_fields (s : State) (n : Nat) (v : CtSt) :
    (s.setCt n v).pending = s.pending ∧ (s.setCt n v).keeper = s.keeper ∧ (s.setCt n v).tb = s.tb ∧
    (s.setCt n v).fuses = s.fuses ∧ (s.setCt n v).loader = s.loader ∧ (s.setCt n v).regs = s.regs ∧
    (s.setCt n v).mem = s.mem ∧ (s.setCt n v).poison = s.poison ∧ (s.setCt n v).lcs = s.lcs ∧
    (s.setCt n v).isls = s.isls ∧ (s.setCt n v).migrations = s.migrations ∧ (s.setCt n v).holders = s.holders ∧
    (s.setCt n v).slices = s.slices ∧ (s.setCt n v).outReqs = s.outReqs ∧ (s.setCt n v).chans = s.chans ∧
    (s.setCt n v).maps = s.maps ∧ (s.setCt n v).queues = s.queues ∧ (s.setCt n v).qdma = s.qdma ∧
    (s.setCt n v).tags = s.tags ∧ (s.setCt n v).scs = s.scs ∧ (s.setCt n v).pes = s.pes ∧
    (s.setCt n v).mirrorUp = s.mirrorUp ∧ (s.setCt n v).ports = s.ports ∧ (s.setCt n v).ctxs = s.ctxs ∧
    (s.setCt n v).slots = s.slots ∧ (s.setCt n v).accs = s.accs ∧ (s.setCt n v).cuts = s.cuts ∧
    (s.setCt n v).cutReqs = s.cutReqs ∧ (s.setCt n v).irqs = s.irqs ∧ (s.setCt n v).storms = s.storms ∧
    (s.setCt n v).buckets = s.buckets ∧ (s.setCt n v).resets = s.resets ∧ (s.setCt n v).srcBufs = s.srcBufs ∧
    (s.setCt n v).cols = s.cols ∧ (s.setCt n v).pins = s.pins ∧ (s.setCt n v).mgmt = s.mgmt ∧
    (s.setCt n v).resps = s.resps ∧ (s.setCt n v).progress = s.progress ∧ (s.setCt n v).free = s.free :=
  ⟨rfl, rfl, rfl, rfl, rfl, rfl, rfl, rfl, rfl, rfl, rfl, rfl, rfl, rfl, rfl, rfl, rfl, rfl, rfl, rfl, rfl, rfl, rfl, rfl, rfl, rfl, rfl, rfl, rfl, rfl, rfl, rfl, rfl, rfl, rfl, rfl, rfl, rfl, rfl⟩

@[simp] theorem State.setCt_reads (s : State) (n : Nat) (v : CtSt) (j : Nat) :
    (s.setCt n v).lc j = s.lc j ∧ (s.setCt n v).isl j = s.isl j ∧ (s.setCt n v).holder j = s.holder j ∧
    (s.setCt n v).slice j = s.slice j ∧ (s.setCt n v).chan j = s.chan j ∧ (s.setCt n v).map j = s.map j ∧
    (s.setCt n v).queue j = s.queue j ∧ (s.setCt n v).dma j = s.dma j ∧ (s.setCt n v).sc j = s.sc j ∧
    (s.setCt n v).pe j = s.pe j ∧ (s.setCt n v).port j = s.port j ∧ (s.setCt n v).ctx j = s.ctx j ∧
    (s.setCt n v).aslot j = s.aslot j ∧ (s.setCt n v).acc j = s.acc j ∧ (s.setCt n v).prst j = s.prst j ∧
    (s.setCt n v).srcBuf j = s.srcBuf j ∧ (s.setCt n v).col j = s.col j ∧ (s.setCt n v).pin j = s.pin j ∧
    (s.setCt n v).stormAt j = s.stormAt j ∧ (s.setCt n v).irqsAt j = s.irqsAt j ∧
    (s.setCt n v).memByte j = s.memByte j :=
  ⟨rfl, rfl, rfl, rfl, rfl, rfl, rfl, rfl, rfl, rfl, rfl, rfl, rfl, rfl, rfl, rfl, rfl, rfl, rfl, rfl, rfl⟩

@[simp] theorem State.setCt_cut (s : State) (n : Nat) (v : CtSt) (w : CutUnit) :
    (s.setCt n v).cut w = s.cut w :=
  rfl

@[simp] theorem State.setCt_reg (s : State) (n : Nat) (v : CtSt) (q : CsReg) :
    (s.setCt n v).reg q = s.reg q ∧ (∀ hi lo, (s.setCt n v).fld q hi lo = s.fld q hi lo) :=
  ⟨rfl, fun _ _ => rfl⟩

@[simp] theorem State.setCt_isPoison (s : State) (n : Nat) (v : CtSt) (y : LineNo) :
    (s.setCt n v).isPoison y = s.isPoison y :=
  rfl

@[simp] theorem State.setCt_mode (s : State) (n : Nat) (v : CtSt) : (s.setCt n v).mode = s.mode ∧ (s.setCt n v).now = s.now := ⟨rfl, rfl⟩

/-- `setChan` changes `chans` alone. -/
@[simp] theorem State.setChan_fields (s : State) (n : Nat) (v : ChanSt) :
    (s.setChan n v).pending = s.pending ∧ (s.setChan n v).keeper = s.keeper ∧ (s.setChan n v).tb = s.tb ∧
    (s.setChan n v).fuses = s.fuses ∧ (s.setChan n v).loader = s.loader ∧ (s.setChan n v).regs = s.regs ∧
    (s.setChan n v).mem = s.mem ∧ (s.setChan n v).poison = s.poison ∧ (s.setChan n v).lcs = s.lcs ∧
    (s.setChan n v).isls = s.isls ∧ (s.setChan n v).migrations = s.migrations ∧
    (s.setChan n v).holders = s.holders ∧ (s.setChan n v).slices = s.slices ∧ (s.setChan n v).cts = s.cts ∧
    (s.setChan n v).outReqs = s.outReqs ∧ (s.setChan n v).maps = s.maps ∧ (s.setChan n v).queues = s.queues ∧
    (s.setChan n v).qdma = s.qdma ∧ (s.setChan n v).tags = s.tags ∧ (s.setChan n v).scs = s.scs ∧
    (s.setChan n v).pes = s.pes ∧ (s.setChan n v).mirrorUp = s.mirrorUp ∧ (s.setChan n v).ports = s.ports ∧
    (s.setChan n v).ctxs = s.ctxs ∧ (s.setChan n v).slots = s.slots ∧ (s.setChan n v).accs = s.accs ∧
    (s.setChan n v).cuts = s.cuts ∧ (s.setChan n v).cutReqs = s.cutReqs ∧ (s.setChan n v).irqs = s.irqs ∧
    (s.setChan n v).storms = s.storms ∧ (s.setChan n v).buckets = s.buckets ∧
    (s.setChan n v).resets = s.resets ∧ (s.setChan n v).srcBufs = s.srcBufs ∧ (s.setChan n v).cols = s.cols ∧
    (s.setChan n v).pins = s.pins ∧ (s.setChan n v).mgmt = s.mgmt ∧ (s.setChan n v).resps = s.resps ∧
    (s.setChan n v).progress = s.progress ∧ (s.setChan n v).free = s.free :=
  ⟨rfl, rfl, rfl, rfl, rfl, rfl, rfl, rfl, rfl, rfl, rfl, rfl, rfl, rfl, rfl, rfl, rfl, rfl, rfl, rfl, rfl, rfl, rfl, rfl, rfl, rfl, rfl, rfl, rfl, rfl, rfl, rfl, rfl, rfl, rfl, rfl, rfl, rfl, rfl⟩

@[simp] theorem State.setChan_reads (s : State) (n : Nat) (v : ChanSt) (j : Nat) :
    (s.setChan n v).lc j = s.lc j ∧ (s.setChan n v).isl j = s.isl j ∧ (s.setChan n v).holder j = s.holder j ∧
    (s.setChan n v).slice j = s.slice j ∧ (s.setChan n v).ct j = s.ct j ∧ (s.setChan n v).map j = s.map j ∧
    (s.setChan n v).queue j = s.queue j ∧ (s.setChan n v).dma j = s.dma j ∧ (s.setChan n v).sc j = s.sc j ∧
    (s.setChan n v).pe j = s.pe j ∧ (s.setChan n v).port j = s.port j ∧ (s.setChan n v).ctx j = s.ctx j ∧
    (s.setChan n v).aslot j = s.aslot j ∧ (s.setChan n v).acc j = s.acc j ∧ (s.setChan n v).prst j = s.prst j ∧
    (s.setChan n v).srcBuf j = s.srcBuf j ∧ (s.setChan n v).col j = s.col j ∧ (s.setChan n v).pin j = s.pin j ∧
    (s.setChan n v).stormAt j = s.stormAt j ∧ (s.setChan n v).irqsAt j = s.irqsAt j ∧
    (s.setChan n v).memByte j = s.memByte j :=
  ⟨rfl, rfl, rfl, rfl, rfl, rfl, rfl, rfl, rfl, rfl, rfl, rfl, rfl, rfl, rfl, rfl, rfl, rfl, rfl, rfl, rfl⟩

@[simp] theorem State.setChan_cut (s : State) (n : Nat) (v : ChanSt) (w : CutUnit) :
    (s.setChan n v).cut w = s.cut w :=
  rfl

@[simp] theorem State.setChan_reg (s : State) (n : Nat) (v : ChanSt) (q : CsReg) :
    (s.setChan n v).reg q = s.reg q ∧ (∀ hi lo, (s.setChan n v).fld q hi lo = s.fld q hi lo) :=
  ⟨rfl, fun _ _ => rfl⟩

@[simp] theorem State.setChan_isPoison (s : State) (n : Nat) (v : ChanSt) (y : LineNo) :
    (s.setChan n v).isPoison y = s.isPoison y :=
  rfl

@[simp] theorem State.setChan_mode (s : State) (n : Nat) (v : ChanSt) : (s.setChan n v).mode = s.mode ∧ (s.setChan n v).now = s.now := ⟨rfl, rfl⟩

/-- `setMap` changes `maps` alone. -/
@[simp] theorem State.setMap_fields (s : State) (n : Nat) (v : MapSt) :
    (s.setMap n v).pending = s.pending ∧ (s.setMap n v).keeper = s.keeper ∧ (s.setMap n v).tb = s.tb ∧
    (s.setMap n v).fuses = s.fuses ∧ (s.setMap n v).loader = s.loader ∧ (s.setMap n v).regs = s.regs ∧
    (s.setMap n v).mem = s.mem ∧ (s.setMap n v).poison = s.poison ∧ (s.setMap n v).lcs = s.lcs ∧
    (s.setMap n v).isls = s.isls ∧ (s.setMap n v).migrations = s.migrations ∧
    (s.setMap n v).holders = s.holders ∧ (s.setMap n v).slices = s.slices ∧ (s.setMap n v).cts = s.cts ∧
    (s.setMap n v).outReqs = s.outReqs ∧ (s.setMap n v).chans = s.chans ∧ (s.setMap n v).queues = s.queues ∧
    (s.setMap n v).qdma = s.qdma ∧ (s.setMap n v).tags = s.tags ∧ (s.setMap n v).scs = s.scs ∧
    (s.setMap n v).pes = s.pes ∧ (s.setMap n v).mirrorUp = s.mirrorUp ∧ (s.setMap n v).ports = s.ports ∧
    (s.setMap n v).ctxs = s.ctxs ∧ (s.setMap n v).slots = s.slots ∧ (s.setMap n v).accs = s.accs ∧
    (s.setMap n v).cuts = s.cuts ∧ (s.setMap n v).cutReqs = s.cutReqs ∧ (s.setMap n v).irqs = s.irqs ∧
    (s.setMap n v).storms = s.storms ∧ (s.setMap n v).buckets = s.buckets ∧ (s.setMap n v).resets = s.resets ∧
    (s.setMap n v).srcBufs = s.srcBufs ∧ (s.setMap n v).cols = s.cols ∧ (s.setMap n v).pins = s.pins ∧
    (s.setMap n v).mgmt = s.mgmt ∧ (s.setMap n v).resps = s.resps ∧ (s.setMap n v).progress = s.progress ∧
    (s.setMap n v).free = s.free :=
  ⟨rfl, rfl, rfl, rfl, rfl, rfl, rfl, rfl, rfl, rfl, rfl, rfl, rfl, rfl, rfl, rfl, rfl, rfl, rfl, rfl, rfl, rfl, rfl, rfl, rfl, rfl, rfl, rfl, rfl, rfl, rfl, rfl, rfl, rfl, rfl, rfl, rfl, rfl, rfl⟩

@[simp] theorem State.setMap_reads (s : State) (n : Nat) (v : MapSt) (j : Nat) :
    (s.setMap n v).lc j = s.lc j ∧ (s.setMap n v).isl j = s.isl j ∧ (s.setMap n v).holder j = s.holder j ∧
    (s.setMap n v).slice j = s.slice j ∧ (s.setMap n v).ct j = s.ct j ∧ (s.setMap n v).chan j = s.chan j ∧
    (s.setMap n v).queue j = s.queue j ∧ (s.setMap n v).dma j = s.dma j ∧ (s.setMap n v).sc j = s.sc j ∧
    (s.setMap n v).pe j = s.pe j ∧ (s.setMap n v).port j = s.port j ∧ (s.setMap n v).ctx j = s.ctx j ∧
    (s.setMap n v).aslot j = s.aslot j ∧ (s.setMap n v).acc j = s.acc j ∧ (s.setMap n v).prst j = s.prst j ∧
    (s.setMap n v).srcBuf j = s.srcBuf j ∧ (s.setMap n v).col j = s.col j ∧ (s.setMap n v).pin j = s.pin j ∧
    (s.setMap n v).stormAt j = s.stormAt j ∧ (s.setMap n v).irqsAt j = s.irqsAt j ∧
    (s.setMap n v).memByte j = s.memByte j :=
  ⟨rfl, rfl, rfl, rfl, rfl, rfl, rfl, rfl, rfl, rfl, rfl, rfl, rfl, rfl, rfl, rfl, rfl, rfl, rfl, rfl, rfl⟩

@[simp] theorem State.setMap_cut (s : State) (n : Nat) (v : MapSt) (w : CutUnit) :
    (s.setMap n v).cut w = s.cut w :=
  rfl

@[simp] theorem State.setMap_reg (s : State) (n : Nat) (v : MapSt) (q : CsReg) :
    (s.setMap n v).reg q = s.reg q ∧ (∀ hi lo, (s.setMap n v).fld q hi lo = s.fld q hi lo) :=
  ⟨rfl, fun _ _ => rfl⟩

@[simp] theorem State.setMap_isPoison (s : State) (n : Nat) (v : MapSt) (y : LineNo) :
    (s.setMap n v).isPoison y = s.isPoison y :=
  rfl

@[simp] theorem State.setMap_mode (s : State) (n : Nat) (v : MapSt) : (s.setMap n v).mode = s.mode ∧ (s.setMap n v).now = s.now := ⟨rfl, rfl⟩

/-- `setQueue` changes `queues` alone. -/
@[simp] theorem State.setQueue_fields (s : State) (n : Nat) (v : QSt) :
    (s.setQueue n v).pending = s.pending ∧ (s.setQueue n v).keeper = s.keeper ∧ (s.setQueue n v).tb = s.tb ∧
    (s.setQueue n v).fuses = s.fuses ∧ (s.setQueue n v).loader = s.loader ∧ (s.setQueue n v).regs = s.regs ∧
    (s.setQueue n v).mem = s.mem ∧ (s.setQueue n v).poison = s.poison ∧ (s.setQueue n v).lcs = s.lcs ∧
    (s.setQueue n v).isls = s.isls ∧ (s.setQueue n v).migrations = s.migrations ∧
    (s.setQueue n v).holders = s.holders ∧ (s.setQueue n v).slices = s.slices ∧ (s.setQueue n v).cts = s.cts ∧
    (s.setQueue n v).outReqs = s.outReqs ∧ (s.setQueue n v).chans = s.chans ∧ (s.setQueue n v).maps = s.maps ∧
    (s.setQueue n v).qdma = s.qdma ∧ (s.setQueue n v).tags = s.tags ∧ (s.setQueue n v).scs = s.scs ∧
    (s.setQueue n v).pes = s.pes ∧ (s.setQueue n v).mirrorUp = s.mirrorUp ∧ (s.setQueue n v).ports = s.ports ∧
    (s.setQueue n v).ctxs = s.ctxs ∧ (s.setQueue n v).slots = s.slots ∧ (s.setQueue n v).accs = s.accs ∧
    (s.setQueue n v).cuts = s.cuts ∧ (s.setQueue n v).cutReqs = s.cutReqs ∧ (s.setQueue n v).irqs = s.irqs ∧
    (s.setQueue n v).storms = s.storms ∧ (s.setQueue n v).buckets = s.buckets ∧
    (s.setQueue n v).resets = s.resets ∧ (s.setQueue n v).srcBufs = s.srcBufs ∧
    (s.setQueue n v).cols = s.cols ∧ (s.setQueue n v).pins = s.pins ∧ (s.setQueue n v).mgmt = s.mgmt ∧
    (s.setQueue n v).resps = s.resps ∧ (s.setQueue n v).progress = s.progress ∧ (s.setQueue n v).free = s.free :=
  ⟨rfl, rfl, rfl, rfl, rfl, rfl, rfl, rfl, rfl, rfl, rfl, rfl, rfl, rfl, rfl, rfl, rfl, rfl, rfl, rfl, rfl, rfl, rfl, rfl, rfl, rfl, rfl, rfl, rfl, rfl, rfl, rfl, rfl, rfl, rfl, rfl, rfl, rfl, rfl⟩

@[simp] theorem State.setQueue_reads (s : State) (n : Nat) (v : QSt) (j : Nat) :
    (s.setQueue n v).lc j = s.lc j ∧ (s.setQueue n v).isl j = s.isl j ∧
    (s.setQueue n v).holder j = s.holder j ∧ (s.setQueue n v).slice j = s.slice j ∧
    (s.setQueue n v).ct j = s.ct j ∧ (s.setQueue n v).chan j = s.chan j ∧ (s.setQueue n v).map j = s.map j ∧
    (s.setQueue n v).dma j = s.dma j ∧ (s.setQueue n v).sc j = s.sc j ∧ (s.setQueue n v).pe j = s.pe j ∧
    (s.setQueue n v).port j = s.port j ∧ (s.setQueue n v).ctx j = s.ctx j ∧
    (s.setQueue n v).aslot j = s.aslot j ∧ (s.setQueue n v).acc j = s.acc j ∧
    (s.setQueue n v).prst j = s.prst j ∧ (s.setQueue n v).srcBuf j = s.srcBuf j ∧
    (s.setQueue n v).col j = s.col j ∧ (s.setQueue n v).pin j = s.pin j ∧
    (s.setQueue n v).stormAt j = s.stormAt j ∧ (s.setQueue n v).irqsAt j = s.irqsAt j ∧
    (s.setQueue n v).memByte j = s.memByte j :=
  ⟨rfl, rfl, rfl, rfl, rfl, rfl, rfl, rfl, rfl, rfl, rfl, rfl, rfl, rfl, rfl, rfl, rfl, rfl, rfl, rfl, rfl⟩

@[simp] theorem State.setQueue_cut (s : State) (n : Nat) (v : QSt) (w : CutUnit) :
    (s.setQueue n v).cut w = s.cut w :=
  rfl

@[simp] theorem State.setQueue_reg (s : State) (n : Nat) (v : QSt) (q : CsReg) :
    (s.setQueue n v).reg q = s.reg q ∧ (∀ hi lo, (s.setQueue n v).fld q hi lo = s.fld q hi lo) :=
  ⟨rfl, fun _ _ => rfl⟩

@[simp] theorem State.setQueue_isPoison (s : State) (n : Nat) (v : QSt) (y : LineNo) :
    (s.setQueue n v).isPoison y = s.isPoison y :=
  rfl

@[simp] theorem State.setQueue_mode (s : State) (n : Nat) (v : QSt) : (s.setQueue n v).mode = s.mode ∧ (s.setQueue n v).now = s.now := ⟨rfl, rfl⟩

/-- `setDma` changes `qdma` alone. -/
@[simp] theorem State.setDma_fields (s : State) (n : Nat) (v : QdmaSt) :
    (s.setDma n v).pending = s.pending ∧ (s.setDma n v).keeper = s.keeper ∧ (s.setDma n v).tb = s.tb ∧
    (s.setDma n v).fuses = s.fuses ∧ (s.setDma n v).loader = s.loader ∧ (s.setDma n v).regs = s.regs ∧
    (s.setDma n v).mem = s.mem ∧ (s.setDma n v).poison = s.poison ∧ (s.setDma n v).lcs = s.lcs ∧
    (s.setDma n v).isls = s.isls ∧ (s.setDma n v).migrations = s.migrations ∧
    (s.setDma n v).holders = s.holders ∧ (s.setDma n v).slices = s.slices ∧ (s.setDma n v).cts = s.cts ∧
    (s.setDma n v).outReqs = s.outReqs ∧ (s.setDma n v).chans = s.chans ∧ (s.setDma n v).maps = s.maps ∧
    (s.setDma n v).queues = s.queues ∧ (s.setDma n v).tags = s.tags ∧ (s.setDma n v).scs = s.scs ∧
    (s.setDma n v).pes = s.pes ∧ (s.setDma n v).mirrorUp = s.mirrorUp ∧ (s.setDma n v).ports = s.ports ∧
    (s.setDma n v).ctxs = s.ctxs ∧ (s.setDma n v).slots = s.slots ∧ (s.setDma n v).accs = s.accs ∧
    (s.setDma n v).cuts = s.cuts ∧ (s.setDma n v).cutReqs = s.cutReqs ∧ (s.setDma n v).irqs = s.irqs ∧
    (s.setDma n v).storms = s.storms ∧ (s.setDma n v).buckets = s.buckets ∧ (s.setDma n v).resets = s.resets ∧
    (s.setDma n v).srcBufs = s.srcBufs ∧ (s.setDma n v).cols = s.cols ∧ (s.setDma n v).pins = s.pins ∧
    (s.setDma n v).mgmt = s.mgmt ∧ (s.setDma n v).resps = s.resps ∧ (s.setDma n v).progress = s.progress ∧
    (s.setDma n v).free = s.free :=
  ⟨rfl, rfl, rfl, rfl, rfl, rfl, rfl, rfl, rfl, rfl, rfl, rfl, rfl, rfl, rfl, rfl, rfl, rfl, rfl, rfl, rfl, rfl, rfl, rfl, rfl, rfl, rfl, rfl, rfl, rfl, rfl, rfl, rfl, rfl, rfl, rfl, rfl, rfl, rfl⟩

@[simp] theorem State.setDma_reads (s : State) (n : Nat) (v : QdmaSt) (j : Nat) :
    (s.setDma n v).lc j = s.lc j ∧ (s.setDma n v).isl j = s.isl j ∧ (s.setDma n v).holder j = s.holder j ∧
    (s.setDma n v).slice j = s.slice j ∧ (s.setDma n v).ct j = s.ct j ∧ (s.setDma n v).chan j = s.chan j ∧
    (s.setDma n v).map j = s.map j ∧ (s.setDma n v).queue j = s.queue j ∧ (s.setDma n v).sc j = s.sc j ∧
    (s.setDma n v).pe j = s.pe j ∧ (s.setDma n v).port j = s.port j ∧ (s.setDma n v).ctx j = s.ctx j ∧
    (s.setDma n v).aslot j = s.aslot j ∧ (s.setDma n v).acc j = s.acc j ∧ (s.setDma n v).prst j = s.prst j ∧
    (s.setDma n v).srcBuf j = s.srcBuf j ∧ (s.setDma n v).col j = s.col j ∧ (s.setDma n v).pin j = s.pin j ∧
    (s.setDma n v).stormAt j = s.stormAt j ∧ (s.setDma n v).irqsAt j = s.irqsAt j ∧
    (s.setDma n v).memByte j = s.memByte j :=
  ⟨rfl, rfl, rfl, rfl, rfl, rfl, rfl, rfl, rfl, rfl, rfl, rfl, rfl, rfl, rfl, rfl, rfl, rfl, rfl, rfl, rfl⟩

@[simp] theorem State.setDma_cut (s : State) (n : Nat) (v : QdmaSt) (w : CutUnit) :
    (s.setDma n v).cut w = s.cut w :=
  rfl

@[simp] theorem State.setDma_reg (s : State) (n : Nat) (v : QdmaSt) (q : CsReg) :
    (s.setDma n v).reg q = s.reg q ∧ (∀ hi lo, (s.setDma n v).fld q hi lo = s.fld q hi lo) :=
  ⟨rfl, fun _ _ => rfl⟩

@[simp] theorem State.setDma_isPoison (s : State) (n : Nat) (v : QdmaSt) (y : LineNo) :
    (s.setDma n v).isPoison y = s.isPoison y :=
  rfl

@[simp] theorem State.setDma_mode (s : State) (n : Nat) (v : QdmaSt) : (s.setDma n v).mode = s.mode ∧ (s.setDma n v).now = s.now := ⟨rfl, rfl⟩

/-- `setSc` changes `scs` alone. -/
@[simp] theorem State.setSc_fields (s : State) (n : Nat) (v : ScSt) :
    (s.setSc n v).pending = s.pending ∧ (s.setSc n v).keeper = s.keeper ∧ (s.setSc n v).tb = s.tb ∧
    (s.setSc n v).fuses = s.fuses ∧ (s.setSc n v).loader = s.loader ∧ (s.setSc n v).regs = s.regs ∧
    (s.setSc n v).mem = s.mem ∧ (s.setSc n v).poison = s.poison ∧ (s.setSc n v).lcs = s.lcs ∧
    (s.setSc n v).isls = s.isls ∧ (s.setSc n v).migrations = s.migrations ∧ (s.setSc n v).holders = s.holders ∧
    (s.setSc n v).slices = s.slices ∧ (s.setSc n v).cts = s.cts ∧ (s.setSc n v).outReqs = s.outReqs ∧
    (s.setSc n v).chans = s.chans ∧ (s.setSc n v).maps = s.maps ∧ (s.setSc n v).queues = s.queues ∧
    (s.setSc n v).qdma = s.qdma ∧ (s.setSc n v).tags = s.tags ∧ (s.setSc n v).pes = s.pes ∧
    (s.setSc n v).mirrorUp = s.mirrorUp ∧ (s.setSc n v).ports = s.ports ∧ (s.setSc n v).ctxs = s.ctxs ∧
    (s.setSc n v).slots = s.slots ∧ (s.setSc n v).accs = s.accs ∧ (s.setSc n v).cuts = s.cuts ∧
    (s.setSc n v).cutReqs = s.cutReqs ∧ (s.setSc n v).irqs = s.irqs ∧ (s.setSc n v).storms = s.storms ∧
    (s.setSc n v).buckets = s.buckets ∧ (s.setSc n v).resets = s.resets ∧ (s.setSc n v).srcBufs = s.srcBufs ∧
    (s.setSc n v).cols = s.cols ∧ (s.setSc n v).pins = s.pins ∧ (s.setSc n v).mgmt = s.mgmt ∧
    (s.setSc n v).resps = s.resps ∧ (s.setSc n v).progress = s.progress ∧ (s.setSc n v).free = s.free :=
  ⟨rfl, rfl, rfl, rfl, rfl, rfl, rfl, rfl, rfl, rfl, rfl, rfl, rfl, rfl, rfl, rfl, rfl, rfl, rfl, rfl, rfl, rfl, rfl, rfl, rfl, rfl, rfl, rfl, rfl, rfl, rfl, rfl, rfl, rfl, rfl, rfl, rfl, rfl, rfl⟩

@[simp] theorem State.setSc_reads (s : State) (n : Nat) (v : ScSt) (j : Nat) :
    (s.setSc n v).lc j = s.lc j ∧ (s.setSc n v).isl j = s.isl j ∧ (s.setSc n v).holder j = s.holder j ∧
    (s.setSc n v).slice j = s.slice j ∧ (s.setSc n v).ct j = s.ct j ∧ (s.setSc n v).chan j = s.chan j ∧
    (s.setSc n v).map j = s.map j ∧ (s.setSc n v).queue j = s.queue j ∧ (s.setSc n v).dma j = s.dma j ∧
    (s.setSc n v).pe j = s.pe j ∧ (s.setSc n v).port j = s.port j ∧ (s.setSc n v).ctx j = s.ctx j ∧
    (s.setSc n v).aslot j = s.aslot j ∧ (s.setSc n v).acc j = s.acc j ∧ (s.setSc n v).prst j = s.prst j ∧
    (s.setSc n v).srcBuf j = s.srcBuf j ∧ (s.setSc n v).col j = s.col j ∧ (s.setSc n v).pin j = s.pin j ∧
    (s.setSc n v).stormAt j = s.stormAt j ∧ (s.setSc n v).irqsAt j = s.irqsAt j ∧
    (s.setSc n v).memByte j = s.memByte j :=
  ⟨rfl, rfl, rfl, rfl, rfl, rfl, rfl, rfl, rfl, rfl, rfl, rfl, rfl, rfl, rfl, rfl, rfl, rfl, rfl, rfl, rfl⟩

@[simp] theorem State.setSc_cut (s : State) (n : Nat) (v : ScSt) (w : CutUnit) :
    (s.setSc n v).cut w = s.cut w :=
  rfl

@[simp] theorem State.setSc_reg (s : State) (n : Nat) (v : ScSt) (q : CsReg) :
    (s.setSc n v).reg q = s.reg q ∧ (∀ hi lo, (s.setSc n v).fld q hi lo = s.fld q hi lo) :=
  ⟨rfl, fun _ _ => rfl⟩

@[simp] theorem State.setSc_isPoison (s : State) (n : Nat) (v : ScSt) (y : LineNo) :
    (s.setSc n v).isPoison y = s.isPoison y :=
  rfl

@[simp] theorem State.setSc_mode (s : State) (n : Nat) (v : ScSt) : (s.setSc n v).mode = s.mode ∧ (s.setSc n v).now = s.now := ⟨rfl, rfl⟩

/-- `setPe` changes `pes` alone. -/
@[simp] theorem State.setPe_fields (s : State) (n : Nat) (v : PeSt) :
    (s.setPe n v).pending = s.pending ∧ (s.setPe n v).keeper = s.keeper ∧ (s.setPe n v).tb = s.tb ∧
    (s.setPe n v).fuses = s.fuses ∧ (s.setPe n v).loader = s.loader ∧ (s.setPe n v).regs = s.regs ∧
    (s.setPe n v).mem = s.mem ∧ (s.setPe n v).poison = s.poison ∧ (s.setPe n v).lcs = s.lcs ∧
    (s.setPe n v).isls = s.isls ∧ (s.setPe n v).migrations = s.migrations ∧ (s.setPe n v).holders = s.holders ∧
    (s.setPe n v).slices = s.slices ∧ (s.setPe n v).cts = s.cts ∧ (s.setPe n v).outReqs = s.outReqs ∧
    (s.setPe n v).chans = s.chans ∧ (s.setPe n v).maps = s.maps ∧ (s.setPe n v).queues = s.queues ∧
    (s.setPe n v).qdma = s.qdma ∧ (s.setPe n v).tags = s.tags ∧ (s.setPe n v).scs = s.scs ∧
    (s.setPe n v).mirrorUp = s.mirrorUp ∧ (s.setPe n v).ports = s.ports ∧ (s.setPe n v).ctxs = s.ctxs ∧
    (s.setPe n v).slots = s.slots ∧ (s.setPe n v).accs = s.accs ∧ (s.setPe n v).cuts = s.cuts ∧
    (s.setPe n v).cutReqs = s.cutReqs ∧ (s.setPe n v).irqs = s.irqs ∧ (s.setPe n v).storms = s.storms ∧
    (s.setPe n v).buckets = s.buckets ∧ (s.setPe n v).resets = s.resets ∧ (s.setPe n v).srcBufs = s.srcBufs ∧
    (s.setPe n v).cols = s.cols ∧ (s.setPe n v).pins = s.pins ∧ (s.setPe n v).mgmt = s.mgmt ∧
    (s.setPe n v).resps = s.resps ∧ (s.setPe n v).progress = s.progress ∧ (s.setPe n v).free = s.free :=
  ⟨rfl, rfl, rfl, rfl, rfl, rfl, rfl, rfl, rfl, rfl, rfl, rfl, rfl, rfl, rfl, rfl, rfl, rfl, rfl, rfl, rfl, rfl, rfl, rfl, rfl, rfl, rfl, rfl, rfl, rfl, rfl, rfl, rfl, rfl, rfl, rfl, rfl, rfl, rfl⟩

@[simp] theorem State.setPe_reads (s : State) (n : Nat) (v : PeSt) (j : Nat) :
    (s.setPe n v).lc j = s.lc j ∧ (s.setPe n v).isl j = s.isl j ∧ (s.setPe n v).holder j = s.holder j ∧
    (s.setPe n v).slice j = s.slice j ∧ (s.setPe n v).ct j = s.ct j ∧ (s.setPe n v).chan j = s.chan j ∧
    (s.setPe n v).map j = s.map j ∧ (s.setPe n v).queue j = s.queue j ∧ (s.setPe n v).dma j = s.dma j ∧
    (s.setPe n v).sc j = s.sc j ∧ (s.setPe n v).port j = s.port j ∧ (s.setPe n v).ctx j = s.ctx j ∧
    (s.setPe n v).aslot j = s.aslot j ∧ (s.setPe n v).acc j = s.acc j ∧ (s.setPe n v).prst j = s.prst j ∧
    (s.setPe n v).srcBuf j = s.srcBuf j ∧ (s.setPe n v).col j = s.col j ∧ (s.setPe n v).pin j = s.pin j ∧
    (s.setPe n v).stormAt j = s.stormAt j ∧ (s.setPe n v).irqsAt j = s.irqsAt j ∧
    (s.setPe n v).memByte j = s.memByte j :=
  ⟨rfl, rfl, rfl, rfl, rfl, rfl, rfl, rfl, rfl, rfl, rfl, rfl, rfl, rfl, rfl, rfl, rfl, rfl, rfl, rfl, rfl⟩

@[simp] theorem State.setPe_cut (s : State) (n : Nat) (v : PeSt) (w : CutUnit) :
    (s.setPe n v).cut w = s.cut w :=
  rfl

@[simp] theorem State.setPe_reg (s : State) (n : Nat) (v : PeSt) (q : CsReg) :
    (s.setPe n v).reg q = s.reg q ∧ (∀ hi lo, (s.setPe n v).fld q hi lo = s.fld q hi lo) :=
  ⟨rfl, fun _ _ => rfl⟩

@[simp] theorem State.setPe_isPoison (s : State) (n : Nat) (v : PeSt) (y : LineNo) :
    (s.setPe n v).isPoison y = s.isPoison y :=
  rfl

@[simp] theorem State.setPe_mode (s : State) (n : Nat) (v : PeSt) : (s.setPe n v).mode = s.mode ∧ (s.setPe n v).now = s.now := ⟨rfl, rfl⟩

/-- `setPort` changes `ports` alone. -/
@[simp] theorem State.setPort_fields (s : State) (n : Nat) (v : PortSt) :
    (s.setPort n v).pending = s.pending ∧ (s.setPort n v).keeper = s.keeper ∧ (s.setPort n v).tb = s.tb ∧
    (s.setPort n v).fuses = s.fuses ∧ (s.setPort n v).loader = s.loader ∧ (s.setPort n v).regs = s.regs ∧
    (s.setPort n v).mem = s.mem ∧ (s.setPort n v).poison = s.poison ∧ (s.setPort n v).lcs = s.lcs ∧
    (s.setPort n v).isls = s.isls ∧ (s.setPort n v).migrations = s.migrations ∧
    (s.setPort n v).holders = s.holders ∧ (s.setPort n v).slices = s.slices ∧ (s.setPort n v).cts = s.cts ∧
    (s.setPort n v).outReqs = s.outReqs ∧ (s.setPort n v).chans = s.chans ∧ (s.setPort n v).maps = s.maps ∧
    (s.setPort n v).queues = s.queues ∧ (s.setPort n v).qdma = s.qdma ∧ (s.setPort n v).tags = s.tags ∧
    (s.setPort n v).scs = s.scs ∧ (s.setPort n v).pes = s.pes ∧ (s.setPort n v).mirrorUp = s.mirrorUp ∧
    (s.setPort n v).ctxs = s.ctxs ∧ (s.setPort n v).slots = s.slots ∧ (s.setPort n v).accs = s.accs ∧
    (s.setPort n v).cuts = s.cuts ∧ (s.setPort n v).cutReqs = s.cutReqs ∧ (s.setPort n v).irqs = s.irqs ∧
    (s.setPort n v).storms = s.storms ∧ (s.setPort n v).buckets = s.buckets ∧
    (s.setPort n v).resets = s.resets ∧ (s.setPort n v).srcBufs = s.srcBufs ∧ (s.setPort n v).cols = s.cols ∧
    (s.setPort n v).pins = s.pins ∧ (s.setPort n v).mgmt = s.mgmt ∧ (s.setPort n v).resps = s.resps ∧
    (s.setPort n v).progress = s.progress ∧ (s.setPort n v).free = s.free :=
  ⟨rfl, rfl, rfl, rfl, rfl, rfl, rfl, rfl, rfl, rfl, rfl, rfl, rfl, rfl, rfl, rfl, rfl, rfl, rfl, rfl, rfl, rfl, rfl, rfl, rfl, rfl, rfl, rfl, rfl, rfl, rfl, rfl, rfl, rfl, rfl, rfl, rfl, rfl, rfl⟩

@[simp] theorem State.setPort_reads (s : State) (n : Nat) (v : PortSt) (j : Nat) :
    (s.setPort n v).lc j = s.lc j ∧ (s.setPort n v).isl j = s.isl j ∧ (s.setPort n v).holder j = s.holder j ∧
    (s.setPort n v).slice j = s.slice j ∧ (s.setPort n v).ct j = s.ct j ∧ (s.setPort n v).chan j = s.chan j ∧
    (s.setPort n v).map j = s.map j ∧ (s.setPort n v).queue j = s.queue j ∧ (s.setPort n v).dma j = s.dma j ∧
    (s.setPort n v).sc j = s.sc j ∧ (s.setPort n v).pe j = s.pe j ∧ (s.setPort n v).ctx j = s.ctx j ∧
    (s.setPort n v).aslot j = s.aslot j ∧ (s.setPort n v).acc j = s.acc j ∧ (s.setPort n v).prst j = s.prst j ∧
    (s.setPort n v).srcBuf j = s.srcBuf j ∧ (s.setPort n v).col j = s.col j ∧ (s.setPort n v).pin j = s.pin j ∧
    (s.setPort n v).stormAt j = s.stormAt j ∧ (s.setPort n v).irqsAt j = s.irqsAt j ∧
    (s.setPort n v).memByte j = s.memByte j :=
  ⟨rfl, rfl, rfl, rfl, rfl, rfl, rfl, rfl, rfl, rfl, rfl, rfl, rfl, rfl, rfl, rfl, rfl, rfl, rfl, rfl, rfl⟩

@[simp] theorem State.setPort_cut (s : State) (n : Nat) (v : PortSt) (w : CutUnit) :
    (s.setPort n v).cut w = s.cut w :=
  rfl

@[simp] theorem State.setPort_reg (s : State) (n : Nat) (v : PortSt) (q : CsReg) :
    (s.setPort n v).reg q = s.reg q ∧ (∀ hi lo, (s.setPort n v).fld q hi lo = s.fld q hi lo) :=
  ⟨rfl, fun _ _ => rfl⟩

@[simp] theorem State.setPort_isPoison (s : State) (n : Nat) (v : PortSt) (y : LineNo) :
    (s.setPort n v).isPoison y = s.isPoison y :=
  rfl

@[simp] theorem State.setPort_mode (s : State) (n : Nat) (v : PortSt) : (s.setPort n v).mode = s.mode ∧ (s.setPort n v).now = s.now := ⟨rfl, rfl⟩

/-- `setCtx` changes `ctxs` alone. -/
@[simp] theorem State.setCtx_fields (s : State) (n : Nat) (v : CtxSt) :
    (s.setCtx n v).pending = s.pending ∧ (s.setCtx n v).keeper = s.keeper ∧ (s.setCtx n v).tb = s.tb ∧
    (s.setCtx n v).fuses = s.fuses ∧ (s.setCtx n v).loader = s.loader ∧ (s.setCtx n v).regs = s.regs ∧
    (s.setCtx n v).mem = s.mem ∧ (s.setCtx n v).poison = s.poison ∧ (s.setCtx n v).lcs = s.lcs ∧
    (s.setCtx n v).isls = s.isls ∧ (s.setCtx n v).migrations = s.migrations ∧
    (s.setCtx n v).holders = s.holders ∧ (s.setCtx n v).slices = s.slices ∧ (s.setCtx n v).cts = s.cts ∧
    (s.setCtx n v).outReqs = s.outReqs ∧ (s.setCtx n v).chans = s.chans ∧ (s.setCtx n v).maps = s.maps ∧
    (s.setCtx n v).queues = s.queues ∧ (s.setCtx n v).qdma = s.qdma ∧ (s.setCtx n v).tags = s.tags ∧
    (s.setCtx n v).scs = s.scs ∧ (s.setCtx n v).pes = s.pes ∧ (s.setCtx n v).mirrorUp = s.mirrorUp ∧
    (s.setCtx n v).ports = s.ports ∧ (s.setCtx n v).slots = s.slots ∧ (s.setCtx n v).accs = s.accs ∧
    (s.setCtx n v).cuts = s.cuts ∧ (s.setCtx n v).cutReqs = s.cutReqs ∧ (s.setCtx n v).irqs = s.irqs ∧
    (s.setCtx n v).storms = s.storms ∧ (s.setCtx n v).buckets = s.buckets ∧ (s.setCtx n v).resets = s.resets ∧
    (s.setCtx n v).srcBufs = s.srcBufs ∧ (s.setCtx n v).cols = s.cols ∧ (s.setCtx n v).pins = s.pins ∧
    (s.setCtx n v).mgmt = s.mgmt ∧ (s.setCtx n v).resps = s.resps ∧ (s.setCtx n v).progress = s.progress ∧
    (s.setCtx n v).free = s.free :=
  ⟨rfl, rfl, rfl, rfl, rfl, rfl, rfl, rfl, rfl, rfl, rfl, rfl, rfl, rfl, rfl, rfl, rfl, rfl, rfl, rfl, rfl, rfl, rfl, rfl, rfl, rfl, rfl, rfl, rfl, rfl, rfl, rfl, rfl, rfl, rfl, rfl, rfl, rfl, rfl⟩

@[simp] theorem State.setCtx_reads (s : State) (n : Nat) (v : CtxSt) (j : Nat) :
    (s.setCtx n v).lc j = s.lc j ∧ (s.setCtx n v).isl j = s.isl j ∧ (s.setCtx n v).holder j = s.holder j ∧
    (s.setCtx n v).slice j = s.slice j ∧ (s.setCtx n v).ct j = s.ct j ∧ (s.setCtx n v).chan j = s.chan j ∧
    (s.setCtx n v).map j = s.map j ∧ (s.setCtx n v).queue j = s.queue j ∧ (s.setCtx n v).dma j = s.dma j ∧
    (s.setCtx n v).sc j = s.sc j ∧ (s.setCtx n v).pe j = s.pe j ∧ (s.setCtx n v).port j = s.port j ∧
    (s.setCtx n v).aslot j = s.aslot j ∧ (s.setCtx n v).acc j = s.acc j ∧ (s.setCtx n v).prst j = s.prst j ∧
    (s.setCtx n v).srcBuf j = s.srcBuf j ∧ (s.setCtx n v).col j = s.col j ∧ (s.setCtx n v).pin j = s.pin j ∧
    (s.setCtx n v).stormAt j = s.stormAt j ∧ (s.setCtx n v).irqsAt j = s.irqsAt j ∧
    (s.setCtx n v).memByte j = s.memByte j :=
  ⟨rfl, rfl, rfl, rfl, rfl, rfl, rfl, rfl, rfl, rfl, rfl, rfl, rfl, rfl, rfl, rfl, rfl, rfl, rfl, rfl, rfl⟩

@[simp] theorem State.setCtx_cut (s : State) (n : Nat) (v : CtxSt) (w : CutUnit) :
    (s.setCtx n v).cut w = s.cut w :=
  rfl

@[simp] theorem State.setCtx_reg (s : State) (n : Nat) (v : CtxSt) (q : CsReg) :
    (s.setCtx n v).reg q = s.reg q ∧ (∀ hi lo, (s.setCtx n v).fld q hi lo = s.fld q hi lo) :=
  ⟨rfl, fun _ _ => rfl⟩

@[simp] theorem State.setCtx_isPoison (s : State) (n : Nat) (v : CtxSt) (y : LineNo) :
    (s.setCtx n v).isPoison y = s.isPoison y :=
  rfl

@[simp] theorem State.setCtx_mode (s : State) (n : Nat) (v : CtxSt) : (s.setCtx n v).mode = s.mode ∧ (s.setCtx n v).now = s.now := ⟨rfl, rfl⟩

/-- `setAslot` changes `slots` alone. -/
@[simp] theorem State.setAslot_fields (s : State) (n : Nat) (v : AccSlot) :
    (s.setAslot n v).pending = s.pending ∧ (s.setAslot n v).keeper = s.keeper ∧ (s.setAslot n v).tb = s.tb ∧
    (s.setAslot n v).fuses = s.fuses ∧ (s.setAslot n v).loader = s.loader ∧ (s.setAslot n v).regs = s.regs ∧
    (s.setAslot n v).mem = s.mem ∧ (s.setAslot n v).poison = s.poison ∧ (s.setAslot n v).lcs = s.lcs ∧
    (s.setAslot n v).isls = s.isls ∧ (s.setAslot n v).migrations = s.migrations ∧
    (s.setAslot n v).holders = s.holders ∧ (s.setAslot n v).slices = s.slices ∧ (s.setAslot n v).cts = s.cts ∧
    (s.setAslot n v).outReqs = s.outReqs ∧ (s.setAslot n v).chans = s.chans ∧ (s.setAslot n v).maps = s.maps ∧
    (s.setAslot n v).queues = s.queues ∧ (s.setAslot n v).qdma = s.qdma ∧ (s.setAslot n v).tags = s.tags ∧
    (s.setAslot n v).scs = s.scs ∧ (s.setAslot n v).pes = s.pes ∧ (s.setAslot n v).mirrorUp = s.mirrorUp ∧
    (s.setAslot n v).ports = s.ports ∧ (s.setAslot n v).ctxs = s.ctxs ∧ (s.setAslot n v).accs = s.accs ∧
    (s.setAslot n v).cuts = s.cuts ∧ (s.setAslot n v).cutReqs = s.cutReqs ∧ (s.setAslot n v).irqs = s.irqs ∧
    (s.setAslot n v).storms = s.storms ∧ (s.setAslot n v).buckets = s.buckets ∧
    (s.setAslot n v).resets = s.resets ∧ (s.setAslot n v).srcBufs = s.srcBufs ∧
    (s.setAslot n v).cols = s.cols ∧ (s.setAslot n v).pins = s.pins ∧ (s.setAslot n v).mgmt = s.mgmt ∧
    (s.setAslot n v).resps = s.resps ∧ (s.setAslot n v).progress = s.progress ∧ (s.setAslot n v).free = s.free :=
  ⟨rfl, rfl, rfl, rfl, rfl, rfl, rfl, rfl, rfl, rfl, rfl, rfl, rfl, rfl, rfl, rfl, rfl, rfl, rfl, rfl, rfl, rfl, rfl, rfl, rfl, rfl, rfl, rfl, rfl, rfl, rfl, rfl, rfl, rfl, rfl, rfl, rfl, rfl, rfl⟩

@[simp] theorem State.setAslot_reads (s : State) (n : Nat) (v : AccSlot) (j : Nat) :
    (s.setAslot n v).lc j = s.lc j ∧ (s.setAslot n v).isl j = s.isl j ∧
    (s.setAslot n v).holder j = s.holder j ∧ (s.setAslot n v).slice j = s.slice j ∧
    (s.setAslot n v).ct j = s.ct j ∧ (s.setAslot n v).chan j = s.chan j ∧ (s.setAslot n v).map j = s.map j ∧
    (s.setAslot n v).queue j = s.queue j ∧ (s.setAslot n v).dma j = s.dma j ∧ (s.setAslot n v).sc j = s.sc j ∧
    (s.setAslot n v).pe j = s.pe j ∧ (s.setAslot n v).port j = s.port j ∧ (s.setAslot n v).ctx j = s.ctx j ∧
    (s.setAslot n v).acc j = s.acc j ∧ (s.setAslot n v).prst j = s.prst j ∧
    (s.setAslot n v).srcBuf j = s.srcBuf j ∧ (s.setAslot n v).col j = s.col j ∧
    (s.setAslot n v).pin j = s.pin j ∧ (s.setAslot n v).stormAt j = s.stormAt j ∧
    (s.setAslot n v).irqsAt j = s.irqsAt j ∧ (s.setAslot n v).memByte j = s.memByte j :=
  ⟨rfl, rfl, rfl, rfl, rfl, rfl, rfl, rfl, rfl, rfl, rfl, rfl, rfl, rfl, rfl, rfl, rfl, rfl, rfl, rfl, rfl⟩

@[simp] theorem State.setAslot_cut (s : State) (n : Nat) (v : AccSlot) (w : CutUnit) :
    (s.setAslot n v).cut w = s.cut w :=
  rfl

@[simp] theorem State.setAslot_reg (s : State) (n : Nat) (v : AccSlot) (q : CsReg) :
    (s.setAslot n v).reg q = s.reg q ∧ (∀ hi lo, (s.setAslot n v).fld q hi lo = s.fld q hi lo) :=
  ⟨rfl, fun _ _ => rfl⟩

@[simp] theorem State.setAslot_isPoison (s : State) (n : Nat) (v : AccSlot) (y : LineNo) :
    (s.setAslot n v).isPoison y = s.isPoison y :=
  rfl

@[simp] theorem State.setAslot_mode (s : State) (n : Nat) (v : AccSlot) : (s.setAslot n v).mode = s.mode ∧ (s.setAslot n v).now = s.now := ⟨rfl, rfl⟩

/-- `setAcc` changes `accs` alone. -/
@[simp] theorem State.setAcc_fields (s : State) (n : Nat) (v : AccSt) :
    (s.setAcc n v).pending = s.pending ∧ (s.setAcc n v).keeper = s.keeper ∧ (s.setAcc n v).tb = s.tb ∧
    (s.setAcc n v).fuses = s.fuses ∧ (s.setAcc n v).loader = s.loader ∧ (s.setAcc n v).regs = s.regs ∧
    (s.setAcc n v).mem = s.mem ∧ (s.setAcc n v).poison = s.poison ∧ (s.setAcc n v).lcs = s.lcs ∧
    (s.setAcc n v).isls = s.isls ∧ (s.setAcc n v).migrations = s.migrations ∧
    (s.setAcc n v).holders = s.holders ∧ (s.setAcc n v).slices = s.slices ∧ (s.setAcc n v).cts = s.cts ∧
    (s.setAcc n v).outReqs = s.outReqs ∧ (s.setAcc n v).chans = s.chans ∧ (s.setAcc n v).maps = s.maps ∧
    (s.setAcc n v).queues = s.queues ∧ (s.setAcc n v).qdma = s.qdma ∧ (s.setAcc n v).tags = s.tags ∧
    (s.setAcc n v).scs = s.scs ∧ (s.setAcc n v).pes = s.pes ∧ (s.setAcc n v).mirrorUp = s.mirrorUp ∧
    (s.setAcc n v).ports = s.ports ∧ (s.setAcc n v).ctxs = s.ctxs ∧ (s.setAcc n v).slots = s.slots ∧
    (s.setAcc n v).cuts = s.cuts ∧ (s.setAcc n v).cutReqs = s.cutReqs ∧ (s.setAcc n v).irqs = s.irqs ∧
    (s.setAcc n v).storms = s.storms ∧ (s.setAcc n v).buckets = s.buckets ∧ (s.setAcc n v).resets = s.resets ∧
    (s.setAcc n v).srcBufs = s.srcBufs ∧ (s.setAcc n v).cols = s.cols ∧ (s.setAcc n v).pins = s.pins ∧
    (s.setAcc n v).mgmt = s.mgmt ∧ (s.setAcc n v).resps = s.resps ∧ (s.setAcc n v).progress = s.progress ∧
    (s.setAcc n v).free = s.free :=
  ⟨rfl, rfl, rfl, rfl, rfl, rfl, rfl, rfl, rfl, rfl, rfl, rfl, rfl, rfl, rfl, rfl, rfl, rfl, rfl, rfl, rfl, rfl, rfl, rfl, rfl, rfl, rfl, rfl, rfl, rfl, rfl, rfl, rfl, rfl, rfl, rfl, rfl, rfl, rfl⟩

@[simp] theorem State.setAcc_reads (s : State) (n : Nat) (v : AccSt) (j : Nat) :
    (s.setAcc n v).lc j = s.lc j ∧ (s.setAcc n v).isl j = s.isl j ∧ (s.setAcc n v).holder j = s.holder j ∧
    (s.setAcc n v).slice j = s.slice j ∧ (s.setAcc n v).ct j = s.ct j ∧ (s.setAcc n v).chan j = s.chan j ∧
    (s.setAcc n v).map j = s.map j ∧ (s.setAcc n v).queue j = s.queue j ∧ (s.setAcc n v).dma j = s.dma j ∧
    (s.setAcc n v).sc j = s.sc j ∧ (s.setAcc n v).pe j = s.pe j ∧ (s.setAcc n v).port j = s.port j ∧
    (s.setAcc n v).ctx j = s.ctx j ∧ (s.setAcc n v).aslot j = s.aslot j ∧ (s.setAcc n v).prst j = s.prst j ∧
    (s.setAcc n v).srcBuf j = s.srcBuf j ∧ (s.setAcc n v).col j = s.col j ∧ (s.setAcc n v).pin j = s.pin j ∧
    (s.setAcc n v).stormAt j = s.stormAt j ∧ (s.setAcc n v).irqsAt j = s.irqsAt j ∧
    (s.setAcc n v).memByte j = s.memByte j :=
  ⟨rfl, rfl, rfl, rfl, rfl, rfl, rfl, rfl, rfl, rfl, rfl, rfl, rfl, rfl, rfl, rfl, rfl, rfl, rfl, rfl, rfl⟩

@[simp] theorem State.setAcc_cut (s : State) (n : Nat) (v : AccSt) (w : CutUnit) :
    (s.setAcc n v).cut w = s.cut w :=
  rfl

@[simp] theorem State.setAcc_reg (s : State) (n : Nat) (v : AccSt) (q : CsReg) :
    (s.setAcc n v).reg q = s.reg q ∧ (∀ hi lo, (s.setAcc n v).fld q hi lo = s.fld q hi lo) :=
  ⟨rfl, fun _ _ => rfl⟩

@[simp] theorem State.setAcc_isPoison (s : State) (n : Nat) (v : AccSt) (y : LineNo) :
    (s.setAcc n v).isPoison y = s.isPoison y :=
  rfl

@[simp] theorem State.setAcc_mode (s : State) (n : Nat) (v : AccSt) : (s.setAcc n v).mode = s.mode ∧ (s.setAcc n v).now = s.now := ⟨rfl, rfl⟩

/-- `setPrst` changes `resets` alone. -/
@[simp] theorem State.setPrst_fields (s : State) (n : Nat) (v : PrSt) :
    (s.setPrst n v).pending = s.pending ∧ (s.setPrst n v).keeper = s.keeper ∧ (s.setPrst n v).tb = s.tb ∧
    (s.setPrst n v).fuses = s.fuses ∧ (s.setPrst n v).loader = s.loader ∧ (s.setPrst n v).regs = s.regs ∧
    (s.setPrst n v).mem = s.mem ∧ (s.setPrst n v).poison = s.poison ∧ (s.setPrst n v).lcs = s.lcs ∧
    (s.setPrst n v).isls = s.isls ∧ (s.setPrst n v).migrations = s.migrations ∧
    (s.setPrst n v).holders = s.holders ∧ (s.setPrst n v).slices = s.slices ∧ (s.setPrst n v).cts = s.cts ∧
    (s.setPrst n v).outReqs = s.outReqs ∧ (s.setPrst n v).chans = s.chans ∧ (s.setPrst n v).maps = s.maps ∧
    (s.setPrst n v).queues = s.queues ∧ (s.setPrst n v).qdma = s.qdma ∧ (s.setPrst n v).tags = s.tags ∧
    (s.setPrst n v).scs = s.scs ∧ (s.setPrst n v).pes = s.pes ∧ (s.setPrst n v).mirrorUp = s.mirrorUp ∧
    (s.setPrst n v).ports = s.ports ∧ (s.setPrst n v).ctxs = s.ctxs ∧ (s.setPrst n v).slots = s.slots ∧
    (s.setPrst n v).accs = s.accs ∧ (s.setPrst n v).cuts = s.cuts ∧ (s.setPrst n v).cutReqs = s.cutReqs ∧
    (s.setPrst n v).irqs = s.irqs ∧ (s.setPrst n v).storms = s.storms ∧ (s.setPrst n v).buckets = s.buckets ∧
    (s.setPrst n v).srcBufs = s.srcBufs ∧ (s.setPrst n v).cols = s.cols ∧ (s.setPrst n v).pins = s.pins ∧
    (s.setPrst n v).mgmt = s.mgmt ∧ (s.setPrst n v).resps = s.resps ∧ (s.setPrst n v).progress = s.progress ∧
    (s.setPrst n v).free = s.free :=
  ⟨rfl, rfl, rfl, rfl, rfl, rfl, rfl, rfl, rfl, rfl, rfl, rfl, rfl, rfl, rfl, rfl, rfl, rfl, rfl, rfl, rfl, rfl, rfl, rfl, rfl, rfl, rfl, rfl, rfl, rfl, rfl, rfl, rfl, rfl, rfl, rfl, rfl, rfl, rfl⟩

@[simp] theorem State.setPrst_reads (s : State) (n : Nat) (v : PrSt) (j : Nat) :
    (s.setPrst n v).lc j = s.lc j ∧ (s.setPrst n v).isl j = s.isl j ∧ (s.setPrst n v).holder j = s.holder j ∧
    (s.setPrst n v).slice j = s.slice j ∧ (s.setPrst n v).ct j = s.ct j ∧ (s.setPrst n v).chan j = s.chan j ∧
    (s.setPrst n v).map j = s.map j ∧ (s.setPrst n v).queue j = s.queue j ∧ (s.setPrst n v).dma j = s.dma j ∧
    (s.setPrst n v).sc j = s.sc j ∧ (s.setPrst n v).pe j = s.pe j ∧ (s.setPrst n v).port j = s.port j ∧
    (s.setPrst n v).ctx j = s.ctx j ∧ (s.setPrst n v).aslot j = s.aslot j ∧ (s.setPrst n v).acc j = s.acc j ∧
    (s.setPrst n v).srcBuf j = s.srcBuf j ∧ (s.setPrst n v).col j = s.col j ∧ (s.setPrst n v).pin j = s.pin j ∧
    (s.setPrst n v).stormAt j = s.stormAt j ∧ (s.setPrst n v).irqsAt j = s.irqsAt j ∧
    (s.setPrst n v).memByte j = s.memByte j :=
  ⟨rfl, rfl, rfl, rfl, rfl, rfl, rfl, rfl, rfl, rfl, rfl, rfl, rfl, rfl, rfl, rfl, rfl, rfl, rfl, rfl, rfl⟩

@[simp] theorem State.setPrst_cut (s : State) (n : Nat) (v : PrSt) (w : CutUnit) :
    (s.setPrst n v).cut w = s.cut w :=
  rfl

@[simp] theorem State.setPrst_reg (s : State) (n : Nat) (v : PrSt) (q : CsReg) :
    (s.setPrst n v).reg q = s.reg q ∧ (∀ hi lo, (s.setPrst n v).fld q hi lo = s.fld q hi lo) :=
  ⟨rfl, fun _ _ => rfl⟩

@[simp] theorem State.setPrst_isPoison (s : State) (n : Nat) (v : PrSt) (y : LineNo) :
    (s.setPrst n v).isPoison y = s.isPoison y :=
  rfl

@[simp] theorem State.setPrst_mode (s : State) (n : Nat) (v : PrSt) : (s.setPrst n v).mode = s.mode ∧ (s.setPrst n v).now = s.now := ⟨rfl, rfl⟩

/-- `setSrcBuf` changes `srcBufs` alone. -/
@[simp] theorem State.setSrcBuf_fields (s : State) (n : Nat) (v : SrcBuf) :
    (s.setSrcBuf n v).pending = s.pending ∧ (s.setSrcBuf n v).keeper = s.keeper ∧ (s.setSrcBuf n v).tb = s.tb ∧
    (s.setSrcBuf n v).fuses = s.fuses ∧ (s.setSrcBuf n v).loader = s.loader ∧ (s.setSrcBuf n v).regs = s.regs ∧
    (s.setSrcBuf n v).mem = s.mem ∧ (s.setSrcBuf n v).poison = s.poison ∧ (s.setSrcBuf n v).lcs = s.lcs ∧
    (s.setSrcBuf n v).isls = s.isls ∧ (s.setSrcBuf n v).migrations = s.migrations ∧
    (s.setSrcBuf n v).holders = s.holders ∧ (s.setSrcBuf n v).slices = s.slices ∧
    (s.setSrcBuf n v).cts = s.cts ∧ (s.setSrcBuf n v).outReqs = s.outReqs ∧ (s.setSrcBuf n v).chans = s.chans ∧
    (s.setSrcBuf n v).maps = s.maps ∧ (s.setSrcBuf n v).queues = s.queues ∧ (s.setSrcBuf n v).qdma = s.qdma ∧
    (s.setSrcBuf n v).tags = s.tags ∧ (s.setSrcBuf n v).scs = s.scs ∧ (s.setSrcBuf n v).pes = s.pes ∧
    (s.setSrcBuf n v).mirrorUp = s.mirrorUp ∧ (s.setSrcBuf n v).ports = s.ports ∧
    (s.setSrcBuf n v).ctxs = s.ctxs ∧ (s.setSrcBuf n v).slots = s.slots ∧ (s.setSrcBuf n v).accs = s.accs ∧
    (s.setSrcBuf n v).cuts = s.cuts ∧ (s.setSrcBuf n v).cutReqs = s.cutReqs ∧ (s.setSrcBuf n v).irqs = s.irqs ∧
    (s.setSrcBuf n v).storms = s.storms ∧ (s.setSrcBuf n v).buckets = s.buckets ∧
    (s.setSrcBuf n v).resets = s.resets ∧ (s.setSrcBuf n v).cols = s.cols ∧ (s.setSrcBuf n v).pins = s.pins ∧
    (s.setSrcBuf n v).mgmt = s.mgmt ∧ (s.setSrcBuf n v).resps = s.resps ∧
    (s.setSrcBuf n v).progress = s.progress ∧ (s.setSrcBuf n v).free = s.free :=
  ⟨rfl, rfl, rfl, rfl, rfl, rfl, rfl, rfl, rfl, rfl, rfl, rfl, rfl, rfl, rfl, rfl, rfl, rfl, rfl, rfl, rfl, rfl, rfl, rfl, rfl, rfl, rfl, rfl, rfl, rfl, rfl, rfl, rfl, rfl, rfl, rfl, rfl, rfl, rfl⟩

@[simp] theorem State.setSrcBuf_reads (s : State) (n : Nat) (v : SrcBuf) (j : Nat) :
    (s.setSrcBuf n v).lc j = s.lc j ∧ (s.setSrcBuf n v).isl j = s.isl j ∧
    (s.setSrcBuf n v).holder j = s.holder j ∧ (s.setSrcBuf n v).slice j = s.slice j ∧
    (s.setSrcBuf n v).ct j = s.ct j ∧ (s.setSrcBuf n v).chan j = s.chan j ∧ (s.setSrcBuf n v).map j = s.map j ∧
    (s.setSrcBuf n v).queue j = s.queue j ∧ (s.setSrcBuf n v).dma j = s.dma j ∧
    (s.setSrcBuf n v).sc j = s.sc j ∧ (s.setSrcBuf n v).pe j = s.pe j ∧ (s.setSrcBuf n v).port j = s.port j ∧
    (s.setSrcBuf n v).ctx j = s.ctx j ∧ (s.setSrcBuf n v).aslot j = s.aslot j ∧
    (s.setSrcBuf n v).acc j = s.acc j ∧ (s.setSrcBuf n v).prst j = s.prst j ∧
    (s.setSrcBuf n v).col j = s.col j ∧ (s.setSrcBuf n v).pin j = s.pin j ∧
    (s.setSrcBuf n v).stormAt j = s.stormAt j ∧ (s.setSrcBuf n v).irqsAt j = s.irqsAt j ∧
    (s.setSrcBuf n v).memByte j = s.memByte j :=
  ⟨rfl, rfl, rfl, rfl, rfl, rfl, rfl, rfl, rfl, rfl, rfl, rfl, rfl, rfl, rfl, rfl, rfl, rfl, rfl, rfl, rfl⟩

@[simp] theorem State.setSrcBuf_cut (s : State) (n : Nat) (v : SrcBuf) (w : CutUnit) :
    (s.setSrcBuf n v).cut w = s.cut w :=
  rfl

@[simp] theorem State.setSrcBuf_reg (s : State) (n : Nat) (v : SrcBuf) (q : CsReg) :
    (s.setSrcBuf n v).reg q = s.reg q ∧ (∀ hi lo, (s.setSrcBuf n v).fld q hi lo = s.fld q hi lo) :=
  ⟨rfl, fun _ _ => rfl⟩

@[simp] theorem State.setSrcBuf_isPoison (s : State) (n : Nat) (v : SrcBuf) (y : LineNo) :
    (s.setSrcBuf n v).isPoison y = s.isPoison y :=
  rfl

@[simp] theorem State.setSrcBuf_mode (s : State) (n : Nat) (v : SrcBuf) : (s.setSrcBuf n v).mode = s.mode ∧ (s.setSrcBuf n v).now = s.now := ⟨rfl, rfl⟩

/-- `setCol` changes `cols` alone. -/
@[simp] theorem State.setCol_fields (s : State) (n : Nat) (v : ColSt) :
    (s.setCol n v).pending = s.pending ∧ (s.setCol n v).keeper = s.keeper ∧ (s.setCol n v).tb = s.tb ∧
    (s.setCol n v).fuses = s.fuses ∧ (s.setCol n v).loader = s.loader ∧ (s.setCol n v).regs = s.regs ∧
    (s.setCol n v).mem = s.mem ∧ (s.setCol n v).poison = s.poison ∧ (s.setCol n v).lcs = s.lcs ∧
    (s.setCol n v).isls = s.isls ∧ (s.setCol n v).migrations = s.migrations ∧
    (s.setCol n v).holders = s.holders ∧ (s.setCol n v).slices = s.slices ∧ (s.setCol n v).cts = s.cts ∧
    (s.setCol n v).outReqs = s.outReqs ∧ (s.setCol n v).chans = s.chans ∧ (s.setCol n v).maps = s.maps ∧
    (s.setCol n v).queues = s.queues ∧ (s.setCol n v).qdma = s.qdma ∧ (s.setCol n v).tags = s.tags ∧
    (s.setCol n v).scs = s.scs ∧ (s.setCol n v).pes = s.pes ∧ (s.setCol n v).mirrorUp = s.mirrorUp ∧
    (s.setCol n v).ports = s.ports ∧ (s.setCol n v).ctxs = s.ctxs ∧ (s.setCol n v).slots = s.slots ∧
    (s.setCol n v).accs = s.accs ∧ (s.setCol n v).cuts = s.cuts ∧ (s.setCol n v).cutReqs = s.cutReqs ∧
    (s.setCol n v).irqs = s.irqs ∧ (s.setCol n v).storms = s.storms ∧ (s.setCol n v).buckets = s.buckets ∧
    (s.setCol n v).resets = s.resets ∧ (s.setCol n v).srcBufs = s.srcBufs ∧ (s.setCol n v).pins = s.pins ∧
    (s.setCol n v).mgmt = s.mgmt ∧ (s.setCol n v).resps = s.resps ∧ (s.setCol n v).progress = s.progress ∧
    (s.setCol n v).free = s.free :=
  ⟨rfl, rfl, rfl, rfl, rfl, rfl, rfl, rfl, rfl, rfl, rfl, rfl, rfl, rfl, rfl, rfl, rfl, rfl, rfl, rfl, rfl, rfl, rfl, rfl, rfl, rfl, rfl, rfl, rfl, rfl, rfl, rfl, rfl, rfl, rfl, rfl, rfl, rfl, rfl⟩

@[simp] theorem State.setCol_reads (s : State) (n : Nat) (v : ColSt) (j : Nat) :
    (s.setCol n v).lc j = s.lc j ∧ (s.setCol n v).isl j = s.isl j ∧ (s.setCol n v).holder j = s.holder j ∧
    (s.setCol n v).slice j = s.slice j ∧ (s.setCol n v).ct j = s.ct j ∧ (s.setCol n v).chan j = s.chan j ∧
    (s.setCol n v).map j = s.map j ∧ (s.setCol n v).queue j = s.queue j ∧ (s.setCol n v).dma j = s.dma j ∧
    (s.setCol n v).sc j = s.sc j ∧ (s.setCol n v).pe j = s.pe j ∧ (s.setCol n v).port j = s.port j ∧
    (s.setCol n v).ctx j = s.ctx j ∧ (s.setCol n v).aslot j = s.aslot j ∧ (s.setCol n v).acc j = s.acc j ∧
    (s.setCol n v).prst j = s.prst j ∧ (s.setCol n v).srcBuf j = s.srcBuf j ∧ (s.setCol n v).pin j = s.pin j ∧
    (s.setCol n v).stormAt j = s.stormAt j ∧ (s.setCol n v).irqsAt j = s.irqsAt j ∧
    (s.setCol n v).memByte j = s.memByte j :=
  ⟨rfl, rfl, rfl, rfl, rfl, rfl, rfl, rfl, rfl, rfl, rfl, rfl, rfl, rfl, rfl, rfl, rfl, rfl, rfl, rfl, rfl⟩

@[simp] theorem State.setCol_cut (s : State) (n : Nat) (v : ColSt) (w : CutUnit) :
    (s.setCol n v).cut w = s.cut w :=
  rfl

@[simp] theorem State.setCol_reg (s : State) (n : Nat) (v : ColSt) (q : CsReg) :
    (s.setCol n v).reg q = s.reg q ∧ (∀ hi lo, (s.setCol n v).fld q hi lo = s.fld q hi lo) :=
  ⟨rfl, fun _ _ => rfl⟩

@[simp] theorem State.setCol_isPoison (s : State) (n : Nat) (v : ColSt) (y : LineNo) :
    (s.setCol n v).isPoison y = s.isPoison y :=
  rfl

@[simp] theorem State.setCol_mode (s : State) (n : Nat) (v : ColSt) : (s.setCol n v).mode = s.mode ∧ (s.setCol n v).now = s.now := ⟨rfl, rfl⟩

/-- `setPin` changes `pins` alone. -/
@[simp] theorem State.setPin_fields (s : State) (n : Nat) (v : PinSt) :
    (s.setPin n v).pending = s.pending ∧ (s.setPin n v).keeper = s.keeper ∧ (s.setPin n v).tb = s.tb ∧
    (s.setPin n v).fuses = s.fuses ∧ (s.setPin n v).loader = s.loader ∧ (s.setPin n v).regs = s.regs ∧
    (s.setPin n v).mem = s.mem ∧ (s.setPin n v).poison = s.poison ∧ (s.setPin n v).lcs = s.lcs ∧
    (s.setPin n v).isls = s.isls ∧ (s.setPin n v).migrations = s.migrations ∧
    (s.setPin n v).holders = s.holders ∧ (s.setPin n v).slices = s.slices ∧ (s.setPin n v).cts = s.cts ∧
    (s.setPin n v).outReqs = s.outReqs ∧ (s.setPin n v).chans = s.chans ∧ (s.setPin n v).maps = s.maps ∧
    (s.setPin n v).queues = s.queues ∧ (s.setPin n v).qdma = s.qdma ∧ (s.setPin n v).tags = s.tags ∧
    (s.setPin n v).scs = s.scs ∧ (s.setPin n v).pes = s.pes ∧ (s.setPin n v).mirrorUp = s.mirrorUp ∧
    (s.setPin n v).ports = s.ports ∧ (s.setPin n v).ctxs = s.ctxs ∧ (s.setPin n v).slots = s.slots ∧
    (s.setPin n v).accs = s.accs ∧ (s.setPin n v).cuts = s.cuts ∧ (s.setPin n v).cutReqs = s.cutReqs ∧
    (s.setPin n v).irqs = s.irqs ∧ (s.setPin n v).storms = s.storms ∧ (s.setPin n v).buckets = s.buckets ∧
    (s.setPin n v).resets = s.resets ∧ (s.setPin n v).srcBufs = s.srcBufs ∧ (s.setPin n v).cols = s.cols ∧
    (s.setPin n v).mgmt = s.mgmt ∧ (s.setPin n v).resps = s.resps ∧ (s.setPin n v).progress = s.progress ∧
    (s.setPin n v).free = s.free :=
  ⟨rfl, rfl, rfl, rfl, rfl, rfl, rfl, rfl, rfl, rfl, rfl, rfl, rfl, rfl, rfl, rfl, rfl, rfl, rfl, rfl, rfl, rfl, rfl, rfl, rfl, rfl, rfl, rfl, rfl, rfl, rfl, rfl, rfl, rfl, rfl, rfl, rfl, rfl, rfl⟩

@[simp] theorem State.setPin_reads (s : State) (n : Nat) (v : PinSt) (j : Nat) :
    (s.setPin n v).lc j = s.lc j ∧ (s.setPin n v).isl j = s.isl j ∧ (s.setPin n v).holder j = s.holder j ∧
    (s.setPin n v).slice j = s.slice j ∧ (s.setPin n v).ct j = s.ct j ∧ (s.setPin n v).chan j = s.chan j ∧
    (s.setPin n v).map j = s.map j ∧ (s.setPin n v).queue j = s.queue j ∧ (s.setPin n v).dma j = s.dma j ∧
    (s.setPin n v).sc j = s.sc j ∧ (s.setPin n v).pe j = s.pe j ∧ (s.setPin n v).port j = s.port j ∧
    (s.setPin n v).ctx j = s.ctx j ∧ (s.setPin n v).aslot j = s.aslot j ∧ (s.setPin n v).acc j = s.acc j ∧
    (s.setPin n v).prst j = s.prst j ∧ (s.setPin n v).srcBuf j = s.srcBuf j ∧ (s.setPin n v).col j = s.col j ∧
    (s.setPin n v).stormAt j = s.stormAt j ∧ (s.setPin n v).irqsAt j = s.irqsAt j ∧
    (s.setPin n v).memByte j = s.memByte j :=
  ⟨rfl, rfl, rfl, rfl, rfl, rfl, rfl, rfl, rfl, rfl, rfl, rfl, rfl, rfl, rfl, rfl, rfl, rfl, rfl, rfl, rfl⟩

@[simp] theorem State.setPin_cut (s : State) (n : Nat) (v : PinSt) (w : CutUnit) :
    (s.setPin n v).cut w = s.cut w :=
  rfl

@[simp] theorem State.setPin_reg (s : State) (n : Nat) (v : PinSt) (q : CsReg) :
    (s.setPin n v).reg q = s.reg q ∧ (∀ hi lo, (s.setPin n v).fld q hi lo = s.fld q hi lo) :=
  ⟨rfl, fun _ _ => rfl⟩

@[simp] theorem State.setPin_isPoison (s : State) (n : Nat) (v : PinSt) (y : LineNo) :
    (s.setPin n v).isPoison y = s.isPoison y :=
  rfl

@[simp] theorem State.setPin_mode (s : State) (n : Nat) (v : PinSt) : (s.setPin n v).mode = s.mode ∧ (s.setPin n v).now = s.now := ⟨rfl, rfl⟩

/-- `setCut` changes `cuts` alone. -/
@[simp] theorem State.setCut_fields (s : State) (u : CutUnit) (c : CutState) :
    (s.setCut u c).pending = s.pending ∧ (s.setCut u c).keeper = s.keeper ∧ (s.setCut u c).tb = s.tb ∧
    (s.setCut u c).fuses = s.fuses ∧ (s.setCut u c).loader = s.loader ∧ (s.setCut u c).regs = s.regs ∧
    (s.setCut u c).mem = s.mem ∧ (s.setCut u c).poison = s.poison ∧ (s.setCut u c).lcs = s.lcs ∧
    (s.setCut u c).isls = s.isls ∧ (s.setCut u c).migrations = s.migrations ∧
    (s.setCut u c).holders = s.holders ∧ (s.setCut u c).slices = s.slices ∧ (s.setCut u c).cts = s.cts ∧
    (s.setCut u c).outReqs = s.outReqs ∧ (s.setCut u c).chans = s.chans ∧ (s.setCut u c).maps = s.maps ∧
    (s.setCut u c).queues = s.queues ∧ (s.setCut u c).qdma = s.qdma ∧ (s.setCut u c).tags = s.tags ∧
    (s.setCut u c).scs = s.scs ∧ (s.setCut u c).pes = s.pes ∧ (s.setCut u c).mirrorUp = s.mirrorUp ∧
    (s.setCut u c).ports = s.ports ∧ (s.setCut u c).ctxs = s.ctxs ∧ (s.setCut u c).slots = s.slots ∧
    (s.setCut u c).accs = s.accs ∧ (s.setCut u c).cutReqs = s.cutReqs ∧ (s.setCut u c).irqs = s.irqs ∧
    (s.setCut u c).storms = s.storms ∧ (s.setCut u c).buckets = s.buckets ∧ (s.setCut u c).resets = s.resets ∧
    (s.setCut u c).srcBufs = s.srcBufs ∧ (s.setCut u c).cols = s.cols ∧ (s.setCut u c).pins = s.pins ∧
    (s.setCut u c).mgmt = s.mgmt ∧ (s.setCut u c).resps = s.resps ∧ (s.setCut u c).progress = s.progress ∧
    (s.setCut u c).free = s.free :=
  ⟨rfl, rfl, rfl, rfl, rfl, rfl, rfl, rfl, rfl, rfl, rfl, rfl, rfl, rfl, rfl, rfl, rfl, rfl, rfl, rfl, rfl, rfl, rfl, rfl, rfl, rfl, rfl, rfl, rfl, rfl, rfl, rfl, rfl, rfl, rfl, rfl, rfl, rfl, rfl⟩

@[simp] theorem State.setCut_reads (s : State) (u : CutUnit) (c : CutState) (j : Nat) :
    (s.setCut u c).lc j = s.lc j ∧ (s.setCut u c).isl j = s.isl j ∧ (s.setCut u c).holder j = s.holder j ∧
    (s.setCut u c).slice j = s.slice j ∧ (s.setCut u c).ct j = s.ct j ∧ (s.setCut u c).chan j = s.chan j ∧
    (s.setCut u c).map j = s.map j ∧ (s.setCut u c).queue j = s.queue j ∧ (s.setCut u c).dma j = s.dma j ∧
    (s.setCut u c).sc j = s.sc j ∧ (s.setCut u c).pe j = s.pe j ∧ (s.setCut u c).port j = s.port j ∧
    (s.setCut u c).ctx j = s.ctx j ∧ (s.setCut u c).aslot j = s.aslot j ∧ (s.setCut u c).acc j = s.acc j ∧
    (s.setCut u c).prst j = s.prst j ∧ (s.setCut u c).srcBuf j = s.srcBuf j ∧ (s.setCut u c).col j = s.col j ∧
    (s.setCut u c).pin j = s.pin j ∧ (s.setCut u c).stormAt j = s.stormAt j ∧
    (s.setCut u c).irqsAt j = s.irqsAt j ∧ (s.setCut u c).memByte j = s.memByte j :=
  ⟨rfl, rfl, rfl, rfl, rfl, rfl, rfl, rfl, rfl, rfl, rfl, rfl, rfl, rfl, rfl, rfl, rfl, rfl, rfl, rfl, rfl, rfl⟩

@[simp] theorem State.setCut_reg (s : State) (u : CutUnit) (c : CutState) (q : CsReg) :
    (s.setCut u c).reg q = s.reg q ∧ (∀ hi lo, (s.setCut u c).fld q hi lo = s.fld q hi lo) :=
  ⟨rfl, fun _ _ => rfl⟩

@[simp] theorem State.setCut_isPoison (s : State) (u : CutUnit) (c : CutState) (y : LineNo) :
    (s.setCut u c).isPoison y = s.isPoison y :=
  rfl

@[simp] theorem State.setCut_mode (s : State) (u : CutUnit) (c : CutState) : (s.setCut u c).mode = s.mode ∧ (s.setCut u c).now = s.now := ⟨rfl, rfl⟩

/-- `setStorm` changes `storms` alone. -/
@[simp] theorem State.setStorm_fields (s : State) (k : Nat) (l : List StormPair) :
    (s.setStorm k l).pending = s.pending ∧ (s.setStorm k l).keeper = s.keeper ∧ (s.setStorm k l).tb = s.tb ∧
    (s.setStorm k l).fuses = s.fuses ∧ (s.setStorm k l).loader = s.loader ∧ (s.setStorm k l).regs = s.regs ∧
    (s.setStorm k l).mem = s.mem ∧ (s.setStorm k l).poison = s.poison ∧ (s.setStorm k l).lcs = s.lcs ∧
    (s.setStorm k l).isls = s.isls ∧ (s.setStorm k l).migrations = s.migrations ∧
    (s.setStorm k l).holders = s.holders ∧ (s.setStorm k l).slices = s.slices ∧ (s.setStorm k l).cts = s.cts ∧
    (s.setStorm k l).outReqs = s.outReqs ∧ (s.setStorm k l).chans = s.chans ∧ (s.setStorm k l).maps = s.maps ∧
    (s.setStorm k l).queues = s.queues ∧ (s.setStorm k l).qdma = s.qdma ∧ (s.setStorm k l).tags = s.tags ∧
    (s.setStorm k l).scs = s.scs ∧ (s.setStorm k l).pes = s.pes ∧ (s.setStorm k l).mirrorUp = s.mirrorUp ∧
    (s.setStorm k l).ports = s.ports ∧ (s.setStorm k l).ctxs = s.ctxs ∧ (s.setStorm k l).slots = s.slots ∧
    (s.setStorm k l).accs = s.accs ∧ (s.setStorm k l).cuts = s.cuts ∧ (s.setStorm k l).cutReqs = s.cutReqs ∧
    (s.setStorm k l).irqs = s.irqs ∧ (s.setStorm k l).buckets = s.buckets ∧
    (s.setStorm k l).resets = s.resets ∧ (s.setStorm k l).srcBufs = s.srcBufs ∧
    (s.setStorm k l).cols = s.cols ∧ (s.setStorm k l).pins = s.pins ∧ (s.setStorm k l).mgmt = s.mgmt ∧
    (s.setStorm k l).resps = s.resps ∧ (s.setStorm k l).progress = s.progress ∧ (s.setStorm k l).free = s.free :=
  ⟨rfl, rfl, rfl, rfl, rfl, rfl, rfl, rfl, rfl, rfl, rfl, rfl, rfl, rfl, rfl, rfl, rfl, rfl, rfl, rfl, rfl, rfl, rfl, rfl, rfl, rfl, rfl, rfl, rfl, rfl, rfl, rfl, rfl, rfl, rfl, rfl, rfl, rfl, rfl⟩

@[simp] theorem State.setStorm_reads (s : State) (k : Nat) (l : List StormPair) (j : Nat) :
    (s.setStorm k l).lc j = s.lc j ∧ (s.setStorm k l).isl j = s.isl j ∧
    (s.setStorm k l).holder j = s.holder j ∧ (s.setStorm k l).slice j = s.slice j ∧
    (s.setStorm k l).ct j = s.ct j ∧ (s.setStorm k l).chan j = s.chan j ∧ (s.setStorm k l).map j = s.map j ∧
    (s.setStorm k l).queue j = s.queue j ∧ (s.setStorm k l).dma j = s.dma j ∧ (s.setStorm k l).sc j = s.sc j ∧
    (s.setStorm k l).pe j = s.pe j ∧ (s.setStorm k l).port j = s.port j ∧ (s.setStorm k l).ctx j = s.ctx j ∧
    (s.setStorm k l).aslot j = s.aslot j ∧ (s.setStorm k l).acc j = s.acc j ∧
    (s.setStorm k l).prst j = s.prst j ∧ (s.setStorm k l).srcBuf j = s.srcBuf j ∧
    (s.setStorm k l).col j = s.col j ∧ (s.setStorm k l).pin j = s.pin j ∧
    (s.setStorm k l).irqsAt j = s.irqsAt j ∧ (s.setStorm k l).memByte j = s.memByte j :=
  ⟨rfl, rfl, rfl, rfl, rfl, rfl, rfl, rfl, rfl, rfl, rfl, rfl, rfl, rfl, rfl, rfl, rfl, rfl, rfl, rfl, rfl⟩

@[simp] theorem State.setStorm_cut (s : State) (k : Nat) (l : List StormPair) (w : CutUnit) :
    (s.setStorm k l).cut w = s.cut w :=
  rfl

@[simp] theorem State.setStorm_reg (s : State) (k : Nat) (l : List StormPair) (q : CsReg) :
    (s.setStorm k l).reg q = s.reg q ∧ (∀ hi lo, (s.setStorm k l).fld q hi lo = s.fld q hi lo) :=
  ⟨rfl, fun _ _ => rfl⟩

@[simp] theorem State.setStorm_isPoison (s : State) (k : Nat) (l : List StormPair) (y : LineNo) :
    (s.setStorm k l).isPoison y = s.isPoison y :=
  rfl

@[simp] theorem State.setStorm_mode (s : State) (k : Nat) (l : List StormPair) : (s.setStorm k l).mode = s.mode ∧ (s.setStorm k l).now = s.now := ⟨rfl, rfl⟩

/-- `setReg` changes `regs` alone. -/
@[simp] theorem State.setReg_fields (s : State) (r : CsReg) (v : Word) :
    (s.setReg r v).pending = s.pending ∧ (s.setReg r v).keeper = s.keeper ∧ (s.setReg r v).tb = s.tb ∧
    (s.setReg r v).fuses = s.fuses ∧ (s.setReg r v).loader = s.loader ∧ (s.setReg r v).mem = s.mem ∧
    (s.setReg r v).poison = s.poison ∧ (s.setReg r v).lcs = s.lcs ∧ (s.setReg r v).isls = s.isls ∧
    (s.setReg r v).migrations = s.migrations ∧ (s.setReg r v).holders = s.holders ∧
    (s.setReg r v).slices = s.slices ∧ (s.setReg r v).cts = s.cts ∧ (s.setReg r v).outReqs = s.outReqs ∧
    (s.setReg r v).chans = s.chans ∧ (s.setReg r v).maps = s.maps ∧ (s.setReg r v).queues = s.queues ∧
    (s.setReg r v).qdma = s.qdma ∧ (s.setReg r v).tags = s.tags ∧ (s.setReg r v).scs = s.scs ∧
    (s.setReg r v).pes = s.pes ∧ (s.setReg r v).mirrorUp = s.mirrorUp ∧ (s.setReg r v).ports = s.ports ∧
    (s.setReg r v).ctxs = s.ctxs ∧ (s.setReg r v).slots = s.slots ∧ (s.setReg r v).accs = s.accs ∧
    (s.setReg r v).cuts = s.cuts ∧ (s.setReg r v).cutReqs = s.cutReqs ∧ (s.setReg r v).irqs = s.irqs ∧
    (s.setReg r v).storms = s.storms ∧ (s.setReg r v).buckets = s.buckets ∧ (s.setReg r v).resets = s.resets ∧
    (s.setReg r v).srcBufs = s.srcBufs ∧ (s.setReg r v).cols = s.cols ∧ (s.setReg r v).pins = s.pins ∧
    (s.setReg r v).mgmt = s.mgmt ∧ (s.setReg r v).resps = s.resps ∧ (s.setReg r v).progress = s.progress ∧
    (s.setReg r v).free = s.free :=
  ⟨rfl, rfl, rfl, rfl, rfl, rfl, rfl, rfl, rfl, rfl, rfl, rfl, rfl, rfl, rfl, rfl, rfl, rfl, rfl, rfl, rfl, rfl, rfl, rfl, rfl, rfl, rfl, rfl, rfl, rfl, rfl, rfl, rfl, rfl, rfl, rfl, rfl, rfl, rfl⟩

@[simp] theorem State.setReg_reads (s : State) (r : CsReg) (v : Word) (j : Nat) :
    (s.setReg r v).lc j = s.lc j ∧ (s.setReg r v).isl j = s.isl j ∧ (s.setReg r v).holder j = s.holder j ∧
    (s.setReg r v).slice j = s.slice j ∧ (s.setReg r v).ct j = s.ct j ∧ (s.setReg r v).chan j = s.chan j ∧
    (s.setReg r v).map j = s.map j ∧ (s.setReg r v).queue j = s.queue j ∧ (s.setReg r v).dma j = s.dma j ∧
    (s.setReg r v).sc j = s.sc j ∧ (s.setReg r v).pe j = s.pe j ∧ (s.setReg r v).port j = s.port j ∧
    (s.setReg r v).ctx j = s.ctx j ∧ (s.setReg r v).aslot j = s.aslot j ∧ (s.setReg r v).acc j = s.acc j ∧
    (s.setReg r v).prst j = s.prst j ∧ (s.setReg r v).srcBuf j = s.srcBuf j ∧ (s.setReg r v).col j = s.col j ∧
    (s.setReg r v).pin j = s.pin j ∧ (s.setReg r v).stormAt j = s.stormAt j ∧
    (s.setReg r v).irqsAt j = s.irqsAt j ∧ (s.setReg r v).memByte j = s.memByte j :=
  ⟨rfl, rfl, rfl, rfl, rfl, rfl, rfl, rfl, rfl, rfl, rfl, rfl, rfl, rfl, rfl, rfl, rfl, rfl, rfl, rfl, rfl, rfl⟩

@[simp] theorem State.setReg_cut (s : State) (r : CsReg) (v : Word) (w : CutUnit) :
    (s.setReg r v).cut w = s.cut w :=
  rfl

@[simp] theorem State.setReg_isPoison (s : State) (r : CsReg) (v : Word) (y : LineNo) :
    (s.setReg r v).isPoison y = s.isPoison y :=
  rfl

@[simp] theorem State.setReg_mode (s : State) (r : CsReg) (v : Word) : (s.setReg r v).mode = s.mode ∧ (s.setReg r v).now = s.now := ⟨rfl, rfl⟩

/-- `setMemByte` changes `mem` alone. -/
@[simp] theorem State.setMemByte_fields (s : State) (a : Nat) (b : Byte) :
    (s.setMemByte a b).pending = s.pending ∧ (s.setMemByte a b).keeper = s.keeper ∧
    (s.setMemByte a b).tb = s.tb ∧ (s.setMemByte a b).fuses = s.fuses ∧ (s.setMemByte a b).loader = s.loader ∧
    (s.setMemByte a b).regs = s.regs ∧ (s.setMemByte a b).poison = s.poison ∧ (s.setMemByte a b).lcs = s.lcs ∧
    (s.setMemByte a b).isls = s.isls ∧ (s.setMemByte a b).migrations = s.migrations ∧
    (s.setMemByte a b).holders = s.holders ∧ (s.setMemByte a b).slices = s.slices ∧
    (s.setMemByte a b).cts = s.cts ∧ (s.setMemByte a b).outReqs = s.outReqs ∧
    (s.setMemByte a b).chans = s.chans ∧ (s.setMemByte a b).maps = s.maps ∧
    (s.setMemByte a b).queues = s.queues ∧ (s.setMemByte a b).qdma = s.qdma ∧
    (s.setMemByte a b).tags = s.tags ∧ (s.setMemByte a b).scs = s.scs ∧ (s.setMemByte a b).pes = s.pes ∧
    (s.setMemByte a b).mirrorUp = s.mirrorUp ∧ (s.setMemByte a b).ports = s.ports ∧
    (s.setMemByte a b).ctxs = s.ctxs ∧ (s.setMemByte a b).slots = s.slots ∧ (s.setMemByte a b).accs = s.accs ∧
    (s.setMemByte a b).cuts = s.cuts ∧ (s.setMemByte a b).cutReqs = s.cutReqs ∧
    (s.setMemByte a b).irqs = s.irqs ∧ (s.setMemByte a b).storms = s.storms ∧
    (s.setMemByte a b).buckets = s.buckets ∧ (s.setMemByte a b).resets = s.resets ∧
    (s.setMemByte a b).srcBufs = s.srcBufs ∧ (s.setMemByte a b).cols = s.cols ∧
    (s.setMemByte a b).pins = s.pins ∧ (s.setMemByte a b).mgmt = s.mgmt ∧ (s.setMemByte a b).resps = s.resps ∧
    (s.setMemByte a b).progress = s.progress ∧ (s.setMemByte a b).free = s.free :=
  ⟨rfl, rfl, rfl, rfl, rfl, rfl, rfl, rfl, rfl, rfl, rfl, rfl, rfl, rfl, rfl, rfl, rfl, rfl, rfl, rfl, rfl, rfl, rfl, rfl, rfl, rfl, rfl, rfl, rfl, rfl, rfl, rfl, rfl, rfl, rfl, rfl, rfl, rfl, rfl⟩

@[simp] theorem State.setMemByte_reads (s : State) (a : Nat) (b : Byte) (j : Nat) :
    (s.setMemByte a b).lc j = s.lc j ∧ (s.setMemByte a b).isl j = s.isl j ∧
    (s.setMemByte a b).holder j = s.holder j ∧ (s.setMemByte a b).slice j = s.slice j ∧
    (s.setMemByte a b).ct j = s.ct j ∧ (s.setMemByte a b).chan j = s.chan j ∧
    (s.setMemByte a b).map j = s.map j ∧ (s.setMemByte a b).queue j = s.queue j ∧
    (s.setMemByte a b).dma j = s.dma j ∧ (s.setMemByte a b).sc j = s.sc j ∧ (s.setMemByte a b).pe j = s.pe j ∧
    (s.setMemByte a b).port j = s.port j ∧ (s.setMemByte a b).ctx j = s.ctx j ∧
    (s.setMemByte a b).aslot j = s.aslot j ∧ (s.setMemByte a b).acc j = s.acc j ∧
    (s.setMemByte a b).prst j = s.prst j ∧ (s.setMemByte a b).srcBuf j = s.srcBuf j ∧
    (s.setMemByte a b).col j = s.col j ∧ (s.setMemByte a b).pin j = s.pin j ∧
    (s.setMemByte a b).stormAt j = s.stormAt j ∧ (s.setMemByte a b).irqsAt j = s.irqsAt j :=
  ⟨rfl, rfl, rfl, rfl, rfl, rfl, rfl, rfl, rfl, rfl, rfl, rfl, rfl, rfl, rfl, rfl, rfl, rfl, rfl, rfl, rfl⟩

@[simp] theorem State.setMemByte_cut (s : State) (a : Nat) (b : Byte) (w : CutUnit) :
    (s.setMemByte a b).cut w = s.cut w :=
  rfl

@[simp] theorem State.setMemByte_reg (s : State) (a : Nat) (b : Byte) (q : CsReg) :
    (s.setMemByte a b).reg q = s.reg q ∧ (∀ hi lo, (s.setMemByte a b).fld q hi lo = s.fld q hi lo) :=
  ⟨rfl, fun _ _ => rfl⟩

@[simp] theorem State.setMemByte_isPoison (s : State) (a : Nat) (b : Byte) (y : LineNo) :
    (s.setMemByte a b).isPoison y = s.isPoison y :=
  rfl

@[simp] theorem State.setMemByte_mode (s : State) (a : Nat) (b : Byte) : (s.setMemByte a b).mode = s.mode ∧ (s.setMemByte a b).now = s.now := ⟨rfl, rfl⟩

/-- `setPoison` changes `poison` alone. -/
@[simp] theorem State.setPoison_fields (s : State) (l : LineNo) (p : Bool) :
    (s.setPoison l p).pending = s.pending ∧ (s.setPoison l p).keeper = s.keeper ∧ (s.setPoison l p).tb = s.tb ∧
    (s.setPoison l p).fuses = s.fuses ∧ (s.setPoison l p).loader = s.loader ∧ (s.setPoison l p).regs = s.regs ∧
    (s.setPoison l p).mem = s.mem ∧ (s.setPoison l p).lcs = s.lcs ∧ (s.setPoison l p).isls = s.isls ∧
    (s.setPoison l p).migrations = s.migrations ∧ (s.setPoison l p).holders = s.holders ∧
    (s.setPoison l p).slices = s.slices ∧ (s.setPoison l p).cts = s.cts ∧
    (s.setPoison l p).outReqs = s.outReqs ∧ (s.setPoison l p).chans = s.chans ∧
    (s.setPoison l p).maps = s.maps ∧ (s.setPoison l p).queues = s.queues ∧ (s.setPoison l p).qdma = s.qdma ∧
    (s.setPoison l p).tags = s.tags ∧ (s.setPoison l p).scs = s.scs ∧ (s.setPoison l p).pes = s.pes ∧
    (s.setPoison l p).mirrorUp = s.mirrorUp ∧ (s.setPoison l p).ports = s.ports ∧
    (s.setPoison l p).ctxs = s.ctxs ∧ (s.setPoison l p).slots = s.slots ∧ (s.setPoison l p).accs = s.accs ∧
    (s.setPoison l p).cuts = s.cuts ∧ (s.setPoison l p).cutReqs = s.cutReqs ∧ (s.setPoison l p).irqs = s.irqs ∧
    (s.setPoison l p).storms = s.storms ∧ (s.setPoison l p).buckets = s.buckets ∧
    (s.setPoison l p).resets = s.resets ∧ (s.setPoison l p).srcBufs = s.srcBufs ∧
    (s.setPoison l p).cols = s.cols ∧ (s.setPoison l p).pins = s.pins ∧ (s.setPoison l p).mgmt = s.mgmt ∧
    (s.setPoison l p).resps = s.resps ∧ (s.setPoison l p).progress = s.progress ∧
    (s.setPoison l p).free = s.free :=
  ⟨rfl, rfl, rfl, rfl, rfl, rfl, rfl, rfl, rfl, rfl, rfl, rfl, rfl, rfl, rfl, rfl, rfl, rfl, rfl, rfl, rfl, rfl, rfl, rfl, rfl, rfl, rfl, rfl, rfl, rfl, rfl, rfl, rfl, rfl, rfl, rfl, rfl, rfl, rfl⟩

@[simp] theorem State.setPoison_reads (s : State) (l : LineNo) (p : Bool) (j : Nat) :
    (s.setPoison l p).lc j = s.lc j ∧ (s.setPoison l p).isl j = s.isl j ∧
    (s.setPoison l p).holder j = s.holder j ∧ (s.setPoison l p).slice j = s.slice j ∧
    (s.setPoison l p).ct j = s.ct j ∧ (s.setPoison l p).chan j = s.chan j ∧ (s.setPoison l p).map j = s.map j ∧
    (s.setPoison l p).queue j = s.queue j ∧ (s.setPoison l p).dma j = s.dma j ∧
    (s.setPoison l p).sc j = s.sc j ∧ (s.setPoison l p).pe j = s.pe j ∧ (s.setPoison l p).port j = s.port j ∧
    (s.setPoison l p).ctx j = s.ctx j ∧ (s.setPoison l p).aslot j = s.aslot j ∧
    (s.setPoison l p).acc j = s.acc j ∧ (s.setPoison l p).prst j = s.prst j ∧
    (s.setPoison l p).srcBuf j = s.srcBuf j ∧ (s.setPoison l p).col j = s.col j ∧
    (s.setPoison l p).pin j = s.pin j ∧ (s.setPoison l p).stormAt j = s.stormAt j ∧
    (s.setPoison l p).irqsAt j = s.irqsAt j ∧ (s.setPoison l p).memByte j = s.memByte j :=
  ⟨rfl, rfl, rfl, rfl, rfl, rfl, rfl, rfl, rfl, rfl, rfl, rfl, rfl, rfl, rfl, rfl, rfl, rfl, rfl, rfl, rfl, rfl⟩

@[simp] theorem State.setPoison_cut (s : State) (l : LineNo) (p : Bool) (w : CutUnit) :
    (s.setPoison l p).cut w = s.cut w :=
  rfl

@[simp] theorem State.setPoison_reg (s : State) (l : LineNo) (p : Bool) (q : CsReg) :
    (s.setPoison l p).reg q = s.reg q ∧ (∀ hi lo, (s.setPoison l p).fld q hi lo = s.fld q hi lo) :=
  ⟨rfl, fun _ _ => rfl⟩

@[simp] theorem State.setPoison_mode (s : State) (l : LineNo) (p : Bool) : (s.setPoison l p).mode = s.mode ∧ (s.setPoison l p).now = s.now := ⟨rfl, rfl⟩

/-- `respond` changes `resps` alone. -/
@[simp] theorem State.respond_fields (s : State) (m : Master) (r : Resp) :
    (s.respond m r).pending = s.pending ∧ (s.respond m r).keeper = s.keeper ∧ (s.respond m r).tb = s.tb ∧
    (s.respond m r).fuses = s.fuses ∧ (s.respond m r).loader = s.loader ∧ (s.respond m r).regs = s.regs ∧
    (s.respond m r).mem = s.mem ∧ (s.respond m r).poison = s.poison ∧ (s.respond m r).lcs = s.lcs ∧
    (s.respond m r).isls = s.isls ∧ (s.respond m r).migrations = s.migrations ∧
    (s.respond m r).holders = s.holders ∧ (s.respond m r).slices = s.slices ∧ (s.respond m r).cts = s.cts ∧
    (s.respond m r).outReqs = s.outReqs ∧ (s.respond m r).chans = s.chans ∧ (s.respond m r).maps = s.maps ∧
    (s.respond m r).queues = s.queues ∧ (s.respond m r).qdma = s.qdma ∧ (s.respond m r).tags = s.tags ∧
    (s.respond m r).scs = s.scs ∧ (s.respond m r).pes = s.pes ∧ (s.respond m r).mirrorUp = s.mirrorUp ∧
    (s.respond m r).ports = s.ports ∧ (s.respond m r).ctxs = s.ctxs ∧ (s.respond m r).slots = s.slots ∧
    (s.respond m r).accs = s.accs ∧ (s.respond m r).cuts = s.cuts ∧ (s.respond m r).cutReqs = s.cutReqs ∧
    (s.respond m r).irqs = s.irqs ∧ (s.respond m r).storms = s.storms ∧ (s.respond m r).buckets = s.buckets ∧
    (s.respond m r).resets = s.resets ∧ (s.respond m r).srcBufs = s.srcBufs ∧ (s.respond m r).cols = s.cols ∧
    (s.respond m r).pins = s.pins ∧ (s.respond m r).mgmt = s.mgmt ∧ (s.respond m r).progress = s.progress ∧
    (s.respond m r).free = s.free :=
  ⟨rfl, rfl, rfl, rfl, rfl, rfl, rfl, rfl, rfl, rfl, rfl, rfl, rfl, rfl, rfl, rfl, rfl, rfl, rfl, rfl, rfl, rfl, rfl, rfl, rfl, rfl, rfl, rfl, rfl, rfl, rfl, rfl, rfl, rfl, rfl, rfl, rfl, rfl, rfl⟩

@[simp] theorem State.respond_reads (s : State) (m : Master) (r : Resp) (j : Nat) :
    (s.respond m r).lc j = s.lc j ∧ (s.respond m r).isl j = s.isl j ∧ (s.respond m r).holder j = s.holder j ∧
    (s.respond m r).slice j = s.slice j ∧ (s.respond m r).ct j = s.ct j ∧ (s.respond m r).chan j = s.chan j ∧
    (s.respond m r).map j = s.map j ∧ (s.respond m r).queue j = s.queue j ∧ (s.respond m r).dma j = s.dma j ∧
    (s.respond m r).sc j = s.sc j ∧ (s.respond m r).pe j = s.pe j ∧ (s.respond m r).port j = s.port j ∧
    (s.respond m r).ctx j = s.ctx j ∧ (s.respond m r).aslot j = s.aslot j ∧ (s.respond m r).acc j = s.acc j ∧
    (s.respond m r).prst j = s.prst j ∧ (s.respond m r).srcBuf j = s.srcBuf j ∧
    (s.respond m r).col j = s.col j ∧ (s.respond m r).pin j = s.pin j ∧
    (s.respond m r).stormAt j = s.stormAt j ∧ (s.respond m r).irqsAt j = s.irqsAt j ∧
    (s.respond m r).memByte j = s.memByte j :=
  ⟨rfl, rfl, rfl, rfl, rfl, rfl, rfl, rfl, rfl, rfl, rfl, rfl, rfl, rfl, rfl, rfl, rfl, rfl, rfl, rfl, rfl, rfl⟩

@[simp] theorem State.respond_cut (s : State) (m : Master) (r : Resp) (w : CutUnit) :
    (s.respond m r).cut w = s.cut w :=
  rfl

@[simp] theorem State.respond_reg (s : State) (m : Master) (r : Resp) (q : CsReg) :
    (s.respond m r).reg q = s.reg q ∧ (∀ hi lo, (s.respond m r).fld q hi lo = s.fld q hi lo) :=
  ⟨rfl, fun _ _ => rfl⟩

@[simp] theorem State.respond_isPoison (s : State) (m : Master) (r : Resp) (y : LineNo) :
    (s.respond m r).isPoison y = s.isPoison y :=
  rfl

@[simp] theorem State.respond_mode (s : State) (m : Master) (r : Resp) : (s.respond m r).mode = s.mode ∧ (s.respond m r).now = s.now := ⟨rfl, rfl⟩

/-- `raiseIrq` changes `irqs` alone. -/
@[simp] theorem State.raiseIrq_fields (s : State) (k : Nat) (m : IrqMsg) :
    (s.raiseIrq k m).pending = s.pending ∧ (s.raiseIrq k m).keeper = s.keeper ∧ (s.raiseIrq k m).tb = s.tb ∧
    (s.raiseIrq k m).fuses = s.fuses ∧ (s.raiseIrq k m).loader = s.loader ∧ (s.raiseIrq k m).regs = s.regs ∧
    (s.raiseIrq k m).mem = s.mem ∧ (s.raiseIrq k m).poison = s.poison ∧ (s.raiseIrq k m).lcs = s.lcs ∧
    (s.raiseIrq k m).isls = s.isls ∧ (s.raiseIrq k m).migrations = s.migrations ∧
    (s.raiseIrq k m).holders = s.holders ∧ (s.raiseIrq k m).slices = s.slices ∧ (s.raiseIrq k m).cts = s.cts ∧
    (s.raiseIrq k m).outReqs = s.outReqs ∧ (s.raiseIrq k m).chans = s.chans ∧ (s.raiseIrq k m).maps = s.maps ∧
    (s.raiseIrq k m).queues = s.queues ∧ (s.raiseIrq k m).qdma = s.qdma ∧ (s.raiseIrq k m).tags = s.tags ∧
    (s.raiseIrq k m).scs = s.scs ∧ (s.raiseIrq k m).pes = s.pes ∧ (s.raiseIrq k m).mirrorUp = s.mirrorUp ∧
    (s.raiseIrq k m).ports = s.ports ∧ (s.raiseIrq k m).ctxs = s.ctxs ∧ (s.raiseIrq k m).slots = s.slots ∧
    (s.raiseIrq k m).accs = s.accs ∧ (s.raiseIrq k m).cuts = s.cuts ∧ (s.raiseIrq k m).cutReqs = s.cutReqs ∧
    (s.raiseIrq k m).storms = s.storms ∧ (s.raiseIrq k m).buckets = s.buckets ∧
    (s.raiseIrq k m).resets = s.resets ∧ (s.raiseIrq k m).srcBufs = s.srcBufs ∧
    (s.raiseIrq k m).cols = s.cols ∧ (s.raiseIrq k m).pins = s.pins ∧ (s.raiseIrq k m).mgmt = s.mgmt ∧
    (s.raiseIrq k m).resps = s.resps ∧ (s.raiseIrq k m).progress = s.progress ∧ (s.raiseIrq k m).free = s.free :=
  ⟨rfl, rfl, rfl, rfl, rfl, rfl, rfl, rfl, rfl, rfl, rfl, rfl, rfl, rfl, rfl, rfl, rfl, rfl, rfl, rfl, rfl, rfl, rfl, rfl, rfl, rfl, rfl, rfl, rfl, rfl, rfl, rfl, rfl, rfl, rfl, rfl, rfl, rfl, rfl⟩

@[simp] theorem State.raiseIrq_reads (s : State) (k : Nat) (m : IrqMsg) (j : Nat) :
    (s.raiseIrq k m).lc j = s.lc j ∧ (s.raiseIrq k m).isl j = s.isl j ∧
    (s.raiseIrq k m).holder j = s.holder j ∧ (s.raiseIrq k m).slice j = s.slice j ∧
    (s.raiseIrq k m).ct j = s.ct j ∧ (s.raiseIrq k m).chan j = s.chan j ∧ (s.raiseIrq k m).map j = s.map j ∧
    (s.raiseIrq k m).queue j = s.queue j ∧ (s.raiseIrq k m).dma j = s.dma j ∧ (s.raiseIrq k m).sc j = s.sc j ∧
    (s.raiseIrq k m).pe j = s.pe j ∧ (s.raiseIrq k m).port j = s.port j ∧ (s.raiseIrq k m).ctx j = s.ctx j ∧
    (s.raiseIrq k m).aslot j = s.aslot j ∧ (s.raiseIrq k m).acc j = s.acc j ∧
    (s.raiseIrq k m).prst j = s.prst j ∧ (s.raiseIrq k m).srcBuf j = s.srcBuf j ∧
    (s.raiseIrq k m).col j = s.col j ∧ (s.raiseIrq k m).pin j = s.pin j ∧
    (s.raiseIrq k m).stormAt j = s.stormAt j ∧ (s.raiseIrq k m).memByte j = s.memByte j :=
  ⟨rfl, rfl, rfl, rfl, rfl, rfl, rfl, rfl, rfl, rfl, rfl, rfl, rfl, rfl, rfl, rfl, rfl, rfl, rfl, rfl, rfl⟩

@[simp] theorem State.raiseIrq_cut (s : State) (k : Nat) (m : IrqMsg) (w : CutUnit) :
    (s.raiseIrq k m).cut w = s.cut w :=
  rfl

@[simp] theorem State.raiseIrq_reg (s : State) (k : Nat) (m : IrqMsg) (q : CsReg) :
    (s.raiseIrq k m).reg q = s.reg q ∧ (∀ hi lo, (s.raiseIrq k m).fld q hi lo = s.fld q hi lo) :=
  ⟨rfl, fun _ _ => rfl⟩

@[simp] theorem State.raiseIrq_isPoison (s : State) (k : Nat) (m : IrqMsg) (y : LineNo) :
    (s.raiseIrq k m).isPoison y = s.isPoison y :=
  rfl

@[simp] theorem State.raiseIrq_mode (s : State) (k : Nat) (m : IrqMsg) : (s.raiseIrq k m).mode = s.mode ∧ (s.raiseIrq k m).now = s.now := ⟨rfl, rfl⟩

/-! ### Reading back -/

@[simp] theorem State.setLc_lc (s : State) (n : Nat) (v : LCore) : (s.setLc n v).lc n = v := by
  simp [State.setLc, State.lc]
theorem State.setLc_lc_ne (s : State) {n j : Nat} (v : LCore) (h : n ≠ j) : (s.setLc n v).lc j = s.lc j := by
  simp [State.setLc, State.lc, Table.get_insert_ne _ _ _ h]
@[simp] theorem State.modLc_eq (s : State) (n : Nat) (f : LCore → LCore) : s.modLc n f = s.setLc n (f (s.lc n)) := rfl

@[simp] theorem State.setIsl_isl (s : State) (n : Nat) (v : Isl) : (s.setIsl n v).isl n = v := by
  simp [State.setIsl, State.isl]
theorem State.setIsl_isl_ne (s : State) {n j : Nat} (v : Isl) (h : n ≠ j) : (s.setIsl n v).isl j = s.isl j := by
  simp [State.setIsl, State.isl, Table.get_insert_ne _ _ _ h]
@[simp] theorem State.modIsl_eq (s : State) (n : Nat) (f : Isl → Isl) : s.modIsl n f = s.setIsl n (f (s.isl n)) := rfl

@[simp] theorem State.setHolder_holder (s : State) (n : Nat) (v : Holder) : (s.setHolder n v).holder n = v := by
  simp [State.setHolder, State.holder]
theorem State.setHolder_holder_ne (s : State) {n j : Nat} (v : Holder) (h : n ≠ j) : (s.setHolder n v).holder j = s.holder j := by
  simp [State.setHolder, State.holder, Table.get_insert_ne _ _ _ h]
@[simp] theorem State.modHolder_eq (s : State) (n : Nat) (f : Holder → Holder) : s.modHolder n f = s.setHolder n (f (s.holder n)) := rfl

@[simp] theorem State.setSlice_slice (s : State) (n : Nat) (v : SliceSt) : (s.setSlice n v).slice n = v := by
  simp [State.setSlice, State.slice]
theorem State.setSlice_slice_ne (s : State) {n j : Nat} (v : SliceSt) (h : n ≠ j) : (s.setSlice n v).slice j = s.slice j := by
  simp [State.setSlice, State.slice, Table.get_insert_ne _ _ _ h]
@[simp] theorem State.modSlice_eq (s : State) (n : Nat) (f : SliceSt → SliceSt) : s.modSlice n f = s.setSlice n (f (s.slice n)) := rfl

@[simp] theorem State.setCt_ct (s : State) (n : Nat) (v : CtSt) : (s.setCt n v).ct n = v := by
  simp [State.setCt, State.ct]
theorem State.setCt_ct_ne (s : State) {n j : Nat} (v : CtSt) (h : n ≠ j) : (s.setCt n v).ct j = s.ct j := by
  simp [State.setCt, State.ct, Table.get_insert_ne _ _ _ h]
@[simp] theorem State.modCt_eq (s : State) (n : Nat) (f : CtSt → CtSt) : s.modCt n f = s.setCt n (f (s.ct n)) := rfl

@[simp] theorem State.setChan_chan (s : State) (n : Nat) (v : ChanSt) : (s.setChan n v).chan n = v := by
  simp [State.setChan, State.chan]
theorem State.setChan_chan_ne (s : State) {n j : Nat} (v : ChanSt) (h : n ≠ j) : (s.setChan n v).chan j = s.chan j := by
  simp [State.setChan, State.chan, Table.get_insert_ne _ _ _ h]
@[simp] theorem State.modChan_eq (s : State) (n : Nat) (f : ChanSt → ChanSt) : s.modChan n f = s.setChan n (f (s.chan n)) := rfl

@[simp] theorem State.setMap_map (s : State) (n : Nat) (v : MapSt) : (s.setMap n v).map n = v := by
  simp [State.setMap, State.map]
theorem State.setMap_map_ne (s : State) {n j : Nat} (v : MapSt) (h : n ≠ j) : (s.setMap n v).map j = s.map j := by
  simp [State.setMap, State.map, Table.get_insert_ne _ _ _ h]
@[simp] theorem State.modMap_eq (s : State) (n : Nat) (f : MapSt → MapSt) : s.modMap n f = s.setMap n (f (s.map n)) := rfl

@[simp] theorem State.setQueue_queue (s : State) (n : Nat) (v : QSt) : (s.setQueue n v).queue n = v := by
  simp [State.setQueue, State.queue]
theorem State.setQueue_queue_ne (s : State) {n j : Nat} (v : QSt) (h : n ≠ j) : (s.setQueue n v).queue j = s.queue j := by
  simp [State.setQueue, State.queue, Table.get_insert_ne _ _ _ h]
@[simp] theorem State.modQueue_eq (s : State) (n : Nat) (f : QSt → QSt) : s.modQueue n f = s.setQueue n (f (s.queue n)) := rfl

@[simp] theorem State.setDma_dma (s : State) (n : Nat) (v : QdmaSt) : (s.setDma n v).dma n = v := by
  simp [State.setDma, State.dma]
theorem State.setDma_dma_ne (s : State) {n j : Nat} (v : QdmaSt) (h : n ≠ j) : (s.setDma n v).dma j = s.dma j := by
  simp [State.setDma, State.dma, Table.get_insert_ne _ _ _ h]
@[simp] theorem State.modDma_eq (s : State) (n : Nat) (f : QdmaSt → QdmaSt) : s.modDma n f = s.setDma n (f (s.dma n)) := rfl

@[simp] theorem State.setSc_sc (s : State) (n : Nat) (v : ScSt) : (s.setSc n v).sc n = v := by
  simp [State.setSc, State.sc]
theorem State.setSc_sc_ne (s : State) {n j : Nat} (v : ScSt) (h : n ≠ j) : (s.setSc n v).sc j = s.sc j := by
  simp [State.setSc, State.sc, Table.get_insert_ne _ _ _ h]
@[simp] theorem State.modSc_eq (s : State) (n : Nat) (f : ScSt → ScSt) : s.modSc n f = s.setSc n (f (s.sc n)) := rfl

@[simp] theorem State.setPe_pe (s : State) (n : Nat) (v : PeSt) : (s.setPe n v).pe n = v := by
  simp [State.setPe, State.pe]
theorem State.setPe_pe_ne (s : State) {n j : Nat} (v : PeSt) (h : n ≠ j) : (s.setPe n v).pe j = s.pe j := by
  simp [State.setPe, State.pe, Table.get_insert_ne _ _ _ h]
@[simp] theorem State.modPe_eq (s : State) (n : Nat) (f : PeSt → PeSt) : s.modPe n f = s.setPe n (f (s.pe n)) := rfl

@[simp] theorem State.setPort_port (s : State) (n : Nat) (v : PortSt) : (s.setPort n v).port n = v := by
  simp [State.setPort, State.port]
theorem State.setPort_port_ne (s : State) {n j : Nat} (v : PortSt) (h : n ≠ j) : (s.setPort n v).port j = s.port j := by
  simp [State.setPort, State.port, Table.get_insert_ne _ _ _ h]
@[simp] theorem State.modPort_eq (s : State) (n : Nat) (f : PortSt → PortSt) : s.modPort n f = s.setPort n (f (s.port n)) := rfl

@[simp] theorem State.setCtx_ctx (s : State) (n : Nat) (v : CtxSt) : (s.setCtx n v).ctx n = v := by
  simp [State.setCtx, State.ctx]
theorem State.setCtx_ctx_ne (s : State) {n j : Nat} (v : CtxSt) (h : n ≠ j) : (s.setCtx n v).ctx j = s.ctx j := by
  simp [State.setCtx, State.ctx, Table.get_insert_ne _ _ _ h]
@[simp] theorem State.modCtx_eq (s : State) (n : Nat) (f : CtxSt → CtxSt) : s.modCtx n f = s.setCtx n (f (s.ctx n)) := rfl

@[simp] theorem State.setAslot_aslot (s : State) (n : Nat) (v : AccSlot) : (s.setAslot n v).aslot n = v := by
  simp [State.setAslot, State.aslot]
theorem State.setAslot_aslot_ne (s : State) {n j : Nat} (v : AccSlot) (h : n ≠ j) : (s.setAslot n v).aslot j = s.aslot j := by
  simp [State.setAslot, State.aslot, Table.get_insert_ne _ _ _ h]
@[simp] theorem State.modAslot_eq (s : State) (n : Nat) (f : AccSlot → AccSlot) : s.modAslot n f = s.setAslot n (f (s.aslot n)) := rfl

@[simp] theorem State.setAcc_acc (s : State) (n : Nat) (v : AccSt) : (s.setAcc n v).acc n = v := by
  simp [State.setAcc, State.acc]
theorem State.setAcc_acc_ne (s : State) {n j : Nat} (v : AccSt) (h : n ≠ j) : (s.setAcc n v).acc j = s.acc j := by
  simp [State.setAcc, State.acc, Table.get_insert_ne _ _ _ h]
@[simp] theorem State.modAcc_eq (s : State) (n : Nat) (f : AccSt → AccSt) : s.modAcc n f = s.setAcc n (f (s.acc n)) := rfl

@[simp] theorem State.setPrst_prst (s : State) (n : Nat) (v : PrSt) : (s.setPrst n v).prst n = v := by
  simp [State.setPrst, State.prst]
theorem State.setPrst_prst_ne (s : State) {n j : Nat} (v : PrSt) (h : n ≠ j) : (s.setPrst n v).prst j = s.prst j := by
  simp [State.setPrst, State.prst, Table.get_insert_ne _ _ _ h]
@[simp] theorem State.modPrst_eq (s : State) (n : Nat) (f : PrSt → PrSt) : s.modPrst n f = s.setPrst n (f (s.prst n)) := rfl

@[simp] theorem State.setSrcBuf_srcBuf (s : State) (n : Nat) (v : SrcBuf) : (s.setSrcBuf n v).srcBuf n = v := by
  simp [State.setSrcBuf, State.srcBuf]
theorem State.setSrcBuf_srcBuf_ne (s : State) {n j : Nat} (v : SrcBuf) (h : n ≠ j) : (s.setSrcBuf n v).srcBuf j = s.srcBuf j := by
  simp [State.setSrcBuf, State.srcBuf, Table.get_insert_ne _ _ _ h]
@[simp] theorem State.modSrcBuf_eq (s : State) (n : Nat) (f : SrcBuf → SrcBuf) : s.modSrcBuf n f = s.setSrcBuf n (f (s.srcBuf n)) := rfl

@[simp] theorem State.setCol_col (s : State) (n : Nat) (v : ColSt) : (s.setCol n v).col n = v := by
  simp [State.setCol, State.col]
theorem State.setCol_col_ne (s : State) {n j : Nat} (v : ColSt) (h : n ≠ j) : (s.setCol n v).col j = s.col j := by
  simp [State.setCol, State.col, Table.get_insert_ne _ _ _ h]
@[simp] theorem State.modCol_eq (s : State) (n : Nat) (f : ColSt → ColSt) : s.modCol n f = s.setCol n (f (s.col n)) := rfl

@[simp] theorem State.setPin_pin (s : State) (n : Nat) (v : PinSt) : (s.setPin n v).pin n = v := by
  simp [State.setPin, State.pin]
theorem State.setPin_pin_ne (s : State) {n j : Nat} (v : PinSt) (h : n ≠ j) : (s.setPin n v).pin j = s.pin j := by
  simp [State.setPin, State.pin, Table.get_insert_ne _ _ _ h]
@[simp] theorem State.modPin_eq (s : State) (n : Nat) (f : PinSt → PinSt) : s.modPin n f = s.setPin n (f (s.pin n)) := rfl

@[simp] theorem State.setReg_reg_self (s : State) (r : CsReg) (v : Word) : (s.setReg r v).reg r = v := by
  simp [State.setReg, State.reg]
theorem State.setReg_reg_ne (s : State) {r q : CsReg} (v : Word) (h : r.addr ≠ q.addr) :
    (s.setReg r v).reg q = s.reg q := by
  simp [State.setReg, State.reg, Table.get_set_ne' _ _ _ _ h]
@[simp] theorem State.setFld_eq (s : State) (r : CsReg) (hi lo v : Nat) :
    s.setFld r hi lo v = s.setReg r (setBits (s.reg r) hi lo v) := rfl
@[simp] theorem State.bump_eq (s : State) (r : CsReg) (hi lo n : Nat) :
    s.bump r hi lo n = s.setFld r hi lo (min (s.fld r hi lo + n) (2 ^ (hi + 1 - lo) - 1)) := rfl
@[simp] theorem State.setMemByte_self (s : State) (a : Nat) (b : Byte) : (s.setMemByte a b).memByte a = b := by
  simp [State.setMemByte, State.memByte]
theorem State.setMemByte_ne (s : State) {a c : Nat} (b : Byte) (h : a ≠ c) :
    (s.setMemByte a b).memByte c = s.memByte c := by
  simp [State.setMemByte, State.memByte, Table.get_set_ne _ _ _ h]

end Sys2Proof.Machine
end

