-- ==== Sys2Proof/Laws/Ops.lean ====
section
/-! SUPPORT. What the shared operations do: register fields, fault messages, changes of mode, control-space accesses, and
one instruction of a logical core. -/

namespace Sys2Proof.Machine

/-! ### Register fields -/

theorem bits_lt (w : Word) (hi lo : Nat) : bits w hi lo < 2 ^ (hi + 1 - lo) := Nat.mod_lt _ (Nat.two_pow_pos _)

/-- A bit of a field is a bit of the word. -/
theorem bits_testBit (w : Word) (hi lo i : Nat) :
    (bits w hi lo).testBit i = (decide (i < hi + 1 - lo) && w.getLsbD (lo + i)) := by
  simp [bits, Nat.testBit_mod_two_pow, Nat.testBit_div_two_pow, BitVec.testBit_toNat, Nat.add_comm]

/-- A bit of a word after a field write: the value's bit inside the field, the old bit outside. -/
theorem setBits_getLsbD (w : Word) (hi lo v i : Nat) (h : lo ≤ hi) (h64 : hi < 64) :
    (setBits w hi lo v).getLsbD i = if lo ≤ i ∧ i ≤ hi then v.testBit (i - lo) else w.getLsbD i := by
  unfold setBits
  by_cases hi64 : i < 64
  · by_cases h1 : lo ≤ i ∧ i ≤ hi
    · have h2 : i - lo < hi + 1 - lo := by omega
      simp only [BitVec.getLsbD_or, BitVec.getLsbD_and, BitVec.getLsbD_not, BitVec.getLsbD_ofNat, hi64, h1, h2,
        Nat.testBit_mul_two_pow, Nat.testBit_two_pow_sub_one, Nat.testBit_mod_two_pow, and_self, if_true]
      simp
    · have h2 : ¬ (lo ≤ i ∧ i - lo < hi + 1 - lo) := by omega
      simp only [BitVec.getLsbD_or, BitVec.getLsbD_and, BitVec.getLsbD_not, BitVec.getLsbD_ofNat, hi64, h1, if_false,
        Nat.testBit_mul_two_pow, Nat.testBit_two_pow_sub_one, Nat.testBit_mod_two_pow]
      by_cases h3 : lo ≤ i
      · have h4 : ¬ (i - lo < hi + 1 - lo) := by omega
        simp [h3, h4]
      · simp [h3]
  · have : ¬ (lo ≤ i ∧ i ≤ hi) := by omega
    rw [if_neg this, BitVec.getLsbD_of_ge _ _ (by omega), BitVec.getLsbD_of_ge _ _ (by omega)]

/-- A field write is read back, reduced to the field. -/
theorem bits_setBits_self (w : Word) (hi lo v : Nat) (h : lo ≤ hi) (h64 : hi < 64) :
    bits (setBits w hi lo v) hi lo = v % 2 ^ (hi + 1 - lo) := by
  apply Nat.eq_of_testBit_eq
  intro i
  rw [bits_testBit, setBits_getLsbD _ _ _ _ _ h h64, Nat.testBit_mod_two_pow]
  by_cases hi' : i < hi + 1 - lo
  · have : lo ≤ lo + i ∧ lo + i ≤ hi := by omega
    simp [hi', this]
  · simp [hi']

/-- A field write leaves a field apart from it alone. -/
theorem bits_setBits_ne (w : Word) (hi lo v hi2 lo2 : Nat) (h : lo ≤ hi) (h64 : hi < 64) (hd : hi < lo2 ∨ hi2 < lo) :
    bits (setBits w hi lo v) hi2 lo2 = bits w hi2 lo2 := by
  apply Nat.eq_of_testBit_eq
  intro i
  rw [bits_testBit, bits_testBit, setBits_getLsbD _ _ _ _ _ h h64]
  by_cases hi' : i < hi2 + 1 - lo2
  · have : ¬ (lo ≤ lo2 + i ∧ lo2 + i ≤ hi) := by omega
    simp [hi', this]
  · simp [hi']

theorem State.fld_setReg_self (s : State) (r : CsReg) (v : Word) (hi lo : Nat) :
    (s.setReg r v).fld r hi lo = bits v hi lo := by
  simp [State.fld]

/-! ### Fault messages -/

/-- A fault message goes into its source's buffer while the rings run; nothing else changes. -/
theorem State.report_srcBufs (s : State) (src kind cls addr : Nat) :
    s.report src kind cls addr = { s with srcBufs := (s.report src kind cls addr).srcBufs } := by
  unfold State.report; split <;> rfl

/-- The message that `report` leaves with its source. -/
theorem State.report_srcBuf (s : State) (src kind cls addr : Nat) (h : s.ringsRun = true) :
    (s.report src kind cls addr).srcBuf src = (s.srcBuf src).push (mkFault src kind cls addr s.now 0) := by
  simp [State.report, h]

@[simp] theorem State.report_regs (s : State) (a b c d : Nat) : (s.report a b c d).regs = s.regs := by
  rw [State.report_srcBufs]
@[simp] theorem State.report_reg (s : State) (a b c d : Nat) (r : CsReg) : (s.report a b c d).reg r = s.reg r := by
  rw [State.report_srcBufs]; rfl
@[simp] theorem State.report_fld (s : State) (a b c d : Nat) (r : CsReg) (hi lo : Nat) :
    (s.report a b c d).fld r hi lo = s.fld r hi lo := by
  rw [State.report_srcBufs]; rfl
@[simp] theorem State.report_keeper (s : State) (a b c d : Nat) : (s.report a b c d).keeper = s.keeper := by
  rw [State.report_srcBufs]
@[simp] theorem State.report_mode (s : State) (a b c d : Nat) : (s.report a b c d).mode = s.mode := by
  rw [State.report_srcBufs]; rfl
@[simp] theorem State.report_pending (s : State) (a b c d : Nat) : (s.report a b c d).pending = s.pending := by
  rw [State.report_srcBufs]
@[simp] theorem State.report_fuses (s : State) (a b c d : Nat) : (s.report a b c d).fuses = s.fuses := by
  rw [State.report_srcBufs]
@[simp] theorem State.report_loader (s : State) (a b c d : Nat) : (s.report a b c d).loader = s.loader := by
  rw [State.report_srcBufs]
@[simp] theorem State.report_mem (s : State) (a b c d : Nat) : (s.report a b c d).mem = s.mem := by
  rw [State.report_srcBufs]
@[simp] theorem State.report_tb (s : State) (a b c d : Nat) : (s.report a b c d).tb = s.tb := by
  rw [State.report_srcBufs]
@[simp] theorem State.report_mgmt (s : State) (a b c d : Nat) : (s.report a b c d).mgmt = s.mgmt := by
  rw [State.report_srcBufs]
@[simp] theorem State.report_lc (s : State) (a b c d n : Nat) : (s.report a b c d).lc n = s.lc n := by
  rw [State.report_srcBufs]; rfl
@[simp] theorem State.report_isl (s : State) (a b c d n : Nat) : (s.report a b c d).isl n = s.isl n := by
  rw [State.report_srcBufs]; rfl
@[simp] theorem State.report_holder (s : State) (a b c d n : Nat) : (s.report a b c d).holder n = s.holder n := by
  rw [State.report_srcBufs]; rfl
@[simp] theorem State.report_slice (s : State) (a b c d n : Nat) : (s.report a b c d).slice n = s.slice n := by
  rw [State.report_srcBufs]; rfl
@[simp] theorem State.report_chan (s : State) (a b c d n : Nat) : (s.report a b c d).chan n = s.chan n := by
  rw [State.report_srcBufs]; rfl
@[simp] theorem State.report_queue (s : State) (a b c d n : Nat) : (s.report a b c d).queue n = s.queue n := by
  rw [State.report_srcBufs]; rfl
@[simp] theorem State.report_sc (s : State) (a b c d n : Nat) : (s.report a b c d).sc n = s.sc n := by
  rw [State.report_srcBufs]; rfl
@[simp] theorem State.report_pe (s : State) (a b c d n : Nat) : (s.report a b c d).pe n = s.pe n := by
  rw [State.report_srcBufs]; rfl
@[simp] theorem State.report_port (s : State) (a b c d n : Nat) : (s.report a b c d).port n = s.port n := by
  rw [State.report_srcBufs]; rfl
@[simp] theorem State.report_ctx (s : State) (a b c d n : Nat) : (s.report a b c d).ctx n = s.ctx n := by
  rw [State.report_srcBufs]; rfl
@[simp] theorem State.report_acc (s : State) (a b c d n : Nat) : (s.report a b c d).acc n = s.acc n := by
  rw [State.report_srcBufs]; rfl
@[simp] theorem State.report_col (s : State) (a b c d n : Nat) : (s.report a b c d).col n = s.col n := by
  rw [State.report_srcBufs]; rfl
@[simp] theorem State.report_pin (s : State) (a b c d n : Nat) : (s.report a b c d).pin n = s.pin n := by
  rw [State.report_srcBufs]; rfl

/-! ### Changes of mode -/

@[simp] theorem State.changeMode_mode (s : State) (m : Mode) : (s.changeMode m).mode = m := by
  unfold State.changeMode
  simp only
  split <;> simp [State.mode]

theorem State.changeMode_keeper (s : State) (m : Mode) :
    (s.changeMode m).keeper = { s.keeper with mode := m } := by
  unfold State.changeMode
  simp only
  split <;> simp

/-! ### Control-space accesses -/

/-- An access that is admitted reaches its block. -/
theorem State.csSized_admits (s : State) (m : Master) (pa n need : Nat) (ok : Bool) (k : State → State)
    (h : s.admitsBytes m pa n need ok = true) : s.csSized m pa n need ok k = k s := by
  simp only [State.admitsBytes, Bool.and_eq_true, Bool.not_eq_true'] at h
  obtain ⟨⟨⟨h1, h2⟩, h3⟩, h4⟩ := h
  simp [State.csSized, h1, h2, h3, h4]

theorem State.csAccess_admits (s : State) (m : Master) (pa need : Nat) (ok : Bool) (k : State → State)
    (h : s.admits m pa need ok = true) : s.csAccess m pa need ok k = k s := s.csSized_admits m pa 8 need ok k h

/-- A privileged write that is admitted is answered OK and takes its effect. -/
theorem State.csPriv_admits (s : State) (m : Master) (pa : Nat) (k : State → State)
    (h : s.admits m pa needW (s.privileged m) = true) : s.csPriv m pa k = k (s.respond m .ok) := by
  rw [State.csPriv, State.csAccess_admits _ _ _ _ _ _ h]

theorem State.csOpen_admits (s : State) (m : Master) (pa : Nat) (k : State → State)
    (h : s.admits m pa needW true = true) : s.csOpen m pa k = k (s.respond m .ok) := by
  rw [State.csOpen, State.csAccess_admits _ _ _ _ _ _ h]

/-- A write of KS_CMD that is admitted and not refused reaches its command. -/
theorem State.ksWrite_admits (s : State) (m : Master) (zero : Bool) (k : State → State)
    (h : s.admits m CsReg.ksCmd.addr needW (s.privileged m) = true) (ht : s.keeper.trans = .none)
    (hz : s.mode ≠ .zeroize ∨ zero = true) : s.ksWrite m zero k = k (s.respond m .ok) := by
  rw [State.ksWrite, State.csPriv_admits _ _ _ _ h]
  rcases hz with hz | hz <;> simp [ht, hz]

/-! ### Requests at the home slices -/

/-- Requests that the home slices serve now have their effect in the state in which they are served. -/
theorem State.admitAs_serves (s : State) (r : Requester) (m : Master) (rs : List Reach) (k : State → State)
    (h : s.homesServe r m rs = true) :
    s.admitAs r m rs k = (s.reached rs).foldl (fun t e => t.caClear e.1) (k (s.atHome r rs)) := by
  simp [State.admitAs, State.gate, h, State.atHome]

/-- A step without requests waits for no home slice. -/
theorem State.admitAs_none (s : State) (r : Requester) (m : Master) (k : State → State) : s.admitAs r m [] k = k s := by
  simp [State.admitAs, State.gate, State.homesServe, State.reached]

/-! ### One instruction of a logical core -/

theorem State.clear_iff (s : State) (lc : Lc) (h : s.clear lc = true) :
    s.lcRuns lc = true ∧ ((s.lc lc.val).breakpoints.contains (s.lc lc.val).pc && s.haltable (s.lc lc.val)) = false ∧
      (s.lc lc.val).fpPend = false ∧ (s.lc lc.val).lateDue = none ∧ s.fetchErr lc = none ∧ s.struck lc = false := by
  simp only [State.clear, Bool.and_eq_true, Bool.not_eq_true', Option.isNone_iff_eq_none] at h
  exact ⟨h.1.1.1.1.1, h.1.1.1.1.2, h.1.1.1.2, h.1.1.2, h.1.2, h.2⟩

/-- Where nothing strikes a core of the slot, what retires happens. -/
theorem State.voted_unstruck (s : State) (lc : Lc) (r : Option RetireRec) (k : State → State)
    (h : s.struck lc = false) : s.voted lc r k = k s := by
  simp [State.voted, h]

/-- Everything one instruction does on a clear core: its effect, its exception, its freeze, or nothing yet. -/
theorem State.runInstr_clear (s : State) (lc : Lc) (w : BitVec 32) (f : State → LCore → Res State)
    (h : s.clear lc = true) :
    s.runInstr lc w f =
      (match f s (s.lc lc.val) with
       | .ok t => s.retired lc t
       | .exc e => s.enterExc lc w e
       | .freeze pa => s.freezeCore lc pa
       | .wait => s
       | .excIn t e => (t.askWalks lc).takeExc lc w e
       | .waitIn t => t.askWalks lc) := by
  obtain ⟨h1, h2, h3, h4, h5, h6⟩ := s.clear_iff lc h
  unfold State.runInstr State.runOnce
  simp only [h1, if_true, h2, h3, h4, h5, Bool.false_and, Bool.false_eq_true, if_false, State.voted_unstruck _ _ _ _ h6]
  cases f s (s.lc lc.val) <;> simp [State.takeExc, State.fpFirst, h3]

/-- An instruction that only changes its core and goes on to the next word. -/
theorem State.runLocal_ok (s : State) (lc : Lc) (w : BitVec 32) (f : LCore → Res LCore) (l : LCore)
    (h : s.clear lc = true) (hf : f (s.lc lc.val) = .ok l) :
    s.runLocal lc w f = s.retire lc l := by
  simp [State.runLocal, State.runInstr_clear _ _ _ _ h, hf, Res.map, Res.bind, State.retire]

theorem State.runLocal_exc (s : State) (lc : Lc) (w : BitVec 32) (f : LCore → Res LCore) (e : Exc)
    (h : s.clear lc = true) (hf : f (s.lc lc.val) = .exc e) : s.runLocal lc w f = s.enterExc lc w e := by
  simp [State.runLocal, State.runInstr_clear _ _ _ _ h, hf, Res.map, Res.bind]

/-- A core that does not run is left as it is. -/
theorem State.runInstr_stopped (s : State) (lc : Lc) (w : BitVec 32) (f : State → LCore → Res State)
    (h : s.lcRuns lc = false) : s.runInstr lc w f = s := by
  simp [State.runInstr, h]

end Sys2Proof.Machine
end

