-- ==== Sys2Proof/Laws/Kept.lean ====
section
/-! SUPPORT. What every operation keeps: the queue of commands, blown fuses, the canonical form of memory, and the parts
of the state that it does not touch.  One lemma for each operation follows in the Kept files. -/
namespace Sys2Proof.Machine

/-- What a statement follows through an operation, beside what every operation keeps: the parts of the state named here
stay as given. -/
structure Track where
  keeper : Option (Keeper) := none
  loader : Option (Loader) := none
  tb : Option (Timebase) := none
  mgmt : Option (Mgmt) := none
  mem : Option (List Host.Cell) := none
  lcs : Option (Table LCore) := none
  queues : Option (Table QSt) := none
  scs : Option (Table ScSt) := none
  ports : Option (Table PortSt) := none
  holders : Option (Table Holder) := none
  ctxs : Option (Table CtxSt) := none
  /-- Memory is in its canonical form. -/
  wf : Bool := false

/-- The queue of commands is `p`, no fuse of `q` is intact again, and the parts that `c` names are as `c` gives them. -/
structure Kept (c : Track) (p : List Instr) (q : Fuses) (s : State) : Prop where
  pending : s.pending = p
  fuses : q.kept s.fuses
  wf : c.wf = true → Memory.wf s.mem = true
  keeper : c.keeper = none ∨ c.keeper = some s.keeper
  loader : c.loader = none ∨ c.loader = some s.loader
  tb : c.tb = none ∨ c.tb = some s.tb
  mgmt : c.mgmt = none ∨ c.mgmt = some s.mgmt
  mem : c.mem = none ∨ c.mem = some s.mem
  lcs : c.lcs = none ∨ c.lcs = some s.lcs
  queues : c.queues = none ∨ c.queues = some s.queues
  scs : c.scs = none ∨ c.scs = some s.scs
  ports : c.ports = none ∨ c.ports = some s.ports
  holders : c.holders = none ∨ c.holders = some s.holders
  ctxs : c.ctxs = none ∨ c.ctxs = some s.ctxs

/-- Every normal end of an operation has the property, and every other end that carries a state keeps it. -/
def Res.All (c : Track) (p : List Instr) (q : Fuses) {α : Type} (P : α → Prop) : Res α → Prop
  | .ok a => P a
  | .excIn s _ => Kept c p q s
  | .waitIn s => Kept c p q s
  | .exc _ => True
  | .freeze _ => True
  | .wait => True
/-- Every state that an operation answers, one way or the other, has the property. -/
def sumAll {α : Type} (P : α → Prop) (r : α ⊕ α) : Prop := r.elim P P
/-- Every result of an operation that may have none has the property. -/
def optAll {α : Type} (P : α → Prop) (r : Option α) : Prop := ∀ a, r = some a → P a

/-- Memory operations keep the canonical form. -/
theorem memWrite_wf (m : List Host.Cell) (a : Nat) (bs : List Byte) (h : Memory.wf m = true) :
    Memory.wf (memWrite m a bs) = true := by
  induction bs generalizing m a with
  | nil => exact h
  | cons b t ih => exact ih _ _ (Table.wf_set h _ _)
theorem memZero_wf (m : List Host.Cell) (a b : Nat) (h : Memory.wf m = true) : Memory.wf (memZero m a b) = true :=
  Table.wf_filter h _

theorem Fuses.kept_trans {a b d : Fuses} (h : a.kept b) (k : b.kept d) : a.kept d := by
  obtain ⟨h1, h2, h3, h4, h5⟩ := h
  obtain ⟨k1, k2, k3, k4, k5⟩ := k
  refine ⟨Fin.le_trans h1 k1, k2 ∘ h2, ?_, ?_, fun i hi => ?_⟩
  · rw [← h3, BitVec.and_assoc, k3]
  · rw [← h4, BitVec.and_assoc, k4]
  · have e := h5 i hi
    rw [← e]
    exact k5 i (by rw [e]; exact hi)

theorem Fuses.kept_refl (a : Fuses) : a.kept a :=
  ⟨Fin.le_refl _, id, BitVec.and_self, BitVec.and_self, fun _ _ => rfl⟩

variable {c : Track} {p : List Instr} {q : Fuses} {s : State}

theorem Kept.upd {t : State} (h : Kept c p q s) (h1 : t.pending = s.pending) (h2 : t.fuses = s.fuses)
    (h3 : t.mem = s.mem) (k_keeper : c.keeper = none ∨ t.keeper = s.keeper)
    (k_loader : c.loader = none ∨ t.loader = s.loader) (k_tb : c.tb = none ∨ t.tb = s.tb)
    (k_mgmt : c.mgmt = none ∨ t.mgmt = s.mgmt) (k_lcs : c.lcs = none ∨ t.lcs = s.lcs)
    (k_queues : c.queues = none ∨ t.queues = s.queues) (k_scs : c.scs = none ∨ t.scs = s.scs)
    (k_ports : c.ports = none ∨ t.ports = s.ports) (k_holders : c.holders = none ∨ t.holders = s.holders)
    (k_ctxs : c.ctxs = none ∨ t.ctxs = s.ctxs) : Kept c p q t :=
  ⟨h1 ▸ h.pending, h2 ▸ h.fuses, fun w => h3 ▸ h.wf w,
    k_keeper.elim .inl fun e => e ▸ h.keeper,
    k_loader.elim .inl fun e => e ▸ h.loader,
    k_tb.elim .inl fun e => e ▸ h.tb,
    k_mgmt.elim .inl fun e => e ▸ h.mgmt,
    h3 ▸ h.mem,
    k_lcs.elim .inl fun e => e ▸ h.lcs,
    k_queues.elim .inl fun e => e ▸ h.queues,
    k_scs.elim .inl fun e => e ▸ h.scs,
    k_ports.elim .inl fun e => e ▸ h.ports,
    k_holders.elim .inl fun e => e ▸ h.holders,
    k_ctxs.elim .inl fun e => e ▸ h.ctxs⟩

theorem Kept.ofMk {x_keeper : Keeper} {x_tb : Timebase} {x_loader : Loader} {x_regs : Table Word}
    {x_poison : List Nat} {x_lcs : Table LCore} {x_isls : Table Isl} {x_migrations : List Migration}
    {x_holders : Table Holder} {x_slices : Table SliceSt} {x_cts : Table CtSt} {x_outReqs : List Outstanding}
    {x_chans : Table ChanSt} {x_maps : Table MapSt} {x_queues : Table QSt} {x_qdma : Table QdmaSt}
    {x_tags : List TagLatch} {x_scs : Table ScSt} {x_pes : Table PeSt} {x_mirrorUp : BitVec 2}
    {x_ports : Table PortSt} {x_ctxs : Table CtxSt} {x_slots : Table AccSlot} {x_accs : Table AccSt}
    {x_cuts : Table CutState} {x_cutReqs : List CutReq} {x_irqs : Table (List IrqMsg)} {x_storms : Table
    (List StormPair)} {x_buckets : Table Nat} {x_resets : Table PrSt} {x_srcBufs : Table SrcBuf}
    {x_cols : Table ColSt} {x_pins : Table PinSt} {x_mgmt : Mgmt} {x_resps : List (Master × Resp)}
    {x_progress : List Progress} {x_free : Nat} (h : Kept c p q s)
    (k_keeper : c.keeper = none ∨ x_keeper = s.keeper := by first | exact .inl ‹_› | exact .inr rfl)
    (k_loader : c.loader = none ∨ x_loader = s.loader := by first | exact .inl ‹_› | exact .inr rfl)
    (k_tb : c.tb = none ∨ x_tb = s.tb := by first | exact .inl ‹_› | exact .inr rfl)
    (k_mgmt : c.mgmt = none ∨ x_mgmt = s.mgmt := by first | exact .inl ‹_› | exact .inr rfl)
    (k_lcs : c.lcs = none ∨ x_lcs = s.lcs := by first | exact .inl ‹_› | exact .inr rfl)
    (k_queues : c.queues = none ∨ x_queues = s.queues := by first | exact .inl ‹_› | exact .inr rfl)
    (k_scs : c.scs = none ∨ x_scs = s.scs := by first | exact .inl ‹_› | exact .inr rfl)
    (k_ports : c.ports = none ∨ x_ports = s.ports := by first | exact .inl ‹_› | exact .inr rfl)
    (k_holders : c.holders = none ∨ x_holders = s.holders := by first | exact .inl ‹_› | exact .inr rfl)
    (k_ctxs : c.ctxs = none ∨ x_ctxs = s.ctxs := by first | exact .inl ‹_› | exact .inr rfl) : Kept c p q
    (State.mk s.pending x_keeper x_tb s.fuses x_loader x_regs s.mem x_poison x_lcs x_isls x_migrations x_holders
    x_slices x_cts x_outReqs x_chans x_maps x_queues x_qdma x_tags x_scs x_pes x_mirrorUp x_ports x_ctxs x_slots
    x_accs x_cuts x_cutReqs x_irqs x_storms x_buckets x_resets x_srcBufs x_cols x_pins x_mgmt x_resps x_progress
    x_free) :=
  h.upd rfl rfl rfl k_keeper k_loader k_tb k_mgmt k_lcs k_queues k_scs k_ports k_holders k_ctxs

/-- An update of parts that are not followed. -/
theorem Kept.other {x_regs : Table Word} {x_poison : List Nat} {x_isls : Table Isl} {x_migrations : List Migration}
    {x_slices : Table SliceSt} {x_cts : Table CtSt} {x_outReqs : List Outstanding} {x_chans : Table ChanSt}
    {x_maps : Table MapSt} {x_qdma : Table QdmaSt} {x_tags : List TagLatch} {x_pes : Table PeSt}
    {x_mirrorUp : BitVec 2} {x_slots : Table AccSlot} {x_accs : Table AccSt} {x_cuts : Table CutState}
    {x_cutReqs : List CutReq} {x_irqs : Table (List IrqMsg)} {x_storms : Table (List StormPair)}
    {x_buckets : Table Nat} {x_resets : Table PrSt} {x_srcBufs : Table SrcBuf} {x_cols : Table ColSt}
    {x_pins : Table PinSt} {x_resps : List (Master × Resp)} {x_progress : List Progress} {x_free : Nat}
    (h : Kept c p q s) : Kept c p q
    (State.mk s.pending s.keeper s.tb s.fuses s.loader x_regs s.mem x_poison s.lcs x_isls x_migrations s.holders
    x_slices x_cts x_outReqs x_chans x_maps s.queues x_qdma x_tags s.scs x_pes x_mirrorUp s.ports s.ctxs x_slots
    x_accs x_cuts x_cutReqs x_irqs x_storms x_buckets x_resets x_srcBufs x_cols x_pins s.mgmt x_resps x_progress
    x_free) :=
  h.upd rfl rfl rfl (.inr rfl) (.inr rfl) (.inr rfl) (.inr rfl) (.inr rfl) (.inr rfl) (.inr rfl) (.inr rfl) (.inr rfl) (.inr rfl)

/-- An update of `keeper`, where it is not followed, and of parts that are not. -/
theorem Kept.at_keeper {x_keeper : Keeper} {x_regs : Table Word} {x_poison : List Nat} {x_isls : Table Isl}
    {x_migrations : List Migration} {x_slices : Table SliceSt} {x_cts : Table CtSt} {x_outReqs : List Outstanding}
    {x_chans : Table ChanSt} {x_maps : Table MapSt} {x_qdma : Table QdmaSt} {x_tags : List TagLatch}
    {x_pes : Table PeSt} {x_mirrorUp : BitVec 2} {x_slots : Table AccSlot} {x_accs : Table AccSt}
    {x_cuts : Table CutState} {x_cutReqs : List CutReq} {x_irqs : Table (List IrqMsg)} {x_storms : Table
    (List StormPair)} {x_buckets : Table Nat} {x_resets : Table PrSt} {x_srcBufs : Table SrcBuf}
    {x_cols : Table ColSt} {x_pins : Table PinSt} {x_resps : List (Master × Resp)} {x_progress : List Progress}
    {x_free : Nat} (h : Kept c p q s) (hc : c.keeper = none) : Kept c p q
    (State.mk s.pending x_keeper s.tb s.fuses s.loader x_regs s.mem x_poison s.lcs x_isls x_migrations s.holders
    x_slices x_cts x_outReqs x_chans x_maps s.queues x_qdma x_tags s.scs x_pes x_mirrorUp s.ports s.ctxs x_slots
    x_accs x_cuts x_cutReqs x_irqs x_storms x_buckets x_resets x_srcBufs x_cols x_pins s.mgmt x_resps x_progress
    x_free) :=
  h.upd rfl rfl rfl (.inl hc) (.inr rfl) (.inr rfl) (.inr rfl) (.inr rfl) (.inr rfl) (.inr rfl) (.inr rfl) (.inr rfl) (.inr rfl)

/-- An update of `loader`, where it is not followed, and of parts that are not. -/
theorem Kept.at_loader {x_loader : Loader} {x_regs : Table Word} {x_poison : List Nat} {x_isls : Table Isl}
    {x_migrations : List Migration} {x_slices : Table SliceSt} {x_cts : Table CtSt} {x_outReqs : List Outstanding}
    {x_chans : Table ChanSt} {x_maps : Table MapSt} {x_qdma : Table QdmaSt} {x_tags : List TagLatch}
    {x_pes : Table PeSt} {x_mirrorUp : BitVec 2} {x_slots : Table AccSlot} {x_accs : Table AccSt}
    {x_cuts : Table CutState} {x_cutReqs : List CutReq} {x_irqs : Table (List IrqMsg)} {x_storms : Table
    (List StormPair)} {x_buckets : Table Nat} {x_resets : Table PrSt} {x_srcBufs : Table SrcBuf}
    {x_cols : Table ColSt} {x_pins : Table PinSt} {x_resps : List (Master × Resp)} {x_progress : List Progress}
    {x_free : Nat} (h : Kept c p q s) (hc : c.loader = none) : Kept c p q
    (State.mk s.pending s.keeper s.tb s.fuses x_loader x_regs s.mem x_poison s.lcs x_isls x_migrations s.holders
    x_slices x_cts x_outReqs x_chans x_maps s.queues x_qdma x_tags s.scs x_pes x_mirrorUp s.ports s.ctxs x_slots
    x_accs x_cuts x_cutReqs x_irqs x_storms x_buckets x_resets x_srcBufs x_cols x_pins s.mgmt x_resps x_progress
    x_free) :=
  h.upd rfl rfl rfl (.inr rfl) (.inl hc) (.inr rfl) (.inr rfl) (.inr rfl) (.inr rfl) (.inr rfl) (.inr rfl) (.inr rfl) (.inr rfl)

/-- An update of `tb`, where it is not followed, and of parts that are not. -/
theorem Kept.at_tb {x_tb : Timebase} {x_regs : Table Word} {x_poison : List Nat} {x_isls : Table Isl}
    {x_migrations : List Migration} {x_slices : Table SliceSt} {x_cts : Table CtSt} {x_outReqs : List Outstanding}
    {x_chans : Table ChanSt} {x_maps : Table MapSt} {x_qdma : Table QdmaSt} {x_tags : List TagLatch}
    {x_pes : Table PeSt} {x_mirrorUp : BitVec 2} {x_slots : Table AccSlot} {x_accs : Table AccSt}
    {x_cuts : Table CutState} {x_cutReqs : List CutReq} {x_irqs : Table (List IrqMsg)} {x_storms : Table
    (List StormPair)} {x_buckets : Table Nat} {x_resets : Table PrSt} {x_srcBufs : Table SrcBuf}
    {x_cols : Table ColSt} {x_pins : Table PinSt} {x_resps : List (Master × Resp)} {x_progress : List Progress}
    {x_free : Nat} (h : Kept c p q s) (hc : c.tb = none) : Kept c p q
    (State.mk s.pending s.keeper x_tb s.fuses s.loader x_regs s.mem x_poison s.lcs x_isls x_migrations s.holders
    x_slices x_cts x_outReqs x_chans x_maps s.queues x_qdma x_tags s.scs x_pes x_mirrorUp s.ports s.ctxs x_slots
    x_accs x_cuts x_cutReqs x_irqs x_storms x_buckets x_resets x_srcBufs x_cols x_pins s.mgmt x_resps x_progress
    x_free) :=
  h.upd rfl rfl rfl (.inr rfl) (.inr rfl) (.inl hc) (.inr rfl) (.inr rfl) (.inr rfl) (.inr rfl) (.inr rfl) (.inr rfl) (.inr rfl)

/-- An update of `mgmt`, where it is not followed, and of parts that are not. -/
theorem Kept.at_mgmt {x_regs : Table Word} {x_poison : List Nat} {x_isls : Table Isl}
    {x_migrations : List Migration} {x_slices : Table SliceSt} {x_cts : Table CtSt} {x_outReqs : List Outstanding}
    {x_chans : Table ChanSt} {x_maps : Table MapSt} {x_qdma : Table QdmaSt} {x_tags : List TagLatch}
    {x_pes : Table PeSt} {x_mirrorUp : BitVec 2} {x_slots : Table AccSlot} {x_accs : Table AccSt}
    {x_cuts : Table CutState} {x_cutReqs : List CutReq} {x_irqs : Table (List IrqMsg)} {x_storms : Table
    (List StormPair)} {x_buckets : Table Nat} {x_resets : Table PrSt} {x_srcBufs : Table SrcBuf}
    {x_cols : Table ColSt} {x_pins : Table PinSt} {x_mgmt : Mgmt} {x_resps : List (Master × Resp)}
    {x_progress : List Progress} {x_free : Nat} (h : Kept c p q s) (hc : c.mgmt = none) : Kept c p q
    (State.mk s.pending s.keeper s.tb s.fuses s.loader x_regs s.mem x_poison s.lcs x_isls x_migrations s.holders
    x_slices x_cts x_outReqs x_chans x_maps s.queues x_qdma x_tags s.scs x_pes x_mirrorUp s.ports s.ctxs x_slots
    x_accs x_cuts x_cutReqs x_irqs x_storms x_buckets x_resets x_srcBufs x_cols x_pins x_mgmt x_resps x_progress
    x_free) :=
  h.upd rfl rfl rfl (.inr rfl) (.inr rfl) (.inr rfl) (.inl hc) (.inr rfl) (.inr rfl) (.inr rfl) (.inr rfl) (.inr rfl) (.inr rfl)

/-- An update of `lcs`, where it is not followed, and of parts that are not. -/
theorem Kept.at_lcs {x_regs : Table Word} {x_poison : List Nat} {x_lcs : Table LCore} {x_isls : Table Isl}
    {x_migrations : List Migration} {x_slices : Table SliceSt} {x_cts : Table CtSt} {x_outReqs : List Outstanding}
    {x_chans : Table ChanSt} {x_maps : Table MapSt} {x_qdma : Table QdmaSt} {x_tags : List TagLatch}
    {x_pes : Table PeSt} {x_mirrorUp : BitVec 2} {x_slots : Table AccSlot} {x_accs : Table AccSt}
    {x_cuts : Table CutState} {x_cutReqs : List CutReq} {x_irqs : Table (List IrqMsg)} {x_storms : Table
    (List StormPair)} {x_buckets : Table Nat} {x_resets : Table PrSt} {x_srcBufs : Table SrcBuf}
    {x_cols : Table ColSt} {x_pins : Table PinSt} {x_resps : List (Master × Resp)} {x_progress : List Progress}
    {x_free : Nat} (h : Kept c p q s) (hc : c.lcs = none) : Kept c p q
    (State.mk s.pending s.keeper s.tb s.fuses s.loader x_regs s.mem x_poison x_lcs x_isls x_migrations s.holders
    x_slices x_cts x_outReqs x_chans x_maps s.queues x_qdma x_tags s.scs x_pes x_mirrorUp s.ports s.ctxs x_slots
    x_accs x_cuts x_cutReqs x_irqs x_storms x_buckets x_resets x_srcBufs x_cols x_pins s.mgmt x_resps x_progress
    x_free) :=
  h.upd rfl rfl rfl (.inr rfl) (.inr rfl) (.inr rfl) (.inr rfl) (.inl hc) (.inr rfl) (.inr rfl) (.inr rfl) (.inr rfl) (.inr rfl)

/-- An update of `queues`, where it is not followed, and of parts that are not. -/
theorem Kept.at_queues {x_regs : Table Word} {x_poison : List Nat} {x_isls : Table Isl}
    {x_migrations : List Migration} {x_slices : Table SliceSt} {x_cts : Table CtSt} {x_outReqs : List Outstanding}
    {x_chans : Table ChanSt} {x_maps : Table MapSt} {x_queues : Table QSt} {x_qdma : Table QdmaSt}
    {x_tags : List TagLatch} {x_pes : Table PeSt} {x_mirrorUp : BitVec 2} {x_slots : Table AccSlot}
    {x_accs : Table AccSt} {x_cuts : Table CutState} {x_cutReqs : List CutReq} {x_irqs : Table (List IrqMsg)}
    {x_storms : Table (List StormPair)} {x_buckets : Table Nat} {x_resets : Table PrSt} {x_srcBufs : Table SrcBuf}
    {x_cols : Table ColSt} {x_pins : Table PinSt} {x_resps : List (Master × Resp)} {x_progress : List Progress}
    {x_free : Nat} (h : Kept c p q s) (hc : c.queues = none) : Kept c p q
    (State.mk s.pending s.keeper s.tb s.fuses s.loader x_regs s.mem x_poison s.lcs x_isls x_migrations s.holders
    x_slices x_cts x_outReqs x_chans x_maps x_queues x_qdma x_tags s.scs x_pes x_mirrorUp s.ports s.ctxs x_slots
    x_accs x_cuts x_cutReqs x_irqs x_storms x_buckets x_resets x_srcBufs x_cols x_pins s.mgmt x_resps x_progress
    x_free) :=
  h.upd rfl rfl rfl (.inr rfl) (.inr rfl) (.inr rfl) (.inr rfl) (.inr rfl) (.inl hc) (.inr rfl) (.inr rfl) (.inr rfl) (.inr rfl)

/-- An update of `scs`, where it is not followed, and of parts that are not. -/
theorem Kept.at_scs {x_regs : Table Word} {x_poison : List Nat} {x_isls : Table Isl}
    {x_migrations : List Migration} {x_slices : Table SliceSt} {x_cts : Table CtSt} {x_outReqs : List Outstanding}
    {x_chans : Table ChanSt} {x_maps : Table MapSt} {x_qdma : Table QdmaSt} {x_tags : List TagLatch}
    {x_scs : Table ScSt} {x_pes : Table PeSt} {x_mirrorUp : BitVec 2} {x_slots : Table AccSlot}
    {x_accs : Table AccSt} {x_cuts : Table CutState} {x_cutReqs : List CutReq} {x_irqs : Table (List IrqMsg)}
    {x_storms : Table (List StormPair)} {x_buckets : Table Nat} {x_resets : Table PrSt} {x_srcBufs : Table SrcBuf}
    {x_cols : Table ColSt} {x_pins : Table PinSt} {x_resps : List (Master × Resp)} {x_progress : List Progress}
    {x_free : Nat} (h : Kept c p q s) (hc : c.scs = none) : Kept c p q
    (State.mk s.pending s.keeper s.tb s.fuses s.loader x_regs s.mem x_poison s.lcs x_isls x_migrations s.holders
    x_slices x_cts x_outReqs x_chans x_maps s.queues x_qdma x_tags x_scs x_pes x_mirrorUp s.ports s.ctxs x_slots
    x_accs x_cuts x_cutReqs x_irqs x_storms x_buckets x_resets x_srcBufs x_cols x_pins s.mgmt x_resps x_progress
    x_free) :=
  h.upd rfl rfl rfl (.inr rfl) (.inr rfl) (.inr rfl) (.inr rfl) (.inr rfl) (.inr rfl) (.inl hc) (.inr rfl) (.inr rfl) (.inr rfl)

/-- An update of `ports`, where it is not followed, and of parts that are not. -/
theorem Kept.at_ports {x_regs : Table Word} {x_poison : List Nat} {x_isls : Table Isl}
    {x_migrations : List Migration} {x_slices : Table SliceSt} {x_cts : Table CtSt} {x_outReqs : List Outstanding}
    {x_chans : Table ChanSt} {x_maps : Table MapSt} {x_qdma : Table QdmaSt} {x_tags : List TagLatch}
    {x_pes : Table PeSt} {x_mirrorUp : BitVec 2} {x_ports : Table PortSt} {x_slots : Table AccSlot}
    {x_accs : Table AccSt} {x_cuts : Table CutState} {x_cutReqs : List CutReq} {x_irqs : Table (List IrqMsg)}
    {x_storms : Table (List StormPair)} {x_buckets : Table Nat} {x_resets : Table PrSt} {x_srcBufs : Table SrcBuf}
    {x_cols : Table ColSt} {x_pins : Table PinSt} {x_resps : List (Master × Resp)} {x_progress : List Progress}
    {x_free : Nat} (h : Kept c p q s) (hc : c.ports = none) : Kept c p q
    (State.mk s.pending s.keeper s.tb s.fuses s.loader x_regs s.mem x_poison s.lcs x_isls x_migrations s.holders
    x_slices x_cts x_outReqs x_chans x_maps s.queues x_qdma x_tags s.scs x_pes x_mirrorUp x_ports s.ctxs x_slots
    x_accs x_cuts x_cutReqs x_irqs x_storms x_buckets x_resets x_srcBufs x_cols x_pins s.mgmt x_resps x_progress
    x_free) :=
  h.upd rfl rfl rfl (.inr rfl) (.inr rfl) (.inr rfl) (.inr rfl) (.inr rfl) (.inr rfl) (.inr rfl) (.inl hc) (.inr rfl) (.inr rfl)

/-- An update of `holders`, where it is not followed, and of parts that are not. -/
theorem Kept.at_holders {x_regs : Table Word} {x_poison : List Nat} {x_isls : Table Isl}
    {x_migrations : List Migration} {x_holders : Table Holder} {x_slices : Table SliceSt} {x_cts : Table CtSt}
    {x_outReqs : List Outstanding} {x_chans : Table ChanSt} {x_maps : Table MapSt} {x_qdma : Table QdmaSt}
    {x_tags : List TagLatch} {x_pes : Table PeSt} {x_mirrorUp : BitVec 2} {x_slots : Table AccSlot}
    {x_accs : Table AccSt} {x_cuts : Table CutState} {x_cutReqs : List CutReq} {x_irqs : Table (List IrqMsg)}
    {x_storms : Table (List StormPair)} {x_buckets : Table Nat} {x_resets : Table PrSt} {x_srcBufs : Table SrcBuf}
    {x_cols : Table ColSt} {x_pins : Table PinSt} {x_resps : List (Master × Resp)} {x_progress : List Progress}
    {x_free : Nat} (h : Kept c p q s) (hc : c.holders = none) : Kept c p q
    (State.mk s.pending s.keeper s.tb s.fuses s.loader x_regs s.mem x_poison s.lcs x_isls x_migrations x_holders
    x_slices x_cts x_outReqs x_chans x_maps s.queues x_qdma x_tags s.scs x_pes x_mirrorUp s.ports s.ctxs x_slots
    x_accs x_cuts x_cutReqs x_irqs x_storms x_buckets x_resets x_srcBufs x_cols x_pins s.mgmt x_resps x_progress
    x_free) :=
  h.upd rfl rfl rfl (.inr rfl) (.inr rfl) (.inr rfl) (.inr rfl) (.inr rfl) (.inr rfl) (.inr rfl) (.inr rfl) (.inl hc) (.inr rfl)

/-- An update of `ctxs`, where it is not followed, and of parts that are not. -/
theorem Kept.at_ctxs {x_regs : Table Word} {x_poison : List Nat} {x_isls : Table Isl}
    {x_migrations : List Migration} {x_slices : Table SliceSt} {x_cts : Table CtSt} {x_outReqs : List Outstanding}
    {x_chans : Table ChanSt} {x_maps : Table MapSt} {x_qdma : Table QdmaSt} {x_tags : List TagLatch}
    {x_pes : Table PeSt} {x_mirrorUp : BitVec 2} {x_ctxs : Table CtxSt} {x_slots : Table AccSlot}
    {x_accs : Table AccSt} {x_cuts : Table CutState} {x_cutReqs : List CutReq} {x_irqs : Table (List IrqMsg)}
    {x_storms : Table (List StormPair)} {x_buckets : Table Nat} {x_resets : Table PrSt} {x_srcBufs : Table SrcBuf}
    {x_cols : Table ColSt} {x_pins : Table PinSt} {x_resps : List (Master × Resp)} {x_progress : List Progress}
    {x_free : Nat} (h : Kept c p q s) (hc : c.ctxs = none) : Kept c p q
    (State.mk s.pending s.keeper s.tb s.fuses s.loader x_regs s.mem x_poison s.lcs x_isls x_migrations s.holders
    x_slices x_cts x_outReqs x_chans x_maps s.queues x_qdma x_tags s.scs x_pes x_mirrorUp s.ports x_ctxs x_slots
    x_accs x_cuts x_cutReqs x_irqs x_storms x_buckets x_resets x_srcBufs x_cols x_pins s.mgmt x_resps x_progress
    x_free) :=
  h.upd rfl rfl rfl (.inr rfl) (.inr rfl) (.inr rfl) (.inr rfl) (.inr rfl) (.inr rfl) (.inr rfl) (.inr rfl) (.inr rfl) (.inl hc)

/-- An update of memory that keeps its form, where memory is not followed. -/
theorem Kept.at_mem {x_regs : Table Word} {x_mem : List Host.Cell} {x_poison : List Nat} {x_isls : Table Isl}
    {x_migrations : List Migration} {x_slices : Table SliceSt} {x_cts : Table CtSt} {x_outReqs : List Outstanding}
    {x_chans : Table ChanSt} {x_maps : Table MapSt} {x_qdma : Table QdmaSt} {x_tags : List TagLatch}
    {x_pes : Table PeSt} {x_mirrorUp : BitVec 2} {x_slots : Table AccSlot} {x_accs : Table AccSt}
    {x_cuts : Table CutState} {x_cutReqs : List CutReq} {x_irqs : Table (List IrqMsg)} {x_storms : Table
    (List StormPair)} {x_buckets : Table Nat} {x_resets : Table PrSt} {x_srcBufs : Table SrcBuf}
    {x_cols : Table ColSt} {x_pins : Table PinSt} {x_resps : List (Master × Resp)} {x_progress : List Progress}
    {x_free : Nat} (h : Kept c p q s) (hc : c.mem = none)
    (hw : Memory.wf s.mem = true → Memory.wf x_mem = true) : Kept c p q
    (State.mk s.pending s.keeper s.tb s.fuses s.loader x_regs x_mem x_poison s.lcs x_isls x_migrations s.holders
    x_slices x_cts x_outReqs x_chans x_maps s.queues x_qdma x_tags s.scs x_pes x_mirrorUp s.ports s.ctxs x_slots
    x_accs x_cuts x_cutReqs x_irqs x_storms x_buckets x_resets x_srcBufs x_cols x_pins s.mgmt x_resps x_progress
    x_free) :=
  ⟨h.pending, h.fuses, hw ∘ h.wf, h.keeper, h.loader, h.tb, h.mgmt, .inl hc, h.lcs, h.queues, h.scs, h.ports, h.holders, h.ctxs⟩

/-- Fuses are only ever blown. -/
theorem Kept.blow {f : Fuses} (h : Kept c p q s) (hf : s.fuses.kept f) : Kept c p q { s with fuses := f } :=
  { h with fuses := Fuses.kept_trans h.fuses hf }

/-- Every next state of an outcome has the property. -/
def nextAll (P : State → Prop) (o : Host.Outcome State Fault Refusal) : Prop := ∀ t, o = .next t → P t

theorem nextAll.next {P : State → Prop} {x : State} (h : P x) : nextAll P (.next x) := by intro t e; cases e; exact h

theorem Kept.cond {P : Prop} [Decidable P] {x y : State} (h1 : Kept c p q x) (h2 : Kept c p q y) :
    Kept c p q (if P then x else y) := by split <;> assumption

theorem Kept.foldl {α : Type} {f : State → α → State} {l : List α} (h : Kept c p q s)
    (hf : ∀ s a, Kept c p q s → Kept c p q (f s a)) : Kept c p q (l.foldl f s) := by
  induction l generalizing s with
  | nil => exact h
  | cons a l ih => exact ih (hf _ _ h)

theorem Kept.fst {β : Type} {x : State × β} {t : State} {b : β} (e : x = (t, b)) (h : Kept c p q x.1) : Kept c p q t := by
  subst e; exact h
theorem Kept.snd {β : Type} {x : β × State} {t : State} {b : β} (e : x = (b, t)) (h : Kept c p q x.2) : Kept c p q t := by
  subst e; exact h
theorem Kept.ofRes {r : Res State} {t : State} (e : r = .ok t) (h : Res.All c p q (Kept c p q) r) : Kept c p q t := by
  subst e; exact h
theorem Kept.ofResL {β : Type} {r : Res (State × β)} {t : State × β} (e : r = .ok t)
    (h : Res.All c p q (fun x => Kept c p q x.1) r) : Kept c p q t.1 := by subst e; exact h
theorem Kept.ofResR {β : Type} {r : Res (β × State)} {t : β × State} (e : r = .ok t)
    (h : Res.All c p q (fun x => Kept c p q x.2) r) : Kept c p q t.2 := by subst e; exact h
theorem Kept.ofExcIn {α : Type} {P : α → Prop} {r : Res α} {t : State} {x : Exc} (e : r = .excIn t x)
    (h : Res.All c p q P r) : Kept c p q t := by subst e; exact h
theorem Kept.ofWaitIn {α : Type} {P : α → Prop} {r : Res α} {t : State} (e : r = .waitIn t)
    (h : Res.All c p q P r) : Kept c p q t := by subst e; exact h
theorem Kept.ofInl {r : State ⊕ State} {t : State} (e : r = .inl t) (h : sumAll (Kept c p q) r) : Kept c p q t := by
  subst e; exact h
theorem Kept.ofInr {r : State ⊕ State} {t : State} (e : r = .inr t) (h : sumAll (Kept c p q) r) : Kept c p q t := by
  subst e; exact h
theorem sumAll.inl {α : Type} {P : α → Prop} {a : α} (h : P a) : sumAll P (.inl a) := h
theorem sumAll.inr {α : Type} {P : α → Prop} {a : α} (h : P a) : sumAll P (.inr a) := h
theorem Kept.ofOpt {r : Option State} {t : State} (e : r = some t) (h : optAll (Kept c p q) r) : Kept c p q t := h t e

theorem Res.All.bind {α β : Type} {P : β → Prop} {Q : α → Prop} {r : Res α} {f : α → Res β} (h : Res.All c p q Q r)
    (hf : ∀ a, Q a → Res.All c p q P (f a)) : Res.All c p q P (r.bind f) := by
  cases r with
  | ok a => exact hf a h
  | excIn s e => exact h
  | waitIn s => exact h
  | exc e => exact h
  | freeze a => exact h
  | wait => exact h

theorem Res.All.map {α β : Type} {P : β → Prop} {Q : α → Prop} {r : Res α} {f : α → β} (h : Res.All c p q Q r)
    (hf : ∀ a, Q a → P (f a)) : Res.All c p q P (r.map f) := Res.All.bind h hf
theorem Res.All.map2 {α β γ : Type} {P : γ → Prop} {Q : α → Prop} {r : Res α} {f : α → β} {g : β → γ}
    (h : Res.All c p q Q r) (hf : ∀ a, Q a → P (g (f a))) : Res.All c p q P ((r.map f).map g) :=
  Res.All.map (Q := fun b => P (g b)) (Res.All.map h hf) fun _ h => h
theorem Res.All.ok {α : Type} {P : α → Prop} {a : α} (h : P a) : Res.All c p q P (.ok a) := h
theorem Res.All.exc {α : Type} {P : α → Prop} {e : Exc} : Res.All c p q P (.exc e) := trivial
theorem Res.All.freeze {α : Type} {P : α → Prop} {a : Nat} : Res.All c p q P (.freeze a) := trivial
theorem Res.All.wait {α : Type} {P : α → Prop} : Res.All c p q P .wait := trivial
theorem Res.All.excIn {α : Type} {P : α → Prop} {e : Exc} (h : Kept c p q s) : Res.All c p q P (.excIn s e) := h
theorem Res.All.waitIn {α : Type} {P : α → Prop} (h : Kept c p q s) : Res.All c p q P (.waitIn s) := h
theorem Res.All.weak {α : Type} {P : α → Prop} {r : Res α} (h : Res.All c p q P r) : Res.All c p q (fun _ => True) r := by
  cases r with
  | ok a => exact trivial
  | excIn s e => exact h
  | waitIn s => exact h
  | exc e => exact h
  | freeze a => exact h
  | wait => exact h
theorem Res.All.cond {α : Type} {P : α → Prop} {C : Prop} [Decidable C] {x y : Res α} (h1 : Res.All c p q P x)
    (h2 : Res.All c p q P y) : Res.All c p q P (if C then x else y) := by split <;> assumption
theorem Res.All.inState {α : Type} {P : α → Prop} {r : Res α} (h : Res.All c p q P r) (hs : Kept c p q s) :
    Res.All c p q P (r.inState s) := by
  cases r with
  | ok a => exact h
  | excIn s e => exact h
  | waitIn s => exact h
  | exc e => exact hs
  | freeze a => exact h
  | wait => exact hs
theorem Res.All.tag {α : Type} {P : α → Prop} {r : Res α} {n : Nat} (h : Res.All c p q P r) : Res.All c p q P (r.tag n) := by
  cases r with
  | ok a => exact h
  | excIn s e => exact h
  | waitIn s => exact h
  | exc e => exact h
  | freeze a => exact h
  | wait => exact h
theorem Res.All.of {α : Type} {P : α → Prop} {r : Res α} (h : Res.All c p q (fun _ => True) r) (hp : ∀ a, P a) :
    Res.All c p q P r := by
  cases r with
  | ok a => exact hp a
  | excIn s e => exact h
  | waitIn s => exact h
  | exc e => exact h
  | freeze a => exact h
  | wait => exact h
theorem optAll.some {α : Type} {P : α → Prop} {a : α} (h : P a) : optAll P (some a) := by intro b hb; cases hb; exact h
theorem optAll.none {α : Type} {P : α → Prop} : optAll P (none : Option α) := by intro b hb; cases hb
theorem optAll.cond {α : Type} {P : α → Prop} {C : Prop} [Decidable C] {x y : Option α} (h1 : optAll P x)
    (h2 : optAll P y) : optAll P (if C then x else y) := by split <;> assumption
theorem optAll.bind {α β : Type} {P : β → Prop} {Q : α → Prop} {r : Option α} {f : α → Option β} (h : optAll Q r)
    (hf : ∀ a, Q a → optAll P (f a)) : optAll P (r.bind f) := by
  intro b hb
  cases r with
  | some a => exact hf a (h a rfl) b hb
  | none => cases hb


end Sys2Proof.Machine
end

