-- ==== Sys2Proof/Laws/KeptCore.lean ====
section
/-! SUPPORT. What an operation of the module's common operations, memory, replicas, exceptions and masters keeps (Laws/Kept.lean):
one lemma for each operation. -/

namespace Sys2Proof.Machine

variable {c : Track} {p : List Instr} {q : Fuses} {s : State}

theorem Kept.setCol {n} {v} (h : Kept c p q s) :
    Kept c p q (State.setCol s n v) := by
  dsimp only [State.setCol]
  with_reducible repeat' first | assumption | apply Kept.other

theorem Kept.modCol {n} {f} (h : Kept c p q s) :
    Kept c p q (State.modCol s n f) := by
  dsimp only [State.modCol]
  with_reducible repeat' first | assumption | apply Kept.setCol

theorem Kept.setMap {n} {v} (h : Kept c p q s) :
    Kept c p q (State.setMap s n v) := by
  dsimp only [State.setMap]
  with_reducible repeat' first | assumption | apply Kept.other

theorem Kept.setPin {n} {v} (h : Kept c p q s) :
    Kept c p q (State.setPin s n v) := by
  dsimp only [State.setPin]
  with_reducible repeat' first | assumption | apply Kept.other

theorem Kept.modPin {n} {f} (h : Kept c p q s) :
    Kept c p q (State.modPin s n f) := by
  dsimp only [State.modPin]
  with_reducible repeat' first | assumption | apply Kept.setPin

theorem Kept.setMemByte {a} {b} (h : Kept c p q s) (hmem : c.mem = none) :
    Kept c p q (State.setMemByte s a b) := by
  exact Kept.at_mem h hmem fun hw => Table.wf_set hw _ _

theorem Kept.respond {m} {r} (h : Kept c p q s) :
    Kept c p q (State.respond s m r) := by
  dsimp only [State.respond]
  with_reducible repeat' first | assumption | apply Kept.other

theorem Kept.setAcc {n} {v} (h : Kept c p q s) :
    Kept c p q (State.setAcc s n v) := by
  dsimp only [State.setAcc]
  with_reducible repeat' first | assumption | apply Kept.other

theorem Kept.modAcc {n} {f} (h : Kept c p q s) :
    Kept c p q (State.modAcc s n f) := by
  dsimp only [State.modAcc]
  with_reducible repeat' first | assumption | apply Kept.setAcc

theorem Kept.setDma {n} {v} (h : Kept c p q s) :
    Kept c p q (State.setDma s n v) := by
  dsimp only [State.setDma]
  with_reducible repeat' first | assumption | apply Kept.other

theorem Kept.modDma {n} {f} (h : Kept c p q s) :
    Kept c p q (State.modDma s n f) := by
  dsimp only [State.modDma]
  with_reducible repeat' first | assumption | apply Kept.setDma

theorem Kept.setSc {n} {v} (h : Kept c p q s) (hscs : c.scs = none) :
    Kept c p q (State.setSc s n v) := by
  dsimp only [State.setSc]
  with_reducible repeat' first | assumption | apply Kept.at_scs

theorem Kept.modSc {n} {f} (h : Kept c p q s) (hscs : c.scs = none) :
    Kept c p q (State.modSc s n f) := by
  dsimp only [State.modSc]
  with_reducible repeat' first | assumption | apply Kept.setSc

theorem Kept.setCt {n} {v} (h : Kept c p q s) :
    Kept c p q (State.setCt s n v) := by
  dsimp only [State.setCt]
  with_reducible repeat' first | assumption | apply Kept.other

theorem Kept.modCt {n} {f} (h : Kept c p q s) :
    Kept c p q (State.modCt s n f) := by
  dsimp only [State.modCt]
  with_reducible repeat' first | assumption | apply Kept.setCt

theorem Kept.setHolder {n} {v} (h : Kept c p q s) (hholders : c.holders = none) :
    Kept c p q (State.setHolder s n v) := by
  dsimp only [State.setHolder]
  with_reducible repeat' first | assumption | apply Kept.at_holders

theorem Kept.modHolder {n} {f} (h : Kept c p q s) (hholders : c.holders = none) :
    Kept c p q (State.modHolder s n f) := by
  dsimp only [State.modHolder]
  with_reducible repeat' first | assumption | apply Kept.setHolder

theorem Kept.setPort {n} {v} (h : Kept c p q s) (hports : c.ports = none) :
    Kept c p q (State.setPort s n v) := by
  dsimp only [State.setPort]
  with_reducible repeat' first | assumption | apply Kept.at_ports

theorem Kept.setPoison {l} {p'} (h : Kept c p q s) :
    Kept c p q (State.setPoison s l p') := by
  dsimp only [State.setPoison]
  repeat' first | with_reducible assumption | split | with_reducible apply Kept.other

theorem Kept.setSrcBuf {n} {v} (h : Kept c p q s) :
    Kept c p q (State.setSrcBuf s n v) := by
  dsimp only [State.setSrcBuf]
  with_reducible repeat' first | assumption | apply Kept.other

theorem Kept.setPe {n} {v} (h : Kept c p q s) :
    Kept c p q (State.setPe s n v) := by
  dsimp only [State.setPe]
  with_reducible repeat' first | assumption | apply Kept.other

theorem Kept.setChan {n} {v} (h : Kept c p q s) :
    Kept c p q (State.setChan s n v) := by
  dsimp only [State.setChan]
  with_reducible repeat' first | assumption | apply Kept.other

theorem Kept.modPort {n} {f} (h : Kept c p q s) (hports : c.ports = none) :
    Kept c p q (State.modPort s n f) := by
  dsimp only [State.modPort]
  with_reducible repeat' first | assumption | apply Kept.setPort

theorem Kept.setIsl {n} {v} (h : Kept c p q s) :
    Kept c p q (State.setIsl s n v) := by
  dsimp only [State.setIsl]
  with_reducible repeat' first | assumption | apply Kept.other

theorem Kept.modIsl {n} {f} (h : Kept c p q s) :
    Kept c p q (State.modIsl s n f) := by
  dsimp only [State.modIsl]
  with_reducible repeat' first | assumption | apply Kept.setIsl

theorem Kept.setQueue {n} {v} (h : Kept c p q s) (hqueues : c.queues = none) :
    Kept c p q (State.setQueue s n v) := by
  dsimp only [State.setQueue]
  with_reducible repeat' first | assumption | apply Kept.at_queues

theorem Kept.modQueue {n} {f} (h : Kept c p q s) (hqueues : c.queues = none) :
    Kept c p q (State.modQueue s n f) := by
  dsimp only [State.modQueue]
  with_reducible repeat' first | assumption | apply Kept.setQueue

theorem Kept.setReg {r} {v} (h : Kept c p q s) :
    Kept c p q (State.setReg s r v) := by
  dsimp only [State.setReg]
  with_reducible repeat' first | assumption | apply Kept.other

theorem Kept.modSrcBuf {n} {f} (h : Kept c p q s) :
    Kept c p q (State.modSrcBuf s n f) := by
  dsimp only [State.modSrcBuf]
  with_reducible repeat' first | assumption | apply Kept.setSrcBuf

theorem Kept.modChan {n} {f} (h : Kept c p q s) :
    Kept c p q (State.modChan s n f) := by
  dsimp only [State.modChan]
  with_reducible repeat' first | assumption | apply Kept.setChan

theorem Kept.modPe {n} {f} (h : Kept c p q s) :
    Kept c p q (State.modPe s n f) := by
  dsimp only [State.modPe]
  with_reducible repeat' first | assumption | apply Kept.setPe

theorem Kept.setCut {u} {c'} (h : Kept c p q s) :
    Kept c p q (State.setCut s u c') := by
  dsimp only [State.setCut]
  with_reducible repeat' first | assumption | apply Kept.other

theorem Kept.setSlice {n} {v} (h : Kept c p q s) :
    Kept c p q (State.setSlice s n v) := by
  dsimp only [State.setSlice]
  with_reducible repeat' first | assumption | apply Kept.other

theorem Kept.modSlice {n} {f} (h : Kept c p q s) :
    Kept c p q (State.modSlice s n f) := by
  dsimp only [State.modSlice]
  with_reducible repeat' first | assumption | apply Kept.setSlice

theorem Kept.modMap {n} {f} (h : Kept c p q s) :
    Kept c p q (State.modMap s n f) := by
  dsimp only [State.modMap]
  with_reducible repeat' first | assumption | apply Kept.setMap

theorem Kept.setPrst {n} {v} (h : Kept c p q s) :
    Kept c p q (State.setPrst s n v) := by
  dsimp only [State.setPrst]
  with_reducible repeat' first | assumption | apply Kept.other

theorem Kept.raiseIrq {k} {m} (h : Kept c p q s) :
    Kept c p q (State.raiseIrq s k m) := by
  dsimp only [State.raiseIrq]
  with_reducible repeat' first | assumption | apply Kept.other

theorem Kept.raiseOwned {k} {cls} {inst} {event} {o} (h : Kept c p q s) :
    Kept c p q (State.raiseOwned s k cls inst event o) := by
  dsimp only [State.raiseOwned]
  with_reducible repeat' first | assumption | apply Kept.raiseIrq

theorem Kept.setLc {n} {v} (h : Kept c p q s) (hlcs : c.lcs = none) :
    Kept c p q (State.setLc s n v) := by
  dsimp only [State.setLc]
  with_reducible repeat' first | assumption | apply Kept.at_lcs

theorem Kept.setFld {r} {hi} {lo} {v} (h : Kept c p q s) :
    Kept c p q (State.setFld s r hi lo v) := by
  dsimp only [State.setFld]
  with_reducible repeat' first | assumption | apply Kept.setReg

theorem Kept.bump {r} {hi} {lo} {n} (h : Kept c p q s) :
    Kept c p q (State.bump s r hi lo n) := by
  dsimp only [State.bump]
  with_reducible repeat' first | assumption | apply Kept.setFld

theorem Kept.setStorm {k} {l} (h : Kept c p q s) :
    Kept c p q (State.setStorm s k l) := by
  dsimp only [State.setStorm]
  with_reducible repeat' first | assumption | apply Kept.other

theorem Kept.setAslot {n} {v} (h : Kept c p q s) :
    Kept c p q (State.setAslot s n v) := by
  dsimp only [State.setAslot]
  with_reducible repeat' first | assumption | apply Kept.other

theorem Kept.modAslot {n} {f} (h : Kept c p q s) :
    Kept c p q (State.modAslot s n f) := by
  dsimp only [State.modAslot]
  with_reducible repeat' first | assumption | apply Kept.setAslot

theorem Kept.modLc {n} {f} (h : Kept c p q s) (hlcs : c.lcs = none) :
    Kept c p q (State.modLc s n f) := by
  dsimp only [State.modLc]
  with_reducible repeat' first | assumption | apply Kept.setLc

theorem Kept.setMemLine {l} {d} {p'} (h : Kept c p q s) (hmem : c.mem = none) :
    Kept c p q (State.setMemLine s l d p') := by
  dsimp only [State.setMemLine]
  exact Kept.setPoison (Kept.at_mem h hmem (memWrite_wf _ _ _))

theorem Kept.report {src} {kind} {cls} {addr} (h : Kept c p q s) :
    Kept c p q (State.report s src kind cls addr) := by
  dsimp only [State.report]
  with_reducible repeat' first | assumption | apply Kept.modSrcBuf | apply Kept.cond

theorem Kept.setCtx {n} {v} (h : Kept c p q s) (hctxs : c.ctxs = none) :
    Kept c p q (State.setCtx s n v) := by
  dsimp only [State.setCtx]
  with_reducible repeat' first | assumption | apply Kept.at_ctxs

theorem Kept.modCtx {n} {f} (h : Kept c p q s) (hctxs : c.ctxs = none) :
    Kept c p q (State.modCtx s n f) := by
  dsimp only [State.modCtx]
  with_reducible repeat' first | assumption | apply Kept.setCtx

theorem Kept.draw (h : Kept c p q s) :
    Kept c p q (State.draw s).2 := by
  dsimp only [State.draw]
  with_reducible repeat' first | assumption | apply Kept.other

theorem Kept.modPrst {n} {f} (h : Kept c p q s) :
    Kept c p q (State.modPrst s n f) := by
  dsimp only [State.modPrst]
  with_reducible repeat' first | assumption | apply Kept.setPrst

theorem Kept.waitFill {l} (h : Kept c p q s) :
    Kept c p q (State.waitFill s l) := by
  dsimp only [State.waitFill]
  repeat' first | with_reducible assumption | with_reducible apply Kept.modSlice | split

theorem Kept.dramApply {e} (h : Kept c p q s) (hmem : c.mem = none) :
    Kept c p q (State.dramApply s e) := by
  dsimp only [State.dramApply]
  with_reducible repeat' first | assumption | apply Kept.setMemLine | apply Kept.cond

theorem Kept.mcAccept {t} {off} {e} (h : Kept c p q s) (hmem : c.mem = none) :
    Kept c p q (State.mcAccept s t off e) := by
  dsimp only [State.mcAccept]
  with_reducible repeat' first | assumption | apply Kept.dramApply | apply Kept.modChan | apply Kept.cond

theorem Kept.brLog {l} {cause} {holder} (h : Kept c p q s) :
    Kept c p q (State.brLog s l cause holder) := by
  dsimp only [State.brLog]
  repeat' first
    | with_reducible assumption | with_reducible apply Kept.modCt | with_reducible apply Kept.bump
    | with_reducible apply Kept.cond | split

theorem Kept.cxlDrop {p'} {l} (h : Kept c p q s) (hports : c.ports = none) :
    Kept c p q (State.cxlDrop s p' l) := by
  dsimp only [State.cxlDrop]
  with_reducible repeat' first
    | assumption | apply Kept.brLog | apply Kept.modPort | apply Kept.report | apply Kept.cond

theorem Kept.homeWrite {l} {mask} {d} {poison} (h : Kept c p q s) (hmem : c.mem = none) (hports : c.ports = none) :
    Kept c p q (State.homeWrite s l mask d poison) := by
  dsimp only [State.homeWrite]
  repeat' first
    | with_reducible assumption | with_reducible apply Kept.mcAccept | with_reducible apply Kept.dramApply
    | with_reducible apply Kept.cxlDrop | with_reducible apply Kept.cond | split

theorem Kept.victimAccept {h'} (h : Kept c p q s) (hmem : c.mem = none) (hports : c.ports = none) :
    Kept c p q (State.victimAccept s h') := by
  dsimp only [State.victimAccept]
  repeat' first
    | with_reducible assumption | with_reducible apply Kept.modSlice | with_reducible apply Kept.homeWrite
    | with_reducible apply Kept.cond | split

theorem Kept.victimsFor {h'} {l} {x4} (h : Kept c p q s) (hmem : c.mem = none) (hports : c.ports = none) :
    Kept c p q (State.victimsFor s h' l x4) := by
  induction x4 generalizing s with
  | zero => exact h
  | succ n ih =>
    dsimp only [State.victimsFor]
    with_reducible repeat' first | assumption | apply ih | apply Kept.victimAccept | apply Kept.cond

theorem Kept.victimSettle {l} (h : Kept c p q s) (hmem : c.mem = none) (hports : c.ports = none) :
    Kept c p q (State.victimSettle s l) := by
  dsimp only [State.victimSettle]
  repeat' first | with_reducible assumption | with_reducible apply Kept.victimsFor | split

theorem Kept.basinFill {l} {d} {dirty} {poison} {mask} {age} {hit} (h : Kept c p q s) (hmem : c.mem = none)
    (hports : c.ports = none) :
    Kept c p q (State.basinFill s l d dirty poison mask age hit) := by
  dsimp only [State.basinFill]
  repeat' first
    | with_reducible assumption | with_reducible apply Kept.victimSettle | with_reducible apply Kept.setSlice
    | with_reducible apply Kept.homeWrite | with_reducible apply Kept.cond | split

theorem Kept.modTxn {h'} {l} {f} (h : Kept c p q s) :
    Kept c p q (State.modTxn s h' l f) := by
  dsimp only [State.modTxn]
  with_reducible repeat' first | assumption | apply Kept.modSlice

theorem Kept.sfPut {h'} {e} (h : Kept c p q s) :
    Kept c p q (State.sfPut s h' e) := by
  dsimp only [State.sfPut]
  with_reducible repeat' first | assumption | apply Kept.modSlice

theorem Kept.sfMod {h'} {l} {f} (h : Kept c p q s) :
    Kept c p q (State.sfMod s h' l f) := by
  dsimp only [State.sfMod]
  repeat' first | with_reducible assumption | with_reducible apply Kept.sfPut | split

theorem Kept.writeback {sl} {l} (h : Kept c p q s) (hmem : c.mem = none) (hports : c.ports = none)
    (hholders : c.holders = none) :
    Kept c p q (State.writeback s sl l) := by
  dsimp only [State.writeback]
  repeat' first
    | with_reducible assumption | with_reducible apply Kept.modHolder | with_reducible apply Kept.waitFill
    | with_reducible apply Kept.basinFill | with_reducible apply Kept.modTxn | with_reducible apply Kept.sfMod
    | with_reducible apply Kept.cond | split

theorem Kept.sfEnd {l} {held} (h : Kept c p q s) :
    Kept c p q (State.sfEnd s l held) := by
  dsimp only [State.sfEnd]
  repeat' first | with_reducible assumption | with_reducible apply Kept.sfMod | split

theorem Kept.maintTouch {l} (h : Kept c p q s) :
    Kept c p q (State.maintTouch s l) := by
  dsimp only [State.maintTouch]
  repeat' first | with_reducible assumption | with_reducible apply Kept.modSlice | split

theorem Kept.homeArrive {l} (h : Kept c p q s) (hmem : c.mem = none) (hports : c.ports = none)
    (hholders : c.holders = none) :
    Kept c p q (State.homeArrive s l) := by
  dsimp only [State.homeArrive]
  with_reducible repeat' first
    | intro _ | assumption | apply Kept.victimSettle | apply Kept.writeback | apply Kept.foldl

theorem Kept.clearResvs {l} {except} (h : Kept c p q s) (hlcs : c.lcs = none) :
    Kept c p q (State.clearResvs s l except) := by
  dsimp only [State.clearResvs]
  with_reducible repeat' first | assumption | apply Kept.at_lcs

theorem Kept.slotInvalidate {sl} {l} (h : Kept c p q s) (hlcs : c.lcs = none) (hholders : c.holders = none) :
    Kept c p q (State.slotInvalidate s sl l) := by
  dsimp only [State.slotInvalidate]
  repeat' first
    | with_reducible assumption | with_reducible apply Kept.setHolder | with_reducible apply Kept.modLc | split

theorem Kept.invalidateAll {l} {except} (h : Kept c p q s) (hlcs : c.lcs = none) (hholders : c.holders = none) :
    Kept c p q (State.invalidateAll s l except) := by
  dsimp only [State.invalidateAll]
  with_reducible repeat' first | intro _ | assumption | apply Kept.slotInvalidate | apply Kept.foldl

theorem Kept.basinDrop {l} (h : Kept c p q s) :
    Kept c p q (State.basinDrop s l) := by
  dsimp only [State.basinDrop]
  repeat' first | with_reducible assumption | with_reducible apply Kept.modSlice | split

theorem Kept.invWriteLine {m} {l} {o} {bs} (h : Kept c p q s) (hmem : c.mem = none) (hlcs : c.lcs = none)
    (hports : c.ports = none) (hholders : c.holders = none) :
    Kept c p q (State.invWriteLine s m l o bs) := by
  dsimp only [State.invWriteLine]
  repeat' first
    | with_reducible assumption | with_reducible apply Kept.maintTouch | with_reducible apply Kept.homeArrive
    | with_reducible apply Kept.sfEnd | with_reducible apply Kept.clearResvs
    | with_reducible apply Kept.invalidateAll | with_reducible apply Kept.victimSettle
    | with_reducible apply Kept.basinFill | with_reducible apply Kept.homeWrite
    | with_reducible apply Kept.basinDrop | with_reducible apply Kept.modSlice | with_reducible apply Kept.cond
    | split

theorem Kept.invWriteAux {m} {x3} {x4} {x5} (h : Kept c p q s) (hmem : c.mem = none) (hlcs : c.lcs = none)
    (hports : c.ports = none) (hholders : c.holders = none) :
    Kept c p q (State.invWriteAux s m x3 x4 x5) := by
  induction x3 generalizing s x4 x5 with
  | zero => exact h
  | succ n ih =>
    dsimp only [State.invWriteAux]
    with_reducible repeat' first | assumption | apply ih | apply Kept.invWriteLine | apply Kept.cond

theorem Kept.invWriteBytes {m} {a} {bs} (h : Kept c p q s) (hmem : c.mem = none) (hlcs : c.lcs = none)
    (hports : c.ports = none) (hholders : c.holders = none) :
    Kept c p q (State.invWriteBytes s m a bs) := by
  dsimp only [State.invWriteBytes]
  with_reducible repeat' first | assumption | apply Kept.invWriteAux

theorem Kept.markBreach {l} (h : Kept c p q s) :
    Kept c p q (State.markBreach s l) := by
  dsimp only [State.markBreach]
  repeat' first
    | with_reducible assumption | with_reducible apply Kept.setPoison | with_reducible apply Kept.modChan | split

theorem Kept.breachLine {l} {cause} {holder} (h : Kept c p q s) :
    Kept c p q (State.breachLine s l cause holder) := by
  dsimp only [State.breachLine]
  repeat' first
    | with_reducible assumption | with_reducible apply Kept.markBreach | with_reducible apply Kept.basinDrop
    | with_reducible apply Kept.modSlice | with_reducible apply Kept.brLog | split

theorem Kept.caClear {l} (h : Kept c p q s) :
    Kept c p q (State.caClear s l) := by
  dsimp only [State.caClear]
  repeat' first | with_reducible assumption | with_reducible apply Kept.modChan | split

theorem Kept.sfTouch {l} (h : Kept c p q s) :
    Kept c p q (State.sfTouch s l) := by
  dsimp only [State.sfTouch]
  repeat' first | with_reducible assumption | with_reducible apply Kept.modSlice | split

theorem Kept.basinTouch {l} (h : Kept c p q s) :
    Kept c p q (State.basinTouch s l) := by
  dsimp only [State.basinTouch]
  repeat' first | with_reducible assumption | with_reducible apply Kept.modSlice | split

theorem Kept.deathBreach {l} {holder} (h : Kept c p q s) :
    Kept c p q (State.deathBreach s l holder) := by
  dsimp only [State.deathBreach]
  repeat' first
    | with_reducible assumption | with_reducible apply Kept.setFld | with_reducible apply Kept.modCt
    | with_reducible apply Kept.breachLine | with_reducible apply Kept.report | split

theorem Kept.snoopWrite {l} {d} {poison} (h : Kept c p q s) (hmem : c.mem = none) (hports : c.ports = none) :
    Kept c p q (State.snoopWrite s l d poison) := by
  dsimp only [State.snoopWrite]
  repeat' first
    | with_reducible assumption | with_reducible apply Kept.victimSettle | with_reducible apply Kept.modSlice
    | with_reducible apply Kept.homeWrite | split

theorem Kept.discardReqs {sl} {l} (h : Kept c p q s) :
    Kept c p q (State.discardReqs s sl l) := by
  dsimp only [State.discardReqs]
  with_reducible repeat' first | assumption | apply Kept.other

theorem Kept.grpEvent {i} {src} {ev} {cls} {addr} {core} {sl} {off} (h : Kept c p q s) :
    Kept c p q (State.grpEvent s i src ev cls addr core sl off) := by
  dsimp only [State.grpEvent]
  with_reducible repeat' first | assumption | apply Kept.report | apply Kept.setReg

theorem Kept.modCore {i} {c'} {f} (h : Kept c p q s) :
    Kept c p q (State.modCore s i c' f) := by
  dsimp only [State.modCore]
  with_reducible repeat' first | assumption | apply Kept.modIsl

theorem Kept.rollback {lc} (h : Kept c p q s) (hlcs : c.lcs = none) (hholders : c.holders = none) :
    Kept c p q (State.rollback s lc) := by
  dsimp only [State.rollback]
  repeat' first
    | with_reducible assumption | with_reducible apply Kept.modLc | with_reducible apply Kept.discardReqs
    | with_reducible apply Kept.modHolder | split

theorem Kept.refreshSlot {i} {k} (h : Kept c p q s) :
    Kept c p q (State.refreshSlot s i k) := by
  dsimp only [State.refreshSlot]
  with_reducible repeat' first | assumption | apply Kept.modIsl

theorem Kept.startResync {i} {c'} {p'} (h : Kept c p q s) :
    Kept c p q (State.startResync s i c' p') := by
  dsimp only [State.startResync]
  with_reducible repeat' first | assumption | apply Kept.refreshSlot | apply Kept.modCore

theorem Kept.chargeCore {i} {c'} (h : Kept c p q s) :
    Kept c p q (State.chargeCore s i c') := by
  dsimp only [State.chargeCore]
  with_reducible repeat' first | assumption | apply Kept.bump

theorem Kept.markOdd {i} {c'} {off} {counted} (h : Kept c p q s) :
    Kept c p q (State.markOdd s i c' off counted) := by
  dsimp only [State.markOdd]
  with_reducible repeat' first
    | assumption | apply Kept.startResync | apply Kept.grpEvent | apply Kept.chargeCore | apply Kept.cond

theorem Kept.syncVoters {lc} (h : Kept c p q s) :
    Kept c p q (State.syncVoters s lc) := by
  dsimp only [State.syncVoters]
  repeat' first | with_reducible assumption | with_reducible apply Kept.modIsl | split

theorem Kept.giveBanks {lc} (h : Kept c p q s) :
    Kept c p q (State.giveBanks s lc) := by
  dsimp only [State.giveBanks]
  repeat' first | with_reducible assumption | with_reducible apply Kept.modIsl | split

theorem Kept.resyncBack {i} {k} (h : Kept c p q s) :
    Kept c p q (State.resyncBack s i k) := by
  dsimp only [State.resyncBack]
  with_reducible repeat' first | intro _ | assumption | apply Kept.modCore | apply Kept.foldl

theorem Kept.pairMismatch {lc} {h'} {off} {counted} (h : Kept c p q s) (hlcs : c.lcs = none)
    (hholders : c.holders = none) :
    Kept c p q (State.pairMismatch s lc h' off counted) := by
  dsimp only [State.pairMismatch]
  with_reducible repeat' first
    | assumption | apply Kept.resyncBack | apply Kept.rollback | apply Kept.grpEvent | apply Kept.chargeCore
    | apply Kept.cond

theorem Kept.tableRead {s : State} {lc} {pa} :
    Res.All c p q (fun _ => True) (State.tableRead s lc pa) := by
  dsimp only [Machine.State.tableRead]
  repeat' first
    | with_reducible apply Res.All.cond | with_reducible exact Res.All.exc | with_reducible exact Res.All.freeze
    | with_reducible apply Res.All.ok | with_reducible exact trivial
    | with_reducible refine Kept.ofExcIn (P := fun x => Kept c p q x.1) ‹_ = Res.excIn _ _› ?_ | split

theorem Kept.segCheck {d} {polder} {level} {off} {size} {need} :
    Res.All c p q (fun _ => True) (segCheck d polder level off size need) := by
  dsimp only [Machine.segCheck]
  with_reducible repeat' first | apply Res.All.cond | exact Res.All.exc | apply Res.All.ok | exact trivial

theorem Kept.walk {rd : Nat → Res (Word × List LineNo)} {va} {need} {u} {s2} {x6} {x7} (hrd : ∀ y0, Res.All c p q
    (fun _ => True) (rd y0)) :
    Res.All c p q (fun _ => True) (walk rd va need u s2 x6 x7) := by
  induction x6 generalizing x7 with
  | zero => exact Res.All.ok trivial
  | succ n ih =>
    dsimp only [Machine.walk]
    with_reducible repeat' first
      | intro _ | assumption | apply hrd | apply ih | apply Res.All.cond | apply Res.All.ok | apply Res.All.map
      | apply Res.All.bind

theorem Kept.stage2 {s : State} {lc} {l} {gpa} {need} :
    Res.All c p q (fun _ => True) (State.stage2 s lc l gpa need) := by
  dsimp only [Machine.State.stage2]
  repeat' first
    | with_reducible intro _ | with_reducible assumption | with_reducible apply Kept.walk
    | with_reducible apply Kept.tableRead | with_reducible apply Res.All.cond | with_reducible exact Res.All.exc
    | with_reducible apply Res.All.ok | with_reducible apply Res.All.bind | with_reducible exact trivial
    | with_reducible refine Kept.ofExcIn (P := fun x => Kept c p q x.1) ‹_ = Res.excIn _ _› ?_ | split

theorem Kept.translateAt {s : State} {lc} {l} {la} {need} :
    Res.All c p q (fun _ => True) (State.translateAt s lc l la need) := by
  dsimp only [Machine.State.translateAt]
  repeat' first
    | with_reducible intro _ | with_reducible assumption | with_reducible apply Kept.stage2
    | with_reducible apply Kept.tableRead | with_reducible apply Kept.walk | with_reducible apply Res.All.cond
    | with_reducible exact Res.All.exc | with_reducible apply Res.All.ok | with_reducible apply Res.All.map
    | with_reducible apply Res.All.bind | with_reducible exact trivial
    | with_reducible refine Kept.ofExcIn (P := fun x => Kept c p q x.1) ‹_ = Res.excIn _ _› ?_ | split

theorem Kept.fetchTarget {s : State} {lc} {l} {off} :
    Res.All c p q (fun _ => True) (State.fetchTarget s lc l off) := by
  dsimp only [Machine.State.fetchTarget]
  repeat' first
    | with_reducible intro _ | with_reducible assumption | with_reducible apply Kept.segCheck
    | with_reducible apply Kept.translateAt | with_reducible apply Res.All.cond | with_reducible exact Res.All.exc
    | with_reducible exact Res.All.freeze | with_reducible apply Res.All.ok | with_reducible apply Res.All.bind
    | with_reducible refine Kept.ofExcIn (P := fun x => Kept c p q x.1) ‹_ = Res.excIn _ _› ?_ | split

theorem Kept.fetchCheck {s : State} {lc} {l} {off} :
    Res.All c p q (fun _ => True) (State.fetchCheck s lc l off) := by
  dsimp only [Machine.State.fetchCheck]
  with_reducible repeat' first | intro _ | assumption | apply Kept.fetchTarget | apply Res.All.map

theorem Kept.guestOut {lc} (h : Kept c p q s) (hmem : c.mem = none) (hlcs : c.lcs = none)
    (hports : c.ports = none) (hholders : c.holders = none) :
    Res.All c p q (Kept c p q) (State.guestOut s lc) := by
  dsimp only [State.guestOut]
  with_reducible repeat' first
    | assumption | apply Kept.modLc | apply Kept.invWriteBytes | apply Res.All.cond | exact Res.All.freeze
    | apply Res.All.ok

theorem Kept.freezeCore {lc} {pa} (h : Kept c p q s) (hlcs : c.lcs = none) :
    Kept c p q (State.freezeCore s lc pa) := by
  dsimp only [State.freezeCore]
  with_reducible repeat' first
    | assumption | apply Kept.report | apply Kept.syncVoters | apply Kept.setLc | apply Kept.cond

theorem Kept.afterEntry {lc} (h : Kept c p q s) (hlcs : c.lcs = none) :
    Kept c p q (State.afterEntry s lc) := by
  dsimp only [State.afterEntry]
  repeat' first
    | with_reducible assumption | with_reducible apply Kept.report | with_reducible apply Kept.setLc
    | with_reducible apply Kept.freezeCore
    | with_reducible refine Kept.ofExcIn (P := fun x => Kept c p q x.1) ‹_ = Res.excIn _ _› ?_ | split

theorem Kept.enterAt {lc} {b} {epc} {cause} {info} {addr} (h : Kept c p q s) (hmem : c.mem = none)
    (hlcs : c.lcs = none) (hports : c.ports = none) (hholders : c.holders = none) :
    Kept c p q (State.enterAt s lc b epc cause info addr) := by
  dsimp only [State.enterAt]
  repeat' first
    | with_reducible assumption | with_reducible apply Kept.guestOut | with_reducible apply Kept.afterEntry
    | with_reducible apply Kept.modLc | with_reducible apply Kept.freezeCore | with_reducible apply Res.All.cond
    | with_reducible apply Res.All.ok | with_reducible refine Kept.ofRes ‹_ = Res.ok _› ?_
    | with_reducible refine Kept.ofExcIn (P := fun x => Kept c p q x.1) ‹_ = Res.excIn _ _› ?_ | split

theorem Kept.fpTrap {lc} (h : Kept c p q s) (hmem : c.mem = none) (hlcs : c.lcs = none) (hports : c.ports = none)
    (hholders : c.holders = none) :
    Kept c p q (State.fpTrap s lc) := by
  dsimp only [State.fpTrap]
  with_reducible repeat' first | assumption | apply Kept.enterAt | apply Kept.setLc

theorem Kept.fpFirst {lc} {k : State → State} (h : Kept c p q s) (hk : ∀ y0, Kept c p q y0 → Kept c p q (k y0))
    (hmem : c.mem = none) (hlcs : c.lcs = none) (hports : c.ports = none) (hholders : c.holders = none) :
    Kept c p q (State.fpFirst s lc k) := by
  dsimp only [State.fpFirst]
  with_reducible repeat' first | assumption | apply hk | apply Kept.fpTrap | apply Kept.cond

theorem Kept.check {c'} {e} :
    Res.All c p q (fun _ => True) (check c' e) := by
  dsimp only [Machine.check]
  with_reducible repeat' first | apply Res.All.cond | exact Res.All.exc | apply Res.All.ok | exact trivial

theorem Kept.enterExc {lc} {w} {e} (h : Kept c p q s) (hmem : c.mem = none) (hlcs : c.lcs = none)
    (hports : c.ports = none) (hholders : c.holders = none) :
    Kept c p q (State.enterExc s lc w e) := by
  dsimp only [State.enterExc]
  with_reducible repeat' first | assumption | apply Kept.enterAt

theorem Kept.guestIn {lc} (h : Kept c p q s) (hmem : c.mem = none) (hlcs : c.lcs = none) (hports : c.ports = none)
    (hholders : c.holders = none) :
    Res.All c p q (Kept c p q) (State.guestIn s lc) := by
  dsimp only [State.guestIn]
  with_reducible repeat' first
    | assumption | apply Kept.modLc | apply Kept.invWriteBytes | apply Res.All.cond | exact Res.All.freeze
    | apply Res.All.ok

theorem Kept.takeExc {lc} {w} {e} (h : Kept c p q s) (hmem : c.mem = none) (hlcs : c.lcs = none)
    (hports : c.ports = none) (hholders : c.holders = none) :
    Kept c p q (State.takeExc s lc w e) := by
  dsimp only [State.takeExc]
  with_reducible repeat' first | intro _ | assumption | apply Kept.fpFirst | apply Kept.enterExc

theorem Kept.containPort {p'} {fw} (h : Kept c p q s) (hports : c.ports = none) :
    Kept c p q (State.containPort s p' fw) := by
  dsimp only [State.containPort]
  with_reducible repeat' first | assumption | apply Kept.modPort

theorem Kept.freezeMaster {m} {pa} (h : Kept c p q s) (hlcs : c.lcs = none) (hports : c.ports = none)
    (hctxs : c.ctxs = none) :
    Kept c p q (State.freezeMaster s m pa) := by
  dsimp only [State.freezeMaster]
  repeat' first
    | with_reducible assumption | with_reducible apply Kept.report | with_reducible apply Kept.freezeCore
    | with_reducible apply Kept.modPe | with_reducible apply Kept.modDma | with_reducible apply Kept.modCtx
    | with_reducible apply Kept.containPort | with_reducible apply Kept.cond | split

theorem Kept.csSized {m} {pa} {n} {need} {ok} {k : State → State} (h : Kept c p q s)
    (hk : ∀ y0, Kept c p q y0 → Kept c p q (k y0)) (hlcs : c.lcs = none) (hports : c.ports = none)
    (hctxs : c.ctxs = none) :
    Kept c p q (State.csSized s m pa n need ok k) := by
  dsimp only [State.csSized]
  with_reducible repeat' first
    | assumption | apply hk | apply Kept.respond | apply Kept.freezeMaster | apply Kept.cond

theorem Kept.csAccess {m} {pa} {need} {ok} {k : State → State} (h : Kept c p q s)
    (hk : ∀ y0, Kept c p q y0 → Kept c p q (k y0)) (hlcs : c.lcs = none) (hports : c.ports = none)
    (hctxs : c.ctxs = none) :
    Kept c p q (State.csAccess s m pa need ok k) := by
  dsimp only [State.csAccess]
  with_reducible repeat' first | intro _ | assumption | apply hk | apply Kept.csSized

theorem Kept.csPriv {m} {pa} {k : State → State} (h : Kept c p q s) (hk : ∀ y0, Kept c p q y0 → Kept c p q (k y0))
    (hlcs : c.lcs = none) (hports : c.ports = none) (hctxs : c.ctxs = none) :
    Kept c p q (State.csPriv s m pa k) := by
  dsimp only [State.csPriv]
  with_reducible repeat' first | intro _ | assumption | apply hk | apply Kept.csAccess | apply Kept.respond

theorem Kept.csOpen {m} {pa} {k : State → State} (h : Kept c p q s) (hk : ∀ y0, Kept c p q y0 → Kept c p q (k y0))
    (hlcs : c.lcs = none) (hports : c.ports = none) (hctxs : c.ctxs = none) :
    Kept c p q (State.csOpen s m pa k) := by
  dsimp only [State.csOpen]
  with_reducible repeat' first | intro _ | assumption | apply hk | apply Kept.csAccess | apply Kept.respond

theorem Kept.nackPredict {r} {l} (h : Kept c p q s) (hlcs : c.lcs = none) :
    Kept c p q (State.nackPredict s r l) := by
  dsimp only [State.nackPredict]
  repeat' first | with_reducible assumption | with_reducible apply Kept.modLc | split

theorem Kept.nack {h'} {r} {l} {k} {full} (h : Kept c p q s) (hlcs : c.lcs = none) :
    Kept c p q (State.nack s h' r l k full) := by
  dsimp only [State.nack]
  with_reducible repeat' first
    | assumption | apply Kept.bump | apply Kept.modSlice | apply Kept.nackPredict | apply Kept.cond
    | apply Kept.other

theorem Kept.dropAgentsBy {gone} (h : Kept c p q s) :
    Kept c p q (State.dropAgentsBy s gone) := by
  dsimp only [State.dropAgentsBy]
  with_reducible repeat' first | intro _ | assumption | apply Kept.modSlice | apply Kept.foldl | apply Kept.other

theorem Kept.turnedAway {r} {m} {rs} (h : Kept c p q s) (hlcs : c.lcs = none) :
    Kept c p q (State.turnedAway s r m rs) := by
  dsimp only [State.turnedAway]
  repeat' first
    | with_reducible assumption | with_reducible apply Kept.nack | with_reducible apply Kept.waitFill
    | with_reducible apply Kept.cond | split

theorem Kept.basinRead {l} {ev} (h : Kept c p q s) :
    Kept c p q (State.basinRead s l ev) := by
  dsimp only [State.basinRead]
  repeat' first
    | with_reducible assumption | with_reducible apply Kept.basinTouch | with_reducible apply Kept.report
    | with_reducible apply Kept.breachLine | with_reducible apply Kept.basinDrop
    | with_reducible apply Kept.setPoison | with_reducible apply Kept.cond | split

theorem Kept.basinMeet {l} (h : Kept c p q s) :
    Kept c p q (State.basinMeet s l) := by
  dsimp only [State.basinMeet]
  repeat' first
    | with_reducible assumption | with_reducible apply Kept.basinRead | with_reducible apply Kept.modSlice | split

theorem Kept.dropReq {r} {l} (h : Kept c p q s) :
    Kept c p q (State.dropReq s r l) := by
  dsimp only [State.dropReq]
  repeat' first | with_reducible assumption | split | with_reducible apply Kept.other

theorem Kept.unstarve {h'} {l} {r} (h : Kept c p q s) :
    Kept c p q (State.unstarve s h' l r) := by
  dsimp only [State.unstarve]
  with_reducible repeat' first | assumption | apply Kept.modSlice

theorem Kept.served {r} {l} (h : Kept c p q s) :
    Kept c p q (State.served s r l) := by
  dsimp only [State.served]
  repeat' first
    | with_reducible assumption | with_reducible apply Kept.basinRead | with_reducible apply Kept.basinMeet
    | with_reducible apply Kept.sfTouch | with_reducible apply Kept.dropReq | with_reducible apply Kept.unstarve
    | split

theorem Kept.gate {r} {m} {rs} (h : Kept c p q s) (hlcs : c.lcs = none) :
    sumAll (Kept c p q) (State.gate s r m rs) := by
  dsimp only [State.gate]
  repeat' first
    | with_reducible intro _ | with_reducible assumption | with_reducible apply Kept.served
    | with_reducible apply Kept.turnedAway | with_reducible apply Kept.foldl | with_reducible apply sumAll.inl
    | with_reducible apply sumAll.inr | split

theorem Kept.endHold {sl} (h : Kept c p q s) (hlcs : c.lcs = none) :
    Kept c p q (State.endHold s sl) := by
  dsimp only [State.endHold]
  repeat' first | with_reducible assumption | with_reducible apply Kept.modLc | split

theorem Kept.dropMaster {m} (h : Kept c p q s) :
    Kept c p q (State.dropMaster s m) := by
  dsimp only [State.dropMaster]
  with_reducible repeat' first | assumption | apply Kept.dropAgentsBy

theorem Kept.admitAs {r} {m} {rs} {k : State → State} (h : Kept c p q s) (hk : ∀ y0, Kept c p q y0 → Kept c p q
    (k y0)) (hlcs : c.lcs = none) :
    Kept c p q (State.admitAs s r m rs k) := by
  dsimp only [State.admitAs]
  repeat' first
    | with_reducible intro _ | with_reducible assumption | with_reducible apply hk | with_reducible apply Kept.gate
    | with_reducible apply Kept.caClear | with_reducible apply Kept.foldl
    | with_reducible refine Kept.ofInl ‹_ = Sum.inl _› ?_ | with_reducible refine Kept.ofInr ‹_ = Sum.inr _› ?_
    | split

theorem Kept.issue {n} (h : Kept c p q s) :
    Kept c p q (State.issue s n) := by
  dsimp only [State.issue]
  repeat' first | with_reducible assumption | with_reducible apply Kept.cond | split | with_reducible apply Kept.other

theorem Kept.issueReq {r} {l} {k} (h : Kept c p q s) :
    Kept c p q (State.issueReq s r l k) := by
  dsimp only [State.issueReq]
  with_reducible repeat' first | assumption | apply Kept.issue

theorem Kept.admitMaster {m} {rs} {k : State → State} (h : Kept c p q s) (hk : ∀ y0, Kept c p q y0 → Kept c p q (k y0))
    (hlcs : c.lcs = none) :
    Kept c p q (State.admitMaster s m rs k) := by
  dsimp only [State.admitMaster]
  with_reducible repeat' first | intro _ | assumption | apply hk | apply Kept.admitAs

end Sys2Proof.Machine
end

