-- ==== Sys2Proof/Laws/KeptCoherence.lean ====
section
/-! SUPPORT. What an operation of the coherence protocol and the cache maintenance keeps (Laws/Kept.lean):
one lemma for each operation. -/

namespace Sys2Proof.Machine

variable {c : Track} {p : List Instr} {q : Fuses} {s : State}

theorem Kept.startTxn {h'} {t} (h : Kept c p q s) :
    Kept c p q (State.startTxn s h' t) := by
  dsimp only [State.startTxn]
  repeat' first
    | with_reducible assumption | with_reducible apply Kept.sfPut | with_reducible apply Kept.modSlice | split

theorem Kept.sfInsert {h'} {l} {w} (h : Kept c p q s) :
    Kept c p q (State.sfInsert s h' l w) := by
  dsimp only [State.sfInsert]
  with_reducible repeat' first | assumption | apply Kept.modSlice

theorem Kept.backInvDone {h'} {v} (h : Kept c p q s) :
    Kept c p q (State.backInvDone s h' v) := by
  dsimp only [State.backInvDone]
  repeat' first
    | with_reducible assumption | with_reducible apply Kept.modSlice | with_reducible apply Kept.startTxn
    | with_reducible apply Kept.sfInsert | split

theorem Kept.snoop {sl} {l} {k} {starving} (h : Kept c p q s) (hmem : c.mem = none) (hlcs : c.lcs = none)
    (hports : c.ports = none) (hholders : c.holders = none) :
    Kept c p q (State.snoop s sl l k starving).1 := by
  dsimp only [State.snoop]
  repeat' first
    | with_reducible assumption | with_reducible apply Kept.endHold | with_reducible apply Kept.setHolder
    | with_reducible apply Kept.snoopWrite | with_reducible apply Kept.slotInvalidate
    | with_reducible apply Kept.cond | split

theorem Kept.recoverLine {l} {sl} (h : Kept c p q s) (hmem : c.mem = none) (hlcs : c.lcs = none)
    (hports : c.ports = none) (hholders : c.holders = none) :
    Kept c p q (State.recoverLine s l sl) := by
  dsimp only [State.recoverLine]
  with_reducible repeat' first | assumption | apply Kept.modHolder | apply Kept.snoop

theorem Kept.reclaimEntry {h'} {e} {dead} {dt} {tile} (h : Kept c p q s) (hmem : c.mem = none)
    (hlcs : c.lcs = none) (hports : c.ports = none) (hholders : c.holders = none) :
    Kept c p q (State.reclaimEntry s h' e dead dt tile) := by
  dsimp only [State.reclaimEntry]
  repeat' first
    | with_reducible assumption | with_reducible apply Kept.sfMod | with_reducible apply Kept.recoverLine
    | with_reducible apply Kept.deathBreach | with_reducible apply Kept.cond | split

theorem Kept.dropTxn {h'} {l} (h : Kept c p q s) :
    Kept c p q (State.dropTxn s h' l) := by
  dsimp only [State.dropTxn]
  with_reducible repeat' first | assumption | apply Kept.sfMod | apply Kept.modSlice

theorem Kept.deathTxns {h'} {dead} (h : Kept c p q s) :
    Kept c p q (State.deathTxns s h' dead) := by
  dsimp only [State.deathTxns]
  repeat' first
    | with_reducible intro _ | with_reducible assumption | with_reducible apply Kept.dropTxn
    | with_reducible apply Kept.modTxn | with_reducible apply Kept.backInvDone | with_reducible apply Kept.foldl
    | with_reducible apply Kept.cond | split

theorem Kept.dropAgents {k} (h : Kept c p q s) :
    Kept c p q (State.dropAgents s k) := by
  dsimp only [State.dropAgents]
  with_reducible repeat' first | assumption | apply Kept.dropAgentsBy

theorem Kept.agentDeath {dead} {dt} {tile} (h : Kept c p q s) (hmem : c.mem = none) (hlcs : c.lcs = none)
    (hports : c.ports = none) (hholders : c.holders = none) :
    Kept c p q (State.agentDeath s dead dt tile) := by
  dsimp only [State.agentDeath]
  with_reducible repeat' first
    | intro _ | assumption | apply Kept.setFld | apply Kept.modCt | apply Kept.modSlice | apply Kept.reclaimEntry
    | apply Kept.deathTxns | apply Kept.clearResvs | apply Kept.setHolder | apply Kept.dropAgents | apply Kept.foldl
    | apply Kept.cond | apply Kept.other

theorem Kept.slotDeath {sl} (h : Kept c p q s) (hmem : c.mem = none) (hlcs : c.lcs = none)
    (hports : c.ports = none) (hholders : c.holders = none) :
    Kept c p q (State.slotDeath s sl) := by
  dsimp only [State.slotDeath]
  with_reducible repeat' first | assumption | apply Kept.agentDeath

theorem Kept.completeTxn {r} {l} (h : Kept c p q s) :
    Kept c p q (State.completeTxn s r l) := by
  dsimp only [State.completeTxn]
  repeat' first
    | with_reducible assumption | with_reducible apply Kept.dropTxn | with_reducible apply Kept.sfMod
    | with_reducible apply Kept.cond | split

theorem Kept.sfAge {h'} {l} {up} (h : Kept c p q s) :
    Kept c p q (State.sfAge s h' l up) := by
  dsimp only [State.sfAge]
  with_reducible repeat' first | assumption | apply Kept.modSlice

theorem Kept.retake {sl} {l} (h : Kept c p q s) (hmem : c.mem = none) (hports : c.ports = none)
    (hholders : c.holders = none) :
    Kept c p q (State.retake s sl l) := by
  dsimp only [State.retake]
  with_reducible repeat' first | assumption | apply Kept.modHolder | apply Kept.writeback | apply Kept.cond

theorem Kept.drainStores {sl} {lc} {x4} (h : Kept c p q s) (hlcs : c.lcs = none) (hholders : c.holders = none) :
    Kept c p q (State.drainStores s sl lc x4) := by
  induction x4 generalizing s with
  | zero => exact h
  | succ n ih =>
    dsimp only [State.drainStores]
    repeat' first
      | with_reducible assumption | with_reducible apply ih | with_reducible apply Kept.modLc
      | with_reducible apply Kept.maintTouch | with_reducible apply Kept.modHolder | with_reducible apply Kept.cond
      | split

theorem Kept.drainSlot {sl} (h : Kept c p q s) (hlcs : c.lcs = none) (hholders : c.holders = none) :
    Kept c p q (State.drainSlot s sl) := by
  dsimp only [State.drainSlot]
  repeat' first
    | with_reducible assumption | with_reducible apply Kept.drainStores | with_reducible apply Kept.issueReq | split

theorem Kept.evictResv {sl} (h : Kept c p q s) (hlcs : c.lcs = none) :
    Kept c p q (State.evictResv s sl) := by
  dsimp only [State.evictResv]
  repeat' first | with_reducible assumption | with_reducible apply Kept.setLc | with_reducible apply Kept.cond | split

theorem Kept.install {sl} {l} {st} {fetch} {stream} {data} (h : Kept c p q s) (hmem : c.mem = none)
    (hlcs : c.lcs = none) (hports : c.ports = none) (hholders : c.holders = none) :
    Kept c p q (State.install s sl l st fetch stream data) := by
  dsimp only [State.install]
  with_reducible repeat' first
    | assumption | apply Kept.retake | apply Kept.setHolder | apply Kept.caClear | apply Kept.drainSlot
    | apply Kept.evictResv

theorem Kept.evictClean {sl} {l} (h : Kept c p q s) (hmem : c.mem = none) (hlcs : c.lcs = none)
    (hports : c.ports = none) (hholders : c.holders = none) :
    Kept c p q (State.evictClean s sl l) := by
  dsimp only [State.evictClean]
  repeat' first
    | with_reducible assumption | with_reducible apply Kept.nack | with_reducible apply Kept.waitFill
    | with_reducible apply Kept.sfMod | with_reducible apply Kept.modHolder | with_reducible apply Kept.dropReq
    | with_reducible apply Kept.basinFill | with_reducible apply Kept.cond | split

theorem Kept.reclaimDone {t} (h : Kept c p q s) :
    Kept c p q (State.reclaimDone s t) := by
  dsimp only [State.reclaimDone]
  repeat' first
    | with_reducible assumption | with_reducible apply Kept.report | with_reducible apply Kept.setFld
    | with_reducible apply Kept.modCt | with_reducible apply Kept.cond | split

theorem Kept.openTxn {h'} {r} {l} {k} (h : Kept c p q s) (hlcs : c.lcs = none) :
    Kept c p q (State.openTxn s h' r l k) := by
  dsimp only [State.openTxn]
  repeat' first
    | with_reducible assumption | with_reducible apply Kept.unstarve | with_reducible apply Kept.startTxn
    | with_reducible apply Kept.sfTouch | with_reducible apply Kept.nack | with_reducible apply Kept.sfInsert
    | with_reducible apply Kept.sfAge | with_reducible apply Kept.modSlice | with_reducible apply Kept.sfMod
    | with_reducible apply Kept.cond | split

theorem Kept.snoopArrive {sl} {l} {k} (h : Kept c p q s) (hmem : c.mem = none) (hlcs : c.lcs = none)
    (hports : c.ports = none) (hholders : c.holders = none) :
    Kept c p q (State.snoopArrive s sl l k) := by
  dsimp only [State.snoopArrive]
  repeat' first
    | with_reducible assumption | with_reducible apply Kept.snoop | with_reducible apply Kept.modTxn
    | with_reducible apply Kept.cond | split

theorem Kept.abandonTxn {h'} {l} (h : Kept c p q s) (hlcs : c.lcs = none) :
    Kept c p q (State.abandonTxn s h' l) := by
  dsimp only [State.abandonTxn]
  repeat' first
    | with_reducible assumption | with_reducible apply Kept.dropTxn | with_reducible apply Kept.sfMod
    | with_reducible apply Kept.nack | split

theorem Kept.answerArrive {sl} {l} (h : Kept c p q s) (hlcs : c.lcs = none) :
    Kept c p q (State.answerArrive s sl l) := by
  dsimp only [State.answerArrive]
  repeat' first
    | with_reducible assumption | with_reducible apply Kept.abandonTxn | with_reducible apply Kept.modTxn
    | with_reducible apply Kept.backInvDone | with_reducible apply Kept.cond | split

theorem Kept.slotRequest {sl} {l} {k} {ev} (h : Kept c p q s) (hlcs : c.lcs = none) :
    Kept c p q (State.slotRequest s sl l k ev) := by
  dsimp only [State.slotRequest]
  repeat' first
    | with_reducible assumption | with_reducible apply Kept.dropReq | with_reducible apply Kept.nack
    | with_reducible apply Kept.basinRead | with_reducible apply Kept.basinMeet | with_reducible apply Kept.openTxn
    | with_reducible apply Kept.maintTouch | with_reducible apply Kept.cond | split

theorem Kept.tileDeath {t} (h : Kept c p q s) (hmem : c.mem = none) (hlcs : c.lcs = none)
    (hports : c.ports = none) (hholders : c.holders = none) :
    Kept c p q (State.tileDeath s t) := by
  dsimp only [State.tileDeath]
  with_reducible repeat' first | assumption | apply Kept.agentDeath

theorem Kept.deliver {sl} {l} (h : Kept c p q s) (hmem : c.mem = none) (hlcs : c.lcs = none)
    (hports : c.ports = none) (hholders : c.holders = none) :
    Kept c p q (State.deliver s sl l) := by
  dsimp only [State.deliver]
  repeat' first
    | with_reducible assumption | with_reducible apply Kept.modTxn | with_reducible apply Kept.dropReq
    | with_reducible apply Kept.dropTxn | with_reducible apply Kept.install | with_reducible apply Kept.cond | split

theorem Kept.sfMake {h'} {l} (h : Kept c p q s) (hmem : c.mem = none) (hlcs : c.lcs = none)
    (hports : c.ports = none) (hholders : c.holders = none) :
    Kept c p q (State.sfMake s h' l) := by
  dsimp only [State.sfMake]
  repeat' first
    | with_reducible intro _ | with_reducible assumption | with_reducible apply Kept.sfTouch
    | with_reducible apply Kept.snoop | with_reducible apply Kept.endHold | with_reducible apply Kept.modSlice
    | with_reducible apply Kept.sfInsert | with_reducible apply Kept.sfAge | with_reducible apply Kept.foldl | split

theorem Kept.ownLine {sl} {l} (h : Kept c p q s) (hmem : c.mem = none) (hlcs : c.lcs = none)
    (hports : c.ports = none) (hholders : c.holders = none) :
    Kept c p q (State.ownLine s sl l) := by
  dsimp only [State.ownLine]
  repeat' first
    | with_reducible intro _ | with_reducible assumption | with_reducible apply Kept.maintTouch
    | with_reducible apply Kept.homeArrive | with_reducible apply Kept.sfMake | with_reducible apply Kept.unstarve
    | with_reducible apply Kept.snoop | with_reducible apply Kept.endHold | with_reducible apply Kept.install
    | with_reducible apply Kept.dropReq | with_reducible apply Kept.sfMod | with_reducible apply Kept.foldl
    | with_reducible apply Kept.cond | split

theorem Kept.maintDone {h'} (h : Kept c p q s) :
    Kept c p q (State.maintDone s h') := by
  dsimp only [State.maintDone]
  repeat' first
    | with_reducible assumption | with_reducible apply Kept.raiseOwned | with_reducible apply Kept.modSlice
    | with_reducible apply Kept.setFld | with_reducible apply Kept.cond | split

theorem Kept.execMaintDone {sl} (h : Kept c p q s) :
    nextAll (Kept c p q) (execMaintDone sl s) := by
  dsimp only [Machine.execMaintDone]
  with_reducible repeat' first | apply nextAll.next | assumption | apply Kept.maintDone

theorem Kept.prefetchFill {sl} {l} (h : Kept c p q s) (hmem : c.mem = none) (hlcs : c.lcs = none)
    (hports : c.ports = none) (hholders : c.holders = none) :
    Kept c p q (State.prefetchFill s sl l) := by
  dsimp only [State.prefetchFill]
  repeat' first
    | with_reducible assumption | with_reducible apply Kept.retake | with_reducible apply Kept.dropReq
    | with_reducible apply Kept.deliver | with_reducible apply Kept.caClear | with_reducible apply Kept.setHolder
    | with_reducible apply Kept.cond | split

theorem Kept.maintLine {l} {op} {discard} {touched} (h : Kept c p q s) (hmem : c.mem = none) (hlcs : c.lcs = none)
    (hports : c.ports = none) (hholders : c.holders = none) :
    Kept c p q (State.maintLine s l op discard touched) := by
  dsimp only [State.maintLine]
  repeat' first
    | with_reducible intro _ | with_reducible assumption | with_reducible apply Kept.homeArrive
    | with_reducible apply Kept.snoop | with_reducible apply Kept.snoopWrite
    | with_reducible apply Kept.invalidateAll | with_reducible apply Kept.endHold
    | with_reducible apply Kept.homeWrite | with_reducible apply Kept.sfEnd | with_reducible apply Kept.basinDrop
    | with_reducible apply Kept.foldl | with_reducible apply Kept.cond | split

theorem Kept.maintAction {h'} {l} (h : Kept c p q s) (hmem : c.mem = none) (hlcs : c.lcs = none)
    (hports : c.ports = none) (hholders : c.holders = none) :
    Kept c p q (State.maintAction s h' l) := by
  dsimp only [State.maintAction]
  repeat' first
    | with_reducible assumption | with_reducible apply Kept.nack | with_reducible apply Kept.maintLine
    | with_reducible apply Kept.sfTouch | with_reducible apply Kept.dropReq | with_reducible apply Kept.unstarve
    | with_reducible apply Kept.setFld | with_reducible apply Kept.modSlice | with_reducible apply Kept.bump
    | with_reducible apply Kept.cond | split

theorem Kept.maintBegin {h'} {issuer} {op} {discard} {first} {last} {o} (h : Kept c p q s) :
    Kept c p q (State.maintBegin s h' issuer op discard first last o) := by
  dsimp only [State.maintBegin]
  with_reducible repeat' first | assumption | apply Kept.setFld | apply Kept.modSlice

theorem Kept.maintW {m} {h'} {op} {all} {discard} (h : Kept c p q s) (hlcs : c.lcs = none)
    (hports : c.ports = none) (hctxs : c.ctxs = none) :
    Kept c p q (State.maintW s m h' op all discard) := by
  dsimp only [State.maintW]
  with_reducible repeat' first
    | intro _ | assumption | apply Kept.csOpen | apply Kept.setFld | apply Kept.maintBegin | apply Kept.foldl
    | apply Kept.cond

theorem Kept.execMaintInvalidate {m} {sl} {all} {discard} (h : Kept c p q s) (hlcs : c.lcs = none)
    (hports : c.ports = none) (hctxs : c.ctxs = none) :
    nextAll (Kept c p q) (execMaintInvalidate m sl all discard s) := by
  dsimp only [Machine.execMaintInvalidate]
  with_reducible repeat' first | apply nextAll.next | assumption | apply Kept.maintW

theorem Kept.execMaintClean {m} {sl} {all} {discard} (h : Kept c p q s) (hlcs : c.lcs = none)
    (hports : c.ports = none) (hctxs : c.ctxs = none) :
    nextAll (Kept c p q) (execMaintClean m sl all discard s) := by
  dsimp only [Machine.execMaintClean]
  with_reducible repeat' first | apply nextAll.next | assumption | apply Kept.maintW

theorem Kept.execPrefetchFill {slot} {line} (h : Kept c p q s) (hmem : c.mem = none) (hlcs : c.lcs = none)
    (hports : c.ports = none) (hholders : c.holders = none) :
    nextAll (Kept c p q) (execPrefetchFill slot line s) := by
  dsimp only [Machine.execPrefetchFill]
  with_reducible repeat' first | apply nextAll.next | assumption | apply Kept.prefetchFill

theorem Kept.brlogR {m} {t} (h : Kept c p q s) (hlcs : c.lcs = none) (hports : c.ports = none)
    (hctxs : c.ctxs = none) :
    Kept c p q (State.brlogR s m t) := by
  dsimp only [State.brlogR]
  repeat' first
    | with_reducible intro _ | with_reducible assumption | with_reducible apply Kept.csAccess
    | with_reducible apply Kept.respond | with_reducible apply Kept.modCt | split

theorem Kept.hardwarePrefetch {lc} {trained} {l} {stream} (h : Kept c p q s) (hholders : c.holders = none) :
    Kept c p q (State.hardwarePrefetch s lc trained l stream) := by
  dsimp only [State.hardwarePrefetch]
  repeat' first
    | with_reducible assumption | with_reducible apply Kept.setHolder | with_reducible apply Kept.cond | split

theorem Kept.execHardwarePrefetch {lc} {trained} {line} {stream} (h : Kept c p q s) (hholders : c.holders = none) :
    nextAll (Kept c p q) (execHardwarePrefetch lc trained line stream s) := by
  dsimp only [Machine.execHardwarePrefetch]
  with_reducible repeat' first | apply nextAll.next | assumption | apply Kept.hardwarePrefetch

theorem Kept.execMaintCleanInvalidate {m} {sl} {all} {discard} (h : Kept c p q s) (hlcs : c.lcs = none)
    (hports : c.ports = none) (hctxs : c.ctxs = none) :
    nextAll (Kept c p q) (execMaintCleanInvalidate m sl all discard s) := by
  dsimp only [Machine.execMaintCleanInvalidate]
  with_reducible repeat' first | apply nextAll.next | assumption | apply Kept.maintW

theorem Kept.coreEvent {i} {c'} {ev} {cls} {off} (h : Kept c p q s) :
    Kept c p q (State.coreEvent s i c' ev cls off) := by
  dsimp only [State.coreEvent]
  with_reducible repeat' first | assumption | apply Kept.grpEvent

theorem Kept.settleSlot {i} {k} (h : Kept c p q s) :
    Kept c p q (State.settleSlot s i k) := by
  dsimp only [State.settleSlot]
  with_reducible repeat' first | assumption | apply Kept.modIsl

theorem Kept.requestMigration {lc} (h : Kept c p q s) (hlcs : c.lcs = none) :
    Kept c p q (State.requestMigration s lc) := by
  dsimp only [State.requestMigration]
  with_reducible repeat' first | assumption | apply Kept.modLc

theorem Kept.slotEvent {i} {k} {ev} {cls} {lc} {off} (h : Kept c p q s) :
    Kept c p q (State.slotEvent s i k ev cls lc off) := by
  dsimp only [State.slotEvent]
  with_reducible repeat' first | assumption | apply Kept.grpEvent

theorem Kept.replaceCore {i} {c'} (h : Kept c p q s) (hlcs : c.lcs = none) :
    Kept c p q (State.replaceCore s i c') := by
  dsimp only [State.replaceCore]
  repeat' first
    | with_reducible assumption | with_reducible apply Kept.modCore | with_reducible apply Kept.modIsl
    | with_reducible apply Kept.coreEvent | with_reducible apply Kept.settleSlot
    | with_reducible apply Kept.requestMigration | with_reducible apply Kept.slotEvent
    | with_reducible apply Kept.cond | split

theorem Kept.resyncFail {i} {c'} (h : Kept c p q s) (hlcs : c.lcs = none) :
    Kept c p q (State.resyncFail s i c') := by
  dsimp only [State.resyncFail]
  with_reducible repeat' first
    | assumption | apply Kept.modCore | apply Kept.replaceCore | apply Kept.coreEvent | apply Kept.cond

theorem Kept.voteOut {sl} (h : Kept c p q s) (hlcs : c.lcs = none) (hholders : c.holders = none) :
    Kept c p q (State.voteOut s sl).1 := by
  dsimp only [State.voteOut]
  repeat' first
    | with_reducible intro _ | with_reducible assumption | with_reducible apply Kept.modCore
    | with_reducible apply Kept.markOdd | with_reducible apply Kept.slotEvent | with_reducible apply Kept.rollback
    | with_reducible apply Kept.pairMismatch | with_reducible apply Kept.foldl | split

theorem Kept.setPhase {core} {p'} (h : Kept c p q s) :
    Kept c p q (State.setPhase s core p') := by
  dsimp only [State.setPhase]
  with_reducible repeat' first | assumption | apply Kept.modCore

theorem Kept.resyncMirror {core} {ok} (h : Kept c p q s) (hlcs : c.lcs = none) (hholders : c.holders = none) :
    Kept c p q (State.resyncMirror s core ok) := by
  dsimp only [State.resyncMirror]
  repeat' first
    | with_reducible assumption | with_reducible apply Kept.resyncFail | with_reducible apply Kept.voteOut
    | with_reducible apply Kept.setPhase | with_reducible apply Kept.cond
    | with_reducible refine Kept.fst ‹_ = (_, _)› ?_ | split

theorem Kept.resyncInvalidate {core} (h : Kept c p q s) :
    Kept c p q (State.resyncInvalidate s core) := by
  dsimp only [State.resyncInvalidate]
  with_reducible repeat' first | assumption | apply Kept.setPhase | apply Kept.cond

theorem Kept.emptySlot {sl} (h : Kept c p q s) (hmem : c.mem = none) (hlcs : c.lcs = none)
    (hports : c.ports = none) (hholders : c.holders = none) :
    Kept c p q (State.emptySlot s sl) := by
  dsimp only [State.emptySlot]
  with_reducible repeat' first
    | intro _ | assumption | apply Kept.setHolder | apply Kept.writeback | apply Kept.evictClean | apply Kept.foldl
    | apply Kept.cond

theorem Kept.rejoinTimeout {core} (h : Kept c p q s) (hlcs : c.lcs = none) :
    Kept c p q (State.rejoinTimeout s core) := by
  dsimp only [State.rejoinTimeout]
  with_reducible repeat' first | assumption | apply Kept.resyncFail | apply Kept.modCore | apply Kept.cond

theorem Kept.flushStores {sl} {lc} {x4} (h : Kept c p q s) (hmem : c.mem = none) (hlcs : c.lcs = none)
    (hports : c.ports = none) (hholders : c.holders = none) :
    Kept c p q (State.flushStores s sl lc x4) := by
  induction x4 generalizing s with
  | zero => exact h
  | succ n ih =>
    dsimp only [State.flushStores]
    repeat' first
      | with_reducible assumption | with_reducible apply ih | with_reducible apply Kept.drainSlot
      | with_reducible apply Kept.ownLine | with_reducible apply Kept.cond | split

theorem Kept.quiet {sl} {lc} (h : Kept c p q s) (hmem : c.mem = none) (hlcs : c.lcs = none)
    (hports : c.ports = none) (hholders : c.holders = none) :
    Kept c p q (State.quiet s sl lc) := by
  dsimp only [State.quiet]
  with_reducible repeat' first | assumption | apply Kept.flushStores

theorem Kept.quietStop {sl} {lc} (h : Kept c p q s) (hmem : c.mem = none) (hlcs : c.lcs = none)
    (hports : c.ports = none) (hholders : c.holders = none) :
    Kept c p q (State.quietStop s sl lc) := by
  dsimp only [State.quietStop]
  with_reducible repeat' first | assumption | apply Kept.modIsl | apply Kept.modLc | apply Kept.quiet

theorem Kept.groupStop {lc} (h : Kept c p q s) (hmem : c.mem = none) (hlcs : c.lcs = none)
    (hports : c.ports = none) (hholders : c.holders = none) :
    Kept c p q (State.groupStop s lc) := by
  dsimp only [State.groupStop]
  repeat' first
    | with_reducible assumption | with_reducible apply Kept.quietStop | with_reducible apply Kept.modLc
    | with_reducible apply Kept.cond | split

theorem Kept.rewriteRecord {lc} {m} (h : Kept c p q s) :
    Kept c p q (State.rewriteRecord s lc m) := by
  dsimp only [State.rewriteRecord]
  repeat' first
    | with_reducible assumption | with_reducible apply Kept.modSlice | split | with_reducible apply Kept.other

theorem Kept.drawTarget {lc} {t} (h : Kept c p q s) :
    Kept c p q (State.drawTarget s lc t) := by
  dsimp only [State.drawTarget]
  with_reducible repeat' first | intro _ | assumption | apply Kept.coreEvent | apply Kept.modCore | apply Kept.foldl

theorem Kept.migrate {lc} (h : Kept c p q s) (hmem : c.mem = none) (hlcs : c.lcs = none) (hports : c.ports = none)
    (hholders : c.holders = none) :
    Kept c p q (State.migrate s lc) := by
  dsimp only [State.migrate]
  repeat' first
    | with_reducible assumption | with_reducible apply Kept.emptySlot | with_reducible apply Kept.quietStop
    | with_reducible apply Kept.modLc | with_reducible apply Kept.modSlice | with_reducible apply Kept.modIsl
    | with_reducible apply Kept.drawTarget | with_reducible apply Kept.cond | split
    | with_reducible apply Kept.other

theorem Kept.faultyReplica {i} {c'} {off} (h : Kept c p q s) :
    Kept c p q (State.faultyReplica s i c' off) := by
  dsimp only [State.faultyReplica]
  with_reducible repeat' first | assumption | apply Kept.settleSlot | apply Kept.markOdd

theorem Kept.loseLc {lc} (h : Kept c p q s) (hmem : c.mem = none) (hlcs : c.lcs = none) (hports : c.ports = none)
    (hholders : c.holders = none) :
    Kept c p q (State.loseLc s lc) := by
  dsimp only [State.loseLc]
  repeat' first
    | with_reducible assumption | with_reducible apply Kept.modLc | with_reducible apply Kept.modIsl
    | with_reducible apply Kept.slotDeath | split

theorem Kept.islandLost {i} (h : Kept c p q s) (hmem : c.mem = none) (hlcs : c.lcs = none)
    (hports : c.ports = none) (hholders : c.holders = none) :
    Kept c p q (State.islandLost s i) := by
  dsimp only [State.islandLost]
  with_reducible repeat' first | intro _ | assumption | apply Kept.loseLc | apply Kept.grpEvent | apply Kept.foldl

theorem Kept.voterOut {i} {k} (h : Kept c p q s) (hmem : c.mem = none) (hlcs : c.lcs = none)
    (hports : c.ports = none) (hholders : c.holders = none) :
    Kept c p q (State.voterOut s i k) := by
  dsimp only [State.voterOut]
  with_reducible repeat' first | assumption | apply Kept.modIsl | apply Kept.islandLost | apply Kept.cond

theorem Kept.groupLostLc {lc} {h'} {off} (h : Kept c p q s) (hmem : c.mem = none) (hlcs : c.lcs = none)
    (hports : c.ports = none) (hholders : c.holders = none) :
    Kept c p q (State.groupLostLc s lc h' off) := by
  dsimp only [State.groupLostLc]
  with_reducible repeat' first | assumption | apply Kept.grpEvent | apply Kept.loseLc

theorem Kept.gateEvent {sl} {ev} (h : Kept c p q s) (hlcs : c.lcs = none) (hholders : c.holders = none) :
    Kept c p q (State.gateEvent s sl ev) := by
  dsimp only [State.gateEvent]
  repeat' first
    | with_reducible assumption | with_reducible apply Kept.grpEvent | with_reducible apply Kept.bump
    | with_reducible apply Kept.markOdd | with_reducible apply Kept.pairMismatch | with_reducible apply Kept.cond
    | split

theorem Kept.simplexLine {sl} {c'} {l} {kind} (h : Kept c p q s) (hholders : c.holders = none) :
    Kept c p q (State.simplexLine s sl c' l kind).1 := by
  dsimp only [State.simplexLine]
  repeat' first
    | with_reducible assumption | with_reducible apply Kept.modHolder | with_reducible apply Kept.report
    | with_reducible apply Kept.breachLine | split

theorem Kept.simplexFetchLine {sl} {c'} {l} (h : Kept c p q s) (hholders : c.holders = none) :
    Kept c p q (State.simplexFetchLine s sl c' l).1 := by
  dsimp only [State.simplexFetchLine]
  with_reducible repeat' first | assumption | apply Kept.modHolder | apply Kept.report

theorem Kept.cacheError {h'} {lc} {ev} (h : Kept c p q s) (hholders : c.holders = none) :
    Kept c p q (State.cacheError s h' lc ev).1 := by
  dsimp only [State.cacheError]
  repeat' first
    | with_reducible assumption | with_reducible apply Kept.faultyReplica | with_reducible apply Kept.report
    | with_reducible apply Kept.modHolder | with_reducible apply Kept.simplexLine
    | with_reducible apply Kept.simplexFetchLine | split

theorem Kept.resyncWake {core} (h : Kept c p q s) :
    Kept c p q (State.resyncWake s core) := by
  dsimp only [State.resyncWake]
  with_reducible repeat' first | assumption | apply Kept.setPhase | apply Kept.cond

theorem Kept.pairTested {i} {k} (h : Kept c p q s) (hlcs : c.lcs = none) :
    Kept c p q (State.pairTested s i k) := by
  dsimp only [State.pairTested]
  repeat' first
    | with_reducible assumption | with_reducible apply Kept.modCore | with_reducible apply Kept.requestMigration
    | with_reducible apply Kept.settleSlot | with_reducible apply Kept.slotEvent | with_reducible apply Kept.modIsl
    | with_reducible apply Kept.modLc | with_reducible apply Kept.cond | split

theorem Kept.resyncTest {core} {ok} (h : Kept c p q s) (hlcs : c.lcs = none) :
    Kept c p q (State.resyncTest s core ok) := by
  dsimp only [State.resyncTest]
  with_reducible repeat' first
    | assumption | apply Kept.modCore | apply Kept.pairTested | apply Kept.setPhase | apply Kept.resyncFail
    | apply Kept.cond

theorem Kept.freeSource {h'} (h : Kept c p q s) :
    Kept c p q (State.freeSource s h') := by
  dsimp only [State.freeSource]
  with_reducible repeat' first | intro _ | assumption | apply Kept.modCore | apply Kept.modIsl | apply Kept.foldl

theorem Kept.migrationComplete {lc} (h : Kept c p q s) (hlcs : c.lcs = none) :
    Kept c p q (State.migrationComplete s lc) := by
  dsimp only [State.migrationComplete]
  repeat' first
    | with_reducible intro _ | with_reducible assumption | with_reducible apply Kept.modCore
    | with_reducible apply Kept.modSlice | with_reducible apply Kept.requestMigration
    | with_reducible apply Kept.rewriteRecord | with_reducible apply Kept.freeSource
    | with_reducible apply Kept.modIsl | with_reducible apply Kept.modLc | with_reducible apply Kept.refreshSlot
    | with_reducible apply Kept.giveBanks | with_reducible apply Kept.slotEvent | with_reducible apply Kept.foldl
    | with_reducible apply Kept.cond | split | with_reducible apply Kept.other

theorem Kept.voterFail {i} {k} (h : Kept c p q s) (hmem : c.mem = none) (hlcs : c.lcs = none)
    (hports : c.ports = none) (hholders : c.holders = none) :
    Kept c p q (State.voterFail s i k) := by
  dsimp only [State.voterFail]
  with_reducible repeat' first
    | assumption | apply Kept.grpEvent | apply Kept.bump | apply Kept.modIsl | apply Kept.islandLost
    | apply Kept.cond

theorem Kept.pairTest {i} {k} (h : Kept c p q s) (hlcs : c.lcs = none) :
    Kept c p q (State.pairTest s i k) := by
  dsimp only [State.pairTest]
  repeat' first
    | with_reducible intro _ | with_reducible assumption | with_reducible apply Kept.modLc
    | with_reducible apply Kept.modCore | with_reducible apply Kept.foldl | with_reducible apply Kept.cond | split

theorem Kept.cacheMeet {sl} {l} (h : Kept c p q s) (hholders : c.holders = none) :
    Kept c p q (State.cacheMeet s sl l).1 := by
  dsimp only [State.cacheMeet]
  repeat' first
    | with_reducible assumption | with_reducible apply Kept.cacheError | with_reducible apply Kept.modHolder | split

theorem Kept.strikeSlot {i} {k} {f} (h : Kept c p q s) :
    Kept c p q (State.strikeSlot s i k f) := by
  dsimp only [State.strikeSlot]
  with_reducible repeat' first | intro _ | assumption | apply Kept.modCore | apply Kept.foldl

theorem Kept.strike {i} {k} {ev} (h : Kept c p q s) :
    Kept c p q (State.strike s i k ev) := by
  dsimp only [State.strike]
  repeat' first
    | with_reducible assumption | with_reducible apply Kept.strikeSlot | with_reducible apply Kept.cond | split

theorem Kept.debugResume {lc} (h : Kept c p q s) (hlcs : c.lcs = none) :
    Kept c p q (State.debugResume s lc) := by
  dsimp only [State.debugResume]
  repeat' first
    | with_reducible intro _ | with_reducible assumption | with_reducible apply Kept.modLc
    | with_reducible apply Kept.modIsl | with_reducible apply Kept.startResync
    | with_reducible apply Kept.settleSlot | with_reducible apply Kept.foldl | with_reducible apply Kept.cond
    | split

theorem Kept.debugEnd (h : Kept c p q s) (hlcs : c.lcs = none) :
    Kept c p q (State.debugEnd s) := by
  dsimp only [State.debugEnd]
  with_reducible repeat' first
    | intro _ | assumption | apply Kept.debugResume | apply Kept.setFld | apply Kept.foldl | apply Kept.cond
    | apply Kept.at_lcs

theorem Kept.retireEvent {lc} {ev} (h : Kept c p q s) (hholders : c.holders = none) :
    Kept c p q (State.retireEvent s lc ev).1 := by
  dsimp only [State.retireEvent]
  repeat' first
    | with_reducible assumption | with_reducible apply Kept.strike | with_reducible apply Kept.cacheError | split

theorem Kept.debugHalt {lc} (h : Kept c p q s) (hmem : c.mem = none) (hlcs : c.lcs = none)
    (hports : c.ports = none) (hholders : c.holders = none) :
    Kept c p q (State.debugHalt s lc) := by
  dsimp only [State.debugHalt]
  repeat' first
    | with_reducible intro _ | with_reducible assumption | with_reducible apply Kept.quietStop
    | with_reducible apply Kept.modCore | with_reducible apply Kept.modIsl | with_reducible apply Kept.modLc
    | with_reducible apply Kept.grpEvent | with_reducible apply Kept.foldl | with_reducible apply Kept.cond | split

theorem Kept.mirrorTimeout {core} (h : Kept c p q s) (hlcs : c.lcs = none) :
    Kept c p q (State.mirrorTimeout s core) := by
  dsimp only [State.mirrorTimeout]
  with_reducible repeat' first | assumption | apply Kept.resyncFail | apply Kept.cond

theorem Kept.simplexHard {i} {c'} {off} (h : Kept c p q s) (hlcs : c.lcs = none) :
    Kept c p q (State.simplexHard s i c' off) := by
  dsimp only [State.simplexHard]
  repeat' first
    | with_reducible assumption | with_reducible apply Kept.coreEvent | with_reducible apply Kept.modCore
    | with_reducible apply Kept.requestMigration | with_reducible apply Kept.modLc
    | with_reducible apply Kept.slotEvent | with_reducible apply Kept.modIsl | with_reducible apply Kept.cond
    | split

theorem Kept.grpCtlW {m} {i} {c'} {cmd} (h : Kept c p q s) (hlcs : c.lcs = none) (hports : c.ports = none)
    (hctxs : c.ctxs = none) :
    Kept c p q (State.grpCtlW s m i c' cmd) := by
  dsimp only [State.grpCtlW]
  with_reducible repeat' first
    | intro _ | assumption | apply Kept.csPriv | apply Kept.setFld | apply Kept.markOdd | apply Kept.modCore
    | apply Kept.replaceCore | apply Kept.pairTest | apply Kept.simplexHard | apply Kept.cond

theorem Kept.rejoin {core} (h : Kept c p q s) (hmem : c.mem = none) (hlcs : c.lcs = none)
    (hports : c.ports = none) (hholders : c.holders = none) :
    Kept c p q (State.rejoin s core) := by
  dsimp only [State.rejoin]
  repeat' first
    | with_reducible assumption | with_reducible apply Kept.quietStop | with_reducible apply Kept.modHolder
    | with_reducible apply Kept.modLc | with_reducible apply Kept.modCore | with_reducible apply Kept.modIsl
    | with_reducible apply Kept.bump | with_reducible apply Kept.settleSlot | with_reducible apply Kept.giveBanks
    | with_reducible apply Kept.coreEvent | with_reducible apply Kept.cond | split

end Sys2Proof.Machine
end

