-- ==== Sys2Proof/Laws/KeptPaths.lean ====
section
/-! SUPPORT. What an operation of links, queues, paths and modes keeps (Laws/Kept.lean):
one lemma for each operation. -/

namespace Sys2Proof.Machine

variable {c : Track} {p : List Instr} {q : Fuses} {s : State}

theorem Kept.pump {p'} (h : Kept c p q s) (hports : c.ports = none) :
    Kept c p q (State.pump s p') := by
  dsimp only [State.pump]
  with_reducible repeat' first | assumption | apply Kept.modPort

theorem Kept.sendCtl {p'} {type} {param} {pl} (h : Kept c p q s) (hports : c.ports = none) :
    Kept c p q (State.sendCtl s p' type param pl) := by
  dsimp only [State.sendCtl]
  with_reducible repeat' first | assumption | apply Kept.modPort

theorem Kept.sendSeq {p'} {fs} (h : Kept c p q s) (hports : c.ports = none) :
    Kept c p q (State.sendSeq s p' fs) := by
  dsimp only [State.sendSeq]
  with_reducible repeat' first | assumption | apply Kept.pump | apply Kept.modPort | apply Kept.cond

theorem Kept.latchTag {m} {q'} {tag} (h : Kept c p q s) :
    Kept c p q (State.latchTag s m q' tag) := by
  dsimp only [State.latchTag]
  with_reducible repeat' first | assumption | apply Kept.other

theorem Kept.qAnswer {m} {q'} {d} {tag} (h : Kept c p q s) :
    Kept c p q (State.qAnswer s m q' d tag) := by
  dsimp only [State.qAnswer]
  with_reducible repeat' first | assumption | apply Kept.respond | apply Kept.latchTag

theorem Kept.qCorrected {q'} (h : Kept c p q s) :
    Kept c p q (State.qCorrected s q') := by
  dsimp only [State.qCorrected]
  with_reducible repeat' first | assumption | apply Kept.report | apply Kept.bump

theorem Kept.qUncorrectable {q'} (h : Kept c p q s) :
    Kept c p q (State.qUncorrectable s q') := by
  dsimp only [State.qUncorrectable]
  with_reducible repeat' first | assumption | apply Kept.report

theorem Kept.qReadCheck {q'} {i} {ev} (h : Kept c p q s) (hqueues : c.queues = none) :
    Kept c p q (State.qReadCheck s q' i ev) := by
  dsimp only [State.qReadCheck]
  repeat' first
    | with_reducible assumption | with_reducible apply Kept.qCorrected | with_reducible apply Kept.qUncorrectable
    | with_reducible apply Kept.modQueue | split

theorem Kept.qRefill {q'} {i} (h : Kept c p q s) (hqueues : c.queues = none) :
    Kept c p q (State.qRefill s q' i) := by
  dsimp only [State.qRefill]
  repeat' first
    | with_reducible assumption | with_reducible apply Kept.setQueue | with_reducible apply Kept.qUncorrectable
    | with_reducible apply Kept.cond | split

theorem Kept.qEvent {q'} {b} (h : Kept c p q s) :
    Kept c p q (State.qEvent s q' b) := by
  dsimp only [State.qEvent]
  with_reducible repeat' first | assumption | apply Kept.setFld

theorem Kept.qTake {q'} {ev} (h : Kept c p q s) (hqueues : c.queues = none) :
    Kept c p q (State.qTake s q' ev).1 := by
  dsimp only [State.qTake]
  repeat' first
    | with_reducible assumption | with_reducible apply Kept.qReadCheck | with_reducible apply Kept.qRefill
    | with_reducible apply Kept.setQueue | with_reducible apply Kept.bump | with_reducible apply Kept.qEvent | split

theorem Kept.qDeq {m} {q'} {ev} (h : Kept c p q s) (hqueues : c.queues = none) :
    Kept c p q (State.qDeq s m q' ev) := by
  dsimp only [State.qDeq]
  repeat' first
    | with_reducible assumption | with_reducible apply Kept.qAnswer | with_reducible apply Kept.qTake
    | with_reducible apply Kept.cond | split

theorem Kept.qRewind {m} {q'} {ev} (h : Kept c p q s) (hqueues : c.queues = none) :
    Kept c p q (State.qRewind s m q' ev) := by
  dsimp only [State.qRewind]
  with_reducible repeat' first
    | assumption | apply Kept.qAnswer | apply Kept.setQueue | apply Kept.qDeq | apply Kept.cond

theorem Kept.qForget {m} (h : Kept c p q s) (hqueues : c.queues = none) :
    Kept c p q (State.qForget s m) := by
  dsimp only [State.qForget]
  with_reducible repeat' first | assumption | apply Kept.at_queues

theorem Kept.qRaise {q'} {event} (h : Kept c p q s) :
    Kept c p q (State.qRaise s q' event) := by
  dsimp only [State.qRaise]
  with_reducible repeat' first | assumption | apply Kept.raiseOwned

theorem Kept.qAppend {q'} {w} (h : Kept c p q s) (hqueues : c.queues = none) :
    Kept c p q (State.qAppend s q' w) := by
  dsimp only [State.qAppend]
  with_reducible repeat' first
    | assumption | apply Kept.setQueue | apply Kept.qRaise | apply Kept.qEvent | apply Kept.cond

theorem Kept.qClose {q'} {abort} (h : Kept c p q s) (hqueues : c.queues = none) :
    Kept c p q (State.qClose s q' abort) := by
  dsimp only [State.qClose]
  repeat' first
    | with_reducible assumption | with_reducible apply Kept.modQueue | with_reducible apply Kept.qRefill | split

theorem Kept.qOpenCloses {q'} {w} (h : Kept c p q s) (hqueues : c.queues = none) :
    Kept c p q (State.qOpenCloses s q' w) := by
  dsimp only [State.qOpenCloses]
  with_reducible repeat' first | assumption | apply Kept.qClose | apply Kept.cond

theorem Kept.qHeldCloses {q'} (h : Kept c p q s) (hqueues : c.queues = none) :
    Kept c p q (State.qHeldCloses s q') := by
  dsimp only [State.qHeldCloses]
  repeat' first | with_reducible assumption | with_reducible apply Kept.qOpenCloses | split

theorem Kept.qDrop {q'} (h : Kept c p q s) :
    Kept c p q (State.qDrop s q') := by
  dsimp only [State.qDrop]
  with_reducible repeat' first | assumption | apply Kept.bump

theorem Kept.qMakeRoom {q'} (h : Kept c p q s) (hqueues : c.queues = none) :
    Kept c p q (State.qMakeRoom s q') := by
  dsimp only [State.qMakeRoom]
  with_reducible repeat' first
    | assumption | apply Kept.setQueue | apply Kept.qEvent | apply Kept.bump | apply Kept.cond

theorem Kept.qPerformEnq {q'} {m} {user} {data} {poison} (h : Kept c p q s) (hqueues : c.queues = none) :
    Kept c p q (State.qPerformEnq s q' m user data poison) := by
  dsimp only [State.qPerformEnq]
  with_reducible repeat' first
    | assumption | apply Kept.qDrop | apply Kept.qEvent | apply Kept.modQueue | apply Kept.qClose
    | apply Kept.qMakeRoom | apply Kept.qAppend | apply Kept.cond

theorem Kept.qPerformOpen {q'} {m} {user} (h : Kept c p q s) (hqueues : c.queues = none) :
    Kept c p q (State.qPerformOpen s q' m user) := by
  dsimp only [State.qPerformOpen]
  with_reducible repeat' first
    | assumption | apply Kept.qMakeRoom | apply Kept.qAppend | apply Kept.modQueue | apply Kept.cond

theorem Kept.qPerformClose {q'} {m} (h : Kept c p q s) (hqueues : c.queues = none) :
    Kept c p q (State.qPerformClose s q' m) := by
  dsimp only [State.qPerformClose]
  with_reducible repeat' first
    | assumption | apply Kept.qClose | apply Kept.setQueue | apply Kept.qEvent | apply Kept.cond

theorem Kept.qPerform {q'} {w} (h : Kept c p q s) (hqueues : c.queues = none) :
    Kept c p q (State.qPerform s q' w) := by
  dsimp only [State.qPerform]
  repeat' first
    | with_reducible assumption | with_reducible apply Kept.qPerformEnq | with_reducible apply Kept.qPerformOpen
    | with_reducible apply Kept.qPerformClose | split

theorem Kept.qdmaRaise {c'} {q'} (h : Kept c p q s) :
    Kept c p q (State.qdmaRaise s c' q') := by
  dsimp only [State.qdmaRaise]
  with_reducible repeat' first | assumption | apply Kept.raiseIrq

theorem Kept.qdmaAdvance {c'} (h : Kept c p q s) :
    Kept c p q (State.qdmaAdvance s c') := by
  dsimp only [State.qdmaAdvance]
  repeat' first
    | with_reducible assumption | with_reducible apply Kept.bump | with_reducible apply Kept.setDma
    | with_reducible apply Kept.setFld | with_reducible apply Kept.modDma | with_reducible apply Kept.qdmaRaise
    | with_reducible apply Kept.cond | split

theorem Kept.ctxAnswered {c'} {ok} (h : Kept c p q s) (hctxs : c.ctxs = none) :
    Kept c p q (State.ctxAnswered s c' ok) := by
  dsimp only [State.ctxAnswered]
  with_reducible repeat' first | assumption | apply Kept.bump | apply Kept.setCtx | apply Kept.cond

theorem Kept.qHeldAccept {q'} (h : Kept c p q s) (hqueues : c.queues = none) (hctxs : c.ctxs = none) :
    Kept c p q (State.qHeldAccept s q') := by
  dsimp only [State.qHeldAccept]
  repeat' first
    | with_reducible assumption | with_reducible apply Kept.qHeldCloses | with_reducible apply Kept.respond
    | with_reducible apply Kept.qPerform | with_reducible apply Kept.modQueue
    | with_reducible apply Kept.qdmaAdvance | with_reducible apply Kept.ctxAnswered | with_reducible apply Kept.cond
    | split

theorem Kept.execHeldWriteAccept {q'} (h : Kept c p q s) (hqueues : c.queues = none) (hctxs : c.ctxs = none) :
    nextAll (Kept c p q) (execHeldWriteAccept q' s) := by
  dsimp only [Machine.execHeldWriteAccept]
  with_reducible repeat' first | apply nextAll.next | assumption | apply Kept.qHeldAccept

theorem Kept.failHeld {l} (h : Kept c p q s) (hctxs : c.ctxs = none) :
    Kept c p q (State.failHeld s l) := by
  dsimp only [State.failHeld]
  repeat' first
    | with_reducible intro _ | with_reducible assumption | with_reducible apply Kept.respond
    | with_reducible apply Kept.ctxAnswered | with_reducible apply Kept.bump | with_reducible apply Kept.foldl
    | split

theorem Kept.qSpillOut {q'} {p'} {w} (h : Kept c p q s) (hmem : c.mem = none) (hlcs : c.lcs = none)
    (hports : c.ports = none) (hholders : c.holders = none) :
    Kept c p q (State.qSpillOut s q' p' w) := by
  dsimp only [State.qSpillOut]
  with_reducible repeat' first | assumption | apply Kept.invWriteBytes

theorem Kept.qAccess {m} {q'} {pa} {need} {k : State → State} (h : Kept c p q s)
    (hk : ∀ y0, Kept c p q y0 → Kept c p q (k y0)) (hlcs : c.lcs = none) (hports : c.ports = none)
    (hctxs : c.ctxs = none) :
    Kept c p q (State.qAccess s m q' pa need k) := by
  dsimp only [State.qAccess]
  with_reducible repeat' first | intro _ | assumption | apply hk | apply Kept.csAccess

theorem Kept.qDiscard {q'} (h : Kept c p q s) (hqueues : c.queues = none) :
    Kept c p q (State.qDiscard s q') := by
  dsimp only [State.qDiscard]
  with_reducible repeat' first
    | assumption | apply Kept.setQueue | apply Kept.setFld | apply Kept.qEvent | apply Kept.cond

theorem Kept.qmFlushW {m} {q'} (h : Kept c p q s) (hlcs : c.lcs = none) (hqueues : c.queues = none)
    (hports : c.ports = none) (hctxs : c.ctxs = none) :
    Kept c p q (State.qmFlushW s m q') := by
  dsimp only [State.qmFlushW]
  with_reducible repeat' first
    | intro _ | assumption | apply Kept.qAccess | apply Kept.respond | apply Kept.qDiscard | apply Kept.cond

theorem Kept.execQmFlush {m} {q'} (h : Kept c p q s) (hlcs : c.lcs = none) (hqueues : c.queues = none)
    (hports : c.ports = none) (hctxs : c.ctxs = none) :
    nextAll (Kept c p q) (execQmFlush m q' s) := by
  dsimp only [Machine.execQmFlush]
  with_reducible repeat' first | apply nextAll.next | assumption | apply Kept.qmFlushW

theorem Kept.qmMarkW {m} {q'} {clear} (h : Kept c p q s) (hlcs : c.lcs = none) (hqueues : c.queues = none)
    (hports : c.ports = none) (hctxs : c.ctxs = none) :
    Kept c p q (State.qmMarkW s m q' clear) := by
  dsimp only [State.qmMarkW]
  with_reducible repeat' first
    | intro _ | assumption | apply Kept.qAccess | apply Kept.respond | apply Kept.modQueue | apply Kept.cond

theorem Kept.execQmMarkClear {m} {q'} (h : Kept c p q s) (hlcs : c.lcs = none) (hqueues : c.queues = none)
    (hports : c.ports = none) (hctxs : c.ctxs = none) :
    nextAll (Kept c p q) (execQmMarkClear m q' s) := by
  dsimp only [Machine.execQmMarkClear]
  with_reducible repeat' first | apply nextAll.next | assumption | apply Kept.qmMarkW

theorem Kept.qBlockMove {q'} {toSpill} {ev} (h : Kept c p q s) (hmem : c.mem = none) (hlcs : c.lcs = none)
    (hqueues : c.queues = none) (hports : c.ports = none) (hholders : c.holders = none) :
    Kept c p q (State.qBlockMove s q' toSpill ev) := by
  dsimp only [State.qBlockMove]
  repeat' first
    | with_reducible intro _ | with_reducible assumption | with_reducible apply Kept.qReadCheck
    | with_reducible apply Kept.qSpillOut | with_reducible apply Kept.setQueue | with_reducible apply Kept.qRefill
    | with_reducible apply Kept.foldl | with_reducible apply Kept.cond | split

theorem Kept.execSpillBlockMove {q'} {toSpill} {ev} (h : Kept c p q s) (hmem : c.mem = none) (hlcs : c.lcs = none)
    (hqueues : c.queues = none) (hports : c.ports = none) (hholders : c.holders = none) :
    nextAll (Kept c p q) (execSpillBlockMove q' toSpill ev s) := by
  dsimp only [Machine.execSpillBlockMove]
  with_reducible repeat' first | apply nextAll.next | assumption | apply Kept.qBlockMove

theorem Kept.qArrive {q'} {w} (h : Kept c p q s) (hqueues : c.queues = none) :
    Kept c p q (State.qArrive s q' w) := by
  dsimp only [State.qArrive]
  with_reducible repeat' first
    | assumption | apply Kept.respond | apply Kept.modQueue | apply Kept.qOpenCloses | apply Kept.qPerform
    | apply Kept.cond

theorem Kept.qmEnqW {m} {q'} {u} {v} (h : Kept c p q s) (hlcs : c.lcs = none) (hqueues : c.queues = none)
    (hports : c.ports = none) (hctxs : c.ctxs = none) :
    Kept c p q (State.qmEnqW s m q' u v) := by
  dsimp only [State.qmEnqW]
  with_reducible repeat' first | intro _ | assumption | apply Kept.qAccess | apply Kept.qArrive

theorem Kept.execQmEnq {m} {q'} {user} {value} (h : Kept c p q s) (hlcs : c.lcs = none)
    (hqueues : c.queues = none) (hports : c.ports = none) (hctxs : c.ctxs = none) :
    nextAll (Kept c p q) (execQmEnq m q' user value s) := by
  dsimp only [Machine.execQmEnq]
  with_reducible repeat' first | apply nextAll.next | assumption | apply Kept.qmEnqW

theorem Kept.qdmaStop {c'} (h : Kept c p q s) :
    Kept c p q (State.qdmaStop s c') := by
  dsimp only [State.qdmaStop]
  with_reducible repeat' first
    | assumption | apply Kept.setFld | apply Kept.modDma | apply Kept.dropMaster | apply Kept.cond

theorem Kept.qReset {q'} (h : Kept c p q s) (hqueues : c.queues = none) (hctxs : c.ctxs = none) :
    Kept c p q (State.qReset s q') := by
  dsimp only [State.qReset]
  with_reducible repeat' first
    | intro _ | assumption | apply Kept.failHeld | apply Kept.setQueue | apply Kept.qdmaStop | apply Kept.setReg
    | apply Kept.foldl | apply Kept.cond

theorem Kept.qdmaDrain {c'} {q'} (h : Kept c p q s) (hmem : c.mem = none) (hlcs : c.lcs = none)
    (hqueues : c.queues = none) (hports : c.ports = none) (hholders : c.holders = none) (hctxs : c.ctxs = none) :
    Kept c p q (State.qdmaDrain s c' q') := by
  dsimp only [State.qdmaDrain]
  with_reducible repeat' first
    | assumption | apply Kept.freezeMaster | apply Kept.qTake | apply Kept.qdmaAdvance | apply Kept.invWriteBytes
    | apply Kept.cond

theorem Kept.qdmaFill {c'} {q'} (h : Kept c p q s) (hlcs : c.lcs = none) (hqueues : c.queues = none)
    (hports : c.ports = none) (hctxs : c.ctxs = none) :
    Kept c p q (State.qdmaFill s c' q') := by
  dsimp only [State.qdmaFill]
  with_reducible repeat' first
    | assumption | apply Kept.freezeMaster | apply Kept.modQueue | apply Kept.qdmaAdvance | apply Kept.qPerform
    | apply Kept.cond

theorem Kept.qdmaStep {c'} (h : Kept c p q s) (hmem : c.mem = none) (hlcs : c.lcs = none)
    (hqueues : c.queues = none) (hports : c.ports = none) (hholders : c.holders = none) (hctxs : c.ctxs = none) :
    Kept c p q (State.qdmaStep s c') := by
  dsimp only [State.qdmaStep]
  repeat' first
    | with_reducible intro _ | with_reducible assumption | with_reducible apply Kept.admitMaster
    | with_reducible apply Kept.qdmaDrain | with_reducible apply Kept.qdmaFill | with_reducible apply Kept.cond
    | split

theorem Kept.execQdmaRecord {c'} (h : Kept c p q s) (hmem : c.mem = none) (hlcs : c.lcs = none)
    (hqueues : c.queues = none) (hports : c.ports = none) (hholders : c.holders = none) (hctxs : c.ctxs = none) :
    nextAll (Kept c p q) (execQdmaRecord c' s) := by
  dsimp only [Machine.execQdmaRecord]
  with_reducible repeat' first | apply nextAll.next | assumption | apply Kept.qdmaStep

theorem Kept.qmCloseW {m} {q'} (h : Kept c p q s) (hlcs : c.lcs = none) (hqueues : c.queues = none)
    (hports : c.ports = none) (hctxs : c.ctxs = none) :
    Kept c p q (State.qmCloseW s m q') := by
  dsimp only [State.qmCloseW]
  with_reducible repeat' first | intro _ | assumption | apply Kept.qAccess | apply Kept.qArrive

theorem Kept.execQmClose {m} {q'} (h : Kept c p q s) (hlcs : c.lcs = none) (hqueues : c.queues = none)
    (hports : c.ports = none) (hctxs : c.ctxs = none) :
    nextAll (Kept c p q) (execQmClose m q' s) := by
  dsimp only [Machine.execQmClose]
  with_reducible repeat' first | apply nextAll.next | assumption | apply Kept.qmCloseW

theorem Kept.qmDmactlW {m} {c'} {v} (h : Kept c p q s) (hlcs : c.lcs = none) (hports : c.ports = none)
    (hctxs : c.ctxs = none) :
    Kept c p q (State.qmDmactlW s m c' v) := by
  dsimp only [State.qmDmactlW]
  repeat' first
    | with_reducible intro _ | with_reducible assumption | with_reducible apply Kept.csOpen
    | with_reducible apply Kept.setFld | with_reducible apply Kept.setDma | with_reducible apply Kept.cond | split

theorem Kept.qmOpenW {m} {q'} {v} (h : Kept c p q s) (hlcs : c.lcs = none) (hqueues : c.queues = none)
    (hports : c.ports = none) (hctxs : c.ctxs = none) :
    Kept c p q (State.qmOpenW s m q' v) := by
  dsimp only [State.qmOpenW]
  with_reducible repeat' first | intro _ | assumption | apply Kept.qAccess | apply Kept.qArrive

theorem Kept.qmRewindR {m} {q'} {ev} (h : Kept c p q s) (hlcs : c.lcs = none) (hqueues : c.queues = none)
    (hports : c.ports = none) (hctxs : c.ctxs = none) :
    Kept c p q (State.qmRewindR s m q' ev) := by
  dsimp only [State.qmRewindR]
  with_reducible repeat' first | intro _ | assumption | apply Kept.qAccess | apply Kept.qRewind

theorem Kept.execQmRewind {m} {q'} {ev} (h : Kept c p q s) (hlcs : c.lcs = none) (hqueues : c.queues = none)
    (hports : c.ports = none) (hctxs : c.ctxs = none) :
    nextAll (Kept c p q) (execQmRewind m q' ev s) := by
  dsimp only [Machine.execQmRewind]
  with_reducible repeat' first | apply nextAll.next | assumption | apply Kept.qmRewindR

theorem Kept.qmDeqR {m} {q'} {ev} (h : Kept c p q s) (hlcs : c.lcs = none) (hqueues : c.queues = none)
    (hports : c.ports = none) (hctxs : c.ctxs = none) :
    Kept c p q (State.qmDeqR s m q' ev) := by
  dsimp only [State.qmDeqR]
  with_reducible repeat' first | intro _ | assumption | apply Kept.qAccess | apply Kept.qDeq

theorem Kept.execQmDeq {m} {q'} {ev} (h : Kept c p q s) (hlcs : c.lcs = none) (hqueues : c.queues = none)
    (hports : c.ports = none) (hctxs : c.ctxs = none) :
    nextAll (Kept c p q) (execQmDeq m q' ev s) := by
  dsimp only [Machine.execQmDeq]
  with_reducible repeat' first | apply nextAll.next | assumption | apply Kept.qmDeqR

theorem Kept.execQmOpen {m} {q'} {value} (h : Kept c p q s) (hlcs : c.lcs = none) (hqueues : c.queues = none)
    (hports : c.ports = none) (hctxs : c.ctxs = none) :
    nextAll (Kept c p q) (execQmOpen m q' value s) := by
  dsimp only [Machine.execQmOpen]
  with_reducible repeat' first | apply nextAll.next | assumption | apply Kept.qmOpenW

theorem Kept.execQmMarkSet {m} {q'} (h : Kept c p q s) (hlcs : c.lcs = none) (hqueues : c.queues = none)
    (hports : c.ports = none) (hctxs : c.ctxs = none) :
    nextAll (Kept c p q) (execQmMarkSet m q' s) := by
  dsimp only [Machine.execQmMarkSet]
  with_reducible repeat' first | apply nextAll.next | assumption | apply Kept.qmMarkW

theorem Kept.qAbortMaster {m} (h : Kept c p q s) (hqueues : c.queues = none) :
    Kept c p q (State.qAbortMaster s m) := by
  dsimp only [State.qAbortMaster]
  repeat' first
    | with_reducible intro _ | with_reducible assumption | with_reducible apply Kept.qForget
    | with_reducible apply Kept.qClose | with_reducible apply Kept.foldl | split

theorem Kept.abortPackets {m} (h : Kept c p q s) (hqueues : c.queues = none) :
    Kept c p q (State.abortPackets s m) := by
  dsimp only [State.abortPackets]
  repeat' first
    | with_reducible intro _ | with_reducible assumption | with_reducible apply Kept.qEvent
    | with_reducible apply Kept.qAbortMaster | with_reducible apply Kept.foldl | split

theorem Kept.qmResetW {m} {q'} (h : Kept c p q s) (hlcs : c.lcs = none) (hqueues : c.queues = none)
    (hports : c.ports = none) (hctxs : c.ctxs = none) :
    Kept c p q (State.qmResetW s m q') := by
  dsimp only [State.qmResetW]
  with_reducible repeat' first | intro _ | assumption | apply Kept.qAccess | apply Kept.qReset | apply Kept.respond

theorem Kept.execQmReset {m} {q'} (h : Kept c p q s) (hlcs : c.lcs = none) (hqueues : c.queues = none)
    (hports : c.ports = none) (hctxs : c.ctxs = none) :
    nextAll (Kept c p q) (execQmReset m q' s) := by
  dsimp only [Machine.execQmReset]
  with_reducible repeat' first | apply nextAll.next | assumption | apply Kept.qmResetW

theorem Kept.execQmDmaStart {m} {c'} {value} (h : Kept c p q s) (hlcs : c.lcs = none) (hports : c.ports = none)
    (hctxs : c.ctxs = none) :
    nextAll (Kept c p q) (execQmDmaStart m c' value s) := by
  dsimp only [Machine.execQmDmaStart]
  with_reducible repeat' first | apply nextAll.next | assumption | apply Kept.qmDmactlW

theorem Kept.qmQcfgW {m} {q'} {v} (h : Kept c p q s) (hlcs : c.lcs = none) (hqueues : c.queues = none)
    (hports : c.ports = none) (hctxs : c.ctxs = none) :
    Kept c p q (State.qmQcfgW s m q' v) := by
  dsimp only [State.qmQcfgW]
  with_reducible repeat' first
    | intro _ | assumption | apply Kept.qAccess | apply Kept.respond | apply Kept.setFld | apply Kept.failHeld
    | apply Kept.qDiscard | apply Kept.modQueue | apply Kept.setReg | apply Kept.cond

theorem Kept.execQmQcfgWrite {m} {q'} {value} (h : Kept c p q s) (hlcs : c.lcs = none) (hqueues : c.queues = none)
    (hports : c.ports = none) (hctxs : c.ctxs = none) :
    nextAll (Kept c p q) (execQmQcfgWrite m q' value s) := by
  dsimp only [Machine.execQmQcfgWrite]
  with_reducible repeat' first | apply nextAll.next | assumption | apply Kept.qmQcfgW

theorem Kept.storeRec {n} {t} {r} (h : Kept c p q s) (hscs : c.scs = none) :
    Kept c p q (State.storeRec s n t r) := by
  dsimp only [State.storeRec]
  with_reducible repeat' first | assumption | apply Kept.modSc | apply Kept.cond

theorem Kept.storeBoth {n} {r} (h : Kept c p q s) (hscs : c.scs = none) :
    Kept c p q (State.storeBoth s n r) := by
  dsimp only [State.storeBoth]
  with_reducible repeat' first | assumption | apply Kept.storeRec

theorem Kept.refreshStandby {n} (h : Kept c p q s) (hscs : c.scs = none) :
    Kept c p q (State.refreshStandby s n) := by
  dsimp only [State.refreshStandby]
  repeat' first
    | with_reducible assumption | with_reducible apply Kept.setSc | with_reducible apply Kept.modSc
    | with_reducible apply Kept.storeBoth | with_reducible apply Kept.cond | split

theorem Kept.refreshStandbys (h : Kept c p q s) (hscs : c.scs = none) :
    Kept c p q (State.refreshStandbys s) := by
  dsimp only [State.refreshStandbys]
  with_reducible repeat' first | intro _ | assumption | apply Kept.refreshStandby | apply Kept.foldl

theorem Kept.scRaise {n} {event} (h : Kept c p q s) :
    Kept c p q (State.scRaise s n event) := by
  dsimp only [State.scRaise]
  with_reducible repeat' first | assumption | apply Kept.raiseOwned

theorem Kept.mirror {n} {kind} {code} (h : Kept c p q s) (hscs : c.scs = none) :
    Kept c p q (State.mirror s n kind code) := by
  dsimp only [State.mirror]
  repeat' first
    | with_reducible assumption | with_reducible apply Kept.modSc | with_reducible apply Kept.storeBoth | split

theorem Kept.chFault {n} {e} {kind} {cls} (h : Kept c p q s) :
    Kept c p q (State.chFault s n e kind cls) := by
  dsimp only [State.chFault]
  with_reducible repeat' first | assumption | apply Kept.report

theorem Kept.endList {n} {code} (h : Kept c p q s) (hscs : c.scs = none) :
    Kept c p q (State.endList s n code) := by
  dsimp only [State.endList]
  with_reducible repeat' first | assumption | apply Kept.setSc | apply Kept.chFault | apply Kept.cond

theorem Kept.clearAtGrant {n} (h : Kept c p q s) (hscs : c.scs = none) :
    Kept c p q (State.clearAtGrant s n) := by
  dsimp only [State.clearAtGrant]
  with_reducible repeat' first | assumption | apply Kept.endList | apply Kept.cond

theorem Kept.resumeFrom {n} {r} (h : Kept c p q s) (hscs : c.scs = none) :
    Kept c p q (State.resumeFrom s n r) := by
  dsimp only [State.resumeFrom]
  repeat' first
    | with_reducible assumption | with_reducible apply Kept.setFld | with_reducible apply Kept.setSc | split

theorem Kept.grantTo {n} {e} (h : Kept c p q s) (hscs : c.scs = none) :
    Kept c p q (State.grantTo s n e) := by
  dsimp only [State.grantTo]
  repeat' first
    | with_reducible assumption | with_reducible apply Kept.bump | with_reducible apply Kept.setFld
    | with_reducible apply Kept.modSc | with_reducible apply Kept.resumeFrom
    | with_reducible apply Kept.refreshStandby | with_reducible apply Kept.chFault | with_reducible apply Kept.cond
    | split

theorem Kept.grantClaim {n} {e} (h : Kept c p q s) (hscs : c.scs = none) :
    Kept c p q (State.grantClaim s n e) := by
  dsimp only [State.grantClaim]
  with_reducible repeat' first | assumption | apply Kept.clearAtGrant | apply Kept.grantTo

theorem Kept.peWait {n} {e} (h : Kept c p q s) :
    Kept c p q (State.peWait s n e) := by
  dsimp only [State.peWait]
  with_reducible repeat' first | assumption | apply Kept.modPe

theorem Kept.dropExchanges (h : Kept c p q s) (hscs : c.scs = none) :
    Kept c p q (State.dropExchanges s) := by
  dsimp only [State.dropExchanges]
  with_reducible repeat' first | assumption | apply Kept.at_scs

theorem Kept.claimRequest {n} {e} (h : Kept c p q s) (hscs : c.scs = none) :
    Kept c p q (State.claimRequest s n e) := by
  dsimp only [State.claimRequest]
  repeat' first
    | with_reducible assumption | with_reducible apply Kept.grantClaim | with_reducible apply Kept.setSc
    | with_reducible apply Kept.cond | split

theorem Kept.startRevert {n} {k} (h : Kept c p q s) (hscs : c.scs = none) :
    Kept c p q (State.startRevert s n k) := by
  dsimp only [State.startRevert]
  with_reducible repeat' first | assumption | apply Kept.modSc | apply Kept.storeRec

theorem Kept.askClaim {n} {k} (h : Kept c p q s) (hscs : c.scs = none) :
    Kept c p q (State.askClaim s n k) := by
  dsimp only [State.askClaim]
  with_reducible repeat' first | assumption | apply Kept.modSc

theorem Kept.pathsGained {n} (h : Kept c p q s) (hscs : c.scs = none) :
    Kept c p q (State.pathsGained s n) := by
  dsimp only [State.pathsGained]
  repeat' first
    | with_reducible assumption | with_reducible apply Kept.askClaim | with_reducible apply Kept.setSc
    | with_reducible apply Kept.refreshStandby | with_reducible apply Kept.startRevert
    | with_reducible apply Kept.cond | split

theorem Kept.park {n} {cause} (h : Kept c p q s) (hscs : c.scs = none) :
    Kept c p q (State.park s n cause) := by
  dsimp only [State.park]
  with_reducible repeat' first
    | assumption | apply Kept.modSc | apply Kept.storeBoth | apply Kept.scRaise | apply Kept.bump
    | apply Kept.chFault | apply Kept.cond

theorem Kept.portPathsGained {p'} (h : Kept c p q s) (hscs : c.scs = none) :
    Kept c p q (State.portPathsGained s p') := by
  dsimp only [State.portPathsGained]
  with_reducible repeat' first | intro _ | assumption | apply Kept.pathsGained | apply Kept.foldl

theorem Kept.takeOver {n} (h : Kept c p q s) (hscs : c.scs = none) :
    Kept c p q (State.takeOver s n) := by
  dsimp only [State.takeOver]
  repeat' first
    | with_reducible assumption | with_reducible apply Kept.endList | with_reducible apply Kept.park
    | with_reducible apply Kept.setSc | with_reducible apply Kept.askClaim | with_reducible apply Kept.modSc
    | with_reducible apply Kept.storeRec | with_reducible apply Kept.cond | split

theorem Kept.pathFail {n} {k} (h : Kept c p q s) (hscs : c.scs = none) :
    Kept c p q (State.pathFail s n k) := by
  dsimp only [State.pathFail]
  with_reducible repeat' first
    | assumption | apply Kept.setSc | apply Kept.takeOver | apply Kept.modSc | apply Kept.pathsGained
    | apply Kept.refreshStandby | apply Kept.cond

theorem Kept.portActiveFail {p'} (h : Kept c p q s) (hscs : c.scs = none) :
    Kept c p q (State.portActiveFail s p') := by
  dsimp only [State.portActiveFail]
  with_reducible repeat' first | intro _ | assumption | apply Kept.pathFail | apply Kept.foldl | apply Kept.cond

theorem Kept.peLeave {n} {e} (h : Kept c p q s) :
    Kept c p q (State.peLeave s n e) := by
  dsimp only [State.peLeave]
  with_reducible repeat' first | assumption | apply Kept.modPe | apply Kept.cond

theorem Kept.portPathsFail {p'} (h : Kept c p q s) (hscs : c.scs = none) :
    Kept c p q (State.portPathsFail s p') := by
  dsimp only [State.portPathsFail]
  with_reducible repeat' first | intro _ | assumption | apply Kept.pathFail | apply Kept.foldl

theorem Kept.peFail {e} (h : Kept c p q s) (hscs : c.scs = none) :
    Kept c p q (State.peFail s e) := by
  dsimp only [State.peFail]
  with_reducible repeat' first
    | intro _ | assumption | apply Kept.report | apply Kept.modPe | apply Kept.portPathsFail | apply Kept.foldl
    | apply Kept.cond

theorem Kept.complEnqueue {n} {b} {code} (h : Kept c p q s) (hqueues : c.queues = none) :
    Kept c p q (State.complEnqueue s n b code) := by
  dsimp only [State.complEnqueue]
  repeat' first
    | with_reducible assumption | with_reducible apply Kept.bump | with_reducible apply Kept.qArrive
    | with_reducible apply Kept.cond | split

theorem Kept.acceptCompletion {n} {code} {indoubt} (h : Kept c p q s) (hmem : c.mem = none) (hlcs : c.lcs = none)
    (hqueues : c.queues = none) (hscs : c.scs = none) (hports : c.ports = none) (hholders : c.holders = none) :
    Kept c p q (State.acceptCompletion s n code indoubt) := by
  dsimp only [State.acceptCompletion]
  repeat' first
    | with_reducible assumption | with_reducible apply Kept.setFld | with_reducible apply Kept.invWriteBytes
    | with_reducible apply Kept.bump | with_reducible apply Kept.complEnqueue | with_reducible apply Kept.modSc
    | with_reducible apply Kept.scRaise | with_reducible apply Kept.mirror | with_reducible apply Kept.cond | split

theorem Kept.unquiesce (h : Kept c p q s) (hlcs : c.lcs = none) :
    Kept c p q (State.unquiesce s) := by
  dsimp only [State.unquiesce]
  with_reducible repeat' first | assumption | apply Kept.at_lcs

theorem Kept.ksResult {r} (h : Kept c p q s) :
    Kept c p q (State.ksResult s r) := by
  dsimp only [State.ksResult]
  with_reducible repeat' first | assumption | apply Kept.setFld

theorem Kept.changeMode {m} (h : Kept c p q s) (hkeeper : c.keeper = none) :
    Kept c p q (State.changeMode s m) := by
  dsimp only [State.changeMode]
  with_reducible repeat' first
    | assumption | apply Kept.setFld | apply Kept.report | apply Kept.cond | apply Kept.at_keeper

theorem Kept.dramRest (h : Kept c p q s) :
    Kept c p q (State.dramRest s) := by
  dsimp only [State.dramRest]
  with_reducible repeat' first | assumption | apply Kept.other

theorem Kept.enterHold (h : Kept c p q s) (hkeeper : c.keeper = none) (hloader : c.loader = none)
    (hlcs : c.lcs = none) (hscs : c.scs = none) :
    Kept c p q (State.enterHold s) := by
  dsimp only [State.enterHold]
  repeat' first
    | with_reducible assumption | with_reducible apply Kept.unquiesce | with_reducible apply Kept.ksResult
    | with_reducible apply Kept.setFld | with_reducible apply Kept.changeMode | with_reducible apply Kept.dramRest
    | with_reducible apply Kept.dropExchanges | split | with_reducible apply Kept.at_keeper
    | with_reducible apply Kept.at_loader

theorem Kept.settleMode (h : Kept c p q s) (hkeeper : c.keeper = none) (hloader : c.loader = none)
    (hlcs : c.lcs = none) (hscs : c.scs = none) :
    Kept c p q (State.settleMode s) := by
  dsimp only [State.settleMode]
  repeat' first
    | with_reducible assumption | with_reducible apply Kept.enterHold | with_reducible apply Kept.changeMode
    | with_reducible apply Kept.cond | split | with_reducible apply Kept.at_keeper

theorem Kept.beginPowerDown {restart} (h : Kept c p q s) (hkeeper : c.keeper = none) :
    Kept c p q (State.beginPowerDown s restart) := by
  dsimp only [State.beginPowerDown]
  with_reducible repeat' first | assumption | apply Kept.dramRest | apply Kept.at_keeper

end Sys2Proof.Machine
end

