-- ==== Sys2Proof/Laws/KeptChannel.lean ====
section
/-! SUPPORT. What an operation of the channel subsystem and the ports keeps (Laws/Kept.lean):
one lemma for each operation. -/

namespace Sys2Proof.Machine

variable {c : Track} {p : List Instr} {q : Fuses} {s : State}

theorem Kept.heartbeat {e} (h : Kept c p q s) (hscs : c.scs = none) :
    Kept c p q (State.heartbeat s e) := by
  dsimp only [State.heartbeat]
  with_reducible repeat' first | assumption | apply Kept.at_scs

theorem Kept.takeFrame {p'} {f} (h : Kept c p q s) (hports : c.ports = none) :
    Kept c p q (State.takeFrame s p' f) := by
  dsimp only [State.takeFrame]
  with_reducible repeat' first | assumption | apply Kept.modPort

theorem Kept.onExchange {p'} {f} {k : State → Sc → Exchange → State} (h : Kept c p q s)
    (hk : ∀ y0 y1 y2, Kept c p q y0 → Kept c p q (k y0 y1 y2)) (hscs : c.scs = none) (hports : c.ports = none) :
    Kept c p q (State.onExchange s p' f k) := by
  dsimp only [State.onExchange]
  repeat' first
    | with_reducible assumption | with_reducible apply hk | with_reducible apply Kept.takeFrame
    | with_reducible apply Kept.endList | with_reducible apply Kept.cond | split

theorem Kept.onNotEstablished {p'} {f} (h : Kept c p q s) (hscs : c.scs = none) (hports : c.ports = none) :
    Kept c p q (State.onNotEstablished s p' f) := by
  dsimp only [State.onNotEstablished]
  with_reducible repeat' first | intro _ | assumption | apply Kept.onExchange | apply Kept.endList | apply Kept.modSc

theorem Kept.execNotEstablished {p'} {f} (h : Kept c p q s) (hscs : c.scs = none) (hports : c.ports = none) :
    nextAll (Kept c p q) (execNotEstablished p' f s) := by
  dsimp only [Machine.execNotEstablished]
  with_reducible repeat' first | apply nextAll.next | assumption | apply Kept.onNotEstablished | apply Kept.cond

theorem Kept.scatterWrite {e} {x3} {x4} (h : Kept c p q s) (hmem : c.mem = none) (hlcs : c.lcs = none)
    (hports : c.ports = none) (hholders : c.holders = none) :
    Kept c p q (State.scatterWrite s e x3 x4) := by
  induction x3 generalizing s x4 with
  | nil => exact h
  | cons a t ih =>
    dsimp only [State.scatterWrite]
    with_reducible repeat' first | assumption | apply ih | apply Kept.invWriteBytes

theorem Kept.onData {p'} {f} (h : Kept c p q s) (hmem : c.mem = none) (hlcs : c.lcs = none) (hscs : c.scs = none)
    (hports : c.ports = none) (hholders : c.holders = none) (hctxs : c.ctxs = none) :
    Kept c p q (State.onData s p' f) := by
  dsimp only [State.onData]
  repeat' first
    | with_reducible intro _ | with_reducible assumption | with_reducible apply Kept.onExchange
    | with_reducible apply Kept.endList | with_reducible apply Kept.freezeMaster | with_reducible apply Kept.modSc
    | with_reducible apply Kept.scatterWrite | with_reducible apply Kept.cond | split

theorem Kept.mirrorAck {n} (h : Kept c p q s) (hscs : c.scs = none) :
    Kept c p q (State.mirrorAck s n) := by
  dsimp only [State.mirrorAck]
  with_reducible repeat' first | assumption | apply Kept.modSc | apply Kept.cond

theorem Kept.revocationTimeout {n} (h : Kept c p q s) (hscs : c.scs = none) :
    Kept c p q (State.revocationTimeout s n) := by
  dsimp only [State.revocationTimeout]
  repeat' first
    | with_reducible assumption | with_reducible apply Kept.grantClaim | with_reducible apply Kept.peFail
    | with_reducible apply Kept.setSc | with_reducible apply Kept.cond | split

theorem Kept.onEnd {p'} {f} (h : Kept c p q s) (hscs : c.scs = none) (hports : c.ports = none) :
    Kept c p q (State.onEnd s p' f) := by
  dsimp only [State.onEnd]
  repeat' first
    | with_reducible intro _ | with_reducible assumption | with_reducible apply Kept.onExchange
    | with_reducible apply Kept.bump | with_reducible apply Kept.setSc | with_reducible apply Kept.endList
    | with_reducible apply Kept.setFld | with_reducible apply Kept.mirror | with_reducible apply Kept.cond | split

theorem Kept.execEndFrame {p'} {f} (h : Kept c p q s) (hscs : c.scs = none) (hports : c.ports = none) :
    nextAll (Kept c p q) (execEndFrame p' f s) := by
  dsimp only [Machine.execEndFrame]
  with_reducible repeat' first | apply nextAll.next | assumption | apply Kept.onEnd | apply Kept.cond

theorem Kept.beginList {n} (h : Kept c p q s) (hscs : c.scs = none) :
    Kept c p q (State.beginList s n) := by
  dsimp only [State.beginList]
  repeat' first
    | with_reducible assumption | with_reducible apply Kept.park | with_reducible apply Kept.refreshStandby
    | with_reducible apply Kept.setSc | with_reducible apply Kept.mirror | with_reducible apply Kept.startRevert
    | with_reducible apply Kept.askClaim | with_reducible apply Kept.cond | split

theorem Kept.completionPost {n} (h : Kept c p q s) (hmem : c.mem = none) (hlcs : c.lcs = none)
    (hqueues : c.queues = none) (hscs : c.scs = none) (hports : c.ports = none) (hholders : c.holders = none) :
    Kept c p q (State.completionPost s n) := by
  dsimp only [State.completionPost]
  repeat' first
    | with_reducible intro _ | with_reducible assumption | with_reducible apply Kept.admitMaster
    | with_reducible apply Kept.acceptCompletion | with_reducible apply Kept.pathsGained
    | with_reducible apply Kept.cond | split

theorem Kept.execCompletionPost {sc} (h : Kept c p q s) (hmem : c.mem = none) (hlcs : c.lcs = none)
    (hqueues : c.queues = none) (hscs : c.scs = none) (hports : c.ports = none) (hholders : c.holders = none) :
    nextAll (Kept c p q) (execCompletionPost sc s) := by
  dsimp only [Machine.execCompletionPost]
  with_reducible repeat' first | apply nextAll.next | assumption | apply Kept.completionPost

theorem Kept.sendExchange {n} {_e} {p'} {k} {addr} {bs} {elems} (h : Kept c p q s) (hscs : c.scs = none)
    (hports : c.ports = none) :
    Kept c p q (State.sendExchange s n _e p' k addr bs elems) := by
  dsimp only [State.sendExchange]
  with_reducible repeat' first | assumption | apply Kept.sendSeq | apply Kept.modSc

theorem Kept.evalOrders {n} {e} {p'} {k} {x6} (h : Kept c p q s) (hlcs : c.lcs = none) (hscs : c.scs = none)
    (hports : c.ports = none) (hctxs : c.ctxs = none) :
    Kept c p q (State.evalOrders s n e p' k x6) := by
  induction x6 generalizing s with
  | zero => dsimp only [State.evalOrders]; exact Kept.endList h hscs
  | succ n ih =>
    dsimp only [State.evalOrders]
    repeat' first
      | with_reducible intro _ | with_reducible assumption | with_reducible apply ih
      | with_reducible apply Kept.endList | with_reducible apply Kept.admitMaster | with_reducible apply Kept.freezeMaster
      | with_reducible apply Kept.setSc | with_reducible apply Kept.sendExchange | with_reducible apply Kept.cond
      | split

theorem Kept.orderEvaluation {n} (h : Kept c p q s) (hlcs : c.lcs = none) (hscs : c.scs = none)
    (hports : c.ports = none) (hctxs : c.ctxs = none) :
    Kept c p q (State.orderEvaluation s n) := by
  dsimp only [State.orderEvaluation]
  repeat' first
    | with_reducible assumption | with_reducible apply Kept.takeOver | with_reducible apply Kept.peWait
    | with_reducible apply Kept.peLeave | with_reducible apply Kept.sendSeq | with_reducible apply Kept.setSc
    | with_reducible apply Kept.evalOrders | with_reducible apply Kept.cond | split

theorem Kept.setMirror {b} (h : Kept c p q s) :
    Kept c p q (State.setMirror s b) := by
  dsimp only [State.setMirror]
  with_reducible repeat' first | assumption | apply Kept.other

theorem Kept.mirrorLink {pair} {up} (h : Kept c p q s) (hscs : c.scs = none) :
    Kept c p q (State.mirrorLink s pair up) := by
  dsimp only [State.mirrorLink]
  with_reducible repeat' first
    | assumption | apply Kept.refreshStandbys | apply Kept.setMirror | apply Kept.report | apply Kept.cond

theorem Kept.parkExpiry {n} (h : Kept c p q s) (hmem : c.mem = none) (hlcs : c.lcs = none)
    (hqueues : c.queues = none) (hscs : c.scs = none) (hports : c.ports = none) (hholders : c.holders = none) :
    Kept c p q (State.parkExpiry s n) := by
  dsimp only [State.parkExpiry]
  with_reducible repeat' first
    | intro _ | assumption | apply Kept.admitMaster | apply Kept.chFault | apply Kept.acceptCompletion | apply Kept.setSc
    | apply Kept.cond

theorem Kept.execParkExpiry {sc} (h : Kept c p q s) (hmem : c.mem = none) (hlcs : c.lcs = none)
    (hqueues : c.queues = none) (hscs : c.scs = none) (hports : c.ports = none) (hholders : c.holders = none) :
    nextAll (Kept c p q) (execParkExpiry sc s) := by
  dsimp only [Machine.execParkExpiry]
  with_reducible repeat' first | apply nextAll.next | assumption | apply Kept.parkExpiry

theorem Kept.execDataFrame {p'} {f} (h : Kept c p q s) (hkeeper : c.keeper = none) (hloader : c.loader = none)
    (hmem : c.mem = none) (hlcs : c.lcs = none) (hscs : c.scs = none) (hports : c.ports = none)
    (hholders : c.holders = none) (hctxs : c.ctxs = none) :
    nextAll (Kept c p q) (execDataFrame p' f s) := by
  dsimp only [Machine.execDataFrame]
  repeat' first
    | with_reducible apply nextAll.next | with_reducible intro _ | with_reducible assumption
    | with_reducible apply Kept.admitMaster | with_reducible apply Kept.settleMode | with_reducible apply Kept.onData
    | with_reducible apply Kept.cond | split

theorem Kept.onEstablished {p'} {f} (h : Kept c p q s) (hscs : c.scs = none) (hports : c.ports = none) :
    Kept c p q (State.onEstablished s p' f) := by
  dsimp only [State.onEstablished]
  with_reducible repeat' first
    | intro _ | assumption | apply Kept.onExchange | apply Kept.endList | apply Kept.modSc | apply Kept.cond

theorem Kept.execEstablishedFrame {p'} {f} (h : Kept c p q s) (hscs : c.scs = none) (hports : c.ports = none) :
    nextAll (Kept c p q) (execEstablishedFrame p' f s) := by
  dsimp only [Machine.execEstablishedFrame]
  with_reducible repeat' first | apply nextAll.next | assumption | apply Kept.onEstablished | apply Kept.cond

theorem Kept.revocationAck {n} (h : Kept c p q s) (hscs : c.scs = none) :
    Kept c p q (State.revocationAck s n) := by
  dsimp only [State.revocationAck]
  repeat' first
    | with_reducible assumption | with_reducible apply Kept.grantClaim | with_reducible apply Kept.setSc
    | with_reducible apply Kept.cond | split

theorem Kept.execRevocationAck {sc} (h : Kept c p q s) (hscs : c.scs = none) :
    nextAll (Kept c p q) (execRevocationAck sc s) := by
  dsimp only [Machine.execRevocationAck]
  with_reducible repeat' first | apply nextAll.next | assumption | apply Kept.revocationAck

theorem Kept.onSeqError {p'} {f} (h : Kept c p q s) (hscs : c.scs = none) (hports : c.ports = none) :
    Kept c p q (State.onSeqError s p' f) := by
  dsimp only [State.onSeqError]
  with_reducible repeat' first | intro _ | assumption | apply Kept.onExchange | apply Kept.endList | apply Kept.modSc

theorem Kept.holdoffExpiry {n} {k} (h : Kept c p q s) (hscs : c.scs = none) :
    Kept c p q (State.holdoffExpiry s n k) := by
  dsimp only [State.holdoffExpiry]
  with_reducible repeat' first | assumption | apply Kept.pathsGained | apply Kept.modSc | apply Kept.cond

theorem Kept.execPathHoldoffExpiry {sc} {path} (h : Kept c p q s) (hkeeper : c.keeper = none)
    (hloader : c.loader = none) (hlcs : c.lcs = none) (hscs : c.scs = none) :
    nextAll (Kept c p q) (execPathHoldoffExpiry sc path s) := by
  dsimp only [Machine.execPathHoldoffExpiry]
  with_reducible repeat' first | apply nextAll.next | assumption | apply Kept.settleMode | apply Kept.holdoffExpiry

theorem Kept.scWaits {m} {n} {pa} {rs : State → List Reach} {k : State → State} (h : Kept c p q s)
    (hk : ∀ y0, Kept c p q y0 → Kept c p q (k y0)) (hlcs : c.lcs = none) (hports : c.ports = none)
    (hctxs : c.ctxs = none) :
    Kept c p q (State.scWaits s m n pa rs k) := by
  dsimp only [State.scWaits]
  with_reducible repeat' first
    | intro _ | assumption | apply hk | apply Kept.csAccess | apply Kept.admitMaster | apply Kept.respond

theorem Kept.scStartW {m} {n} {pa} {v} (h : Kept c p q s) (hlcs : c.lcs = none) (hscs : c.scs = none)
    (hports : c.ports = none) (hctxs : c.ctxs = none) :
    Kept c p q (State.scStartW s m n pa v) := by
  dsimp only [State.scStartW]
  repeat' first
    | with_reducible intro _ | with_reducible assumption | with_reducible apply Kept.scWaits
    | with_reducible apply Kept.setFld | with_reducible apply Kept.beginList | with_reducible apply Kept.setSc
    | with_reducible apply Kept.cond | split

theorem Kept.execScStart {m} {sc} {value} (h : Kept c p q s) (hlcs : c.lcs = none) (hscs : c.scs = none)
    (hports : c.ports = none) (hctxs : c.ctxs = none) :
    nextAll (Kept c p q) (execScStart m sc value s) := by
  dsimp only [Machine.execScStart]
  with_reducible repeat' first | apply nextAll.next | assumption | apply Kept.scStartW

theorem Kept.execMirrorLinkDown {pair} (h : Kept c p q s) (hscs : c.scs = none) :
    nextAll (Kept c p q) (execMirrorLinkDown pair s) := by
  dsimp only [Machine.execMirrorLinkDown]
  with_reducible repeat' first | apply nextAll.next | assumption | apply Kept.mirrorLink

theorem Kept.orderTimeout {n} (h : Kept c p q s) (hscs : c.scs = none) :
    Kept c p q (State.orderTimeout s n) := by
  dsimp only [State.orderTimeout]
  repeat' first | with_reducible assumption | with_reducible apply Kept.pathFail | split

theorem Kept.scClearNow {n} (h : Kept c p q s) (hmem : c.mem = none) (hlcs : c.lcs = none)
    (hqueues : c.queues = none) (hscs : c.scs = none) (hports : c.ports = none) (hholders : c.holders = none) :
    Kept c p q (State.scClearNow s n) := by
  dsimp only [State.scClearNow]
  repeat' first
    | with_reducible assumption | with_reducible apply Kept.acceptCompletion | with_reducible apply Kept.setSc
    | with_reducible apply Kept.endList | with_reducible apply Kept.cond | split

theorem Kept.scCtlW {m} {n} {pa} {v} (h : Kept c p q s) (hmem : c.mem = none) (hlcs : c.lcs = none)
    (hqueues : c.queues = none) (hscs : c.scs = none) (hports : c.ports = none) (hholders : c.holders = none)
    (hctxs : c.ctxs = none) :
    Kept c p q (State.scCtlW s m n pa v) := by
  dsimp only [State.scCtlW]
  with_reducible repeat' first
    | intro _ | assumption | apply Kept.scWaits | apply Kept.setFld | apply Kept.scClearNow | apply Kept.cond

theorem Kept.execClaimRequest {sc} {e} (h : Kept c p q s) (hscs : c.scs = none) :
    nextAll (Kept c p q) (execClaimRequest sc e s) := by
  dsimp only [Machine.execClaimRequest]
  with_reducible repeat' first | apply nextAll.next | assumption | apply Kept.claimRequest

theorem Kept.mirrorRecord {n} {r} {check} (h : Kept c p q s) (hscs : c.scs = none) :
    Kept c p q (State.mirrorRecord s n r check) := by
  dsimp only [State.mirrorRecord]
  repeat' first
    | with_reducible assumption | with_reducible apply Kept.modSc | with_reducible apply Kept.storeRec
    | with_reducible apply Kept.cond | split

theorem Kept.execMirrorRecord {sc} {r} {check} (h : Kept c p q s) (hscs : c.scs = none) :
    nextAll (Kept c p q) (execMirrorRecord sc r check s) := by
  dsimp only [Machine.execMirrorRecord]
  with_reducible repeat' first | apply nextAll.next | assumption | apply Kept.mirrorRecord

theorem Kept.scAccess {m} {n} {pa} {k : State → State} (h : Kept c p q s) (hk : ∀ y0, Kept c p q y0 → Kept c p q
    (k y0)) (hlcs : c.lcs = none) (hports : c.ports = none) (hctxs : c.ctxs = none) :
    Kept c p q (State.scAccess s m n pa k) := by
  dsimp only [State.scAccess]
  with_reducible repeat' first | intro _ | assumption | apply hk | apply Kept.csAccess | apply Kept.respond

theorem Kept.handover {n} (h : Kept c p q s) (hscs : c.scs = none) :
    Kept c p q (State.handover s n) := by
  dsimp only [State.handover]
  repeat' first
    | with_reducible assumption | with_reducible apply Kept.askClaim | with_reducible apply Kept.cond | split

theorem Kept.execHandover {sc} (h : Kept c p q s) (hscs : c.scs = none) :
    nextAll (Kept c p q) (execHandover sc s) := by
  dsimp only [Machine.execHandover]
  with_reducible repeat' first | apply nextAll.next | assumption | apply Kept.handover

theorem Kept.onUnknown {p'} {f} (h : Kept c p q s) (hscs : c.scs = none) (hports : c.ports = none) :
    Kept c p q (State.onUnknown s p' f) := by
  dsimp only [State.onUnknown]
  with_reducible repeat' first | intro _ | assumption | apply Kept.onExchange | apply Kept.endList

theorem Kept.execSeqError {p'} {f} (h : Kept c p q s) (hscs : c.scs = none) (hports : c.ports = none) :
    nextAll (Kept c p q) (execSeqError p' f s) := by
  dsimp only [Machine.execSeqError]
  with_reducible repeat' first | apply nextAll.next | assumption | apply Kept.onSeqError | apply Kept.cond

theorem Kept.scPathsW {m} {n} {pa} {v} (h : Kept c p q s) (hlcs : c.lcs = none) (hports : c.ports = none)
    (hctxs : c.ctxs = none) :
    Kept c p q (State.scPathsW s m n pa v) := by
  dsimp only [State.scPathsW]
  with_reducible repeat' first | intro _ | assumption | apply Kept.scAccess | apply Kept.setReg | apply Kept.cond

theorem Kept.scCfgW {m} {n} {pa} {v} (h : Kept c p q s) (hmem : c.mem = none) (hlcs : c.lcs = none)
    (hqueues : c.queues = none) (hscs : c.scs = none) (hports : c.ports = none) (hholders : c.holders = none)
    (hctxs : c.ctxs = none) :
    Kept c p q (State.scCfgW s m n pa v) := by
  dsimp only [State.scCfgW]
  with_reducible repeat' first
    | intro _ | assumption | apply Kept.scWaits | apply Kept.pathsGained | apply Kept.setFld | apply Kept.scClearNow
    | apply Kept.modSc | apply Kept.setReg | apply Kept.cond

theorem Kept.onStale {p'} {f} (h : Kept c p q s) (hscs : c.scs = none) (hports : c.ports = none) :
    Kept c p q (State.onStale s p' f) := by
  dsimp only [State.onStale]
  with_reducible repeat' first | intro _ | assumption | apply Kept.onExchange | apply Kept.chFault | apply Kept.modSc

theorem Kept.execOrderEvaluation {sc} (h : Kept c p q s) (hkeeper : c.keeper = none) (hloader : c.loader = none)
    (hlcs : c.lcs = none) (hscs : c.scs = none) (hports : c.ports = none) (hctxs : c.ctxs = none) :
    nextAll (Kept c p q) (execOrderEvaluation sc s) := by
  dsimp only [Machine.execOrderEvaluation]
  with_reducible repeat' first | apply nextAll.next | assumption | apply Kept.settleMode | apply Kept.orderEvaluation

theorem Kept.heartbeatTimeout {n} (h : Kept c p q s) (hscs : c.scs = none) :
    Kept c p q (State.heartbeatTimeout s n) := by
  dsimp only [State.heartbeatTimeout]
  repeat' first
    | with_reducible assumption | with_reducible apply Kept.askClaim | with_reducible apply Kept.setSc
    | with_reducible apply Kept.cond | split

theorem Kept.execHeartbeatTimeout {sc} (h : Kept c p q s) (hkeeper : c.keeper = none) (hloader : c.loader = none)
    (hlcs : c.lcs = none) (hscs : c.scs = none) :
    nextAll (Kept c p q) (execHeartbeatTimeout sc s) := by
  dsimp only [Machine.execHeartbeatTimeout]
  with_reducible repeat' first | apply nextAll.next | assumption | apply Kept.settleMode | apply Kept.heartbeatTimeout

theorem Kept.execHeartbeat {e} (h : Kept c p q s) (hscs : c.scs = none) :
    nextAll (Kept c p q) (execHeartbeat e s) := by
  dsimp only [Machine.execHeartbeat]
  with_reducible repeat' first | apply nextAll.next | assumption | apply Kept.heartbeat

theorem Kept.execMirrorAck {sc} (h : Kept c p q s) (hscs : c.scs = none) :
    nextAll (Kept c p q) (execMirrorAck sc s) := by
  dsimp only [Machine.execMirrorAck]
  with_reducible repeat' first | apply nextAll.next | assumption | apply Kept.mirrorAck

theorem Kept.execMirrorLinkUp {pair} (h : Kept c p q s) (hscs : c.scs = none) :
    nextAll (Kept c p q) (execMirrorLinkUp pair s) := by
  dsimp only [Machine.execMirrorLinkUp]
  with_reducible repeat' first | apply nextAll.next | assumption | apply Kept.mirrorLink

theorem Kept.execScCfgWrite {m} {sc} {value} (h : Kept c p q s) (hkeeper : c.keeper = none)
    (hloader : c.loader = none) (hmem : c.mem = none) (hlcs : c.lcs = none) (hqueues : c.queues = none)
    (hscs : c.scs = none) (hports : c.ports = none) (hholders : c.holders = none) (hctxs : c.ctxs = none) :
    nextAll (Kept c p q) (execScCfgWrite m sc value s) := by
  dsimp only [Machine.execScCfgWrite]
  with_reducible repeat' first | apply nextAll.next | assumption | apply Kept.settleMode | apply Kept.scCfgW

theorem Kept.execStaleClaim {p'} {f} (h : Kept c p q s) (hscs : c.scs = none) (hports : c.ports = none) :
    nextAll (Kept c p q) (execStaleClaim p' f s) := by
  dsimp only [Machine.execStaleClaim]
  with_reducible repeat' first | apply nextAll.next | assumption | apply Kept.onStale | apply Kept.cond

theorem Kept.execOrderTimeout {sc} (h : Kept c p q s) (hkeeper : c.keeper = none) (hloader : c.loader = none)
    (hlcs : c.lcs = none) (hscs : c.scs = none) :
    nextAll (Kept c p q) (execOrderTimeout sc s) := by
  dsimp only [Machine.execOrderTimeout]
  with_reducible repeat' first | apply nextAll.next | assumption | apply Kept.settleMode | apply Kept.orderTimeout

theorem Kept.execPeInternalFault {e} (h : Kept c p q s) (hkeeper : c.keeper = none) (hloader : c.loader = none)
    (hlcs : c.lcs = none) (hscs : c.scs = none) :
    nextAll (Kept c p q) (execPeInternalFault e s) := by
  dsimp only [Machine.execPeInternalFault]
  with_reducible repeat' first | apply nextAll.next | assumption | apply Kept.settleMode | apply Kept.peFail

theorem Kept.execScClear {m} {sc} (h : Kept c p q s) (hmem : c.mem = none) (hlcs : c.lcs = none)
    (hqueues : c.queues = none) (hscs : c.scs = none) (hports : c.ports = none) (hholders : c.holders = none)
    (hctxs : c.ctxs = none) :
    nextAll (Kept c p q) (execScClear m sc s) := by
  dsimp only [Machine.execScClear]
  with_reducible repeat' first | apply nextAll.next | assumption | apply Kept.scCtlW

theorem Kept.execRevocationTimeout {sc} (h : Kept c p q s) (hkeeper : c.keeper = none) (hloader : c.loader = none)
    (hlcs : c.lcs = none) (hscs : c.scs = none) :
    nextAll (Kept c p q) (execRevocationTimeout sc s) := by
  dsimp only [Machine.execRevocationTimeout]
  with_reducible repeat' first
    | apply nextAll.next | assumption | apply Kept.settleMode | apply Kept.revocationTimeout

theorem Kept.scLimitsW {m} {n} {pa} {v} (h : Kept c p q s) (hlcs : c.lcs = none) (hports : c.ports = none)
    (hctxs : c.ctxs = none) :
    Kept c p q (State.scLimitsW s m n pa v) := by
  dsimp only [State.scLimitsW]
  with_reducible repeat' first | intro _ | assumption | apply Kept.scAccess | apply Kept.setReg

theorem Kept.sendNak {p'} (h : Kept c p q s) (hports : c.ports = none) :
    Kept c p q (State.sendNak s p') := by
  dsimp only [State.sendNak]
  with_reducible repeat' first | assumption | apply Kept.sendCtl | apply Kept.modPort | apply Kept.cond

theorem Kept.takeAck {p'} {f} (h : Kept c p q s) (hports : c.ports = none) :
    Kept c p q (State.takeAck s p' f) := by
  dsimp only [State.takeAck]
  with_reducible repeat' first | assumption | apply Kept.pump | apply Kept.modPort

theorem Kept.linkDown {p'} {st} (h : Kept c p q s) (hscs : c.scs = none) (hports : c.ports = none) :
    Kept c p q (State.linkDown s p' st) := by
  dsimp only [State.linkDown]
  with_reducible repeat' first
    | assumption | apply Kept.modPort | apply Kept.dropMaster | apply Kept.portPathsFail | apply Kept.report
    | apply Kept.cond

theorem Kept.retrain {p'} (h : Kept c p q s) (hscs : c.scs = none) (hports : c.ports = none) :
    Kept c p q (State.retrain s p') := by
  dsimp only [State.retrain]
  with_reducible repeat' first | assumption | apply Kept.linkDown

theorem Kept.replayFrom {p'} {n} (h : Kept c p q s) (hscs : c.scs = none) (hports : c.ports = none) :
    Kept c p q (State.replayFrom s p' n) := by
  dsimp only [State.replayFrom]
  repeat' first
    | with_reducible assumption | with_reducible apply Kept.retrain | with_reducible apply Kept.modPort
    | with_reducible apply Kept.report | with_reducible apply Kept.bump | with_reducible apply Kept.cond | split

theorem Kept.frameArrive {p'} {f} {chk} (h : Kept c p q s) (hscs : c.scs = none) (hports : c.ports = none) :
    Kept c p q (State.frameArrive s p' f chk) := by
  dsimp only [State.frameArrive]
  repeat' first
    | with_reducible assumption | with_reducible apply Kept.sendNak | with_reducible apply Kept.bump
    | with_reducible apply Kept.takeAck | with_reducible apply Kept.replayFrom | with_reducible apply Kept.modPort
    | with_reducible apply Kept.onUnknown | with_reducible apply Kept.cond | split

theorem Kept.execFrameReceive {p'} {f} {chk} (h : Kept c p q s) (hkeeper : c.keeper = none)
    (hloader : c.loader = none) (hlcs : c.lcs = none) (hscs : c.scs = none) (hports : c.ports = none) :
    nextAll (Kept c p q) (execFrameReceive p' f chk s) := by
  dsimp only [Machine.execFrameReceive]
  with_reducible repeat' first | apply nextAll.next | assumption | apply Kept.settleMode | apply Kept.frameArrive

theorem Kept.execAck {p'} {f} (h : Kept c p q s) (hports : c.ports = none) :
    nextAll (Kept c p q) (execAck p' f s) := by
  dsimp only [Machine.execAck]
  with_reducible repeat' first | apply nextAll.next | assumption | apply Kept.takeAck | apply Kept.cond

theorem Kept.portAccess {m} {p'} {pa} {need} {k : State → State} (h : Kept c p q s)
    (hk : ∀ y0, Kept c p q y0 → Kept c p q (k y0)) (hlcs : c.lcs = none) (hports : c.ports = none)
    (hctxs : c.ctxs = none) :
    Kept c p q (State.portAccess s m p' pa need k) := by
  dsimp only [State.portAccess]
  with_reducible repeat' first | intro _ | assumption | apply hk | apply Kept.csAccess

theorem Kept.configR {m} {p'} {cpl} {d} (h : Kept c p q s) (hlcs : c.lcs = none) (hports : c.ports = none)
    (hctxs : c.ctxs = none) :
    Kept c p q (State.configR s m p' cpl d) := by
  dsimp only [State.configR]
  with_reducible repeat' first | intro _ | assumption | apply Kept.portAccess | apply Kept.setFld | apply Kept.respond

theorem Kept.execConfigRead {m} {p'} {cpl} {data} (h : Kept c p q s) (hlcs : c.lcs = none)
    (hports : c.ports = none) (hctxs : c.ctxs = none) :
    nextAll (Kept c p q) (execConfigRead m p' cpl data s) := by
  dsimp only [Machine.execConfigRead]
  with_reducible repeat' first | apply nextAll.next | assumption | apply Kept.configR

theorem Kept.linkUp {p'} {width} {rate} {flit} {reversed} (h : Kept c p q s) (hscs : c.scs = none)
    (hports : c.ports = none) :
    Kept c p q (State.linkUp s p' width rate flit reversed) := by
  dsimp only [State.linkUp]
  with_reducible repeat' first | assumption | apply Kept.portPathsGained | apply Kept.modPort

theorem Kept.trainFail {p'} (h : Kept c p q s) (hports : c.ports = none) :
    Kept c p q (State.trainFail s p') := by
  dsimp only [State.trainFail]
  with_reducible repeat' first
    | assumption | apply Kept.bump | apply Kept.modPort | apply Kept.report | apply Kept.cond

theorem Kept.identArrive {p'} {f} (h : Kept c p q s) (hscs : c.scs = none) (hports : c.ports = none) :
    Kept c p q (State.identArrive s p' f) := by
  dsimp only [State.identArrive]
  with_reducible repeat' first
    | assumption | apply Kept.linkUp | apply Kept.modPort | apply Kept.trainFail | apply Kept.cond

theorem Kept.execAckTimer {p'} (h : Kept c p q s) (hports : c.ports = none) :
    nextAll (Kept c p q) (execAckTimer p' s) := by
  dsimp only [Machine.execAckTimer]
  with_reducible repeat' first | apply nextAll.next | assumption | apply Kept.sendCtl | apply Kept.cond

theorem Kept.portCtlW {m} {p'} {cmd} (h : Kept c p q s) (hlcs : c.lcs = none) (hscs : c.scs = none)
    (hports : c.ports = none) (hctxs : c.ctxs = none) :
    Kept c p q (State.portCtlW s m p' cmd) := by
  dsimp only [State.portCtlW]
  with_reducible repeat' first
    | intro _ | assumption | apply Kept.portAccess | apply Kept.respond | apply Kept.setFld | apply Kept.retrain
    | apply Kept.linkDown | apply Kept.cond

theorem Kept.execPortDisable {m} {p'} (h : Kept c p q s) (hkeeper : c.keeper = none) (hloader : c.loader = none)
    (hlcs : c.lcs = none) (hscs : c.scs = none) (hports : c.ports = none) (hctxs : c.ctxs = none) :
    nextAll (Kept c p q) (execPortDisable m p' s) := by
  dsimp only [Machine.execPortDisable]
  with_reducible repeat' first | apply nextAll.next | assumption | apply Kept.settleMode | apply Kept.portCtlW

theorem Kept.setTrain {p'} {t} (h : Kept c p q s) (hports : c.ports = none) :
    Kept c p q (State.setTrain s p' t) := by
  dsimp only [State.setTrain]
  with_reducible repeat' first | assumption | apply Kept.modPort

theorem Kept.execTrainingRetry {p'} (h : Kept c p q s) (hports : c.ports = none) :
    nextAll (Kept c p q) (execTrainingRetry p' s) := by
  dsimp only [Machine.execTrainingRetry]
  with_reducible repeat' first | apply nextAll.next | assumption | apply Kept.setTrain | apply Kept.cond

theorem Kept.execEqualizationDone {p'} (h : Kept c p q s) (hports : c.ports = none) :
    nextAll (Kept c p q) (execEqualizationDone p' s) := by
  dsimp only [Machine.execEqualizationDone]
  with_reducible repeat' first | apply nextAll.next | assumption | apply Kept.setTrain | apply Kept.cond

theorem Kept.doorbellW {p'} {a} {v} (h : Kept c p q s) :
    Kept c p q (State.doorbellW s p' a v) := by
  dsimp only [State.doorbellW]
  with_reducible repeat' first | assumption | apply Kept.respond | apply Kept.raiseOwned | apply Kept.cond

theorem Kept.execDoorbellWrite {p'} {addr} {data} (h : Kept c p q s) :
    nextAll (Kept c p q) (execDoorbellWrite p' addr data s) := by
  dsimp only [Machine.execDoorbellWrite]
  with_reducible repeat' first | apply nextAll.next | assumption | apply Kept.doorbellW

theorem Kept.execPortRelease {m} {p'} (h : Kept c p q s) (hlcs : c.lcs = none) (hscs : c.scs = none)
    (hports : c.ports = none) (hctxs : c.ctxs = none) :
    nextAll (Kept c p q) (execPortRelease m p' s) := by
  dsimp only [Machine.execPortRelease]
  with_reducible repeat' first | apply nextAll.next | assumption | apply Kept.portCtlW

theorem Kept.execPortRetrain {m} {p'} (h : Kept c p q s) (hkeeper : c.keeper = none) (hloader : c.loader = none)
    (hlcs : c.lcs = none) (hscs : c.scs = none) (hports : c.ports = none) (hctxs : c.ctxs = none) :
    nextAll (Kept c p q) (execPortRetrain m p' s) := by
  dsimp only [Machine.execPortRetrain]
  with_reducible repeat' first | apply nextAll.next | assumption | apply Kept.settleMode | apply Kept.portCtlW

theorem Kept.execLyvanResetDone {p'} (h : Kept c p q s) (hports : c.ports = none) :
    nextAll (Kept c p q) (execLyvanResetDone p' s) := by
  dsimp only [Machine.execLyvanResetDone]
  with_reducible repeat' first | apply nextAll.next | assumption | apply Kept.setTrain | apply Kept.cond

theorem Kept.execPcieNonfatal {p'} (h : Kept c p q s) :
    nextAll (Kept c p q) (execPcieNonfatal p' s) := by
  dsimp only [Machine.execPcieNonfatal]
  with_reducible repeat' first | apply nextAll.next | assumption | apply Kept.report | apply Kept.cond

theorem Kept.inbound {p'} {a} {n} {need} {k : State → State} (h : Kept c p q s)
    (hk : ∀ y0, Kept c p q y0 → Kept c p q (k y0)) (hlcs : c.lcs = none) (hports : c.ports = none)
    (hctxs : c.ctxs = none) :
    Kept c p q (State.inbound s p' a n need k) := by
  dsimp only [State.inbound]
  with_reducible repeat' first
    | intro _ | assumption | apply hk | apply Kept.respond | apply Kept.freezeMaster | apply Kept.admitMaster
    | apply Kept.cond

theorem Kept.inboundRead {p'} {a} {n} (h : Kept c p q s) (hlcs : c.lcs = none) (hports : c.ports = none)
    (hctxs : c.ctxs = none) :
    Kept c p q (State.inboundRead s p' a n) := by
  dsimp only [State.inboundRead]
  with_reducible repeat' first | intro _ | assumption | apply Kept.inbound | apply Kept.respond

theorem Kept.execInboundMemoryRead {p'} {addr} {len} (h : Kept c p q s) (hlcs : c.lcs = none)
    (hports : c.ports = none) (hctxs : c.ctxs = none) :
    nextAll (Kept c p q) (execInboundMemoryRead p' addr len s) := by
  dsimp only [Machine.execInboundMemoryRead]
  with_reducible repeat' first | apply nextAll.next | assumption | apply Kept.inboundRead

theorem Kept.inboundWrite {p'} {a} {bs} (h : Kept c p q s) (hmem : c.mem = none) (hlcs : c.lcs = none)
    (hports : c.ports = none) (hholders : c.holders = none) (hctxs : c.ctxs = none) :
    Kept c p q (State.inboundWrite s p' a bs) := by
  dsimp only [State.inboundWrite]
  with_reducible repeat' first
    | intro _ | assumption | apply Kept.inbound | apply Kept.respond | apply Kept.invWriteBytes

theorem Kept.alignHeld {p'} {reversed} (h : Kept c p q s) (hports : c.ports = none) :
    Kept c p q (State.alignHeld s p' reversed) := by
  dsimp only [State.alignHeld]
  with_reducible repeat' first
    | assumption | apply Kept.draw | apply Kept.sendCtl | apply Kept.modPort | apply Kept.setTrain | apply Kept.cond

theorem Kept.dpc {p'} {down} (h : Kept c p q s) (hports : c.ports = none) :
    Kept c p q (State.dpc s p' down) := by
  dsimp only [State.dpc]
  with_reducible repeat' first
    | assumption | apply Kept.report | apply Kept.modPort | apply Kept.dropMaster | apply Kept.cond

theorem Kept.execDpc {p'} {linkDown} (h : Kept c p q s) (hports : c.ports = none) :
    nextAll (Kept c p q) (execDpc p' linkDown s) := by
  dsimp only [Machine.execDpc]
  with_reducible repeat' first | apply nextAll.next | assumption | apply Kept.dpc

theorem Kept.pcieUp {p'} {width} {rate} {flit} {reversed} (h : Kept c p q s) (hscs : c.scs = none)
    (hports : c.ports = none) :
    Kept c p q (State.pcieUp s p' width rate flit reversed) := by
  dsimp only [State.pcieUp]
  with_reducible repeat' first | assumption | apply Kept.linkUp | apply Kept.cond

theorem Kept.execPcieLinkActive {p'} {width} {rate} {flit} {reversed} (h : Kept c p q s) (hscs : c.scs = none)
    (hports : c.ports = none) :
    nextAll (Kept c p q) (execPcieLinkActive p' width rate flit reversed s) := by
  dsimp only [Machine.execPcieLinkActive]
  with_reducible repeat' first | apply nextAll.next | assumption | apply Kept.pcieUp

theorem Kept.cxlUp {p'} (h : Kept c p q s) (hscs : c.scs = none) (hports : c.ports = none) :
    Kept c p q (State.cxlUp s p') := by
  dsimp only [State.cxlUp]
  with_reducible repeat' first
    | intro _ | assumption | apply Kept.setPoison | apply Kept.linkUp | apply Kept.modPort | apply Kept.foldl
    | apply Kept.cond

theorem Kept.execCompletionTimeout {m} {p'} {addr} {w} (h : Kept c p q s) (hmem : c.mem = none)
    (hlcs : c.lcs = none) (hports : c.ports = none) (hholders : c.holders = none) :
    nextAll (Kept c p q) (execCompletionTimeout m p' addr w s) := by
  dsimp only [Machine.execCompletionTimeout]
  repeat' first
    | with_reducible apply nextAll.next | with_reducible assumption | with_reducible apply Kept.takeExc
    | with_reducible apply Kept.respond | with_reducible apply Kept.cond | split

theorem Kept.execInboundMemoryWrite {p'} {addr} {data} (h : Kept c p q s) (hmem : c.mem = none)
    (hlcs : c.lcs = none) (hports : c.ports = none) (hholders : c.holders = none) (hctxs : c.ctxs = none) :
    nextAll (Kept c p q) (execInboundMemoryWrite p' addr data s) := by
  dsimp only [Machine.execInboundMemoryWrite]
  with_reducible repeat' first
    | apply nextAll.next | assumption | apply Kept.doorbellW | apply Kept.inboundWrite | apply Kept.cond

theorem Kept.execAlignLockHeld {p'} {reversed} (h : Kept c p q s) (hports : c.ports = none) :
    nextAll (Kept c p q) (execAlignLockHeld p' reversed s) := by
  dsimp only [Machine.execAlignLockHeld]
  with_reducible repeat' first | apply nextAll.next | assumption | apply Kept.alignHeld

theorem Kept.execCxlLinkActive {p'} (h : Kept c p q s) (hscs : c.scs = none) (hports : c.ports = none) :
    nextAll (Kept c p q) (execCxlLinkActive p' s) := by
  dsimp only [Machine.execCxlLinkActive]
  with_reducible repeat' first | apply nextAll.next | assumption | apply Kept.cxlUp

theorem Kept.execPortEnable {m} {p'} (h : Kept c p q s) (hlcs : c.lcs = none) (hscs : c.scs = none)
    (hports : c.ports = none) (hctxs : c.ctxs = none) :
    nextAll (Kept c p q) (execPortEnable m p' s) := by
  dsimp only [Machine.execPortEnable]
  with_reducible repeat' first | apply nextAll.next | assumption | apply Kept.portCtlW

theorem Kept.execReplayTimeout {p'} (h : Kept c p q s) (hkeeper : c.keeper = none) (hloader : c.loader = none)
    (hlcs : c.lcs = none) (hscs : c.scs = none) (hports : c.ports = none) :
    nextAll (Kept c p q) (execReplayTimeout p' s) := by
  dsimp only [Machine.execReplayTimeout]
  with_reducible repeat' first
    | apply nextAll.next | assumption | apply Kept.settleMode | apply Kept.replayFrom | apply Kept.cond

theorem Kept.execNak {p'} {f} (h : Kept c p q s) (hkeeper : c.keeper = none) (hloader : c.loader = none)
    (hlcs : c.lcs = none) (hscs : c.scs = none) (hports : c.ports = none) :
    nextAll (Kept c p q) (execNak p' f s) := by
  dsimp only [Machine.execNak]
  with_reducible repeat' first
    | apply nextAll.next | assumption | apply Kept.settleMode | apply Kept.replayFrom | apply Kept.takeAck
    | apply Kept.cond

theorem Kept.configW {m} {p'} {v} {cpl} (h : Kept c p q s) (hlcs : c.lcs = none) (hports : c.ports = none)
    (hctxs : c.ctxs = none) :
    Kept c p q (State.configW s m p' v cpl) := by
  dsimp only [State.configW]
  with_reducible repeat' first
    | intro _ | assumption | apply Kept.portAccess | apply Kept.respond | apply Kept.setFld | apply Kept.setReg

theorem Kept.execLanesDetected {p'} (h : Kept c p q s) (hports : c.ports = none) :
    nextAll (Kept c p q) (execLanesDetected p' s) := by
  dsimp only [Machine.execLanesDetected]
  with_reducible repeat' first | apply nextAll.next | assumption | apply Kept.setTrain | apply Kept.cond

theorem Kept.execIdent {p'} {f} (h : Kept c p q s) (hkeeper : c.keeper = none) (hloader : c.loader = none)
    (hlcs : c.lcs = none) (hscs : c.scs = none) (hports : c.ports = none) :
    nextAll (Kept c p q) (execIdent p' f s) := by
  dsimp only [Machine.execIdent]
  with_reducible repeat' first | apply nextAll.next | assumption | apply Kept.settleMode | apply Kept.identArrive

theorem Kept.execPcieCe {p'} (h : Kept c p q s) :
    nextAll (Kept c p q) (execPcieCe p' s) := by
  dsimp only [Machine.execPcieCe]
  with_reducible repeat' first | apply nextAll.next | assumption | apply Kept.report | apply Kept.cond

theorem Kept.execLaneLockLost {p'} (h : Kept c p q s) (hkeeper : c.keeper = none) (hloader : c.loader = none)
    (hlcs : c.lcs = none) (hscs : c.scs = none) (hports : c.ports = none) :
    nextAll (Kept c p q) (execLaneLockLost p' s) := by
  dsimp only [Machine.execLaneLockLost]
  with_reducible repeat' first
    | apply nextAll.next | assumption | apply Kept.settleMode | apply Kept.retrain | apply Kept.cond

theorem Kept.execTrainingTimeout {p'} (h : Kept c p q s) (hports : c.ports = none) :
    nextAll (Kept c p q) (execTrainingTimeout p' s) := by
  dsimp only [Machine.execTrainingTimeout]
  with_reducible repeat' first | apply nextAll.next | assumption | apply Kept.trainFail | apply Kept.cond

theorem Kept.execIntxMessage {p'} (h : Kept c p q s) :
    nextAll (Kept c p q) (execIntxMessage p' s) := by
  dsimp only [Machine.execIntxMessage]
  with_reducible repeat' first | apply nextAll.next | assumption | apply Kept.bump | apply Kept.cond

theorem Kept.execCodewordErrorLimit {p'} (h : Kept c p q s) (hkeeper : c.keeper = none)
    (hloader : c.loader = none) (hlcs : c.lcs = none) (hscs : c.scs = none) (hports : c.ports = none) :
    nextAll (Kept c p q) (execCodewordErrorLimit p' s) := by
  dsimp only [Machine.execCodewordErrorLimit]
  with_reducible repeat' first
    | apply nextAll.next | assumption | apply Kept.settleMode | apply Kept.retrain | apply Kept.cond

theorem Kept.execConfigWrite {m} {p'} {value} {cpl} (h : Kept c p q s) (hlcs : c.lcs = none)
    (hports : c.ports = none) (hctxs : c.ctxs = none) :
    nextAll (Kept c p q) (execConfigWrite m p' value cpl s) := by
  dsimp only [Machine.execConfigWrite]
  with_reducible repeat' first | apply nextAll.next | assumption | apply Kept.configW

end Sys2Proof.Machine
end

