-- ==== Sys2Proof/Laws/KeptPower.lean ====
section
/-! SUPPORT. What an operation of main memory, compositions, the tick and power keeps (Laws/Kept.lean):
one lemma for each operation. -/

namespace Sys2Proof.Machine

variable {c : Track} {p : List Instr} {q : Fuses} {s : State}

theorem Kept.refresh {c'} {b} (h : Kept c p q s) :
    Kept c p q (State.refresh s c' b) := by
  dsimp only [State.refresh]
  with_reducible repeat' first | assumption | apply Kept.setChan | apply Kept.cond

theorem Kept.errLog {c'} {e} (h : Kept c p q s) :
    Kept c p q (State.errLog s c' e) := by
  dsimp only [State.errLog]
  with_reducible repeat' first | assumption | apply Kept.modChan | apply Kept.bump | apply Kept.cond

theorem Kept.dramRead {c'} {l} {off} {kind} {ev} (h : Kept c p q s) :
    Kept c p q (State.dramRead s c' l off kind ev) := by
  dsimp only [State.dramRead]
  repeat' first
    | with_reducible assumption | with_reducible apply Kept.errLog | with_reducible apply Kept.bump
    | with_reducible apply Kept.setPoison | with_reducible apply Kept.report | with_reducible apply Kept.draw
    | with_reducible apply Kept.cond | split

theorem Kept.nbrRefresh {c'} {b} (h : Kept c p q s) :
    Kept c p q (State.nbrRefresh s c' b) := by
  dsimp only [State.nbrRefresh]
  repeat' first
    | with_reducible assumption | with_reducible apply Kept.bump | with_reducible apply Kept.setChan | split

theorem Kept.makeNbrRoom {c'} {b} {room} {x5} (h : Kept c p q s) :
    Kept c p q (State.makeNbrRoom s c' b room x5) := by
  induction x5 generalizing s with
  | zero => exact h
  | succ n ih =>
    dsimp only [State.makeNbrRoom]
    with_reducible repeat' first | assumption | apply ih | apply Kept.nbrRefresh | apply Kept.cond

theorem Kept.bankDue {c'} {b} (h : Kept c p q s) :
    Kept c p q (State.bankDue s c' b) := by
  dsimp only [State.bankDue]
  with_reducible repeat' first | assumption | apply Kept.setChan | apply Kept.makeNbrRoom | apply Kept.cond

theorem Kept.activate {c'} {b} {r} (h : Kept c p q s) :
    Kept c p q (State.activate s c' b r) := by
  dsimp only [State.activate]
  with_reducible repeat' first
    | assumption | apply Kept.bankDue | apply Kept.setChan | apply Kept.makeNbrRoom | apply Kept.modChan
    | apply Kept.cond

theorem Kept.activateAll {c'} {off} {p'} {all} (h : Kept c p q s) :
    Kept c p q (State.activateAll s c' off p' all) := by
  dsimp only [State.activateAll]
  with_reducible repeat' first | intro _ | assumption | apply Kept.activate | apply Kept.foldl

theorem Kept.issueRead {c'} {t} {off} {l} {ev} (h : Kept c p q s) :
    Kept c p q (State.issueRead s c' t off l ev) := by
  dsimp only [State.issueRead]
  with_reducible repeat' first
    | assumption | apply Kept.dramRead | apply Kept.activateAll | apply Kept.modMap | apply Kept.cond

theorem Kept.mcReadOp {c'} {l} {p'} {ev} (h : Kept c p q s) :
    Kept c p q (State.mcReadOp s c' l p' ev) := by
  dsimp only [State.mcReadOp]
  repeat' first
    | with_reducible assumption | with_reducible apply Kept.modMap | with_reducible apply Kept.setChan
    | with_reducible apply Kept.modChan | with_reducible apply Kept.issueRead | with_reducible apply Kept.cond
    | split

theorem Kept.execMcRead {c'} {line} {by_} {ev} (h : Kept c p q s) :
    nextAll (Kept c p q) (execMcRead c' line by_ ev s) := by
  dsimp only [Machine.execMcRead]
  with_reducible repeat' first | apply nextAll.next | assumption | apply Kept.mcReadOp

theorem Kept.issueWrite {c'} {t} {off} {e} (h : Kept c p q s) (hmem : c.mem = none) :
    Kept c p q (State.issueWrite s c' t off e) := by
  dsimp only [State.issueWrite]
  with_reducible repeat' first
    | assumption | apply Kept.activateAll | apply Kept.dramApply | apply Kept.dramRead | apply Kept.cond

theorem Kept.issueOp {c'} {x2} {x3} (h : Kept c p q s) (hmem : c.mem = none) :
    Kept c p q (State.issueOp c' x2 x3 s) := by
  induction x2 generalizing s x3 with
  | zero => exact h
  | succ n ih =>
    dsimp only [State.issueOp]
    repeat' first
      | with_reducible assumption | with_reducible apply ih | with_reducible apply Kept.modChan
      | with_reducible apply Kept.issueWrite | with_reducible apply Kept.dramApply
      | with_reducible apply Kept.issueRead | with_reducible apply Kept.cond | split

theorem Kept.drainChan {c'} (h : Kept c p q s) (hmem : c.mem = none) :
    Kept c p q (State.drainChan s c') := by
  dsimp only [State.drainChan]
  with_reducible repeat' first | intro _ | assumption | apply Kept.issueOp | apply Kept.foldl | apply Kept.cond

theorem Kept.chanFail {c'} (h : Kept c p q s) (hmem : c.mem = none) :
    Kept c p q (State.chanFail s c') := by
  dsimp only [State.chanFail]
  with_reducible repeat' first
    | intro _ | assumption | apply Kept.setChan | apply Kept.drainChan | apply Kept.bump | apply Kept.modChan
    | apply Kept.report | apply Kept.foldl | apply Kept.cond

theorem Kept.composeMemory (h : Kept c p q s) :
    Kept c p q (State.composeMemory s) := by
  dsimp only [State.composeMemory]
  with_reducible repeat' first
    | intro _ | assumption | apply Kept.setMap | apply Kept.report | apply Kept.setChan | apply Kept.foldl
    | apply Kept.cond | apply Kept.other

theorem Kept.srEntry {c'} (h : Kept c p q s) :
    Kept c p q (State.srEntry s c') := by
  dsimp only [State.srEntry]
  with_reducible repeat' first | assumption | apply Kept.setChan | apply Kept.cond

theorem Kept.caRetrain {c'} {ok} {writeOk} (h : Kept c p q s) (hmem : c.mem = none) :
    Kept c p q (State.caRetrain s c' ok writeOk) := by
  dsimp only [State.caRetrain]
  repeat' first
    | with_reducible assumption | with_reducible apply Kept.drainChan | with_reducible apply Kept.dramApply
    | with_reducible apply Kept.setChan | with_reducible apply Kept.chanFail | with_reducible apply Kept.cond
    | split

theorem Kept.execCaRetrainDone {c'} {ok} {writeOk} (h : Kept c p q s) (hmem : c.mem = none) :
    nextAll (Kept c p q) (execCaRetrainDone c' ok writeOk s) := by
  dsimp only [Machine.execCaRetrainDone]
  with_reducible repeat' first | apply nextAll.next | assumption | apply Kept.caRetrain

theorem Kept.srEntryDone {c'} (h : Kept c p q s) :
    Kept c p q (State.srEntryDone s c') := by
  dsimp only [State.srEntryDone]
  with_reducible repeat' first | assumption | apply Kept.setChan | apply Kept.cond

theorem Kept.mcRegW {m} {c'} {r} {v} (h : Kept c p q s) (hlcs : c.lcs = none) (hports : c.ports = none)
    (hctxs : c.ctxs = none) :
    Kept c p q (State.mcRegW s m c' r v) := by
  dsimp only [State.mcRegW]
  with_reducible repeat' first
    | intro _ | assumption | apply Kept.csOpen | apply Kept.setReg | apply Kept.report | apply Kept.cond

theorem Kept.rfmOp {c'} {b} (h : Kept c p q s) :
    Kept c p q (State.rfmOp s c' b) := by
  dsimp only [State.rfmOp]
  with_reducible repeat' first | assumption | apply Kept.setChan | apply Kept.cond

theorem Kept.execDimmThermalChange {c'} {hot} (h : Kept c p q s) :
    nextAll (Kept c p q) (execDimmThermalChange c' hot s) := by
  dsimp only [Machine.execDimmThermalChange]
  with_reducible repeat' first | apply nextAll.next | assumption | apply Kept.modChan

theorem Kept.srExit {c'} (h : Kept c p q s) :
    Kept c p q (State.srExit s c') := by
  dsimp only [State.srExit]
  with_reducible repeat' first | assumption | apply Kept.setChan | apply Kept.cond

theorem Kept.execSelfRefreshExit {c'} (h : Kept c p q s) :
    nextAll (Kept c p q) (execSelfRefreshExit c' s) := by
  dsimp only [Machine.execSelfRefreshExit]
  with_reducible repeat' first | apply nextAll.next | assumption | apply Kept.srExit

theorem Kept.trainingDone {c'} {ok} (h : Kept c p q s) (hmem : c.mem = none) :
    Kept c p q (State.trainingDone s c' ok) := by
  dsimp only [State.trainingDone]
  with_reducible repeat' first
    | assumption | apply Kept.setChan | apply Kept.report | apply Kept.chanFail | apply Kept.cond

theorem Kept.execDdrTrainingDone {c'} {ok} (h : Kept c p q s) (hmem : c.mem = none) :
    nextAll (Kept c p q) (execDdrTrainingDone c' ok s) := by
  dsimp only [Machine.execDdrTrainingDone]
  with_reducible repeat' first | apply nextAll.next | assumption | apply Kept.trainingDone

theorem Kept.execSelfRefreshEntry {c'} (h : Kept c p q s) :
    nextAll (Kept c p q) (execSelfRefreshEntry c' s) := by
  dsimp only [Machine.execSelfRefreshEntry]
  with_reducible repeat' first | apply nextAll.next | assumption | apply Kept.srEntry

theorem Kept.mcWriteOp {c'} {e} {p'} (h : Kept c p q s) (hmem : c.mem = none) :
    Kept c p q (State.mcWriteOp s c' e p') := by
  dsimp only [State.mcWriteOp]
  repeat' first
    | with_reducible assumption | with_reducible apply Kept.issueWrite | with_reducible apply Kept.mcAccept
    | with_reducible apply Kept.modChan | with_reducible apply Kept.cond | split

theorem Kept.execMcWrite {c'} {line} {mask} {data} {poison} {by_} {ev} (h : Kept c p q s) (hmem : c.mem = none) :
    nextAll (Kept c p q) (execMcWrite c' line mask data poison by_ ev s) := by
  dsimp only [Machine.execMcWrite]
  with_reducible repeat' first | apply nextAll.next | assumption | apply Kept.mcWriteOp

theorem Kept.errlogR {m} {c'} (h : Kept c p q s) (hlcs : c.lcs = none) (hports : c.ports = none)
    (hctxs : c.ctxs = none) :
    Kept c p q (State.errlogR s m c') := by
  dsimp only [State.errlogR]
  repeat' first
    | with_reducible intro _ | with_reducible assumption | with_reducible apply Kept.csAccess
    | with_reducible apply Kept.respond | with_reducible apply Kept.setReg | with_reducible apply Kept.modChan
    | split

theorem Kept.execRefreshDue {c'} {bank} (h : Kept c p q s) :
    nextAll (Kept c p q) (execRefreshDue c' bank s) := by
  dsimp only [Machine.execRefreshDue]
  with_reducible repeat' first | apply nextAll.next | assumption | apply Kept.refresh

theorem Kept.execRfm {c'} {bank} (h : Kept c p q s) :
    nextAll (Kept c p q) (execRfm c' bank s) := by
  dsimp only [Machine.execRfm]
  with_reducible repeat' first | apply nextAll.next | assumption | apply Kept.rfmOp

theorem Kept.readSpds {dimms} (h : Kept c p q s) :
    Kept c p q (State.readSpds s dimms) := by
  dsimp only [State.readSpds]
  repeat' first
    | with_reducible intro _ | with_reducible assumption | with_reducible apply Kept.setChan
    | with_reducible apply Kept.setMap | with_reducible apply Kept.foldl | split

theorem Kept.patrol {c'} {l} {ev} (h : Kept c p q s) :
    Kept c p q (State.patrol s c' l ev) := by
  dsimp only [State.patrol]
  repeat' first
    | with_reducible assumption | with_reducible apply Kept.dramRead | with_reducible apply Kept.activate
    | with_reducible apply Kept.cond | split

theorem Kept.execPatrolRead {c'} {line} {ev} (h : Kept c p q s) :
    nextAll (Kept c p q) (execPatrolRead c' line ev s) := by
  dsimp only [Machine.execPatrolRead]
  with_reducible repeat' first | apply nextAll.next | assumption | apply Kept.patrol

theorem Kept.zeroChannel {c'} (h : Kept c p q s) (hmem : c.mem = none) :
    Kept c p q (State.zeroChannel s c') := by
  exact Kept.at_mem h hmem fun hw => Table.wf_filter hw _

theorem Kept.caParity {c'} {l} {isWrite} {fails} (h : Kept c p q s) :
    Kept c p q (State.caParity s c' l isWrite fails) := by
  dsimp only [State.caParity]
  repeat' first
    | with_reducible assumption | with_reducible apply Kept.report | with_reducible apply Kept.bump
    | with_reducible apply Kept.modChan | with_reducible apply Kept.errLog | with_reducible apply Kept.cond | split

theorem Kept.execNeighbourRefresh {c'} {bank} (h : Kept c p q s) :
    nextAll (Kept c p q) (execNeighbourRefresh c' bank s) := by
  dsimp only [Machine.execNeighbourRefresh]
  with_reducible repeat' first | apply nextAll.next | assumption | apply Kept.nbrRefresh | apply Kept.cond

theorem Kept.srExitDone {c'} (h : Kept c p q s) (hmem : c.mem = none) :
    Kept c p q (State.srExitDone s c') := by
  dsimp only [State.srExitDone]
  with_reducible repeat' first
    | intro _ | assumption | apply Kept.drainChan | apply Kept.setChan | apply Kept.modChan | apply Kept.foldl
    | apply Kept.cond

theorem Kept.execSelfRefreshExitDone {c'} (h : Kept c p q s) (hmem : c.mem = none) :
    nextAll (Kept c p q) (execSelfRefreshExitDone c' s) := by
  dsimp only [Machine.execSelfRefreshExitDone]
  with_reducible repeat' first | apply nextAll.next | assumption | apply Kept.srExitDone

theorem Kept.zeroingDone {c'} (h : Kept c p q s) (hmem : c.mem = none) :
    Kept c p q (State.zeroingDone s c') := by
  dsimp only [State.zeroingDone]
  with_reducible repeat' first | assumption | apply Kept.zeroChannel | apply Kept.setChan | apply Kept.cond

theorem Kept.execCaParityError {c'} {line} {isWrite} {retryFails} (h : Kept c p q s) :
    nextAll (Kept c p q) (execCaParityError c' line isWrite retryFails s) := by
  dsimp only [Machine.execCaParityError]
  with_reducible repeat' first | apply nextAll.next | assumption | apply Kept.caParity

theorem Kept.shareEnd {c'} (h : Kept c p q s) :
    Kept c p q (State.shareEnd s c') := by
  dsimp only [State.shareEnd]
  with_reducible repeat' first | assumption | apply Kept.modChan

theorem Kept.execShareWindowEnd {c'} (h : Kept c p q s) :
    nextAll (Kept c p q) (execShareWindowEnd c' s) := by
  dsimp only [Machine.execShareWindowEnd]
  with_reducible repeat' first | apply nextAll.next | assumption | apply Kept.shareEnd

theorem Kept.execDramZeroingDone {c'} (h : Kept c p q s) (hmem : c.mem = none) :
    nextAll (Kept c p q) (execDramZeroingDone c' s) := by
  dsimp only [Machine.execDramZeroingDone]
  with_reducible repeat' first | apply nextAll.next | assumption | apply Kept.zeroingDone

theorem Kept.execMcErrlogRead {m} {c'} (h : Kept c p q s) (hlcs : c.lcs = none) (hports : c.ports = none)
    (hctxs : c.ctxs = none) :
    nextAll (Kept c p q) (execMcErrlogRead m c' s) := by
  dsimp only [Machine.execMcErrlogRead]
  with_reducible repeat' first | apply nextAll.next | assumption | apply Kept.errlogR

theorem Kept.execSelfRefreshEntryDone {c'} (h : Kept c p q s) :
    nextAll (Kept c p q) (execSelfRefreshEntryDone c' s) := by
  dsimp only [Machine.execSelfRefreshEntryDone]
  with_reducible repeat' first | apply nextAll.next | assumption | apply Kept.srEntryDone

theorem Kept.execResyncTestDone {core} {ok} (h : Kept c p q s) (hkeeper : c.keeper = none)
    (hloader : c.loader = none) (hlcs : c.lcs = none) (hscs : c.scs = none) :
    nextAll (Kept c p q) (execResyncTestDone core ok s) := by
  dsimp only [Machine.execResyncTestDone]
  with_reducible repeat' first | apply nextAll.next | assumption | apply Kept.settleMode | apply Kept.resyncTest

theorem Kept.execRejoinTimeout {core} (h : Kept c p q s) (hkeeper : c.keeper = none) (hloader : c.loader = none)
    (hlcs : c.lcs = none) (hscs : c.scs = none) :
    nextAll (Kept c p q) (execRejoinTimeout core s) := by
  dsimp only [Machine.execRejoinTimeout]
  with_reducible repeat' first | apply nextAll.next | assumption | apply Kept.settleMode | apply Kept.rejoinTimeout

theorem Kept.execGrpResync {m} {island} {tcore} (h : Kept c p q s) (hkeeper : c.keeper = none)
    (hloader : c.loader = none) (hlcs : c.lcs = none) (hscs : c.scs = none) (hports : c.ports = none)
    (hctxs : c.ctxs = none) :
    nextAll (Kept c p q) (execGrpResync m island tcore s) := by
  dsimp only [Machine.execGrpResync]
  with_reducible repeat' first | apply nextAll.next | assumption | apply Kept.settleMode | apply Kept.grpCtlW

theorem Kept.execRejoin {core} (h : Kept c p q s) (hkeeper : c.keeper = none) (hloader : c.loader = none)
    (hmem : c.mem = none) (hlcs : c.lcs = none) (hscs : c.scs = none) (hports : c.ports = none)
    (hholders : c.holders = none) :
    nextAll (Kept c p q) (execRejoin core s) := by
  dsimp only [Machine.execRejoin]
  with_reducible repeat' first | apply nextAll.next | assumption | apply Kept.settleMode | apply Kept.rejoin

theorem Kept.execDebugHalt {lc} (h : Kept c p q s) (hkeeper : c.keeper = none) (hloader : c.loader = none)
    (hmem : c.mem = none) (hlcs : c.lcs = none) (hscs : c.scs = none) (hports : c.ports = none)
    (hholders : c.holders = none) :
    nextAll (Kept c p q) (execDebugHalt lc s) := by
  dsimp only [Machine.execDebugHalt]
  with_reducible repeat' first | apply nextAll.next | assumption | apply Kept.settleMode | apply Kept.debugHalt

theorem Kept.execGrpRetireCore {m} {island} {tcore} (h : Kept c p q s) (hkeeper : c.keeper = none)
    (hloader : c.loader = none) (hlcs : c.lcs = none) (hscs : c.scs = none) (hports : c.ports = none)
    (hctxs : c.ctxs = none) :
    nextAll (Kept c p q) (execGrpRetireCore m island tcore s) := by
  dsimp only [Machine.execGrpRetireCore]
  with_reducible repeat' first | apply nextAll.next | assumption | apply Kept.settleMode | apply Kept.grpCtlW

theorem Kept.execMirrorTimeout {core} (h : Kept c p q s) (hkeeper : c.keeper = none) (hloader : c.loader = none)
    (hlcs : c.lcs = none) (hscs : c.scs = none) :
    nextAll (Kept c p q) (execMirrorTimeout core s) := by
  dsimp only [Machine.execMirrorTimeout]
  with_reducible repeat' first | apply nextAll.next | assumption | apply Kept.settleMode | apply Kept.mirrorTimeout

theorem Kept.execDebugResume {lc} (h : Kept c p q s) (hkeeper : c.keeper = none) (hloader : c.loader = none)
    (hlcs : c.lcs = none) (hscs : c.scs = none) :
    nextAll (Kept c p q) (execDebugResume lc s) := by
  dsimp only [Machine.execDebugResume]
  with_reducible repeat' first | apply nextAll.next | assumption | apply Kept.settleMode | apply Kept.debugResume

theorem Kept.execGroupTimeLoad {island} (h : Kept c p q s) :
    nextAll (Kept c p q) (execGroupTimeLoad island s) := by
  dsimp only [Machine.execGroupTimeLoad]
  with_reducible repeat' first | apply nextAll.next | assumption | apply Kept.modIsl | apply Kept.cond

theorem Kept.execResyncInvalidateDone {core} (h : Kept c p q s) :
    nextAll (Kept c p q) (execResyncInvalidateDone core s) := by
  dsimp only [Machine.execResyncInvalidateDone]
  with_reducible repeat' first | apply nextAll.next | assumption | apply Kept.resyncInvalidate

theorem Kept.execFillArrival {slot} {line} {ev} (h : Kept c p q s) (hkeeper : c.keeper = none)
    (hloader : c.loader = none) (hmem : c.mem = none) (hlcs : c.lcs = none) (hscs : c.scs = none)
    (hports : c.ports = none) (hholders : c.holders = none) :
    nextAll (Kept c p q) (execFillArrival slot line ev s) := by
  dsimp only [Machine.execFillArrival]
  with_reducible repeat' first
    | apply nextAll.next | assumption | apply Kept.settleMode | apply Kept.deliver | apply Kept.gateEvent
    | apply Kept.cond

theorem Kept.execResyncMirrorDone {core} {ok} (h : Kept c p q s) (hkeeper : c.keeper = none)
    (hloader : c.loader = none) (hlcs : c.lcs = none) (hscs : c.scs = none) (hholders : c.holders = none) :
    nextAll (Kept c p q) (execResyncMirrorDone core ok s) := by
  dsimp only [Machine.execResyncMirrorDone]
  with_reducible repeat' first | apply nextAll.next | assumption | apply Kept.settleMode | apply Kept.resyncMirror

theorem Kept.execMigrationStart {lc} (h : Kept c p q s) (hkeeper : c.keeper = none) (hloader : c.loader = none)
    (hmem : c.mem = none) (hlcs : c.lcs = none) (hscs : c.scs = none) (hports : c.ports = none)
    (hholders : c.holders = none) :
    nextAll (Kept c p q) (execMigrationStart lc s) := by
  dsimp only [Machine.execMigrationStart]
  with_reducible repeat' first | apply nextAll.next | assumption | apply Kept.settleMode | apply Kept.migrate

theorem Kept.execResyncWakeDone {core} (h : Kept c p q s) :
    nextAll (Kept c p q) (execResyncWakeDone core s) := by
  dsimp only [Machine.execResyncWakeDone]
  with_reducible repeat' first | apply nextAll.next | assumption | apply Kept.resyncWake

theorem Kept.execGrpInject {m} {island} {tcore} (h : Kept c p q s) (hlcs : c.lcs = none) (hports : c.ports = none)
    (hctxs : c.ctxs = none) :
    nextAll (Kept c p q) (execGrpInject m island tcore s) := by
  dsimp only [Machine.execGrpInject]
  with_reducible repeat' first | apply nextAll.next | assumption | apply Kept.grpCtlW

theorem Kept.execMigrationComplete {lc} (h : Kept c p q s) (hkeeper : c.keeper = none) (hloader : c.loader = none)
    (hlcs : c.lcs = none) (hscs : c.scs = none) :
    nextAll (Kept c p q) (execMigrationComplete lc s) := by
  dsimp only [Machine.execMigrationComplete]
  with_reducible repeat' first
    | apply nextAll.next | assumption | apply Kept.settleMode | apply Kept.migrationComplete

theorem Kept.execVoterRailFailure {island} {copy} (h : Kept c p q s) (hkeeper : c.keeper = none)
    (hloader : c.loader = none) (hmem : c.mem = none) (hlcs : c.lcs = none) (hscs : c.scs = none)
    (hports : c.ports = none) (hholders : c.holders = none) :
    nextAll (Kept c p q) (execVoterRailFailure island copy s) := by
  dsimp only [Machine.execVoterRailFailure]
  with_reducible repeat' first | apply nextAll.next | assumption | apply Kept.settleMode | apply Kept.voterFail

theorem Kept.hardwareShort {src} (h : Kept c p q s) (hkeeper : c.keeper = none) (hloader : c.loader = none)
    (hports : c.ports = none) :
    Kept c p q (State.hardwareShort s src) := by
  dsimp only [State.hardwareShort]
  repeat' first
    | with_reducible assumption | with_reducible apply Kept.setFld | with_reducible apply Kept.changeMode | split
    | with_reducible refine Kept.ofMk ?_

theorem Kept.freeOwn {i} {lay} {k} (h : Kept c p q s) :
    Kept c p q (State.freeOwn s i lay k) := by
  dsimp only [State.freeOwn]
  with_reducible repeat' first | intro _ | assumption | apply Kept.modCore | apply Kept.foldl

theorem Kept.placeOn {lc} {i} {k} {cs} {w} (h : Kept c p q s) (hlcs : c.lcs = none) :
    Kept c p q (State.placeOn s lc i k cs w) := by
  dsimp only [State.placeOn]
  with_reducible repeat' first | assumption | apply Kept.modIsl | apply Kept.modLc | apply Kept.settleSlot

theorem Kept.drawPlace {e} (h : Kept c p q s) (hlcs : c.lcs = none) :
    optAll (Kept c p q) (State.drawPlace s e) := by
  dsimp only [State.drawPlace]
  repeat' first
    | with_reducible assumption | with_reducible apply Kept.placeOn | with_reducible apply Kept.freeOwn
    | with_reducible apply optAll.some | exact optAll.none | split

theorem Kept.placeAll {img} (h : Kept c p q s) (hlcs : c.lcs = none) :
    optAll (Kept c p q) (State.placeAll s img) := by
  dsimp only [State.placeAll]
  have h1 : ∀ (l : List Nat) (o : Option State), optAll (Kept c p q) o →
      ∀ f : Option State → Nat → Option State, (∀ o n, optAll (Kept c p q) o → optAll (Kept c p q) (f o n)) →
      optAll (Kept c p q) (l.foldl f o) := by
    intro l
    induction l with
    | nil => intro o h f _; exact h
    | cons a l ih => intro o h f hf; exact ih _ (hf _ _ h) f hf
  refine h1 _ _ (optAll.some (Kept.foldl h fun s e h => ?_)) _ fun o n ho => optAll.bind ho fun s h => ?_
  · split
    · exact Kept.placeOn h hlcs
    · exact h
  · split
    · exact Kept.drawPlace h hlcs
    · exact optAll.some h

theorem Kept.formPorts {i} (h : Kept c p q s) (hports : c.ports = none) :
    Kept c p q (State.formPorts s i) := by
  dsimp only [State.formPorts]
  repeat' first
    | with_reducible intro _ | with_reducible assumption | with_reducible apply Kept.setPort
    | with_reducible apply Kept.foldl | split | with_reducible apply Kept.at_ports

theorem Kept.enterCompose {bytes} {source} {fails} (h : Kept c p q s) (hkeeper : c.keeper = none)
    (hloader : c.loader = none) (hports : c.ports = none) :
    Kept c p q (State.enterCompose s bytes source fails) := by
  dsimp only [State.enterCompose]
  with_reducible repeat' first
    | intro _ | assumption | apply Kept.setIsl | apply Kept.changeMode | apply Kept.formPorts
    | apply Kept.composeMemory | apply Kept.foldl | apply Kept.at_loader

theorem Kept.resetLc {lc} {p'} (h : Kept c p q s) (hlcs : c.lcs = none) :
    Kept c p q (State.resetLc s lc p') := by
  dsimp only [State.resetLc]
  with_reducible repeat' first | assumption | apply Kept.modLc

theorem Kept.composeComplete {cxl} (h : Kept c p q s) (hkeeper : c.keeper = none) (hloader : c.loader = none)
    (hlcs : c.lcs = none) (hports : c.ports = none) :
    Kept c p q (State.composeComplete s cxl) := by
  dsimp only [State.composeComplete]
  repeat' first
    | with_reducible intro _ | with_reducible assumption | with_reducible apply Kept.placeAll
    | with_reducible apply Kept.hardwareShort | with_reducible apply Kept.giveBanks
    | with_reducible apply Kept.modLc | with_reducible apply Kept.resetLc | with_reducible apply Kept.modPort
    | with_reducible apply Kept.changeMode | with_reducible apply Kept.foldl | with_reducible apply Kept.cond
    | with_reducible refine Kept.ofOpt ‹_ = some _› ?_ | split | with_reducible apply Kept.at_loader
    | with_reducible apply Kept.at_lcs

theorem Kept.tick (h : Kept c p q s) (hkeeper : c.keeper = none) (htb : c.tb = none) :
    Kept c p q (State.tick s) := by
  dsimp only [State.tick]
  repeat' first
    | with_reducible assumption | with_reducible apply Kept.cond | split | with_reducible refine Kept.ofMk ?_

theorem Kept.ppsRises (h : Kept c p q s) (hkeeper : c.keeper = none) :
    Kept c p q (State.ppsRises s) := by
  dsimp only [State.ppsRises]
  with_reducible repeat' first | assumption | apply Kept.cond | apply Kept.at_keeper

theorem Kept.execPpsOutRise (h : Kept c p q s) (hkeeper : c.keeper = none) :
    nextAll (Kept c p q) (execPpsOutRise s) := by
  dsimp only [Machine.execPpsOutRise]
  with_reducible repeat' first | apply nextAll.next | assumption | apply Kept.ppsRises

theorem Kept.tbStepW {m} {d} (h : Kept c p q s) (htb : c.tb = none) (hlcs : c.lcs = none)
    (hports : c.ports = none) (hctxs : c.ctxs = none) :
    Kept c p q (State.tbStepW s m d) := by
  dsimp only [State.tbStepW]
  with_reducible repeat' first
    | intro _ | assumption | apply Kept.csOpen | apply Kept.report | apply Kept.cond | apply Kept.at_tb

theorem Kept.pgoodLoss {g} (h : Kept c p q s) (hkeeper : c.keeper = none) :
    Kept c p q (State.pgoodLoss s g) := by
  dsimp only [State.pgoodLoss]
  with_reducible repeat' first | assumption | apply Kept.report | apply Kept.cond | apply Kept.at_keeper

theorem Kept.execPgoodLoss {group} (h : Kept c p q s) (hkeeper : c.keeper = none) :
    nextAll (Kept c p q) (execPgoodLoss group s) := by
  dsimp only [Machine.execPgoodLoss]
  with_reducible repeat' first | apply nextAll.next | assumption | apply Kept.pgoodLoss

theorem Kept.tbFast (h : Kept c p q s) (hkeeper : c.keeper = none) (htb : c.tb = none) :
    Kept c p q (State.tbFast s) := by
  dsimp only [State.tbFast]
  with_reducible repeat' first | assumption | apply Kept.tick | apply Kept.cond | apply Kept.at_tb

theorem Kept.execTbSwitchTo1ghz (h : Kept c p q s) (hkeeper : c.keeper = none) (htb : c.tb = none) :
    nextAll (Kept c p q) (execTbSwitchTo1ghz s) := by
  dsimp only [Machine.execTbSwitchTo1ghz]
  with_reducible repeat' first | apply nextAll.next | assumption | apply Kept.tbFast

theorem Kept.itBack {t} (h : Kept c p q s) (hscs : c.scs = none) :
    Kept c p q (State.itBack s t) := by
  dsimp only [State.itBack]
  with_reducible repeat' first
    | intro _ | assumption | apply Kept.portPathsGained | apply Kept.foldl | apply Kept.cond

theorem Kept.restoreDone {ok} (h : Kept c p q s) (hkeeper : c.keeper = none) (hloader : c.loader = none)
    (hlcs : c.lcs = none) (hscs : c.scs = none) :
    Kept c p q (State.restoreDone s ok) := by
  dsimp only [State.restoreDone]
  with_reducible repeat' first
    | assumption | apply Kept.ksResult | apply Kept.setFld | apply Kept.settleMode | apply Kept.itBack
    | apply Kept.cond | apply Kept.at_keeper | refine Kept.ofMk ?_

theorem Kept.ksRestart (h : Kept c p q s) (hkeeper : c.keeper = none) :
    Kept c p q (State.ksRestart s) := by
  dsimp only [State.ksRestart]
  with_reducible repeat' first | assumption | apply Kept.beginPowerDown | apply Kept.ksResult | apply Kept.cond

theorem Kept.ksWrite {m} {zero} {k : State → State} (h : Kept c p q s) (hk : ∀ y0, Kept c p q y0 → Kept c p q
    (k y0)) (hlcs : c.lcs = none) (hports : c.ports = none) (hctxs : c.ctxs = none) :
    Kept c p q (State.ksWrite s m zero k) := by
  dsimp only [State.ksWrite]
  with_reducible repeat' first
    | intro _ | assumption | apply hk | apply Kept.csPriv | apply Kept.ksResult | apply Kept.cond

theorem Kept.execKsRestart {m} (h : Kept c p q s) (hkeeper : c.keeper = none) (hlcs : c.lcs = none)
    (hports : c.ports = none) (hctxs : c.ctxs = none) :
    nextAll (Kept c p q) (execKsRestart m s) := by
  dsimp only [Machine.execKsRestart]
  with_reducible repeat' first | apply nextAll.next | intro _ | assumption | apply Kept.ksWrite | apply Kept.ksRestart

theorem Kept.clearZeroActions (h : Kept c p q s) :
    Kept c p q (State.clearZeroActions s) := by
  dsimp only [State.clearZeroActions]
  with_reducible repeat' first | intro _ | assumption | apply Kept.setFld | apply Kept.foldl

theorem Kept.erase (h : Kept c p q s) (hloader : c.loader = none) (hmgmt : c.mgmt = none) (hmem : c.mem = none)
    (hholders : c.holders = none) :
    Kept c p q (State.erase s) := by
  dsimp only [State.erase]
  have h1 : Kept c p q { s with accs := s.accs.map fun (e : Nat × AccSt) => (e.1, { e.2 with kw := 0, kwWords := Vector.replicate 4 0 }) } :=
    Kept.other h
  have h2 := Kept.foldl (f := fun s t => s.setFld (.engstat ⟨true, t⟩) 63 63 0) (l := List.finRange 4) h1
    fun s t h => Kept.setFld h
  refine Kept.ofMk (s := _) (Kept.foldl (Kept.at_mgmt h2 hmgmt) fun s g h => ?_)
  exact Kept.at_mem h hmem (memZero_wf _ _ _)

theorem Kept.enterZeroize (h : Kept c p q s) (hkeeper : c.keeper = none) (hloader : c.loader = none)
    (hmgmt : c.mgmt = none) (hmem : c.mem = none) (hlcs : c.lcs = none) (hscs : c.scs = none)
    (hholders : c.holders = none) :
    Kept c p q (State.enterZeroize s) := by
  dsimp only [State.enterZeroize]
  with_reducible repeat' first
    | assumption | apply Kept.clearZeroActions | apply Kept.erase | apply Kept.changeMode | apply Kept.dropExchanges
    | apply Kept.debugEnd | apply Kept.at_keeper

theorem Kept.cmpActions {cfg} {code} {inst} (h : Kept c p q s) (hkeeper : c.keeper = none)
    (hloader : c.loader = none) (hmgmt : c.mgmt = none) (hmem : c.mem = none) (hlcs : c.lcs = none)
    (hscs : c.scs = none) (hholders : c.holders = none) :
    Kept c p q (State.cmpActions s cfg code inst) := by
  dsimp only [State.cmpActions]
  repeat' first
    | with_reducible assumption | with_reducible apply Kept.raiseIrq | with_reducible apply Kept.enterZeroize
    | with_reducible apply Kept.cond | split | with_reducible apply Kept.at_keeper

theorem Kept.ecSample {e} {x} (h : Kept c p q s) (hkeeper : c.keeper = none) (hloader : c.loader = none)
    (htb : c.tb = none) (hmgmt : c.mgmt = none) (hmem : c.mem = none) (hlcs : c.lcs = none) (hscs : c.scs = none)
    (hholders : c.holders = none) :
    Kept c p q (State.ecSample s e x) := by
  dsimp only [State.ecSample]
  with_reducible repeat' first
    | assumption | apply Kept.setFld | apply Kept.cmpActions | apply Kept.cond | apply Kept.at_tb

theorem Kept.zeroizeComplete (h : Kept c p q s) (hkeeper : c.keeper = none) :
    Kept c p q (State.zeroizeComplete s) := by
  dsimp only [State.zeroizeComplete]
  with_reducible repeat' first | assumption | apply Kept.beginPowerDown | apply Kept.cond

theorem Kept.execZeroizeComplete (h : Kept c p q s) (hkeeper : c.keeper = none) :
    nextAll (Kept c p q) (execZeroizeComplete s) := by
  dsimp only [Machine.execZeroizeComplete]
  with_reducible repeat' first | apply nextAll.next | assumption | apply Kept.zeroizeComplete

theorem Kept.ksZeroize {confirm} (h : Kept c p q s) (hkeeper : c.keeper = none) (hloader : c.loader = none)
    (hmgmt : c.mgmt = none) (hmem : c.mem = none) (hlcs : c.lcs = none) (hscs : c.scs = none)
    (hholders : c.holders = none) :
    Kept c p q (State.ksZeroize s confirm) := by
  dsimp only [State.ksZeroize]
  with_reducible repeat' first | assumption | apply Kept.ksResult | apply Kept.enterZeroize | apply Kept.cond

theorem Kept.acceptHeld {q'} {x3} (h : Kept c p q s) (hqueues : c.queues = none) (hctxs : c.ctxs = none) :
    Kept c p q (State.acceptHeld s q' x3) := by
  induction x3 generalizing s with
  | zero => exact h
  | succ n ih =>
    dsimp only [State.acceptHeld]
    with_reducible repeat' first | assumption | apply ih | apply Kept.qHeldAccept

theorem Kept.ksResume (h : Kept c p q s) (hkeeper : c.keeper = none) (hloader : c.loader = none)
    (hlcs : c.lcs = none) (hqueues : c.queues = none) (hscs : c.scs = none) (hctxs : c.ctxs = none) :
    Kept c p q (State.ksResume s) := by
  dsimp only [State.ksResume]
  repeat' first
    | with_reducible intro _ | with_reducible assumption | with_reducible apply Kept.ksResult
    | with_reducible apply Kept.settleMode | with_reducible apply Kept.unquiesce
    | with_reducible apply Kept.acceptHeld | with_reducible apply Kept.foldl | with_reducible apply Kept.cond
    | split | with_reducible apply Kept.at_keeper

theorem Kept.execKsResume {m} (h : Kept c p q s) (hkeeper : c.keeper = none) (hloader : c.loader = none)
    (hlcs : c.lcs = none) (hqueues : c.queues = none) (hscs : c.scs = none) (hports : c.ports = none)
    (hctxs : c.ctxs = none) :
    nextAll (Kept c p q) (execKsResume m s) := by
  dsimp only [Machine.execKsResume]
  with_reducible repeat' first | apply nextAll.next | intro _ | assumption | apply Kept.ksWrite | apply Kept.ksResume

theorem Kept.ksSleep (h : Kept c p q s) (hkeeper : c.keeper = none) :
    Kept c p q (State.ksSleep s) := by
  dsimp only [State.ksSleep]
  with_reducible repeat' first | assumption | apply Kept.beginPowerDown | apply Kept.ksResult | apply Kept.cond

theorem Kept.ppsFalls (h : Kept c p q s) (hkeeper : c.keeper = none) :
    Kept c p q (State.ppsFalls s) := by
  dsimp only [State.ppsFalls]
  with_reducible repeat' first | assumption | apply Kept.cond | apply Kept.at_keeper

theorem Kept.execPpsOutFall (h : Kept c p q s) (hkeeper : c.keeper = none) :
    nextAll (Kept c p q) (execPpsOutFall s) := by
  dsimp only [Machine.execPpsOutFall]
  with_reducible repeat' first | apply nextAll.next | assumption | apply Kept.ppsFalls

theorem Kept.powerOn {st} (h : Kept c p q s) (hkeeper : c.keeper = none) :
    Kept c p q (State.powerOn s st) := by
  dsimp only [State.powerOn]
  repeat' first
    | with_reducible assumption | with_reducible apply Kept.cond | split | with_reducible apply Kept.at_keeper

theorem Kept.pgoodBack {g} (h : Kept c p q s) (hkeeper : c.keeper = none) :
    Kept c p q (State.pgoodBack s g) := by
  dsimp only [State.pgoodBack]
  with_reducible repeat' first | assumption | apply Kept.cond | apply Kept.at_keeper

theorem Kept.execPgoodReassertion {group} (h : Kept c p q s) (hkeeper : c.keeper = none) :
    nextAll (Kept c p q) (execPgoodReassertion group s) := by
  dsimp only [Machine.execPgoodReassertion]
  with_reducible repeat' first | apply nextAll.next | assumption | apply Kept.pgoodBack

theorem Kept.ksQuiesce (h : Kept c p q s) (hkeeper : c.keeper = none) (hlcs : c.lcs = none) :
    Kept c p q (State.ksQuiesce s) := by
  dsimp only [State.ksQuiesce]
  with_reducible repeat' first
    | intro _ | assumption | apply Kept.ksResult | apply Kept.modLc | apply Kept.foldl | apply Kept.cond
    | apply Kept.at_keeper

theorem Kept.execKsQuiesce {m} (h : Kept c p q s) (hkeeper : c.keeper = none) (hlcs : c.lcs = none)
    (hports : c.ports = none) (hctxs : c.ctxs = none) :
    nextAll (Kept c p q) (execKsQuiesce m s) := by
  dsimp only [Machine.execKsQuiesce]
  with_reducible repeat' first | apply nextAll.next | intro _ | assumption | apply Kept.ksWrite | apply Kept.ksQuiesce

theorem Kept.execKsSleep {m} (h : Kept c p q s) (hkeeper : c.keeper = none) (hlcs : c.lcs = none)
    (hports : c.ports = none) (hctxs : c.ctxs = none) :
    nextAll (Kept c p q) (execKsSleep m s) := by
  dsimp only [Machine.execKsSleep]
  with_reducible repeat' first | apply nextAll.next | intro _ | assumption | apply Kept.ksWrite | apply Kept.ksSleep

theorem Kept.capture {src} (h : Kept c p q s) :
    Kept c p q (State.capture s src) := by
  dsimp only [State.capture]
  with_reducible repeat' first | assumption | apply Kept.setReg | apply Kept.cond

theorem Kept.wakeFail {code} (h : Kept c p q s) (hkeeper : c.keeper = none) :
    Kept c p q (State.wakeFail s code) := by
  dsimp only [State.wakeFail]
  with_reducible repeat' first | assumption | apply Kept.beginPowerDown | apply Kept.setFld

theorem Kept.enterLoad {dimms} (h : Kept c p q s) (hkeeper : c.keeper = none) (hmgmt : c.mgmt = none) :
    Kept c p q (State.enterLoad s dimms) := by
  dsimp only [State.enterLoad]
  with_reducible repeat' first | assumption | apply Kept.changeMode | apply Kept.readSpds | refine Kept.ofMk ?_

theorem Kept.keeperBistDone {ok} {dimms} (h : Kept c p q s) (hkeeper : c.keeper = none)
    (hloader : c.loader = none) (hmgmt : c.mgmt = none) (hmem : c.mem = none) (hlcs : c.lcs = none)
    (hscs : c.scs = none) (hholders : c.holders = none) :
    Kept c p q (State.keeperBistDone s ok dimms) := by
  dsimp only [State.keeperBistDone]
  with_reducible repeat' first
    | assumption | apply Kept.wakeFail | apply Kept.enterZeroize | apply Kept.enterLoad | apply Kept.cond

theorem Kept.execKeeperBistDone {ok} {dimms} (h : Kept c p q s) (hkeeper : c.keeper = none)
    (hloader : c.loader = none) (hmgmt : c.mgmt = none) (hmem : c.mem = none) (hlcs : c.lcs = none)
    (hscs : c.scs = none) (hholders : c.holders = none) :
    nextAll (Kept c p q) (execKeeperBistDone ok dimms s) := by
  dsimp only [Machine.execKeeperBistDone]
  with_reducible repeat' first | apply nextAll.next | assumption | apply Kept.keeperBistDone

theorem Kept.tbNowR {m} (h : Kept c p q s) (hlcs : c.lcs = none) (hports : c.ports = none) (hctxs : c.ctxs = none) :
    Kept c p q (State.tbNowR s m) := by
  dsimp only [State.tbNowR]
  with_reducible repeat' first | intro _ | assumption | apply Kept.csAccess | apply Kept.respond | apply Kept.setReg

theorem Kept.itDown {t} (h : Kept c p q s) (hscs : c.scs = none) :
    Kept c p q (State.itDown s t) := by
  dsimp only [State.itDown]
  with_reducible repeat' first
    | intro _ | assumption | apply Kept.dropAgents | apply Kept.portPathsFail | apply Kept.foldl | apply Kept.cond

theorem Kept.tileGone {k} (h : Kept c p q s) (hmem : c.mem = none) (hlcs : c.lcs = none) (hscs : c.scs = none)
    (hports : c.ports = none) (hholders : c.holders = none) :
    Kept c p q (State.tileGone s k) := by
  dsimp only [State.tileGone]
  repeat' first
    | with_reducible assumption | with_reducible apply Kept.refreshStandbys | with_reducible apply Kept.tileDeath
    | with_reducible apply Kept.itDown | split

theorem Kept.ksIsolate {k} (h : Kept c p q s) (hkeeper : c.keeper = none) (hloader : c.loader = none)
    (hmem : c.mem = none) (hlcs : c.lcs = none) (hscs : c.scs = none) (hports : c.ports = none)
    (hholders : c.holders = none) :
    Kept c p q (State.ksIsolate s k) := by
  dsimp only [State.ksIsolate]
  with_reducible repeat' first
    | assumption | apply Kept.ksResult | apply Kept.settleMode | apply Kept.tileGone | apply Kept.setFld
    | apply Kept.cond

theorem Kept.ksRestore {k} (h : Kept c p q s) (hkeeper : c.keeper = none) :
    Kept c p q (State.ksRestore s k) := by
  dsimp only [State.ksRestore]
  with_reducible repeat' first | assumption | apply Kept.ksResult | apply Kept.cond | apply Kept.at_keeper

theorem Kept.ksCmdW {m} {v} (h : Kept c p q s) (hkeeper : c.keeper = none) (hloader : c.loader = none)
    (hmgmt : c.mgmt = none) (hmem : c.mem = none) (hlcs : c.lcs = none) (hqueues : c.queues = none)
    (hscs : c.scs = none) (hports : c.ports = none) (hholders : c.holders = none) (hctxs : c.ctxs = none) :
    Kept c p q (State.ksCmdW s m v) := by
  dsimp only [State.ksCmdW]
  repeat' first
    | with_reducible intro _ | with_reducible assumption | with_reducible apply Kept.ksWrite
    | with_reducible apply Kept.ksQuiesce | with_reducible apply Kept.ksResume | with_reducible apply Kept.ksIsolate
    | with_reducible apply Kept.ksRestore | with_reducible apply Kept.ksSleep | with_reducible apply Kept.ksRestart
    | with_reducible apply Kept.ksZeroize | with_reducible apply Kept.ksResult | split

theorem Kept.beginWake {cause} (h : Kept c p q s) (hkeeper : c.keeper = none) :
    Kept c p q (State.beginWake s cause) := by
  dsimp only [State.beginWake]
  with_reducible repeat' first | assumption | apply Kept.changeMode | apply Kept.setFld | apply Kept.at_keeper

theorem Kept.comparatorFire {n} (h : Kept c p q s) (hkeeper : c.keeper = none) (hloader : c.loader = none)
    (hmgmt : c.mgmt = none) (hmem : c.mem = none) (hlcs : c.lcs = none) (hscs : c.scs = none)
    (hholders : c.holders = none) :
    Kept c p q (State.comparatorFire s n) := by
  dsimp only [State.comparatorFire]
  with_reducible repeat' first
    | assumption | apply Kept.setFld | apply Kept.setReg | apply Kept.cmpActions | apply Kept.cond

theorem Kept.execComparatorFire {n} (h : Kept c p q s) (hkeeper : c.keeper = none) (hloader : c.loader = none)
    (hmgmt : c.mgmt = none) (hmem : c.mem = none) (hlcs : c.lcs = none) (hscs : c.scs = none)
    (hholders : c.holders = none) :
    nextAll (Kept c p q) (execComparatorFire n s) := by
  dsimp only [Machine.execComparatorFire]
  with_reducible repeat' first | apply nextAll.next | assumption | apply Kept.comparatorFire

theorem Kept.execRestoreBistDone {ok} (h : Kept c p q s) (hkeeper : c.keeper = none) (hloader : c.loader = none)
    (hlcs : c.lcs = none) (hscs : c.scs = none) :
    nextAll (Kept c p q) (execRestoreBistDone ok s) := by
  dsimp only [Machine.execRestoreBistDone]
  with_reducible repeat' first | apply nextAll.next | assumption | apply Kept.restoreDone

theorem Kept.execTbStep {m} {delta} (h : Kept c p q s) (htb : c.tb = none) (hlcs : c.lcs = none)
    (hports : c.ports = none) (hctxs : c.ctxs = none) :
    nextAll (Kept c p q) (execTbStep m delta s) := by
  dsimp only [Machine.execTbStep]
  with_reducible repeat' first | apply nextAll.next | assumption | apply Kept.tbStepW

theorem Kept.xwake {high} (h : Kept c p q s) (hkeeper : c.keeper = none) :
    Kept c p q (State.xwake s high) := by
  dsimp only [State.xwake]
  repeat' first
    | with_reducible assumption | with_reducible apply Kept.cond | split | with_reducible apply Kept.at_keeper

theorem Kept.execXwakeRise (h : Kept c p q s) (hkeeper : c.keeper = none) :
    nextAll (Kept c p q) (execXwakeRise s) := by
  dsimp only [Machine.execXwakeRise]
  with_reducible repeat' first | apply nextAll.next | assumption | apply Kept.xwake

theorem Kept.execKsIsolate {m} {tile} (h : Kept c p q s) (hkeeper : c.keeper = none) (hloader : c.loader = none)
    (hmem : c.mem = none) (hlcs : c.lcs = none) (hscs : c.scs = none) (hports : c.ports = none)
    (hholders : c.holders = none) (hctxs : c.ctxs = none) :
    nextAll (Kept c p q) (execKsIsolate m tile s) := by
  dsimp only [Machine.execKsIsolate]
  with_reducible repeat' first | apply nextAll.next | intro _ | assumption | apply Kept.ksWrite | apply Kept.ksIsolate

theorem Kept.execKsRestore {m} {tile} (h : Kept c p q s) (hkeeper : c.keeper = none) (hlcs : c.lcs = none)
    (hports : c.ports = none) (hctxs : c.ctxs = none) :
    nextAll (Kept c p q) (execKsRestore m tile s) := by
  dsimp only [Machine.execKsRestore]
  with_reducible repeat' first | apply nextAll.next | intro _ | assumption | apply Kept.ksWrite | apply Kept.ksRestore

theorem Kept.moduleReset (h : Kept c p q s) (hkeeper : c.keeper = none) (hloader : c.loader = none)
    (htb : c.tb = none) (hmgmt : c.mgmt = none) (hmem : c.mem = none) (hlcs : c.lcs = none)
    (hqueues : c.queues = none) (hscs : c.scs = none) (hports : c.ports = none) (hholders : c.holders = none)
    (hctxs : c.ctxs = none) :
    Kept c p q (State.moduleReset s) := by
  exact ⟨h.pending, h.fuses, fun _ => rfl, h.keeper, .inl hloader, h.tb, .inl hmgmt, .inl hmem, .inl hlcs, .inl hqueues, .inl hscs,
    .inl hports, .inl hholders, .inl hctxs⟩

theorem Kept.powerDownEnd {restart} (h : Kept c p q s) (hkeeper : c.keeper = none) (hloader : c.loader = none)
    (htb : c.tb = none) (hmgmt : c.mgmt = none) (hmem : c.mem = none) (hlcs : c.lcs = none)
    (hqueues : c.queues = none) (hscs : c.scs = none) (hports : c.ports = none) (hholders : c.holders = none)
    (hctxs : c.ctxs = none) :
    Kept c p q (State.powerDownEnd s restart) := by
  dsimp only [State.powerDownEnd]
  with_reducible repeat' first
    | assumption | apply Kept.moduleReset | apply Kept.beginWake | apply Kept.changeMode | apply Kept.cond
    | apply Kept.at_keeper

theorem Kept.powerDownStep {pgoodFell} (h : Kept c p q s) (hkeeper : c.keeper = none) (hloader : c.loader = none)
    (htb : c.tb = none) (hmgmt : c.mgmt = none) (hmem : c.mem = none) (hlcs : c.lcs = none)
    (hqueues : c.queues = none) (hscs : c.scs = none) (hports : c.ports = none) (hholders : c.holders = none)
    (hctxs : c.ctxs = none) :
    Kept c p q (State.powerDownStep s pgoodFell) := by
  dsimp only [State.powerDownStep]
  repeat' first
    | with_reducible assumption | with_reducible apply Kept.powerDownEnd | with_reducible apply Kept.cond | split
    | with_reducible apply Kept.at_keeper

theorem Kept.execPowerDownStep {pgoodFell} (h : Kept c p q s) (hkeeper : c.keeper = none)
    (hloader : c.loader = none) (htb : c.tb = none) (hmgmt : c.mgmt = none) (hmem : c.mem = none)
    (hlcs : c.lcs = none) (hqueues : c.queues = none) (hscs : c.scs = none) (hports : c.ports = none)
    (hholders : c.holders = none) (hctxs : c.ctxs = none) :
    nextAll (Kept c p q) (execPowerDownStep pgoodFell s) := by
  dsimp only [Machine.execPowerDownStep]
  with_reducible repeat' first | apply nextAll.next | assumption | apply Kept.powerDownStep

theorem Kept.execTbNowRead {m} (h : Kept c p q s) (hlcs : c.lcs = none) (hports : c.ports = none)
    (hctxs : c.ctxs = none) :
    nextAll (Kept c p q) (execTbNowRead m s) := by
  dsimp only [Machine.execTbNowRead]
  with_reducible repeat' first | apply nextAll.next | assumption | apply Kept.tbNowR

theorem Kept.wakeEvent (h : Kept c p q s) (hkeeper : c.keeper = none) :
    Kept c p q (State.wakeEvent s) := by
  dsimp only [State.wakeEvent]
  with_reducible repeat' first | assumption | apply Kept.beginWake | apply Kept.cond

theorem Kept.execKsZeroize {m} {confirm} (h : Kept c p q s) (hkeeper : c.keeper = none)
    (hloader : c.loader = none) (hmgmt : c.mgmt = none) (hmem : c.mem = none) (hlcs : c.lcs = none)
    (hscs : c.scs = none) (hports : c.ports = none) (hholders : c.holders = none) (hctxs : c.ctxs = none) :
    nextAll (Kept c p q) (execKsZeroize m confirm s) := by
  dsimp only [Machine.execKsZeroize]
  with_reducible repeat' first | apply nextAll.next | intro _ | assumption | apply Kept.ksWrite | apply Kept.ksZeroize

theorem Kept.pairMiss (h : Kept c p q s) (hkeeper : c.keeper = none) :
    Kept c p q (State.pairMiss s) := by
  dsimp only [State.pairMiss]
  with_reducible repeat' first | assumption | apply Kept.report | apply Kept.cond | apply Kept.at_keeper

theorem Kept.execKeeperPairMismatch (h : Kept c p q s) (hkeeper : c.keeper = none) :
    nextAll (Kept c p q) (execKeeperPairMismatch s) := by
  dsimp only [Machine.execKeeperPairMismatch]
  with_reducible repeat' first | apply nextAll.next | assumption | apply Kept.pairMiss

theorem Kept.powerUpStep (h : Kept c p q s) (hkeeper : c.keeper = none) :
    Kept c p q (State.powerUpStep s) := by
  dsimp only [State.powerUpStep]
  repeat' first
    | with_reducible assumption | with_reducible apply Kept.cond | split | with_reducible apply Kept.at_keeper

theorem Kept.execPowerUpStep (h : Kept c p q s) (hkeeper : c.keeper = none) :
    nextAll (Kept c p q) (execPowerUpStep s) := by
  dsimp only [Machine.execPowerUpStep]
  with_reducible repeat' first | apply nextAll.next | assumption | apply Kept.powerUpStep

theorem Kept.quiesceComplete (h : Kept c p q s) (hkeeper : c.keeper = none) (hloader : c.loader = none)
    (hlcs : c.lcs = none) (hscs : c.scs = none) :
    Kept c p q (State.quiesceComplete s) := by
  dsimp only [State.quiesceComplete]
  with_reducible repeat' first
    | assumption | apply Kept.settleMode | apply Kept.ksResult | apply Kept.cond | apply Kept.at_keeper

theorem Kept.execQuiesceComplete (h : Kept c p q s) (hkeeper : c.keeper = none) (hloader : c.loader = none)
    (hlcs : c.lcs = none) (hscs : c.scs = none) :
    nextAll (Kept c p q) (execQuiesceComplete s) := by
  dsimp only [Machine.execQuiesceComplete]
  with_reducible repeat' first | apply nextAll.next | assumption | apply Kept.quiesceComplete

theorem Kept.execWakeEvent (h : Kept c p q s) (hkeeper : c.keeper = none) :
    nextAll (Kept c p q) (execWakeEvent s) := by
  dsimp only [Machine.execWakeEvent]
  with_reducible repeat' first | apply nextAll.next | assumption | apply Kept.wakeEvent

theorem Kept.tbSlow (h : Kept c p q s) (htb : c.tb = none) :
    Kept c p q (State.tbSlow s) := by
  dsimp only [State.tbSlow]
  with_reducible repeat' first | assumption | apply Kept.cond | apply Kept.at_tb

theorem Kept.execTbSwitchTo32k (h : Kept c p q s) (htb : c.tb = none) :
    nextAll (Kept c p q) (execTbSwitchTo32k s) := by
  dsimp only [Machine.execTbSwitchTo32k]
  with_reducible repeat' first | apply nextAll.next | assumption | apply Kept.tbSlow

theorem Kept.execXwakeFall (h : Kept c p q s) (hkeeper : c.keeper = none) :
    nextAll (Kept c p q) (execXwakeFall s) := by
  dsimp only [Machine.execXwakeFall]
  with_reducible repeat' first | apply nextAll.next | assumption | apply Kept.xwake

theorem Kept.execTbCaptureEvent {src} (h : Kept c p q s) :
    nextAll (Kept c p q) (execTbCaptureEvent src s) := by
  dsimp only [Machine.execTbCaptureEvent]
  with_reducible repeat' first | apply nextAll.next | assumption | apply Kept.capture

theorem Kept.fuseSensed {ok} (h : Kept c p q s) (hkeeper : c.keeper = none) :
    Kept c p q (State.fuseSensed s ok) := by
  dsimp only [State.fuseSensed]
  with_reducible repeat' first | assumption | apply Kept.wakeFail | apply Kept.cond | apply Kept.at_keeper

theorem Kept.execFuseSenseDone {ok} (h : Kept c p q s) (hkeeper : c.keeper = none) :
    nextAll (Kept c p q) (execFuseSenseDone ok s) := by
  dsimp only [Machine.execFuseSenseDone]
  with_reducible repeat' first | apply nextAll.next | assumption | apply Kept.fuseSensed

theorem Kept.supplyLoss (h : Kept c p q s) (hkeeper : c.keeper = none) (hloader : c.loader = none)
    (htb : c.tb = none) (hmgmt : c.mgmt = none) (hmem : c.mem = none) (hlcs : c.lcs = none)
    (hqueues : c.queues = none) (hscs : c.scs = none) (hports : c.ports = none) (hholders : c.holders = none)
    (hctxs : c.ctxs = none) :
    Kept c p q (State.supplyLoss s) := by
  exact ⟨h.pending, h.fuses, fun _ => rfl, .inl hkeeper, .inl hloader, .inl htb, .inl hmgmt, .inl hmem, .inl hlcs, .inl hqueues,
    .inl hscs, .inl hports, .inl hholders, .inl hctxs⟩

theorem Kept.execSupplyLoss (h : Kept c p q s) (hkeeper : c.keeper = none) (hloader : c.loader = none)
    (htb : c.tb = none) (hmgmt : c.mgmt = none) (hmem : c.mem = none) (hlcs : c.lcs = none)
    (hqueues : c.queues = none) (hscs : c.scs = none) (hports : c.ports = none) (hholders : c.holders = none)
    (hctxs : c.ctxs = none) :
    nextAll (Kept c p q) (execSupplyLoss s) := by
  dsimp only [Machine.execSupplyLoss]
  with_reducible repeat' first | apply nextAll.next | assumption | apply Kept.supplyLoss

theorem Kept.execComposeComplete {cxlUnits} (h : Kept c p q s) (hkeeper : c.keeper = none)
    (hloader : c.loader = none) (hlcs : c.lcs = none) (hports : c.ports = none) :
    nextAll (Kept c p q) (execComposeComplete cxlUnits s) := by
  dsimp only [Machine.execComposeComplete]
  with_reducible repeat' first | apply nextAll.next | assumption | apply Kept.composeComplete

theorem Kept.execEcSample {e} {sample} (h : Kept c p q s) (hkeeper : c.keeper = none) (hloader : c.loader = none)
    (htb : c.tb = none) (hmgmt : c.mgmt = none) (hmem : c.mem = none) (hlcs : c.lcs = none) (hscs : c.scs = none)
    (hholders : c.holders = none) :
    nextAll (Kept c p q) (execEcSample e sample s) := by
  dsimp only [Machine.execEcSample]
  with_reducible repeat' first | apply nextAll.next | assumption | apply Kept.ecSample

theorem Kept.tbCtlW {m} {v} (h : Kept c p q s) (hkeeper : c.keeper = none) (hlcs : c.lcs = none)
    (hports : c.ports = none) (hctxs : c.ctxs = none) :
    Kept c p q (State.tbCtlW s m v) := by
  dsimp only [State.tbCtlW]
  with_reducible repeat' first | intro _ | assumption | apply Kept.csOpen | apply Kept.setReg | apply Kept.at_keeper

theorem Kept.execPowerOnReset {straps} (h : Kept c p q s) (hkeeper : c.keeper = none) :
    nextAll (Kept c p q) (execPowerOnReset straps s) := by
  dsimp only [Machine.execPowerOnReset]
  with_reducible repeat' first | apply nextAll.next | assumption | apply Kept.powerOn

theorem Kept.execRailTimeout (h : Kept c p q s) (hkeeper : c.keeper = none) :
    nextAll (Kept c p q) (execRailTimeout s) := by
  dsimp only [Machine.execRailTimeout]
  with_reducible repeat' first | apply nextAll.next | assumption | apply Kept.wakeFail | apply Kept.cond

end Sys2Proof.Machine
end

