-- ==== Sys2Proof/Laws/KeptInstr.lean ====
section
/-! SUPPORT. What an operation of retirement, coherence commands and register instructions keeps (Laws/Kept.lean):
one lemma for each operation. -/

namespace Sys2Proof.Machine

variable {c : Track} {p : List Instr} {q : Fuses} {s : State}

theorem Kept.LCore_intWrite {l} {d} {traps} {x} :
    Res.All c p q (fun _ => True) (LCore.intWrite l d traps x) := by
  dsimp only [Machine.LCore.intWrite]
  with_reducible repeat' first | apply Res.All.cond | exact Res.All.exc | apply Res.All.ok | exact trivial

theorem Kept.requestHalt {lc} (h : Kept c p q s) (hlcs : c.lcs = none) :
    Kept c p q (State.requestHalt s lc) := by
  dsimp only [State.requestHalt]
  with_reducible repeat' first | assumption | apply Kept.modLc

theorem Kept.microError {i} {k} {c'} {ue} {addr} {off} (h : Kept c p q s) (hlcs : c.lcs = none) :
    Kept c p q (State.microError s i k c' ue addr off).1 := by
  dsimp only [State.microError]
  repeat' first
    | with_reducible assumption | with_reducible apply Kept.report | with_reducible apply Kept.faultyReplica
    | with_reducible apply Kept.simplexHard | split

theorem Kept.popUpsets {i} {cs} (h : Kept c p q s) :
    Kept c p q (State.popUpsets s i cs) := by
  dsimp only [State.popUpsets]
  with_reducible repeat' first | intro _ | assumption | apply Kept.modCore | apply Kept.foldl

theorem Kept.voteRetire {lc} {h'} {r} {x4} {x5} (h : Kept c p q s) (hmem : c.mem = none) (hlcs : c.lcs = none)
    (hports : c.ports = none) (hholders : c.holders = none) :
    Kept c p q (State.voteRetire lc h' r x4 x5 s).1 := by
  induction x4 generalizing s x5 with
  | zero => exact h
  | succ n ih =>
    dsimp only [State.voteRetire]
    repeat' first
      | with_reducible assumption | with_reducible apply ih | with_reducible apply Kept.microError
      | with_reducible apply Kept.popUpsets | with_reducible apply Kept.coreEvent
      | with_reducible apply Kept.chargeCore | with_reducible apply Kept.rollback
      | with_reducible apply Kept.simplexHard | with_reducible apply Kept.markOdd
      | with_reducible apply Kept.groupLostLc | with_reducible apply Kept.slotEvent
      | with_reducible apply Kept.pairMismatch | with_reducible refine Kept.fst ‹_ = (_, _)› ?_ | split

theorem Kept.retireVote {lc} {r} (h : Kept c p q s) (hmem : c.mem = none) (hlcs : c.lcs = none)
    (hports : c.ports = none) (hholders : c.holders = none) :
    Kept c p q (State.retireVote s lc r).1 := by
  dsimp only [State.retireVote]
  repeat' first | with_reducible assumption | with_reducible apply Kept.voteRetire | split

theorem Kept.voted {lc} {r} {k : State → State} (h : Kept c p q s) (hk : ∀ y0, Kept c p q y0 → Kept c p q (k y0))
    (hkeeper : c.keeper = none) (hloader : c.loader = none) (hmem : c.mem = none) (hlcs : c.lcs = none)
    (hscs : c.scs = none) (hports : c.ports = none) (hholders : c.holders = none) :
    Kept c p q (State.voted s lc r k) := by
  dsimp only [State.voted]
  repeat' first
    | with_reducible assumption | with_reducible apply hk | with_reducible apply Kept.retireVote
    | with_reducible apply Kept.settleMode | with_reducible apply Kept.cond
    | with_reducible refine Kept.fst ‹_ = (_, _)› ?_ | split

theorem Kept.fpVoted {lc} (h : Kept c p q s) (hkeeper : c.keeper = none) (hloader : c.loader = none)
    (hmem : c.mem = none) (hlcs : c.lcs = none) (hscs : c.scs = none) (hports : c.ports = none)
    (hholders : c.holders = none) :
    Kept c p q (State.fpVoted s lc) := by
  dsimp only [State.fpVoted]
  with_reducible repeat' first | intro _ | assumption | apply Kept.voted | apply Kept.fpTrap

theorem Kept.askLine {sl} {l} {fetch} (h : Kept c p q s) :
    Kept c p q (State.askLine s sl l fetch) := by
  dsimp only [State.askLine]
  with_reducible repeat' first | assumption | apply Kept.issue | apply Kept.cond

theorem Kept.askWalks {lc} (h : Kept c p q s) (hlcs : c.lcs = none) :
    Kept c p q (State.askWalks s lc) := by
  dsimp only [State.askWalks]
  repeat' first
    | with_reducible intro _ | with_reducible assumption | with_reducible apply Kept.modLc
    | with_reducible apply Kept.askLine | with_reducible apply Kept.foldl | with_reducible apply Kept.cond | split

theorem Kept.retired {lc} (t : State) (h : Kept c p q s) (ht : Kept c p q t) (hlcs : c.lcs = none)
    (hholders : c.holders = none) :
    Kept c p q (State.retired s lc t) := by
  dsimp only [State.retired]
  repeat' first
    | with_reducible assumption | with_reducible apply Kept.askWalks | with_reducible apply Kept.evictResv
    | with_reducible apply Kept.modHolder | with_reducible apply Kept.cond
    | with_reducible refine Kept.ofExcIn (P := fun x => Kept c p q x.1) ‹_ = Res.excIn _ _› ?_ | split

theorem Kept.runOnce {lc} {w} {f : State → LCore → Res State} (h : Kept c p q s)
    (hf : ∀ y0 y1, Kept c p q y0 → Res.All c p q (Kept c p q) (f y0 y1)) (hmem : c.mem = none)
    (hlcs : c.lcs = none) (hports : c.ports = none) (hholders : c.holders = none) :
    Kept c p q (State.runOnce s lc w f) := by
  dsimp only [State.runOnce]
  repeat' first
    | with_reducible assumption | with_reducible apply hf | with_reducible apply Kept.retired
    | with_reducible apply Kept.modLc | with_reducible apply Kept.takeExc | with_reducible apply Kept.freezeCore
    | with_reducible apply Kept.askWalks | with_reducible apply Kept.cond
    | with_reducible refine Kept.ofRes ‹_ = Res.ok _› ?_
    | with_reducible refine Kept.ofExcIn (P := Kept c p q) ‹_ = Res.excIn _ _› ?_
    | with_reducible refine Kept.ofWaitIn (P := Kept c p q) ‹_ = Res.waitIn _› ?_
    | with_reducible refine Kept.ofExcIn (P := fun x => Kept c p q x.1) ‹_ = Res.excIn _ _› ?_ | split

theorem Kept.runInstr {lc} {w} {f : State → LCore → Res State} (h : Kept c p q s)
    (hf : ∀ y0 y1, Kept c p q y0 → Res.All c p q (Kept c p q) (f y0 y1)) (hkeeper : c.keeper = none)
    (hloader : c.loader = none) (hmem : c.mem = none) (hlcs : c.lcs = none) (hscs : c.scs = none)
    (hports : c.ports = none) (hholders : c.holders = none) :
    Kept c p q (State.runInstr s lc w f) := by
  dsimp only [State.runInstr]
  repeat' first
    | with_reducible intro _ | with_reducible assumption | with_reducible apply hf
    | with_reducible apply Kept.requestHalt | with_reducible apply Kept.fpVoted | with_reducible apply Kept.voted
    | with_reducible apply Kept.enterExc | with_reducible apply Kept.modLc | with_reducible apply Kept.runOnce
    | with_reducible apply Kept.cacheMeet | with_reducible apply Kept.settleMode | with_reducible apply Kept.takeExc
    | with_reducible apply Kept.cond | with_reducible refine Kept.fst ‹_ = (_, _)› ?_
    | with_reducible refine Kept.ofExcIn (P := fun x => Kept c p q x.1) ‹_ = Res.excIn _ _› ?_ | split

theorem Kept.runLocal {lc} {w} {f : LCore → Res LCore} (h : Kept c p q s) (hf : ∀ y0, Res.All c p q
    (fun _ => True) (f y0)) (hkeeper : c.keeper = none) (hloader : c.loader = none) (hmem : c.mem = none)
    (hlcs : c.lcs = none) (hscs : c.scs = none) (hports : c.ports = none) (hholders : c.holders = none) :
    Kept c p q (State.runLocal s lc w f) := by
  dsimp only [State.runLocal]
  with_reducible repeat' first
    | intro _ | assumption | apply hf | apply Kept.runInstr | apply Kept.setLc | apply Res.All.map

theorem Kept.lineMet {sls} {l} {k : State → State} (h : Kept c p q s) (hk : ∀ y0, Kept c p q y0 → Kept c p q
    (k y0)) (hkeeper : c.keeper = none) (hloader : c.loader = none) (hlcs : c.lcs = none) (hscs : c.scs = none)
    (hholders : c.holders = none) :
    Kept c p q (State.lineMet s sls l k) := by
  dsimp only [State.lineMet]
  with_reducible repeat' first
    | intro _ | assumption | apply hk | apply Kept.settleMode | apply Kept.cacheMeet | apply Kept.foldl
    | apply Kept.cond

theorem Kept.leaves {sl} {k : State → State} (h : Kept c p q s) (hk : ∀ y0, Kept c p q y0 → Kept c p q (k y0))
    (hkeeper : c.keeper = none) (hloader : c.loader = none) (hlcs : c.lcs = none) (hscs : c.scs = none)
    (hholders : c.holders = none) :
    Kept c p q (State.leaves s sl k) := by
  dsimp only [State.leaves]
  repeat' first
    | with_reducible assumption | with_reducible apply hk | with_reducible apply Kept.voteOut
    | with_reducible apply Kept.settleMode | with_reducible apply Kept.cond
    | with_reducible refine Kept.fst ‹_ = (_, _)› ?_ | split

theorem Kept.execReclaimDone {t} (h : Kept c p q s) :
    nextAll (Kept c p q) (execReclaimDone t s) := by
  dsimp only [Machine.execReclaimDone]
  with_reducible repeat' first | apply nextAll.next | assumption | apply Kept.reclaimDone

theorem Kept.execCohBrlogRead {m} {t} (h : Kept c p q s) (hlcs : c.lcs = none) (hports : c.ports = none)
    (hctxs : c.ctxs = none) :
    nextAll (Kept c p q) (execCohBrlogRead m t s) := by
  dsimp only [Machine.execCohBrlogRead]
  with_reducible repeat' first | apply nextAll.next | assumption | apply Kept.brlogR

theorem Kept.execUpgrade {slot} {line} (h : Kept c p q s) (hkeeper : c.keeper = none) (hloader : c.loader = none)
    (hlcs : c.lcs = none) (hscs : c.scs = none) (hholders : c.holders = none) :
    nextAll (Kept c p q) (execUpgrade slot line s) := by
  dsimp only [Machine.execUpgrade]
  with_reducible repeat' first
    | apply nextAll.next | intro _ | assumption | apply Kept.leaves | apply Kept.slotRequest | apply Kept.cond

theorem Kept.agentRequest {m} {a} {need} {n} {kind} {k : State → State} (h : Kept c p q s)
    (hk : ∀ y0, Kept c p q y0 → Kept c p q (k y0)) (hkeeper : c.keeper = none) (hloader : c.loader = none)
    (hlcs : c.lcs = none) (hscs : c.scs = none) (hports : c.ports = none) (hholders : c.holders = none)
    (hctxs : c.ctxs = none) :
    Kept c p q (State.agentRequest s m a need n kind k) := by
  dsimp only [State.agentRequest]
  with_reducible repeat' first
    | intro _ | assumption | apply hk | apply Kept.respond | apply Kept.freezeMaster | apply Kept.admitMaster
    | apply Kept.lineMet | apply Kept.cond

theorem Kept.execInvWrite {m} {addr} {data} (h : Kept c p q s) (hkeeper : c.keeper = none)
    (hloader : c.loader = none) (hmem : c.mem = none) (hlcs : c.lcs = none) (hscs : c.scs = none)
    (hports : c.ports = none) (hholders : c.holders = none) (hctxs : c.ctxs = none) :
    nextAll (Kept c p q) (execInvWrite m addr data s) := by
  dsimp only [Machine.execInvWrite]
  with_reducible repeat' first
    | apply nextAll.next | intro _ | assumption | apply Kept.agentRequest | apply Kept.respond
    | apply Kept.invWriteLine | apply Kept.cond

theorem Kept.snoopCmd {sl} {l} {k} (h : Kept c p q s) (hkeeper : c.keeper = none) (hloader : c.loader = none)
    (hmem : c.mem = none) (hlcs : c.lcs = none) (hscs : c.scs = none) (hports : c.ports = none)
    (hholders : c.holders = none) :
    Kept c p q (State.snoopCmd s sl l k) := by
  dsimp only [State.snoopCmd]
  with_reducible repeat' first
    | intro _ | assumption | apply Kept.leaves | apply Kept.lineMet | apply Kept.snoopArrive | apply Kept.cond

theorem Kept.execSnpInv {slot} {line} (h : Kept c p q s) (hkeeper : c.keeper = none) (hloader : c.loader = none)
    (hmem : c.mem = none) (hlcs : c.lcs = none) (hscs : c.scs = none) (hports : c.ports = none)
    (hholders : c.holders = none) :
    nextAll (Kept c p q) (execSnpInv slot line s) := by
  dsimp only [Machine.execSnpInv]
  with_reducible repeat' first | apply nextAll.next | assumption | apply Kept.snoopCmd

theorem Kept.execSnpRecover {slot} {line} (h : Kept c p q s) (hkeeper : c.keeper = none)
    (hloader : c.loader = none) (hmem : c.mem = none) (hlcs : c.lcs = none) (hscs : c.scs = none)
    (hports : c.ports = none) (hholders : c.holders = none) :
    nextAll (Kept c p q) (execSnpRecover slot line s) := by
  dsimp only [Machine.execSnpRecover]
  with_reducible repeat' first | apply nextAll.next | assumption | apply Kept.snoopCmd

theorem Kept.execCancel {r} {line} (h : Kept c p q s) :
    nextAll (Kept c p q) (execCancel r line s) := by
  dsimp only [Machine.execCancel]
  repeat' first
    | with_reducible apply nextAll.next | with_reducible assumption | with_reducible apply Kept.unstarve
    | with_reducible apply Kept.dropReq | with_reducible apply Kept.cond | split

theorem Kept.execReadShared {slot} {line} {ev} (h : Kept c p q s) (hkeeper : c.keeper = none)
    (hloader : c.loader = none) (hlcs : c.lcs = none) (hscs : c.scs = none) (hholders : c.holders = none) :
    nextAll (Kept c p q) (execReadShared slot line ev s) := by
  dsimp only [Machine.execReadShared]
  with_reducible repeat' first
    | apply nextAll.next | intro _ | assumption | apply Kept.leaves | apply Kept.slotRequest | apply Kept.issue
    | apply Kept.cond

theorem Kept.execWriteback {slot} {line} (h : Kept c p q s) (hkeeper : c.keeper = none)
    (hloader : c.loader = none) (hmem : c.mem = none) (hlcs : c.lcs = none) (hscs : c.scs = none)
    (hports : c.ports = none) (hholders : c.holders = none) :
    nextAll (Kept c p q) (execWriteback slot line s) := by
  dsimp only [Machine.execWriteback]
  with_reducible repeat' first
    | apply nextAll.next | intro _ | assumption | apply Kept.leaves | apply Kept.lineMet | apply Kept.writeback
    | apply Kept.cond

theorem Kept.execVictimAccepted {sl} (h : Kept c p q s) (hmem : c.mem = none) (hports : c.ports = none) :
    nextAll (Kept c p q) (execVictimAccepted sl s) := by
  dsimp only [Machine.execVictimAccepted]
  with_reducible repeat' first | apply nextAll.next | assumption | apply Kept.victimAccept

theorem Kept.execSnoopAnswer {slot} {line} (h : Kept c p q s) (hlcs : c.lcs = none) :
    nextAll (Kept c p q) (execSnoopAnswer slot line s) := by
  dsimp only [Machine.execSnoopAnswer]
  with_reducible repeat' first | apply nextAll.next | assumption | apply Kept.answerArrive

theorem Kept.execComplete {r} {line} (h : Kept c p q s) :
    nextAll (Kept c p q) (execComplete r line s) := by
  dsimp only [Machine.execComplete]
  with_reducible repeat' first | apply nextAll.next | assumption | apply Kept.completeTxn

theorem Kept.execSnpPeek {slot} {line} (h : Kept c p q s) (hkeeper : c.keeper = none) (hloader : c.loader = none)
    (hmem : c.mem = none) (hlcs : c.lcs = none) (hscs : c.scs = none) (hports : c.ports = none)
    (hholders : c.holders = none) :
    nextAll (Kept c p q) (execSnpPeek slot line s) := by
  dsimp only [Machine.execSnpPeek]
  with_reducible repeat' first | apply nextAll.next | assumption | apply Kept.snoopCmd

theorem Kept.execEvictClean {slot} {line} (h : Kept c p q s) (hkeeper : c.keeper = none)
    (hloader : c.loader = none) (hmem : c.mem = none) (hlcs : c.lcs = none) (hscs : c.scs = none)
    (hports : c.ports = none) (hholders : c.holders = none) :
    nextAll (Kept c p q) (execEvictClean slot line s) := by
  dsimp only [Machine.execEvictClean]
  with_reducible repeat' first
    | apply nextAll.next | intro _ | assumption | apply Kept.leaves | apply Kept.evictClean | apply Kept.cond

theorem Kept.execSnpClean {slot} {line} (h : Kept c p q s) (hkeeper : c.keeper = none) (hloader : c.loader = none)
    (hmem : c.mem = none) (hlcs : c.lcs = none) (hscs : c.scs = none) (hports : c.ports = none)
    (hholders : c.holders = none) :
    nextAll (Kept c p q) (execSnpClean slot line s) := by
  dsimp only [Machine.execSnpClean]
  with_reducible repeat' first | apply nextAll.next | assumption | apply Kept.snoopCmd

theorem Kept.execPeek {m} {addr} {size} {ev} (h : Kept c p q s) (hkeeper : c.keeper = none)
    (hloader : c.loader = none) (hlcs : c.lcs = none) (hscs : c.scs = none) (hports : c.ports = none)
    (hholders : c.holders = none) (hctxs : c.ctxs = none) :
    nextAll (Kept c p q) (execPeek m addr size ev s) := by
  dsimp only [Machine.execPeek]
  with_reducible repeat' first
    | apply nextAll.next | intro _ | assumption | apply Kept.agentRequest | apply Kept.basinRead
    | apply Kept.respond | apply Kept.cond

theorem Kept.execReadOwn {slot} {line} {ev} (h : Kept c p q s) (hkeeper : c.keeper = none)
    (hloader : c.loader = none) (hlcs : c.lcs = none) (hscs : c.scs = none) (hholders : c.holders = none) :
    nextAll (Kept c p q) (execReadOwn slot line ev s) := by
  dsimp only [Machine.execReadOwn]
  with_reducible repeat' first
    | apply nextAll.next | intro _ | assumption | apply Kept.leaves | apply Kept.slotRequest | apply Kept.cond

theorem Kept.execSnpProbe {slot} {line} (h : Kept c p q s) (hkeeper : c.keeper = none) (hloader : c.loader = none)
    (hmem : c.mem = none) (hlcs : c.lcs = none) (hscs : c.scs = none) (hports : c.ports = none)
    (hholders : c.holders = none) :
    nextAll (Kept c p q) (execSnpProbe slot line s) := by
  dsimp only [Machine.execSnpProbe]
  with_reducible repeat' first | apply nextAll.next | assumption | apply Kept.snoopCmd

theorem Kept.execNackResend {r} {line} (h : Kept c p q s) :
    nextAll (Kept c p q) (execNackResend r line s) := by
  dsimp only [Machine.execNackResend]
  with_reducible repeat' first | apply nextAll.next | assumption | apply Kept.other

theorem Kept.execPrefetch {slot} {line} {ev} (h : Kept c p q s) (hkeeper : c.keeper = none)
    (hloader : c.loader = none) (hlcs : c.lcs = none) (hscs : c.scs = none) (hholders : c.holders = none) :
    nextAll (Kept c p q) (execPrefetch slot line ev s) := by
  dsimp only [Machine.execPrefetch]
  with_reducible repeat' first
    | apply nextAll.next | intro _ | assumption | apply Kept.leaves | apply Kept.slotRequest | apply Kept.cond

theorem Kept.execSnpShare {slot} {line} (h : Kept c p q s) (hkeeper : c.keeper = none) (hloader : c.loader = none)
    (hmem : c.mem = none) (hlcs : c.lcs = none) (hscs : c.scs = none) (hports : c.ports = none)
    (hholders : c.holders = none) :
    nextAll (Kept c p q) (execSnpShare slot line s) := by
  dsimp only [Machine.execSnpShare]
  with_reducible repeat' first | apply nextAll.next | assumption | apply Kept.snoopCmd

theorem Kept.execMaintAction {sl} {line} (h : Kept c p q s) (hkeeper : c.keeper = none)
    (hloader : c.loader = none) (hmem : c.mem = none) (hlcs : c.lcs = none) (hscs : c.scs = none)
    (hports : c.ports = none) (hholders : c.holders = none) :
    nextAll (Kept c p q) (execMaintAction sl line s) := by
  dsimp only [Machine.execMaintAction]
  with_reducible repeat' first
    | apply nextAll.next | intro _ | assumption | apply Kept.lineMet | apply Kept.basinMeet | apply Kept.maintAction

theorem Kept.execShift {lc} {op} {d} {a} {b} (h : Kept c p q s) (hkeeper : c.keeper = none)
    (hloader : c.loader = none) (hmem : c.mem = none) (hlcs : c.lcs = none) (hscs : c.scs = none)
    (hports : c.ports = none) (hholders : c.holders = none) :
    nextAll (Kept c p q) (execShift lc op d a b s) := by
  dsimp only [Machine.execShift]
  with_reducible repeat' first
    | apply nextAll.next | intro _ | assumption | apply Kept.runLocal | apply Kept.LCore_intWrite

theorem Kept.execLogicalOperation {lc} {op} {d} {a} {b} (h : Kept c p q s) (hkeeper : c.keeper = none)
    (hloader : c.loader = none) (hmem : c.mem = none) (hlcs : c.lcs = none) (hscs : c.scs = none)
    (hports : c.ports = none) (hholders : c.holders = none) :
    nextAll (Kept c p q) (execLogicalOperation lc op d a b s) := by
  dsimp only [Machine.execLogicalOperation]
  with_reducible repeat' first
    | apply nextAll.next | intro _ | assumption | apply Kept.runLocal | apply Kept.LCore_intWrite

theorem Kept.execCompare {lc} {op} {d} {a} {b} (h : Kept c p q s) (hkeeper : c.keeper = none)
    (hloader : c.loader = none) (hmem : c.mem = none) (hlcs : c.lcs = none) (hscs : c.scs = none)
    (hports : c.ports = none) (hholders : c.holders = none) :
    nextAll (Kept c p q) (execCompare lc op d a b s) := by
  dsimp only [Machine.execCompare]
  with_reducible repeat' first
    | apply nextAll.next | intro _ | assumption | apply Kept.runLocal | apply Res.All.ok | exact trivial

theorem Kept.execDivstep {lc} {d} {a} {b} (h : Kept c p q s) (hkeeper : c.keeper = none)
    (hloader : c.loader = none) (hmem : c.mem = none) (hlcs : c.lcs = none) (hscs : c.scs = none)
    (hports : c.ports = none) (hholders : c.holders = none) :
    nextAll (Kept c p q) (execDivstep lc d a b s) := by
  dsimp only [Machine.execDivstep]
  with_reducible repeat' first
    | apply nextAll.next | intro _ | assumption | apply Kept.runLocal | apply Kept.check | apply Kept.LCore_intWrite
    | apply Res.All.bind

theorem Kept.execSextwZextw {lc} {signed} {d} {a} (h : Kept c p q s) (hkeeper : c.keeper = none)
    (hloader : c.loader = none) (hmem : c.mem = none) (hlcs : c.lcs = none) (hscs : c.scs = none)
    (hports : c.ports = none) (hholders : c.holders = none) :
    nextAll (Kept c p q) (execSextwZextw lc signed d a s) := by
  dsimp only [Machine.execSextwZextw]
  with_reducible repeat' first
    | apply nextAll.next | intro _ | assumption | apply Kept.runLocal | apply Res.All.ok | exact trivial

theorem Kept.execSub {lc} {d} {a} {b} (h : Kept c p q s) (hkeeper : c.keeper = none) (hloader : c.loader = none)
    (hmem : c.mem = none) (hlcs : c.lcs = none) (hscs : c.scs = none) (hports : c.ports = none)
    (hholders : c.holders = none) :
    nextAll (Kept c p q) (execSub lc d a b s) := by
  dsimp only [Machine.execSub]
  with_reducible repeat' first
    | apply nextAll.next | intro _ | assumption | apply Kept.runLocal | apply Kept.LCore_intWrite

theorem Kept.execMul {lc} {op} {d} {a} {b} (h : Kept c p q s) (hkeeper : c.keeper = none)
    (hloader : c.loader = none) (hmem : c.mem = none) (hlcs : c.lcs = none) (hscs : c.scs = none)
    (hports : c.ports = none) (hholders : c.holders = none) :
    nextAll (Kept c p q) (execMul lc op d a b s) := by
  dsimp only [Machine.execMul]
  with_reducible repeat' first
    | apply nextAll.next | intro _ | assumption | apply Kept.runLocal | apply Kept.LCore_intWrite

theorem Kept.execNeg {lc} {d} {a} (h : Kept c p q s) (hkeeper : c.keeper = none) (hloader : c.loader = none)
    (hmem : c.mem = none) (hlcs : c.lcs = none) (hscs : c.scs = none) (hports : c.ports = none)
    (hholders : c.holders = none) :
    nextAll (Kept c p q) (execNeg lc d a s) := by
  dsimp only [Machine.execNeg]
  with_reducible repeat' first
    | apply nextAll.next | intro _ | assumption | apply Kept.runLocal | apply Kept.LCore_intWrite

theorem Kept.execLui {lc} {d} {imm} (h : Kept c p q s) (hkeeper : c.keeper = none) (hloader : c.loader = none)
    (hmem : c.mem = none) (hlcs : c.lcs = none) (hscs : c.scs = none) (hports : c.ports = none)
    (hholders : c.holders = none) :
    nextAll (Kept c p q) (execLui lc d imm s) := by
  dsimp only [Machine.execLui]
  with_reducible repeat' first
    | apply nextAll.next | intro _ | assumption | apply Kept.runLocal | apply Res.All.ok | exact trivial

theorem Kept.execMinMax {lc} {op} {d} {a} {b} (h : Kept c p q s) (hkeeper : c.keeper = none)
    (hloader : c.loader = none) (hmem : c.mem = none) (hlcs : c.lcs = none) (hscs : c.scs = none)
    (hports : c.ports = none) (hholders : c.holders = none) :
    nextAll (Kept c p q) (execMinMax lc op d a b s) := by
  dsimp only [Machine.execMinMax]
  with_reducible repeat' first
    | apply nextAll.next | intro _ | assumption | apply Kept.runLocal | apply Res.All.ok | exact trivial

theorem Kept.execRotate {lc} {op} {d} {a} {b} (h : Kept c p q s) (hkeeper : c.keeper = none)
    (hloader : c.loader = none) (hmem : c.mem = none) (hlcs : c.lcs = none) (hscs : c.scs = none)
    (hports : c.ports = none) (hholders : c.holders = none) :
    nextAll (Kept c p q) (execRotate lc op d a b s) := by
  dsimp only [Machine.execRotate]
  with_reducible repeat' first
    | apply nextAll.next | intro _ | assumption | apply Kept.runLocal | apply Kept.LCore_intWrite

theorem Kept.execDiv {lc} {op} {d} {a} {b} (h : Kept c p q s) (hkeeper : c.keeper = none)
    (hloader : c.loader = none) (hmem : c.mem = none) (hlcs : c.lcs = none) (hscs : c.scs = none)
    (hports : c.ports = none) (hholders : c.holders = none) :
    nextAll (Kept c p q) (execDiv lc op d a b s) := by
  dsimp only [Machine.execDiv]
  with_reducible repeat' first
    | apply nextAll.next | intro _ | assumption | apply Kept.runLocal | apply Kept.check | apply Kept.LCore_intWrite
    | apply Res.All.bind

theorem Kept.execAdd {lc} {d} {a} {b} (h : Kept c p q s) (hkeeper : c.keeper = none) (hloader : c.loader = none)
    (hmem : c.mem = none) (hlcs : c.lcs = none) (hscs : c.scs = none) (hports : c.ports = none)
    (hholders : c.holders = none) :
    nextAll (Kept c p q) (execAdd lc d a b s) := by
  dsimp only [Machine.execAdd]
  with_reducible repeat' first
    | apply nextAll.next | intro _ | assumption | apply Kept.runLocal | apply Kept.LCore_intWrite

theorem Kept.execFpMove {lc} {op} {d} {a} (h : Kept c p q s) (hkeeper : c.keeper = none)
    (hloader : c.loader = none) (hmem : c.mem = none) (hlcs : c.lcs = none) (hscs : c.scs = none)
    (hports : c.ports = none) (hholders : c.holders = none) :
    nextAll (Kept c p q) (execFpMove lc op d a s) := by
  dsimp only [Machine.execFpMove]
  with_reducible repeat' first
    | apply nextAll.next | intro _ | assumption | apply Kept.runLocal | apply Res.All.ok | exact trivial

theorem Kept.LCore_roundFor {l} {decimal} {rm} :
    Res.All c p q (fun _ => True) (LCore.roundFor l decimal rm) := by
  dsimp only [Machine.LCore.roundFor]
  repeat' first
    | with_reducible exact Res.All.exc | with_reducible apply Res.All.ok | with_reducible exact trivial | split

theorem Kept.fpArith {lc} {w} {fmt} {rm} {d} {f} (h : Kept c p q s) (hkeeper : c.keeper = none)
    (hloader : c.loader = none) (hmem : c.mem = none) (hlcs : c.lcs = none) (hscs : c.scs = none)
    (hports : c.ports = none) (hholders : c.holders = none) :
    Kept c p q (State.fpArith s lc w fmt rm d f) := by
  dsimp only [State.fpArith]
  with_reducible repeat' first
    | intro _ | assumption | apply Kept.runLocal | apply Kept.LCore_roundFor | apply Res.All.map

theorem Kept.execFmul {lc} {fmt} {d} {a} {b} {rm} (h : Kept c p q s) (hkeeper : c.keeper = none)
    (hloader : c.loader = none) (hmem : c.mem = none) (hlcs : c.lcs = none) (hscs : c.scs = none)
    (hports : c.ports = none) (hholders : c.holders = none) :
    nextAll (Kept c p q) (execFmul lc fmt d a b rm s) := by
  dsimp only [Machine.execFmul]
  with_reducible repeat' first | apply nextAll.next | assumption | apply Kept.fpArith

theorem Kept.convFmts {src} {dst} :
    Res.All c p q (fun _ => True) (convFmts src dst) := by
  dsimp only [Machine.convFmts]
  repeat' first
    | with_reducible apply Res.All.cond | with_reducible exact Res.All.exc | with_reducible apply Res.All.ok
    | with_reducible exact trivial | split

theorem Kept.execFcvtFf {lc} {src} {dst} {d} {a} {rm} (h : Kept c p q s) (hkeeper : c.keeper = none)
    (hloader : c.loader = none) (hmem : c.mem = none) (hlcs : c.lcs = none) (hscs : c.scs = none)
    (hports : c.ports = none) (hholders : c.holders = none) :
    nextAll (Kept c p q) (execFcvtFf lc src dst d a rm s) := by
  dsimp only [Machine.execFcvtFf]
  with_reducible repeat' first
    | apply nextAll.next | intro _ | assumption | apply Kept.runLocal | apply Kept.convFmts
    | apply Kept.LCore_roundFor | apply Res.All.map | apply Res.All.bind

theorem Kept.execFsqrt {lc} {fmt} {d} {a} {rm} (h : Kept c p q s) (hkeeper : c.keeper = none)
    (hloader : c.loader = none) (hmem : c.mem = none) (hlcs : c.lcs = none) (hscs : c.scs = none)
    (hports : c.ports = none) (hholders : c.holders = none) :
    nextAll (Kept c p q) (execFsqrt lc fmt d a rm s) := by
  dsimp only [Machine.execFsqrt]
  with_reducible repeat' first | apply nextAll.next | assumption | apply Kept.fpArith

theorem Kept.intFmt {code} :
    Res.All c p q (fun _ => True) (intFmt code) := by
  dsimp only [Machine.intFmt]
  repeat' first
    | with_reducible apply Res.All.cond | with_reducible exact Res.All.exc | with_reducible apply Res.All.ok
    | with_reducible exact trivial | split

theorem Kept.fpToInt {lc} {w} {unsigned} {src} {d} {a} {rm} (h : Kept c p q s) (hkeeper : c.keeper = none)
    (hloader : c.loader = none) (hmem : c.mem = none) (hlcs : c.lcs = none) (hscs : c.scs = none)
    (hports : c.ports = none) (hholders : c.holders = none) :
    Kept c p q (State.fpToInt s lc w unsigned src d a rm) := by
  dsimp only [State.fpToInt]
  with_reducible repeat' first
    | intro _ | assumption | apply Kept.runLocal | apply Kept.intFmt | apply Kept.LCore_roundFor | apply Res.All.map
    | apply Res.All.bind

theorem Kept.execFcvtFu {lc} {src} {d} {a} {rm} (h : Kept c p q s) (hkeeper : c.keeper = none)
    (hloader : c.loader = none) (hmem : c.mem = none) (hlcs : c.lcs = none) (hscs : c.scs = none)
    (hports : c.ports = none) (hholders : c.holders = none) :
    nextAll (Kept c p q) (execFcvtFu lc src d a rm s) := by
  dsimp only [Machine.execFcvtFu]
  with_reducible repeat' first | apply nextAll.next | assumption | apply Kept.fpToInt

theorem Kept.execFminFmax {lc} {fmt} {max} {d} {a} {b} (h : Kept c p q s) (hkeeper : c.keeper = none)
    (hloader : c.loader = none) (hmem : c.mem = none) (hlcs : c.lcs = none) (hscs : c.scs = none)
    (hports : c.ports = none) (hholders : c.holders = none) :
    nextAll (Kept c p q) (execFminFmax lc fmt max d a b s) := by
  dsimp only [Machine.execFminFmax]
  with_reducible repeat' first
    | apply nextAll.next | intro _ | assumption | apply Kept.runLocal | apply Res.All.ok | exact trivial

theorem Kept.execFcvtIf {lc} {unsigned} {dst} {d} {a} {rm} (h : Kept c p q s) (hkeeper : c.keeper = none)
    (hloader : c.loader = none) (hmem : c.mem = none) (hlcs : c.lcs = none) (hscs : c.scs = none)
    (hports : c.ports = none) (hholders : c.holders = none) :
    nextAll (Kept c p q) (execFcvtIf lc unsigned dst d a rm s) := by
  dsimp only [Machine.execFcvtIf]
  with_reducible repeat' first
    | apply nextAll.next | intro _ | assumption | apply Kept.runLocal | apply Kept.intFmt
    | apply Kept.LCore_roundFor | apply Res.All.map | apply Res.All.bind

theorem Kept.execFpTrapDelivery {lc} (h : Kept c p q s) (hkeeper : c.keeper = none) (hloader : c.loader = none)
    (hmem : c.mem = none) (hlcs : c.lcs = none) (hscs : c.scs = none) (hports : c.ports = none)
    (hholders : c.holders = none) :
    nextAll (Kept c p q) (execFpTrapDelivery lc s) := by
  dsimp only [Machine.execFpTrapDelivery]
  with_reducible repeat' first | apply nextAll.next | assumption | apply Kept.fpVoted | apply Kept.cond

theorem Kept.execFsub {lc} {fmt} {d} {a} {b} {rm} (h : Kept c p q s) (hkeeper : c.keeper = none)
    (hloader : c.loader = none) (hmem : c.mem = none) (hlcs : c.lcs = none) (hscs : c.scs = none)
    (hports : c.ports = none) (hholders : c.holders = none) :
    nextAll (Kept c p q) (execFsub lc fmt d a b rm s) := by
  dsimp only [Machine.execFsub]
  with_reducible repeat' first | apply nextAll.next | assumption | apply Kept.fpArith

theorem Kept.execFcmp {lc} {fmt} {signalling} {d} {a} {b} (h : Kept c p q s) (hkeeper : c.keeper = none)
    (hloader : c.loader = none) (hmem : c.mem = none) (hlcs : c.lcs = none) (hscs : c.scs = none)
    (hports : c.ports = none) (hholders : c.holders = none) :
    nextAll (Kept c p q) (execFcmp lc fmt signalling d a b s) := by
  dsimp only [Machine.execFcmp]
  with_reducible repeat' first
    | apply nextAll.next | intro _ | assumption | apply Kept.runLocal | apply Res.All.ok | exact trivial

theorem Kept.execFcvtFi {lc} {src} {d} {a} {rm} (h : Kept c p q s) (hkeeper : c.keeper = none)
    (hloader : c.loader = none) (hmem : c.mem = none) (hlcs : c.lcs = none) (hscs : c.scs = none)
    (hports : c.ports = none) (hholders : c.holders = none) :
    nextAll (Kept c p q) (execFcvtFi lc src d a rm s) := by
  dsimp only [Machine.execFcvtFi]
  with_reducible repeat' first | apply nextAll.next | assumption | apply Kept.fpToInt

theorem Kept.execFadd {lc} {fmt} {d} {a} {b} {rm} (h : Kept c p q s) (hkeeper : c.keeper = none)
    (hloader : c.loader = none) (hmem : c.mem = none) (hlcs : c.lcs = none) (hscs : c.scs = none)
    (hports : c.ports = none) (hholders : c.holders = none) :
    nextAll (Kept c p q) (execFadd lc fmt d a b rm s) := by
  dsimp only [Machine.execFadd]
  with_reducible repeat' first | apply nextAll.next | assumption | apply Kept.fpArith

theorem Kept.execFrint {lc} {fmt} {d} {a} {rm} (h : Kept c p q s) (hkeeper : c.keeper = none)
    (hloader : c.loader = none) (hmem : c.mem = none) (hlcs : c.lcs = none) (hscs : c.scs = none)
    (hports : c.ports = none) (hholders : c.holders = none) :
    nextAll (Kept c p q) (execFrint lc fmt d a rm s) := by
  dsimp only [Machine.execFrint]
  with_reducible repeat' first | apply nextAll.next | assumption | apply Kept.fpArith

theorem Kept.execFclass {lc} {fmt} {d} {a} (h : Kept c p q s) (hkeeper : c.keeper = none)
    (hloader : c.loader = none) (hmem : c.mem = none) (hlcs : c.lcs = none) (hscs : c.scs = none)
    (hports : c.ports = none) (hholders : c.holders = none) :
    nextAll (Kept c p q) (execFclass lc fmt d a s) := by
  dsimp only [Machine.execFclass]
  with_reducible repeat' first
    | apply nextAll.next | intro _ | assumption | apply Kept.runLocal | apply Res.All.ok | exact trivial

theorem Kept.execFusedMultiplyAdd {lc} {fmt} {op} {d} {a} {b} {c'} (h : Kept c p q s) (hkeeper : c.keeper = none)
    (hloader : c.loader = none) (hmem : c.mem = none) (hlcs : c.lcs = none) (hscs : c.scs = none)
    (hports : c.ports = none) (hholders : c.holders = none) :
    nextAll (Kept c p q) (execFusedMultiplyAdd lc fmt op d a b c' s) := by
  dsimp only [Machine.execFusedMultiplyAdd]
  with_reducible repeat' first | apply nextAll.next | assumption | apply Kept.fpArith

theorem Kept.execFabsFnegFcpysgn {lc} {fmt} {op} {d} {a} {b} (h : Kept c p q s) (hkeeper : c.keeper = none)
    (hloader : c.loader = none) (hmem : c.mem = none) (hlcs : c.lcs = none) (hscs : c.scs = none)
    (hports : c.ports = none) (hholders : c.holders = none) :
    nextAll (Kept c p q) (execFabsFnegFcpysgn lc fmt op d a b s) := by
  dsimp only [Machine.execFabsFnegFcpysgn]
  with_reducible repeat' first
    | apply nextAll.next | intro _ | assumption | apply Kept.runLocal | apply Res.All.ok | exact trivial

theorem Kept.execFquant {lc} {fmt} {d} {a} {b} {rm} (h : Kept c p q s) (hkeeper : c.keeper = none)
    (hloader : c.loader = none) (hmem : c.mem = none) (hlcs : c.lcs = none) (hscs : c.scs = none)
    (hports : c.ports = none) (hholders : c.holders = none) :
    nextAll (Kept c p q) (execFquant lc fmt d a b rm s) := by
  dsimp only [Machine.execFquant]
  with_reducible repeat' first
    | apply nextAll.next | intro _ | assumption | apply Kept.runLocal | apply Kept.check | apply Kept.LCore_roundFor
    | apply Res.All.map | apply Res.All.bind

end Sys2Proof.Machine
end

