-- ==== Sys2Proof/Laws/KeptUnits.lean ====
section
/-! SUPPORT. What an operation of collectors, engines, parcels, worlds and the loader keeps (Laws/Kept.lean):
one lemma for each operation. -/

namespace Sys2Proof.Machine

variable {c : Track} {p : List Instr} {q : Fuses} {s : State}

theorem Kept.retain {m} {p'} (h : Kept c p q s) (hmgmt : c.mgmt = none) :
    Kept c p q (State.retain s m p') := by
  dsimp only [State.retain]
  with_reducible repeat' first | assumption | apply Kept.at_mgmt

theorem Kept.latchGrave {k} {m} (h : Kept c p q s) (hkeeper : c.keeper = none) :
    Kept c p q (State.latchGrave s k m) := by
  dsimp only [State.latchGrave]
  repeat' first
    | with_reducible assumption | with_reducible apply Kept.setReg | with_reducible apply Kept.cond | split
    | with_reducible apply Kept.at_keeper

theorem Kept.pinRaise {n} (h : Kept c p q s) :
    Kept c p q (State.pinRaise s n) := by
  dsimp only [State.pinRaise]
  with_reducible repeat' first | assumption | apply Kept.raiseIrq | apply Kept.bump

theorem Kept.pinStorm {n} {cause} (h : Kept c p q s) :
    Kept c p q (State.pinStorm s n cause) := by
  dsimp only [State.pinStorm]
  with_reducible repeat' first | assumption | apply Kept.report | apply Kept.setFld

theorem Kept.pinFire {n} {edges} (h : Kept c p q s) :
    Kept c p q (State.pinFire s n edges) := by
  dsimp only [State.pinFire]
  with_reducible repeat' first
    | assumption | apply Kept.pinStorm | apply Kept.bump | apply Kept.pinRaise | apply Kept.modPin | apply Kept.cond

theorem Kept.pinEvent {n} {edges} (h : Kept c p q s) :
    Kept c p q (State.pinEvent s n edges) := by
  dsimp only [State.pinEvent]
  with_reducible repeat' first
    | assumption | apply Kept.modPin | apply Kept.bump | apply Kept.pinFire | apply Kept.cond

theorem Kept.accFail {block} {tile} (h : Kept c p q s) :
    Kept c p q (State.accFail s block tile) := by
  dsimp only [State.accFail]
  repeat' first
    | with_reducible assumption | with_reducible apply Kept.report | with_reducible apply Kept.setFld
    | with_reducible apply Kept.modAcc | with_reducible apply Kept.cond | split

theorem Kept.promotionReact {m} (h : Kept c p q s) (hmem : c.mem = none) (hlcs : c.lcs = none)
    (hports : c.ports = none) (hholders : c.holders = none) :
    Kept c p q (State.promotionReact s m) := by
  dsimp only [State.promotionReact]
  repeat' first
    | with_reducible assumption | with_reducible apply Kept.replaceCore | with_reducible apply Kept.pairTest
    | with_reducible apply Kept.simplexHard | with_reducible apply Kept.voterOut
    | with_reducible apply Kept.chanFail | with_reducible apply Kept.accFail | with_reducible apply Kept.cond
    | split

theorem Kept.promotionSignal {k} (h : Kept c p q s) (hkeeper : c.keeper = none) (hloader : c.loader = none)
    (hmem : c.mem = none) (hlcs : c.lcs = none) (hscs : c.scs = none) (hports : c.ports = none)
    (hholders : c.holders = none) :
    Kept c p q (State.promotionSignal s k) := by
  dsimp only [State.promotionSignal]
  repeat' first
    | with_reducible assumption | with_reducible apply Kept.settleMode | with_reducible apply Kept.promotionReact
    | with_reducible apply Kept.modCol | split

theorem Kept.execPromotionSignal {k} (h : Kept c p q s) (hkeeper : c.keeper = none) (hloader : c.loader = none)
    (hmem : c.mem = none) (hlcs : c.lcs = none) (hscs : c.scs = none) (hports : c.ports = none)
    (hholders : c.holders = none) :
    nextAll (Kept c p q) (execPromotionSignal k s) := by
  dsimp only [Machine.execPromotionSignal]
  with_reducible repeat' first | apply nextAll.next | assumption | apply Kept.promotionSignal

theorem Kept.fullTime {t40} (h : Kept c p q s) :
    Kept c p q (State.fullTime s t40).2 := by
  dsimp only [State.fullTime]
  repeat' first | with_reducible assumption | with_reducible apply Kept.draw | split

theorem Kept.countFaultAt {k} {m} {time} (h : Kept c p q s) :
    Kept c p q (State.countFaultAt s k m time).2 := by
  dsimp only [State.countFaultAt]
  repeat' first
    | with_reducible assumption | with_reducible apply Kept.bump | with_reducible apply Kept.modCol | split

theorem Kept.countFault {k} {m} (h : Kept c p q s) :
    Kept c p q (State.countFault s k m).2 := by
  dsimp only [State.countFault]
  with_reducible repeat' first | assumption | apply Kept.fullTime | apply Kept.countFaultAt

theorem Kept.logFault {k} {m} (h : Kept c p q s) :
    Kept c p q (State.logFault s k m) := by
  dsimp only [State.logFault]
  with_reducible repeat' first | assumption | apply Kept.modCol | apply Kept.bump | apply Kept.cond

theorem Kept.faultEnq {k} {q'} {w} (h : Kept c p q s) (hqueues : c.queues = none) :
    Kept c p q (State.faultEnq s k q' w) := by
  dsimp only [State.faultEnq]
  with_reducible repeat' first | assumption | apply Kept.qArrive | apply Kept.bump | apply Kept.cond

theorem Kept.gateVector {lc} {set} {vec} {cls} {inst} (h : Kept c p q s) (hlcs : c.lcs = none) :
    Kept c p q (State.gateVector s lc set vec cls inst) := by
  dsimp only [State.gateVector]
  with_reducible repeat' first | assumption | apply Kept.modLc

theorem Kept.faultToParcel {k} {p'} {m} (h : Kept c p q s) (hlcs : c.lcs = none) (hqueues : c.queues = none) :
    Kept c p q (State.faultToParcel s k p' m) := by
  dsimp only [State.faultToParcel]
  repeat' first
    | with_reducible intro _ | with_reducible assumption | with_reducible apply Kept.setFld
    | with_reducible apply Kept.faultEnq | with_reducible apply Kept.gateVector | with_reducible apply Kept.foldl
    | with_reducible apply Kept.cond | split

theorem Kept.handleFault {k} {m0} (h : Kept c p q s) (hkeeper : c.keeper = none) (hmgmt : c.mgmt = none)
    (hlcs : c.lcs = none) (hqueues : c.queues = none) :
    Kept c p q (State.handleFault s k m0) := by
  dsimp only [State.handleFault]
  repeat' first
    | with_reducible assumption | with_reducible apply Kept.countFault | with_reducible apply Kept.latchGrave
    | with_reducible apply Kept.logFault | with_reducible apply Kept.bump | with_reducible apply Kept.setFld
    | with_reducible apply Kept.raiseIrq | with_reducible apply Kept.faultToParcel
    | with_reducible apply Kept.retain | with_reducible apply Kept.modCol | with_reducible apply Kept.cond | split

theorem Kept.execPinInactiveChange {n} (h : Kept c p q s) :
    nextAll (Kept c p q) (execPinInactiveChange n s) := by
  dsimp only [Machine.execPinInactiveChange]
  with_reducible repeat' first | apply nextAll.next | assumption | apply Kept.modPin | apply Kept.cond

theorem Kept.fcPstatW {m} {k} {p'} {v} (h : Kept c p q s) (hlcs : c.lcs = none) (hports : c.ports = none)
    (hctxs : c.ctxs = none) :
    Kept c p q (State.fcPstatW s m k p' v) := by
  dsimp only [State.fcPstatW]
  with_reducible repeat' first
    | intro _ | assumption | apply Kept.csOpen | apply Kept.setReg | apply Kept.report | apply Kept.cond

theorem Kept.fcClear {k} {bitsOff} (h : Kept c p q s) :
    Kept c p q (State.fcClear s k bitsOff) := by
  dsimp only [State.fcClear]
  with_reducible repeat' first | assumption | apply Kept.setFld

theorem Kept.fcResult {k} {r} (h : Kept c p q s) :
    Kept c p q (State.fcResult s k r) := by
  dsimp only [State.fcResult]
  with_reducible repeat' first | assumption | apply Kept.setFld

theorem Kept.fcInjectW {m} {k} {v} (h : Kept c p q s) (hlcs : c.lcs = none) (hports : c.ports = none)
    (hctxs : c.ctxs = none) :
    Kept c p q (State.fcInjectW s m k v) := by
  dsimp only [State.fcInjectW]
  with_reducible repeat' first
    | intro _ | assumption | apply Kept.csPriv | apply Kept.fcResult | apply Kept.report | apply Kept.cond

theorem Kept.execFcInject {m} {k} {value} (h : Kept c p q s) (hlcs : c.lcs = none) (hports : c.ports = none)
    (hctxs : c.ctxs = none) :
    nextAll (Kept c p q) (execFcInject m k value s) := by
  dsimp only [Machine.execFcInject]
  with_reducible repeat' first | apply nextAll.next | assumption | apply Kept.fcInjectW

theorem Kept.pinStatW {m} {n} {v} (h : Kept c p q s) (hlcs : c.lcs = none) (hports : c.ports = none)
    (hctxs : c.ctxs = none) :
    Kept c p q (State.pinStatW s m n v) := by
  dsimp only [State.pinStatW]
  with_reducible repeat' first
    | intro _ | assumption | apply Kept.csPriv | apply Kept.setFld | apply Kept.modPin | apply Kept.pinFire
    | apply Kept.cond

theorem Kept.execPinUnmask {m} {n} (h : Kept c p q s) (hlcs : c.lcs = none) (hports : c.ports = none)
    (hctxs : c.ctxs = none) :
    nextAll (Kept c p q) (execPinUnmask m n s) := by
  dsimp only [Machine.execPinUnmask]
  with_reducible repeat' first | apply nextAll.next | assumption | apply Kept.pinStatW

theorem Kept.fcParcelW {m} {k} {p'} {v} (h : Kept c p q s) (hlcs : c.lcs = none) (hports : c.ports = none)
    (hctxs : c.ctxs = none) :
    Kept c p q (State.fcParcelW s m k p' v) := by
  dsimp only [State.fcParcelW]
  repeat' first
    | with_reducible intro _ | with_reducible assumption | with_reducible apply Kept.csPriv
    | with_reducible apply Kept.setReg | with_reducible apply Kept.fcResult | with_reducible apply Kept.cond | split

theorem Kept.execFcParcelEnable {m} {k} {p'} {value} (h : Kept c p q s) (hlcs : c.lcs = none)
    (hports : c.ports = none) (hctxs : c.ctxs = none) :
    nextAll (Kept c p q) (execFcParcelEnable m k p' value s) := by
  dsimp only [Machine.execFcParcelEnable]
  with_reducible repeat' first | apply nextAll.next | assumption | apply Kept.fcParcelW

theorem Kept.junction {k} {lo} {hi} (h : Kept c p q s) :
    Kept c p q (State.junction s k lo hi) := by
  dsimp only [State.junction]
  with_reducible repeat' first | assumption | apply Kept.report | apply Kept.modCol | apply Kept.cond

theorem Kept.tileFatal {k} {kind} {ring} {addr} (h : Kept c p q s) (hkeeper : c.keeper = none)
    (hloader : c.loader = none) (hmem : c.mem = none) (hlcs : c.lcs = none) (hscs : c.scs = none)
    (hports : c.ports = none) (hholders : c.holders = none) :
    Kept c p q (State.tileFatal s k kind ring addr) := by
  dsimp only [State.tileFatal]
  repeat' first
    | with_reducible intro _ | with_reducible assumption | with_reducible apply Kept.report
    | with_reducible apply Kept.modCol | with_reducible apply Kept.modLc | with_reducible apply Kept.settleMode
    | with_reducible apply Kept.tileGone | with_reducible apply Kept.foldl | with_reducible apply Kept.cond | split

theorem Kept.execTileFatalError {k} {kind} {ring} {addr} (h : Kept c p q s) (hkeeper : c.keeper = none)
    (hloader : c.loader = none) (hmem : c.mem = none) (hlcs : c.lcs = none) (hscs : c.scs = none)
    (hports : c.ports = none) (hholders : c.holders = none) :
    nextAll (Kept c p q) (execTileFatalError k kind ring addr s) := by
  dsimp only [Machine.execTileFatalError]
  with_reducible repeat' first | apply nextAll.next | assumption | apply Kept.tileFatal

theorem Kept.fcStatusW {m} {k} {v} (h : Kept c p q s) (hkeeper : c.keeper = none) (hloader : c.loader = none)
    (hlcs : c.lcs = none) (hscs : c.scs = none) (hports : c.ports = none) (hctxs : c.ctxs = none) :
    Kept c p q (State.fcStatusW s m k v) := by
  dsimp only [State.fcStatusW]
  with_reducible repeat' first | intro _ | assumption | apply Kept.csPriv | apply Kept.settleMode | apply Kept.fcClear

theorem Kept.execGraveBitClear {m} {k} (h : Kept c p q s) (hkeeper : c.keeper = none) (hloader : c.loader = none)
    (hlcs : c.lcs = none) (hscs : c.scs = none) (hports : c.ports = none) (hctxs : c.ctxs = none) :
    nextAll (Kept c p q) (execGraveBitClear m k s) := by
  dsimp only [Machine.execGraveBitClear]
  with_reducible repeat' first | apply nextAll.next | assumption | apply Kept.fcStatusW

theorem Kept.execPinEvent {n} {rawEdges} (h : Kept c p q s) :
    nextAll (Kept c p q) (execPinEvent n rawEdges s) := by
  dsimp only [Machine.execPinEvent]
  with_reducible repeat' first | apply nextAll.next | assumption | apply Kept.pinEvent

theorem Kept.pinStuck {n} (h : Kept c p q s) :
    Kept c p q (State.pinStuck s n) := by
  dsimp only [State.pinStuck]
  with_reducible repeat' first | assumption | apply Kept.pinStorm | apply Kept.cond

theorem Kept.aliveToggle (h : Kept c p q s) (hkeeper : c.keeper = none) :
    Kept c p q (State.aliveToggle s) := by
  dsimp only [State.aliveToggle]
  with_reducible repeat' first | assumption | apply Kept.cond | apply Kept.at_keeper

theorem Kept.fcLogR {m} {k} (h : Kept c p q s) (hlcs : c.lcs = none) (hports : c.ports = none)
    (hctxs : c.ctxs = none) :
    Kept c p q (State.fcLogR s m k) := by
  dsimp only [State.fcLogR]
  repeat' first
    | with_reducible intro _ | with_reducible assumption | with_reducible apply Kept.csAccess
    | with_reducible apply Kept.respond | with_reducible apply Kept.setReg | with_reducible apply Kept.modCol
    | split

theorem Kept.execFcLogRead {m} {k} (h : Kept c p q s) (hlcs : c.lcs = none) (hports : c.ports = none)
    (hctxs : c.ctxs = none) :
    nextAll (Kept c p q) (execFcLogRead m k s) := by
  dsimp only [Machine.execFcLogRead]
  with_reducible repeat' first | apply nextAll.next | assumption | apply Kept.fcLogR

theorem Kept.fcCtlW {m} {k} {v} (h : Kept c p q s) (hlcs : c.lcs = none) (hports : c.ports = none)
    (hctxs : c.ctxs = none) :
    Kept c p q (State.fcCtlW s m k v) := by
  dsimp only [State.fcCtlW]
  with_reducible repeat' first | intro _ | assumption | apply Kept.csPriv | apply Kept.setReg

theorem Kept.execJunctionSample {k} {lo} {hi} (h : Kept c p q s) :
    nextAll (Kept c p q) (execJunctionSample k lo hi s) := by
  dsimp only [Machine.execJunctionSample]
  with_reducible repeat' first | apply nextAll.next | assumption | apply Kept.junction

theorem Kept.faultArrive {src} (h : Kept c p q s) (hkeeper : c.keeper = none) (hloader : c.loader = none)
    (hmgmt : c.mgmt = none) (hlcs : c.lcs = none) (hqueues : c.queues = none) (hscs : c.scs = none) :
    Kept c p q (State.faultArrive s src) := by
  dsimp only [State.faultArrive]
  repeat' first
    | with_reducible assumption | with_reducible apply Kept.setSrcBuf | with_reducible apply Kept.settleMode
    | with_reducible apply Kept.handleFault | with_reducible apply Kept.cond | split

theorem Kept.execFaultMessageArrival {src} (h : Kept c p q s) (hkeeper : c.keeper = none)
    (hloader : c.loader = none) (hmgmt : c.mgmt = none) (hlcs : c.lcs = none) (hqueues : c.queues = none)
    (hscs : c.scs = none) :
    nextAll (Kept c p q) (execFaultMessageArrival src s) := by
  dsimp only [Machine.execFaultMessageArrival]
  with_reducible repeat' first | apply nextAll.next | assumption | apply Kept.faultArrive

theorem Kept.execAliveToggle (h : Kept c p q s) (hkeeper : c.keeper = none) :
    nextAll (Kept c p q) (execAliveToggle s) := by
  dsimp only [Machine.execAliveToggle]
  with_reducible repeat' first | apply nextAll.next | assumption | apply Kept.aliveToggle

theorem Kept.pinCfgW {m} {n} {v} (h : Kept c p q s) (hlcs : c.lcs = none) (hports : c.ports = none)
    (hctxs : c.ctxs = none) :
    Kept c p q (State.pinCfgW s m n v) := by
  dsimp only [State.pinCfgW]
  with_reducible repeat' first
    | intro _ | assumption | apply Kept.csPriv | apply Kept.modPin | apply Kept.setReg | apply Kept.cond

theorem Kept.execPinStuck {n} (h : Kept c p q s) :
    nextAll (Kept c p q) (execPinStuck n s) := by
  dsimp only [Machine.execPinStuck]
  with_reducible repeat' first | apply nextAll.next | assumption | apply Kept.pinStuck

theorem Kept.chunkGate {m} {rs} {k : State → State × ChunkEnd} (h : Kept c p q s)
    (hk : ∀ y0, Kept c p q y0 → Kept c p q (k y0).1) (hlcs : c.lcs = none) :
    Kept c p q (State.chunkGate s m rs k).1 := by
  dsimp only [State.chunkGate]
  repeat' first
    | with_reducible assumption | with_reducible apply hk | with_reducible apply Kept.gate
    | with_reducible refine Kept.ofInl ‹_ = Sum.inl _› ?_ | with_reducible refine Kept.ofInr ‹_ = Sum.inr _› ?_
    | split

theorem Kept.blockStatus {m} {blk} {st} (h : Kept c p q s) (hmem : c.mem = none) (hlcs : c.lcs = none)
    (hports : c.ports = none) (hholders : c.holders = none) :
    Kept c p q (State.blockStatus s m blk st) := by
  dsimp only [State.blockStatus]
  with_reducible repeat' first | assumption | apply Kept.invWriteBytes

theorem Kept.blockProgress {m} {blk} {i} {o} {detail} (h : Kept c p q s) (hmem : c.mem = none)
    (hlcs : c.lcs = none) (hports : c.ports = none) (hholders : c.holders = none) :
    Kept c p q (State.blockProgress s m blk i o detail) := by
  dsimp only [State.blockProgress]
  with_reducible repeat' first | assumption | apply Kept.invWriteBytes

theorem Kept.checkEnd {m} {blk} {detail} (h : Kept c p q s) (hmem : c.mem = none) (hlcs : c.lcs = none)
    (hports : c.ports = none) (hholders : c.holders = none) :
    Kept c p q (State.checkEnd s m blk detail).1 := by
  dsimp only [State.checkEnd]
  with_reducible repeat' first | assumption | apply Kept.blockStatus | apply Kept.blockProgress

theorem Kept.stopEnd {m} {blk} {listDetail} {x5} (h : Kept c p q s) (hmem : c.mem = none) (hlcs : c.lcs = none)
    (hports : c.ports = none) (hholders : c.holders = none) :
    Kept c p q (State.stopEnd s m blk listDetail x5).1 := by
  dsimp only [State.stopEnd]
  repeat' first
    | with_reducible assumption | with_reducible apply Kept.blockStatus | with_reducible apply Kept.checkEnd | split

theorem Kept.accScatterWrite {m} {x3} {x4} (h : Kept c p q s) (hmem : c.mem = none) (hlcs : c.lcs = none)
    (hports : c.ports = none) (hholders : c.holders = none) :
    Kept c p q (State.accScatterWrite s m x3 x4) := by
  induction x3 generalizing s x4 with
  | nil => exact h
  | cons a t ih =>
    dsimp only [State.accScatterWrite]
    with_reducible repeat' first | assumption | apply ih | apply Kept.invWriteBytes

theorem Kept.chunkCommit {m} {blk} {b} {inp} {rnd} {dst} {src} {kw} {in0} {out0} {p'} (h : Kept c p q s)
    (hmem : c.mem = none) (hlcs : c.lcs = none) (hports : c.ports = none) (hholders : c.holders = none) :
    Kept c p q (State.chunkCommit s m blk b inp rnd dst src kw in0 out0 p').1 := by
  dsimp only [State.chunkCommit]
  repeat' first
    | with_reducible intro _ | with_reducible assumption | with_reducible apply Kept.checkEnd
    | with_reducible apply Kept.stopEnd | with_reducible apply Kept.chunkGate
    | with_reducible apply Kept.invWriteBytes | with_reducible apply Kept.accScatterWrite
    | with_reducible apply Kept.blockProgress | with_reducible apply Kept.blockStatus | split

theorem Kept.chunkRun {m} {blk} {b} {kw} {key} {sp} {dp} {in0} {out0} (h : Kept c p q s) (hmem : c.mem = none)
    (hlcs : c.lcs = none) (hports : c.ports = none) (hholders : c.holders = none) :
    Kept c p q (State.chunkRun s m blk b kw key sp dp in0 out0).1 := by
  dsimp only [State.chunkRun]
  repeat' first
    | with_reducible intro _ | with_reducible assumption | with_reducible apply Kept.stopEnd
    | with_reducible apply Kept.chunkGate | with_reducible apply Kept.chunkCommit | with_reducible apply Kept.cond
    | split | with_reducible apply Kept.other

theorem Kept.chunk {m} {cph} {t} {blk} {req} (h : Kept c p q s) (hmem : c.mem = none) (hlcs : c.lcs = none)
    (hports : c.ports = none) (hholders : c.holders = none) :
    Kept c p q (State.chunk s m cph t blk req).1 := by
  dsimp only [State.chunk]
  repeat' first
    | with_reducible intro _ | with_reducible assumption | with_reducible apply Kept.chunkGate
    | with_reducible apply Kept.blockStatus | with_reducible apply Kept.checkEnd | with_reducible apply Kept.stopEnd
    | with_reducible apply Kept.chunkRun | split

theorem Kept.chargeDeficit {a} {o} {d} (h : Kept c p q s) :
    Kept c p q (State.chargeDeficit s a o d) := by
  dsimp only [State.chargeDeficit]
  with_reducible repeat' first | assumption | apply Kept.modAcc

theorem Kept.ctxRespond {c'} {status} {blk} (h : Kept c p q s) (hqueues : c.queues = none) (hctxs : c.ctxs = none) :
    Kept c p q (State.ctxRespond s c' status blk) := by
  dsimp only [State.ctxRespond]
  repeat' first
    | with_reducible assumption | with_reducible apply Kept.ctxAnswered | with_reducible apply Kept.setCtx
    | with_reducible apply Kept.modQueue | with_reducible apply Kept.qPerform | with_reducible apply Kept.cond
    | split

theorem Kept.ctxStopHere {c'} (h : Kept c p q s) (hctxs : c.ctxs = none) :
    Kept c p q (State.ctxStopHere s c') := by
  dsimp only [State.ctxStopHere]
  with_reducible repeat' first | assumption | apply Kept.modCtx | apply Kept.cond

theorem Kept.chunkDone {m} (h : Kept c p q s) (hmem : c.mem = none) (hlcs : c.lcs = none)
    (hqueues : c.queues = none) (hports : c.ports = none) (hholders : c.holders = none) (hctxs : c.ctxs = none) :
    Kept c p q (State.chunkDone s m) := by
  dsimp only [State.chunkDone]
  repeat' first
    | with_reducible assumption | with_reducible apply Kept.chunk | with_reducible apply Kept.chargeDeficit
    | with_reducible apply Kept.modAslot | with_reducible apply Kept.freezeMaster
    | with_reducible apply Kept.ctxRespond | with_reducible apply Kept.ctxStopHere | with_reducible apply Kept.cond
    | split

theorem Kept.cphKwW {m} {t} {k} {v} (h : Kept c p q s) (hlcs : c.lcs = none) (hports : c.ports = none)
    (hctxs : c.ctxs = none) :
    Kept c p q (State.cphKwW s m t k v) := by
  dsimp only [State.cphKwW]
  with_reducible repeat' first
    | intro _ | assumption | apply Kept.csPriv | apply Kept.modAcc | apply Kept.setFld | apply Kept.cond

theorem Kept.execCphKwLoad {m} {t} {value} (h : Kept c p q s) (hlcs : c.lcs = none) (hports : c.ports = none)
    (hctxs : c.ctxs = none) :
    nextAll (Kept c p q) (execCphKwLoad m t value s) := by
  dsimp only [Machine.execCphKwLoad]
  with_reducible repeat' first | apply nextAll.next | assumption | apply Kept.cphKwW

theorem Kept.ctxcfgW {m} {c'} {v} (h : Kept c p q s) (hlcs : c.lcs = none) (hports : c.ports = none)
    (hctxs : c.ctxs = none) :
    Kept c p q (State.ctxcfgW s m c' v) := by
  dsimp only [State.ctxcfgW]
  repeat' first
    | with_reducible intro _ | with_reducible assumption | with_reducible apply Kept.csAccess
    | with_reducible apply Kept.respond | with_reducible apply Kept.setReg | with_reducible apply Kept.setFld
    | with_reducible apply Kept.setCtx | with_reducible apply Kept.cond | split

theorem Kept.execCtxcfgWrite {m} {c'} {value} (h : Kept c p q s) (hlcs : c.lcs = none) (hports : c.ports = none)
    (hctxs : c.ctxs = none) :
    nextAll (Kept c p q) (execCtxcfgWrite m c' value s) := by
  dsimp only [Machine.execCtxcfgWrite]
  with_reducible repeat' first | apply nextAll.next | assumption | apply Kept.ctxcfgW

theorem Kept.deficitRound {a} (h : Kept c p q s) :
    Kept c p q (State.deficitRound s a) := by
  dsimp only [State.deficitRound]
  with_reducible repeat' first | intro _ | assumption | apply Kept.modAcc | apply Kept.foldl

theorem Kept.accParity {m} (h : Kept c p q s) :
    Kept c p q (State.accParity s m) := by
  dsimp only [State.accParity]
  repeat' first | with_reducible assumption | with_reducible apply Kept.report | split

theorem Kept.execAccParityError {r} (h : Kept c p q s) :
    nextAll (Kept c p q) (execAccParityError r s) := by
  dsimp only [Machine.execAccParityError]
  with_reducible repeat' first | apply nextAll.next | assumption | apply Kept.accParity

theorem Kept.ctxRequest {c'} (h : Kept c p q s) (hqueues : c.queues = none) (hctxs : c.ctxs = none) :
    Kept c p q (State.ctxRequest s c') := by
  dsimp only [State.ctxRequest]
  repeat' first
    | with_reducible assumption | with_reducible apply Kept.qTake | with_reducible apply Kept.bump
    | with_reducible apply Kept.setCtx | with_reducible apply Kept.ctxRespond | with_reducible apply Kept.cond
    | split

theorem Kept.execContextRequestWord {c'} (h : Kept c p q s) (hqueues : c.queues = none) (hctxs : c.ctxs = none) :
    nextAll (Kept c p q) (execContextRequestWord c' s) := by
  dsimp only [Machine.execContextRequestWord]
  with_reducible repeat' first | apply nextAll.next | assumption | apply Kept.ctxRequest

theorem Kept.execDeficitRound {a} (h : Kept c p q s) :
    nextAll (Kept c p q) (execDeficitRound a s) := by
  dsimp only [Machine.execDeficitRound]
  with_reducible repeat' first | apply nextAll.next | assumption | apply Kept.deficitRound

theorem Kept.execChunkDone {r} (h : Kept c p q s) (hmem : c.mem = none) (hlcs : c.lcs = none)
    (hqueues : c.queues = none) (hports : c.ports = none) (hholders : c.holders = none) (hctxs : c.ctxs = none) :
    nextAll (Kept c p q) (execChunkDone r s) := by
  dsimp only [Machine.execChunkDone]
  with_reducible repeat' first | apply nextAll.next | assumption | apply Kept.chunkDone

theorem Kept.resetStopped {lc} {p'} (h : Kept c p q s) (hlcs : c.lcs = none) :
    Kept c p q (State.resetStopped s lc p') := by
  dsimp only [State.resetStopped]
  with_reducible repeat' first | assumption | apply Kept.resetLc | apply Kept.requestMigration | apply Kept.cond

theorem Kept.clearSlots {lc} (h : Kept c p q s) :
    Kept c p q (State.clearSlots s lc) := by
  dsimp only [State.clearSlots]
  with_reducible repeat' first | intro _ | assumption | apply Kept.modAslot | apply Kept.dropMaster | apply Kept.foldl

theorem Kept.resetCaches {lc} (h : Kept c p q s) (hmem : c.mem = none) (hlcs : c.lcs = none)
    (hports : c.ports = none) (hholders : c.holders = none) :
    Kept c p q (State.resetCaches s lc) := by
  dsimp only [State.resetCaches]
  repeat' first
    | with_reducible assumption | with_reducible apply Kept.modLc | with_reducible apply Kept.emptySlot
    | with_reducible apply Kept.cond | split

theorem Kept.notePolderWait {p'} (h : Kept c p q s) :
    Kept c p q (State.notePolderWait s p') := by
  dsimp only [State.notePolderWait]
  with_reducible repeat' first | assumption | apply Kept.setPrst | apply Kept.raiseIrq | apply Kept.cond

theorem Kept.lcResetDone {lc} (h : Kept c p q s) (hmem : c.mem = none) (hlcs : c.lcs = none)
    (hqueues : c.queues = none) (hports : c.ports = none) (hholders : c.holders = none) :
    Kept c p q (State.lcResetDone s lc) := by
  dsimp only [State.lcResetDone]
  with_reducible repeat' first
    | assumption | apply Kept.resetStopped | apply Kept.modLc | apply Kept.clearSlots | apply Kept.resetCaches
    | apply Kept.notePolderWait | apply Kept.modPrst | apply Kept.abortPackets

theorem Kept.groupStopped {lc} (h : Kept c p q s) (hmem : c.mem = none) (hlcs : c.lcs = none)
    (hqueues : c.queues = none) (hports : c.ports = none) (hholders : c.holders = none) :
    Kept c p q (State.groupStopped s lc) := by
  dsimp only [State.groupStopped]
  with_reducible repeat' first | assumption | apply Kept.groupStop | apply Kept.lcResetDone | apply Kept.cond

theorem Kept.enterIrq {lc} {set} {b} {v} {src} (h : Kept c p q s) (hmem : c.mem = none) (hlcs : c.lcs = none)
    (hports : c.ports = none) (hholders : c.holders = none) :
    Kept c p q (State.enterIrq s lc set b v src) := by
  dsimp only [State.enterIrq]
  repeat' first
    | with_reducible assumption | with_reducible apply Kept.draw | with_reducible apply Kept.modLc
    | with_reducible apply Kept.enterAt | split

theorem Kept.orMem {a} {bs} (h : Kept c p q s) (hmem : c.mem = none) (hlcs : c.lcs = none)
    (hports : c.ports = none) (hholders : c.holders = none) :
    Kept c p q (State.orMem s a bs) := by
  dsimp only [State.orMem]
  with_reducible repeat' first | assumption | apply Kept.invWriteBytes | apply Kept.cond

theorem Kept.post {pdesc} {v} {cls} {inst} (h : Kept c p q s) (hmem : c.mem = none) (hlcs : c.lcs = none)
    (hports : c.ports = none) (hholders : c.holders = none) :
    Kept c p q (State.post s pdesc v cls inst) := by
  dsimp only [State.post]
  with_reducible repeat' first | assumption | apply Kept.orMem | apply Kept.modLc | apply Kept.cond

theorem Kept.sendRouted {r} {m} (h : Kept c p q s) (hmem : c.mem = none) (hlcs : c.lcs = none)
    (hports : c.ports = none) (hholders : c.holders = none) :
    Kept c p q (State.sendRouted s r m) := by
  dsimp only [State.sendRouted]
  with_reducible repeat' first | assumption | apply Kept.post | apply Kept.gateVector | apply Kept.cond

theorem Kept.ringEnd {t} {ring} (h : Kept c p q s) :
    Kept c p q (State.ringEnd s t ring) := by
  dsimp only [State.ringEnd]
  with_reducible repeat' first | assumption | apply Kept.modCt

theorem Kept.consentCmd {p'} (h : Kept c p q s) :
    Kept c p q (State.consentCmd s p') := by
  dsimp only [State.consentCmd]
  with_reducible repeat' first | assumption | apply Kept.notePolderWait | apply Kept.modPrst | apply Kept.cond

theorem Kept.prFreeze {p'} (h : Kept c p q s) (hlcs : c.lcs = none) (hports : c.ports = none)
    (hctxs : c.ctxs = none) :
    Kept c p q (State.prFreeze s p') := by
  dsimp only [State.prFreeze]
  with_reducible repeat' first
    | intro _ | assumption | apply Kept.modLc | apply Kept.modPe | apply Kept.modCtx | apply Kept.qdmaStop
    | apply Kept.modPort | apply Kept.notePolderWait | apply Kept.foldl | apply Kept.cond

theorem Kept.lcResetCmd {lc} {p'} (h : Kept c p q s) (hmem : c.mem = none) (hlcs : c.lcs = none)
    (hqueues : c.queues = none) (hports : c.ports = none) (hholders : c.holders = none) :
    Kept c p q (State.lcResetCmd s lc p') := by
  dsimp only [State.lcResetCmd]
  with_reducible repeat' first
    | assumption | apply Kept.modLc | apply Kept.notePolderWait | apply Kept.lcResetDone | apply Kept.cond

theorem Kept.pathResetCmd {q'} (h : Kept c p q s) (hscs : c.scs = none) (hports : c.ports = none) :
    Kept c p q (State.pathResetCmd s q') := by
  dsimp only [State.pathResetCmd]
  with_reducible repeat' first | assumption | apply Kept.retrain | apply Kept.cond

theorem Kept.prCtlW {m} {p'} {pa} {v} (h : Kept c p q s) (hkeeper : c.keeper = none) (hloader : c.loader = none)
    (hmem : c.mem = none) (hlcs : c.lcs = none) (hqueues : c.queues = none) (hscs : c.scs = none)
    (hports : c.ports = none) (hholders : c.holders = none) (hctxs : c.ctxs = none) :
    Kept c p q (State.prCtlW s m p' pa v) := by
  dsimp only [State.prCtlW]
  repeat' first
    | with_reducible intro _ | with_reducible assumption | with_reducible apply Kept.setFld
    | with_reducible apply Kept.consentCmd | with_reducible apply Kept.prFreeze | with_reducible apply Kept.modPrst
    | with_reducible apply Kept.lcResetCmd | with_reducible apply Kept.settleMode
    | with_reducible apply Kept.pathResetCmd | with_reducible apply Kept.csPriv | with_reducible apply Kept.csOpen
    | with_reducible apply Kept.cond | split

theorem Kept.execParcelReset {m} {p'} (h : Kept c p q s) (hkeeper : c.keeper = none) (hloader : c.loader = none)
    (hmem : c.mem = none) (hlcs : c.lcs = none) (hqueues : c.queues = none) (hscs : c.scs = none)
    (hports : c.ports = none) (hholders : c.holders = none) (hctxs : c.ctxs = none) :
    nextAll (Kept c p q) (execParcelReset m p' s) := by
  dsimp only [Machine.execParcelReset]
  with_reducible repeat' first | apply nextAll.next | assumption | apply Kept.prCtlW

theorem Kept.prPark {p'} (h : Kept c p q s) (hscs : c.scs = none) :
    Kept c p q (State.prPark s p') := by
  dsimp only [State.prPark]
  with_reducible repeat' first | intro _ | assumption | apply Kept.park | apply Kept.foldl | apply Kept.cond

theorem Kept.execGroupStop {lc} (h : Kept c p q s) (hmem : c.mem = none) (hlcs : c.lcs = none)
    (hqueues : c.queues = none) (hports : c.ports = none) (hholders : c.holders = none) :
    nextAll (Kept c p q) (execGroupStop lc s) := by
  dsimp only [Machine.execGroupStop]
  with_reducible repeat' first | apply nextAll.next | assumption | apply Kept.groupStopped

theorem Kept.routeFault {k} {m} (h : Kept c p q s) :
    Kept c p q (State.routeFault s k m) := by
  dsimp only [State.routeFault]
  with_reducible repeat' first | assumption | apply Kept.report | apply Kept.bump

theorem Kept.setMissing {m} {n} (h : Kept c p q s) :
    Kept c p q (State.setMissing s m n) := by
  dsimp only [State.setMissing]
  with_reducible repeat' first | assumption | apply Kept.other

theorem Kept.suppress {k} {m} (h : Kept c p q s) :
    Kept c p q (State.suppress s k m) := by
  dsimp only [State.suppress]
  repeat' first
    | with_reducible assumption | with_reducible apply Kept.report | with_reducible apply Kept.bump
    | with_reducible apply Kept.setStorm | with_reducible apply Kept.cond | split

theorem Kept.routeMsg {k} {m} (h : Kept c p q s) (hmem : c.mem = none) (hlcs : c.lcs = none)
    (hports : c.ports = none) (hholders : c.holders = none) :
    Kept c p q (State.routeMsg s k m) := by
  dsimp only [State.routeMsg]
  repeat' first
    | with_reducible assumption | with_reducible apply Kept.bump | with_reducible apply Kept.routeFault
    | with_reducible apply Kept.sendRouted | with_reducible apply Kept.setMissing
    | with_reducible apply Kept.suppress | with_reducible apply Kept.cond | split

theorem Kept.routeNext {k} (h : Kept c p q s) (hmem : c.mem = none) (hlcs : c.lcs = none)
    (hports : c.ports = none) (hholders : c.holders = none) :
    Kept c p q (State.routeNext s k) := by
  dsimp only [State.routeNext]
  repeat' first
    | with_reducible intro _ | with_reducible assumption | with_reducible apply Kept.admitAs
    | with_reducible apply Kept.routeMsg | with_reducible apply Kept.cond | split | with_reducible apply Kept.other

theorem Kept.withdrawCut {u} (h : Kept c p q s) :
    Kept c p q (State.withdrawCut s u) := by
  dsimp only [State.withdrawCut]
  with_reducible repeat' first | assumption | apply Kept.setCut | apply Kept.other

theorem Kept.prRoutes {p'} (h : Kept c p q s) (hlcs : c.lcs = none) :
    Kept c p q (State.prRoutes s p') := by
  dsimp only [State.prRoutes]
  with_reducible repeat' first
    | intro _ | assumption | apply Kept.setFld | apply Kept.modLc | apply Kept.withdrawCut | apply Kept.foldl
    | apply Kept.other

theorem Kept.prQueues {p'} (h : Kept c p q s) (hqueues : c.queues = none) :
    Kept c p q (State.prQueues s p') := by
  dsimp only [State.prQueues]
  with_reducible repeat' first
    | intro _ | assumption | apply Kept.qDiscard | apply Kept.abortPackets | apply Kept.modQueue | apply Kept.foldl
    | apply Kept.cond

theorem Kept.prCredits {p'} (h : Kept c p q s) :
    Kept c p q (State.prCredits s p') := by
  dsimp only [State.prCredits]
  with_reducible repeat' first | assumption | apply Kept.other

theorem Kept.thaw {lc} (h : Kept c p q s) (hlcs : c.lcs = none) :
    Kept c p q (State.thaw s lc) := by
  dsimp only [State.thaw]
  with_reducible repeat' first | assumption | apply Kept.modLc

theorem Kept.prRelease {p'} (h : Kept c p q s) (hlcs : c.lcs = none) (hscs : c.scs = none)
    (hports : c.ports = none) (hctxs : c.ctxs = none) :
    Kept c p q (State.prRelease s p') := by
  dsimp only [State.prRelease]
  with_reducible repeat' first
    | intro _ | assumption | apply Kept.resetStopped | apply Kept.clearSlots | apply Kept.thaw | apply Kept.modPe
    | apply Kept.setFld | apply Kept.modCtx | apply Kept.dropMaster | apply Kept.modDma | apply Kept.modPort
    | apply Kept.retrain | apply Kept.pathsGained | apply Kept.modSc | apply Kept.foldl | apply Kept.cond

theorem Kept.prStep {p'} (h : Kept c p q s) (hmem : c.mem = none) (hlcs : c.lcs = none)
    (hqueues : c.queues = none) (hscs : c.scs = none) (hports : c.ports = none) (hholders : c.holders = none)
    (hctxs : c.ctxs = none) :
    Kept c p q (State.prStep s p') := by
  dsimp only [State.prStep]
  repeat' first
    | with_reducible intro _ | with_reducible assumption | with_reducible apply Kept.modPrst
    | with_reducible apply Kept.prPark | with_reducible apply Kept.resetCaches | with_reducible apply Kept.prRoutes
    | with_reducible apply Kept.prQueues | with_reducible apply Kept.prCredits | with_reducible apply Kept.setPrst
    | with_reducible apply Kept.prRelease | with_reducible apply Kept.report | with_reducible apply Kept.bump
    | with_reducible apply Kept.foldl | with_reducible apply Kept.cond | split

theorem Kept.execParcelResetStepDone {p'} (h : Kept c p q s) (hkeeper : c.keeper = none)
    (hloader : c.loader = none) (hmem : c.mem = none) (hlcs : c.lcs = none) (hqueues : c.queues = none)
    (hscs : c.scs = none) (hports : c.ports = none) (hholders : c.holders = none) (hctxs : c.ctxs = none) :
    nextAll (Kept c p q) (execParcelResetStepDone p' s) := by
  dsimp only [Machine.execParcelResetStepDone]
  with_reducible repeat' first | apply nextAll.next | assumption | apply Kept.settleMode | apply Kept.prStep

theorem Kept.execConsent {m} {p'} (h : Kept c p q s) (hkeeper : c.keeper = none) (hloader : c.loader = none)
    (hmem : c.mem = none) (hlcs : c.lcs = none) (hqueues : c.queues = none) (hscs : c.scs = none)
    (hports : c.ports = none) (hholders : c.holders = none) (hctxs : c.ctxs = none) :
    nextAll (Kept c p q) (execConsent m p' s) := by
  dsimp only [Machine.execConsent]
  with_reducible repeat' first | apply nextAll.next | assumption | apply Kept.prCtlW

theorem Kept.irqEntry {lc} (h : Kept c p q s) (hmem : c.mem = none) (hlcs : c.lcs = none)
    (hports : c.ports = none) (hholders : c.holders = none) :
    Kept c p q (State.irqEntry s lc) := by
  dsimp only [State.irqEntry]
  repeat' first
    | with_reducible intro _ | with_reducible assumption | with_reducible apply Kept.fpFirst
    | with_reducible apply Kept.freezeCore | with_reducible apply Kept.enterIrq | with_reducible apply Kept.cond
    | split

theorem Kept.irqVoted {lc} (h : Kept c p q s) (hkeeper : c.keeper = none) (hloader : c.loader = none)
    (hmem : c.mem = none) (hlcs : c.lcs = none) (hscs : c.scs = none) (hports : c.ports = none)
    (hholders : c.holders = none) :
    Kept c p q (State.irqVoted s lc) := by
  dsimp only [State.irqVoted]
  repeat' first
    | with_reducible intro _ | with_reducible assumption | with_reducible apply Kept.voted
    | with_reducible apply Kept.irqEntry | split

theorem Kept.prStartW {m} {p'} {pa} {v} (h : Kept c p q s) (hlcs : c.lcs = none) (hports : c.ports = none)
    (hctxs : c.ctxs = none) :
    Kept c p q (State.prStartW s m p' pa v) := by
  dsimp only [State.prStartW]
  repeat' first
    | with_reducible intro _ | with_reducible assumption | with_reducible apply Kept.csPriv
    | with_reducible apply Kept.setReg | with_reducible apply Kept.modLc | with_reducible apply Kept.foldl | split

theorem Kept.execPrStartWrite {m} {p'} {value} (h : Kept c p q s) (hlcs : c.lcs = none) (hports : c.ports = none)
    (hctxs : c.ctxs = none) :
    nextAll (Kept c p q) (execPrStartWrite m p' value s) := by
  dsimp only [Machine.execPrStartWrite]
  with_reducible repeat' first | apply nextAll.next | assumption | apply Kept.prStartW

theorem Kept.irSendW {m} {o} {pa} {v} (h : Kept c p q s) (hmem : c.mem = none) (hlcs : c.lcs = none)
    (hports : c.ports = none) (hholders : c.holders = none) (hctxs : c.ctxs = none) :
    Kept c p q (State.irSendW s m o pa v) := by
  dsimp only [State.irSendW]
  with_reducible repeat' first
    | intro _ | assumption | apply Kept.csAccess | apply Kept.raiseIrq | apply Kept.respond | apply Kept.admitAs
    | apply Kept.routeFault | apply Kept.sendRouted | apply Kept.cond

theorem Kept.refillBucket {key} (h : Kept c p q s) :
    Kept c p q (State.refillBucket s key) := by
  dsimp only [State.refillBucket]
  repeat' first | with_reducible assumption | with_reducible apply Kept.setMissing | split

theorem Kept.drainStorm {k} {x3} (h : Kept c p q s) (hmem : c.mem = none) (hlcs : c.lcs = none)
    (hports : c.ports = none) (hholders : c.holders = none) :
    Kept c p q (State.drainStorm s k x3) := by
  induction x3 generalizing s with
  | nil => exact h
  | cons a t ih =>
    dsimp only [State.drainStorm]
    repeat' first
      | with_reducible assumption | with_reducible apply ih | with_reducible apply Kept.setStorm
      | with_reducible apply Kept.bump | with_reducible apply Kept.routeFault | with_reducible apply Kept.sendRouted
      | with_reducible apply Kept.setMissing | with_reducible apply Kept.cond | split

theorem Kept.stormRefill (h : Kept c p q s) (hmem : c.mem = none) (hlcs : c.lcs = none) (hports : c.ports = none)
    (hholders : c.holders = none) :
    Kept c p q (State.stormRefill s) := by
  dsimp only [State.stormRefill]
  with_reducible repeat' first
    | intro _ | assumption | apply Kept.refillBucket | apply Kept.drainStorm | apply Kept.foldl | apply Kept.cond

theorem Kept.execStormRefill (h : Kept c p q s) (hmem : c.mem = none) (hlcs : c.lcs = none)
    (hports : c.ports = none) (hholders : c.holders = none) :
    nextAll (Kept c p q) (execStormRefill s) := by
  dsimp only [Machine.execStormRefill]
  with_reducible repeat' first | apply nextAll.next | assumption | apply Kept.stormRefill

theorem Kept.execInterruptEntry {lc} (h : Kept c p q s) (hkeeper : c.keeper = none) (hloader : c.loader = none)
    (hmem : c.mem = none) (hlcs : c.lcs = none) (hscs : c.scs = none) (hports : c.ports = none)
    (hholders : c.holders = none) :
    nextAll (Kept c p q) (execInterruptEntry lc s) := by
  dsimp only [Machine.execInterruptEntry]
  with_reducible repeat' first | apply nextAll.next | assumption | apply Kept.irqVoted

theorem Kept.pendArrive {lc} (h : Kept c p q s) (hlcs : c.lcs = none) :
    Kept c p q (State.pendArrive s lc) := by
  dsimp only [State.pendArrive]
  repeat' first | with_reducible assumption | with_reducible apply Kept.setLc | with_reducible apply Kept.cond | split

theorem Kept.execPendingSetArrival {lc} (h : Kept c p q s) (hlcs : c.lcs = none) :
    nextAll (Kept c p q) (execPendingSetArrival lc s) := by
  dsimp only [Machine.execPendingSetArrival]
  with_reducible repeat' first | apply nextAll.next | assumption | apply Kept.pendArrive

theorem Kept.notifyArrive {lc} (h : Kept c p q s) (hmem : c.mem = none) (hlcs : c.lcs = none)
    (hports : c.ports = none) (hholders : c.holders = none) :
    Kept c p q (State.notifyArrive s lc) := by
  dsimp only [State.notifyArrive]
  repeat' first
    | with_reducible assumption | with_reducible apply Kept.setLc | with_reducible apply Kept.guestIn
    | with_reducible apply Kept.modLc | with_reducible apply Kept.freezeCore | with_reducible apply Kept.cond
    | with_reducible refine Kept.ofRes ‹_ = Res.ok _› ?_ | split

theorem Kept.execNotify {lc} (h : Kept c p q s) (hmem : c.mem = none) (hlcs : c.lcs = none)
    (hports : c.ports = none) (hholders : c.holders = none) :
    nextAll (Kept c p q) (execNotify lc s) := by
  dsimp only [Machine.execNotify]
  with_reducible repeat' first | apply nextAll.next | assumption | apply Kept.notifyArrive

theorem Kept.execRingWindowEnd {t} {ring} (h : Kept c p q s) :
    nextAll (Kept c p q) (execRingWindowEnd t ring s) := by
  dsimp only [Machine.execRingWindowEnd]
  with_reducible repeat' first | apply nextAll.next | assumption | apply Kept.ringEnd

theorem Kept.execPathReset {m} {p'} {port} (h : Kept c p q s) (hkeeper : c.keeper = none)
    (hloader : c.loader = none) (hmem : c.mem = none) (hlcs : c.lcs = none) (hqueues : c.queues = none)
    (hscs : c.scs = none) (hports : c.ports = none) (hholders : c.holders = none) (hctxs : c.ctxs = none) :
    nextAll (Kept c p q) (execPathReset m p' port s) := by
  dsimp only [Machine.execPathReset]
  with_reducible repeat' first | apply nextAll.next | assumption | apply Kept.prCtlW

theorem Kept.execInterruptRoute {k} (h : Kept c p q s) (hmem : c.mem = none) (hlcs : c.lcs = none)
    (hports : c.ports = none) (hholders : c.holders = none) :
    nextAll (Kept c p q) (execInterruptRoute k s) := by
  dsimp only [Machine.execInterruptRoute]
  with_reducible repeat' first | apply nextAll.next | assumption | apply Kept.routeNext

theorem Kept.execLcReset {m} {p'} {lc} (h : Kept c p q s) (hkeeper : c.keeper = none) (hloader : c.loader = none)
    (hmem : c.mem = none) (hlcs : c.lcs = none) (hqueues : c.queues = none) (hscs : c.scs = none)
    (hports : c.ports = none) (hholders : c.holders = none) (hctxs : c.ctxs = none) :
    nextAll (Kept c p q) (execLcReset m p' lc s) := by
  dsimp only [Machine.execLcReset]
  with_reducible repeat' first | apply nextAll.next | assumption | apply Kept.prCtlW

theorem Kept.execIrSend {m} {owner} {value} (h : Kept c p q s) (hmem : c.mem = none) (hlcs : c.lcs = none)
    (hports : c.ports = none) (hholders : c.holders = none) (hctxs : c.ctxs = none) :
    nextAll (Kept c p q) (execIrSend m owner value s) := by
  dsimp only [Machine.execIrSend]
  with_reducible repeat' first | apply nextAll.next | assumption | apply Kept.irSendW

theorem Kept.LCore_crCheck {l} {n} {write} :
    Res.All c p q (fun _ => True) (LCore.crCheck l n write) := by
  dsimp only [Machine.LCore.crCheck]
  repeat' first
    | with_reducible apply Kept.check | with_reducible apply Res.All.cond | with_reducible exact Res.All.exc | split

theorem Kept.execMfc {lc} {d} {n} (h : Kept c p q s) (hkeeper : c.keeper = none) (hloader : c.loader = none)
    (hmem : c.mem = none) (hlcs : c.lcs = none) (hscs : c.scs = none) (hports : c.ports = none)
    (hholders : c.holders = none) :
    nextAll (Kept c p q) (execMfc lc d n s) := by
  dsimp only [Machine.execMfc]
  with_reducible repeat' first
    | apply nextAll.next | intro _ | assumption | apply Kept.runLocal | apply Kept.LCore_crCheck | apply Res.All.map

theorem Kept.runJump {lc} {w} {f} (h : Kept c p q s) (hkeeper : c.keeper = none) (hloader : c.loader = none)
    (hmem : c.mem = none) (hlcs : c.lcs = none) (hscs : c.scs = none) (hports : c.ports = none)
    (hholders : c.holders = none) :
    Kept c p q (State.runJump s lc w f) := by
  dsimp only [State.runJump]
  with_reducible repeat' first | intro _ | assumption | apply Kept.runInstr | apply Kept.setLc | apply Res.All.ok

theorem Kept.execJr {lc} {a} (h : Kept c p q s) (hkeeper : c.keeper = none) (hloader : c.loader = none)
    (hmem : c.mem = none) (hlcs : c.lcs = none) (hscs : c.scs = none) (hports : c.ports = none)
    (hholders : c.holders = none) :
    nextAll (Kept c p q) (execJr lc a s) := by
  dsimp only [Machine.execJr]
  with_reducible repeat' first | apply nextAll.next | assumption | apply Kept.runJump

theorem Kept.synced {lc} (h : Kept c p q s) (hmem : c.mem = none) (hlcs : c.lcs = none) (hports : c.ports = none)
    (hholders : c.holders = none) :
    Res.All c p q (Kept c p q) (State.synced s lc) := by
  dsimp only [State.synced]
  repeat' first
    | with_reducible assumption | with_reducible apply Kept.quiet | with_reducible apply Res.All.cond
    | with_reducible exact Res.All.wait | with_reducible apply Res.All.ok | split

theorem Kept.execConditionalBranch {lc} {op} {a} {disp} (h : Kept c p q s) (hkeeper : c.keeper = none)
    (hloader : c.loader = none) (hmem : c.mem = none) (hlcs : c.lcs = none) (hscs : c.scs = none)
    (hports : c.ports = none) (hholders : c.holders = none) :
    nextAll (Kept c p q) (execConditionalBranch lc op a disp s) := by
  dsimp only [Machine.execConditionalBranch]
  with_reducible repeat' first | apply nextAll.next | assumption | apply Kept.runJump

theorem Kept.tlbiTargets {l} {op} {v} {x5} (h : Kept c p q s) (hmem : c.mem = none) (hlcs : c.lcs = none)
    (hports : c.ports = none) (hholders : c.holders = none) :
    Res.All c p q (Kept c p q) (State.tlbiTargets s l op v x5) := by
  induction x5 generalizing s with
  | nil => exact Res.All.ok h
  | cons a t ih =>
    dsimp only [State.tlbiTargets]
    with_reducible repeat' first
      | intro _ | assumption | apply ih | apply Kept.synced | apply Kept.modLc | apply Res.All.cond
      | exact Res.All.wait | apply Res.All.bind

theorem Kept.LCore_pswWrite {l} {v} :
    Res.All c p q (fun _ => True) (LCore.pswWrite l v) := by
  dsimp only [Machine.LCore.pswWrite]
  with_reducible repeat' first | apply Res.All.cond | exact Res.All.exc | apply Res.All.ok | exact trivial

theorem Kept.LCore_crWrite {l} {n} {v} :
    Res.All c p q (fun _ => True) (LCore.crWrite l n v) := by
  dsimp only [Machine.LCore.crWrite]
  repeat' first
    | with_reducible apply Kept.LCore_pswWrite | with_reducible apply Res.All.cond
    | with_reducible exact Res.All.exc | with_reducible apply Res.All.ok | with_reducible exact trivial | split

theorem Kept.execMtc {lc} {a} {n} (h : Kept c p q s) (hkeeper : c.keeper = none) (hloader : c.loader = none)
    (hmem : c.mem = none) (hlcs : c.lcs = none) (hscs : c.scs = none) (hports : c.ports = none)
    (hholders : c.holders = none) :
    nextAll (Kept c p q) (execMtc lc a n s) := by
  dsimp only [Machine.execMtc]
  with_reducible repeat' first
    | apply nextAll.next | intro _ | assumption | apply Kept.fpVoted | apply Kept.runLocal
    | apply Kept.LCore_crCheck | apply Kept.LCore_crWrite | apply Kept.cond | apply Res.All.bind

theorem Kept.tlbiRun {lc} {op} {a} {broadcast} {ts} (h : Kept c p q s) (hkeeper : c.keeper = none)
    (hloader : c.loader = none) (hmem : c.mem = none) (hlcs : c.lcs = none) (hscs : c.scs = none)
    (hports : c.ports = none) (hholders : c.holders = none) :
    Kept c p q (State.tlbiRun s lc op a broadcast ts) := by
  dsimp only [State.tlbiRun]
  with_reducible repeat' first
    | intro _ | assumption | apply Kept.runInstr | apply Kept.tlbiTargets | apply Kept.modLc | apply Res.All.cond
    | exact Res.All.exc | apply Res.All.map

theorem Kept.tlbiLocal {lc} {op} {a} (h : Kept c p q s) (hkeeper : c.keeper = none) (hloader : c.loader = none)
    (hmem : c.mem = none) (hlcs : c.lcs = none) (hscs : c.scs = none) (hports : c.ports = none)
    (hholders : c.holders = none) :
    Kept c p q (State.tlbiLocal s lc op a) := by
  dsimp only [State.tlbiLocal]
  with_reducible repeat' first | assumption | apply Kept.tlbiRun

theorem Kept.execTlbiGuest {lc} {a} (h : Kept c p q s) (hkeeper : c.keeper = none) (hloader : c.loader = none)
    (hmem : c.mem = none) (hlcs : c.lcs = none) (hscs : c.scs = none) (hports : c.ports = none)
    (hholders : c.holders = none) :
    nextAll (Kept c p q) (execTlbiGuest lc a s) := by
  dsimp only [Machine.execTlbiGuest]
  with_reducible repeat' first | apply nextAll.next | assumption | apply Kept.tlbiLocal

theorem Kept.execRetx {lc} (h : Kept c p q s) (hkeeper : c.keeper = none) (hloader : c.loader = none)
    (hmem : c.mem = none) (hlcs : c.lcs = none) (hscs : c.scs = none) (hports : c.ports = none)
    (hholders : c.holders = none) :
    nextAll (Kept c p q) (execRetx lc s) := by
  dsimp only [Machine.execRetx]
  with_reducible repeat' first
    | apply nextAll.next | intro _ | assumption | apply Kept.fpVoted | apply Kept.runInstr | apply Kept.guestIn
    | apply Kept.modLc | apply Kept.cond | apply Res.All.cond | exact Res.All.exc | apply Res.All.ok
    | apply Res.All.map

theorem Kept.execCall {lc} {disp} (h : Kept c p q s) (hkeeper : c.keeper = none) (hloader : c.loader = none)
    (hmem : c.mem = none) (hlcs : c.lcs = none) (hscs : c.scs = none) (hports : c.ports = none)
    (hholders : c.holders = none) :
    nextAll (Kept c p q) (execCall lc disp s) := by
  dsimp only [Machine.execCall]
  with_reducible repeat' first | apply nextAll.next | assumption | apply Kept.runJump

theorem Kept.execWait {lc} (h : Kept c p q s) (hkeeper : c.keeper = none) (hloader : c.loader = none)
    (hmem : c.mem = none) (hlcs : c.lcs = none) (hscs : c.scs = none) (hports : c.ports = none)
    (hholders : c.holders = none) :
    nextAll (Kept c p q) (execWait lc s) := by
  dsimp only [Machine.execWait]
  with_reducible repeat' first
    | apply nextAll.next | intro _ | assumption | apply Kept.runLocal | apply Res.All.ok | exact trivial

theorem Kept.execIsync {lc} (h : Kept c p q s) (hkeeper : c.keeper = none) (hloader : c.loader = none)
    (hmem : c.mem = none) (hlcs : c.lcs = none) (hscs : c.scs = none) (hports : c.ports = none)
    (hholders : c.holders = none) :
    nextAll (Kept c p q) (execIsync lc s) := by
  dsimp only [Machine.execIsync]
  with_reducible repeat' first
    | apply nextAll.next | intro _ | assumption | apply Kept.runLocal | apply Res.All.ok | exact trivial

theorem Kept.execSync {lc} (h : Kept c p q s) (hkeeper : c.keeper = none) (hloader : c.loader = none)
    (hmem : c.mem = none) (hlcs : c.lcs = none) (hscs : c.scs = none) (hports : c.ports = none)
    (hholders : c.holders = none) :
    nextAll (Kept c p q) (execSync lc s) := by
  dsimp only [Machine.execSync]
  with_reducible repeat' first
    | apply nextAll.next | intro _ | assumption | apply Kept.runInstr | apply Kept.synced | apply Kept.modLc
    | apply Res.All.map

theorem Kept.execRdseg {lc} {d} {sn} {half} (h : Kept c p q s) (hkeeper : c.keeper = none)
    (hloader : c.loader = none) (hmem : c.mem = none) (hlcs : c.lcs = none) (hscs : c.scs = none)
    (hports : c.ports = none) (hholders : c.holders = none) :
    nextAll (Kept c p q) (execRdseg lc d sn half s) := by
  dsimp only [Machine.execRdseg]
  with_reducible repeat' first
    | apply nextAll.next | intro _ | assumption | apply Kept.runLocal | apply Res.All.ok | exact trivial

theorem Kept.execJalr {lc} {d} {a} (h : Kept c p q s) (hkeeper : c.keeper = none) (hloader : c.loader = none)
    (hmem : c.mem = none) (hlcs : c.lcs = none) (hscs : c.scs = none) (hports : c.ports = none)
    (hholders : c.holders = none) :
    nextAll (Kept c p q) (execJalr lc d a s) := by
  dsimp only [Machine.execJalr]
  with_reducible repeat' first | apply nextAll.next | assumption | apply Kept.runJump

theorem Kept.LCore_descCheck {l} {ga} {d} :
    Res.All c p q (fun _ => True) (LCore.descCheck l ga d) := by
  dsimp only [Machine.LCore.descCheck]
  with_reducible repeat' first | apply Res.All.cond | exact Res.All.exc | apply Res.All.ok | exact trivial

theorem Kept.execWrseg {lc} {sn} {a} {b} (h : Kept c p q s) (hkeeper : c.keeper = none)
    (hloader : c.loader = none) (hmem : c.mem = none) (hlcs : c.lcs = none) (hscs : c.scs = none)
    (hports : c.ports = none) (hholders : c.holders = none) :
    nextAll (Kept c p q) (execWrseg lc sn a b s) := by
  dsimp only [Machine.execWrseg]
  with_reducible repeat' first
    | apply nextAll.next | intro _ | assumption | apply Kept.runLocal | apply Kept.LCore_descCheck
    | apply Res.All.cond | exact Res.All.exc | apply Res.All.map

theorem Kept.execSvc {lc} (h : Kept c p q s) (hkeeper : c.keeper = none) (hloader : c.loader = none)
    (hmem : c.mem = none) (hlcs : c.lcs = none) (hscs : c.scs = none) (hports : c.ports = none)
    (hholders : c.holders = none) :
    nextAll (Kept c p q) (execSvc lc s) := by
  dsimp only [Machine.execSvc]
  with_reducible repeat' first | apply nextAll.next | intro _ | assumption | apply Kept.runInstr | exact Res.All.exc

theorem Kept.execRdtime {lc} {d} (h : Kept c p q s) (hkeeper : c.keeper = none) (hloader : c.loader = none)
    (hmem : c.mem = none) (hlcs : c.lcs = none) (hscs : c.scs = none) (hports : c.ports = none)
    (hholders : c.holders = none) :
    nextAll (Kept c p q) (execRdtime lc d s) := by
  dsimp only [Machine.execRdtime]
  with_reducible repeat' first
    | apply nextAll.next | intro _ | assumption | apply Kept.runInstr | apply Kept.setLc | apply Res.All.cond
    | exact Res.All.exc | apply Res.All.ok

theorem Kept.execTlbiAll {lc} (h : Kept c p q s) (hkeeper : c.keeper = none) (hloader : c.loader = none)
    (hmem : c.mem = none) (hlcs : c.lcs = none) (hscs : c.scs = none) (hports : c.ports = none)
    (hholders : c.holders = none) :
    nextAll (Kept c p q) (execTlbiAll lc s) := by
  dsimp only [Machine.execTlbiAll]
  with_reducible repeat' first | apply nextAll.next | assumption | apply Kept.tlbiLocal

theorem Kept.execTlbiBroadcast {lc} {op} {a} (h : Kept c p q s) (hkeeper : c.keeper = none)
    (hloader : c.loader = none) (hmem : c.mem = none) (hlcs : c.lcs = none) (hscs : c.scs = none)
    (hports : c.ports = none) (hholders : c.holders = none) :
    nextAll (Kept c p q) (execTlbiBroadcast lc op a s) := by
  dsimp only [Machine.execTlbiBroadcast]
  with_reducible repeat' first | apply nextAll.next | assumption | apply Kept.tlbiRun

theorem Kept.execJmp {lc} {disp} (h : Kept c p q s) (hkeeper : c.keeper = none) (hloader : c.loader = none)
    (hmem : c.mem = none) (hlcs : c.lcs = none) (hscs : c.scs = none) (hports : c.ports = none)
    (hholders : c.holders = none) :
    nextAll (Kept c p q) (execJmp lc disp s) := by
  dsimp only [Machine.execJmp]
  with_reducible repeat' first | apply nextAll.next | assumption | apply Kept.runJump

theorem Kept.execFbar {lc} (h : Kept c p q s) (hkeeper : c.keeper = none) (hloader : c.loader = none)
    (hmem : c.mem = none) (hlcs : c.lcs = none) (hscs : c.scs = none) (hports : c.ports = none)
    (hholders : c.holders = none) :
    nextAll (Kept c p q) (execFbar lc s) := by
  dsimp only [Machine.execFbar]
  with_reducible repeat' first
    | apply nextAll.next | intro _ | assumption | apply Kept.fpVoted | apply Kept.runLocal | apply Kept.cond
    | apply Res.All.ok | exact trivial

theorem Kept.execBrk {lc} (h : Kept c p q s) (hkeeper : c.keeper = none) (hloader : c.loader = none)
    (hmem : c.mem = none) (hlcs : c.lcs = none) (hscs : c.scs = none) (hports : c.ports = none)
    (hholders : c.holders = none) :
    nextAll (Kept c p q) (execBrk lc s) := by
  dsimp only [Machine.execBrk]
  with_reducible repeat' first | apply nextAll.next | intro _ | assumption | apply Kept.runInstr | exact Res.All.exc

theorem Kept.execTlbiVa {lc} {a} (h : Kept c p q s) (hkeeper : c.keeper = none) (hloader : c.loader = none)
    (hmem : c.mem = none) (hlcs : c.lcs = none) (hscs : c.scs = none) (hports : c.ports = none)
    (hholders : c.holders = none) :
    nextAll (Kept c p q) (execTlbiVa lc a s) := by
  dsimp only [Machine.execTlbiVa]
  with_reducible repeat' first | apply nextAll.next | assumption | apply Kept.tlbiLocal

theorem Kept.execHvc {lc} (h : Kept c p q s) (hkeeper : c.keeper = none) (hloader : c.loader = none)
    (hmem : c.mem = none) (hlcs : c.lcs = none) (hscs : c.scs = none) (hports : c.ports = none)
    (hholders : c.holders = none) :
    nextAll (Kept c p q) (execHvc lc s) := by
  dsimp only [Machine.execHvc]
  with_reducible repeat' first
    | apply nextAll.next | intro _ | assumption | apply Kept.runInstr | apply Res.All.cond | exact Res.All.exc

theorem Kept.execTlbiAsid {lc} {a} (h : Kept c p q s) (hkeeper : c.keeper = none) (hloader : c.loader = none)
    (hmem : c.mem = none) (hlcs : c.lcs = none) (hscs : c.scs = none) (hports : c.ports = none)
    (hholders : c.holders = none) :
    nextAll (Kept c p q) (execTlbiAsid lc a s) := by
  dsimp only [Machine.execTlbiAsid]
  with_reducible repeat' first | apply nextAll.next | assumption | apply Kept.tlbiLocal

theorem Kept.cutResult {u} {r} (h : Kept c p q s) :
    Kept c p q (State.cutResult s u r) := by
  dsimp only [State.cutResult]
  with_reducible repeat' first | assumption | apply Kept.setFld

theorem Kept.performCut {u} {power} (h : Kept c p q s) (hlcs : c.lcs = none) (hscs : c.scs = none)
    (hports : c.ports = none) :
    Kept c p q (State.performCut s u power) := by
  dsimp only [State.performCut]
  repeat' first
    | with_reducible intro _ | with_reducible assumption | with_reducible apply Kept.setCut
    | with_reducible apply Kept.modLc | with_reducible apply Kept.setFld | with_reducible apply Kept.modAcc
    | with_reducible apply Kept.modPort | with_reducible apply Kept.linkDown | with_reducible apply Kept.foldl
    | with_reducible apply Kept.cond | split

theorem Kept.cutCmd {m} {u} {power} (h : Kept c p q s) (hlcs : c.lcs = none) (hscs : c.scs = none)
    (hports : c.ports = none) :
    Kept c p q (State.cutCmd s m u power) := by
  dsimp only [State.cutCmd]
  repeat' first
    | with_reducible assumption | with_reducible apply Kept.cutResult | with_reducible apply Kept.performCut
    | with_reducible apply Kept.withdrawCut | with_reducible apply Kept.setCut | with_reducible apply Kept.raiseIrq
    | with_reducible apply Kept.setFld | with_reducible apply Kept.cond | split | with_reducible apply Kept.other

theorem Kept.performRestore {u} (h : Kept c p q s) (hlcs : c.lcs = none) (hscs : c.scs = none)
    (hports : c.ports = none) :
    Kept c p q (State.performRestore s u) := by
  dsimp only [State.performRestore]
  repeat' first
    | with_reducible intro _ | with_reducible assumption | with_reducible apply Kept.setCut
    | with_reducible apply Kept.modLc | with_reducible apply Kept.retrain | with_reducible apply Kept.modPort
    | with_reducible apply Kept.foldl | with_reducible apply Kept.cond | split

theorem Kept.restoreCmd {u} (h : Kept c p q s) (hlcs : c.lcs = none) (hscs : c.scs = none) (hports : c.ports = none) :
    Kept c p q (State.restoreCmd s u) := by
  dsimp only [State.restoreCmd]
  repeat' first
    | with_reducible assumption | with_reducible apply Kept.cutResult | with_reducible apply Kept.withdrawCut
    | with_reducible apply Kept.performRestore | split

theorem Kept.pwrReqW {m} {u} {cmd} (h : Kept c p q s) (hkeeper : c.keeper = none) (hloader : c.loader = none)
    (hlcs : c.lcs = none) (hscs : c.scs = none) (hports : c.ports = none) (hctxs : c.ctxs = none) :
    Kept c p q (State.pwrReqW s m u cmd) := by
  dsimp only [State.pwrReqW]
  repeat' first
    | with_reducible intro _ | with_reducible assumption | with_reducible apply Kept.csOpen
    | with_reducible apply Kept.cutResult | with_reducible apply Kept.cutCmd | with_reducible apply Kept.settleMode
    | with_reducible apply Kept.restoreCmd | with_reducible apply Kept.cond | split

theorem Kept.execCutPower {m} {u} (h : Kept c p q s) (hkeeper : c.keeper = none) (hloader : c.loader = none)
    (hlcs : c.lcs = none) (hscs : c.scs = none) (hports : c.ports = none) (hctxs : c.ctxs = none) :
    nextAll (Kept c p q) (execCutPower m u s) := by
  dsimp only [Machine.execCutPower]
  with_reducible repeat' first | apply nextAll.next | assumption | apply Kept.pwrReqW

theorem Kept.execCutRestore {m} {u} (h : Kept c p q s) (hkeeper : c.keeper = none) (hloader : c.loader = none)
    (hlcs : c.lcs = none) (hscs : c.scs = none) (hports : c.ports = none) (hctxs : c.ctxs = none) :
    nextAll (Kept c p q) (execCutRestore m u s) := by
  dsimp only [Machine.execCutRestore]
  with_reducible repeat' first | apply nextAll.next | assumption | apply Kept.pwrReqW

theorem Kept.gateSync {lc} (h : Kept c p q s) (hmem : c.mem = none) (hlcs : c.lcs = none)
    (hports : c.ports = none) (hholders : c.holders = none) :
    Res.All c p q (Kept c p q) (State.gateSync s lc) := by
  dsimp only [State.gateSync]
  repeat' first
    | with_reducible intro _ | with_reducible assumption | with_reducible apply Kept.synced
    | with_reducible apply Kept.modHolder | with_reducible apply Res.All.map | split

theorem Kept.sluiceX {lc} (h : Kept c p q s) (hkeeper : c.keeper = none) (hloader : c.loader = none)
    (hmem : c.mem = none) (hlcs : c.lcs = none) (hscs : c.scs = none) (hports : c.ports = none)
    (hholders : c.holders = none) :
    Kept c p q (State.sluiceX s lc) := by
  dsimp only [State.sluiceX]
  repeat' first
    | with_reducible intro _ | with_reducible assumption | with_reducible apply Kept.fpVoted
    | with_reducible apply Kept.runInstr | with_reducible apply Kept.gateSync
    | with_reducible apply Kept.notePolderWait | with_reducible apply Kept.modLc | with_reducible apply Kept.cond
    | with_reducible exact Res.All.exc | with_reducible apply Res.All.map | split

theorem Kept.gateIrq {lc} (h : Kept c p q s) (hmem : c.mem = none) (hlcs : c.lcs = none) (hports : c.ports = none)
    (hholders : c.holders = none) :
    Kept c p q (State.gateIrq s lc) := by
  dsimp only [State.gateIrq]
  repeat' first
    | with_reducible intro _ | with_reducible assumption | with_reducible apply Kept.fpFirst
    | with_reducible apply Kept.report | with_reducible apply Kept.setLc | with_reducible apply Kept.notePolderWait
    | with_reducible apply Kept.cond | split

theorem Kept.gateIrqVoted {lc} (h : Kept c p q s) (hkeeper : c.keeper = none) (hloader : c.loader = none)
    (hmem : c.mem = none) (hlcs : c.lcs = none) (hscs : c.scs = none) (hports : c.ports = none)
    (hholders : c.holders = none) :
    Kept c p q (State.gateIrqVoted s lc) := by
  dsimp only [State.gateIrqVoted]
  repeat' first
    | with_reducible intro _ | with_reducible assumption | with_reducible apply Kept.gateIrq
    | with_reducible apply Kept.voted | with_reducible apply Kept.cond | split

theorem Kept.pwrReleaseW {m} {cmd} {unit} {inst} (h : Kept c p q s) (hkeeper : c.keeper = none)
    (hloader : c.loader = none) (hlcs : c.lcs = none) (hscs : c.scs = none) (hports : c.ports = none)
    (hctxs : c.ctxs = none) :
    Kept c p q (State.pwrReleaseW s m cmd unit inst) := by
  dsimp only [State.pwrReleaseW]
  repeat' first
    | with_reducible intro _ | with_reducible assumption | with_reducible apply Kept.csOpen
    | with_reducible apply Kept.setFld | with_reducible apply Kept.settleMode | with_reducible apply Kept.cutResult
    | with_reducible apply Kept.performCut | with_reducible apply Kept.withdrawCut | with_reducible apply Kept.cond
    | split

theorem Kept.execDeny {m} {unitCode} {inst} (h : Kept c p q s) (hkeeper : c.keeper = none)
    (hloader : c.loader = none) (hlcs : c.lcs = none) (hscs : c.scs = none) (hports : c.ports = none)
    (hctxs : c.ctxs = none) :
    nextAll (Kept c p q) (execDeny m unitCode inst s) := by
  dsimp only [Machine.execDeny]
  with_reducible repeat' first | apply nextAll.next | assumption | apply Kept.pwrReleaseW

theorem Kept.sluice {lc} {a} (h : Kept c p q s) (hkeeper : c.keeper = none) (hloader : c.loader = none)
    (hmem : c.mem = none) (hlcs : c.lcs = none) (hscs : c.scs = none) (hports : c.ports = none)
    (hholders : c.holders = none) :
    Kept c p q (State.sluice s lc a) := by
  dsimp only [State.sluice]
  repeat' first
    | with_reducible intro _ | with_reducible assumption | with_reducible apply Kept.fpVoted
    | with_reducible apply Kept.runInstr | with_reducible apply Kept.gateSync | with_reducible apply Kept.enterExc
    | with_reducible apply Kept.modLc | with_reducible apply Kept.notePolderWait | with_reducible apply Kept.cond
    | with_reducible apply Res.All.cond | with_reducible exact Res.All.exc | with_reducible apply Res.All.ok
    | with_reducible apply Res.All.bind | split

theorem Kept.execSluice {lc} {a} (h : Kept c p q s) (hkeeper : c.keeper = none) (hloader : c.loader = none)
    (hmem : c.mem = none) (hlcs : c.lcs = none) (hscs : c.scs = none) (hports : c.ports = none)
    (hholders : c.holders = none) :
    nextAll (Kept c p q) (execSluice lc a s) := by
  dsimp only [Machine.execSluice]
  with_reducible repeat' first | apply nextAll.next | assumption | apply Kept.sluice

theorem Kept.relqR {m} (h : Kept c p q s) (hlcs : c.lcs = none) (hports : c.ports = none) (hctxs : c.ctxs = none) :
    Kept c p q (State.relqR s m) := by
  dsimp only [State.relqR]
  repeat' first
    | with_reducible intro _ | with_reducible assumption | with_reducible apply Kept.csAccess
    | with_reducible apply Kept.respond | split | with_reducible apply Kept.other

theorem Kept.execCutClock {m} {u} (h : Kept c p q s) (hkeeper : c.keeper = none) (hloader : c.loader = none)
    (hlcs : c.lcs = none) (hscs : c.scs = none) (hports : c.ports = none) (hctxs : c.ctxs = none) :
    nextAll (Kept c p q) (execCutClock m u s) := by
  dsimp only [Machine.execCutClock]
  with_reducible repeat' first | apply nextAll.next | assumption | apply Kept.pwrReqW

theorem Kept.execPwrRelqRead {m} (h : Kept c p q s) (hlcs : c.lcs = none) (hports : c.ports = none)
    (hctxs : c.ctxs = none) :
    nextAll (Kept c p q) (execPwrRelqRead m s) := by
  dsimp only [Machine.execPwrRelqRead]
  with_reducible repeat' first | apply nextAll.next | assumption | apply Kept.relqR

theorem Kept.execGateInterruptEntry {lc} (h : Kept c p q s) (hkeeper : c.keeper = none)
    (hloader : c.loader = none) (hmem : c.mem = none) (hlcs : c.lcs = none) (hscs : c.scs = none)
    (hports : c.ports = none) (hholders : c.holders = none) :
    nextAll (Kept c p q) (execGateInterruptEntry lc s) := by
  dsimp only [Machine.execGateInterruptEntry]
  with_reducible repeat' first | apply nextAll.next | assumption | apply Kept.gateIrqVoted

theorem Kept.execRelease {m} {unitCode} {inst} (h : Kept c p q s) (hkeeper : c.keeper = none)
    (hloader : c.loader = none) (hlcs : c.lcs = none) (hscs : c.scs = none) (hports : c.ports = none)
    (hctxs : c.ctxs = none) :
    nextAll (Kept c p q) (execRelease m unitCode inst s) := by
  dsimp only [Machine.execRelease]
  with_reducible repeat' first | apply nextAll.next | assumption | apply Kept.pwrReleaseW

theorem Kept.execSluiceX {lc} (h : Kept c p q s) (hkeeper : c.keeper = none) (hloader : c.loader = none)
    (hmem : c.mem = none) (hlcs : c.lcs = none) (hscs : c.scs = none) (hports : c.ports = none)
    (hholders : c.holders = none) :
    nextAll (Kept c p q) (execSluiceX lc s) := by
  dsimp only [Machine.execSluiceX]
  with_reducible repeat' first | apply nextAll.next | assumption | apply Kept.sluiceX

theorem Kept.imgResult {r} (h : Kept c p q s) :
    Kept c p q (State.imgResult s r) := by
  dsimp only [State.imgResult]
  with_reducible repeat' first | assumption | apply Kept.setFld

theorem Kept.rebuild {pkgs} {ps} (h : Kept c p q s) (hloader : c.loader = none) :
    Kept c p q (State.rebuild s pkgs ps) := by
  dsimp only [State.rebuild]
  with_reducible repeat' first | assumption | apply Kept.at_loader

theorem Kept.setPend {st} {reason} (h : Kept c p q s) :
    Kept c p q (State.setPend s st reason) := by
  dsimp only [State.setPend]
  with_reducible repeat' first | assumption | apply Kept.setFld

theorem Kept.dropDelivery (h : Kept c p q s) (hloader : c.loader = none) :
    Kept c p q (State.dropDelivery s) := by
  dsimp only [State.dropDelivery]
  with_reducible repeat' first | assumption | apply Kept.setPend | apply Kept.cond | apply Kept.at_loader

theorem Kept.closeSession {id} (h : Kept c p q s) (hloader : c.loader = none) (hmgmt : c.mgmt = none) :
    Kept c p q (State.closeSession s id) := by
  dsimp only [State.closeSession]
  repeat' first
    | with_reducible assumption | with_reducible apply Kept.dropDelivery | split | with_reducible apply Kept.at_mgmt

theorem Kept.keepSessions {i} (h : Kept c p q s) (hloader : c.loader = none) (hmgmt : c.mgmt = none) :
    Kept c p q (State.keepSessions s i) := by
  dsimp only [State.keepSessions]
  with_reducible repeat' first | intro _ | assumption | apply Kept.closeSession | apply Kept.foldl

theorem Kept.applyLight {bs} {i} (h : Kept c p q s) (hloader : c.loader = none) (hmgmt : c.mgmt = none) :
    Kept c p q (State.applyLight s bs i) := by
  dsimp only [State.applyLight]
  with_reducible repeat' first
    | assumption | apply Kept.imgResult | apply Kept.rebuild | apply Kept.setPend | apply Kept.keepSessions
    | apply Kept.at_loader

theorem Kept.scReset {n} (h : Kept c p q s) (hmem : c.mem = none) (hlcs : c.lcs = none)
    (hqueues : c.queues = none) (hscs : c.scs = none) (hports : c.ports = none) (hholders : c.holders = none) :
    Kept c p q (State.scReset s n) := by
  dsimp only [State.scReset]
  with_reducible repeat' first
    | intro _ | assumption | apply Kept.acceptCompletion | apply Kept.setReg | apply Kept.setSc | apply Kept.foldl
    | apply Kept.cond

theorem Kept.portReset {p'} (h : Kept c p q s) (hscs : c.scs = none) (hports : c.ports = none) :
    Kept c p q (State.portReset s p') := by
  dsimp only [State.portReset]
  with_reducible repeat' first
    | intro _ | assumption | apply Kept.linkDown | apply Kept.setReg | apply Kept.setPort | apply Kept.foldl

theorem Kept.zeroMoved {old} {new} (h : Kept c p q s) (hmem : c.mem = none) (hlcs : c.lcs = none)
    (hports : c.ports = none) (hholders : c.holders = none) :
    Kept c p q (State.zeroMoved s old new) := by
  dsimp only [State.zeroMoved]
  have h1 := Kept.foldl (f := fun s l => s.maintLine l 2 true false) (l := s.heldLines.filter fun l => memMoves old new (lineAddr l)) h
    fun s l h => Kept.maintLine h (by assumption) (by assumption) (by assumption) (by assumption)
  exact Kept.at_mem h1 hmem fun hw => Table.wf_filter hw _

theorem Kept.resetMoved {old} {new} (h : Kept c p q s) (hmem : c.mem = none) (hlcs : c.lcs = none)
    (hqueues : c.queues = none) (hscs : c.scs = none) (hports : c.ports = none) (hholders : c.holders = none)
    (hctxs : c.ctxs = none) :
    Kept c p q (State.resetMoved s old new) := by
  dsimp only [State.resetMoved]
  with_reducible repeat' first
    | intro _ | assumption | apply Kept.scReset | apply Kept.qReset | apply Kept.portReset | apply Kept.zeroMoved
    | apply Kept.foldl | apply Kept.cond

theorem Kept.imgApply (h : Kept c p q s) (hloader : c.loader = none) (hmgmt : c.mgmt = none) (hmem : c.mem = none)
    (hlcs : c.lcs = none) (hqueues : c.queues = none) (hscs : c.scs = none) (hports : c.ports = none)
    (hholders : c.holders = none) (hctxs : c.ctxs = none) :
    Kept c p q (State.imgApply s) := by
  dsimp only [State.imgApply]
  repeat' first
    | with_reducible assumption | with_reducible apply Kept.imgResult | with_reducible apply Kept.applyLight
    | with_reducible apply Kept.resetMoved | with_reducible apply Kept.setPend | with_reducible apply Kept.cond
    | split

theorem Kept.imgDiscard (h : Kept c p q s) (hloader : c.loader = none) :
    Kept c p q (State.imgDiscard s) := by
  dsimp only [State.imgDiscard]
  with_reducible repeat' first | assumption | apply Kept.imgResult | apply Kept.setPend | apply Kept.at_loader

theorem Kept.commitVersion (h : Kept c p q s) :
    Kept c p q (State.commitVersion s) := by
  dsimp only [State.commitVersion]
  split
  · split
    · exact Kept.imgResult h
    · split
      · rename_i hv
        refine Kept.imgResult (Kept.blow h ⟨?_, id, BitVec.and_self, BitVec.and_self, fun _ _ => rfl⟩)
        rw [Fin.le_def]
        dsimp only
        omega
      · exact Kept.imgResult h
  · exact Kept.imgResult h

theorem Kept.sealStructure (h : Kept c p q s) :
    Kept c p q (State.sealStructure s) := by
  dsimp only [State.sealStructure]
  split
  · exact Kept.imgResult h
  · split
    · exact Kept.imgResult h
    · split
      · refine Kept.imgResult (Kept.blow h ⟨Fin.le_refl _, fun _ => rfl, ?_, BitVec.and_self, fun _ _ => rfl⟩)
        ext i hi
        simp
        exact Or.inl
      · exact Kept.imgResult h

theorem Kept.unfreeze {x2} (h : Kept c p q s) (hlcs : c.lcs = none) (hscs : c.scs = none)
    (hports : c.ports = none) (hctxs : c.ctxs = none) :
    Kept c p q (State.unfreeze s x2) := by
  dsimp only [State.unfreeze]
  repeat' first
    | with_reducible intro _ | with_reducible assumption | with_reducible apply Kept.modLc
    | with_reducible apply Kept.modPe | with_reducible apply Kept.portPathsGained
    | with_reducible apply Kept.portActiveFail | with_reducible apply Kept.modDma | with_reducible apply Kept.modCtx
    | with_reducible apply Kept.modPort | with_reducible apply Kept.foldl | with_reducible apply Kept.cond | split

theorem Kept.unfreezeCmd {id} (h : Kept c p q s) (hlcs : c.lcs = none) (hscs : c.scs = none)
    (hports : c.ports = none) (hctxs : c.ctxs = none) :
    Kept c p q (State.unfreezeCmd s id) := by
  dsimp only [State.unfreezeCmd]
  repeat' first
    | with_reducible assumption | with_reducible apply Kept.imgResult | with_reducible apply Kept.unfreeze
    | with_reducible apply Kept.cond | split

theorem Kept.imgCtlW {m} {v} (h : Kept c p q s) (hkeeper : c.keeper = none) (hloader : c.loader = none)
    (hmgmt : c.mgmt = none) (hmem : c.mem = none) (hlcs : c.lcs = none) (hqueues : c.queues = none)
    (hscs : c.scs = none) (hports : c.ports = none) (hholders : c.holders = none) (hctxs : c.ctxs = none) :
    Kept c p q (State.imgCtlW s m v) := by
  dsimp only [State.imgCtlW]
  repeat' first
    | with_reducible intro _ | with_reducible assumption | with_reducible apply Kept.csPriv
    | with_reducible apply Kept.imgResult | with_reducible apply Kept.imgApply
    | with_reducible apply Kept.imgDiscard | with_reducible apply Kept.commitVersion
    | with_reducible apply Kept.sealStructure | with_reducible apply Kept.settleMode
    | with_reducible apply Kept.unfreezeCmd | with_reducible apply Kept.cond | split

theorem Kept.execCommitVersion {m} (h : Kept c p q s) (hkeeper : c.keeper = none) (hloader : c.loader = none)
    (hmgmt : c.mgmt = none) (hmem : c.mem = none) (hlcs : c.lcs = none) (hqueues : c.queues = none)
    (hscs : c.scs = none) (hports : c.ports = none) (hholders : c.holders = none) (hctxs : c.ctxs = none) :
    nextAll (Kept c p q) (execCommitVersion m s) := by
  dsimp only [Machine.execCommitVersion]
  with_reducible repeat' first | apply nextAll.next | assumption | apply Kept.imgCtlW

theorem Kept.mcCtlW {m} {v} (h : Kept c p q s) (hloader : c.loader = none) (hlcs : c.lcs = none)
    (hports : c.ports = none) (hctxs : c.ctxs = none) :
    Kept c p q (State.mcCtlW s m v) := by
  dsimp only [State.mcCtlW]
  repeat' first
    | with_reducible intro _ | with_reducible assumption | with_reducible apply Kept.csAccess
    | with_reducible apply Kept.admitMaster | with_reducible apply Kept.respond | with_reducible apply Kept.setFld
    | with_reducible apply Kept.rebuild | with_reducible apply Kept.cond | split

theorem Kept.execMcLoad {m} (h : Kept c p q s) (hloader : c.loader = none) (hlcs : c.lcs = none)
    (hports : c.ports = none) (hctxs : c.ctxs = none) :
    nextAll (Kept c p q) (execMcLoad m s) := by
  dsimp only [Machine.execMcLoad]
  with_reducible repeat' first | apply nextAll.next | assumption | apply Kept.mcCtlW

theorem Kept.execSealFuses {m} (h : Kept c p q s) (hkeeper : c.keeper = none) (hloader : c.loader = none)
    (hmgmt : c.mgmt = none) (hmem : c.mem = none) (hlcs : c.lcs = none) (hqueues : c.queues = none)
    (hscs : c.scs = none) (hports : c.ports = none) (hholders : c.holders = none) (hctxs : c.ctxs = none) :
    nextAll (Kept c p q) (execSealFuses m s) := by
  dsimp only [Machine.execSealFuses]
  with_reducible repeat' first | apply nextAll.next | assumption | apply Kept.imgCtlW

theorem Kept.movePorts {old} {new} (h : Kept c p q s) (hscs : c.scs = none) (hports : c.ports = none) :
    Kept c p q (State.movePorts s old new) := by
  dsimp only [State.movePorts]
  repeat' first
    | with_reducible intro _ | with_reducible assumption | with_reducible apply Kept.setPort
    | with_reducible apply Kept.linkDown | with_reducible apply Kept.foldl | with_reducible apply Kept.cond | split

theorem Kept.recompose (h : Kept c p q s) (hkeeper : c.keeper = none) (hloader : c.loader = none)
    (hmgmt : c.mgmt = none) (hmem : c.mem = none) (hlcs : c.lcs = none) (hscs : c.scs = none)
    (hports : c.ports = none) (hholders : c.holders = none) :
    Kept c p q (State.recompose s) := by
  dsimp only [State.recompose]
  repeat' first
    | with_reducible intro _ | with_reducible assumption | with_reducible apply Kept.imgResult
    | with_reducible apply Kept.setPend | with_reducible apply Kept.emptySlot | with_reducible apply Kept.quietStop
    | with_reducible apply Kept.movePorts | with_reducible apply Kept.rebuild
    | with_reducible apply Kept.keepSessions | with_reducible apply Kept.giveBanks
    | with_reducible apply Kept.settleMode | with_reducible apply Kept.debugHalt | with_reducible apply Kept.foldl
    | with_reducible apply Kept.cond | split | with_reducible refine Kept.ofMk ?_

theorem Kept.execRecompositionCommit (h : Kept c p q s) (hkeeper : c.keeper = none) (hloader : c.loader = none)
    (hmgmt : c.mgmt = none) (hmem : c.mem = none) (hlcs : c.lcs = none) (hscs : c.scs = none)
    (hports : c.ports = none) (hholders : c.holders = none) :
    nextAll (Kept c p q) (execRecompositionCommit s) := by
  dsimp only [Machine.execRecompositionCommit]
  with_reducible repeat' first | apply nextAll.next | assumption | apply Kept.recompose

theorem Kept.setDetail {reason} {bs} (h : Kept c p q s) :
    Kept c p q (State.setDetail s reason bs) := by
  dsimp only [State.setDetail]
  with_reducible repeat' first | assumption | apply Kept.setFld | apply Kept.cond

theorem Kept.stage {bs} {fails} (h : Kept c p q s) (hkeeper : c.keeper = none) (hloader : c.loader = none)
    (hmem : c.mem = none) (hlcs : c.lcs = none) (hports : c.ports = none) (hholders : c.holders = none) :
    Kept c p q (State.stage s bs fails) := by
  dsimp only [State.stage]
  repeat' first
    | with_reducible assumption | with_reducible apply Kept.setDetail | with_reducible apply Kept.setPend
    | with_reducible apply Kept.enterCompose | with_reducible apply Kept.invWriteBytes
    | with_reducible apply Kept.cond | split | with_reducible apply Kept.at_loader

theorem Kept.execUnfreeze {m} {target} (h : Kept c p q s) (hkeeper : c.keeper = none) (hloader : c.loader = none)
    (hmgmt : c.mgmt = none) (hmem : c.mem = none) (hlcs : c.lcs = none) (hqueues : c.queues = none)
    (hscs : c.scs = none) (hports : c.ports = none) (hholders : c.holders = none) (hctxs : c.ctxs = none) :
    nextAll (Kept c p q) (execUnfreeze m target s) := by
  dsimp only [Machine.execUnfreeze]
  with_reducible repeat' first | apply nextAll.next | assumption | apply Kept.imgCtlW

theorem Kept.bankSwap {lc} (h : Kept c p q s) (hloader : c.loader = none) (hlcs : c.lcs = none) :
    Kept c p q (State.bankSwap s lc) := by
  dsimp only [State.bankSwap]
  with_reducible repeat' first
    | assumption | apply Kept.syncVoters | apply Kept.setLc | apply Kept.cond | apply Kept.at_loader

theorem Kept.execBankSwap {lc} (h : Kept c p q s) (hloader : c.loader = none) (hlcs : c.lcs = none) :
    nextAll (Kept c p q) (execBankSwap lc s) := by
  dsimp only [Machine.execBankSwap]
  with_reducible repeat' first | apply nextAll.next | assumption | apply Kept.bankSwap

theorem Kept.rebuildWritten (h : Kept c p q s) (hloader : c.loader = none) (hlcs : c.lcs = none) :
    Kept c p q (State.rebuildWritten s) := by
  dsimp only [State.rebuildWritten]
  repeat' first
    | with_reducible intro _ | with_reducible assumption | with_reducible apply Kept.giveBanks
    | with_reducible apply Kept.modLc | with_reducible apply Kept.foldl | with_reducible apply Kept.cond | split
    | with_reducible apply Kept.at_loader

theorem Kept.execRebuildWriteDone (h : Kept c p q s) (hloader : c.loader = none) (hlcs : c.lcs = none) :
    nextAll (Kept c p q) (execRebuildWriteDone s) := by
  dsimp only [Machine.execRebuildWriteDone]
  with_reducible repeat' first | apply nextAll.next | assumption | apply Kept.rebuildWritten

theorem Kept.copyValidated {fails} (h : Kept c p q s) (hkeeper : c.keeper = none) (hloader : c.loader = none)
    (hports : c.ports = none) :
    Kept c p q (State.copyValidated s fails) := by
  dsimp only [State.copyValidated]
  repeat' first
    | with_reducible assumption | with_reducible apply Kept.setDetail | with_reducible apply Kept.setFld
    | with_reducible apply Kept.enterCompose | with_reducible apply Kept.cond | split
    | with_reducible apply Kept.at_keeper

theorem Kept.execFlashCopyValidated {bistFail} (h : Kept c p q s) (hkeeper : c.keeper = none)
    (hloader : c.loader = none) (hports : c.ports = none) :
    nextAll (Kept c p q) (execFlashCopyValidated bistFail s) := by
  dsimp only [Machine.execFlashCopyValidated]
  with_reducible repeat' first | apply nextAll.next | assumption | apply Kept.copyValidated

theorem Kept.execImgDiscard {m} (h : Kept c p q s) (hkeeper : c.keeper = none) (hloader : c.loader = none)
    (hmgmt : c.mgmt = none) (hmem : c.mem = none) (hlcs : c.lcs = none) (hqueues : c.queues = none)
    (hscs : c.scs = none) (hports : c.ports = none) (hholders : c.holders = none) (hctxs : c.ctxs = none) :
    nextAll (Kept c p q) (execImgDiscard m s) := by
  dsimp only [Machine.execImgDiscard]
  with_reducible repeat' first | apply nextAll.next | assumption | apply Kept.imgCtlW

theorem Kept.execImgApply {m} (h : Kept c p q s) (hkeeper : c.keeper = none) (hloader : c.loader = none)
    (hmgmt : c.mgmt = none) (hmem : c.mem = none) (hlcs : c.lcs = none) (hqueues : c.queues = none)
    (hscs : c.scs = none) (hports : c.ports = none) (hholders : c.holders = none) (hctxs : c.ctxs = none) :
    nextAll (Kept c p q) (execImgApply m s) := by
  dsimp only [Machine.execImgApply]
  with_reducible repeat' first | apply nextAll.next | assumption | apply Kept.imgCtlW

end Sys2Proof.Machine
end

