-- ==== Sys2Proof/Laws/KeptAccess.lean ====
section
/-! SUPPORT. What an operation of accesses of the cores, paired words, microprograms and long instructions keeps (Laws/Kept.lean):
one lemma for each operation. -/

namespace Sys2Proof.Machine

variable {c : Track} {p : List Instr} {q : Fuses} {s : State}

theorem Kept.deqtagR {m} {t} (h : Kept c p q s) (hlcs : c.lcs = none) (hports : c.ports = none)
    (hctxs : c.ctxs = none) :
    Kept c p q (State.deqtagR s m t) := by
  dsimp only [State.deqtagR]
  with_reducible repeat' first | intro _ | assumption | apply Kept.csAccess | apply Kept.respond

theorem Kept.plainWrite {m} {r} {pa} {v} (h : Kept c p q s) (hlcs : c.lcs = none) (hports : c.ports = none)
    (hctxs : c.ctxs = none) :
    Kept c p q (State.plainWrite s m r pa v) := by
  dsimp only [State.plainWrite]
  with_reducible repeat' first | intro _ | assumption | apply Kept.csAccess | apply Kept.respond | apply Kept.setReg

theorem Kept.regWrite {m} {r} {pa} {v} (h : Kept c p q s) (hkeeper : c.keeper = none) (hloader : c.loader = none)
    (htb : c.tb = none) (hmgmt : c.mgmt = none) (hmem : c.mem = none) (hlcs : c.lcs = none)
    (hqueues : c.queues = none) (hscs : c.scs = none) (hports : c.ports = none) (hholders : c.holders = none)
    (hctxs : c.ctxs = none) :
    Kept c p q (State.regWrite s m r pa v) := by
  dsimp only [State.regWrite]
  repeat' first
    | with_reducible intro _ | with_reducible assumption | with_reducible apply Kept.imgCtlW
    | with_reducible apply Kept.settleMode | with_reducible apply Kept.ksCmdW | with_reducible apply Kept.tbCtlW
    | with_reducible apply Kept.tbStepW | with_reducible apply Kept.mcCtlW | with_reducible apply Kept.pwrReleaseW
    | with_reducible apply Kept.pinCfgW | with_reducible apply Kept.pinStatW | with_reducible apply Kept.grpCtlW
    | with_reducible apply Kept.maintW | with_reducible apply Kept.csOpen | with_reducible apply Kept.plainWrite
    | with_reducible apply Kept.mcRegW | with_reducible apply Kept.qmQcfgW | with_reducible apply Kept.qmResetW
    | with_reducible apply Kept.qmFlushW | with_reducible apply Kept.qmMarkW | with_reducible apply Kept.qmOpenW
    | with_reducible apply Kept.qmCloseW | with_reducible apply Kept.qmEnqW | with_reducible apply Kept.qmDmactlW
    | with_reducible apply Kept.scCfgW | with_reducible apply Kept.scPathsW | with_reducible apply Kept.scLimitsW
    | with_reducible apply Kept.scStartW | with_reducible apply Kept.scCtlW | with_reducible apply Kept.portCtlW
    | with_reducible apply Kept.draw | with_reducible apply Kept.configW | with_reducible apply Kept.cphKwW
    | with_reducible apply Kept.ctxcfgW | with_reducible apply Kept.pwrReqW | with_reducible apply Kept.prCtlW
    | with_reducible apply Kept.prStartW | with_reducible apply Kept.irSendW | with_reducible apply Kept.fcStatusW
    | with_reducible apply Kept.fcCtlW | with_reducible apply Kept.fcInjectW | with_reducible apply Kept.fcParcelW
    | with_reducible apply Kept.fcPstatW | with_reducible dsimp only [id] | with_reducible apply Kept.foldl
    | with_reducible apply Kept.cond | with_reducible refine Kept.snd ‹_ = (_, _)› ?_ | split

theorem Kept.plainRead {m} {r} {pa} (h : Kept c p q s) (hlcs : c.lcs = none) (hports : c.ports = none)
    (hctxs : c.ctxs = none) :
    Kept c p q (State.plainRead s m r pa) := by
  dsimp only [State.plainRead]
  with_reducible repeat' first | intro _ | assumption | apply Kept.csAccess | apply Kept.respond | apply Kept.setReg

theorem Kept.regRead {m} {r} {pa} (h : Kept c p q s) (hlcs : c.lcs = none) (hqueues : c.queues = none)
    (hports : c.ports = none) (hctxs : c.ctxs = none) :
    Kept c p q (State.regRead s m r pa) := by
  dsimp only [State.regRead]
  repeat' first
    | with_reducible assumption | with_reducible apply Kept.tbNowR | with_reducible apply Kept.relqR
    | with_reducible apply Kept.brlogR | with_reducible apply Kept.errlogR | with_reducible apply Kept.qmDeqR
    | with_reducible apply Kept.qmRewindR | with_reducible apply Kept.deqtagR | with_reducible apply Kept.draw
    | with_reducible apply Kept.configR | with_reducible apply Kept.fcLogR | with_reducible apply Kept.plainRead
    | split

theorem Kept.csError {m} {pa} {size} {need} (h : Kept c p q s) (hlcs : c.lcs = none) (hports : c.ports = none)
    (hctxs : c.ctxs = none) :
    Kept c p q (State.csError s m pa size need) := by
  dsimp only [State.csError]
  with_reducible repeat' first | intro _ | assumption | apply Kept.csSized | apply Kept.respond

theorem Kept.csMiss {m} {pa} {need} {t} (h : Kept c p q s) (hlcs : c.lcs = none) (hports : c.ports = none)
    (hctxs : c.ctxs = none) :
    Kept c p q (State.csMiss s m pa need t) := by
  dsimp only [State.csMiss]
  repeat' first
    | with_reducible intro _ | with_reducible assumption | with_reducible apply Kept.csAccess
    | with_reducible apply Kept.respond | with_reducible apply Kept.report | split

theorem Kept.csRead {m} {pa} {size} (h : Kept c p q s) (hlcs : c.lcs = none) (hqueues : c.queues = none)
    (hports : c.ports = none) (hctxs : c.ctxs = none) :
    Kept c p q (State.csRead s m pa size) := by
  dsimp only [State.csRead]
  repeat' first
    | with_reducible intro _ | with_reducible assumption | with_reducible apply Kept.csError
    | with_reducible apply Kept.regRead | with_reducible apply Kept.csAccess | with_reducible apply Kept.respond
    | with_reducible apply Kept.csMiss | with_reducible apply Kept.cond | split

theorem Kept.csWrite {m} {pa} {size} {v} (h : Kept c p q s) (hkeeper : c.keeper = none)
    (hloader : c.loader = none) (htb : c.tb = none) (hmgmt : c.mgmt = none) (hmem : c.mem = none)
    (hlcs : c.lcs = none) (hqueues : c.queues = none) (hscs : c.scs = none) (hports : c.ports = none)
    (hholders : c.holders = none) (hctxs : c.ctxs = none) :
    Kept c p q (State.csWrite s m pa size v) := by
  dsimp only [State.csWrite]
  repeat' first
    | with_reducible intro _ | with_reducible assumption | with_reducible apply Kept.csError
    | with_reducible apply Kept.regWrite | with_reducible apply Kept.csAccess | with_reducible apply Kept.respond
    | with_reducible apply Kept.csMiss | with_reducible apply Kept.cond | split

theorem Kept.execRegisterWrite {m} {addr} {size} {value} (h : Kept c p q s) (hkeeper : c.keeper = none)
    (hloader : c.loader = none) (htb : c.tb = none) (hmgmt : c.mgmt = none) (hmem : c.mem = none)
    (hlcs : c.lcs = none) (hqueues : c.queues = none) (hscs : c.scs = none) (hports : c.ports = none)
    (hholders : c.holders = none) (hctxs : c.ctxs = none) :
    nextAll (Kept c p q) (execRegisterWrite m addr size value s) := by
  dsimp only [Machine.execRegisterWrite]
  with_reducible repeat' first | apply nextAll.next | assumption | apply Kept.csWrite

theorem Kept.farPerform {lc} {h'} {sl} {f} (h : Kept c p q s) (hkeeper : c.keeper = none)
    (hloader : c.loader = none) (hmem : c.mem = none) (hlcs : c.lcs = none) (hscs : c.scs = none)
    (hports : c.ports = none) (hholders : c.holders = none) :
    Kept c p q (State.farPerform s lc h' sl f) := by
  dsimp only [State.farPerform]
  with_reducible repeat' first
    | intro _ | assumption | apply Kept.maintTouch | apply Kept.sfMake | apply Kept.homeArrive | apply Kept.snoop
    | apply Kept.endHold | apply Kept.modLc | apply Kept.caClear | apply Kept.clearResvs | apply Kept.sfMod
    | apply Kept.takeExc | apply Kept.invWriteLine | apply Kept.victimSettle | apply Kept.basinFill
    | apply Kept.voted | apply Kept.retired | apply Kept.foldl | apply Kept.cond

theorem Kept.dataAddr {s : State} {lc} {l} {d} {off} {n} {need} :
    Res.All c p q (fun _ => True) (State.dataAddr s lc l d off n need) := by
  dsimp only [Machine.State.dataAddr]
  with_reducible repeat' first
    | intro _ | assumption | apply Kept.check | apply Kept.segCheck | apply Kept.translateAt | apply Res.All.cond
    | exact Res.All.freeze | apply Res.All.ok | apply Res.All.bind

theorem Kept.drawBytes {n} (h : Kept c p q s) :
    Kept c p q (State.drawBytes s n).2 := by
  dsimp only [State.drawBytes]
  with_reducible repeat' first | assumption | apply Kept.other

theorem Kept.uncached {lc} {pa} {kind} {k : State → Res (List Byte × State)} (h : Kept c p q s)
    (hk : ∀ y0, Kept c p q y0 → Res.All c p q (fun x => Kept c p q x.2) (k y0)) (hlcs : c.lcs = none) :
    Res.All c p q (fun x => Kept c p q x.2) (State.uncached s lc pa kind k) := by
  dsimp only [State.uncached]
  repeat' first
    | with_reducible assumption | with_reducible apply hk | with_reducible apply Kept.nack
    | with_reducible apply Kept.served | with_reducible apply Res.All.cond | with_reducible exact Res.All.exc
    | with_reducible exact Res.All.wait | with_reducible apply Res.All.waitIn | split

theorem Kept.meetLine {sl} {l} (h : Kept c p q s) (hholders : c.holders = none) :
    Res.All c p q (Kept c p q) (State.meetLine s sl l) := by
  dsimp only [State.meetLine]
  repeat' first
    | with_reducible assumption | with_reducible apply Kept.cacheMeet | with_reducible apply Res.All.cond
    | with_reducible apply Res.All.ok | with_reducible apply Res.All.excIn
    | with_reducible refine Kept.fst ‹_ = (_, _)› ?_ | split

theorem Kept.readLine {lc} {pa} {n} (h : Kept c p q s) (hlcs : c.lcs = none) (hholders : c.holders = none) :
    Res.All c p q (fun x => Kept c p q x.2) (State.readLine s lc pa n) := by
  dsimp only [State.readLine]
  repeat' first
    | with_reducible assumption | with_reducible apply Kept.setHolder | with_reducible apply Kept.evictResv
    | with_reducible apply Kept.issueReq | with_reducible apply Kept.basinMeet | with_reducible apply Kept.caClear
    | with_reducible apply Kept.modHolder | with_reducible apply Kept.cond | with_reducible apply Res.All.cond
    | with_reducible exact Res.All.exc | with_reducible exact Res.All.wait | with_reducible apply Res.All.ok
    | with_reducible apply Res.All.excIn | with_reducible apply Res.All.waitIn | split

theorem Kept.readCached {lc} {pa} {n} (h : Kept c p q s) (hlcs : c.lcs = none) (hholders : c.holders = none) :
    Res.All c p q (fun x => Kept c p q x.2) (State.readCached s lc pa n) := by
  dsimp only [State.readCached]
  repeat' first
    | with_reducible intro _ | with_reducible assumption | with_reducible apply Kept.meetLine
    | with_reducible apply Kept.readLine | with_reducible exact Res.All.wait | with_reducible apply Res.All.bind
    | with_reducible apply Res.All.inState | split

theorem Kept.readAt {lc} {pa} {n} {unc} (h : Kept c p q s) (hmem : c.mem = none) (hlcs : c.lcs = none)
    (hqueues : c.queues = none) (hports : c.ports = none) (hholders : c.holders = none) (hctxs : c.ctxs = none) :
    Res.All c p q (fun x => Kept c p q x.2) (State.readAt s lc pa n unc) := by
  dsimp only [State.readAt]
  repeat' first
    | with_reducible intro _ | with_reducible assumption | with_reducible apply Kept.synced
    | with_reducible apply Kept.csRead | with_reducible apply Kept.drawBytes | with_reducible apply Kept.uncached
    | with_reducible apply Kept.caClear | with_reducible apply Kept.readCached | with_reducible apply Res.All.cond
    | with_reducible exact Res.All.exc | with_reducible exact Res.All.freeze | with_reducible apply Res.All.ok
    | with_reducible apply Res.All.map | with_reducible apply Res.All.bind | with_reducible apply Res.All.excIn
    | ((conv in State.place _ _ => skip); generalize State.place _ _ = y; cases y <;> try dsimp only)
    | ((conv in State.respOf _ _ => skip); generalize State.respOf _ _ = y; cases y <;> try dsimp only)
    | (rename Resp => y; cases y <;> try dsimp only)

theorem Kept.dataRead {lc} {l} {d} {off} {n} (h : Kept c p q s) (hmem : c.mem = none) (hlcs : c.lcs = none)
    (hqueues : c.queues = none) (hports : c.ports = none) (hholders : c.holders = none) (hctxs : c.ctxs = none) :
    Res.All c p q (fun x => Kept c p q x.2) (State.dataRead s lc l d off n) := by
  dsimp only [State.dataRead]
  with_reducible repeat' first
    | intro _ | assumption | apply Kept.dataAddr | apply Kept.setLc | apply Kept.readAt | apply Res.All.tag
    | apply Res.All.bind | apply Res.All.inState

theorem Kept.loadEffect {lc} {op} {form} {l} (h : Kept c p q s) (hmem : c.mem = none) (hlcs : c.lcs = none)
    (hqueues : c.queues = none) (hports : c.ports = none) (hholders : c.holders = none) (hctxs : c.ctxs = none) :
    Res.All c p q (Kept c p q) (State.loadEffect s lc op form l) := by
  dsimp only [State.loadEffect]
  with_reducible repeat' first | intro _ | assumption | apply Kept.dataRead | apply Kept.modLc | apply Res.All.map

theorem Kept.execReservationHoldExpiry {lc} (h : Kept c p q s) (hlcs : c.lcs = none) :
    nextAll (Kept c p q) (execReservationHoldExpiry lc s) := by
  dsimp only [Machine.execReservationHoldExpiry]
  with_reducible repeat' first | apply nextAll.next | assumption | apply Kept.modLc | apply Kept.cond

theorem Kept.runMem {lc} {w} {f : State → LCore → Res (State × Bool)} (h : Kept c p q s)
    (hf : ∀ y0 y1, Kept c p q y0 → Res.All c p q (fun x => Kept c p q x.1) (f y0 y1)) (hkeeper : c.keeper = none)
    (hloader : c.loader = none) (hmem : c.mem = none) (hlcs : c.lcs = none) (hscs : c.scs = none)
    (hports : c.ports = none) (hholders : c.holders = none) :
    Kept c p q (State.runMem s lc w f) := by
  dsimp only [State.runMem]
  repeat' first
    | with_reducible intro _ | with_reducible assumption | with_reducible apply hf
    | with_reducible apply Kept.askWalks | with_reducible apply Kept.runInstr | with_reducible apply Kept.cond
    | with_reducible apply Res.All.map | with_reducible refine Kept.ofResL ‹_ = Res.ok _› ?_ | split

theorem Kept.sendFar {lc} {sl} {f} (h : Kept c p q s) (hlcs : c.lcs = none) :
    Kept c p q (State.sendFar s lc sl f) := by
  dsimp only [State.sendFar]
  with_reducible repeat' first | assumption | apply Kept.issueReq | apply Kept.dropReq | apply Kept.modLc

theorem Kept.nearAtomic {lc} {sl} {f} (h : Kept c p q s) (hmem : c.mem = none) (hlcs : c.lcs = none)
    (hports : c.ports = none) (hholders : c.holders = none) :
    Res.All c p q (fun x => Kept c p q x.1) (State.nearAtomic s lc sl f) := by
  dsimp only [State.nearAtomic]
  with_reducible repeat' first
    | intro _ | assumption | apply Kept.meetLine | apply Kept.issueReq | apply Kept.ownLine | apply Kept.modHolder
    | apply Kept.modLc | apply Res.All.cond | apply Res.All.ok | apply Res.All.bind | apply Res.All.excIn

theorem Kept.atomicEffect {lc} {op} {d} {a} {b} {c'} {l} (h : Kept c p q s) (hmem : c.mem = none)
    (hlcs : c.lcs = none) (hports : c.ports = none) (hholders : c.holders = none) :
    Res.All c p q (fun x => Kept c p q x.1) (State.atomicEffect s lc op d a b c' l) := by
  dsimp only [State.atomicEffect]
  repeat' first
    | with_reducible intro _ | with_reducible assumption | with_reducible apply Kept.dataAddr
    | with_reducible apply Kept.setLc | with_reducible apply Kept.synced | with_reducible apply Kept.drawBytes
    | with_reducible apply Kept.modLc | with_reducible apply Kept.sendFar | with_reducible apply Kept.nearAtomic
    | with_reducible apply Res.All.cond | with_reducible exact Res.All.exc | with_reducible apply Res.All.ok
    | with_reducible apply Res.All.tag | with_reducible apply Res.All.map | with_reducible apply Res.All.bind
    | ((conv in State.place _ _ => skip); generalize State.place _ _ = y; cases y <;> try dsimp only)
    | ((conv in LCore.host _ => skip); generalize LCore.host _ = y; cases y <;> try dsimp only)

theorem Kept.atomic {lc} {op} {d} {a} {b} {c'} (h : Kept c p q s) (hkeeper : c.keeper = none)
    (hloader : c.loader = none) (hmem : c.mem = none) (hlcs : c.lcs = none) (hscs : c.scs = none)
    (hports : c.ports = none) (hholders : c.holders = none) :
    Kept c p q (State.atomic s lc op d a b c') := by
  dsimp only [State.atomic]
  with_reducible repeat' first | intro _ | assumption | apply Kept.runMem | apply Kept.atomicEffect

theorem Kept.execTas {lc} {d} {a} (h : Kept c p q s) (hkeeper : c.keeper = none) (hloader : c.loader = none)
    (hmem : c.mem = none) (hlcs : c.lcs = none) (hscs : c.scs = none) (hports : c.ports = none)
    (hholders : c.holders = none) :
    nextAll (Kept c p q) (execTas lc d a s) := by
  dsimp only [Machine.execTas]
  with_reducible repeat' first | apply nextAll.next | assumption | apply Kept.atomic

theorem Kept.load {lc} {op} {form} {ev} (h : Kept c p q s) (hkeeper : c.keeper = none) (hloader : c.loader = none)
    (hmem : c.mem = none) (hlcs : c.lcs = none) (hqueues : c.queues = none) (hscs : c.scs = none)
    (hports : c.ports = none) (hholders : c.holders = none) (hctxs : c.ctxs = none) :
    Kept c p q (State.load s lc op form ev) := by
  dsimp only [State.load]
  repeat' first
    | with_reducible intro _ | with_reducible assumption | with_reducible apply Kept.loadEffect
    | with_reducible apply Kept.settleMode | with_reducible apply Kept.retireEvent
    | with_reducible apply Kept.runInstr | with_reducible apply Kept.takeExc | with_reducible apply Kept.cond
    | with_reducible refine Kept.fst ‹_ = (_, _)› ?_ | split

theorem Kept.execLoad {lc} {op} {form} {ev} (h : Kept c p q s) (hkeeper : c.keeper = none)
    (hloader : c.loader = none) (hmem : c.mem = none) (hlcs : c.lcs = none) (hqueues : c.queues = none)
    (hscs : c.scs = none) (hports : c.ports = none) (hholders : c.holders = none) (hctxs : c.ctxs = none) :
    nextAll (Kept c p q) (execLoad lc op form ev s) := by
  dsimp only [Machine.execLoad]
  with_reducible repeat' first | apply nextAll.next | assumption | apply Kept.load

theorem Kept.stcndEffect {lc} {d} {a} {b} {l} (h : Kept c p q s) (hmem : c.mem = none) (hlcs : c.lcs = none)
    (hports : c.ports = none) (hholders : c.holders = none) :
    Res.All c p q (fun x => Kept c p q x.1) (State.stcndEffect s lc d a b l) := by
  dsimp only [State.stcndEffect]
  repeat' first
    | with_reducible intro _ | with_reducible assumption | with_reducible apply Kept.dataAddr
    | with_reducible apply Kept.setLc | with_reducible apply Kept.modLc | with_reducible apply Kept.synced
    | with_reducible apply Kept.issueReq | with_reducible apply Kept.meetLine | with_reducible apply Kept.modHolder
    | with_reducible apply Kept.ownLine | with_reducible apply Res.All.cond | with_reducible exact Res.All.exc
    | with_reducible apply Res.All.ok | with_reducible apply Res.All.tag | with_reducible apply Res.All.bind
    | ((conv in State.place _ _ => skip); generalize State.place _ _ = y; cases y <;> try dsimp only)
    | ((conv in LCore.host _ => skip); generalize LCore.host _ = y; cases y <;> try dsimp only)

theorem Kept.execStcnd {lc} {d} {a} {b} (h : Kept c p q s) (hkeeper : c.keeper = none) (hloader : c.loader = none)
    (hmem : c.mem = none) (hlcs : c.lcs = none) (hscs : c.scs = none) (hports : c.ports = none)
    (hholders : c.holders = none) :
    nextAll (Kept c p q) (execStcnd lc d a b s) := by
  dsimp only [Machine.execStcnd]
  with_reducible repeat' first
    | apply nextAll.next | intro _ | assumption | apply Kept.runMem | apply Kept.stcndEffect

theorem Kept.execSwap {lc} {d} {a} {b} (h : Kept c p q s) (hkeeper : c.keeper = none) (hloader : c.loader = none)
    (hmem : c.mem = none) (hlcs : c.lcs = none) (hscs : c.scs = none) (hports : c.ports = none)
    (hholders : c.holders = none) :
    nextAll (Kept c p q) (execSwap lc d a b s) := by
  dsimp only [Machine.execSwap]
  with_reducible repeat' first | apply nextAll.next | assumption | apply Kept.atomic

theorem Kept.writeUncached {lc} {pa} {bs} (h : Kept c p q s) (hmem : c.mem = none) (hlcs : c.lcs = none)
    (hports : c.ports = none) (hholders : c.holders = none) :
    Res.All c p q (fun x => Kept c p q x.1) (State.writeUncached s lc pa bs) := by
  dsimp only [State.writeUncached]
  with_reducible repeat' first
    | intro _ | assumption | apply Kept.synced | apply Kept.uncached | apply Kept.invWriteLine | apply Res.All.ok
    | apply Res.All.map | apply Res.All.bind

theorem Kept.writeCached {lc} {pa} {bs} (h : Kept c p q s) (hlcs : c.lcs = none) (hholders : c.holders = none) :
    Res.All c p q (fun x => Kept c p q x.1) (State.writeCached s lc pa bs) := by
  dsimp only [State.writeCached]
  repeat' first
    | with_reducible assumption | with_reducible apply Kept.cacheMeet | with_reducible apply Kept.evictResv
    | with_reducible apply Kept.modHolder | with_reducible apply Kept.modLc | with_reducible apply Kept.issueReq
    | with_reducible apply Kept.drainSlot | with_reducible apply Kept.cond | with_reducible apply Res.All.cond
    | with_reducible exact Res.All.wait | with_reducible apply Res.All.ok | split

theorem Kept.writeAt {lc} {pa} {bs} {unc} (h : Kept c p q s) (hkeeper : c.keeper = none)
    (hloader : c.loader = none) (htb : c.tb = none) (hmgmt : c.mgmt = none) (hmem : c.mem = none)
    (hlcs : c.lcs = none) (hqueues : c.queues = none) (hscs : c.scs = none) (hports : c.ports = none)
    (hholders : c.holders = none) (hctxs : c.ctxs = none) :
    Res.All c p q (fun x => Kept c p q x.1) (State.writeAt s lc pa bs unc) := by
  dsimp only [State.writeAt]
  repeat' first
    | with_reducible intro _ | with_reducible assumption | with_reducible apply Kept.synced
    | with_reducible apply Kept.csWrite | with_reducible apply Kept.modLc | with_reducible apply Kept.writeUncached
    | with_reducible apply Kept.writeCached | with_reducible apply Res.All.cond | with_reducible exact Res.All.exc
    | with_reducible exact Res.All.freeze | with_reducible apply Res.All.ok | with_reducible apply Res.All.map
    | with_reducible apply Res.All.bind | with_reducible apply Res.All.waitIn
    | ((conv in State.place _ _ => skip); generalize State.place _ _ = y; cases y <;> try dsimp only)
    | ((conv in State.respOf _ _ => skip); generalize State.respOf _ _ = y; cases y <;> try dsimp only)
    | (rename Resp => y; cases y <;> try dsimp only) | with_reducible apply Kept.other

theorem Kept.dataWrite {lc} {l} {d} {off} {bs} (h : Kept c p q s) (hkeeper : c.keeper = none)
    (hloader : c.loader = none) (htb : c.tb = none) (hmgmt : c.mgmt = none) (hmem : c.mem = none)
    (hlcs : c.lcs = none) (hqueues : c.queues = none) (hscs : c.scs = none) (hports : c.ports = none)
    (hholders : c.holders = none) (hctxs : c.ctxs = none) :
    Res.All c p q (fun x => Kept c p q x.1) (State.dataWrite s lc l d off bs) := by
  dsimp only [State.dataWrite]
  with_reducible repeat' first
    | intro _ | assumption | apply Kept.dataAddr | apply Kept.setLc | apply Kept.writeAt | apply Res.All.tag
    | apply Res.All.bind | apply Res.All.inState

theorem Kept.storeEffect {lc} {op} {form} {l} (h : Kept c p q s) (hkeeper : c.keeper = none)
    (hloader : c.loader = none) (htb : c.tb = none) (hmgmt : c.mgmt = none) (hmem : c.mem = none)
    (hlcs : c.lcs = none) (hqueues : c.queues = none) (hscs : c.scs = none) (hports : c.ports = none)
    (hholders : c.holders = none) (hctxs : c.ctxs = none) :
    Res.All c p q (fun x => Kept c p q x.1) (State.storeEffect s lc op form l) := by
  dsimp only [State.storeEffect]
  with_reducible repeat' first
    | intro _ | assumption | apply Kept.dataWrite | apply Kept.modLc | apply Kept.cond | apply Res.All.map

theorem Kept.ldresEffect {lc} {d} {a} {l} (h : Kept c p q s) (hmem : c.mem = none) (hlcs : c.lcs = none)
    (hqueues : c.queues = none) (hports : c.ports = none) (hholders : c.holders = none) (hctxs : c.ctxs = none) :
    Res.All c p q (fun x => Kept c p q x.1) (State.ldresEffect s lc d a l) := by
  dsimp only [State.ldresEffect]
  repeat' first
    | with_reducible intro _ | with_reducible assumption | with_reducible apply Kept.dataAddr
    | with_reducible apply Kept.setLc | with_reducible apply Kept.modLc | with_reducible apply Kept.readAt
    | with_reducible apply Kept.issueReq | with_reducible apply Kept.readCached | with_reducible apply Kept.ownLine
    | with_reducible apply Res.All.cond | with_reducible exact Res.All.exc | with_reducible apply Res.All.ok
    | with_reducible apply Res.All.tag | with_reducible apply Res.All.map2 | with_reducible apply Res.All.map
    | with_reducible apply Res.All.bind
    | ((conv in State.place _ _ => skip); generalize State.place _ _ = y; cases y <;> try dsimp only)
    | ((conv in LCore.host _ => skip); generalize LCore.host _ = y; cases y <;> try dsimp only)

theorem Kept.execLdres {lc} {d} {a} (h : Kept c p q s) (hkeeper : c.keeper = none) (hloader : c.loader = none)
    (hmem : c.mem = none) (hlcs : c.lcs = none) (hqueues : c.queues = none) (hscs : c.scs = none)
    (hports : c.ports = none) (hholders : c.holders = none) (hctxs : c.ctxs = none) :
    nextAll (Kept c p q) (execLdres lc d a s) := by
  dsimp only [Machine.execLdres]
  with_reducible repeat' first
    | apply nextAll.next | intro _ | assumption | apply Kept.runMem | apply Kept.ldresEffect

theorem Kept.lsegEffect {lc} {sn} {a} {l} (h : Kept c p q s) (hmem : c.mem = none) (hlcs : c.lcs = none)
    (hqueues : c.queues = none) (hports : c.ports = none) (hholders : c.holders = none) (hctxs : c.ctxs = none) :
    Res.All c p q (Kept c p q) (State.lsegEffect s lc sn a l) := by
  dsimp only [State.lsegEffect]
  repeat' first
    | with_reducible intro _ | with_reducible assumption | with_reducible apply Kept.translateAt
    | with_reducible apply Kept.readAt | with_reducible apply Kept.setLc | with_reducible apply Kept.LCore_descCheck
    | with_reducible apply Kept.modLc | with_reducible apply Res.All.cond | with_reducible exact Res.All.exc
    | with_reducible exact Res.All.freeze | with_reducible apply Res.All.tag | with_reducible apply Res.All.map
    | with_reducible apply Res.All.bind | split

theorem Kept.execAtomicFadd {lc} {d} {a} {b} (h : Kept c p q s) (hkeeper : c.keeper = none)
    (hloader : c.loader = none) (hmem : c.mem = none) (hlcs : c.lcs = none) (hscs : c.scs = none)
    (hports : c.ports = none) (hholders : c.holders = none) :
    nextAll (Kept c p q) (execAtomicFadd lc d a b s) := by
  dsimp only [Machine.execAtomicFadd]
  with_reducible repeat' first | apply nextAll.next | assumption | apply Kept.atomic

theorem Kept.execCas {lc} {d} {a} {b} {c'} (h : Kept c p q s) (hkeeper : c.keeper = none)
    (hloader : c.loader = none) (hmem : c.mem = none) (hlcs : c.lcs = none) (hscs : c.scs = none)
    (hports : c.ports = none) (hholders : c.holders = none) :
    nextAll (Kept c p q) (execCas lc d a b c' s) := by
  dsimp only [Machine.execCas]
  with_reducible repeat' first | apply nextAll.next | assumption | apply Kept.atomic

theorem Kept.execAmin {lc} {d} {a} {b} (h : Kept c p q s) (hkeeper : c.keeper = none) (hloader : c.loader = none)
    (hmem : c.mem = none) (hlcs : c.lcs = none) (hscs : c.scs = none) (hports : c.ports = none)
    (hholders : c.holders = none) :
    nextAll (Kept c p q) (execAmin lc d a b s) := by
  dsimp only [Machine.execAmin]
  with_reducible repeat' first | apply nextAll.next | assumption | apply Kept.atomic

theorem Kept.execLseg {lc} {sn} {a} (h : Kept c p q s) (hkeeper : c.keeper = none) (hloader : c.loader = none)
    (hmem : c.mem = none) (hlcs : c.lcs = none) (hqueues : c.queues = none) (hscs : c.scs = none)
    (hports : c.ports = none) (hholders : c.holders = none) (hctxs : c.ctxs = none) :
    nextAll (Kept c p q) (execLseg lc sn a s) := by
  dsimp only [Machine.execLseg]
  with_reducible repeat' first
    | apply nextAll.next | intro _ | assumption | apply Kept.runInstr | apply Kept.lsegEffect

theorem Kept.farAtomic {lc} {ev} (h : Kept c p q s) (hkeeper : c.keeper = none) (hloader : c.loader = none)
    (hmem : c.mem = none) (hlcs : c.lcs = none) (hscs : c.scs = none) (hports : c.ports = none)
    (hholders : c.holders = none) :
    Kept c p q (State.farAtomic s lc ev) := by
  dsimp only [State.farAtomic]
  repeat' first
    | with_reducible assumption | with_reducible apply Kept.takeExc | with_reducible apply Kept.modLc
    | with_reducible apply Kept.dropReq | with_reducible apply Kept.nack | with_reducible apply Kept.waitFill
    | with_reducible apply Kept.farPerform | with_reducible apply Kept.basinRead
    | with_reducible apply Kept.basinMeet | with_reducible apply Kept.sfTouch | with_reducible apply Kept.unstarve
    | with_reducible apply Kept.cond | split

theorem Kept.execFarAtomic {lc} {ev} (h : Kept c p q s) (hkeeper : c.keeper = none) (hloader : c.loader = none)
    (hmem : c.mem = none) (hlcs : c.lcs = none) (hscs : c.scs = none) (hports : c.ports = none)
    (hholders : c.holders = none) :
    nextAll (Kept c p q) (execFarAtomic lc ev s) := by
  dsimp only [Machine.execFarAtomic]
  repeat' first
    | with_reducible apply nextAll.next | with_reducible intro _ | with_reducible assumption
    | with_reducible apply Kept.leaves | with_reducible apply Kept.lineMet | with_reducible apply Kept.farAtomic
    | with_reducible apply Kept.cond | split

theorem Kept.ioResume {lc} {w} {fin} (h : Kept c p q s) (hmem : c.mem = none) (hlcs : c.lcs = none)
    (hports : c.ports = none) (hholders : c.holders = none) :
    Kept c p q (State.ioResume s lc w fin) := by
  dsimp only [State.ioResume]
  repeat' first
    | with_reducible assumption | with_reducible apply Kept.takeExc | with_reducible apply Kept.setLc
    | with_reducible apply Kept.cond | split

theorem Kept.execAmax {lc} {d} {a} {b} (h : Kept c p q s) (hkeeper : c.keeper = none) (hloader : c.loader = none)
    (hmem : c.mem = none) (hlcs : c.lcs = none) (hscs : c.scs = none) (hports : c.ports = none)
    (hholders : c.holders = none) :
    nextAll (Kept c p q) (execAmax lc d a b s) := by
  dsimp only [Machine.execAmax]
  with_reducible repeat' first | apply nextAll.next | assumption | apply Kept.atomic

theorem Kept.execStore {lc} {op} {form} (h : Kept c p q s) (hkeeper : c.keeper = none) (hloader : c.loader = none)
    (htb : c.tb = none) (hmgmt : c.mgmt = none) (hmem : c.mem = none) (hlcs : c.lcs = none)
    (hqueues : c.queues = none) (hscs : c.scs = none) (hports : c.ports = none) (hholders : c.holders = none)
    (hctxs : c.ctxs = none) :
    nextAll (Kept c p q) (execStore lc op form s) := by
  dsimp only [Machine.execStore]
  with_reducible repeat' first
    | apply nextAll.next | intro _ | assumption | apply Kept.ioResume | apply Kept.runMem | apply Kept.storeEffect
    | apply Kept.cond

theorem Res.All.inSlot {α : Type} {P : α → Prop} {r : Res α} {b : Bool} (h : Res.All c p q P r) :
    Res.All c p q P (r.inSlot b) := by
  cases r with
  | ok a => exact h
  | excIn s e => exact h
  | waitIn s => exact h
  | exc e => exact h
  | freeze a => exact h
  | wait => exact h

theorem Kept.shortMem {lc o l} (h : Kept c p q s)
    (hkeeper : c.keeper = none) (hloader : c.loader = none)
    (htb : c.tb = none) (hmgmt : c.mgmt = none) (hmem : c.mem = none)
    (hlcs : c.lcs = none) (hqueues : c.queues = none) (hscs : c.scs = none)
    (hports : c.ports = none) (hholders : c.holders = none) (hctxs : c.ctxs = none) :
    Res.All c p q (fun m => Kept c p q m.st) (State.shortMem s lc o l) := by
  dsimp only [State.shortMem]
  split
  · exact Res.All.map (by apply Kept.dataRead h <;> assumption) fun _ k => k
  · exact Res.All.map (by apply Kept.dataWrite h <;> assumption) fun _ k => k

theorem Kept.LCore_shortFp {l} {o} {w} {slot} {f} :
    Res.All c p q (fun _ => True) (LCore.shortFp l o w slot f) := by
  dsimp only [Machine.LCore.shortFp]
  with_reducible repeat' first | intro _ | assumption | apply Kept.LCore_roundFor | apply Res.All.map

theorem Kept.LCore_short {l} {o} {w} {slot} :
    Res.All c p q (fun _ => True) (LCore.short l o w slot) := by
  dsimp only [Machine.LCore.short]
  repeat' first
    | with_reducible apply Kept.LCore_intWrite | with_reducible apply Kept.LCore_shortFp
    | with_reducible apply Res.All.ok | with_reducible exact trivial | split

theorem Kept.LCore_pairRegs {l} {a} {b} {w} :
    Res.All c p q (fun _ => True) (LCore.pairRegs l a b w) := by
  dsimp only [Machine.LCore.pairRegs]
  with_reducible repeat' first
    | intro _ | assumption | apply Kept.LCore_short | apply Res.All.inSlot | apply Res.All.map | apply Res.All.bind

theorem Kept.pairEffect {lc} {a} {b} {w} {l} (h : Kept c p q s) (hkeeper : c.keeper = none)
    (hloader : c.loader = none) (htb : c.tb = none) (hmgmt : c.mgmt = none) (hmem : c.mem = none)
    (hlcs : c.lcs = none) (hqueues : c.queues = none) (hscs : c.scs = none) (hports : c.ports = none)
    (hholders : c.holders = none) (hctxs : c.ctxs = none) :
    Res.All c p q (fun x => Kept c p q x.1) (State.pairEffect s lc a b w l) := by
  dsimp only [State.pairEffect]
  repeat' first
    | with_reducible intro _ | with_reducible assumption | with_reducible apply Kept.setLc
    | with_reducible apply Kept.LCore_short | with_reducible apply Kept.LCore_pairRegs
    | with_reducible apply Kept.shortMem | with_reducible apply Res.All.inSlot | with_reducible apply Res.All.cond
    | with_reducible apply Res.All.map | with_reducible apply Res.All.bind | split

theorem Kept.execUndefinedEncoding {lc} {w} (h : Kept c p q s) (hkeeper : c.keeper = none)
    (hloader : c.loader = none) (hmem : c.mem = none) (hlcs : c.lcs = none) (hscs : c.scs = none)
    (hports : c.ports = none) (hholders : c.holders = none) :
    nextAll (Kept c p q) (execUndefinedEncoding lc w s) := by
  dsimp only [Machine.execUndefinedEncoding]
  repeat' first
    | with_reducible apply nextAll.next | with_reducible intro _ | with_reducible assumption
    | with_reducible apply Kept.runInstr | with_reducible exact Res.All.exc | split

theorem Kept.paired {lc} {w} (h : Kept c p q s) (hkeeper : c.keeper = none) (hloader : c.loader = none)
    (htb : c.tb = none) (hmgmt : c.mgmt = none) (hmem : c.mem = none) (hlcs : c.lcs = none)
    (hqueues : c.queues = none) (hscs : c.scs = none) (hports : c.ports = none) (hholders : c.holders = none)
    (hctxs : c.ctxs = none) :
    Kept c p q (State.paired s lc w) := by
  dsimp only [State.paired]
  repeat' first
    | with_reducible intro _ | with_reducible assumption | with_reducible apply Kept.runInstr
    | with_reducible apply Kept.ioResume | with_reducible apply Kept.runMem | with_reducible apply Kept.pairEffect
    | with_reducible apply Kept.cond | with_reducible exact Res.All.exc | split

theorem Kept.execInstructionFetchFault {lc} (h : Kept c p q s) (hkeeper : c.keeper = none)
    (hloader : c.loader = none) (hmem : c.mem = none) (hlcs : c.lcs = none) (hscs : c.scs = none)
    (hports : c.ports = none) (hholders : c.holders = none) :
    nextAll (Kept c p q) (execInstructionFetchFault lc s) := by
  dsimp only [Machine.execInstructionFetchFault]
  repeat' first
    | with_reducible apply nextAll.next | with_reducible intro _ | with_reducible assumption
    | with_reducible apply Kept.runInstr | with_reducible exact Res.All.exc | with_reducible exact Res.All.freeze
    | split

theorem Kept.execPairedWord {lc} {w} (h : Kept c p q s) (hkeeper : c.keeper = none) (hloader : c.loader = none)
    (htb : c.tb = none) (hmgmt : c.mgmt = none) (hmem : c.mem = none) (hlcs : c.lcs = none)
    (hqueues : c.queues = none) (hscs : c.scs = none) (hports : c.ports = none) (hholders : c.holders = none)
    (hctxs : c.ctxs = none) :
    nextAll (Kept c p q) (execPairedWord lc w s) := by
  dsimp only [Machine.execPairedWord]
  with_reducible repeat' first | apply nextAll.next | assumption | apply Kept.paired

theorem Kept.microEvent {lc} {ev} (h : Kept c p q s) (hlcs : c.lcs = none) :
    Kept c p q (State.microEvent s lc ev).1 := by
  dsimp only [State.microEvent]
  repeat' first | with_reducible assumption | with_reducible apply Kept.microError | split

theorem Kept.microStart {l} {w} {entry} (h : Kept c p q s) :
    Kept c p q (State.microStart s l w entry).2 := by
  dsimp only [State.microStart]
  with_reducible repeat' first | assumption | apply Kept.drawBytes

theorem Kept.abandonReqs (t : State) {lc} (h : Kept c p q s) (ht : Kept c p q t) :
    Kept c p q (State.abandonReqs s t lc) := by
  dsimp only [State.abandonReqs]
  repeat' first | with_reducible assumption | split | with_reducible apply Kept.other

theorem Kept.microStop {lc} {kind} {addr} (h : Kept c p q s) (hlcs : c.lcs = none) :
    Kept c p q (State.microStop s lc kind addr) := by
  dsimp only [State.microStop]
  with_reducible repeat' first | assumption | apply Kept.report | apply Kept.modLc

theorem Kept.rangeAddr {s : State} {lc} {l} {d} {off} {n} {need} :
    Res.All c p q (fun _ => True) (State.rangeAddr s lc l d off n need) := by
  dsimp only [Machine.State.rangeAddr]
  with_reducible repeat' first
    | intro _ | assumption | apply Kept.segCheck | apply Kept.translateAt | apply Res.All.cond
    | exact Res.All.freeze | apply Res.All.ok | apply Res.All.bind

theorem Kept.readPieces {lc} {x3} (h : Kept c p q s) (hmem : c.mem = none) (hlcs : c.lcs = none)
    (hqueues : c.queues = none) (hports : c.ports = none) (hholders : c.holders = none) (hctxs : c.ctxs = none) :
    Res.All c p q (fun x => Kept c p q x.2) (State.readPieces s lc x3) := by
  induction x3 generalizing s with
  | nil => exact Res.All.ok h
  | cons a t ih =>
    dsimp only [State.readPieces]
    with_reducible repeat' first
      | intro _ | assumption | apply ih | apply Kept.readAt | apply Res.All.map | apply Res.All.bind

theorem Kept.writePieces {lc} {x3} {x4} (h : Kept c p q s) (hkeeper : c.keeper = none) (hloader : c.loader = none)
    (htb : c.tb = none) (hmgmt : c.mgmt = none) (hmem : c.mem = none) (hlcs : c.lcs = none)
    (hqueues : c.queues = none) (hscs : c.scs = none) (hports : c.ports = none) (hholders : c.holders = none)
    (hctxs : c.ctxs = none) :
    Res.All c p q (Kept c p q) (State.writePieces s lc x3 x4) := by
  induction x3 generalizing s x4 with
  | nil => exact Res.All.ok h
  | cons a t ih =>
    dsimp only [State.writePieces]
    with_reducible repeat' first | intro _ | assumption | apply ih | apply Kept.writeAt | apply Res.All.bind

theorem Kept.execMcOverrun {lc} (h : Kept c p q s) (hlcs : c.lcs = none) :
    nextAll (Kept c p q) (execMcOverrun lc s) := by
  dsimp only [Machine.execMcOverrun]
  repeat' first
    | with_reducible apply nextAll.next | with_reducible assumption | with_reducible apply Kept.microStop
    | with_reducible apply Kept.cond | split

/-! ### Segments of a microprogram -/

section
variable {g : Seg}
theorem Kept.segDraw (h : Kept c p q g.st) : Kept c p q g.draw.2.st := Kept.draw h
theorem Kept.segCond {C : Prop} [Decidable C] {x y : Word × Seg} (h1 : Kept c p q x.2.st) (h2 : Kept c p q y.2.st) :
    Kept c p q (if C then x else y).2.st := by split <;> assumption
theorem Kept.segRead {x imm sel} (h : Kept c p q g.st) : Kept c p q (g.read x imm sel).2.st := by
  dsimp only [Seg.read]
  repeat' first
    | with_reducible apply Kept.segCond
    | exact h
    | exact Kept.segDraw h
theorem Kept.segWrite {x sel v} (h : Kept c p q g.st) : optAll (fun g => Kept c p q g.st) (g.write x sel v) := by
  dsimp only [Seg.write]
  repeat' first
    | with_reducible exact optAll.some h
    | with_reducible exact optAll.none
    | with_reducible apply optAll.cond
    | split
theorem Kept.segAlu {x w} (h : Kept c p q g.st) : optAll (fun g => Kept c p q g.st) (g.alu x w) := by
  unfold Seg.alu
  dsimp only
  split
  · exact optAll.some h
  · refine Kept.segWrite ?_
    have h2 := Kept.segRead (x := x) (imm := mwImm w) (sel := mwSrcB w) (Kept.segRead (x := x) (imm := mwImm w) (sel := mwSrcA w) h)
    repeat' first
      | exact h2
      | exact Kept.segDraw h2
      | exact Kept.segDraw (Kept.segDraw h2)
      | split
theorem Kept.segStoreBytes {x w n} (h : Kept c p q g.st) : Kept c p q (g.storeBytes x w n).2.st := by
  unfold Seg.storeBytes
  dsimp only
  repeat' first
    | exact h
    | exact Kept.segRead h
    | exact Kept.drawBytes (Kept.segRead h)
    | split
theorem Kept.segLoadInto {x w bs pa} (h : Kept c p q g.st) :
    optAll (fun g => Kept c p q g.st) (g.loadInto x w bs pa) := by
  unfold Seg.loadInto
  dsimp only
  repeat' first
    | exact optAll.some h
    | exact Kept.segWrite h
    | exact Kept.segWrite (Kept.segDraw h)
    | split
theorem Kept.segKeepTlb {x l} (h : Kept c p q g.st)
    (hkeeper : c.keeper = none := by assumption) (hloader : c.loader = none := by assumption)
    (htb : c.tb = none := by assumption) (hmgmt : c.mgmt = none := by assumption) (hmem : c.mem = none := by assumption)
    (hlcs : c.lcs = none := by assumption) (hqueues : c.queues = none := by assumption) (hscs : c.scs = none := by assumption)
    (hports : c.ports = none := by assumption) (hholders : c.holders = none := by assumption) (hctxs : c.ctxs = none := by assumption) : Kept c p q (g.keepTlb x l).st := by
  show Kept c p q (g.st.modLc x.lc.val fun k => { k with tlb := l.tlb })
  exact Kept.modLc h hlcs
theorem Kept.segBind {α : Type} {r : Res α} {n : Nat} {k : α → Seg × Option SegEnd} {Q : α → Prop} (h : Kept c p q g.st)
    (hr : Res.All c p q Q r) (hk : ∀ a, Q a → Kept c p q (k a).1.st) : Kept c p q (segBind g r n k).1.st := by
  have e := Res.All.tag (n := n) hr
  unfold Sys2Proof.Machine.segBind
  generalize r.tag n = y at e
  cases y with
  | ok a => exact hk a e
  | excIn s x => exact e
  | waitIn s => exact h
  | exc x => exact h
  | freeze a => exact h
  | wait => exact h
theorem Kept.segKeep {o : Option Seg} (h : Kept c p q g.st) (ho : optAll (fun g => Kept c p q g.st) o) :
    Kept c p q (segKeep g o).1.st := by
  cases o with
  | none => exact h
  | some a => exact ho a rfl
theorem Kept.segAccess {x w off n need} : optAll (Res.All c p q fun _ => True) (g.access x w off n need) := by
  unfold Seg.access
  dsimp only
  repeat' first
    | with_reducible exact optAll.some (Res.All.ok trivial)
    | with_reducible exact optAll.none
    | with_reducible refine optAll.some ?_
    | with_reducible refine Res.All.bind (Q := fun _ => True) Kept.check fun _ _ => ?_
    | with_reducible exact Res.All.map (Q := fun _ => True) Kept.rangeAddr fun _ _ => trivial
    | split
theorem Kept.segLoad {x w off n} (h : Kept c p q g.st)
    (hkeeper : c.keeper = none := by assumption) (hloader : c.loader = none := by assumption)
    (htb : c.tb = none := by assumption) (hmgmt : c.mgmt = none := by assumption) (hmem : c.mem = none := by assumption)
    (hlcs : c.lcs = none := by assumption) (hqueues : c.queues = none := by assumption) (hscs : c.scs = none := by assumption)
    (hports : c.ports = none := by assumption) (hholders : c.holders = none := by assumption) (hctxs : c.ctxs = none := by assumption) : Kept c p q (g.load x w off n).1.st := by
  have ha := Kept.segAccess (c := c) (p := p) (q := q) (g := g) (x := x) (w := w) (off := off) (n := n) (need := needR)
  unfold Seg.load
  dsimp only
  split
  · exact h
  · rename_i e
    refine Kept.segBind h (ha _ e) fun a _ => ?_
    have h1 : Kept c p q (g.keepTlb x a.2).st := Kept.segKeepTlb h
    have hr : Res.All c p q (fun x => Kept c p q x.2) ((g.keepTlb x a.2).st.readPieces x.lc (a.1.flatMap Piece.lines)) := by
      apply Kept.readPieces h1 <;> assumption
    split
    · split
      · rename_i e
        exact Kept.segKeep h (Kept.segLoadInto (Kept.ofResR e hr))
      · exact h1
      · exact h1
      · exact Kept.segKeep h (Kept.segLoadInto (Kept.drawBytes h1))
      · rename_i e
        exact Kept.segKeep h (Kept.segLoadInto (Kept.drawBytes (Kept.ofExcIn e hr)))
      · exact Kept.segKeep h (Kept.segLoadInto (Kept.drawBytes h1))
    · exact Kept.segBind h1 hr fun b hb => Kept.segKeep h1 (Kept.segLoadInto hb)
theorem Kept.segStore {x w off n} (h : Kept c p q g.st)
    (hkeeper : c.keeper = none := by assumption) (hloader : c.loader = none := by assumption)
    (htb : c.tb = none := by assumption) (hmgmt : c.mgmt = none := by assumption) (hmem : c.mem = none := by assumption)
    (hlcs : c.lcs = none := by assumption) (hqueues : c.queues = none := by assumption) (hscs : c.scs = none := by assumption)
    (hports : c.ports = none := by assumption) (hholders : c.holders = none := by assumption) (hctxs : c.ctxs = none := by assumption) : Kept c p q (g.store x w off n).1.st := by
  have h0 : Kept c p q (g.storeBytes x w n).2.st := Kept.segStoreBytes h
  have ha := Kept.segAccess (c := c) (p := p) (q := q) (g := (g.storeBytes x w n).2) (x := x) (w := w) (off := off) (n := n)
    (need := needW)
  unfold Seg.store
  dsimp only
  split
  · exact h
  · rename_i e
    refine Kept.segBind h (ha _ e) fun a _ => ?_
    have h1 : Kept c p q ((g.storeBytes x w n).2.keepTlb x a.2).st := Kept.segKeepTlb h0
    have hw : Res.All c p q (Kept c p q)
        (((g.storeBytes x w n).2.keepTlb x a.2).st.writePieces x.lc (a.1.flatMap Piece.lines) (g.storeBytes x w n).1) := by
      apply Kept.writePieces h1 <;> assumption
    split
    · split
      · rename_i e
        exact Kept.ofRes e hw
      · exact h1
      · exact h1
      · exact h1
    · split
      · exact h1
      · exact Kept.segBind h1 hw fun b _ => h1
theorem Kept.segProbe {x w off n need} (h : Kept c p q g.st)
    (hkeeper : c.keeper = none := by assumption) (hloader : c.loader = none := by assumption)
    (htb : c.tb = none := by assumption) (hmgmt : c.mgmt = none := by assumption) (hmem : c.mem = none := by assumption)
    (hlcs : c.lcs = none := by assumption) (hqueues : c.queues = none := by assumption) (hscs : c.scs = none := by assumption)
    (hports : c.ports = none := by assumption) (hholders : c.holders = none := by assumption) (hctxs : c.ctxs = none := by assumption) : Kept c p q (g.probe x w off n need).1.st := by
  unfold Seg.probe
  dsimp only
  split
  · exact h
  · exact Kept.segBind (Q := fun _ => True) h Kept.rangeAddr fun a _ => Kept.segKeepTlb (x := x) (l := a.2.2) h
theorem Kept.segMem {x w} (h : Kept c p q g.st)
    (hkeeper : c.keeper = none := by assumption) (hloader : c.loader = none := by assumption)
    (htb : c.tb = none := by assumption) (hmgmt : c.mgmt = none := by assumption) (hmem : c.mem = none := by assumption)
    (hlcs : c.lcs = none := by assumption) (hqueues : c.queues = none := by assumption) (hscs : c.scs = none := by assumption)
    (hports : c.ports = none := by assumption) (hholders : c.holders = none := by assumption) (hctxs : c.ctxs = none := by assumption) : Kept c p q (g.mem x w).1.st := by
  have h1 : Kept c p q (g.read x (mwImm w) (mwSrcA w)).2.st := Kept.segRead h
  unfold Seg.mem
  dsimp only
  repeat' first
    | exact h
    | exact Kept.segLoad h1
    | exact Kept.segStore h1
    | exact Kept.segProbe h1
    | split
theorem Kept.segSubmit {si} (h : Kept c p q g.st) : Kept c p q (g.submit si).st := by
  unfold Seg.submit
  split
  · exact h
  · dsimp only
    exact Kept.modAslot h
theorem Kept.segExt {x w} (h : Kept c p q g.st)
    (hkeeper : c.keeper = none := by assumption) (hloader : c.loader = none := by assumption)
    (htb : c.tb = none := by assumption) (hmgmt : c.mgmt = none := by assumption) (hmem : c.mem = none := by assumption)
    (hlcs : c.lcs = none := by assumption) (hqueues : c.queues = none := by assumption) (hscs : c.scs = none := by assumption)
    (hports : c.ports = none := by assumption) (hholders : c.holders = none := by assumption) (hctxs : c.ctxs = none := by assumption) : Kept c p q (g.ext x w).1.st := by
  unfold Seg.ext
  dsimp only
  repeat' first
    | exact h
    | exact Kept.segRead h
    | exact Kept.segSubmit h
    | split
theorem Kept.segAdvance {x w} (h : Kept c p q g.st) : Kept c p q (g.advance x w).1.st := by
  unfold Seg.advance
  dsimp only
  repeat' first
    | exact h
    | split
theorem Kept.segPublish {x} (h : Kept c p q g.st)
    (hkeeper : c.keeper = none := by assumption) (hloader : c.loader = none := by assumption)
    (htb : c.tb = none := by assumption) (hmgmt : c.mgmt = none := by assumption) (hmem : c.mem = none := by assumption)
    (hlcs : c.lcs = none := by assumption) (hqueues : c.queues = none := by assumption) (hscs : c.scs = none := by assumption)
    (hports : c.ports = none := by assumption) (hholders : c.holders = none := by assumption) (hctxs : c.ctxs = none := by assumption) : Kept c p q (g.publish x) := by
  unfold Seg.publish
  exact Kept.modLc h hlcs
theorem Kept.segCommit {x} (h : Kept c p q g.st)
    (hkeeper : c.keeper = none := by assumption) (hloader : c.loader = none := by assumption)
    (htb : c.tb = none := by assumption) (hmgmt : c.mgmt = none := by assumption) (hmem : c.mem = none := by assumption)
    (hlcs : c.lcs = none := by assumption) (hqueues : c.queues = none := by assumption) (hscs : c.scs = none := by assumption)
    (hports : c.ports = none := by assumption) (hholders : c.holders = none := by assumption) (hctxs : c.ctxs = none := by assumption) : optAll (fun g => Kept c p q g.st) (g.commit x) := by
  have h1 : ∀ (l : List (List Piece × List Byte)) (o : Option State), optAll (Kept c p q) o →
      optAll (Kept c p q) (l.foldl (fun (o : Option State) e =>
        o.bind fun s =>
          match s.writePieces x.lc e.1 e.2 with
          | .ok s1 => some s1
          | .wait | .waitIn _ => none
          | _ => some s) o) := by
    intro l
    induction l with
    | nil => intro o ho; exact ho
    | cons a l ih =>
      intro o ho
      refine ih _ (optAll.bind ho fun s hs => ?_)
      split
      · rename_i e
        exact optAll.some (Kept.ofRes e (by apply Kept.writePieces hs <;> assumption))
      · exact optAll.none
      · exact optAll.none
      · exact optAll.some hs
  unfold Seg.commit
  dsimp only
  intro b hb
  obtain ⟨st, e1, e2⟩ := Option.map_eq_some_iff.mp hb
  subst e2
  exact h1 _ _ (optAll.some h) _ e1
theorem Kept.segWord {x w} (h : Kept c p q g.st)
    (hkeeper : c.keeper = none := by assumption) (hloader : c.loader = none := by assumption)
    (htb : c.tb = none := by assumption) (hmgmt : c.mgmt = none := by assumption) (hmem : c.mem = none := by assumption)
    (hlcs : c.lcs = none := by assumption) (hqueues : c.queues = none := by assumption) (hscs : c.scs = none := by assumption)
    (hports : c.ports = none := by assumption) (hholders : c.holders = none := by assumption) (hctxs : c.ctxs = none := by assumption) : Kept c p q (g.word x w).1.st := by
  unfold Seg.word
  dsimp only
  split
  · exact h
  split
  · exact h
  split
  · exact h
  rename_i g1 e1
  have h1 : Kept c p q g1.st := Kept.segAlu h _ e1
  have h2 : Kept c p q (g1.mem x w).1.st := Kept.segMem h1
  split
  · rename_i e; rw [e] at h2; exact h2
  rename_i g2 e2
  rw [e2] at h2
  have h3 : Kept c p q (g2.ext x w).1.st := Kept.segExt h2
  split
  · rename_i e; rw [e] at h3; exact h3
  rename_i g3 e3
  rw [e3] at h3
  have h4 : Kept c p q (if g3.committed then { g3 with cycles := g3.cycles + mwCyc w + 1 } else g3 : Seg).st := by
    split <;> exact h3
  generalize (if g3.committed then { g3 with cycles := g3.cycles + mwCyc w + 1 } else g3 : Seg) = g4 at h4 ⊢
  have h5 : optAll (fun g => Kept c p q g.st) (if !g4.committed && (mwCommit w || mwTerm w ≠ 0) then g4.commit x else some g4) := by
    split
    · exact Kept.segCommit h4
    · exact optAll.some h4
  split
  · exact h
  rename_i g6 e6
  have h6 := h5 _ e6
  split
  · exact h6
  split
  · exact h
  have h7 : Kept c p q (g6.advance x w).1.st := Kept.segAdvance h6
  split
  · rename_i e; rw [e] at h7; exact h7
  · rename_i e; rw [e] at h7; exact h7
theorem Kept.segRun {x words} {n : Nat} (h : Kept c p q g.st)
    (hkeeper : c.keeper = none := by assumption) (hloader : c.loader = none := by assumption)
    (htb : c.tb = none := by assumption) (hmgmt : c.mgmt = none := by assumption) (hmem : c.mem = none := by assumption)
    (hlcs : c.lcs = none := by assumption) (hqueues : c.queues = none := by assumption) (hscs : c.scs = none := by assumption)
    (hports : c.ports = none := by assumption) (hholders : c.holders = none := by assumption) (hctxs : c.ctxs = none := by assumption) : Kept c p q (Seg.run x words n g).1.st := by
  induction n generalizing g with
  | zero => exact h
  | succ n ih =>
    have h1 : Kept c p q (g.word x (microword words g.m.addr)).1.st := Kept.segWord h
    unfold Seg.run
    split
    · rename_i e; rw [e] at h1; exact h1
    · rename_i e; rw [e] at h1; exact ih h1
end

theorem Kept.segEnd {x} {g} {e} (h : Kept c p q s) (hg : Kept c p q (Seg.st g))
    (hkeeper : c.keeper = none := by assumption) (hloader : c.loader = none := by assumption)
    (htb : c.tb = none := by assumption) (hmgmt : c.mgmt = none := by assumption) (hmem : c.mem = none := by assumption)
    (hlcs : c.lcs = none := by assumption) (hqueues : c.queues = none := by assumption) (hscs : c.scs = none := by assumption)
    (hports : c.ports = none := by assumption) (hholders : c.holders = none := by assumption) (hctxs : c.ctxs = none := by assumption) : Kept c p q (State.segEnd s x g e) := by
  have h1 : Kept c p q (g.publish x) := Kept.segPublish hg
  have h2 : Kept c p q (s.abandonReqs g.st x.lc) := Kept.abandonReqs _ h hg
  dsimp only [State.segEnd]
  repeat' first
    | with_reducible assumption
    | with_reducible apply Kept.takeExc
    | with_reducible apply Kept.enterExc
    | with_reducible apply Kept.freezeCore
    | with_reducible apply Kept.microStop
    | with_reducible apply Kept.fpTrap
    | with_reducible apply Kept.retired
    | with_reducible apply Kept.modLc
    | with_reducible apply Kept.cond
    | split

theorem Kept.customRun {lc} {k} {d} {a} {b} {cx} {ev} (h : Kept c p q s)
    (hkeeper : c.keeper = none) (hloader : c.loader = none)
    (htb : c.tb = none) (hmgmt : c.mgmt = none) (hmem : c.mem = none)
    (hlcs : c.lcs = none) (hqueues : c.queues = none) (hscs : c.scs = none)
    (hports : c.ports = none) (hholders : c.holders = none) (hctxs : c.ctxs = none) :
    Kept c p q (State.customRun s lc k d a b cx ev).1 := by
  have he : ∀ w e, Kept c p q (s.takeExc lc w e) := fun w e => by apply Kept.takeExc h <;> assumption
  have hm : Kept c p q (s.microEvent lc ev).1 := by apply Kept.microEvent h <;> assumption
  unfold State.customRun
  dsimp only
  repeat' first
    | exact he _ _
    | exact Kept.fst ‹_› hm
    | refine Kept.segEnd (Kept.fst ‹_› hm) (Kept.segRun ?_)
    | (dsimp only; exact Kept.microStart (Kept.fst ‹_› hm))
    | split

theorem Kept.custom {lc} {k} {d} {a} {b} {cx} {ev} (h : Kept c p q s)
    (hkeeper : c.keeper = none) (hloader : c.loader = none)
    (htb : c.tb = none) (hmgmt : c.mgmt = none) (hmem : c.mem = none)
    (hlcs : c.lcs = none) (hqueues : c.queues = none) (hscs : c.scs = none)
    (hports : c.ports = none) (hholders : c.holders = none) (hctxs : c.ctxs = none) :
    Kept c p q (State.custom s lc k d a b cx ev) := by
  have hr : ∀ s, Kept c p q s → Kept c p q (State.customRun s lc k d a b cx ev).1 := fun s h => by
    apply Kept.customRun h <;> assumption
  dsimp only [State.custom]
  refine Kept.cond (by apply Kept.runInstr h (fun _ _ _ => Res.All.wait) <;> assumption) (Kept.cond ?_ (hr s h))
  apply Kept.voted h hr <;> assumption

theorem Kept.execCustomOpcode {lc} {k} {d} {a} {b} {cx} {ev} (h : Kept c p q s)
    (hkeeper : c.keeper = none) (hloader : c.loader = none)
    (htb : c.tb = none) (hmgmt : c.mgmt = none) (hmem : c.mem = none)
    (hlcs : c.lcs = none) (hqueues : c.queues = none) (hscs : c.scs = none)
    (hports : c.ports = none) (hholders : c.holders = none) (hctxs : c.ctxs = none) :
    nextAll (Kept c p q) (Machine.execCustomOpcode lc k d a b cx ev s) :=
  nextAll.next (by apply Kept.custom h <;> assumption)

theorem Kept.runLong {lc} {w} {ev} {f : State → LCore → Res (State × Bool)} (h : Kept c p q s)
    (hf : ∀ y0 y1, Kept c p q y0 → Res.All c p q (fun x => Kept c p q x.1) (f y0 y1)) (hkeeper : c.keeper = none)
    (hloader : c.loader = none) (hmem : c.mem = none) (hlcs : c.lcs = none) (hscs : c.scs = none)
    (hports : c.ports = none) (hholders : c.holders = none) :
    Kept c p q (State.runLong s lc w ev f) := by
  dsimp only [State.runLong]
  repeat' first
    | with_reducible intro _ | with_reducible assumption | with_reducible apply hf
    | with_reducible apply Kept.microEvent | with_reducible apply Kept.runMem | with_reducible apply Kept.cond
    | with_reducible refine Kept.fst ‹_ = (_, _)› ?_ | split

theorem Kept.streamStores {lc} {ls} (h : Kept c p q s) :
    Kept c p q (State.streamStores s lc ls) := by
  dsimp only [State.streamStores]
  repeat' first | with_reducible assumption | split | with_reducible apply Kept.other

theorem Kept.mvlEffect {lc} {d} {a} {b} {l} (h : Kept c p q s) (hkeeper : c.keeper = none)
    (hloader : c.loader = none) (htb : c.tb = none) (hmgmt : c.mgmt = none) (hmem : c.mem = none)
    (hlcs : c.lcs = none) (hqueues : c.queues = none) (hscs : c.scs = none) (hports : c.ports = none)
    (hholders : c.holders = none) (hctxs : c.ctxs = none) :
    Res.All c p q (fun x => Kept c p q x.1) (State.mvlEffect s lc d a b l) := by
  dsimp only [State.mvlEffect]
  repeat' first
    | with_reducible intro _ | with_reducible assumption | with_reducible apply Kept.modLc
    | with_reducible apply Kept.rangeAddr | with_reducible apply Kept.setLc | with_reducible apply Kept.readPieces
    | with_reducible apply Kept.writePieces | with_reducible apply Kept.streamStores
    | with_reducible apply Res.All.cond | with_reducible exact Res.All.exc | with_reducible apply Res.All.ok
    | with_reducible apply Res.All.tag | with_reducible apply Res.All.map | with_reducible apply Res.All.bind
    | split

theorem Kept.execMvl {lc} {d} {a} {b} {ev} (h : Kept c p q s) (hkeeper : c.keeper = none)
    (hloader : c.loader = none) (htb : c.tb = none) (hmgmt : c.mgmt = none) (hmem : c.mem = none)
    (hlcs : c.lcs = none) (hqueues : c.queues = none) (hscs : c.scs = none) (hports : c.ports = none)
    (hholders : c.holders = none) (hctxs : c.ctxs = none) :
    nextAll (Kept c p q) (execMvl lc d a b ev s) := by
  dsimp only [Machine.execMvl]
  with_reducible repeat' first | apply nextAll.next | intro _ | assumption | apply Kept.runLong | apply Kept.mvlEffect

theorem Kept.drawQuad (h : Kept c p q s) :
    Kept c p q (State.drawQuad s).2 := by
  dsimp only [State.drawQuad]
  with_reducible repeat' first | assumption | apply Kept.draw

theorem Kept.dconvLost {lc} {out} {d} {a} {b} {l} (h : Kept c p q s) (hkeeper : c.keeper = none)
    (hloader : c.loader = none) (htb : c.tb = none) (hmgmt : c.mgmt = none) (hmem : c.mem = none)
    (hlcs : c.lcs = none) (hqueues : c.queues = none) (hscs : c.scs = none) (hports : c.ports = none)
    (hholders : c.holders = none) (hctxs : c.ctxs = none) :
    Res.All c p q (fun x => Kept c p q x.1) (State.dconvLost s lc out d a b l) := by
  dsimp only [State.dconvLost]
  with_reducible repeat' first
    | intro _ | assumption | apply Kept.drawQuad | apply Kept.modLc | apply Kept.rangeAddr | apply Kept.drawBytes
    | apply Kept.setLc | apply Kept.writePieces | apply Res.All.cond | apply Res.All.ok | apply Res.All.tag
    | apply Res.All.map | apply Res.All.bind

theorem Kept.engineOp {lc} {cph} {d} {a} {l} (h : Kept c p q s) (hmem : c.mem = none) (hlcs : c.lcs = none)
    (hqueues : c.queues = none) (hports : c.ports = none) (hholders : c.holders = none) (hctxs : c.ctxs = none) :
    Res.All c p q (fun x => Kept c p q x.1) (State.engineOp s lc cph d a l) := by
  dsimp only [State.engineOp]
  with_reducible repeat' first
    | intro _ | assumption | apply Kept.check | apply Kept.rangeAddr | apply Kept.setLc | apply Kept.readAt
    | apply Kept.modLc | apply Kept.synced | apply Kept.modAslot | apply Res.All.cond | exact Res.All.exc
    | exact Res.All.wait | apply Res.All.ok | apply Res.All.tag | apply Res.All.map | apply Res.All.bind

theorem Kept.progWrite {lc} {w} {ops} {iter} {bs} (h : Kept c p q s) (hlcs : c.lcs = none) :
    Kept c p q (State.progWrite s lc w ops iter bs) := by
  dsimp only [State.progWrite]
  with_reducible repeat' first | assumption | apply Kept.modLc | apply Kept.other

theorem Kept.fdiv128 {lc} {w} {d} {a} {b} {rm} {l} (h : Kept c p q s) (hlcs : c.lcs = none) :
    Res.All c p q (fun x => Kept c p q x.1) (State.fdiv128 s lc w d a b rm l) := by
  dsimp only [State.fdiv128]
  repeat' first
    | with_reducible intro _ | with_reducible assumption | with_reducible apply Kept.LCore_roundFor
    | with_reducible apply Kept.modLc | with_reducible apply Kept.progWrite | with_reducible apply Kept.drawQuad
    | with_reducible apply Res.All.map | split

theorem Kept.execFdiv {lc} {fmt} {d} {a} {b} {rm} {ev} (h : Kept c p q s) (hkeeper : c.keeper = none)
    (hloader : c.loader = none) (hmem : c.mem = none) (hlcs : c.lcs = none) (hscs : c.scs = none)
    (hports : c.ports = none) (hholders : c.holders = none) :
    nextAll (Kept c p q) (execFdiv lc fmt d a b rm ev s) := by
  dsimp only [Machine.execFdiv]
  repeat' first
    | with_reducible apply nextAll.next | with_reducible intro _ | with_reducible assumption
    | with_reducible apply Kept.runLong | with_reducible apply Kept.fdiv128 | with_reducible apply Kept.fpArith
    | split

theorem Kept.dconvOut {lc} {w} {d} {b} {l} {str} {fl} {done} (h : Kept c p q s) (hkeeper : c.keeper = none)
    (hloader : c.loader = none) (htb : c.tb = none) (hmgmt : c.mgmt = none) (hmem : c.mem = none)
    (hlcs : c.lcs = none) (hqueues : c.queues = none) (hscs : c.scs = none) (hports : c.ports = none)
    (hholders : c.holders = none) (hctxs : c.ctxs = none) :
    Res.All c p q (fun x => Kept c p q x.1) (State.dconvOut s lc w d b l str fl done) := by
  dsimp only [State.dconvOut]
  repeat' first
    | with_reducible intro _ | with_reducible assumption | with_reducible apply Kept.modLc
    | with_reducible apply Kept.rangeAddr | with_reducible apply Kept.writePieces | with_reducible apply Kept.setLc
    | with_reducible apply Kept.progWrite | with_reducible apply Res.All.cond | with_reducible apply Res.All.ok
    | with_reducible apply Res.All.tag | with_reducible apply Res.All.map | with_reducible apply Res.All.bind
    | split

theorem Kept.dconvIn {lc} {w} {wide} {d} {a} {b} {l} {old} {iter} (h : Kept c p q s) (hmem : c.mem = none)
    (hlcs : c.lcs = none) (hqueues : c.queues = none) (hports : c.ports = none) (hholders : c.holders = none)
    (hctxs : c.ctxs = none) :
    Res.All c p q (fun x => Kept c p q x.1) (State.dconvIn s lc w wide d a b l old iter) := by
  dsimp only [State.dconvIn]
  with_reducible repeat' first
    | intro _ | assumption | apply Kept.LCore_roundFor | apply Kept.modLc | apply Kept.rangeAddr
    | apply Kept.readPieces | apply Kept.setLc | apply Kept.progWrite | apply Res.All.cond | apply Res.All.ok
    | apply Res.All.tag | apply Res.All.map | apply Res.All.bind

theorem Kept.dconvEffect {lc} {w} {d} {a} {b} {dir} {l} (h : Kept c p q s) (hkeeper : c.keeper = none)
    (hloader : c.loader = none) (htb : c.tb = none) (hmgmt : c.mgmt = none) (hmem : c.mem = none)
    (hlcs : c.lcs = none) (hqueues : c.queues = none) (hscs : c.scs = none) (hports : c.ports = none)
    (hholders : c.holders = none) (hctxs : c.ctxs = none) :
    Res.All c p q (fun x => Kept c p q x.1) (State.dconvEffect s lc w d a b dir l) := by
  dsimp only [State.dconvEffect]
  repeat' first
    | with_reducible assumption | with_reducible apply Kept.dconvOut | with_reducible apply Kept.dconvIn
    | with_reducible apply Kept.dconvLost | with_reducible apply Res.All.cond | split

theorem Kept.execCiph {lc} {d} {a} (h : Kept c p q s) (hkeeper : c.keeper = none) (hloader : c.loader = none)
    (hmem : c.mem = none) (hlcs : c.lcs = none) (hqueues : c.queues = none) (hscs : c.scs = none)
    (hports : c.ports = none) (hholders : c.holders = none) (hctxs : c.ctxs = none) :
    nextAll (Kept c p q) (execCiph lc d a s) := by
  dsimp only [Machine.execCiph]
  with_reducible repeat' first | apply nextAll.next | intro _ | assumption | apply Kept.runMem | apply Kept.engineOp

theorem Kept.execCmpx {lc} {d} {a} (h : Kept c p q s) (hkeeper : c.keeper = none) (hloader : c.loader = none)
    (hmem : c.mem = none) (hlcs : c.lcs = none) (hqueues : c.queues = none) (hscs : c.scs = none)
    (hports : c.ports = none) (hholders : c.holders = none) (hctxs : c.ctxs = none) :
    nextAll (Kept c p q) (execCmpx lc d a s) := by
  dsimp only [Machine.execCmpx]
  with_reducible repeat' first | apply nextAll.next | intro _ | assumption | apply Kept.runMem | apply Kept.engineOp

theorem Kept.execDconv {lc} {d} {a} {b} {dir} {ev} (h : Kept c p q s) (hkeeper : c.keeper = none)
    (hloader : c.loader = none) (htb : c.tb = none) (hmgmt : c.mgmt = none) (hmem : c.mem = none)
    (hlcs : c.lcs = none) (hqueues : c.queues = none) (hscs : c.scs = none) (hports : c.ports = none)
    (hholders : c.holders = none) (hctxs : c.ctxs = none) :
    nextAll (Kept c p q) (execDconv lc d a b dir ev s) := by
  dsimp only [Machine.execDconv]
  with_reducible repeat' first
    | apply nextAll.next | intro _ | assumption | apply Kept.runLong | apply Kept.dconvEffect

end Sys2Proof.Machine
end

