-- ==== Sys2Proof/Laws/KeptMgmt.lean ====
section
/-! SUPPORT. What an operation of the management controller and the debug port keeps (Laws/Kept.lean):
one lemma for each operation. -/

namespace Sys2Proof.Machine

variable {c : Track} {p : List Instr} {q : Fuses} {s : State}

theorem Kept.unlockExpiry (h : Kept c p q s) (hkeeper : c.keeper = none) (hloader : c.loader = none)
    (hlcs : c.lcs = none) (hscs : c.scs = none) :
    Kept c p q (State.unlockExpiry s) := by
  dsimp only [State.unlockExpiry]
  with_reducible repeat' first | assumption | apply Kept.settleMode | apply Kept.debugEnd | apply Kept.cond

theorem Kept.failover (h : Kept c p q s) (hmgmt : c.mgmt = none) :
    Kept c p q (State.failover s) := by
  dsimp only [State.failover]
  repeat' first
    | with_reducible assumption | with_reducible apply Kept.bump | with_reducible apply Kept.cond | split
    | with_reducible apply Kept.at_mgmt

theorem Kept.execMgtPortFailover (h : Kept c p q s) (hmgmt : c.mgmt = none) :
    nextAll (Kept c p q) (execMgtPortFailover s) := by
  dsimp only [Machine.execMgtPortFailover]
  with_reducible repeat' first | apply nextAll.next | assumption | apply Kept.failover

theorem Kept.emit {o} (h : Kept c p q s) (hmgmt : c.mgmt = none) :
    Kept c p q (State.emit s o) := by
  dsimp only [State.emit]
  with_reducible repeat' first | assumption | apply Kept.at_mgmt

theorem Kept.modSess {id} {f} (h : Kept c p q s) (hmgmt : c.mgmt = none) :
    Kept c p q (State.modSess s id f) := by
  dsimp only [State.modSess]
  with_reducible repeat' first | assumption | apply Kept.at_mgmt

theorem Kept.resend {id} {r} (h : Kept c p q s) (hmgmt : c.mgmt = none) :
    Kept c p q (State.resend s id r) := by
  dsimp only [State.resend]
  with_reducible repeat' first | assumption | apply Kept.emit | apply Kept.modSess

theorem Kept.answer {id} {reqId} {result} {data} (h : Kept c p q s) (hmgmt : c.mgmt = none) :
    Kept c p q (State.answer s id reqId result data) := by
  dsimp only [State.answer]
  repeat' first
    | with_reducible assumption | with_reducible apply Kept.emit | with_reducible apply Kept.modSess | split

theorem Kept.serve {h'} {op} {allowed} {k : State → Sess → State × Byte × List Byte} (h : Kept c p q s)
    (hk : ∀ y0 y1, Kept c p q y0 → Kept c p q (k y0 y1).1) (hmgmt : c.mgmt = none) :
    Kept c p q (State.serve s h' op allowed k) := by
  dsimp only [State.serve]
  repeat' first
    | with_reducible assumption | with_reducible apply hk | with_reducible apply Kept.resend
    | with_reducible apply Kept.answer | with_reducible apply Kept.cond | split | with_reducible apply Kept.at_mgmt

theorem Kept.opCsWrite {h'} {addr} {value} (h : Kept c p q s) (hkeeper : c.keeper = none)
    (hloader : c.loader = none) (htb : c.tb = none) (hmgmt : c.mgmt = none) (hmem : c.mem = none)
    (hlcs : c.lcs = none) (hqueues : c.queues = none) (hscs : c.scs = none) (hports : c.ports = none)
    (hholders : c.holders = none) (hctxs : c.ctxs = none) :
    Kept c p q (State.opCsWrite s h' addr value) := by
  dsimp only [State.opCsWrite]
  repeat' first
    | with_reducible intro _ | with_reducible assumption | with_reducible apply Kept.serve
    | with_reducible apply Kept.csWrite | with_reducible apply Kept.respond | split

theorem Kept.opLogRead {h'} {first} {count} (h : Kept c p q s) (hmgmt : c.mgmt = none) :
    Kept c p q (State.opLogRead s h' first count) := by
  dsimp only [State.opLogRead]
  with_reducible repeat' first | intro _ | assumption | apply Kept.serve

theorem Kept.execLogRead {h'} {first} {count} (h : Kept c p q s) (hmgmt : c.mgmt = none) :
    nextAll (Kept c p q) (execLogRead h' first count s) := by
  dsimp only [Machine.execLogRead]
  with_reducible repeat' first | apply nextAll.next | assumption | apply Kept.opLogRead

theorem Kept.opImgCmd {h'} {value} (h : Kept c p q s) (hkeeper : c.keeper = none) (hloader : c.loader = none)
    (hmgmt : c.mgmt = none) (hmem : c.mem = none) (hlcs : c.lcs = none) (hqueues : c.queues = none)
    (hscs : c.scs = none) (hports : c.ports = none) (hholders : c.holders = none) (hctxs : c.ctxs = none) :
    Kept c p q (State.opImgCmd s h' value) := by
  dsimp only [State.opImgCmd]
  with_reducible repeat' first | intro _ | assumption | apply Kept.serve | apply Kept.imgCtlW

theorem Kept.execImgCmd {h'} {value} (h : Kept c p q s) (hkeeper : c.keeper = none) (hloader : c.loader = none)
    (hmgmt : c.mgmt = none) (hmem : c.mem = none) (hlcs : c.lcs = none) (hqueues : c.queues = none)
    (hscs : c.scs = none) (hports : c.ports = none) (hholders : c.holders = none) (hctxs : c.ctxs = none) :
    nextAll (Kept c p q) (execImgCmd h' value s) := by
  dsimp only [Machine.execImgCmd]
  with_reducible repeat' first | apply nextAll.next | assumption | apply Kept.opImgCmd

theorem Kept.revokeSlot {k} (h : Kept c p q s) :
    Kept c p q (State.revokeSlot s k).1 := by
  have hf : s.fuses.kept { s.fuses with revoked := bvPut s.fuses.revoked k.val true } := by
    refine ⟨Fin.le_refl _, id, BitVec.and_self, ?_, fun _ _ => rfl⟩
    ext i hi
    simp [bvPut]
    exact Or.inl
  dsimp only [State.revokeSlot]
  split
  · split
    · exact Kept.blow h hf
    · exact h
  · exact Kept.blow h hf

theorem Kept.opStatus {h'} (h : Kept c p q s) (hmgmt : c.mgmt = none) :
    Kept c p q (State.opStatus s h') := by
  dsimp only [State.opStatus]
  with_reducible repeat' first | intro _ | assumption | apply Kept.serve

theorem Kept.execStatus {h'} (h : Kept c p q s) (hmgmt : c.mgmt = none) :
    nextAll (Kept c p q) (execStatus h' s) := by
  dsimp only [Machine.execStatus]
  with_reducible repeat' first | apply nextAll.next | assumption | apply Kept.opStatus

theorem Kept.opModeCmd {h'} {value} (h : Kept c p q s) (hkeeper : c.keeper = none) (hloader : c.loader = none)
    (hmgmt : c.mgmt = none) (hmem : c.mem = none) (hlcs : c.lcs = none) (hqueues : c.queues = none)
    (hscs : c.scs = none) (hports : c.ports = none) (hholders : c.holders = none) (hctxs : c.ctxs = none) :
    Kept c p q (State.opModeCmd s h' value) := by
  dsimp only [State.opModeCmd]
  with_reducible repeat' first | intro _ | assumption | apply Kept.serve | apply Kept.settleMode | apply Kept.ksCmdW

theorem Kept.opCerts {h'} (h : Kept c p q s) (hmgmt : c.mgmt = none) :
    Kept c p q (State.opCerts s h') := by
  dsimp only [State.opCerts]
  with_reducible repeat' first | intro _ | assumption | apply Kept.serve

theorem Kept.opFlashRead {h'} {a} {n} (h : Kept c p q s) (hmgmt : c.mgmt = none) :
    Kept c p q (State.opFlashRead s h' a n) := by
  dsimp only [State.opFlashRead]
  repeat' first | with_reducible intro _ | with_reducible assumption | with_reducible apply Kept.serve | split

theorem Kept.rescope {scope} (h : Kept c p q s) (hlcs : c.lcs = none) :
    Kept c p q (State.rescope s scope) := by
  dsimp only [State.rescope]
  with_reducible repeat' first
    | intro _ | assumption | apply Kept.debugResume | apply Kept.modLc | apply Kept.foldl | apply Kept.cond

theorem Kept.opUnlock {h'} {scope} {seconds} (h : Kept c p q s) (hkeeper : c.keeper = none)
    (hloader : c.loader = none) (hmgmt : c.mgmt = none) (hlcs : c.lcs = none) (hscs : c.scs = none) :
    Kept c p q (State.opUnlock s h' scope seconds) := by
  dsimp only [State.opUnlock]
  repeat' first
    | with_reducible intro _ | with_reducible assumption | with_reducible apply Kept.serve
    | with_reducible apply Kept.setFld | with_reducible apply Kept.settleMode | with_reducible apply Kept.rescope
    | split | with_reducible apply Kept.at_mgmt

theorem Kept.finish {id} {signature} (h : Kept c p q s) (hloader : c.loader = none) (hmgmt : c.mgmt = none) :
    Kept c p q (State.finish s id signature) := by
  dsimp only [State.finish]
  repeat' first
    | with_reducible assumption | with_reducible apply Kept.modSess | with_reducible apply Kept.closeSession
    | with_reducible apply Kept.cond | split

theorem Kept.execFinish {session} {signature} (h : Kept c p q s) (hloader : c.loader = none) (hmgmt : c.mgmt = none) :
    nextAll (Kept c p q) (execFinish session signature s) := by
  dsimp only [Machine.execFinish]
  with_reducible repeat' first | apply nextAll.next | assumption | apply Kept.finish

theorem Kept.routerAdv {n} {pfx} (h : Kept c p q s) (hmgmt : c.mgmt = none) :
    Kept c p q (State.routerAdv s n pfx) := by
  dsimp only [State.routerAdv]
  with_reducible repeat' first | assumption | apply Kept.cond | apply Kept.at_mgmt

theorem Kept.openDelivery {id} {bs} (h : Kept c p q s) (hloader : c.loader = none) :
    Kept c p q (State.openDelivery s id bs) := by
  dsimp only [State.openDelivery]
  with_reducible repeat' first | assumption | apply Kept.setPend | apply Kept.at_loader

theorem Kept.opImagePut {h'} {offset} {bs} (h : Kept c p q s) (hloader : c.loader = none) (hmgmt : c.mgmt = none) :
    Kept c p q (State.opImagePut s h' offset bs) := by
  dsimp only [State.opImagePut]
  repeat' first
    | with_reducible intro _ | with_reducible assumption | with_reducible apply Kept.serve
    | with_reducible apply Kept.openDelivery | with_reducible apply Kept.dropDelivery | split
    | with_reducible apply Kept.at_loader | dsimp only

theorem Kept.opGraveClear {h'} (h : Kept c p q s) (hkeeper : c.keeper = none) (hloader : c.loader = none)
    (hmgmt : c.mgmt = none) (hlcs : c.lcs = none) (hscs : c.scs = none) :
    Kept c p q (State.opGraveClear s h') := by
  dsimp only [State.opGraveClear]
  with_reducible repeat' first
    | intro _ | assumption | apply Kept.serve | apply Kept.settleMode | apply Kept.fcClear | apply Kept.foldl

theorem Kept.execGraveClear {h'} (h : Kept c p q s) (hkeeper : c.keeper = none) (hloader : c.loader = none)
    (hmgmt : c.mgmt = none) (hlcs : c.lcs = none) (hscs : c.scs = none) :
    nextAll (Kept c p q) (execGraveClear h' s) := by
  dsimp only [Machine.execGraveClear]
  with_reducible repeat' first | apply nextAll.next | assumption | apply Kept.opGraveClear

theorem Kept.deliveredBytes {d} (h : Kept c p q s) :
    Kept c p q (State.deliveredBytes s d).2 := by
  dsimp only [State.deliveredBytes]
  with_reducible repeat' first | assumption | apply Kept.other

theorem Kept.opImageEnd {h'} {fails} (h : Kept c p q s) (hkeeper : c.keeper = none) (hloader : c.loader = none)
    (hmgmt : c.mgmt = none) (hmem : c.mem = none) (hlcs : c.lcs = none) (hports : c.ports = none)
    (hholders : c.holders = none) :
    Kept c p q (State.opImageEnd s h' fails) := by
  dsimp only [State.opImageEnd]
  repeat' first
    | with_reducible intro _ | with_reducible assumption | with_reducible apply Kept.serve
    | with_reducible apply Kept.deliveredBytes | with_reducible apply Kept.stage | split
    | with_reducible apply Kept.at_loader

theorem Kept.execImageEnd {h'} {bistFail} (h : Kept c p q s) (hkeeper : c.keeper = none)
    (hloader : c.loader = none) (hmgmt : c.mgmt = none) (hmem : c.mem = none) (hlcs : c.lcs = none)
    (hports : c.ports = none) (hholders : c.holders = none) :
    nextAll (Kept c p q) (execImageEnd h' bistFail s) := by
  dsimp only [Machine.execImageEnd]
  with_reducible repeat' first | apply nextAll.next | assumption | apply Kept.opImageEnd

theorem Kept.opAttest {h'} {nonce} (h : Kept c p q s) (hmgmt : c.mgmt = none) :
    Kept c p q (State.opAttest s h' nonce) := by
  dsimp only [State.opAttest]
  with_reducible repeat' first | intro _ | assumption | apply Kept.serve | apply Kept.draw

theorem Kept.execAttest {h'} {nonce} (h : Kept c p q s) (hmgmt : c.mgmt = none) :
    nextAll (Kept c p q) (execAttest h' nonce s) := by
  dsimp only [Machine.execAttest]
  with_reducible repeat' first | apply nextAll.next | assumption | apply Kept.opAttest

theorem Kept.authDrop {x2} (h : Kept c p q s) :
    Kept c p q (State.authDrop s x2) := by
  dsimp only [State.authDrop]
  repeat' first | with_reducible assumption | with_reducible apply Kept.bump | split

theorem Kept.request {via} {id} {seq} {tagOk} {reqId} {op} {args} (h : Kept c p q s) (hmgmt : c.mgmt = none) :
    Kept c p q (State.request s via id seq tagOk reqId op args) := by
  dsimp only [State.request]
  repeat' first
    | with_reducible assumption | with_reducible apply Kept.authDrop | with_reducible apply Kept.modSess
    | with_reducible apply Kept.resend | with_reducible apply Kept.answer | with_reducible apply Kept.cond | split
    | with_reducible apply Kept.at_mgmt

theorem Kept.flashPut {a} {bs} (h : Kept c p q s) (hloader : c.loader = none) :
    Kept c p q (State.flashPut s a bs) := by
  dsimp only [State.flashPut]
  with_reducible repeat' first | assumption | apply Kept.at_loader

theorem Kept.flashErase {a} {n} (h : Kept c p q s) (hloader : c.loader = none) :
    Kept c p q (State.flashErase s a n) := by
  dsimp only [State.flashErase]
  with_reducible repeat' first | assumption | apply Kept.at_loader

theorem Kept.opFlashWrite {h'} {a} {data} (h : Kept c p q s) (hloader : c.loader = none) (hmgmt : c.mgmt = none) :
    Kept c p q (State.opFlashWrite s h' a data) := by
  dsimp only [State.opFlashWrite]
  repeat' first
    | with_reducible intro _ | with_reducible assumption | with_reducible apply Kept.serve
    | with_reducible apply Kept.flashPut | with_reducible apply Kept.flashErase | split

theorem Kept.opCsRead {h'} {addr} (h : Kept c p q s) (hmgmt : c.mgmt = none) (hlcs : c.lcs = none)
    (hqueues : c.queues = none) (hports : c.ports = none) (hctxs : c.ctxs = none) :
    Kept c p q (State.opCsRead s h' addr) := by
  dsimp only [State.opCsRead]
  repeat' first
    | with_reducible intro _ | with_reducible assumption | with_reducible apply Kept.serve
    | with_reducible apply Kept.csRead | with_reducible apply Kept.respond | split

theorem Kept.execRequest {via} {session} {seq} {tagOk} {reqId} {op} {args} (h : Kept c p q s)
    (hmgmt : c.mgmt = none) :
    nextAll (Kept c p q) (execRequest via session seq tagOk reqId op args s) := by
  dsimp only [Machine.execRequest]
  with_reducible repeat' first | apply nextAll.next | assumption | apply Kept.request

theorem Kept.execModeCmd {h'} {value} (h : Kept c p q s) (hkeeper : c.keeper = none) (hloader : c.loader = none)
    (hmgmt : c.mgmt = none) (hmem : c.mem = none) (hlcs : c.lcs = none) (hqueues : c.queues = none)
    (hscs : c.scs = none) (hports : c.ports = none) (hholders : c.holders = none) (hctxs : c.ctxs = none) :
    nextAll (Kept c p q) (execModeCmd h' value s) := by
  dsimp only [Machine.execModeCmd]
  with_reducible repeat' first | apply nextAll.next | assumption | apply Kept.opModeCmd

theorem Kept.execSessionTimeout {session} (h : Kept c p q s) (hloader : c.loader = none) (hmgmt : c.mgmt = none) :
    nextAll (Kept c p q) (execSessionTimeout session s) := by
  dsimp only [Machine.execSessionTimeout]
  with_reducible repeat' first | apply nextAll.next | assumption | apply Kept.closeSession | apply Kept.cond

theorem Kept.ptpEvent {n} {msg} {ingress} {accepted} (h : Kept c p q s) (hmgmt : c.mgmt = none) :
    Kept c p q (State.ptpEvent s n msg ingress accepted) := by
  dsimp only [State.ptpEvent]
  repeat' first
    | with_reducible assumption | with_reducible apply Kept.setReg | with_reducible apply Kept.cond | split
    | with_reducible apply Kept.at_mgmt

theorem Kept.execPtpEventMessage {n} {msg} {ingress} {accepted} (h : Kept c p q s) (hmgmt : c.mgmt = none) :
    nextAll (Kept c p q) (execPtpEventMessage n msg ingress accepted s) := by
  dsimp only [Machine.execPtpEventMessage]
  with_reducible repeat' first | apply nextAll.next | assumption | apply Kept.ptpEvent

theorem Kept.execDebugUnlock {h'} {scope} {seconds} (h : Kept c p q s) (hkeeper : c.keeper = none)
    (hloader : c.loader = none) (hmgmt : c.mgmt = none) (hlcs : c.lcs = none) (hscs : c.scs = none) :
    nextAll (Kept c p q) (execDebugUnlock h' scope seconds s) := by
  dsimp only [Machine.execDebugUnlock]
  with_reducible repeat' first | apply nextAll.next | assumption | apply Kept.opUnlock

theorem Kept.opLock {h'} (h : Kept c p q s) (hkeeper : c.keeper = none) (hloader : c.loader = none)
    (hmgmt : c.mgmt = none) (hlcs : c.lcs = none) (hscs : c.scs = none) :
    Kept c p q (State.opLock s h') := by
  dsimp only [State.opLock]
  with_reducible repeat' first | intro _ | assumption | apply Kept.serve | apply Kept.settleMode | apply Kept.debugEnd

theorem Kept.execDebugLock {h'} (h : Kept c p q s) (hkeeper : c.keeper = none) (hloader : c.loader = none)
    (hmgmt : c.mgmt = none) (hlcs : c.lcs = none) (hscs : c.scs = none) :
    nextAll (Kept c p q) (execDebugLock h' s) := by
  dsimp only [Machine.execDebugLock]
  with_reducible repeat' first | apply nextAll.next | assumption | apply Kept.opLock

theorem Kept.newSession (h : Kept c p q s) :
    Kept c p q (State.newSession s).2 := by
  dsimp only [State.newSession]
  with_reducible repeat' first | assumption | apply Kept.draw

theorem Kept.execDeliveryTimeout (h : Kept c p q s) (hloader : c.loader = none) :
    nextAll (Kept c p q) (execDeliveryTimeout s) := by
  dsimp only [Machine.execDeliveryTimeout]
  with_reducible repeat' first | apply nextAll.next | assumption | apply Kept.dropDelivery

theorem Kept.hello {via} {keyId} {nonce} {kem} (h : Kept c p q s) (hmgmt : c.mgmt = none) :
    Kept c p q (State.hello s via keyId nonce kem) := by
  dsimp only [State.hello]
  repeat' first
    | with_reducible assumption | with_reducible apply Kept.newSession | with_reducible apply Kept.drawBytes
    | with_reducible apply Kept.draw | with_reducible apply Kept.emit | with_reducible apply Kept.cond | split
    | with_reducible apply Kept.at_mgmt

theorem Kept.execRouterAdvertisement {n} {pfx} (h : Kept c p q s) (hmgmt : c.mgmt = none) :
    nextAll (Kept c p q) (execRouterAdvertisement n pfx s) := by
  dsimp only [Machine.execRouterAdvertisement]
  with_reducible repeat' first | apply nextAll.next | assumption | apply Kept.routerAdv

theorem Kept.opKeySlot {h'} {k} {program} (h : Kept c p q s) (hmgmt : c.mgmt = none) :
    Kept c p q (State.opKeySlot s h' k program) := by
  refine Kept.serve h (fun s x h => ?_) hmgmt
  dsimp only
  split
  · exact Kept.revokeSlot h
  · split
    · exact h
    · rename_i d hk
      refine Kept.blow h ⟨Fin.le_refl _, id, BitVec.and_self, BitVec.and_self, fun i hi => ?_⟩
      by_cases e : i = k
      · subst e
        simp [hi] at hk
      · show (s.fuses.slots.set k.val (some d)).get i = _
        rw [Vector.get_eq_getElem, Vector.get_eq_getElem]
        exact Vector.getElem_set_ne _ _ fun hx => e (Fin.ext hx.symm)

theorem Kept.close {id} {seq} (h : Kept c p q s) (hloader : c.loader = none) (hmgmt : c.mgmt = none) :
    Kept c p q (State.close s id seq) := by
  dsimp only [State.close]
  repeat' first
    | with_reducible assumption | with_reducible apply Kept.authDrop | with_reducible apply Kept.closeSession
    | with_reducible apply Kept.cond | split

theorem Kept.execClose {session} {seq} (h : Kept c p q s) (hloader : c.loader = none) (hmgmt : c.mgmt = none) :
    nextAll (Kept c p q) (execClose session seq s) := by
  dsimp only [Machine.execClose]
  with_reducible repeat' first | apply nextAll.next | assumption | apply Kept.close

theorem Kept.execHello {via} {keyId} {nonce} {kemKey} (h : Kept c p q s) (hmgmt : c.mgmt = none) :
    nextAll (Kept c p q) (execHello via keyId nonce kemKey s) := by
  dsimp only [Machine.execHello]
  with_reducible repeat' first | apply nextAll.next | assumption | apply Kept.hello

theorem Kept.mctpAnswer {cmd} {operand} (h : Kept c p q s) (hmgmt : c.mgmt = none) :
    Kept c p q (State.mctpAnswer s cmd operand) := by
  dsimp only [State.mctpAnswer]
  with_reducible repeat' first | assumption | apply Kept.emit | apply Kept.cond

theorem Kept.execGetMessageTypeSupport (h : Kept c p q s) (hmgmt : c.mgmt = none) :
    nextAll (Kept c p q) (execGetMessageTypeSupport s) := by
  dsimp only [Machine.execGetMessageTypeSupport]
  with_reducible repeat' first | apply nextAll.next | assumption | apply Kept.mctpAnswer

theorem Kept.opFlashUpdate {h'} {readBackOk} (h : Kept c p q s) (hkeeper : c.keeper = none)
    (hloader : c.loader = none) (hmgmt : c.mgmt = none) :
    Kept c p q (State.opFlashUpdate s h' readBackOk) := by
  dsimp only [State.opFlashUpdate]
  repeat' first
    | with_reducible intro _ | with_reducible assumption | with_reducible apply Kept.serve
    | with_reducible apply Kept.flashErase | with_reducible apply Kept.flashPut | split
    | with_reducible apply Kept.at_keeper | dsimp only

theorem Kept.execFlashUpdate {h'} {readBackOk} (h : Kept c p q s) (hkeeper : c.keeper = none)
    (hloader : c.loader = none) (hmgmt : c.mgmt = none) :
    nextAll (Kept c p q) (execFlashUpdate h' readBackOk s) := by
  dsimp only [Machine.execFlashUpdate]
  with_reducible repeat' first | apply nextAll.next | assumption | apply Kept.opFlashUpdate

theorem Kept.execCerts {h'} (h : Kept c p q s) (hmgmt : c.mgmt = none) :
    nextAll (Kept c p q) (execCerts h' s) := by
  dsimp only [Machine.execCerts]
  with_reducible repeat' first | apply nextAll.next | assumption | apply Kept.opCerts

theorem Kept.macUp {n} (h : Kept c p q s) (hmgmt : c.mgmt = none) :
    Kept c p q (State.macUp s n) := by
  dsimp only [State.macUp]
  repeat' first
    | with_reducible assumption | with_reducible apply Kept.cond | split | with_reducible apply Kept.at_mgmt

theorem Kept.execCsWrite {h'} {addr} {value} (h : Kept c p q s) (hkeeper : c.keeper = none)
    (hloader : c.loader = none) (htb : c.tb = none) (hmgmt : c.mgmt = none) (hmem : c.mem = none)
    (hlcs : c.lcs = none) (hqueues : c.queues = none) (hscs : c.scs = none) (hports : c.ports = none)
    (hholders : c.holders = none) (hctxs : c.ctxs = none) :
    nextAll (Kept c p q) (execCsWrite h' addr value s) := by
  dsimp only [Machine.execCsWrite]
  with_reducible repeat' first | apply nextAll.next | assumption | apply Kept.opCsWrite

theorem Kept.execGetEndpointId (h : Kept c p q s) (hmgmt : c.mgmt = none) :
    nextAll (Kept c p q) (execGetEndpointId s) := by
  dsimp only [Machine.execGetEndpointId]
  with_reducible repeat' first | apply nextAll.next | assumption | apply Kept.mctpAnswer

theorem Kept.execSetEndpointId {eid} (h : Kept c p q s) (hmgmt : c.mgmt = none) :
    nextAll (Kept c p q) (execSetEndpointId eid s) := by
  dsimp only [Machine.execSetEndpointId]
  with_reducible repeat' first
    | apply nextAll.next | assumption | apply Kept.mctpAnswer | apply Kept.cond | apply Kept.at_mgmt

theorem Kept.execKeySlot {h'} {slot} {program} (h : Kept c p q s) (hmgmt : c.mgmt = none) :
    nextAll (Kept c p q) (execKeySlot h' slot program s) := by
  dsimp only [Machine.execKeySlot]
  with_reducible repeat' first | apply nextAll.next | assumption | apply Kept.opKeySlot

theorem Kept.execCsRead {h'} {addr} (h : Kept c p q s) (hmgmt : c.mgmt = none) (hlcs : c.lcs = none)
    (hqueues : c.queues = none) (hports : c.ports = none) (hctxs : c.ctxs = none) :
    nextAll (Kept c p q) (execCsRead h' addr s) := by
  dsimp only [Machine.execCsRead]
  with_reducible repeat' first | apply nextAll.next | assumption | apply Kept.opCsRead

theorem Kept.execFlashWrite {h'} {addr} {data} (h : Kept c p q s) (hloader : c.loader = none)
    (hmgmt : c.mgmt = none) :
    nextAll (Kept c p q) (execFlashWrite h' addr data s) := by
  dsimp only [Machine.execFlashWrite]
  with_reducible repeat' first | apply nextAll.next | assumption | apply Kept.opFlashWrite

theorem Kept.execFlashRead {h'} {addr} {len} (h : Kept c p q s) (hmgmt : c.mgmt = none) :
    nextAll (Kept c p q) (execFlashRead h' addr len s) := by
  dsimp only [Machine.execFlashRead]
  with_reducible repeat' first | apply nextAll.next | assumption | apply Kept.opFlashRead

theorem Kept.execMgtLinkUp {n} (h : Kept c p q s) (hmgmt : c.mgmt = none) :
    nextAll (Kept c p q) (execMgtLinkUp n s) := by
  dsimp only [Machine.execMgtLinkUp]
  with_reducible repeat' first | apply nextAll.next | assumption | apply Kept.macUp

theorem Kept.execDebugUnlockExpiry (h : Kept c p q s) (hkeeper : c.keeper = none) (hloader : c.loader = none)
    (hlcs : c.lcs = none) (hscs : c.scs = none) :
    nextAll (Kept c p q) (execDebugUnlockExpiry s) := by
  dsimp only [Machine.execDebugUnlockExpiry]
  with_reducible repeat' first | apply nextAll.next | assumption | apply Kept.unlockExpiry

theorem Kept.execImagePut {h'} {offset} {data} (h : Kept c p q s) (hloader : c.loader = none)
    (hmgmt : c.mgmt = none) :
    nextAll (Kept c p q) (execImagePut h' offset data s) := by
  dsimp only [Machine.execImagePut]
  with_reducible repeat' first | apply nextAll.next | assumption | apply Kept.opImagePut

theorem Kept.execGetMctpVersionSupport {msgType} (h : Kept c p q s) (hmgmt : c.mgmt = none) :
    nextAll (Kept c p q) (execGetMctpVersionSupport msgType s) := by
  dsimp only [Machine.execGetMctpVersionSupport]
  with_reducible repeat' first | apply nextAll.next | assumption | apply Kept.mctpAnswer

theorem Kept.tapWrite {lc} {a} {bs} (h : Kept c p q s) (hkeeper : c.keeper = none) (hloader : c.loader = none)
    (htb : c.tb = none) (hmgmt : c.mgmt = none) (hmem : c.mem = none) (hlcs : c.lcs = none)
    (hqueues : c.queues = none) (hscs : c.scs = none) (hports : c.ports = none) (hholders : c.holders = none)
    (hctxs : c.ctxs = none) :
    Kept c p q (State.tapWrite s lc a bs) := by
  dsimp only [State.tapWrite]
  repeat' first
    | with_reducible assumption | with_reducible apply Kept.csWrite | with_reducible apply Kept.writeAt
    | with_reducible refine Kept.ofResL ‹_ = Res.ok _› ?_ | split

theorem Kept.tapLoad {i} (h : Kept c p q s) (hmgmt : c.mgmt = none) :
    Kept c p q (State.tapLoad s i) := by
  dsimp only [State.tapLoad]
  with_reducible repeat' first | assumption | apply Kept.cond | apply Kept.at_mgmt

theorem Kept.execBypass (h : Kept c p q s) (hmgmt : c.mgmt = none) :
    nextAll (Kept c p q) (execBypass s) := by
  dsimp only [Machine.execBypass]
  with_reducible repeat' first | apply nextAll.next | assumption | apply Kept.tapLoad

theorem Kept.tapDebug {lc} {k : State → State} (h : Kept c p q s) (hk : ∀ y0, Kept c p q y0 → Kept c p q (k y0))
    (hmgmt : c.mgmt = none) :
    Kept c p q (State.tapDebug s lc k) := by
  dsimp only [State.tapDebug]
  with_reducible repeat' first | assumption | apply hk | apply Kept.tapLoad | apply Kept.cond

theorem Kept.tapBreak {lc} {offset} {set} (h : Kept c p q s) (hmgmt : c.mgmt = none) (hlcs : c.lcs = none) :
    Kept c p q (State.tapBreak s lc offset set) := by
  dsimp only [State.tapBreak]
  with_reducible repeat' first | intro _ | assumption | apply Kept.tapDebug | apply Kept.modLc

theorem Kept.tapResume {lc} (h : Kept c p q s) (hkeeper : c.keeper = none) (hloader : c.loader = none)
    (hmgmt : c.mgmt = none) (hlcs : c.lcs = none) (hscs : c.scs = none) :
    Kept c p q (State.tapResume s lc) := by
  dsimp only [State.tapResume]
  with_reducible repeat' first
    | intro _ | assumption | apply Kept.settleMode | apply Kept.tapDebug | apply Kept.debugResume

theorem Kept.execTapResume {lc} (h : Kept c p q s) (hkeeper : c.keeper = none) (hloader : c.loader = none)
    (hmgmt : c.mgmt = none) (hlcs : c.lcs = none) (hscs : c.scs = none) :
    nextAll (Kept c p q) (execTapResume lc s) := by
  dsimp only [Machine.execTapResume]
  with_reducible repeat' first | apply nextAll.next | assumption | apply Kept.tapResume

theorem Kept.tapSample {preload} (h : Kept c p q s) (hmgmt : c.mgmt = none) :
    Kept c p q (State.tapSample s preload) := by
  dsimp only [State.tapSample]
  repeat' first
    | with_reducible assumption | with_reducible apply Kept.tapLoad | with_reducible apply Kept.drawBytes
    | with_reducible apply Kept.cond | split | with_reducible apply Kept.at_mgmt

theorem Kept.execSamplePreload {preload} (h : Kept c p q s) (hmgmt : c.mgmt = none) :
    nextAll (Kept c p q) (execSamplePreload preload s) := by
  dsimp only [Machine.execSamplePreload]
  with_reducible repeat' first | apply nextAll.next | assumption | apply Kept.tapSample

theorem Kept.tapHalted {lc} {k : State → State} (h : Kept c p q s) (hk : ∀ y0, Kept c p q y0 → Kept c p q (k y0))
    (hmgmt : c.mgmt = none) :
    Kept c p q (State.tapHalted s lc k) := by
  dsimp only [State.tapHalted]
  with_reducible repeat' first | intro _ | assumption | apply hk | apply Kept.tapDebug | apply Kept.cond

theorem Kept.setDr {v} (h : Kept c p q s) (hmgmt : c.mgmt = none) :
    Kept c p q (State.setDr s v) := by
  dsimp only [State.setDr]
  with_reducible repeat' first | assumption | apply Kept.at_mgmt

theorem Kept.tapRead {lc} {a} {n} (h : Kept c p q s) (hmgmt : c.mgmt = none) (hmem : c.mem = none)
    (hlcs : c.lcs = none) (hqueues : c.queues = none) (hports : c.ports = none) (hholders : c.holders = none)
    (hctxs : c.ctxs = none) :
    Kept c p q (State.tapRead s lc a n) := by
  dsimp only [State.tapRead]
  repeat' first
    | with_reducible assumption | with_reducible apply Kept.readAt | with_reducible apply Kept.setDr
    | with_reducible refine Kept.ofResR ‹_ = Res.ok _› ?_ | split

theorem Kept.tapMem {lc} {addr} {n} {write} (h : Kept c p q s) (hkeeper : c.keeper = none)
    (hloader : c.loader = none) (htb : c.tb = none) (hmgmt : c.mgmt = none) (hmem : c.mem = none)
    (hlcs : c.lcs = none) (hqueues : c.queues = none) (hscs : c.scs = none) (hports : c.ports = none)
    (hholders : c.holders = none) (hctxs : c.ctxs = none) :
    Kept c p q (State.tapMem s lc addr n write) := by
  dsimp only [State.tapMem]
  repeat' first
    | with_reducible intro _ | with_reducible assumption | with_reducible apply Kept.tapHalted
    | with_reducible apply Kept.freezeMaster | with_reducible apply Kept.tapWrite
    | with_reducible apply Kept.tapRead | with_reducible apply Kept.cond | split

theorem Kept.execTapMemoryAccess {lc} {addr} {size} {write} (h : Kept c p q s) (hkeeper : c.keeper = none)
    (hloader : c.loader = none) (htb : c.tb = none) (hmgmt : c.mgmt = none) (hmem : c.mem = none)
    (hlcs : c.lcs = none) (hqueues : c.queues = none) (hscs : c.scs = none) (hports : c.ports = none)
    (hholders : c.holders = none) (hctxs : c.ctxs = none) :
    nextAll (Kept c p q) (execTapMemoryAccess lc addr size write s) := by
  dsimp only [Machine.execTapMemoryAccess]
  with_reducible repeat' first | apply nextAll.next | assumption | apply Kept.tapMem

theorem Kept.execClamp (h : Kept c p q s) (hmgmt : c.mgmt = none) :
    nextAll (Kept c p q) (execClamp s) := by
  dsimp only [Machine.execClamp]
  with_reducible repeat' first | apply nextAll.next | assumption | apply Kept.tapLoad

theorem Kept.tapHalt {lc} (h : Kept c p q s) (hmgmt : c.mgmt = none) (hlcs : c.lcs = none) :
    Kept c p q (State.tapHalt s lc) := by
  dsimp only [State.tapHalt]
  with_reducible repeat' first | intro _ | assumption | apply Kept.tapDebug | apply Kept.requestHalt | apply Kept.cond

theorem Kept.execTapHalt {lc} (h : Kept c p q s) (hmgmt : c.mgmt = none) (hlcs : c.lcs = none) :
    nextAll (Kept c p q) (execTapHalt lc s) := by
  dsimp only [Machine.execTapHalt]
  with_reducible repeat' first | apply nextAll.next | assumption | apply Kept.tapHalt

theorem Kept.execHighz (h : Kept c p q s) (hmgmt : c.mgmt = none) :
    nextAll (Kept c p q) (execHighz s) := by
  dsimp only [Machine.execHighz]
  with_reducible repeat' first | apply nextAll.next | assumption | apply Kept.tapLoad

theorem Kept.execTapBreakpoint {lc} {offset} {set} (h : Kept c p q s) (hmgmt : c.mgmt = none) (hlcs : c.lcs = none) :
    nextAll (Kept c p q) (execTapBreakpoint lc offset set s) := by
  dsimp only [Machine.execTapBreakpoint]
  with_reducible repeat' first | apply nextAll.next | assumption | apply Kept.tapBreak

theorem Kept.execIdcode (h : Kept c p q s) (hmgmt : c.mgmt = none) :
    nextAll (Kept c p q) (execIdcode s) := by
  dsimp only [Machine.execIdcode]
  with_reducible repeat' first | apply nextAll.next | assumption | apply Kept.tapLoad

theorem Kept.tapReg {lc} {r} {write} (h : Kept c p q s) (hmgmt : c.mgmt = none) (hlcs : c.lcs = none) :
    Kept c p q (State.tapReg s lc r write) := by
  dsimp only [State.tapReg]
  repeat' first
    | with_reducible intro _ | with_reducible assumption | with_reducible apply Kept.tapHalted
    | with_reducible apply Kept.modLc | with_reducible apply Kept.setDr | split

theorem Kept.execTapRegisterAccess {lc} {r} {write} (h : Kept c p q s) (hmgmt : c.mgmt = none) (hlcs : c.lcs = none) :
    nextAll (Kept c p q) (execTapRegisterAccess lc r write s) := by
  dsimp only [Machine.execTapRegisterAccess]
  with_reducible repeat' first | apply nextAll.next | assumption | apply Kept.tapReg

theorem Kept.execExtest (h : Kept c p q s) (hmgmt : c.mgmt = none) :
    nextAll (Kept c p q) (execExtest s) := by
  dsimp only [Machine.execExtest]
  with_reducible repeat' first | apply nextAll.next | assumption | apply Kept.tapLoad

end Sys2Proof.Machine
end

