-- ==== Sys2Proof/WellFormed.lean ====
section
/-! DEFINITION. Well-formed commands: the operands that the rows of spec/opcode_table.json admit, where the types of
`Instr` allow more.  `exec` is total: it answers for every command, well-formed or not. -/

namespace Sys2Proof

/-- No number twice. -/
def distinct (l : List Nat) : Bool := decide l.Nodup

/-- An access of `n` bytes from `addr` on lies in one 128 B line (R293 to R295). -/
def inLine (addr : Word) (n : Nat) : Bool := decide (0 < n) && decide (addr.toNat % 128 + n ≤ 128)

/-- LDXD, LDXW, STXD and STXW are the indexed forms of LDD, LDW, STD and STW (Table 4.4). -/
def loadForm (op : LoadOp) : MemForm → Bool
  | .disp _ _ _ => true
  | .index _ _ _ _ word => op == (if word then .ldw else .ldd)
def storeForm (op : StoreOp) : MemForm → Bool
  | .disp _ _ _ => true
  | .index _ _ _ _ word => op == (if word then .stw else .std)

/-- A frame of the type a row names, with a payload of at most 4,096 B (Tables 14.8 and 14.9). -/
def frameOf (types : List Byte) (f : Frame) : Bool := types.contains f.type && decide (f.payload.length ≤ 4096)

/-- The command is one that a row of the table spells. -/
def Instr.wf : Instr → Bool
  | .keeperBistDone _ dimms => distinct (dimms.map fun e => e.1.val)
  | .flashCopyValidated bad => distinct (bad.map fun c => c.val)
  | .imageEnd _ bad => distinct (bad.map fun c => c.val)
  | .composeComplete units => distinct (units.map fun e => e.1.val)
  | .logicalOperation _ op _ _ b =>
    (match op, b with
     | .not, .imm _ => false
     | _, _ => true)
  | .load _ op form _ => loadForm op form
  | .store _ op form => storeForm op form
  | .peek _ addr size _ => inLine addr size
  | .invWrite _ addr data => inLine addr data.length
  | .inboundMemoryRead _ _ len => decide (0 < len ∧ len ≤ 4096)
  | .inboundMemoryWrite _ _ data => decide (0 < data.length ∧ data.length ≤ 4096)
  | .dataFrame _ f => frameOf [0x02] f
  | .endFrame _ f => frameOf [0x03] f
  | .establishedFrame _ f => frameOf [0x05] f
  | .staleClaim _ f => frameOf [0x06] f
  | .seqError _ f => frameOf [0x06] f
  | .notEstablished _ f => frameOf [0x06] f
  | .ident _ f => frameOf [0x12] f
  | .ack _ f => frameOf [0x10] f
  | .nak _ f => frameOf [0x11] f
  | .frameReceive _ f _ => frameOf [0x01, 0x02, 0x03, 0x04, 0x05, 0x06, 0x10, 0x11, 0x12] f
  | .mirrorRecord _ r _ => decide (1 ≤ r.kind.toNat ∧ r.kind.toNat ≤ 5)
  | .junctionSample _ lo hi => decide (lo.toInt ≤ hi.toInt)
  | .hello _ _ _ key => decide (key.length = 1568)
  | .tapMemoryAccess _ _ size _ => [1, 2, 4, 8].contains size
  | .registerWrite _ _ size _ => decide (0 < size)
  | .pinEvent _ edges => decide (0 < edges)
  | _ => true

end Sys2Proof
end

