-- ==== Sys2Proof/Tests/Slice0.lean ====
section
/-! SUPPORT. Tests: the checks of WellFormed, worked examples of the manual, and for the statements of Obligations.lean
states and operands that meet the hypotheses of their clauses. -/

namespace Sys2Proof.Tests

open Sys2Proof.Machine

-- One test after another: their evaluations side by side would not fit into memory.
set_option Elab.async false

/-! ### Small states -/

/-- An image of one parcel, P0, with one triple: LC0 at CT0.G00; every other island is spare. -/
def img : Image where
  seq := 7
  secVersion := 0
  pubDigest := 5
  digest := 0
  structDigest := 0
  grantDigest := 0
  worldDigest := 0
  groups := 0 :: List.replicate 47 3
  parcels := 0xFF0001 :: List.replicate 15 0
  ports := []
  grants := []
  qos := List.replicate 66 0
  policy := [0]
  world := List.replicate 8 0
  micro := []
  keys := []

/-- The reset state in another mode. -/
def mode (m : Mode) : State := { State.reset with keeper := { Keeper.init with mode := m } }
/-- The reset state with another keeper. -/
def keeper (f : Keeper → Keeper) (s : State) : State := { s with keeper := f s.keeper }
/-- In a mode, under an image. -/
def under (i : Image) (m : Mode) : State := { mode m with loader := { Loader.init with running := some ⟨[], i, 0⟩ } }
/-- Every island as the image lays it out. -/
def islands (s : State) : State := { s with isls := (List.finRange 48).map fun n => (n.val, islInit img [] n) }
/-- RUN under the image. -/
def run : State := under img .run
/-- RUN with LC0 in its place. -/
def placed : State := ((islands run).placeAll img).getD run
/-- RUN, with logical core LC0 hosted and changed by `f`. -/
def core (f : LCore → LCore) : State := run.setLc 0 (f { LCore.init with host := some 0 })

/-- A grant record: owner, kind, rights, first and last. -/
def grant (owner kind rights first last : Nat) : Grant :=
  ⟨BitVec.ofNat 64 (owner + kind * 2 ^ 8 + rights * 2 ^ 16), BitVec.ofNat 64 first, BitVec.ofNat 64 last⟩
/-- The image with grants of every kind, and a Lyvan, a PCIe and a CXL port on IT0. -/
def rich : Image := { img with
  grants := [grant 0 1 7 0 0xFFFFFFF, grant 16 1 7 0x10000000 0x1FFFFFFF, grant 0 2 3 0x20000000 0x2FFFFFFF,
    grant 16 3 3 0x30000000 0x31FFFFFF, grant 0 4 3 csBase (csBase + 9 * 2 ^ 32 - 1), grant 0 7 0 0 15,
    grant 16 7 0 16 31, grant 0 5 0 0 15, grant 0 6 0 0 127]
  ports := [BitVec.ofNat 64 (0x21 * 2 ^ 14 + 2 * 2 ^ 10), BitVec.ofNat 64 (0x02 * 2 ^ 14 + 2 * 2 ^ 10 + 16),
    BitVec.ofNat 64 (0x11 * 2 ^ 14 + 4 * 2 ^ 10 + 32)] }
/-- RUN under it: LC0 in its place, 1 GiB of DRAM on CT0. -/
def live : State := ((islands { under rich .run with maps := [(0, ⟨false, false, 16, []⟩)] }).placeAll rich).getD run
/-- RUN under it with the DRAM, LC0 hosted and changed, the islands as after reset. -/
def memCore (f : LCore → LCore) : State :=
  ({ under rich .run with maps := [(0, ⟨false, false, 16, []⟩)] } : State).setLc 0 (f { LCore.init with host := some 0 })
/-- The same with LC0 changed. -/
def liveCore (f : LCore → LCore) : State := live.setLc 0 (f (live.lc 0))

/-- LC0 executes with a status word: 0 for U, 1 for S, 2 for H, 9 for Polder S. -/
def status (psw : Word) : State := core fun l => { l with psw := psw }
/-- 1.5 in B64, and a signalling NaN of B64. -/
def oneHalf : Quad := 0x3FF8000000000000
def snan : Quad := 0x7FF0000000000001
/-- The line of 0x400, held by slot 0 in a state. -/
def held (st : Moesi) : CLine := ⟨8, st, 0, false, 0, 0, false⟩
/-- Queue 0 is on, with a capacity of 16 words, and changed by `f`. -/
def qOn (f : QSt → QSt) : State := (live.setReg (.qmQcfg 0) (BitVec.ofNat 64 (2 ^ 63 + 4 * 2 ^ 56))).modQueue 0 f
/-- Port 0 ACTIVE; subchannel 0 of one path on it, enabled. -/
def chan (f : ScSt → ScSt) : State :=
  ((((live.modPort 0 fun x => { x with st := .active, peerRxWin := 16 }).setReg (.scCfg 0)
    (BitVec.ofNat 64 (2 ^ 63 + 2 ^ 56 + 2 ^ 16))).setReg (.scLimits 0) (BitVec.ofNat 64 (2 ^ 32 + 2 ^ 16 + 10))).modSc 0 fun x =>
      f { x with st := .idle })
/-- A frame of subchannel 0. -/
def frame (type : Byte) (param : Word) (payload : List Byte) : Frame := ⟨type, 0, 0, 0, 16, 0, 0, 0, 0, 0, param, payload⟩

/-! ### Witnesses: steps, modes, supplies, the timebase -/

theorem witness_FrontCommandRuns : ({ run with pending := [.wait 0] } : State).pending = [.wait 0] := rfl

theorem witness_EmptyQueueTicks : State.reset.pending = [] ∧ (mode .off).pending = [] ∧ (mode .off).mode = .off ∧
    State.reset.mode ≠ .off := by
  and_intros <;> decide +kernel

theorem witness_SuppliesAndPowerOnReset : (mode .off).mode = .off := rfl

/-- WAKE at a phase of its sequence, with enables asserted. -/
def waking (p : WakePhase) (en : BitVec 4) : State := keeper (fun k => { k with wakePhase := p, pwren := en }) (mode .wake)

theorem witness_WakeSequence :
    (let s := keeper (fun k => { k with wakeLatch := [0x01] }) State.reset
     s.mode = .keeper ∧ s.keeper.trans = .none ∧ s.keeper.wakeLatch ++ s.keeper.zeroLatch ≠ []) ∧
    (let s := State.reset.setFld .ksWake 8 8 1; s.mode = .keeper ∧ s.keeper.xwakeHigh = true ∧ s.fld .ksWake 8 8 = 1) ∧
    (waking .powerUp 7).keeper.pwren ≠ 15 ∧ (waking .powerUp 15).keeper.pwren = 15 ∧
    (waking .powerUp 15).mode = .wake ∧ (waking .fuseSense 15).keeper.wakePhase = .fuseSense ∧
    (waking .powerUp 15).keeper.trans = .none := by
  and_intros <;> decide +kernel

theorem witness_LoadAndComposition :
    (let s := waking .bist 15; s.mode = .wake ∧ s.keeper.wakePhase = .bist ∧ s.keeper.wakeZeroize = false) ∧
    (keeper (fun k => { k with wakeZeroize := true }) (waking .bist 15)).keeper.wakeZeroize = true ∧
    ((mode .load).mode = .load ∧ (mode .load).keeper.trans = .none ∧ (mode .load).nextCopy.isSome = true) ∧
    (let s := islands { mode .compose with loader := { Loader.init with composing := some ⟨[], img, 0⟩ } }
     s.mode = .compose ∧ s.memoryReady = true ∧ s.loader.composing = some ⟨[], img, 0⟩ ∧
      ({ s with lcs := [] }.placeAll img).isSome = true) := by
  and_intros <;> decide +kernel

theorem witness_PowerDownAndRails :
    (let s := keeper (fun k => { k with trans := .powerDown true }) (mode .hold)
     s.keeper.trans = .powerDown true ∧ s.keeper.pwren = 0 ∧ (keeper (fun k => { k with pwren := 15 }) s).keeper.pwren ≠ 0) ∧
    (∀ m ∈ [Mode.load, .quiesce, .hold], (mode m).admits .keeper CsReg.ksCmd.addr needW true = true ∧
      (mode m).keeper.trans = .none ∧ (mode m).mode = m) ∧
    (run.admits .keeper CsReg.ksCmd.addr needW true = true ∧ run.mode.zeroizes = true ∧ (0 : BitVec 32) ≠ confirmCode) ∧
    ((mode .zeroize).mode = .zeroize ∧ (mode .zeroize).keeper.trans = .none) ∧
    (let s := keeper (fun k => { k with pwren := 7, pgood := 7, railLost := 8 }) run
     s.poweringDown = false ∧ s.keeper.pwren.getLsbD 0 = true ∧ s.keeper.railLost.getLsbD 0 = false ∧
      s.keeper.railLost.getLsbD 3 = true) := by
  and_intros <;> decide +kernel

theorem witness_QuiesceAndService :
    (run.admits .keeper CsReg.ksCmd.addr needW true = true ∧ run.keeper.trans = .none ∧ run.mode.running = true) ∧
    ((mode .quiesce).mode = .quiesce ∧ (mode .quiesce).fld .imgStatus 23 20 ≠ 5 ∧
      (mode .quiesce).admits .keeper CsReg.ksCmd.addr needW true = true) ∧
    (run.mode = .run ∧ run.tileInUse 1 = false ∧ run.tileInUse 8 = false) ∧
    (let s := (mode .service).setFld .ksStatus 39 36 8
     s.mode = .service ∧ (8 : BitVec 4).toNat = s.svcTile ∧ s.admits .keeper CsReg.ksCmd.addr needW true = true) ∧
    (let s := keeper (fun k => { k with trans := .quiescing }) run
     s.keeper.trans = .quiescing ∧ s.mastersStopped = true ∧ s.mode.running = true ∧ s.gravePresent = false ∧
      s.admits .keeper CsReg.ksCmd.addr needW true = true ∧ s.keeper.trans ≠ .none) ∧
    (let s := keeper (fun k => { k with trans := .restoring }) (mode .service)
     s.keeper.trans = .restoring ∧ s.mode = .service) ∧
    ((mode .zeroize).admits .keeper CsReg.ksCmd.addr needW true = true ∧ (mode .zeroize).mode = .zeroize) := by
  and_intros <;> decide +kernel

theorem witness_TimebaseAccesses :
    run.admits .keeper CsReg.tbNow.addr needR true = true ∧ run.admits .keeper CsReg.tbStep.addr needW true = true ∧
    (run.setFld .tbCtl 8 8 0).fld .tbCtl 8 8 = 0 ∧ (run.setFld .tbCtl 8 8 1).fld .tbCtl 8 8 = 1 ∧ (minInt : Word).msb = true ∧
    (run.setFld .tbCtl 8 8 1).admits .keeper CsReg.tbStep.addr needW true = true ∧
    (mode .wake).tb.fast = false ∧ (mode .wake).poweringDown = false ∧ (mode .wake).mode ≠ .off ∧
    (mode .wake).mode ≠ .keeper ∧ ({ State.reset with tb := { State.reset.tb with fast := true } } : State).tb.fast = true ∧
    State.reset.mode = .keeper ∧ (run.setFld .tbCtl 5 4 1).fld .tbCtl 5 4 = captureCode .ppsIn ∧ run.fld .tbCtl 5 4 ≠ captureCode .ptpMgt0 ∧
    (let s := { run.setFld .tbCtl 0 0 1 with tb := { run.tb with ns := 1000000000 } }
     s.fld .tbCtl 0 0 = 1 ∧ s.keeper.ppsMult < s.now / 1000000000 ∧ s.mode ≠ .off) ∧
    (let s := keeper (fun k => { k with ppsOut := true }) { run with tb := { run.tb with ns := 100000000 } }
     s.keeper.ppsOut = true ∧ s.keeper.ppsRise.toNat + 100000000 ≤ s.now) := by
  and_intros <;> decide +kernel

theorem witness_ComparatorsAndSensors :
    (let s := State.reset.setFld (.tbCmpCfg 3) 0 0 1
     s.mode = .keeper ∧ s.fld (.tbCmpCfg 3) 0 0 = 1 ∧ (s.reg (.tbCmpVal 3)).toNat ≤ s.now ∧
      s.fld (.tbCmpCfg 3) 63 24 = 0 ∧ ((s.setFld (.tbCmpCfg 3) 63 24 9).setFld (.tbCmpCfg 3) 2 2 1).fld (.tbCmpCfg 3) 63 24 ≠ 0) ∧
    (run.ringsRun = true ∧ run.poweringDown = false ∧ run.fld (.ecCfg 3) 39 36 ≤ 11 ∧ run.tb.ecOut.getLsbD 3 = false) ∧
    (let s := (run.setFld (.ecCfg 3) 0 0 1).setFld (.ecCfg 3) 51 40 9
     s.fld (.ecCfg 3) 0 0 = 1 ∧ s.fld (.ecCfg 3) 3 1 = 0 ∧ (8 : BitVec 12).toNat < s.fld (.ecCfg 3) 51 40 ∧
      s.fld (.ecCfg 3) 51 40 ≤ (9 : BitVec 12).toNat ∧ (9 : BitVec 12).toNat ≤ s.fld (.ecCfg 3) 63 52) ∧
    (2 ≤ ((keeper (fun k => { k with mismatches := [0, 0] }) run).keeper.mismatches.filter fun x =>
      run.now < x.toNat + 1000000).length) ∧
    (run.keeper.mismatches.filter fun x => run.now < x.toNat + 1000000).length < 2 := by
  and_intros <;> decide +kernel
/-! ### Witnesses: structure commands, microcode, registers, integer instructions, control flow -/

theorem witness_StructureCommands :
    (run.admits .keeper CsReg.imgCtl.addr needW true = true ∧ run.mode ≠ .zeroize ∧ run.pendState ≠ 5 ∧
      run.runOrQuiesce = true ∧ run.loader.mc.state = 0 ∧ run.fuses.sealDigest &&& img.structDigest = run.fuses.sealDigest) ∧
    (let s := { under (readImage []) .run with loader := { (under (readImage []) .run).loader with staged := some [] } }
     (s.setPend 3 0).pendState = 3 ∧ sameShape (readImage []) (readImage []) = true ∧ s.fuses.admits (readImage []) = true) ∧
    (({ run.fuses with sealed := true, sealDigest := 1 } : Fuses).admits { readImage [] with structDigest := 0 } = false) ∧
    (sameShape { img with structDigest := 1 } (readImage []) = false ∧ (mode .quiesce).mode = .quiesce) ∧
    (let s := { run with fuses := { run.fuses with sealDigest := 1 } }
     s.fuses.sealDigest &&& img.structDigest ≠ s.fuses.sealDigest) ∧
    (let s := liveCore fun l => { l with stops := { l.stops with frozen := true } }
     (freezable.find? fun y => s.isFrozen y && s.masterSrc y = s.masterSrc (.core 0)) = some (.core 0) ∧
      s.masterSrc (.core 0) < 65536 ∧ ∀ p ∈ s.masterOwners (.core 0), (s.prst p).step.val = 0) ∧
    (let s := (islands (under (readImage []) .quiesce)).setPend 5 0
     s.mode = .quiesce ∧ s.pendState = 5 ∧ s.resetsRun = false ∧ ({ s with
      isls := (List.finRange 48).map fun (n : Fin 48) => (n.val, { islInit (readImage []) s.badCores n with
        voterOk := (s.isl n.val).voterOk, voterDead := (s.isl n.val).voterDead, timeReg := (s.isl n.val).timeReg })
      lcs := [], migrations := []
      loader := { s.loader with running := some ⟨[], readImage [], 2⟩ } }.placeAll (readImage [])).isSome = true) := by
  and_intros <;> decide +kernel

/-- A package of one word, END, for every parcel, as stored at 0x10000000: its header and the length of its signature;
every other byte is 0. -/
def package : List Host.Cell :=
  [(0x10000000, 0xE0), (0x10000001, 0x07), (0x10000004, 0xFF), (0x10000008, 9), (0x1000000C, 1), (0x1000021C, 8),
    (0x10000220, 1)]

theorem witness_MicrocodeBanks :
    (let s := (live.setLc 0 ((live.lc 0)))
     let t := { s with loader := { s.loader with mc := { s.loader.mc with state := 2, parcels := 1 } } }
     t.loader.mc.state = 2 ∧ t.rebuilt t.loader.mc.parcels = [0] ∧ (5 : Lc) ∉ t.rebuilt t.loader.mc.parcels ∧
      (t.lc 0).runsOldBank = false ∧
      ({ t.lc 0 with micro := some { (t.microStart (t.lc 0) 0 0).1 with bank := true } } : LCore).runsOldBank = true) ∧
    (let s := liveCore fun l => { l with bankPend := true }
     (s.lc 0).bankPend = true ∧ (s.lc 0).host = some 0 ∧ (s.lc 0).overrun = none ∧ s.runOrQuiesce = true ∧
      ∀ c ∈ ((s.isl (slotIsland 0)).slots.get (slotPos 0)).positions,
        ((s.isl (slotIsland 0)).cores.get c).role ≠ .rejoining) := by
  and_intros <;> decide +kernel

def pkgImg : Image := { rich with keys := [⟨1, 1, 9, []⟩] }
def pkgState : State := ({ live with loader := { live.loader with running := some ⟨[], pkgImg, 0⟩ }, mem := package }).setReg
  .mcPkg 0x10000000
/-- What stands in memory there. -/
def pkgBytes : List Byte := memRead package 0x10000000 2016

/-- Given that the verifier accepts the signature. -/
theorem witness_MicrocodeBanks_load (hv : ∀ k m s, Config.falconVerify k m s = true) :
    pkgCheck pkgImg.keys pkgImg.parcelValid false pkgBytes = 0 ∧ pkgState.image = some pkgImg ∧
    pkgState.admits .keeper CsReg.mcCtl.addr needW true = true ∧ pkgState.loader.mc.state = 0 ∧
    pkgState.fld .mcPkg 51 0 = 0x10000000 ∧
    pkgState.homesServe (pkgState.requester .keeper) .keeper (pkgState.mcReach 1) = true ∧
    (let u := pkgState.atHome (pkgState.requester .keeper) (pkgState.mcReach 1)
     u.peek 0x10000000 16 = some (memRead package 0x10000000 16, false) ∧ pkgSize (memRead package 0x10000000 16) = 2016 ∧
      u.mem = package ∧ (u.peek 0x10000000 2016).map (·.2) = some false) ∧ pkgState.pkgSourceOk 0x10000000 2016 = true := by
  refine ⟨?_, ?_⟩
  · unfold pkgCheck
    simp only [hv]
    decide +kernel
  · and_intros <;> decide +kernel
theorem witness_RegisterWriteRules :
    (let a : Word := BitVec.ofNat 64 CsReg.ksWake.addr
     csTarget a.toNat = .reg 0 .ksWake ∧ a.toNat % 8 = 0 ∧ run.admits .keeper a.toNat needW (run.csOk .keeper .ksWake) = true ∧
      (a + 1).toNat % 8 ≠ 0 ∧ run.admitsBytes .keeper (a + 1).toNat 8 needW (run.pageOk .keeper (a + 1).toNat 8) = true ∧
      run.admitsBytes .keeper a.toNat 4 needW (run.pageOk .keeper a.toNat 4) = true) ∧
    (let a : Word := BitVec.ofNat 64 (csBase + 9 * 2 ^ 32)
     csTarget a.toNat = .outside ∧ run.bankExtra a.toNat = none ∧
      run.admits .keeper a.toNat needW (run.pageOk .keeper a.toNat 8) = true) ∧
    (let a : Word := BitVec.ofNat 64 (CsReg.ksWake.addr + 0x800)
     csTarget a.toNat = .hole 0 ∧ run.bankExtra a.toNat = none ∧ a.toNat % 8 = 0 ∧
      run.admits .keeper a.toNat needW (run.pageOk .keeper a.toNat 8) = true) ∧
    ((CsReg.pinStat 0).fields.any fun f => f.acc = .rw1c) = true ∧
    ((CsReg.pinCfg 0).fields.any fun f => f.acc = .rw ∧ f.hw = false) = true ∧
    ((CsReg.pinStat 0).fields.any fun f => f.acc = .ro) = true := by
  and_intros <;> decide +kernel

/-- LC0 executes, with G1 and G2 set. -/
def ints (x y : Word) : State := core fun l => (l.wg 1 x).wg 2 y

theorem witness_AddSubtractNegate :
    (ints 1 2).clear 0 = true ∧
    ((signedOver ((((ints 1 2).lc 0).rg 1).toInt + (((ints 1 2).lc 0).regImm true (.imm 0x7FFF)).toInt) &&
      pswOvt ((ints 1 2).lc 0).psw) = false) ∧
    ((signedOver ((((ints minInt 1).lc 0).rg 1).toInt - (((ints minInt 1).lc 0).rg 2).toInt) &&
      pswOvt ((ints minInt 1).lc 0).psw) = false) ∧
    ((signedOver (-(((ints minInt 1).lc 0).rg 1).toInt) && pswOvt ((ints minInt 1).lc 0).psw) = false) := by
  and_intros <;> decide +kernel

theorem witness_LogicCompareExtend : (ints 0 0).clear 0 = true := by decide +kernel

theorem witness_ShiftResults : (ints 1 64).clear 0 = true ∧
    (let l := (ints 1 64).lc 0
     (signedOver ((l.rg 1).toInt * 2 ^ (l.regImm false (.reg 2)).toNat) && pswOvt l.psw) = false) := by
  and_intros <;> decide +kernel

theorem witness_RotationByAnyCount : (ints 1 64).clear 0 = true := by decide +kernel

theorem witness_MultiplyAndDivide :
    (ints minInt (-1)).clear 0 = true ∧
    (let l := (ints minInt (-1)).lc 0
     (signedOver ((l.rg 1).toInt * (l.rg 2).toInt) && pswOvt l.psw) = false ∧ l.rg 2 ≠ 0 ∧ l.rg 1 = minInt ∧ l.rg 2 = -1 ∧
      pswOvt l.psw = false ∧ bits (l.rg 2) 31 0 ≠ 0 ∧
      (decide (bits (l.rg 2) 31 0 ≤ bits (l.rg 1) 63 32) && pswOvt l.psw) = false) := by
  and_intros <;> decide +kernel

theorem witness_ZeroDivisorRaises :
    (ints 5 0).clear 0 = true ∧ (((ints 5 0).lc 0).rg 2 = 0) ∧ ((ints 5 0).lc 0).level ≤ 1 ∧
    (ints 5 0x100000000).clear 0 = true ∧ bits (((ints 5 0x100000000).lc 0).rg 2) 31 0 = 0 := by
  and_intros <;> decide +kernel

theorem witness_OverflowTraps :
    let s := core fun l => { (l.wg 1 minInt).wg 2 (-1) with psw := 0x400000 }
    s.clear 0 = true ∧ pswOvt (s.lc 0).psw = true ∧ (s.lc 0).level ≤ 1 ∧
    signedOver (((s.lc 0).rg 1).toInt + ((s.lc 0).rg 2).toInt) = true ∧
    signedOver (((s.lc 0).rg 1).toInt * ((s.lc 0).rg 2).toInt) = true ∧
    signedOver (((s.lc 0).rg 3).toInt - ((s.lc 0).rg 1).toInt) = true ∧
    (s.lc 0).rg 1 = minInt ∧ (s.lc 0).rg 2 = -1 := by decide +kernel

theorem witness_JumpsAndBranches : (ints 0 0).clear 0 = true := by decide +kernel
theorem witness_EntryToAHandler :
    ([(0 : Word), 1, 2, 8, 9].all fun p => (status p).clear 0 && ((status p).lc 0).pendG.isEmpty) = true ∧
    (pswPolder ((status 1).lc 0).psw = false ∧ ((status 1).lc 0).level = 1) ∧ pswPolder ((status 9).lc 0).psw = true ∧
    (pswPolder ((status 2).lc 0).psw = false ∧ ((status 2).lc 0).level ≠ 1) := by
  and_intros <;> decide +kernel

theorem witness_ReturnFromAHandler :
    (let s := core fun l => { l with psw := 2, hyp := { l.hyp with exc := { l.hyp.exc with saved := 1 } } }
     let l := s.lc 0
     let x := l.excBank .h
     s.clear 0 = true ∧ l.level = 2 ∧ pswLevel x.saved = 1 ∧ pswGv x.saved = false ∧ l.pendG = []) ∧
    ((status 0).clear 0 = true ∧ ((status 0).lc 0).level = 0 ∧ ((status 1).lc 0).level ≠ 0 ∧
      pswLevel (((status 1).lc 0).excBank .s).saved ≤ 1 ∧ (status 1).clear 0 = true) := by
  and_intros <;> decide +kernel

theorem witness_ControlRegisterMoves :
    ([(0 : Word), 1, 2, 9].all fun p => (status p).clear 0 && ((status p).lc 0).pendG.isEmpty) = true ∧
    (((status 2).lc 0).level = 2 ∧ pswPolder ((status 2).lc 0).psw = false) ∧ ((status 0).lc 0).level = 0 ∧
    1 ≤ ((status 1).lc 0).level ∧ pswPolder ((status 9).lc 0).psw = true ∧
    (((status 0).lc 0).rg 1).getLsbD 8 = ((status 0).lc 0).psw.getLsbD 8 := by
  and_intros <;> decide +kernel

/-- A fill of slot 0 is under way. -/
def filling : State := (status 0).modSlice 2 fun x => { x with txns := [⟨8, .slot 0, .readShared, [], .e, false, none, none⟩] }

theorem witness_TimeBarriersAndWait :
    (status 0).clear 0 = true ∧ ((status 0).lc 0).bank.timectl.getLsbD 0 = true ∧ ((status 0).lc 0).host = some 0 ∧
    (status 0).canQuiet 0 0 = true ∧ filling.clear 0 = true ∧ (filling.lc 0).host = some 0 ∧ filling.canQuiet 0 0 = false ∧
    (let s := core fun l => { l with fore := { l.fore with timectl := 0 } }
     s.clear 0 = true ∧ (s.lc 0).level = 0 ∧ (s.lc 0).bank.timectl.getLsbD 0 = false) := by
  and_intros <;> decide +kernel

/-- The outstanding far atomic of the tests. -/
def farReq : FarReq := ⟨.fadd, 3, 0x400, 1, 0, 0, false, false⟩

theorem witness_TranslationInvalidates :
    ([(0 : Word), 1, 2].all fun p => (status p).clear 0) = true ∧ ((status 0).lc 0).level = 0 ∧ 1 ≤ ((status 1).lc 0).level ∧
    ((status 2).lc 0).level = 2 ∧ (0 : Lc) ∈ (status 1).parcelLcs 0 ∧ (1 : Lc) ∉ (status 1).parcelLcs 0 ∧
    ((status 1).lc 0).far = none ∧ ((status 1).lc 0).storeBuf = [] ∧ (status 1).noFills 0 = true ∧ ((status 1).lc 0).tlb = [] ∧
    (let e : TlbEntry := ⟨false, 0, none, false, false, 0, false, 0, 12, 0, false, false, true, true, true, false⟩
     let s := filling.modLc 0 fun l => { l with psw := 1, tlb := [e] }
     s.clear 0 = true ∧ (s.lc 0).host = some 0 ∧ s.canQuiet 0 0 = false ∧ tlbiDrops (s.lc 0) .all 0 e = true) := by
  and_intros <;> decide +kernel

theorem witness_SegmentRegisterMoves :
    (let s := memCore fun l => { l with psw := 1, fore := { l.fore with segtab1 := 1 } }
     let l := s.lc 0
     s.clear 0 = true ∧ l.level = 1 ∧ descWellFormed (l.rg 2 ++ l.rg 1) = true ∧ descValid (l.rg 2 ++ l.rg 1) = false ∧
      bits l.bank.segtab1 16 0 ≤ ((l.wg 1 1).rg 1).toNat ∧ (l.rg 1).toNat < bits l.bank.segtab1 16 0 ∧
      s.fwPass (.core 0) 0 16 needR = true ∧
      (match s.translateAt 0 l (bits l.bank.segtab0 56 4 * 16 + 16 * (l.rg 1).toNat) needR with
       | .ok (pa, unc, l') => decide (pa = 0 ∧ l' = l) &&
          (match (s.setLc 0 l).readAt 0 pa 16 unc with
           | .ok (bs, _) => decide (bs = List.replicate 16 0) | _ => false)
       | _ => false) = true ∧ descWellFormed 0 = true ∧ descValid 0 = false) ∧
    (descWellFormed (((-1 : Word)) ++ (-1 : Word)) = false) ∧ ((status 0).lc 0).level = 0 ∧
    bits ((status 1).lc 0).bank.segtab1 16 0 ≤ (((status 1).lc 0).rg 1).toNat := by
  and_intros <;> decide +kernel

/-- LC0 executes, with F1 and F2 set. -/
def floats (x y : Quad) : State := core fun l => (l.wf 1 x).wf 2 y

theorem witness_FloatingArithmetic :
    ((floats oneHalf oneHalf).clear 0 = true) ∧ (rounding 0 false 0).isSome = true ∧ (rounding 0 false 7).isSome = true ∧
    rounding 0 false 5 = none ∧ ((floats 0 0).lc 0).level ≤ 1 ∧ (arithFmt .d64).dec = true ∧
    (arithFmt .b64).dec = false ∧ ((floats snan 0).lc 0).fop b64 1 = .nan false true 1 := by
  and_intros <;> decide +kernel

theorem witness_FloatingSelectCompareMove :
    (floats snan oneHalf).clear 0 = true ∧ (((floats snan oneHalf).lc 0).fop b64 1).isSnan = true ∧
    (((floats snan oneHalf).lc 0).fop b64 2).isNan = false := by
  and_intros <;> decide +kernel
/-! ### Witnesses: conversions, memory, long-running instructions, custom routines -/

/-- LC0 with an infinity, a NaN and 1.5 in F1 to F3. -/
def floats3 : State := core fun l => ((l.wf 1 0x7FF0000000000000).wf 2 snan).wf 3 oneHalf

theorem witness_FloatingConversions :
    floats3.clear 0 = true ∧ fmtOfCode 2 = some b64 ∧ fmtOfCode 1 = some b32 ∧
    (rounding (floats3.lc 0).fpcr b32.dec 7).isSome = true ∧ (rounding (floats3.lc 0).fpcr b64.dec 7).isSome = true ∧
    (floats3.lc 0).fop b64 1 = .inf false ∧ (floats3.lc 0).fop b64 2 = .nan false true 1 ∧
    (floats3.lc 0).fop b64 3 = .num false 6755399441055744 (-52) ∧ b64.dec = b32.dec ∧ (floats3.lc 0).level ≤ 1 := by
  and_intros <;> decide +kernel

theorem witness_FloatingTrapDelivery :
    [256, 0].all (fun n => let s := core fun l => { l with fpxr := 0x8000000000000000, fpCount := n }
      s.lcRuns 0 && !s.struck 0 && (s.lc 0).fpPend && decide ((s.lc 0).level ≤ 1)) = true := by decide +kernel

/-- LC0 with G1 = 0x400, its slot holding that line. -/
def cached (st : Moesi) (f : LCore → LCore) : State :=
  (memCore fun l => f (l.wg 1 0x400)).modHolder 0 fun h => { h with l2 := [held st] }
def liveCached (st : Moesi) (f : LCore → LCore) : State :=
  (liveCore fun l => f (l.wg 1 0x400)).modHolder 0 fun h => { h with l2 := [held st] }
/-- An access of `n` bytes at G1 passes every check, to the same address and with the core as it was. -/
def passes (s : State) (n need : Nat) : Bool :=
  match s.dataAddr 0 (s.lc 0) ((s.lc 0).rs 1) ((s.lc 0).rg 1) n need with
  | .ok (pa, unc, l) => decide (pa = 0x400) && !unc && decide (l.host = some 0) && l.storeBuf.isEmpty
  | _ => false

theorem witness_LoadsAndStores :
    (let s := cached .e id
     let l := s.lc 0
     s.clear 0 = true ∧ l.memOffset (.disp 2 1 0) = 0x400 ∧ l.memOffset (.index 2 1 3 3 false) = 0x400 ∧
      [1, 2, 4, 8, 16].all (fun n => passes s n needR) = true ∧ s.place 0x400 = .dram 0 0x400 ∧ s.memReachable 0x400 = true ∧
      (s.holder 0).find (lineOfAddr 0x400) = some (held .e) ∧ s.cacheErr 0 (lineOfAddr 0x400) = false ∧ (held .e).poison = false) ∧
    (let s := liveCached .m id
     [1, 2, 4, 8, 16].all (fun n => passes s n needW) = true ∧ (s.lc 0).ioWait = none ∧ s.slotLc 0 = some 0 ∧
      s.cacheErr 0 (lineOfAddr 0x400) = false ∧ (s.holder 0).side = [] ∧
      (s.holder 0).owns (lineOfAddr 0x400) = true ∧ s.clear 0 = true) ∧
    (((cached .e id).lc 0).memOffset (.disp 2 1 1)).toNat % 8 ≠ 0 := by
  and_intros <;> decide +kernel

/-- Every earlier access of LC0 completes and leaves its reservation. -/
def syncs (s : State) : Bool :=
  match s.synced 0 with
  | .ok u => decide ((u.lc 0).resv = (s.lc 0).resv) && u.canOwn 0 8 && !u.cacheErr 0 8
  | _ => false
/-- The line that LDRES makes its own can be read. -/
def ldresReads (s : State) : Bool := match (s.ownLine 0 8).readCached 0 0x400 8 with | .ok (bs, _) => decide (bs = List.replicate 8 0) | _ => false

theorem witness_AtomicsAndReservations :
    (let s := cached .m id
     s.clear 0 = true ∧ passes s 8 needRW = true ∧ passes s 8 needR = true ∧ passes s 8 needW = true ∧
      s.place 0x400 = .dram 0 0x400 ∧ s.memReachable 0x400 = true ∧ (s.lc 0).host = some 0 ∧ syncs s = true ∧
      (Table.get 0 (s.lc 0).contention (predIndex 8)).toNat < 2 ∧ s.cacheErr 0 8 = false ∧ s.canOwn 0 8 = true ∧
      (s.lc 0).resv ≠ some 8 ∧ ldresReads s = true ∧ ((s.ownLine 0 8).holder 0).dataOf 8 = some (0, false)) ∧
    (let s := cached .m fun l => { l with contention := [(predIndex 8, 2)] }
     s.clear 0 = true ∧ passes s 8 needRW = true ∧ syncs s = true ∧
      2 ≤ (Table.get 0 (s.lc 0).contention (predIndex 8)).toNat) ∧
    (let s := memCore fun l => { l with far := some farReq }
     (s.lc 0).far = some farReq ∧ (s.lc 0).host = some 0 ∧ ((s.outReq (.slot 0) 8).any fun o => o.nacked) = false ∧
      s.homeSlice 8 = some 2 ∧ s.memReachable 0x400 = true ∧ s.struck 0 = false ∧ s.outStruck 0 = false ∧
      s.refuses 2 8 (.slot 0) .farAtomic = false ∧ s.sfRoom 2 (.slot 0) 8 = true ∧ s.homeWaits 8 = false ∧ s.slotsWith 8 = [] ∧
      s.fillWaits 8 (s.slotWays 0 0) = false ∧ s.fillStuck 8 (s.slotWays 0 0) = false ∧
      (let s1 := ((((s.unstarve 2 8 (.slot 0)).dropReq (.slot 0) 8).sfTouch 8).basinMeet 8).basinRead 8 .ok
       (((s1.homeArrive 8).sfMake 2 8).maintTouch 8).freshest 8 = (0, false))) ∧
    (let s := cached .m fun l => { l with resv := some 8, resvHold := true }
     s.clear 0 = true ∧ (s.lc 0).resvHold = true ∧ syncs s = true ∧ s.cacheErr 0 8 = false ∧ s.canOwn 0 8 = true) := by
  and_intros <;> decide +kernel

/-- ADD G3, G4 beside ADD G1, G2, without bit 31. -/
def pairW : BitVec 31 := 0x08648822

theorem witness_PairedWordsAndBadWords :
    (status 0).clear 0 = true ∧ pairW.getLsbD 15 = true ∧ ((status 0).lc 0).ioWait = none ∧
    (let a := shortOf (pairW.toNat / 2 ^ 16)
     let b := shortOf pairW.toNat
     pairIllegal a (some b) (pairW.toNat % 2 ^ 15) = none ∧ a.isMem = false ∧ b.isMem = false ∧
      (match ((status 0).lc 0).short a (1#1 ++ pairW) false with
       | .ok l1 => (match l1.short b (1#1 ++ pairW) true with | .ok _ => true | _ => false)
       | _ => false) = true) ∧
    (let w : BitVec 31 := 0x00008000
     w.getLsbD 15 = true ∧ (pairIllegal (shortOf (w.toNat / 2 ^ 16)) (some (shortOf w.toNat)) (w.toNat % 2 ^ 15)).isSome = true) ∧
    (0 : BitVec 32).getLsbD 31 = false ∧ majorUndefined 0 = true ∧
    (let s := core fun l => { l with csd := 0 }
     match s.fetchCheck 0 (s.lc 0) ((s.lc 0).pc.toNat) with | .exc _ => true | _ => false) = true := by
  and_intros <;> decide +kernel

/-- LC0 with G1 to G3 set, a line at each of 0x400 and 0x800 granted. -/
def moving : State := memCore fun l => ((l.wg 1 0x400).wg 2 0x800).wg 3 4
/-- The word of FDIV.B128 F1, F2, F3. -/
def divWord : BitVec 32 := encFp .b128 1 2 3 7 3

theorem witness_LongRunningInstructions :
    (moving.clear 0 = true ∧ (moving.lc 0).rg 4 = 0 ∧ (moving.lc 0).rg 3 ≠ 0 ∧
      (match moving.mvlEffect 0 1 2 3 (moving.lc 0) with | .ok (_, fin) => fin | _ => false) = true) ∧
    (let s := memCore fun l => { (l.wg 1 0x400) with psw := 1 }
     (s.lc 0).level ≠ 0 ∧ (s.lc 0).gv = false ∧ s.memReachable 0x400 = true ∧ (s.aslot (slotIdx true 0)).busy = false ∧
      (s.aslot (slotIdx false 0)).busy = false ∧
      (match s.rangeAddr 0 (s.lc 0) ((s.lc 0).rs 1) 0x400 128 needRW with
       | .ok (_, [p], l) => (match (s.setLc 0 l).readAt 0 (p.pa + 2) 1 p.unc with
         | .ok ([st], u) => decide (p.pa = 0x400) && decide (st.toNat < 0x10) && (match u.synced 0 with | .ok _ => true | _ => false)
         | _ => false)
       | _ => false) = true) ∧
    (let s := { (memCore fun l => { (l.wg 1 0x400) with psw := 1 }) with mem := [(0x402, 0x10)] }
     (match s.rangeAddr 0 (s.lc 0) ((s.lc 0).rs 1) 0x400 128 needRW with
       | .ok (_, [p], l) => (match (s.setLc 0 l).readAt 0 (p.pa + 2) 1 p.unc with
         | .ok ([st], _) => decide (0x10 ≤ st.toNat) | _ => false)
       | _ => false) = true) ∧
    ((moving.lc 0).resumes (encR 0x3C 4 1 3 0 3) = false ∧
      (match moving.rangeAddr 0 (moving.lc 0) ((moving.lc 0).rs 1) 0x400 4 needR with
       | .ok (_, ps, l) => (match (moving.setLc 0 l).readPieces 0 (ps.flatMap Piece.lines) with
         | .ok (bs, _) => decide (bs.length = 4) | _ => false)
       | _ => false) = true ∧ (match (moving.lc 0).roundFor true 7 with | .ok _ => true | _ => false) = true ∧
      ((moving.lc 0).rg 0).toNat < (stringOfDec (decodeF (dconvFmt true) ((moving.lc 0).rf 1) false)).1.length) ∧
    (match (moving.lc 0).roundFor false 7 with | .ok _ => true | _ => false) = true ∧
    (moving.lc 0).resumes divWord = false ∧
    (let p : Progress := ⟨[0, 0, 0, 0], divWord, [0, 0], 3, []⟩
     let s := { (memCore fun l => l.progSet divWord) with progress := [p] }
     s.clear 0 = true ∧ (s.lc 0).resumes divWord = true ∧ s.progFind (s.lc 0) divWord = some p ∧
      p.operands = [(s.lc 0).rf 2, (s.lc 0).rf 3]) := by
  and_intros <;> decide +kernel

/-- LC0 with one entry word for opcode 0 and one microword. -/
def routine (entry : Word) (w : Quad) : State := core fun l => { l with bank0 := ⟨1, [entry], [w]⟩ }
/-- END, and two words that never end. -/
def mwEnd : Quad := BitVec.ofNat 128 (2 * 2 ^ 98)

theorem witness_CustomRoutines :
    ((routine 0 0).clear 0 = true ∧ ((routine 0 0).lc 0).micro = none ∧
      (((routine 0 0).lc 0).wcs ((routine 0 0).lc 0).activeBank).entries.getD 0 0 = 0) ∧
    (let e : Word := 0x8001000000000000
     ((routine e mwEnd).lc 0).level < bits e 49 48 ∧ e.msb = true) ∧
    (let e : Word := 0x8000000000000000
     let s := routine e mwEnd
     bits e 49 48 ≤ (s.lc 0).level ∧
      (let r := s.microStart (s.lc 0) 0 e
       let z := Seg.run ⟨0, 1, 2, 3, 0, e, 0⟩ [mwEnd] segFuel ⟨r.2, r.2.lc 0, r.1, [], [], [], false, 0, none⟩
       (match z.2 with | .done => true | _ => false) && z.1.late.isNone) = true) ∧
    (let s := placed.setLc 0 { (placed.lc 0) with overrun := some 0x8000 }
     (s.lc 0).overrun = some 0x8000 ∧ s.coresRun = true ∧ (s.lc 0).executes = true) := by
  and_intros <;> decide +kernel
/-! ### Witnesses: group islands, coherence, DRAM -/

/-- The live module with core CT0.G00.B changed. -/
def coreB (f : PCore → PCore) : State := live.modCore 0 1 f
/-- Line 8, held by slot 0, under another base. -/
def heldBy (s : State) (st : Moesi) : State := s.modHolder 0 fun h => { h with l2 := [held st] }

theorem witness_Resynchronisation :
    live.islandLive 0 = true ∧ coreIsland 1 = 0 ∧ coreLetter 1 = 1 ∧
    ((live.modCore 0 1 fun x => { x with phase := .test, role := .rejoining }).isl 0).cores.toList.any
      (fun x => x.phase == .test && !x.healthy) = true ∧
    [Phase.wake, .invalidate, .mirror].all (fun p => ((coreB fun x => { x with phase := p }).isl 0).cores.toList.any fun x => x.phase == p) =
      true ∧ live.outStruck 0 = false ∧
    (let s := coreB fun x => { x with phase := .wait, role := .rejoining }
     let y := (s.isl 0).cores.get 1
     y.phase = .wait ∧ y.role = .rejoining ∧ y.target = false ∧ y.attempts < 2 ∧ y.lc = some 0 ∧
      (s.lc 0).stops.lost = false ∧ (s.lc 0).stops.migrating = false ∧ (s.lc 0).far = none ∧ (s.lc 0).overrun = none ∧
      s.canQuiet (slotAt 0 y.slot) 0 = true) ∧
    ((coreB fun x => { x with phase := .wait, role := .rejoining, attempts := 2 }).isl 0).cores.toList.any
      (fun x => x.phase == .wait && x.role == .rejoining && decide (2 ≤ x.attempts)) = true ∧
    (let t : Txn := ⟨8, .slot 0, .readShared, [], .e, false, none, none⟩
     let s := live.modSlice 2 fun x => { x with txns := [t] }
     s.islandLive (hostIsland 0) = true ∧ s.homeSlice 8 = some 2 ∧ s.homeLive (lineAddr 8) = true ∧ s.txnAt 2 8 = some t ∧ t.ready = true ∧
      (s.holder 0).find 8 = none ∧ (s.holder 0).evict = [] ∧ (s.holder 0).l2 = [] ∧ s.slotLc 0 = some 0 ∧ (s.lc 0).storeBuf = []) := by
  and_intros <;> decide +kernel

theorem witness_GroupCommandsAndMigration :
    (let y := (live.isl 0).cores.get 1
     live.admits .keeper (CsReg.grpCtl 0).addr needW (live.privileged .keeper) = true ∧ live.mode.running = true ∧
      y.lc = some 0 ∧ ((live.isl 0).slots.get y.slot).st ≠ .resync ∧ ((live.isl 0).slots.get y.slot).st ≠ .migrating ∧
      y.role = .replica ∧ (live.isl 0).healthy y.slot = 3 ∧ ((live.isl 0).slots.get y.slot).width = 3) ∧
    (let s := ({ coreB (fun x => { x with role := .failed }) with loader := { live.loader with running := some ⟨[],
       { rich with qos := List.replicate 66 0xFFFFFFFFFFFFFFFF }, 0⟩ } } : State).modLc 0 fun l => { l with reqs := { l.reqs with migrate := true } }
     s.runOrQuiesce = true ∧ (s.lc 0).host = some 0 ∧ s.lcTarget 0 = some (1, 0, [0, 1, 2]) ∧ s.freeMigSlot 0 = some 0 ∧
      (s.lc 0).reqs.migrate = true ∧ s.migrations = [] ∧
      (∀ o : Lc, o.val < (0 : Lc).val → (s.lc o.val).reqs.migrate = false) ∧ (s.lc 0).overrun = none ∧ (s.lc 0).far = none ∧
      s.canQuiet 0 0 = true ∧ s.rejoinDue 0 (s.lc 0) = false ∧ (s.lc 0).bankPend = false ∧ (s.slice 0).recordBad = false ∧
      (let t := (s.migrate 0).modIsl 1 fun x => { x with cores := x.cores.map fun y => { y with phase := .wait } }
       (t.migrations.find? fun m => m.lc = 0) = some ⟨0, some 0, slotAt 1 0, 3, 0⟩ ∧
       (List.finRange 4).filter (fun c => ((t.isl 1).cores.get c).target && decide (((t.isl 1).cores.get c).lc = some 0)) =
        [0, 1, 2] ∧ hostIsland (slotAt 1 0) = 1)) ∧
    (live.isl 0).voterOk.getLsbD 0 = true ∧
    (let s := liveCore fun l => { l with reqs := { l.reqs with debug := true, quiesce := true } }
     (s.lc 0).host = some 0 ∧ s.runOrQuiesce = true ∧ (s.lc 0).reqs.debug = true ∧ (s.lc 0).far = none ∧
      (s.lc 0).overrun = none ∧ s.canQuiet 0 0 = true ∧ s.beforeHalt 0 0 (s.lc 0) = false ∧
      (s.lc 0).stops.lost = false ∧ (s.lc 0).stops.migrating = false) ∧
    (let s := liveCore fun l => { l with reqs := { l.reqs with quiesce := true } }
     (s.lc 0).reqs.quiesce = true ∧ (s.lc 0).reqs.reset = false ∧ (s.lc 0).reqs.debug = false ∧ s.canQuiet 0 0 = true ∧
      s.beforeHalt 0 0 (s.lc 0) = false ∧ ((s.quietStop 0 0).lc 0).stops.reset = false) ∧
    ((liveCore fun l => { l with stops := { l.stops with debug := true } }).lc 0).stops.debug = true := by
  and_intros <;> decide +kernel

/-- An outstanding request of slot 0 for line 8, NACKed or not. -/
def asks (k : ReqKind) (nacked : Bool) : State := { live with outReqs := [⟨.slot 0, 8, k, 0, false, nacked, false, false, false⟩] }

theorem witness_RequestsAtTheHomeSlice :
    [ReqKind.readShared, .readOwn, .upgrade].all (fun k =>
      let s := asks k false
      s.ringsRun && s.homeSlice 8 == some 2 && s.memReachable (lineAddr 8) && !s.outStruck 0 && (s.slice 2).errs == [] &&
        s.outReq (.slot 0) 8 == some ⟨.slot 0, 8, k, 0, false, false, false, false, false⟩ && !s.blocked 2 8 (.slot 0)) = true ∧
    (let s := (asks .readShared false).modSlice 2 fun x => { x with txns := [⟨8, .slot 1, .readShared, [], .e, false, none, none⟩] }
     s.blocked 2 8 (.slot 0) = true) ∧
    (let s := (asks .readShared false).modSlice 2 fun x => { x with sf := [⟨8, 0, 0, 0, 63, 0, false, 0⟩] }
     s.blocked 2 8 (.slot 0) = false ∧ s.sfGet 2 8 = some ⟨8, 0, 0, 0, 63, 0, false, 0⟩) ∧
    (((asks .prefetch false).modHolder 0 fun h => { h with pfReqs := [⟨8, 0⟩] }).holder 0).pfReqs.any (fun r => r.line = 8) =
      true ∧
    (asks .readOwn true).outReq (.slot 0) 8 = some ⟨.slot 0, 8, .readOwn, 0, false, true, false, false, false⟩ := by
  and_intros <;> decide +kernel

/-- CT0's channels run. -/
def dram (s : State) : State := (((s.modChan 0 fun c => { c with st := .active }).modChan 1 fun c => { c with st := .active }).modChan
  2 fun c => { c with st := .active }).modChan 3 fun c => { c with st := .active }

/-- Slice 2 serves line 8 for slot 5, having snooped slot 0. -/
def snooped (k : ReqKind) (m : SnoopMsg) : State :=
  (heldBy live .m).modSlice 2 fun x => { x with
    txns := [⟨8, .slot 5, k, [m], .s, false, none, none⟩], sf := [⟨8, 0, 1, 0, 63, 0, true, 0⟩] }

theorem witness_SnoopsAndCompletion :
    (let s := snooped .readShared ⟨0, .share, false, none, false⟩
     s.homeSlice 8 = some 2 ∧ (s.txnAt 2 8).isSome = true ∧ (s.holder 0).evict = [] ∧ (s.holder 0).find 8 = some (held .m) ∧
      s.holdOn 0 8 = false ∧ s.place (lineAddr 8) = .dram 0 0x400 ∧ s.outStruck 0 = false ∧ s.cacheErr 0 8 = false ∧
      s.homeWaits 8 = false ∧ (dram s).chanIssues ((dram s).chanOf 0 0x400) = true) ∧
    ((live.holder 0).stateOf 8 = none) ∧
    (let m : SnoopMsg := ⟨0, .share, false, some (.data, some .m), false⟩
     ((snooped .readOwn m).slice 2).txns.map (·.snoops) = [[m]] ∧ (snooped .readOwn m).txnAt 2 8 ≠ none) ∧
    (let m : SnoopMsg := ⟨0, .inv, false, some (.held, none), false⟩
     ((snooped .readOwn m).slice 2).txns.all (fun x => decide (x.backInv ≠ some 8)) = true) ∧
    (let t : Txn := ⟨8, .slot 5, .readOwn, [], .m, true, none, none⟩
     let s := live.modSlice 2 fun x => { x with txns := [t], sf := [⟨8, 0, 0, 0, 63, 0, true, 0⟩] }
     s.txnAt 2 8 = some t ∧ t.delivered = true ∧ (s.sfGet 2 8).isSome = true) := by
  and_intros <;> decide +kernel

theorem witness_EvictionsAndAgents :
    (let s := live.modHolder 0 fun h => { h with evict := [held .m] }
     s.homeSlice 8 = some 2 ∧ s.homeLive (lineAddr 8) = true ∧ s.outStruck 0 = false ∧ s.fillWaits 8 (s.slotWays 0 0) = false ∧
      s.cacheErr 0 8 = false ∧ s.homeWaits 8 = false ∧ ((s.holder 0).evict.find? fun c => c.line = 8 && (c.st == .m || c.st == .o)) = some (held .m)) ∧
    (let s := live.modHolder 0 fun h => { h with evict := [held .e] }
     ((s.holder 0).evict.find? fun c => c.line = 8 && (c.st == .e || c.st == .s)) = some (held .e) ∧ s.blocked 2 8 (.slot 0) = false) ∧
    (let v : Victim := ⟨⟨8, 0, true, false, 0, 0⟩, ⟨9, 0, false, false, 0, 0⟩⟩
     let s := (dram live).modSlice 2 fun x => { x with victims := [v] }
     (s.slice 2).victims = [v] ∧ s.place (lineAddr v.old.line) = .dram 0 0x400 ∧ s.chanIssues (s.chanOf 0 0x400) = true) ∧
    (let s := dram live
     s.ringsRun = true ∧ s.outReqs = [] ∧ s.fwPass .keeper 0x400 8 needR = true ∧ s.memReachable 0x400 = true ∧
      s.homeSlice (lineOfAddr 0x400) = some 2 ∧ s.homesServe (s.requester .keeper) .keeper [⟨0x400, 8, .peek⟩] = true ∧
      s.homesServe (s.requester .keeper) .keeper [⟨0x400, 128, .invWrite⟩] = true ∧ (s.slice 2).errs = [] ∧ s.slotsWith 8 = [] ∧
      s.place (lineAddr 8) = .dram 0 0x400 ∧ s.chanIssues (s.chanOf 0 0x400) = true ∧
      (List.replicate 128 (0 : Byte)).length = 128) ∧
    (let s := under rich .run
     s.ringsRun = true ∧ s.memReachable 0x400 = false) ∧
    ((live.lc 0).host = some 0 ∧ live.lcRuns 0 = true ∧
      ((live.modHolder 0 fun h => { h with trained := [8] }).holder 0).trained = [8] ∧ (live.place (lineAddr 9)).isMemory = true ∧
      live.fwPass (.core 0) (lineAddr 9) 128 needR = true ∧ (live.holder 0).holds 9 = false ∧ (live.holder 0).pfReqs = [] ∧
      (8 : LineNo).toNat / 32 = (9 : LineNo).toNat / 32) ∧
    (let t : Txn := ⟨9, .slot 0, .prefetch, [], .s, false, none, none⟩
     let s := (live.modHolder 0 fun h => { h with pfReqs := [⟨9, 3⟩] })
     let h := (s.homeSlice 9).getD 0
     (s.modSlice h.val fun x => { x with txns := [t] }).txn 9 = some t ∧ t.ready = true ∧
      ((s.holder 0).pfReqs.find? fun r => r.line = 9) = some ⟨9, 3⟩ ∧ (s.holder 0).evict = [] ∧ s.homeLive (lineAddr 9) = true) ∧
    (let s := live.modCt 0 fun c => { c with reclaims := [3], brlog := [5] }
     (s.ct 0).reclaims = [3] ∧ s.tileLive 1 = true ∧ s.admits .keeper (CsReg.cohBrlog 0).addr needR true = true ∧
      (s.ct 0).brlog = [5]) ∧ (live.ct 0).brlog = [] := by
  and_intros <;> decide +kernel

/-- A maintenance operation CLEAN of lines 8 and 9 of slice 2. -/
def maintOp (todo : List LineNo) : MaintOp := ⟨1, false, 8, 9, 2, 17, false, 0, todo, [], false⟩

theorem witness_MaintenanceOperations :
    (let s := (live.setReg (.maintFirst 2) 8).setReg (.maintLast 2) 9
     s.admits .keeper (CsReg.maintCtl 2).addr needW true = true ∧ BitVec.ofNat 45 (s.reg (.maintFirst 2)).toNat = 8 ∧
      BitVec.ofNat 45 (s.reg (.maintLast 2)).toNat = 9 ∧ s.maintBusy 2 = false ∧ s.runOrQuiesce = true ∧
      s.maintGranted .keeper 8 9 = true) ∧
    ((under rich .load).admits .keeper (CsReg.maintCtl 2).addr needW true = true ∧
      (under rich .load).maintBusy 2 = false ∧ (under rich .load).runOrQuiesce = false) ∧
    (let s := live.modSlice 2 fun x => { x with maint := some (maintOp [8]) }
     s.maintBusy 2 = true ∧ (s.slice 2).maint = some (maintOp [8]) ∧ s.outReqs = [] ∧
      s.blocked 2 8 (.agent (BitVec.ofNat 16 (maintSrc 2))) = false ∧ s.slotsWith 8 = [] ∧ (8 : LineNo) ∈ (maintOp [8]).todo) ∧
    ((maintOp []).todo = [] ∧ (maintOp []).finished = false) := by
  and_intros <;> decide +kernel

theorem witness_DramControllers :
    (let s := dram live
     s.onChannel 3 8 = some (0, 0x400) ∧ (s.map 0).stripe = false ∧ s.chanOf 0 0x400 = 3 ∧ (s.chan 3).issues = true ∧
      (s.chan 3).writeQ = [] ∧ (s.chan 3).errlog = [] ∧ s.admits .keeper (CsReg.mcErrlog0 3).addr needR true = true) ∧
    (let s := (dram live).modChan 3 fun c => { c with st := .selfRefresh }
     (s.chan 3).issues = false ∧ (s.chan 3).st ≠ .failed ∧ (s.chan 3).readQ.length < 96 ∧ (s.chan 3).writeQ.length < 64) ∧
    (((dram live).modChan 3 fun c => { c with sr := .entering }).chan 3).sr = .entering ∧
    (((dram live).modChan 3 fun c => { c with sr := .exiting }).chan 3).sr = .exiting ∧
    (((dram live).modChan 3 fun c => { c with caWrite := some ⟨8, fullMask, 0, false, true, .ok⟩ }).chan 3).caWrite =
      some ⟨8, fullMask, 0, false, true, .ok⟩ ∧
    (((dram live).modChan 3 fun c => { c with st := .training }).chan 3).st = .training ∧
    (let d : Dimm := ⟨1, 1, 0, 1, 0, 16, true, 32, 64⟩
     let s := keeper (fun k => { k with mode := .hold }) ((dram live).modChan 3 fun c =>
       { c with dimm := some d, neighbours := [(5, [7])], raa := [(5, 40)] })
     (s.chan 3).dimm = some d ∧ s.rfmOn 3 = true ∧ d.raaimt ≤ Table.get 0 (s.chan 3).raa 5 ∧ s.mode = .hold ∧
      Table.get [] (s.chan 3).neighbours 5 = [7] ∧ (s.chan 3).issues = true) ∧
    (((dram live).modChan 3 fun c => { c with st := .selfRefresh, readQ := [8] }).chan 3).readQ ≠ [] ∧
    (((dram live).modChan 3 fun c => { c with errlog := [(1, 2)] }).chan 3).errlog = [(1, 2)] ∧
    (let s := dram (keeper (fun k => { k with mode := .compose }) live)
     s.mode = .compose ∧ (s.chan 3).st = .active ∧ (s.chan 3).zeroed = false) := by
  and_intros <;> decide +kernel
/-! ### Witnesses: queues, channel subsystem, ports -/

/-- In QUIESCE. -/
def quiesced (s : State) : State := keeper (fun k => { k with mode := .quiesce }) s
def qword : QWord := ⟨5, 0x80, false⟩

theorem witness_QueueProducers :
    (live.admits .keeper (CsReg.qmEnq 0 1).addr needW (live.holdsRes .keeper 7 0) = true ∧ live.qEnabled 0 = false ∧
      live.admits (.core 0) (CsReg.qmMark 0).addr needW (live.holdsRes (.core 0) 7 0) = true ∧
      live.admits .keeper (CsReg.qmQcfg 0).addr needW (live.holdsRes .keeper 7 0) = true ∧
      live.admits .keeper (CsReg.qmQctl 0).addr needW (live.holdsRes .keeper 7 0) = true ∧
      (BitVec.ofNat 64 (2 ^ 63 + 4 * 2 ^ 56) : Word).getLsbD 63 = true ∧
      bits (BitVec.ofNat 64 (2 ^ 63 + 4 * 2 ^ 56)) 60 56 = 4 ∧ (0 : Word).getLsbD 63 = false ∧
      (BitVec.ofNat 64 (2 ^ 63 + 3 * 2 ^ 56) : Word).getLsbD 63 = true ∧ bits (BitVec.ofNat 64 (2 ^ 63 + 3 * 2 ^ 56)) 60 56 < 4 ∧
      live.qSpillOk 0 (BitVec.ofNat 64 (2 ^ 63 + 9 * 2 ^ 56 + 1)) = false) ∧
    (let v : Word := BitVec.ofNat 64 (2 ^ 63 + 9 * 2 ^ 56 + 0x20000000)
     live.qSpillOk 0 v = true ∧ 4 < bits v 60 56 ∧ bits v 60 56 ≤ 24) ∧
    (let s := qOn id
     s.qEnabled 0 = true ∧ s.mode ≠ .quiesce ∧ (s.queue 0).aborted = [] ∧ (s.queue 0).opener = none ∧
      (s.queue 0).held = [] ∧ s.qFull 0 = false ∧
      s.admits .keeper (CsReg.qmOpen 0).addr needW (s.holdsRes .keeper 7 0) = true ∧
      s.admits .keeper (CsReg.qmClose 0).addr needW (s.holdsRes .keeper 7 0) = true) ∧
    (quiesced (qOn id)).mode = .quiesce ∧
    (let s := qOn fun x => { x with words := List.replicate 16 qword }
     s.qFull 0 = true ∧ s.qOvertop 0 = false) ∧
    ((qOn fun x => { x with opener := some (.keeper, 0) }).queue 0).opener = some (.keeper, 0) ∧
    (let w : HeldWrite := ⟨.core 0, .enq 1, 7, false⟩
     let s := qOn fun x => { x with held := [w] }
     (s.queue 0).held = [w] ∧ s.qBlocked 0 w true = false) := by
  and_intros <;> decide +kernel

/-- Queue DMA channel 0 of IT0 runs on queue 0. -/
def dmaOn (drain : Bool) (f : QSt → QSt) : State :=
  { qOn f with qdma := [(0, ⟨true, drain, some 0, 0x1000, 4, false⟩)] }

/-- No basin holds an error. -/
def noErrs (s : State) : Bool := (List.finRange 24).all fun h => (s.slice h.val).errs == []

theorem witness_QueueConsumers :
    (live.admits .keeper (CsReg.qmDeq 0).addr needR (live.holdsRes .keeper 7 0) = true ∧ live.qEnabled 0 = false ∧
      (qOn id).admits .keeper (CsReg.qmDeq 0).addr needR ((qOn id).holdsRes .keeper 7 0) = true ∧
      (qOn id).admits .keeper (CsReg.qmRewind 0).addr needR ((qOn id).holdsRes .keeper 7 0) = true ∧
      (qOn id).qEnabled 0 = true ∧ (qOn id).mode ≠ .quiesce ∧ ((qOn id).queue 0).words = [] ∧
      ((qOn id).queue 0).mark = false ∧ ((qOn id).queue 0).markLost = false ∧ (quiesced (qOn id)).qEnabled 0 = true) ∧
    (let s := qOn fun x => { x with words := [qword], retained := [qword], mark := true }
     (s.queue 0).words = [qword] ∧ (s.queue 0).opener = none ∧ qword.spilled = false ∧ (s.queue 0).mark = true ∧
      (s.queue 0).retained = [qword]) ∧
    (let s := qOn id
     let v : Word := BitVec.ofNat 64 (4 * 2 ^ 40 + 3)
     s.admits .keeper (CsReg.qmDmactl 0).addr needW true = true ∧ 0 / 16 * 8192 + bits v 34 22 = 0 ∧ v.getLsbD 0 = true ∧
      (s.dma 0).busy = false ∧ s.qdmaPolder 0 = decide (s.queueOwner 0 = some 16 ∨ s.queueOwner 0 = none) ∧
      bits v 63 40 ≠ 0 ∧ s.fld (.qmDmaaddr 0) 51 0 % 16 = 0) ∧
    (let s := dmaOn true fun x => { x with words := [qword] }
     (s.dma 0).busy = true ∧ s.mastersStart = true ∧ (s.dma 0).frozen = false ∧ (s.dma 0).queue = some 0 ∧
      s.fwPass (.qdma 0) 0x1000 16 needW = true ∧ (s.queue 0).words = [qword] ∧ s.qEnabled 0 = true ∧ (s.queue 0).opener = none ∧
      s.homesServe (s.requester (.qdma 0)) (.qdma 0) [⟨0x1000, 16, .invWrite⟩] = true) ∧
    (let s := dmaOn false id
     s.fwPass (.qdma 0) 0x1000 16 needR = true ∧ (s.peek 0x1000 16).map (·.2) = some false ∧ (s.queue 0).held = [] ∧
      (s.queue 0).aborted = [] ∧ s.qFull 0 = false ∧ noErrs s = true ∧
      s.homesServe (s.requester (.qdma 0)) (.qdma 0) [⟨0x1000, 16, .peek⟩] = true) := by
  and_intros <;> decide +kernel

/-- A running list on path 0, its order at 0x1000. -/
def listing (f : ScSt → ScSt) : State := chan fun x => f { x with
  st := .running, active := some 0, holder := some 0, nextOrder := 0x1000, listOpen := true,
  start := some ⟨0x1000, 0x2000, 0, false, 0, 0⟩ }
/-- The exchange of that order: READ of 4 bytes to 0x3000. -/
def exch : Exchange := ⟨0, 0x1000, 1, 0, 0, 4, [(0x3000, 4)], false, false, 0, false, false, none⟩
/-- In a state with that exchange. -/
def exchanging (e : Exchange) : State := listing fun x => { x with exch := some e }
/-- The order READ, direct, 4 bytes to 0x3000, at 0x1000. -/
def orderMem : List Host.Cell := [(0x1000, 1), (0x1001, 4), (0x1004, 4), (0x1009, 0x30)]

/-- The frame is the oldest that port 0 has accepted. -/
def received (f : Frame) (s : State) : State := s.modPort 0 fun x => { x with rxQueue := [f] }
/-- The home slices serve what the frame stores. -/
def serves (s : State) (f : Frame) : Bool := match s.dataReach 0 f with
  | some (e, ps) => s.homesServe (s.requester (.pathEngine e)) (.pathEngine e) (puts ps)
  | none => true

theorem witness_SubchannelsAndFrames :
    (let s := (chan id).setReg (.scCfg 0) 0
     let v : Word := BitVec.ofNat 64 (2 ^ 63 + 2 ^ 56 + 2 ^ 16)
     s.admits .keeper (CsReg.scCfg 0).addr needW (s.holdsRes .keeper 5 0) = true ∧ s.scEnabled 0 = false ∧
      v.getLsbD 63 = true ∧ s.scCfgOk 0 v = true ∧ s.scCfgOk 0 (BitVec.ofNat 64 (2 ^ 63)) = false ∧
      s.admits .keeper (CsReg.scStart 0).addr needW (s.holdsRes .keeper 5 0) = true ∧ s.runOrQuiesce = true) ∧
    ((under rich .load).admits .keeper (CsReg.scStart 0).addr needW true = true ∧ (under rich .load).runOrQuiesce = false) ∧
    (let s := chan id
     s.scEnabled 0 = true ∧ (s.sc 0).st = .idle ∧ s.admits .keeper (CsReg.scCtl 0).addr needW (s.holdsRes .keeper 5 0) = true ∧
      (s.sc 0).busy = false) ∧
    ((chan id).readStart 0 0x1000).isSome = true ∧ noErrs (chan id) = true ∧
    (let s := chan id
     s.homesServe (s.requester (s.scWriter 0)) (s.scWriter 0) (s.startReach 0 0x1000) = true) ∧
    (({ chan id with mem := [(0x1000, 1)] } : State).readStart 0 0x1000) = none ∧
    (let s := { listing id with mem := orderMem }
     let x := s.sc 0
     x.active = some 0 ∧ x.holder = some 0 ∧ s.scPort 0 0 = some 0 ∧ x.st = .running ∧ x.exch = none ∧ x.sent = none ∧
      x.post = none ∧ x.handoverTo = none ∧ s.scPe 0 0 = some 0 ∧ s.peStarts 0 = true ∧ s.pathUp 0 0 = true ∧
      s.creditLeft 0 = true ∧ s.peTurn 0 0 = true ∧ noErrs s = true ∧
      s.homesServe (s.requester (.pathEngine 0)) (.pathEngine 0) (s.orderReach 0 x.nextOrder.toNat) = true ∧ x.needEstablish = false ∧ x.nextOrder.toNat % 32 = 0 ∧
      (match s.engineRead 0 0x1000 32 with
       | .inl bs => orderOk bs && isExchange (leAt bs 0 1) && (match s.orderElems 0 bs with
          | .inl es => (pieces es 0 4).all fun q => s.fwRange (.pathEngine 0) q.1 q.2 needW
          | .inr _ => false)
       | .inr _ => false) = true) ∧
    ((listing fun x => { x with needEstablish := true }).sc 0).needEstablish = true ∧ (0x1001 : Nat) % 32 ≠ 0 ∧
    (let s : State := { (listing id).modSc 1 fun x => { x with exch := some exch } with
       loader := { live.loader with running := some ⟨[], { rich with qos := List.replicate 66 (BitVec.ofNat 64 (2 ^ 32)) }, 0⟩ } }
     let u := s.setReg (.scCfg 1) (s.reg (.scCfg 0))
     u.creditLeft 0 = false) ∧
    (let s := received (frame 4 0 [1, 2, 3, 4]) (exchanging exch)
     (s.port 0).rxQueue.head? = some (frame 4 0 [1, 2, 3, 4]) ∧ serves s (frame 4 0 [1, 2, 3, 4]) = true ∧
      s.frameExch 0 (frame 4 0 [1, 2, 3, 4]) = some (0, exch) ∧ frameReserved (frame 4 0 [1, 2, 3, 4]) = false ∧
      frameReserved { frame 4 0 [] with rsvd := 1 } = true ∧ (s.sc 0).st = .running ∧ (s.sc 0).clearing = false ∧
      (s.sc 0).exch.isSome = true ∧ (s.sc 0).busy = true ∧ (s.sc 0).post = none ∧ exch.received + 4 ≤ exch.count ∧
      ((pieces exch.elems 0 4).all fun q => s.fwRange (.pathEngine 0) q.1 q.2 needW && s.rangeReachable q.1 q.2) = true) ∧
    (let s := received (frame 5 (4 * 2 ^ 16) []) (exchanging { exch with received := 4 })
     serves s (frame 5 (4 * 2 ^ 16) []) = true ∧ (frame 5 (4 * 2 ^ 16) []).param.toNat / 2 ^ 16 = 4 ∧ (s.pe 0).frozen = false ∧
      (s.frameExch 0 (frame 5 (4 * 2 ^ 16) [])).isSome = true ∧ endCode false { exch with received := 4 } 0 0 = none) ∧
    (let s := exchanging { exch with establishing := true }
     s.scSeq 0 = 0 ∧ (s.frameExch 0 (frame 6 0 [])).isSome = true) := by
  and_intros <;> decide +kernel

theorem witness_ClaimsAndPaths :
    (let s := chan fun x => { x with asking := some 0 }
     (s.sc 0).asking = some 0 ∧ (s.sc 0).revoking = false ∧ (s.sc 0).holder = none) ∧
    (let s := chan fun x => { x with asking := some 0, holder := some 1 }
     (s.sc 0).holder = some 1 ∧ s.peGone 1 = false) ∧
    ((chan fun x => { x with asking := some 0, revoking := true, holder := some 1 }).sc 0).revoking = true ∧
    (let r : MirrorRec := ⟨0, 1, 0, 0, 0, 0, 0, 0, 0, 0, 0⟩
     let s := listing fun x => { x with standby := some 0, sent := some r }
     (s.sc 0).sent = some r ∧ (s.sc 0).standby = some 0 ∧ s.itLive (s.pathTile 0 0) = true ∧ (s.sc 0).beatFrozen = false ∧
      s.pathUsable 0 0 = true) ∧
    ((listing fun x => { x with stored := true }).sc 0).stored = true ∧
    ((listing fun x => { x with handoverTo := some (0, false) }).sc 0).asking = none ∧
    (exchanging exch).fld (.scLimits 0) 23 16 ≠ 0 ∧
    (let s := listing fun x => { x with holdoff := 1 }
     (s.sc 0).holdoff.getLsbD 0 = true ∧ s.pathUp 0 0 = true) ∧
    (let s := listing fun x => { x with post := some (0, false) }
     (s.sc 0).start.isSome = true ∧ (s.sc 0).listOpen = true ∧ (s.sc 0).post = some (0, false) ∧ s.runOrQuiesce = true ∧
      s.homesServe (s.requester (s.scWriter 0)) (s.scWriter 0) (s.statusReach 0) = true) ∧
    (let s := listing fun x => { x with st := .parked, parkCause := 1 }
     (s.sc 0).st = .parked ∧ (s.sc 0).parkCause = 1 ∧ (s.sc 0).start.isSome = true ∧ (s.sc 0).listOpen = true ∧
      s.homesServe (s.requester (s.scWriter 0)) (s.scWriter 0) (s.statusReach 0) = true) ∧
    (live.pe 0).failed = false ∧ live.mirrorUp.getLsbD 0 = false ∧ ({ live with mirrorUp := 1 } : State).mirrorUp.getLsbD 0 = true := by
  and_intros <;> decide +kernel

/-- Port 0 in a training state, and ACTIVE with a frame unacknowledged, sent `k` times. -/
def training (t : Training) : State := live.modPort 0 fun x => { x with st := .training, train := t }
def unacked (k : Nat) : State := live.modPort 0 fun x =>
  { x with st := .active, unacked := [(frame 0 0 [], k)], ackOwed := true }

theorem witness_LyvanLinks :
    [Training.reset, .detect, .equalize, .align, .ident, .waiting].all (fun t => (training t).inTraining 0 t) = true ∧
    (let s := training .ident
     let f := frame 0x12 (s.identParam 0) []
     f.type = 0x12 ∧ bits f.param 15 8 = s.portProto 0 ∧ bits f.param 19 16 = s.portWidth 0 ∧
      bits (frame 0x12 0 []).param 15 8 ≠ s.portProto 0 ∧ (s.port 0).st = .training ∧ s.isLyvanPort 0 = true) ∧
    (let s := unacked 1
     s.lyvanActive 0 = true ∧ (s.port 0).unacked = [(frame 0 0 [], 1)] ∧ (s.port 0).ackOwed = true ∧
      (frame 0 0 []).lseq = (s.port 0).rxNext) ∧
    ((unacked 8).port 0).unacked = [(frame 0 0 [], 8)] ∧
    (((unacked 8).takeAck 0 { frame 0x11 0 [] with ackSeq := 0xFFFF }).port 0).unacked = [(frame 0 0 [], 8)] ∧
    (let s := { under { rich with ports := [BitVec.ofNat 64 (0x22 * 2 ^ 14 + 2 * 2 ^ 10)] } .run with
        ports := [(0, { PortSt.init with st := .active })] }
     s.lyvanActive 0 = true ∧ s.portProto 0 ≠ 0x21) ∧
    (live.admits .keeper (CsReg.portCtl 0).addr needW (live.holdsRes .keeper 6 0) = true ∧ live.runOrQuiesce = true) ∧
    (under rich .load).admits .keeper (CsReg.portCtl 0).addr needW true = true ∧
    (live.modPort 0 fun x => { x with st := .disabled }).portUnpowered 0 = false ∧
    (let x := (live.modPort 0 fun x => { x with st := .contained }).port 0
     x.st = .contained ∧ x.causeFw = false ∧ x.deadUntilCompose = false) := by
  and_intros <;> decide +kernel

/-- Port 16 (PCI Express) or 32 (CXL) in a state. -/
def pcie (st : PortState) : State :=
  (live.modPort 16 fun x => { x with st := st }).modPort 32 fun x => { x with st := st }
/-- The first address of port 16's memory window, and of its doorbell. -/
def pcieAt : Word := BitVec.ofNat 64 (0xF000000000000 + 16 * 0x4000000000)
def bellAt : Word := BitVec.ofNat 64 (0xF800000000000 + 16 * 0x10000)

theorem witness_PcieAndCxlPorts :
    (let s := pcie .active
     (s.port 16).st = .active ∧ s.isPciPort 16 = true ∧ (s.port 16).inboundHeld = false ∧
      State.inDoorbells bellAt.toNat = true ∧ State.inDoorbells 0x1000 = false ∧
      s.portMayAccess 16 0x1000 8 needR = true ∧ s.rangeReachable 0x1000 8 = true ∧ s.portMayAccess 16 0x1000 8 needW = true ∧
      noErrs s = true ∧ s.homesServe (s.requester (.port 16)) (.port 16) [⟨0x1000, 8, .peek⟩] = true ∧
      s.homesServe (s.requester (.port 16)) (.port 16) [⟨0x1000, 8, .invWrite⟩] = true ∧
      s.doorbell bellAt.toNat = some 16 ∧ s.doorbell 0x1000 ≠ some 16 ∧ s.pcieWindow pcieAt.toNat = some 16 ∧
      s.clear 0 = true) ∧
    (let s := { under rich .run with ports := (pcie .active).ports }
     (s.port 16).st = .active ∧ s.isPciPort 16 = true ∧ s.portMayAccess 16 0x1000 8 needR = true ∧
      s.portMayAccess 16 0x1000 8 needW = true ∧ s.rangeReachable 0x1000 8 = false) ∧
    (live.admits .keeper (CsReg.portCfgdata 16).addr needR (live.holdsRes .keeper 6 16) = true ∧
      live.admits .keeper (CsReg.portCfgdata 16).addr needW (live.holdsRes .keeper 6 16) = true) ∧
    (let s := pcie .training
     (s.port 16).st = .training ∧ isPcie (s.portProto 16) = true ∧ (1 : BitVec 4).toNat ≤ s.portWidth 16 ∧
      (5 : BitVec 4).toNat ≤ pcieTop (s.portProto 16) ∧ (s.port 32).st = .training ∧ isCxl (s.portProto 32) = true) := by
  and_intros <;> decide +kernel
/-! ### Witnesses: engines, worlds, interrupts, cuts, resets, faults, pins -/

/-- Engine CMP of CT0 with a deficit for P0; a request block at 0x1000 that has ended with status 0x10. -/
def engineOn (s : State) : State :=
  { s with accs := [(0, { AccSt.init with deficit := [(0, 5)] })], mem := [(0x1002, 0x10)] }
/-- LC0's CMPX slot names that block; context CMP.0 of CT0 runs on it with RQ and CQ queue 0. -/
def slotRuns : State := (engineOn live).setAslot 0 ⟨true, 0x1000, false, none, []⟩
def ctxOn (st : CtxState) : State :=
  ((engineOn (qOn id)).setReg (.ctxcfg ⟨false, 0, 0⟩) (BitVec.ofNat 64 (2 ^ 63))).setCtx 0 ⟨st, 0x1000, 0, none, 0⟩

theorem witness_EnginesAndContexts :
    (let s := slotRuns
     s.chunkOf (.slot false 0) = some (⟨false, 0⟩, 0x1000) ∧ s.chunkRuns (.slot false 0) = true ∧ s.accOn ⟨false, 0⟩ = true ∧
      0 < Table.get 0 (s.acc 0).deficit (s.chunkOwner (.slot false 0)) ∧
      (match (s.chunk (.slot false 0) false 0 0x1000 (s.handed (.slot false 0))).2 with
       | .frozen _ | .waits => false | _ => true) = true) ∧
    (let s := ctxOn .running
     let m := Master.acc ⟨false, 0, 0⟩
     let v := (s.chunk m false 0 0x1000 (s.handed m)).1
     s.chunkOf m = some (⟨false, 0⟩, 0x1000) ∧ (s.chunk m false 0 0x1000 (s.handed m)).2 = .ended 0x10 ∧ s.chunkRuns m = true ∧
      v.ctxCq ⟨false, 0, 0⟩ = some 0 ∧ v.qEnabled 0 = true ∧
      v.qBlocked 0 ⟨m, .enq 0, BitVec.ofNat 64 (0x10 * 2 ^ 56 + 0x1000), false⟩ false = false ∧
      (v.ctx 0).st ≠ .frozen ∧ v.ctxEnabled ⟨false, 0, 0⟩ = true ∧ v.mode ≠ .quiesce) ∧
    (let s := ctxOn .idle
     s.admits .keeper (CsReg.ctxcfg ⟨false, 0, 0⟩).addr needW (s.ctxAccessOk .keeper ⟨false, 0, 0⟩) = true ∧
      (s.ctx 0).st = .idle) ∧
    ((ctxOn .running).admits .keeper (CsReg.ctxcfg ⟨false, 0, 0⟩).addr needW true = true ∧ ((ctxOn .running).ctx 0).st = .running) ∧
    (let s := (qOn fun x => x).setReg (.qmQcfg 1) (BitVec.ofNat 64 (2 ^ 63 + 4 * 2 ^ 56))
     let v : Word := BitVec.ofNat 64 (2 ^ 63 + 2 ^ 32)
     bits v 14 0 = 0 ∧ bits v 46 32 = 1 ∧ s.queueOwner 0 = some 0 ∧ s.queueOwner 1 = some 0 ∧ (s.ctx 0).st = .disabled ∧
      s.qEnabled 0 = true ∧ s.qEnabled 1 = true ∧ s.qOvertop 1 = false ∧ s.ctxPolder ⟨false, 0, 0⟩ = false ∧
      live.qEnabled 0 = false) ∧
    (let w : QWord := ⟨0x1000, 0x80, false⟩
     let s := (ctxOn .idle).modQueue 0 fun x => { x with words := [w] }
     s.ctxRq ⟨false, 0, 0⟩ = some 0 ∧ s.mastersStart = true ∧ s.ctxEnabled ⟨false, 0, 0⟩ = true ∧ s.accOn ⟨false, 0⟩ = true ∧
      s.qEnabled 0 = true ∧ (s.queue 0).words = [w] ∧ w.isPoison = false ∧ w.data.toNat % 128 = 0 ∧
      w.data.toNat < 2 ^ 52 ∧ w.spilled = false ∧ (s.queue 0).opener = none) ∧
    live.admits .keeper (CsReg.cphKw 0 3).addr needW (live.privileged .keeper) = true ∧ live.qosImage 1 = some rich := by
  and_intros <;> decide +kernel

/-- The gateway at 0x10000000: a mark of gate 0, and its entry at 0x10001000, for callers of P0. -/
def gateMem : List Host.Cell :=
  [(0x10000001, 0x54), (0x10000002, 0xA9), (0x10000003, 0x7A), (0x10001000, 1), (0x10001007, 0x80)]
/-- LC0 with G1 at the mark, the gateway's code segment flat, one gate. -/
def atGate (f : LCore → LCore) : State :=
  { (memCore fun l => f { (l.wg 1 0x10000000) with gw := { Gateway.init with
      gwcsd0 := quadLo (flatDesc true), gwcsd1 := quadHi (flatDesc true), gatetab := 0x10001001,
      pintgate := 0x10000000 } }) with mem := gateMem }
/-- A message of class IR_SEND, and a state whose table routes it to LC0. -/
def irq : IrqMsg := ⟨0x07, 0, 0, false, 0, none⟩
def routing : State := { ((live.setReg (.irCtl 0) (BitVec.ofNat 64 (2 ^ 63))).setReg (.irClass 0 7) 0x2800) with
  mem := [(0x2007, 0x80)], irqs := [(1, [irq])], buckets := [(bucketKey irq, 3)] }

theorem witness_GatewayAndInterrupts :
    (let s := atGate id
     s.clear 0 = true ∧ pswPolder (s.lc 0).psw = false ∧
      (match s.gateSync 0 with
       | .ok u => decide (u.gateCheck 0 ((s.lc 0).rg 1).toNat false = .pass 0 0 ∧ u.gateCheck 0 0 false = .fail 3 2 0)
       | _ => false) = true) ∧
    (let s := core fun l => { l with psw := 9 }
     pswPolder (s.lc 0).psw = true ∧ s.clear 0 = true ∧ (s.lc 0).sluiceXFault = some 5) ∧
    ((core fun l => { l with psw := 9, gw := { l.gw with
        gatestat := BitVec.ofNat 64 (2 ^ 63), fscsd0 := quadLo (flatDesc false), fscsd1 := quadHi (flatDesc false) } }).lc 0).sluiceXFault = none ∧
    (let s := atGate fun l => { l with pendP := [(3, none)] }
     s.atBoundary (s.lc 0) = true ∧ (s.lc 0).pendP ≠ [] ∧ (s.lc 0).fpPend = false ∧ s.struck 0 = false ∧
      s.gateCheck 0 (s.lc 0).gw.pintgate.toNat true = .pass 0 0) ∧
    (let s := core fun l => { l with pendP := [(3, none)] }
     s.gateCheck 0 (s.lc 0).gw.pintgate.toNat true = .fail 1 2 0) ∧
    (let s := routing
     let r : Route := ⟨BitVec.ofNat 64 (2 ^ 63), 0⟩
     s.irqsAt 1 = [irq] ∧ s.mode.running = true ∧ s.tileLive 1 = true ∧ s.routeEntry irq = some r ∧ r.kind = false ∧ noErrs s = true ∧
      s.homesServe (.agent (BitVec.ofNat 16 (unitSrc 1 irq.owner))) .keeper (s.routeReach irq) = true ∧
      s.routeBad irq.owner irq.polder r = false ∧ r.rate = 0 ∧ s.routeBad irq.owner irq.polder ⟨BitVec.ofNat 64 (2 ^ 63 + 0xFF), 0⟩ = true ∧
      (List.range 9).all (fun k => (s.stormAt k).isEmpty) = true) ∧
    live.routeEntry irq = none ∧
    (let g := GateMsg.vector 0 3 6 0
     let s := core fun l => { l with gate := [g] }
     (s.lc 0).gate = [g] ∧ s.mode.running = true ∧ (s.lc 0).host.isSome = true) ∧
    (let s := core fun l => { l with psw := 0x100, pendS := [(3, some (6, 0))] }
     s.atBoundary (s.lc 0) = true ∧ (s.lc 0).nextSet = some (0, .s) ∧ (s.lc 0).pend 0 = [(3, some (6, 0))] ∧
      (s.lc 0).fpPend = false ∧ s.struck 0 = false) ∧
    (let s := core fun l => { l with gate := [.notify 512 3 6 0] }
     s.atBoundary (s.lc 0) = true ∧ (s.lc 0).gv = false) ∧
    (live.admits .keeper (CsReg.irSend 0).addr needW true = true ∧ live.mode.running = true ∧
      (let v : Word := BitVec.ofNat 64 (5 * 2 ^ 51)
       live.routeBad 0 (live.masterPolder .keeper) ⟨BitVec.ofNat 64 (2 ^ 63 + bits v 61 51 * 2 ^ 48 + bits v 7 0), 0⟩ = false) ∧
      live.routeBad 0 (live.masterPolder .keeper) ⟨BitVec.ofNat 64 (2 ^ 63 + 0xFF), 0⟩ = true) ∧
    ((under rich .load).admits .keeper (CsReg.irSend 0).addr needW true = true ∧ (under rich .load).mode.running = false) := by
  and_intros <;> decide +kernel

theorem witness_CutsAndParcelResets :
    ((under rich .load).admits .keeper (CsReg.pwrReq (.engine ⟨false, 0⟩)).addr needW true = true ∧
      (under rich .load).runOrQuiesce = false) ∧
    (live.admits .keeper (CsReg.pwrReq (.engine ⟨true, 0⟩)).addr needW true = true ∧ live.runOrQuiesce = true ∧
      live.cut (.engine ⟨true, 0⟩) = .on ∧ live.cutPermitted (.engine ⟨true, 0⟩) false = true ∧
      live.cutPermitted (.engine ⟨true, 0⟩) true = true ∧ live.privileged .keeper = true ∧
      live.cutPermitted (.quad 0) false = false) ∧
    (live.setCut (.engine ⟨true, 0⟩) .clockCut).cut (.engine ⟨true, 0⟩) = .clockCut ∧
    (let s := liveCore fun l => { l with gw := { l.gw with gatestat := BitVec.ofNat 64 (2 ^ 63) } }
     let u := CutUnit.core 0 0
     s.admits (.core 0) (CsReg.pwrReq u).addr needW true = true ∧ s.cut u = .on ∧ s.privileged (.core 0) = false ∧
      s.cutPermitted u false = true ∧ s.polderUses u false = true) ∧
    (let r : CutReq := ⟨.engine ⟨true, 0⟩, 1, 0, true⟩
     let s := { live with cutReqs := [r] }
     s.cutReqs = [r] ∧ s.admits .keeper CsReg.pwrRelq.addr needR true = true ∧
      s.admits .keeper CsReg.pwrRelease.addr needW true = true ∧
      (s.cutReqs.find? fun r => unitCode r.target = 3 && s.unitInst r.target = 0) = some r) ∧
    (live.parcelValid 0 = true ∧ live.admits .keeper (CsReg.prCtl 0).addr needW true = true ∧ (live.prst 0).step = 0 ∧
      (live.lc 0).host.isSome = true ∧ pswParcel (live.lc 0).psw = 0 ∧ (live.lc 0).stops.any = false ∧
      (live.lc 0).gw.gatestat.msb = false ∧ (chan id).portOwner 0 = some 0 ∧ ((chan id).port 0).st = .active) ∧
    (let s := liveCore fun l => { l with reqs := { l.reqs with reset := true },
                                         gw := { l.gw with gatestat := BitVec.ofNat 64 (2 ^ 63) } }
     s.prWaits 0 = true) ∧
    (let s := (liveCore fun l => { l with stops := { l.stops with reset := true } }).setPrst 0 ⟨1, false, false⟩
     (s.prst 0).step = 1 ∧ s.prFrozen 0 = true) ∧
    ((live.setPrst 0 ⟨3, false, false⟩).prst 0).step = 3 ∧ ((live.setPrst 0 ⟨7, false, false⟩).prst 0).step = 7 ∧
    (let s := liveCore fun l => { l with stops := { l.stops with start := true } }
     s.admits .keeper (CsReg.prStart 0).addr needW (s.privileged .keeper) = true ∧ 0 ∈ s.parcelLcs 0 ∧
      (s.lc 0).stops.start = true) := by
  and_intros <;> decide +kernel

/-- A fault message that waits at its source, under a policy of N = 2. -/
def msg : Quad := BitVec.ofNat 128 (6 * 2 ^ 104 + 2 ^ 101)
def faulty : State := { under { rich with policy := [0x0200] } .run with srcBufs := [(0, ⟨[msg], 0⟩)] }

theorem witness_FaultCollectors :
    (let s := faulty
     s.ringsRun = true ∧ (s.srcBuf 0).msgs = [msg] ∧ setLost msg 0 = msg ∧ s.policyOf (faultSrc msg) (faultKind msg) = (2, 0) ∧
      (s.now % 2 ^ 40 + 2 ^ 40 - faultTime msg) % 2 ^ 40 ≤ s.now ∧ (s.col 0).log.length < 1024 ∧ faultClass msg ≤ 4 ∧
      (s.col 0).counters = [] ∧ msg.getLsbD 8 = false) ∧
    (let c : Counter := ⟨0, 6, 2, 0, 0, 1⟩
     let s := faulty.modCol 0 fun x => { x with counters := [c] }
     (s.col 0).counters = [c] ∧ (1 + 1) % 2 = 0) ∧
    (let m := mkFault (srcId 0 0x0C 0) 6 clsSevere 0 0 0
     faultClass m ≠ clsContained ∧ ((faulty.modCol 0 fun x => { x with promoted := [m] }).col 0).promoted = [m]) ∧
    (let m := mkFault (srcId 1 0 1) 0x10 clsContained 0 0 0
     faultClass m = clsContained ∧ faultBlock m ≠ 0x3F ∧ faultKind m = 0x10 ∧ 48 * (faultTile m - 1) + faultInst m = (1 : Core).val) ∧
    (let m := mkFault (srcId 1 (accBlock false) 0) 0x38 clsContained 0 0 0
     faultClass m = clsContained ∧ faultKind m = 0x38 ∧ faultTile m = 1 ∧ faultBlock m = accBlock false ∧
      (live.acc 0).failed = false) ∧
    ((-441 : BitVec 12).toInt < -440 ∧ ¬(0 : BitVec 12).toInt < -440 ∧ 1000 < (1001 : BitVec 12).toInt ∧
      -424 ≤ (-424 : BitVec 12).toInt ∧ (984 : BitVec 12).toInt ≤ 984 ∧ (live.col 0).junction = false ∧ live.ringsRun = true) ∧
    ((live.modCol 0 fun x => { x with junction := true }).col 0).junction = true ∧
    ((live.col 1).stopped = false ∧ (1 : Tile) ≠ 0) ∧
    (live.admits .keeper (CsReg.fcLogHi 0).addr needR true = true ∧ (live.col 0).log = [] ∧
      ((live.modCol 0 fun x => { x with log := [msg] }).col 0).log = [msg]) ∧
    (live.admits .keeper (CsReg.fcInject 0).addr needW (live.privileged .keeper) = true ∧
      kindListed (bits (BitVec.ofNat 64 (6 * 2 ^ 56)) 63 56) = true ∧ kindListed (bits 0 63 56) = false) ∧
    (let s := live.setReg (.qmQcfg 0) (BitVec.ofNat 64 (2 ^ 63 + 2 ^ 62 + 4 * 2 ^ 56))
     let v : Word := BitVec.ofNat 64 (2 ^ 40)
     s.admits .keeper (CsReg.fcParcel 0 0).addr needW (s.privileged .keeper) = true ∧ bits v 14 0 = 0 ∧
      (s.qEnabled 0 && s.qOvertop 0 && s.queueOwner 0 == some 0 && bits v 44 40 ≠ 0) = true ∧
      (live.qEnabled 0 && live.qOvertop 0 && live.queueOwner 0 == some 0 && bits v 44 40 ≠ 0) = false) ∧
    live.admits .keeper (CsReg.fcStatus 0).addr needW (live.privileged .keeper) = true := by
  and_intros <;> decide +kernel

/-- Pin 0 configured. -/
def pinned (cfg stat : Nat) (x : PinSt) : State :=
  ((live.setReg (.pinCfg 0) (BitVec.ofNat 64 cfg)).setReg (.pinStat 0) (BitVec.ofNat 64 stat)).modPin 0 fun _ => x

theorem witness_PinsAndAlive :
    live.ringsRun = true ∧ ((pinned 1 0 ⟨true, 0, 0⟩).pin 0).active = true ∧
    (let s := pinned 0 0 PinSt.init
     (s.pin 0).active = false ∧ s.fld (.pinCfg 0) 0 0 = 0) ∧
    (let s := pinned 1 (2 ^ 62) PinSt.init
     s.fld (.pinCfg 0) 0 0 = 1 ∧ s.fld (.pinStat 0) 62 62 = 1) ∧
    (let s := pinned 1 0 PinSt.init
     s.fld (.pinStat 0) 62 62 = 0 ∧ s.fld (.pinCfg 0) 31 24 = 0) ∧
    (let s := pinned (2 ^ 24 + 1) 0 ⟨false, 0, 1⟩
     s.fld (.pinCfg 0) 31 24 ≠ 0 ∧ s.fld (.pinCfg 0) 31 24 ≤ (s.pinCount 0).2 ∧ (s.pin 0).active = false) ∧
    (let s := pinned 0x101 0 ⟨true, 0, 0⟩
     (s.pin 0).active = true ∧ s.fld (.pinCfg 0) 12 8 ≠ 0 ∧ s.fld (.pinStat 0) 62 62 = 0 ∧ s.ringsRun = true) ∧
    (live.admits .keeper (CsReg.pinStat 0).addr needW (live.privileged .keeper) = true) ∧
    (live.keeper.aliveStopped = false ∧ live.gravePresent = false ∧ live.runOrQuiesce = true ∧
      ¬live.keeper.aliveMult < live.now / 1000000) ∧
    (let s := { live with tb := { live.tb with ns := 2000000 } }
     s.keeper.aliveMult < s.now / 1000000) := by
  and_intros <;> decide +kernel
/-! ### Witnesses: management, JTAG, whole module -/

/-- A session of Polder (16) or a parcel, open, and a request of it that waits for the keeper. -/
def session (authority : Nat) : Sess := ⟨1, BitVec.ofNat 32 (authority * 2 ^ 27), .open, .mctp, [], [], [], 0, []⟩
def asking (x : Sess) (op : BitVec 16) (s : State) : State :=
  { s with mgmt := { s.mgmt with sessions := [x], queue := [⟨1, 7, op, []⟩], keysValid := true } }

theorem served (x : Sess) (op : BitVec 16) (s : State) (hm : s.mgmtOn = true) (hi : x.id = 1) (hr : x.responses = []) :
    (asking x op s).serving ⟨1, 7⟩ op.toNat x := by
  refine ⟨hm, ?_, ?_, _, rfl, rfl, rfl, rfl⟩
  · simp [State.sess, asking, hi]
  · simp [Sess.stored, hr]

/-- The running image lists a peer key of Polder; its world map leaves the flash to Foreland. -/
def peered : State := { live with loader := { live.loader with running := some ⟨[], { rich with
  keys := [⟨2, 1, BitVec.ofNat 32 (16 * 2 ^ 27), []⟩] }, 0⟩ } }

theorem witness_ManagementSessions :
    (live.mgmtOn = true ∧ live.mgmt.keysValid = false ∧ (asking (session 16) 1 peered).mgmtOn = true ∧
      (asking (session 16) 1 peered).mgmt.keysValid = true ∧ (asking (session 16) 1 peered).mgmt.sessions.length < 8 ∧
      peered.helloPhase (BitVec.ofNat 32 (16 * 2 ^ 27)) = some .challenged ∧ peered.helloPhase 5 = none) ∧
    (let s := asking (session 16) 1 peered
     s.sess 1 = some (session 16) ∧ (session 16).live = true ∧ (session 16).replayed 0 = false ∧
      ({ session 16 with seen := [5] } : Sess).replayed 5 = true ∧ ({ session 16 with phase := .challenged } : Sess).live = false ∧
      sameTransport .mctp .mctp = true ∧ (session 16).stored 7 = none ∧ 1 ∈ definedOps ∧ 0xFF ∉ definedOps ∧
      ({ session 16 with responses := [(7, 0, [])] } : Sess).stored 7 = some (7, 0, []) ∧
      (({ rich with keys := [⟨2, 1, BitVec.ofNat 32 (16 * 2 ^ 27), []⟩] } : Image).peerKey (session 16).keyId).isSome = true) ∧
    (live.mgmtOn = true ∧ (session 16).id = 1 ∧ (session 16).responses = [] ∧ (session 16).polder = true ∧
      (session 0).polder = false ∧ polderOrParcel (session 16) = true ∧ polderOrParcel (session 0) = true ∧
      polderOrParcel { session 16 with phase := .recovery } = false ∧
      live.csAllowed (session 16) CsReg.ksStatus.addr needR = true ∧ live.csAllowed (session 0) 0 needR = false) ∧
    (let v := (live.respond .keeper .error).csRead .keeper CsReg.ksWake.addr 8
     (match v.respOf .keeper with | some (.data _) => true | _ => false) = true) ∧
    ((live.respond .keeper .error).csRead .keeper (csBase + 9 * 2 ^ 32) 8).respOf .keeper = some .error ∧
    (let v := (live.respond .keeper .error).csWrite .keeper CsReg.ksWake.addr 8 0
     v.respOf .keeper ≠ some .error) := by
  and_intros <;> decide +kernel

/-- An open delivery of session 1 with one byte, and a flash with one byte written. -/
def delivering (s : State) : State := { s with loader := { s.loader with delivery := some ⟨1, [], 1⟩ } }

theorem witness_ManagementObjects :
    (polderOrRecovery (session 16) = true ∧ polderOrRecovery (session 0) = false ∧ live.loader.delivery = none ∧
      live.deliveryOpen = true ∧ (delivering live).loader.delivery = some ⟨1, [], 1⟩ ∧ (delivering live).deliveryOpen = true ∧
      5 + 2 ≤ imageLimit ∧ imageLimit < (0x2000000 : BitVec 32).toNat + 2 ∧ live.pendState ≠ 3 ∧ (live.setPend 3 0).pendState = 3 ∧
      (({ session 16 with phase := .recovery } : Sess).recovers = true) ∧ (session 16).recovers = false) ∧
    validate live.fuses none [0] ≠ 0 ∧
    (live.fuses.slots.get 1 = none ∧ State.reset.loader.running = none ∧
      (let f := { live.fuses with slots := (live.fuses.slots.set 1 (some 5)).set 0 none }
       f.matched 5 = true ∧ ({ f with revoked := bvPut f.revoked 2 true } : Fuses).matched 5 = true ∧
        ({ f with revoked := bvPut f.revoked 1 true } : Fuses).matched 5 = false)) ∧
    (live.flashAllowed (session 16) 0 = true ∧ live.flashAllowed (session 0) 0 = false ∧
      live.flashAllowed (session 0) 0x4000000 = true ∧ live.loaderReads 0 = false ∧ 0 % sectorSize + 1 ≤ sectorSize) ∧
    (let s := { live with mgmt := { live.mgmt with active := some 0, link := 3 } }
     s.mgmt.active = some 0 ∧ s.mgmt.link.getLsbD (otherMac 0).val = true ∧ s.macUsed 0 = true ∧ s.mgmtOn = true ∧
      (1 : Word) ∉ s.mgmt.prefixes) ∧
    ({ live with mgmt := { live.mgmt with link := 1 } } : State).mgmt.link.getLsbD (otherMac 0).val = false := by
  and_intros <;> decide +kernel

/-- Debug is unlocked for P0. -/
def unlocked (f : LCore → LCore) : State := (memCore f).setReg .dbgStatus (BitVec.ofNat 64 (2 ^ 63 + 2 ^ 32))

theorem witness_TapAndDebug :
    (State.reset.mode ≠ .off ∧ (mode .off).mode = .off ∧ State.reset.scanAllowed = true ∧ live.scanAllowed = false) ∧
    (live.unlocked = false ∧ (unlocked id).unlocked = true ∧ (unlocked id).mgmt.unlockEnd ≤ (unlocked id).now ∧
      ({ unlocked id with mgmt := { (unlocked id).mgmt with unlockEnd := 1 } } : State).now < 1) ∧
    (let s := unlocked id
     (s.unlocked && (s.lc 0).host.isSome && inScope s.debugScope (s.lc 0)) = true ∧ (s.lc 0).stops.debug = false ∧
      s.haltable (s.lc 0) = true ∧ s.haltable { (s.lc 0) with psw := 8 } = false) ∧
    (let s := unlocked fun l => { l with stops := { l.stops with debug := true } }
     (s.lc 0).stops.debug = true ∧ tapForm 0x400 8 = true ∧ s.fwPass (.core 0) 0x400 8 needR = true ∧
      s.fwPass (.core 0) 0x40000000 8 needR = false ∧
      (match (s.tapLoad .debug).readAt 0 0x400 8 false with | .ok _ => true | _ => false) = true) := by
  and_intros <;> decide +kernel

theorem witness_EveryStepKeepsMemoryFormFusesAndQueue :
    State.reset.memWf = true ∧ ({ live with mem := [(5, 1), (9, 2)] } : State).memWf = true := by
  and_intros <;> decide +kernel
/-! ### An image that validates -/

/-- Eight bytes of a word. -/
def le (n v : Nat) : List Byte := leBytes n v
/-- A directory entry with digest 0. -/
def dirEnt (t off len : Nat) : List Byte := le 8 t ++ le 4 off ++ le 4 len ++ List.replicate 64 0
/-- The header, the directory, the sections in order, and the signature block: one triple of P0 at CT0.G00, no grants,
one peer key of 97 bytes. -/
def imageBytes : List Byte :=
  le 4 0x414F4341 ++ le 2 4 ++ le 2 7 ++ le 8 1 ++ le 4 0 ++ le 4 0x000400C0 ++ le 4 (0x840 + 3328) ++ le 4 0x840 ++
  List.replicate 32 0 ++
  dirEnt 1 0x280 520 ++ dirEnt 2 0x4C0 32 ++ dirEnt 3 0x500 528 ++ dirEnt 4 0x740 8 ++ dirEnt 5 0x780 64 ++
  dirEnt 6 0x280 0 ++ dirEnt 7 0x7C0 120 ++ List.replicate 16 0 ++
  (le 8 0xFFFFFF0000 ++ (List.replicate 47 (le 8 0xFFFFFFFF03)).flatten ++ le 8 0xFF0001 ++ List.replicate 128 0) ++
  List.replicate 56 0 ++
  List.replicate 64 0 ++
  (List.replicate 16 0 ++ le 8 1 ++ le 8 0x0101000000000000 ++ List.replicate 480 0 ++ le 8 0x0001000100010001 ++
    le 8 0x0001000100010001) ++ List.replicate 48 0 ++
  le 8 0x000A0100 ++ List.replicate 56 0 ++
  List.replicate 64 0 ++
  (le 8 1 ++ le 1 2 ++ le 1 3 ++ le 2 97 ++ le 4 0x80000000 ++ List.replicate 104 0) ++ List.replicate 8 0 ++
  (List.replicate 1856 0 ++ le 2 1 ++ List.replicate 1470 0)

theorem imageBytes_length : imageBytes.length = 0x840 + 3328 := by decide +kernel

theorem witness_validate (h2 : ∀ b, Config.shake256 b = 0) (h5 : ∀ b, Config.shake512 b = 0)
    (hv : ∀ k m s, Config.falconVerify k m s = true) :
    validate { Fuses.init with slots := Fuses.init.slots.set 0 (some 0) } none imageBytes = 0 := by
  unfold validate readImage sigOk imgDigest
  simp only [h2, h5, hv]
  decide +kernel

/-! ### Well-formed commands: one refused term for each check -/

theorem wf_keeperBistDone : Instr.wf (.keeperBistDone true [(3, ⟨1, 1, 0, 1, 0, 16, true, 32, 64⟩), (3, ⟨1, 1, 0, 1, 0, 16, true, 32, 64⟩)]) = false := by decide
theorem wf_flashCopyValidated : Instr.wf (.flashCopyValidated [4, 4]) = false := by decide
theorem wf_imageEnd : Instr.wf (.imageEnd ⟨1, 1⟩ [4, 4]) = false := by decide
theorem wf_composeComplete : Instr.wf (.composeComplete [(1, 2), (1, 3)]) = false := by decide
theorem wf_logicalOperation : Instr.wf (.logicalOperation 0 .not 1 2 (.imm 3)) = false := by decide
theorem wf_load : Instr.wf (.load 0 .ldb (.index 1 2 3 0 false) .ok) = false ∧ Instr.wf (.load 0 .ldd (.index 1 2 3 0 true) .ok) = false ∧
    Instr.wf (.load 0 .ldd (.index 1 2 3 0 false) .ok) = true := by decide
theorem wf_store : Instr.wf (.store 0 .stqf (.index 1 2 3 0 false)) = false ∧ Instr.wf (.store 0 .stw (.index 1 2 3 0 true)) = true := by
  decide
theorem wf_peek : Instr.wf (.peek .keeper 0x7F 2 .ok) = false ∧ Instr.wf (.peek .keeper 0x7E 2 .ok) = true ∧
    Instr.wf (.peek .keeper 0 0 .ok) = false := by decide
theorem wf_invWrite : Instr.wf (.invWrite .keeper 0x7F [1, 2]) = false ∧ Instr.wf (.invWrite .keeper 0 []) = false := by decide
theorem wf_inbound : Instr.wf (.inboundMemoryRead 0 0 4097) = false ∧ Instr.wf (.inboundMemoryRead 0 0 4096) = true ∧
    Instr.wf (.inboundMemoryWrite 0 0 []) = false := by decide +kernel
theorem wf_frames : ([Instr.dataFrame 0 (frame 3 0 []), .endFrame 0 (frame 2 0 []), .establishedFrame 0 (frame 6 0 []),
    .staleClaim 0 (frame 5 0 []), .seqError 0 (frame 5 0 []), .notEstablished 0 (frame 5 0 []), .ident 0 (frame 0x11 0 []),
    .ack 0 (frame 0x11 0 []), .nak 0 (frame 0x10 0 []), .frameReceive 0 (frame 7 0 []) .good].any Instr.wf) = false := by decide
theorem wf_frame_length : Instr.wf (.dataFrame 0 (frame 2 0 (List.replicate 4097 0))) = false := by decide +kernel
theorem wf_mirrorRecord : Instr.wf (.mirrorRecord 0 ⟨0, 6, 0, 0, 0, 0, 0, 0, 0, 0, 0⟩ 0) = false := by decide
theorem wf_junctionSample : Instr.wf (.junctionSample 0 1 0) = false ∧ Instr.wf (.junctionSample 0 (-1) 0) = true := by decide
theorem wf_hello : Instr.wf (.hello .mctp 0 0 []) = false := by decide
theorem wf_tapMemoryAccess : Instr.wf (.tapMemoryAccess 0 0 3 none) = false ∧ Instr.wf (.tapMemoryAccess 0 0 8 none) = true := by decide
theorem wf_registerWrite : Instr.wf (.registerWrite .keeper 0 0 0) = false := by decide
theorem wf_pinEvent : Instr.wf (.pinEvent 0 0) = false := by decide

/-! ### Words and addresses of the manual's worked examples -/

/-- Chapters 4, 6, 7 and 16. -/
theorem test_words : encR 0x01 3 4 5 0 0 = 0x02321400 ∧ encMem 0x13 0 2 (.disp 7 2 24) = 0x26710018 ∧
    encR 0x3C 4 5 6 0 0 = 0x78429800 ∧ encFp .b64 1 2 3 7 2 = 0x64110CE2 ∧ encR 0x39 0 9 0 0 0 = 0x72048000 ∧
    encR 0x39 0 0 0 0 1 = 0x72000001 := by decide +kernel

/-- The two slots of the word 0x8864_D0A6, and the second replaced by ADD G3, G5 (chapter 4). -/
theorem test_pair : shortOf 0x0864 = ⟨2, 3, 4⟩ ∧ shortOf 0x50A6 = ⟨20, 5, 6⟩ ∧
    pairIllegal (shortOf 0x0864) (some (shortOf 0x50A6)) 0x50A6 = none ∧
    (pairIllegal (shortOf 0x0864) (some (shortOf 0x0865)) 0x0865).isSome = true := by decide +kernel

/-- CT2.G07 and IT3.P116 (chapter 1), queue 20,485 (chapter 12). -/
theorem test_addresses : (CsReg.grpCtl 31).addr / 0x100000 * 0x100000 = 0xFF00306700000 ∧
    (CsReg.portCtl 500).addr / 0x10000 * 0x10000 = 0xFF00802740000 ∧ (CsReg.qmEnq 20485 0).addr = 0xFF00704401480 ∧
    (CsReg.qmDeq 20485).addr = 0xFF00704401440 ∧ (CsReg.qmRewind 20485).addr = 0xFF00704401448 := by decide +kernel

/-- The placement of 0x8_4560_8018 (chapters 10 and 11): every tile with 320 GiB. -/
def fourTiles : State := { under img .run with maps := (List.range 4).map fun t => (t, ⟨false, false, 5120, []⟩) }
theorem test_placement : fourTiles.place 0x845608018 = .dram 1 0x211608018 ∧
    fourTiles.homeSlice (lineOfAddr 0x845608018) = some 8 ∧ fourTiles.chanOf 1 0x211608018 = 6 := by decide +kernel

/-! ### One command of a small state each -/

/-- The state after a command. -/
def ran (i : Instr) (s : State) : State := match exec i s with | .next t => t | .fault _ => s | .refused _ => s
/-- LC0 with G1 to G4 set. -/
def four (a b c d : Word) : State := core fun l => (((l.wg 1 a).wg 2 b).wg 3 c).wg 4 d

/-- Chapter 5: 1,000,000 × 37, then −1,000 as divisor. -/
theorem test_mul : ((ran (.mul 0 .mul 5 1 2) (four 1000000 37 0 (-1000))).lc 0).rg 5 = 37000000 := by decide +kernel
theorem test_div : ((ran (.div 0 .div 6 1 4) (four 37000000 0 0 (-1000))).lc 0).rg 6 = -37000 ∧
    ((ran (.div 0 .div 6 1 4) (four 37000000 0 0 (-1000))).lc 0).flags = ⟨true, false, false, false⟩ := by decide +kernel

/-- The source is also the destination. -/
theorem test_add_alias : ((ran (.add 0 1 1 (.reg 1)) (four 7 0 0 0)).lc 0).rg 1 = 14 := by decide +kernel
theorem test_sub_borrow : ((ran (.sub 0 5 1 2) (four 1 2 0 0)).lc 0).rg 5 = -1 := by decide +kernel
theorem test_shift_register : ((ran (.shift 0 .sar 5 1 (.reg 2)) (four (-8) 1 0 0)).lc 0).rg 5 = -4 := by decide +kernel
theorem test_lui : ((ran (.lui 0 5 0x80000) (four 0 0 0 0)).lc 0).rg 5 = 0xFFFFFFFF80000000 := by decide +kernel

/-- Chapter 6: 2^600 × 2^600 with OFE set. -/
def big : State := core fun l => { ((l.wf 2 0x6570000000000000).wf 3 0x6570000000000000) with fpcr := 0x400, pc := 0x10000 }
theorem test_fmul_overflow :
    let l := (ran (.fmul 0 .b64 1 2 3 7) big).lc 0
    l.rf 1 = 0x7FF0000000000000 ∧ l.fpsr = 5 ∧ l.fpxa = 0x10000 ∧ l.fpxr.setWidth 32 = (0x64110CE2 : BitVec 32) ∧
      l.fpPend = true ∧ l.pc = 0x10004 := by decide +kernel

/-- Chapter 4: S2 with LIMIT 0xFFFF; G2 = 0xFFE8, displacement 24. -/
def limited : State := core fun l => (l.wg 2 0xFFE8).ws 2 (BitVec.ofNat 128 (0x86 * 2 ^ 120 + 0xFFFF * 2 ^ 64 + 0x120000000))
theorem test_segment_limit :
    let l := (ran (.load 0 .ldd (.disp 7 2 24) .ok) limited).lc 0
    bits l.bank.exc.cause 7 0 = 4 ∧ l.bank.exc.addr = 0x10000 ∧ l.rg 7 = 0 := by decide +kernel

/-- Chapter 16: guest P3.V017 calls gate 5, and returns. -/
def guest : State :=
  { ({ under { rich with parcels := 0xFF0001 :: 0xFF0001 :: 0xFF0001 :: 0xFF0001 :: List.replicate 12 0,
                         grants := [grant 16 1 7 0x10000000 0x1FFFFFFF, grant 3 1 7 0 0xFFFFFFF] } .run with
        maps := [(0, ⟨false, false, 16, []⟩)] } : State).setLc 0 { (LCore.init.wg 9 0x140) with
      host := some 0, psw := 0x0000311800000101, pc := 0x23000
      gw := { Gateway.init with
        gwcsd1 := quadHi (flatDesc true), gwcsd0 := 0x10000000, gatetab := BitVec.ofNat 64 (0x10001000 + 64) } } with
    mem := [(0x10000140, 5), (0x10000141, 0x54), (0x10000142, 0xA9), (0x10000143, 0x7A), (0x10001028, 8), (0x1000102F, 0xB4)] }
theorem test_sluice :
    let l := (ran (.sluice 0 9) guest).lc 0
    l.gw.fsaved = 0x0000311800000101 ∧ l.gw.fepc = 0x23004 ∧ l.psw = 0x0000300000000009 ∧ l.pc = 0x144 ∧
      l.gw.gatestat = BitVec.ofNat 64 (2 ^ 63 + 5) := by decide +kernel
theorem test_sluice_return :
    let l := (ran (.sluiceX 0) (ran (.sluice 0 9) guest)).lc 0
    l.pc = 0x23004 ∧ l.psw = 0x0000311800000101 := by decide +kernel

/-- Chapter 7: MVL, its first iteration, of 64 bytes. -/
def mvl9 : State := memCore fun l => ((l.wg 4 0x1040).wg 5 0x2000).wg 6 1000
theorem test_mvl :
    let l := (ran (.mvl 0 4 5 6 .ok) mvl9).lc 0
    l.rg 4 = 0x1080 ∧ l.rg 5 = 0x2040 ∧ l.rg 6 = 936 ∧ l.pc = 0 := by decide +kernel

/-- Chapter 3: the 32.768 kHz tick after 8,000,000,000 ns. -/
theorem test_tick : let t := ({ State.reset with tb := { Timebase.init with ns := 8000000000 } } : State).tick
    t.tb.ns = 8000030517 ∧ t.tb.frac = 0x94000000 := by decide +kernel

/-- Chapter 12, steps 5 and 7 to 9: OVERTOP at full occupancy. -/
def overtop (f : QSt → QSt) : State :=
  (live.setReg (.qmQcfg 0) (BitVec.ofNat 64 (2 ^ 63 + 2 ^ 62 + 4 * 2 ^ 56))).modQueue 0 f
def word (n : Nat) : QWord := ⟨BitVec.ofNat 64 n, 0x80, false⟩
theorem test_overtop_releases_retained :
    let q := (ran (.qmEnq .keeper 0 0 37) (overtop fun x => { x with
      retained := [word 5, word 6], words := (List.range 14).map fun n => word (10 + n), mark := true })).queue 0
    q.retained = [] ∧ q.mark = false ∧ q.markLost = true ∧ q.words.length = 15 := by decide +kernel
theorem test_overtop_discards_oldest :
    let s := ran (.qmEnq .keeper 0 0 42) (overtop fun x => { x with words := (List.range 16).map fun n => word (10 + n) })
    ((s.queue 0).words.map fun w => w.data) = (List.range 15).map (fun n => BitVec.ofNat 64 (11 + n)) ++ [42] := by
  decide +kernel

/-- Chapter 14: frame 311 with a bad CRC, then 312. -/
theorem test_bad_crc :
    let s := live.modPort 0 fun x => { x with st := .active, rxNext := 311 }
    let t := ran (.frameReceive 0 { frame 2 0 [] with lseq := 311 } .badCrc) s
    let u := ran (.frameReceive 0 { frame 3 0 [] with lseq := 312 } .good) t
    (t.port 0).out.map (fun f => f.type) = [0x11] ∧ (u.port 0).out.length = 1 ∧ (u.port 0).rxNext = 311 := by decide +kernel

/-- Chapter 18: the third corrected L2 error of a window of 2^20 ns is promoted. -/
def l2err (c : Nat) : State := { under { rich with policy := [0x000A0100, BitVec.ofNat 64 (0x2A * 2 ^ 56 + 2 ^ 46 + 3 * 2 ^ 38 + 3 * 2 ^ 22 + 20 * 2 ^ 16)] } .run with
  tb := { Timebase.init with ns := 5300000 }
  srcBufs := [(0x1049, ⟨[mkFault 0x1049 0x2A 1 0 5300000 0], 0⟩)]
  cols := [(1, { ColSt.init with counters := [⟨0x1049, 0x2A, 3, 20, 5, c⟩] })] }
theorem test_promotion :
    ((ran (.faultMessageArrival 0x1049) (l2err 1)).col 1).log.map faultClass = [1] ∧
    ((ran (.faultMessageArrival 0x1049) (l2err 2)).col 1).log.map faultClass = [2] := by decide +kernel
end Sys2Proof.Tests
end

/-! PROOF. REGISTER_WRITE (O13).  A software write is a fold over the fields of the register, one access-type step per
field.  The fields stand from the highest bit to the lowest and do not overlap, so each field sees its own step alone. -/

namespace Sys2Proof.Machine

/-! ### One field under its access type (R7) -/

/-- What a software write of `v` to the word `w` does to field `f`. -/
def Fld.write (v w : Word) (f : Fld) : Word :=
  match f.acc with
  | .rw => if f.hw then w else setBits w f.hi f.lo (bits v f.hi f.lo)
  | .rw1c => setBits w f.hi f.lo (bits (w &&& ~~~ v) f.hi f.lo)
  | .rw1s => setBits w f.hi f.lo (bits (w ||| v) f.hi f.lo)
  | _ => w

theorem softWrite_eq_foldl (r : CsReg) (old v : Word) : softWrite r old v = r.fields.foldl (Fld.write v) old := rfl

/-- The bits of a field form a range of a 64-bit word. -/
def Fld.InWord (f : Fld) : Prop := f.lo ≤ f.hi ∧ f.hi < 64

/-- `f` stands above `g` in the word. -/
def Fld.Above (f g : Fld) : Prop := g.hi < f.lo

/-- A field write of a field's own bits is read back whole. -/
theorem bits_setBits_bits (w x : Word) (hi lo : Nat) (h : lo ≤ hi) (h64 : hi < 64) :
    bits (setBits w hi lo (bits x hi lo)) hi lo = bits x hi lo := by
  rw [bits_setBits_self _ _ _ _ h h64, Nat.mod_eq_of_lt (bits_lt ..)]

theorem bits_and (x y : Word) (hi lo : Nat) : bits (x &&& y) hi lo = bits x hi lo &&& bits y hi lo := by
  simp only [bits, BitVec.toNat_and, Nat.and_div_two_pow, Nat.and_mod_two_pow]

theorem bits_or (x y : Word) (hi lo : Nat) : bits (x ||| y) hi lo = bits x hi lo ||| bits y hi lo := by
  simp only [bits, BitVec.toNat_or, Nat.or_div_two_pow, Nat.or_mod_two_pow]

/-- The value that field `f` takes when the word holds `old` and `v` is written. -/
def Fld.written (f : Fld) (old v : Word) : Nat :=
  match f.acc with
  | .rw => if f.hw then bits old f.hi f.lo else bits v f.hi f.lo
  | .rw1c => bits (old &&& ~~~ v) f.hi f.lo
  | .rw1s => bits (old ||| v) f.hi f.lo
  | _ => bits old f.hi f.lo

/-- The step of a field gives the field its written value. -/
theorem Fld.bits_write_self (f : Fld) (v w : Word) (h : f.InWord) :
    bits (f.write v w) f.hi f.lo = f.written w v := by
  obtain ⟨hle, h64⟩ := h
  unfold Fld.write Fld.written
  cases f.acc with
  | rw => cases f.hw <;> simp [bits_setBits_bits _ _ _ _ hle h64]
  | rw1c | rw1s => exact bits_setBits_bits _ _ _ _ hle h64
  | ro | wo | rc => rfl

/-- The step of a field leaves a field apart from it alone. -/
theorem Fld.bits_write_apart (f g : Fld) (v w : Word) (h : f.InWord) (hd : f.Above g ∨ g.Above f) :
    bits (f.write v w) g.hi g.lo = bits w g.hi g.lo := by
  obtain ⟨hle, h64⟩ := h
  have keeps (x : Nat) : bits (setBits w f.hi f.lo x) g.hi g.lo = bits w g.hi g.lo :=
    bits_setBits_ne _ _ _ _ _ _ hle h64 hd.symm
  unfold Fld.write
  cases f.acc with
  | rw => cases f.hw <;> simp [keeps]
  | rw1c | rw1s => exact keeps _
  | ro | wo | rc => rfl

/-- The value a field takes depends on the field's own bits of the old word. -/
theorem Fld.written_congr (f : Fld) (v w x : Word) (h : bits w f.hi f.lo = bits x f.hi f.lo) :
    f.written w v = f.written x v := by
  simp only [Fld.written, bits_and, bits_or, h]

/-! ### All fields of a register (R6, R7) -/

theorem foldl_write_apart (g : Fld) (v : Word) (l : List Fld) (w : Word)
    (h : ∀ f ∈ l, f.InWord ∧ (f.Above g ∨ g.Above f)) :
    bits (l.foldl (Fld.write v) w) g.hi g.lo = bits w g.hi g.lo := by
  induction l generalizing w with
  | nil => rfl
  | cons f l ih =>
    obtain ⟨hf, hl⟩ := List.forall_mem_cons.mp h
    rw [List.foldl_cons, ih _ hl, f.bits_write_apart g v w hf.1 hf.2]

/-- A software write to fields that stand one below the other gives each its written value. -/
theorem foldl_write_mem (g : Fld) (v : Word) (l : List Fld) (w : Word) (hw : ∀ f ∈ l, f.InWord)
    (hl : l.Pairwise Fld.Above) (hg : g ∈ l) :
    bits (l.foldl (Fld.write v) w) g.hi g.lo = g.written w v := by
  induction l generalizing w with
  | nil => cases hg
  | cons f l ih =>
    obtain ⟨hf, hwl⟩ := List.forall_mem_cons.mp hw
    obtain ⟨hfl, hll⟩ := List.pairwise_cons.mp hl
    rw [List.foldl_cons]
    rcases List.mem_cons.mp hg with rfl | hg
    · rw [foldl_write_apart g v l _ fun f hf => ⟨hwl f hf, .inr (hfl f hf)⟩, g.bits_write_self v w hf]
    · rw [ih _ hwl hll hg, g.written_congr v _ _ (f.bits_write_apart g v w hf (.inl (hfl g hg)))]

/-- The fields of every register are ranges of the word. -/
theorem CsReg.fields_inWord (r : CsReg) : ∀ f ∈ r.fields, f.InWord := by
  cases r <;> simp [CsReg.fields, Fld.InWord]

/-- The fields of every register stand from the highest bit to the lowest, without overlap. -/
theorem CsReg.fields_pairwise (r : CsReg) : r.fields.Pairwise Fld.Above := by
  cases r <;> simp [CsReg.fields, Fld.Above]

/-- Every field of a register takes from a software write the value that its access type gives. -/
theorem bits_softWrite (r : CsReg) (old v : Word) (f : Fld) (hf : f ∈ r.fields) :
    bits (softWrite r old v) f.hi f.lo = f.written old v := by
  rw [softWrite_eq_foldl, foldl_write_mem f v _ old r.fields_inWord r.fields_pairwise hf]

/-! ### A write by address (R24, R25, R28) -/

theorem exec_registerWrite (m : Master) (a v : Word) (n : Nat) (s : State) :
    exec (.registerWrite m a n v) s = .next (s.csWrite m a.toNat n v) := rfl

theorem csFormOk_eight (pa : Nat) (h : pa % 8 = 0) : csFormOk pa 8 = true := by simp [csFormOk, h]

theorem csFormOk_faulty (pa n : Nat) (h : n ≠ 8 ∨ pa % 8 ≠ 0) : csFormOk pa n = false := by
  simp only [csFormOk, Bool.and_eq_false_iff, decide_eq_false_iff_not]
  exact h

theorem State.csWrite_faulty (s : State) (m : Master) (pa n : Nat) (v : Word) (hf : n ≠ 8 ∨ pa % 8 ≠ 0)
    (h : s.admitsBytes m pa n needW (s.pageOk m pa n) = true) : s.csWrite m pa n v = s.respond m .error := by
  simp [State.csWrite, csFormOk_faulty pa n hf, State.csError, State.csSized_admits _ _ _ _ _ _ _ h]

theorem State.csWrite_reg (s : State) (m : Master) (pa : Nat) (v : Word) (k : Tile) (r : CsReg)
    (ht : csTarget pa = .reg k r) (ha : pa % 8 = 0) : s.csWrite m pa 8 v = s.regWrite m r pa v := by
  simp [State.csWrite, csFormOk_eight pa ha, ht]

/-- A write that no register takes is a miss. -/
theorem State.csWrite_miss (s : State) (m : Master) (pa : Nat) (v : Word) (ht : ∀ k r, csTarget pa ≠ .reg k r)
    (ha : pa % 8 = 0) (hb : s.bankExtra pa = none) : s.csWrite m pa 8 v = s.csMiss m pa needW (csTarget pa) := by
  unfold State.csWrite
  rw [csFormOk_eight pa ha, hb]
  cases h : csTarget pa with
  | reg k r => exact absurd h (ht k r)
  | outside | hole => rfl

theorem State.csMiss_outside (s : State) (m : Master) (pa need : Nat)
    (h : s.admits m pa need (s.pageOk m pa 8) = true) : s.csMiss m pa need .outside = s.respond m .error := by
  rw [State.csMiss, State.csAccess_admits _ _ _ _ _ _ h]

theorem State.csMiss_hole_write (s : State) (m : Master) (pa : Nat) (k : Tile)
    (h : s.admits m pa needW (s.pageOk m pa 8) = true) :
    s.csMiss m pa needW (.hole k) = (s.report (srcId k.val 0x3F 0) 0x01 clsNote pa).respond m .ok := by
  rw [State.csMiss, State.csAccess_admits _ _ _ _ _ _ h]
  rfl

/-- Registers without a row of their own in `State.regWrite`: a write changes their fields alone. -/
def CsReg.Ordinary (r : CsReg) : Prop :=
  (∃ n, r = .tbCmpVal n) ∨ (∃ n, r = .tbCmpCfg n) ∨ (∃ e, r = .ecCfg e) ∨ r = .ksWake ∨ ∃ q, r = .qmQevt q

theorem State.regWrite_ordinary (s : State) (m : Master) (r : CsReg) (pa : Nat) (v : Word) (hr : r.Ordinary) :
    s.regWrite m r pa v = s.plainWrite m r pa v := by
  obtain ⟨_, rfl⟩ | ⟨_, rfl⟩ | ⟨_, rfl⟩ | rfl | ⟨_, rfl⟩ := hr <;> rfl

theorem State.plainWrite_admits (s : State) (m : Master) (r : CsReg) (pa : Nat) (v : Word)
    (h : s.admits m pa needW (s.csOk m r) = true) :
    s.plainWrite m r pa v = (s.setReg r (softWrite r (s.reg r) v)).respond m .ok := by
  rw [State.plainWrite, State.csAccess_admits _ _ _ _ _ _ h]

/-- Settles O13: an admitted write runs the access of its target, and a software write gives each field the value of its
access type because the fields of a register do not overlap. -/
theorem registerWriteRules : Obligations.RegisterWriteRules := by
  unfold Obligations.RegisterWriteRules
  refine ⟨?_, ?_, ?_, ?_⟩
  · intro s m a v k r ht ha hr h
    rw [exec_registerWrite, s.csWrite_reg m _ v k r ht ha, s.regWrite_ordinary m r _ v hr, s.plainWrite_admits m r _ v h]
  · intro s m a v n hf h
    rw [exec_registerWrite, s.csWrite_faulty m _ n v hf h]
  · intro s m a v ha hb h
    refine ⟨fun ht => ?_, fun k ht => ?_⟩
    · rw [exec_registerWrite, s.csWrite_miss m _ v (by simp [ht]) ha hb, ht, s.csMiss_outside m _ needW h]
    · rw [exec_registerWrite, s.csWrite_miss m _ v (by simp [ht]) ha hb, ht, s.csMiss_hole_write m _ k h]
  · intro r old v f hf
    rw [bits_softWrite r old v f hf]
    refine ⟨fun hacc hhw => ?_, fun hacc => ?_, fun hacc => ?_, ?_⟩
    · simp [Fld.written, hacc, hhw]
    · simp [Fld.written, hacc]
    · simp [Fld.written, hacc]
    · rintro (hacc | hacc | hacc) <;> simp [Fld.written, hacc]

end Sys2Proof.Machine

namespace Sys2Proof.Machine

/-! ### What a command leaves alone (R33, R34, R57) -/

/-- Follows every part outside `ps` at its value in `s`, and memory's canonical form where `s` has it. -/
def State.frame (s : State) (ps : List Part) : Track where
  keeper := if .keeper ∈ ps then none else some s.keeper
  loader := if .loader ∈ ps then none else some s.loader
  tb := if .tb ∈ ps then none else some s.tb
  mgmt := if .mgmt ∈ ps then none else some s.mgmt
  mem := if .mem ∈ ps then none else some s.mem
  lcs := if .lcs ∈ ps then none else some s.lcs
  queues := if .queues ∈ ps then none else some s.queues
  scs := if .scs ∈ ps then none else some s.scs
  ports := if .ports ∈ ps then none else some s.ports
  holders := if .holders ∈ ps then none else some s.holders
  ctxs := if .ctxs ∈ ps then none else some s.ctxs
  wf := s.memWf

/-- A state is within its own frame. -/
theorem State.kept_frame (s : State) (ps : List Part) : Kept (s.frame ps) s.pending s.fuses s where
  pending := rfl
  fuses := s.fuses.kept_refl
  wf := id
  keeper := ite_eq_or_eq ..
  loader := ite_eq_or_eq ..
  tb := ite_eq_or_eq ..
  mgmt := ite_eq_or_eq ..
  mem := ite_eq_or_eq ..
  lcs := ite_eq_or_eq ..
  queues := ite_eq_or_eq ..
  scs := ite_eq_or_eq ..
  ports := ite_eq_or_eq ..
  holders := ite_eq_or_eq ..
  ctxs := ite_eq_or_eq ..

theorem eq_of_followed {α : Type} {P : Prop} [Decidable P] {x y : α} (hp : ¬ P)
    (h : (if P then none else some x) = none ∨ (if P then none else some x) = some y) : y = x := by
  simpa [hp, eq_comm] using h

/-- A part that the frame follows is the same. -/
theorem Kept.same_of_notMem {s t : State} {ps : List Part} {p : List Instr} {q : Fuses} (h : Kept (s.frame ps) p q t)
    {part : Part} (hp : part ∉ ps) : part.same s t := by
  cases part with
  | keeper => exact eq_of_followed hp h.keeper
  | loader => exact eq_of_followed hp h.loader
  | tb => exact eq_of_followed hp h.tb
  | mgmt => exact eq_of_followed hp h.mgmt
  | mem => exact eq_of_followed hp h.mem
  | lcs => exact eq_of_followed hp h.lcs
  | queues => exact eq_of_followed hp h.queues
  | scs => exact eq_of_followed hp h.scs
  | ports => exact eq_of_followed hp h.ports
  | holders => exact eq_of_followed hp h.holders
  | ctxs => exact eq_of_followed hp h.ctxs

/-- No command ends in a fault or a refusal. -/
theorem exec_next (i : Instr) (s : State) : ∃ t, exec i s = .next t := by
  cases i <;> exact ⟨_, rfl⟩

/-- Each command stays in its frame: what its meaning can change is what `touches` lists for it. -/
theorem exec_keeps_frame (i : Instr) (s : State) :
    nextAll (Kept (s.frame (touches i)) s.pending s.fuses) (exec i s) := by
  have h := s.kept_frame (touches i)
  cases i with
  | registerWrite => exact Kept.execRegisterWrite h rfl rfl rfl rfl rfl rfl rfl rfl rfl rfl rfl
  | supplyLoss => exact Kept.execSupplyLoss h rfl rfl rfl rfl rfl rfl rfl rfl rfl rfl rfl
  | powerOnReset => exact Kept.execPowerOnReset h rfl
  | wakeEvent => exact Kept.execWakeEvent h rfl
  | xwakeFall => exact Kept.execXwakeFall h rfl
  | powerUpStep => exact Kept.execPowerUpStep h rfl
  | railTimeout => exact Kept.execRailTimeout h rfl
  | fuseSenseDone => exact Kept.execFuseSenseDone h rfl
  | keeperBistDone => exact Kept.execKeeperBistDone h rfl rfl rfl rfl rfl rfl rfl
  | flashCopyValidated => exact Kept.execFlashCopyValidated h rfl rfl rfl
  | composeComplete => exact Kept.execComposeComplete h rfl rfl rfl rfl
  | powerDownStep => exact Kept.execPowerDownStep h rfl rfl rfl rfl rfl rfl rfl rfl rfl rfl rfl
  | pgoodLoss => exact Kept.execPgoodLoss h rfl
  | ksQuiesce => exact Kept.execKsQuiesce h rfl rfl rfl rfl
  | quiesceComplete => exact Kept.execQuiesceComplete h rfl rfl rfl rfl
  | ksResume => exact Kept.execKsResume h rfl rfl rfl rfl rfl rfl rfl
  | ksIsolate => exact Kept.execKsIsolate h rfl rfl rfl rfl rfl rfl rfl rfl
  | ksRestore => exact Kept.execKsRestore h rfl rfl rfl rfl
  | restoreBistDone => exact Kept.execRestoreBistDone h rfl rfl rfl rfl
  | ksSleep => exact Kept.execKsSleep h rfl rfl rfl rfl
  | ksRestart => exact Kept.execKsRestart h rfl rfl rfl rfl
  | ksZeroize => exact Kept.execKsZeroize h rfl rfl rfl rfl rfl rfl rfl rfl rfl
  | zeroizeComplete => exact Kept.execZeroizeComplete h rfl
  | tbNowRead => exact Kept.execTbNowRead h rfl rfl rfl
  | tbStep => exact Kept.execTbStep h rfl rfl rfl rfl
  | tbSwitchTo1ghz => exact Kept.execTbSwitchTo1ghz h rfl rfl
  | tbSwitchTo32k => exact Kept.execTbSwitchTo32k h rfl
  | tbCaptureEvent => exact Kept.execTbCaptureEvent h
  | ppsOutRise => exact Kept.execPpsOutRise h rfl
  | ppsOutFall => exact Kept.execPpsOutFall h rfl
  | comparatorFire => exact Kept.execComparatorFire h rfl rfl rfl rfl rfl rfl rfl
  | ecSample => exact Kept.execEcSample h rfl rfl rfl rfl rfl rfl rfl rfl
  | keeperPairMismatch => exact Kept.execKeeperPairMismatch h rfl
  | imgApply => exact Kept.execImgApply h rfl rfl rfl rfl rfl rfl rfl rfl rfl rfl
  | recompositionCommit => exact Kept.execRecompositionCommit h rfl rfl rfl rfl rfl rfl rfl rfl
  | imgDiscard => exact Kept.execImgDiscard h rfl rfl rfl rfl rfl rfl rfl rfl rfl rfl
  | commitVersion => exact Kept.execCommitVersion h rfl rfl rfl rfl rfl rfl rfl rfl rfl rfl
  | sealFuses => exact Kept.execSealFuses h rfl rfl rfl rfl rfl rfl rfl rfl rfl rfl
  | unfreeze => exact Kept.execUnfreeze h rfl rfl rfl rfl rfl rfl rfl rfl rfl rfl
  | add => exact Kept.execAdd h rfl rfl rfl rfl rfl rfl rfl
  | sub => exact Kept.execSub h rfl rfl rfl rfl rfl rfl rfl
  | neg => exact Kept.execNeg h rfl rfl rfl rfl rfl rfl rfl
  | logicalOperation => exact Kept.execLogicalOperation h rfl rfl rfl rfl rfl rfl rfl
  | compare => exact Kept.execCompare h rfl rfl rfl rfl rfl rfl rfl
  | minMax => exact Kept.execMinMax h rfl rfl rfl rfl rfl rfl rfl
  | sextwZextw => exact Kept.execSextwZextw h rfl rfl rfl rfl rfl rfl rfl
  | shift => exact Kept.execShift h rfl rfl rfl rfl rfl rfl rfl
  | rotate => exact Kept.execRotate h rfl rfl rfl rfl rfl rfl rfl
  | lui => exact Kept.execLui h rfl rfl rfl rfl rfl rfl rfl
  | mul => exact Kept.execMul h rfl rfl rfl rfl rfl rfl rfl
  | div => exact Kept.execDiv h rfl rfl rfl rfl rfl rfl rfl
  | divstep => exact Kept.execDivstep h rfl rfl rfl rfl rfl rfl rfl
  | load => exact Kept.execLoad h rfl rfl rfl rfl rfl rfl rfl rfl rfl
  | store => exact Kept.execStore h rfl rfl rfl rfl rfl rfl rfl rfl rfl rfl rfl
  | tas => exact Kept.execTas h rfl rfl rfl rfl rfl rfl rfl
  | atomicFadd => exact Kept.execAtomicFadd h rfl rfl rfl rfl rfl rfl rfl
  | swap => exact Kept.execSwap h rfl rfl rfl rfl rfl rfl rfl
  | cas => exact Kept.execCas h rfl rfl rfl rfl rfl rfl rfl
  | amin => exact Kept.execAmin h rfl rfl rfl rfl rfl rfl rfl
  | amax => exact Kept.execAmax h rfl rfl rfl rfl rfl rfl rfl
  | ldres => exact Kept.execLdres h rfl rfl rfl rfl rfl rfl rfl rfl rfl
  | stcnd => exact Kept.execStcnd h rfl rfl rfl rfl rfl rfl rfl
  | reservationHoldExpiry => exact Kept.execReservationHoldExpiry h rfl
  | lseg => exact Kept.execLseg h rfl rfl rfl rfl rfl rfl rfl rfl rfl
  | wrseg => exact Kept.execWrseg h rfl rfl rfl rfl rfl rfl rfl
  | rdseg => exact Kept.execRdseg h rfl rfl rfl rfl rfl rfl rfl
  | tlbiVa => exact Kept.execTlbiVa h rfl rfl rfl rfl rfl rfl rfl
  | tlbiAsid => exact Kept.execTlbiAsid h rfl rfl rfl rfl rfl rfl rfl
  | tlbiAll => exact Kept.execTlbiAll h rfl rfl rfl rfl rfl rfl rfl
  | tlbiGuest => exact Kept.execTlbiGuest h rfl rfl rfl rfl rfl rfl rfl
  | tlbiBroadcast => exact Kept.execTlbiBroadcast h rfl rfl rfl rfl rfl rfl rfl
  | sync => exact Kept.execSync h rfl rfl rfl rfl rfl rfl rfl
  | isync => exact Kept.execIsync h rfl rfl rfl rfl rfl rfl rfl
  | fbar => exact Kept.execFbar h rfl rfl rfl rfl rfl rfl rfl
  | rdtime => exact Kept.execRdtime h rfl rfl rfl rfl rfl rfl rfl
  | conditionalBranch => exact Kept.execConditionalBranch h rfl rfl rfl rfl rfl rfl rfl
  | jmp => exact Kept.execJmp h rfl rfl rfl rfl rfl rfl rfl
  | call => exact Kept.execCall h rfl rfl rfl rfl rfl rfl rfl
  | jr => exact Kept.execJr h rfl rfl rfl rfl rfl rfl rfl
  | jalr => exact Kept.execJalr h rfl rfl rfl rfl rfl rfl rfl
  | svc => exact Kept.execSvc h rfl rfl rfl rfl rfl rfl rfl
  | hvc => exact Kept.execHvc h rfl rfl rfl rfl rfl rfl rfl
  | retx => exact Kept.execRetx h rfl rfl rfl rfl rfl rfl rfl
  | mfc => exact Kept.execMfc h rfl rfl rfl rfl rfl rfl rfl
  | mtc => exact Kept.execMtc h rfl rfl rfl rfl rfl rfl rfl
  | brk => exact Kept.execBrk h rfl rfl rfl rfl rfl rfl rfl
  | wait => exact Kept.execWait h rfl rfl rfl rfl rfl rfl rfl
  | pairedWord => exact Kept.execPairedWord h rfl rfl rfl rfl rfl rfl rfl rfl rfl rfl rfl
  | fadd => exact Kept.execFadd h rfl rfl rfl rfl rfl rfl rfl
  | fsub => exact Kept.execFsub h rfl rfl rfl rfl rfl rfl rfl
  | fmul => exact Kept.execFmul h rfl rfl rfl rfl rfl rfl rfl
  | fdiv => exact Kept.execFdiv h rfl rfl rfl rfl rfl rfl rfl
  | fsqrt => exact Kept.execFsqrt h rfl rfl rfl rfl rfl rfl rfl
  | fminFmax => exact Kept.execFminFmax h rfl rfl rfl rfl rfl rfl rfl
  | fabsFnegFcpysgn => exact Kept.execFabsFnegFcpysgn h rfl rfl rfl rfl rfl rfl rfl
  | frint => exact Kept.execFrint h rfl rfl rfl rfl rfl rfl rfl
  | fcmp => exact Kept.execFcmp h rfl rfl rfl rfl rfl rfl rfl
  | fclass => exact Kept.execFclass h rfl rfl rfl rfl rfl rfl rfl
  | fquant => exact Kept.execFquant h rfl rfl rfl rfl rfl rfl rfl
  | fusedMultiplyAdd => exact Kept.execFusedMultiplyAdd h rfl rfl rfl rfl rfl rfl rfl
  | fcvtFf => exact Kept.execFcvtFf h rfl rfl rfl rfl rfl rfl rfl
  | fcvtFi => exact Kept.execFcvtFi h rfl rfl rfl rfl rfl rfl rfl
  | fcvtFu => exact Kept.execFcvtFu h rfl rfl rfl rfl rfl rfl rfl
  | fcvtIf => exact Kept.execFcvtIf h rfl rfl rfl rfl rfl rfl rfl
  | fpMove => exact Kept.execFpMove h rfl rfl rfl rfl rfl rfl rfl
  | fpTrapDelivery => exact Kept.execFpTrapDelivery h rfl rfl rfl rfl rfl rfl rfl
  | mvl => exact Kept.execMvl h rfl rfl rfl rfl rfl rfl rfl rfl rfl rfl rfl
  | cmpx => exact Kept.execCmpx h rfl rfl rfl rfl rfl rfl rfl rfl rfl
  | ciph => exact Kept.execCiph h rfl rfl rfl rfl rfl rfl rfl rfl rfl
  | dconv => exact Kept.execDconv h rfl rfl rfl rfl rfl rfl rfl rfl rfl rfl rfl
  | customOpcode => exact Kept.execCustomOpcode h rfl rfl rfl rfl rfl rfl rfl rfl rfl rfl rfl
  | mcOverrun => exact Kept.execMcOverrun h rfl
  | mcLoad => exact Kept.execMcLoad h rfl rfl rfl rfl
  | rebuildWriteDone => exact Kept.execRebuildWriteDone h rfl rfl
  | bankSwap => exact Kept.execBankSwap h rfl rfl
  | groupTimeLoad => exact Kept.execGroupTimeLoad h
  | fillArrival => exact Kept.execFillArrival h rfl rfl rfl rfl rfl rfl rfl
  | resyncWakeDone => exact Kept.execResyncWakeDone h
  | resyncTestDone => exact Kept.execResyncTestDone h rfl rfl rfl rfl
  | resyncInvalidateDone => exact Kept.execResyncInvalidateDone h
  | resyncMirrorDone => exact Kept.execResyncMirrorDone h rfl rfl rfl rfl rfl
  | mirrorTimeout => exact Kept.execMirrorTimeout h rfl rfl rfl rfl
  | rejoin => exact Kept.execRejoin h rfl rfl rfl rfl rfl rfl rfl
  | rejoinTimeout => exact Kept.execRejoinTimeout h rfl rfl rfl rfl
  | grpResync => exact Kept.execGrpResync h rfl rfl rfl rfl rfl rfl
  | grpInject => exact Kept.execGrpInject h rfl rfl rfl
  | grpRetireCore => exact Kept.execGrpRetireCore h rfl rfl rfl rfl rfl rfl
  | migrationStart => exact Kept.execMigrationStart h rfl rfl rfl rfl rfl rfl rfl
  | migrationComplete => exact Kept.execMigrationComplete h rfl rfl rfl rfl
  | voterRailFailure => exact Kept.execVoterRailFailure h rfl rfl rfl rfl rfl rfl rfl
  | groupStop => exact Kept.execGroupStop h rfl rfl rfl rfl rfl
  | debugHalt => exact Kept.execDebugHalt h rfl rfl rfl rfl rfl rfl rfl
  | debugResume => exact Kept.execDebugResume h rfl rfl rfl rfl
  | hardwarePrefetch => exact Kept.execHardwarePrefetch h rfl
  | prefetchFill => exact Kept.execPrefetchFill h rfl rfl rfl rfl
  | maintClean => exact Kept.execMaintClean h rfl rfl rfl
  | maintInvalidate => exact Kept.execMaintInvalidate h rfl rfl rfl
  | maintCleanInvalidate => exact Kept.execMaintCleanInvalidate h rfl rfl rfl
  | maintDone => exact Kept.execMaintDone h
  | victimAccepted => exact Kept.execVictimAccepted h rfl rfl
  | readShared => exact Kept.execReadShared h rfl rfl rfl rfl rfl
  | prefetch => exact Kept.execPrefetch h rfl rfl rfl rfl rfl
  | readOwn => exact Kept.execReadOwn h rfl rfl rfl rfl rfl
  | upgrade => exact Kept.execUpgrade h rfl rfl rfl rfl rfl
  | writeback => exact Kept.execWriteback h rfl rfl rfl rfl rfl rfl rfl
  | evictClean => exact Kept.execEvictClean h rfl rfl rfl rfl rfl rfl rfl
  | farAtomic => exact Kept.execFarAtomic h rfl rfl rfl rfl rfl rfl rfl
  | peek => exact Kept.execPeek h rfl rfl rfl rfl rfl rfl rfl
  | invWrite => exact Kept.execInvWrite h rfl rfl rfl rfl rfl rfl rfl rfl
  | maintAction => exact Kept.execMaintAction h rfl rfl rfl rfl rfl rfl rfl
  | cancel => exact Kept.execCancel h
  | complete => exact Kept.execComplete h
  | nackResend => exact Kept.execNackResend h
  | snpShare => exact Kept.execSnpShare h rfl rfl rfl rfl rfl rfl rfl
  | snpInv => exact Kept.execSnpInv h rfl rfl rfl rfl rfl rfl rfl
  | snpClean => exact Kept.execSnpClean h rfl rfl rfl rfl rfl rfl rfl
  | snpPeek => exact Kept.execSnpPeek h rfl rfl rfl rfl rfl rfl rfl
  | snpProbe => exact Kept.execSnpProbe h rfl rfl rfl rfl rfl rfl rfl
  | snpRecover => exact Kept.execSnpRecover h rfl rfl rfl rfl rfl rfl rfl
  | snoopAnswer => exact Kept.execSnoopAnswer h rfl
  | reclaimDone => exact Kept.execReclaimDone h
  | cohBrlogRead => exact Kept.execCohBrlogRead h rfl rfl rfl
  | mcRead => exact Kept.execMcRead h
  | mcWrite => exact Kept.execMcWrite h rfl
  | refreshDue => exact Kept.execRefreshDue h
  | dimmThermalChange => exact Kept.execDimmThermalChange h
  | neighbourRefresh => exact Kept.execNeighbourRefresh h
  | rfm => exact Kept.execRfm h
  | selfRefreshEntry => exact Kept.execSelfRefreshEntry h
  | selfRefreshEntryDone => exact Kept.execSelfRefreshEntryDone h
  | selfRefreshExit => exact Kept.execSelfRefreshExit h
  | selfRefreshExitDone => exact Kept.execSelfRefreshExitDone h rfl
  | patrolRead => exact Kept.execPatrolRead h
  | caParityError => exact Kept.execCaParityError h
  | caRetrainDone => exact Kept.execCaRetrainDone h rfl
  | ddrTrainingDone => exact Kept.execDdrTrainingDone h rfl
  | dramZeroingDone => exact Kept.execDramZeroingDone h rfl
  | mcErrlogRead => exact Kept.execMcErrlogRead h rfl rfl rfl
  | qmQcfgWrite => exact Kept.execQmQcfgWrite h rfl rfl rfl rfl
  | qmEnq => exact Kept.execQmEnq h rfl rfl rfl rfl
  | qmOpen => exact Kept.execQmOpen h rfl rfl rfl rfl
  | qmClose => exact Kept.execQmClose h rfl rfl rfl rfl
  | qmDeq => exact Kept.execQmDeq h rfl rfl rfl rfl
  | qmRewind => exact Kept.execQmRewind h rfl rfl rfl rfl
  | qmMarkSet => exact Kept.execQmMarkSet h rfl rfl rfl rfl
  | qmMarkClear => exact Kept.execQmMarkClear h rfl rfl rfl rfl
  | qmFlush => exact Kept.execQmFlush h rfl rfl rfl rfl
  | qmReset => exact Kept.execQmReset h rfl rfl rfl rfl
  | heldWriteAccept => exact Kept.execHeldWriteAccept h rfl rfl
  | spillBlockMove => exact Kept.execSpillBlockMove h rfl rfl rfl rfl rfl
  | qmDmaStart => exact Kept.execQmDmaStart h rfl rfl rfl
  | qdmaRecord => exact Kept.execQdmaRecord h rfl rfl rfl rfl rfl rfl
  | scCfgWrite => exact Kept.execScCfgWrite h rfl rfl rfl rfl rfl rfl rfl rfl rfl
  | scStart => exact Kept.execScStart h rfl rfl rfl rfl
  | scClear => exact Kept.execScClear h rfl rfl rfl rfl rfl rfl rfl
  | orderEvaluation => exact Kept.execOrderEvaluation h rfl rfl rfl rfl rfl rfl
  | dataFrame => exact Kept.execDataFrame h rfl rfl rfl rfl rfl rfl rfl rfl
  | endFrame => exact Kept.execEndFrame h rfl rfl
  | establishedFrame => exact Kept.execEstablishedFrame h rfl rfl
  | staleClaim => exact Kept.execStaleClaim h rfl rfl
  | seqError => exact Kept.execSeqError h rfl rfl
  | notEstablished => exact Kept.execNotEstablished h rfl rfl
  | orderTimeout => exact Kept.execOrderTimeout h rfl rfl rfl rfl
  | mirrorRecord => exact Kept.execMirrorRecord h rfl
  | mirrorAck => exact Kept.execMirrorAck h rfl
  | heartbeat => exact Kept.execHeartbeat h rfl
  | heartbeatTimeout => exact Kept.execHeartbeatTimeout h rfl rfl rfl rfl
  | handover => exact Kept.execHandover h rfl
  | claimRequest => exact Kept.execClaimRequest h rfl
  | revocationAck => exact Kept.execRevocationAck h rfl
  | revocationTimeout => exact Kept.execRevocationTimeout h rfl rfl rfl rfl
  | completionPost => exact Kept.execCompletionPost h rfl rfl rfl rfl rfl rfl
  | mirrorLinkDown => exact Kept.execMirrorLinkDown h rfl
  | mirrorLinkUp => exact Kept.execMirrorLinkUp h rfl
  | pathHoldoffExpiry => exact Kept.execPathHoldoffExpiry h rfl rfl rfl rfl
  | parkExpiry => exact Kept.execParkExpiry h rfl rfl rfl rfl rfl rfl
  | lyvanResetDone => exact Kept.execLyvanResetDone h rfl
  | lanesDetected => exact Kept.execLanesDetected h rfl
  | equalizationDone => exact Kept.execEqualizationDone h rfl
  | alignLockHeld => exact Kept.execAlignLockHeld h rfl
  | ident => exact Kept.execIdent h rfl rfl rfl rfl rfl
  | trainingTimeout => exact Kept.execTrainingTimeout h rfl
  | trainingRetry => exact Kept.execTrainingRetry h rfl
  | laneLockLost => exact Kept.execLaneLockLost h rfl rfl rfl rfl rfl
  | codewordErrorLimit => exact Kept.execCodewordErrorLimit h rfl rfl rfl rfl rfl
  | frameReceive => exact Kept.execFrameReceive h rfl rfl rfl rfl rfl
  | ack => exact Kept.execAck h rfl
  | nak => exact Kept.execNak h rfl rfl rfl rfl rfl
  | ackTimer => exact Kept.execAckTimer h rfl
  | replayTimeout => exact Kept.execReplayTimeout h rfl rfl rfl rfl rfl
  | portRetrain => exact Kept.execPortRetrain h rfl rfl rfl rfl rfl rfl
  | portDisable => exact Kept.execPortDisable h rfl rfl rfl rfl rfl rfl
  | portEnable => exact Kept.execPortEnable h rfl rfl rfl rfl
  | portRelease => exact Kept.execPortRelease h rfl rfl rfl rfl
  | inboundMemoryRead => exact Kept.execInboundMemoryRead h rfl rfl rfl
  | inboundMemoryWrite => exact Kept.execInboundMemoryWrite h rfl rfl rfl rfl rfl
  | doorbellWrite => exact Kept.execDoorbellWrite h
  | dpc => exact Kept.execDpc h rfl
  | pcieCe => exact Kept.execPcieCe h
  | pcieNonfatal => exact Kept.execPcieNonfatal h
  | configRead => exact Kept.execConfigRead h rfl rfl rfl
  | configWrite => exact Kept.execConfigWrite h rfl rfl rfl
  | cxlLinkActive => exact Kept.execCxlLinkActive h rfl rfl
  | chunkDone => exact Kept.execChunkDone h rfl rfl rfl rfl rfl rfl
  | ctxcfgWrite => exact Kept.execCtxcfgWrite h rfl rfl rfl
  | contextRequestWord => exact Kept.execContextRequestWord h rfl rfl
  | cphKwLoad => exact Kept.execCphKwLoad h rfl rfl rfl
  | accParityError => exact Kept.execAccParityError h
  | sluice => exact Kept.execSluice h rfl rfl rfl rfl rfl rfl rfl
  | sluiceX => exact Kept.execSluiceX h rfl rfl rfl rfl rfl rfl rfl
  | gateInterruptEntry => exact Kept.execGateInterruptEntry h rfl rfl rfl rfl rfl rfl rfl
  | cutClock => exact Kept.execCutClock h rfl rfl rfl rfl rfl rfl
  | cutPower => exact Kept.execCutPower h rfl rfl rfl rfl rfl rfl
  | cutRestore => exact Kept.execCutRestore h rfl rfl rfl rfl rfl rfl
  | pwrRelqRead => exact Kept.execPwrRelqRead h rfl rfl rfl
  | release => exact Kept.execRelease h rfl rfl rfl rfl rfl rfl
  | deny => exact Kept.execDeny h rfl rfl rfl rfl rfl rfl
  | interruptRoute => exact Kept.execInterruptRoute h rfl rfl rfl rfl
  | pendingSetArrival => exact Kept.execPendingSetArrival h rfl
  | interruptEntry => exact Kept.execInterruptEntry h rfl rfl rfl rfl rfl rfl rfl
  | notify => exact Kept.execNotify h rfl rfl rfl rfl
  | irSend => exact Kept.execIrSend h rfl rfl rfl rfl rfl
  | stormRefill => exact Kept.execStormRefill h rfl rfl rfl rfl
  | parcelReset => exact Kept.execParcelReset h rfl rfl rfl rfl rfl rfl rfl rfl rfl
  | parcelResetStepDone => exact Kept.execParcelResetStepDone h rfl rfl rfl rfl rfl rfl rfl rfl rfl
  | lcReset => exact Kept.execLcReset h rfl rfl rfl rfl rfl rfl rfl rfl rfl
  | pathReset => exact Kept.execPathReset h rfl rfl rfl rfl rfl rfl rfl rfl rfl
  | consent => exact Kept.execConsent h rfl rfl rfl rfl rfl rfl rfl rfl rfl
  | prStartWrite => exact Kept.execPrStartWrite h rfl rfl rfl
  | shareWindowEnd => exact Kept.execShareWindowEnd h
  | ringWindowEnd => exact Kept.execRingWindowEnd h
  | deficitRound => exact Kept.execDeficitRound h
  | faultMessageArrival => exact Kept.execFaultMessageArrival h rfl rfl rfl rfl rfl rfl
  | promotionSignal => exact Kept.execPromotionSignal h rfl rfl rfl rfl rfl rfl rfl
  | junctionSample => exact Kept.execJunctionSample h
  | tileFatalError => exact Kept.execTileFatalError h rfl rfl rfl rfl rfl rfl rfl
  | fcLogRead => exact Kept.execFcLogRead h rfl rfl rfl
  | fcInject => exact Kept.execFcInject h rfl rfl rfl
  | fcParcelEnable => exact Kept.execFcParcelEnable h rfl rfl rfl
  | graveBitClear => exact Kept.execGraveBitClear h rfl rfl rfl rfl rfl rfl
  | aliveToggle => exact Kept.execAliveToggle h rfl
  | pinEvent => exact Kept.execPinEvent h
  | pinStuck => exact Kept.execPinStuck h
  | pinUnmask => exact Kept.execPinUnmask h rfl rfl rfl
  | hello => exact Kept.execHello h rfl
  | finish => exact Kept.execFinish h rfl rfl
  | close => exact Kept.execClose h rfl rfl
  | sessionTimeout => exact Kept.execSessionTimeout h rfl rfl
  | request => exact Kept.execRequest h rfl
  | status => exact Kept.execStatus h rfl
  | csRead => exact Kept.execCsRead h rfl rfl rfl rfl rfl
  | csWrite => exact Kept.execCsWrite h rfl rfl rfl rfl rfl rfl rfl rfl rfl rfl rfl
  | imagePut => exact Kept.execImagePut h rfl rfl
  | imageEnd => exact Kept.execImageEnd h rfl rfl rfl rfl rfl rfl rfl
  | deliveryTimeout => exact Kept.execDeliveryTimeout h rfl
  | imgCmd => exact Kept.execImgCmd h rfl rfl rfl rfl rfl rfl rfl rfl rfl rfl
  | flashUpdate => exact Kept.execFlashUpdate h rfl rfl rfl
  | keySlot => exact Kept.execKeySlot h rfl
  | modeCmd => exact Kept.execModeCmd h rfl rfl rfl rfl rfl rfl rfl rfl rfl rfl
  | graveClear => exact Kept.execGraveClear h rfl rfl rfl rfl rfl
  | attest => exact Kept.execAttest h rfl
  | certs => exact Kept.execCerts h rfl
  | logRead => exact Kept.execLogRead h rfl
  | flashRead => exact Kept.execFlashRead h rfl
  | flashWrite => exact Kept.execFlashWrite h rfl rfl
  | debugUnlock => exact Kept.execDebugUnlock h rfl rfl rfl rfl rfl
  | debugLock => exact Kept.execDebugLock h rfl rfl rfl rfl rfl
  | debugUnlockExpiry => exact Kept.execDebugUnlockExpiry h rfl rfl rfl rfl
  | setEndpointId => exact Kept.execSetEndpointId h rfl
  | getEndpointId => exact Kept.execGetEndpointId h rfl
  | getMctpVersionSupport => exact Kept.execGetMctpVersionSupport h rfl
  | getMessageTypeSupport => exact Kept.execGetMessageTypeSupport h rfl
  | mgtPortFailover => exact Kept.execMgtPortFailover h rfl
  | mgtLinkUp => exact Kept.execMgtLinkUp h rfl
  | ptpEventMessage => exact Kept.execPtpEventMessage h rfl
  | routerAdvertisement => exact Kept.execRouterAdvertisement h rfl
  | bypass => exact Kept.execBypass h rfl
  | idcode => exact Kept.execIdcode h rfl
  | samplePreload => exact Kept.execSamplePreload h rfl
  | extest => exact Kept.execExtest h rfl
  | clamp => exact Kept.execClamp h rfl
  | highz => exact Kept.execHighz h rfl
  | tapHalt => exact Kept.execTapHalt h rfl rfl
  | tapResume => exact Kept.execTapResume h rfl rfl rfl rfl rfl
  | tapRegisterAccess => exact Kept.execTapRegisterAccess h rfl rfl
  | tapMemoryAccess => exact Kept.execTapMemoryAccess h rfl rfl rfl rfl rfl rfl rfl rfl rfl rfl rfl
  | tapBreakpoint => exact Kept.execTapBreakpoint h rfl rfl
  | undefinedEncoding => exact Kept.execUndefinedEncoding h rfl rfl rfl rfl rfl rfl rfl
  | instructionFetchFault => exact Kept.execInstructionFetchFault h rfl rfl rfl rfl rfl rfl rfl
  | pgoodReassertion => exact Kept.execPgoodReassertion h rfl
  | xwakeRise => exact Kept.execXwakeRise h rfl
  | pinInactiveChange => exact Kept.execPinInactiveChange h
  | peInternalFault => exact Kept.execPeInternalFault h rfl rfl rfl rfl
  | completionTimeout => exact Kept.execCompletionTimeout h rfl rfl rfl rfl
  | intxMessage => exact Kept.execIntxMessage h
  | pcieLinkActive => exact Kept.execPcieLinkActive h rfl rfl

/-- Settles O58: every arm of `exec` answers a next state, which is within the command's frame. -/
theorem everyCommandCompletesInItsFrame : Obligations.EveryCommandCompletesInItsFrame := by
  unfold Obligations.EveryCommandCompletesInItsFrame
  intro i s
  obtain ⟨t, ht⟩ := exec_next i s
  have h := exec_keeps_frame i s t ht
  exact ⟨t, ht, h.pending, h.fuses, h.wf, fun _ => h.same_of_notMem⟩

/-- Settles O59: on an empty queue the tick keeps all but the keeper and the timebase; else the front command runs with the
rest of the queue, and stays in its frame. -/
theorem everyStepKeepsMemoryFormFusesAndQueue : Obligations.EveryStepKeepsMemoryFormFusesAndQueue := by
  unfold Obligations.EveryStepKeepsMemoryFormFusesAndQueue
  intro s
  cases hq : s.pending with
  | nil =>
    have h : Kept (s.frame [.keeper, .tb]) s.pending s.fuses s.tick := (s.kept_frame _).tick rfl rfl
    exact ⟨s.tick, by simp [step, hq], h.pending.trans hq, h.wf, h.fuses⟩
  | cons i rest =>
    obtain ⟨t, ht, hp, hf, hw, -⟩ := everyCommandCompletesInItsFrame i { s with pending := rest }
    exact ⟨t, by simpa [step, hq] using ht, hp, hw, hf⟩

end Sys2Proof.Machine

namespace Sys2Proof.Machine

/-! ### What leaves the fuses alone

`Kept` says that no fuse is intact again; these say that none changes at all, of every operation that APPLY and a
re-composition are made of (R54 to R56). -/

@[simp] theorem State.ite_fuses {P : Prop} [Decidable P] (s t : State) :
    (if P then s else t).fuses = if P then s.fuses else t.fuses := apply_ite State.fuses P s t

/-- What no step of a fold changes, the fold does not change. -/
theorem State.foldl_keeps {α β : Type} (φ : State → β) {f : State → α → State}
    (hf : ∀ s a, φ (f s a) = φ s)
    (l : List α) (s : State) : φ (l.foldl f s) = φ s := by
  induction l generalizing s with
  | nil => rfl
  | cons a l ih => rw [List.foldl_cons, ih, hf]

@[simp] theorem State.foldl_fuses {α : Type} {f : State → α → State} (hf : ∀ s a, (f s a).fuses = s.fuses)
    (l : List α) (s : State) : (l.foldl f s).fuses = s.fuses := State.foldl_keeps State.fuses hf l s

/-! ### Lines, home slices and memory -/

@[simp] theorem State.maintTouch_fuses (s : State) (l : LineNo) : (s.maintTouch l).fuses = s.fuses := by
  unfold State.maintTouch
  split <;> simp

@[simp] theorem State.setMemLine_fuses (s : State) (l : LineNo) (d : Line) (p : Bool) :
    (s.setMemLine l d p).fuses = s.fuses := rfl
@[simp] theorem State.dramApply_fuses (s : State) (e : WqEntry) : (s.dramApply e).fuses = s.fuses := by
  simp [State.dramApply]

@[simp] theorem State.mcAccept_fuses (s : State) (t off : Nat) (e : WqEntry) :
    (s.mcAccept t off e).fuses = s.fuses := by
  simp [State.mcAccept]

@[simp] theorem State.brLog_fuses (s : State) (l : LineNo) (cause holder : Nat) :
    (s.brLog l cause holder).fuses = s.fuses := by
  unfold State.brLog
  split <;> simp

@[simp] theorem State.cxlDrop_fuses (s : State) (p : Port) (l : LineNo) : (s.cxlDrop p l).fuses = s.fuses := by
  simp [State.cxlDrop]

@[simp] theorem State.homeWrite_fuses (s : State) (l : LineNo) (mask : BitVec 128) (d : Line) (poison : Bool) :
    (s.homeWrite l mask d poison).fuses = s.fuses := by
  unfold State.homeWrite
  split <;> simp

@[simp] theorem State.victimAccept_fuses (s : State) (h : Nat) : (s.victimAccept h).fuses = s.fuses := by
  unfold State.victimAccept
  split <;> simp

@[simp] theorem State.victimsFor_fuses (s : State) (h : Nat) (l : LineNo) (n : Nat) :
    (s.victimsFor h l n).fuses = s.fuses := by
  induction n generalizing s with
  | zero => rfl
  | succ n ih => simp [State.victimsFor, ih]

@[simp] theorem State.victimSettle_fuses (s : State) (l : LineNo) : (s.victimSettle l).fuses = s.fuses := by
  unfold State.victimSettle
  split <;> simp

@[simp] theorem State.waitFill_fuses (s : State) (l : LineNo) : (s.waitFill l).fuses = s.fuses := by
  unfold State.waitFill
  split <;> simp

@[simp] theorem State.basinFill_fuses (s : State) (l : LineNo) (d : Line) (dirty poison : Bool) (mask age hit : Nat) :
    (s.basinFill l d dirty poison mask age hit).fuses = s.fuses := by
  unfold State.basinFill
  split
  · rfl
  · dsimp only
    split
    · simp
    · split
      · simp
      · split <;> simp

@[simp] theorem State.modTxn_fuses (s : State) (h : Nat) (l : LineNo) (f : Txn → Txn) :
    (s.modTxn h l f).fuses = s.fuses := rfl
@[simp] theorem State.sfPut_fuses (s : State) (h : Nat) (e : SfEntry) : (s.sfPut h e).fuses = s.fuses := rfl
@[simp] theorem State.sfMod_fuses (s : State) (h : Nat) (l : LineNo) (f : SfEntry → SfEntry) :
    (s.sfMod h l f).fuses = s.fuses := by
  unfold State.sfMod
  split <;> simp

@[simp] theorem State.writeback_fuses (s : State) (sl : Slot) (l : LineNo) : (s.writeback sl l).fuses = s.fuses := by
  unfold State.writeback
  split <;> simp

@[simp] theorem State.homeArrive_fuses (s : State) (l : LineNo) : (s.homeArrive l).fuses = s.fuses := by
  simp [State.homeArrive]

@[simp] theorem State.sfEnd_fuses (s : State) (l : LineNo) (held : List Slot) : (s.sfEnd l held).fuses = s.fuses := by
  unfold State.sfEnd
  split <;> simp

@[simp] theorem State.clearResvs_fuses (s : State) (l : LineNo) (except : Option Lc) :
    (s.clearResvs l except).fuses = s.fuses := rfl
@[simp] theorem State.slotInvalidate_fuses (s : State) (sl : Nat) (l : LineNo) :
    (s.slotInvalidate sl l).fuses = s.fuses := by
  unfold State.slotInvalidate
  dsimp only
  split
  · simp
  · split <;> simp

@[simp] theorem State.invalidateAll_fuses (s : State) (l : LineNo) (except : Option Slot) :
    (s.invalidateAll l except).fuses = s.fuses := by
  simp [State.invalidateAll]

@[simp] theorem State.basinDrop_fuses (s : State) (l : LineNo) : (s.basinDrop l).fuses = s.fuses := by
  unfold State.basinDrop
  split <;> simp

@[simp] theorem State.invWriteLine_fuses (s : State) (m : Master) (l : LineNo) (o : Nat) (bs : List Byte) :
    (s.invWriteLine m l o bs).fuses = s.fuses := by
  unfold State.invWriteLine
  lift_lets
  intro s0 dirtyHolder fresh inBasin s1 mask d
  have h1 : s1.fuses = s.fuses := by simp [s1, s0]
  clear_value s1 inBasin dirtyHolder
  split
  · split
    · exact h1
    · split
      · simp [h1]
      · split <;> simp [h1]
  · dsimp only
    split
    · simp [h1]
    · split <;> simp [h1]

@[simp] theorem State.invWriteAux_fuses (s : State) (m : Master) (n a : Nat) (bs : List Byte) :
    (s.invWriteAux m n a bs).fuses = s.fuses := by
  induction n generalizing s a bs with
  | zero => rfl
  | succ n ih => simp [State.invWriteAux, ih]

@[simp] theorem State.invWriteBytes_fuses (s : State) (m : Master) (a : Nat) (bs : List Byte) :
    (s.invWriteBytes m a bs).fuses = s.fuses := by
  simp [State.invWriteBytes]

@[simp] theorem State.endHold_fuses (s : State) (sl : Slot) : (s.endHold sl).fuses = s.fuses := by
  unfold State.endHold
  split <;> simp

@[simp] theorem State.snoopWrite_fuses (s : State) (l : LineNo) (d : Line) (poison : Bool) :
    (s.snoopWrite l d poison).fuses = s.fuses := by
  unfold State.snoopWrite
  dsimp only
  split <;> simp

@[simp] theorem State.snoop_fuses (s : State) (sl : Slot) (l : LineNo) (k : Snoop) (starving : Bool) :
    (s.snoop sl l k starving).1.fuses = s.fuses := by
  unfold State.snoop
  dsimp only
  split
  · rfl
  · split
    · rfl
    · split
      · rfl
      · cases k <;> dsimp only
        case peek => simp
        all_goals split <;> simp

@[simp] theorem State.maintLine_fuses (s : State) (l : LineNo) (op : Nat) (discard touched : Bool) :
    (s.maintLine l op discard touched).fuses = s.fuses := by
  unfold State.maintLine
  extract_lets s0 held s1 s1' s2
  have h1 : s1.fuses = s.fuses := by simp [s1, s0]
  have h1' : s1'.fuses = s.fuses := by simp [s1', s0]
  have h2 : s2.fuses = s.fuses := by
    dsimp only [s2]
    split <;> simp [h1']
  split
  · simp [s0]
  · split
    · split <;> simp [h1]
    · simp [h2]

/-! ### Queues -/

@[simp] theorem State.qUncorrectable_fuses (s : State) (q : Qn) : (s.qUncorrectable q).fuses = s.fuses := by
  simp [State.qUncorrectable]

@[simp] theorem State.qRefill_fuses (s : State) (q : Qn) (i : Nat) : (s.qRefill q i).fuses = s.fuses := by
  unfold State.qRefill
  dsimp only
  split
  · simp
  · rfl

@[simp] theorem State.qClose_fuses (s : State) (q : Qn) (abort : Bool) : (s.qClose q abort).fuses = s.fuses := by
  unfold State.qClose
  split <;> simp

@[simp] theorem State.qOpenCloses_fuses (s : State) (q : Qn) (w : HeldWrite) :
    (s.qOpenCloses q w).fuses = s.fuses := by
  simp [State.qOpenCloses]

@[simp] theorem State.qDrop_fuses (s : State) (q : Qn) : (s.qDrop q).fuses = s.fuses := rfl
@[simp] theorem State.qEvent_fuses (s : State) (q : Qn) (b : Nat) : (s.qEvent q b).fuses = s.fuses := rfl
@[simp] theorem State.qMakeRoom_fuses (s : State) (q : Qn) : (s.qMakeRoom q).fuses = s.fuses := by
  simp [State.qMakeRoom]

@[simp] theorem State.raiseOwned_fuses (s : State) (k cls inst event : Nat) (o : Option Nat) :
    (s.raiseOwned k cls inst event o).fuses = s.fuses := rfl
@[simp] theorem State.qRaise_fuses (s : State) (q : Qn) (event : Nat) : (s.qRaise q event).fuses = s.fuses := rfl
@[simp] theorem State.qAppend_fuses (s : State) (q : Qn) (w : QWord) : (s.qAppend q w).fuses = s.fuses := by
  simp [State.qAppend]

@[simp] theorem State.qPerformEnq_fuses (s : State) (q : Qn) (m : Master) (user : BitVec 4) (data : Word)
    (poison : Bool) :
    (s.qPerformEnq q m user data poison).fuses = s.fuses := by
  simp [State.qPerformEnq]

@[simp] theorem State.qPerformOpen_fuses (s : State) (q : Qn) (m : Master) (user : BitVec 4) :
    (s.qPerformOpen q m user).fuses = s.fuses := by
  simp [State.qPerformOpen]

@[simp] theorem State.qPerformClose_fuses (s : State) (q : Qn) (m : Master) :
    (s.qPerformClose q m).fuses = s.fuses := by
  simp [State.qPerformClose]

@[simp] theorem State.qPerform_fuses (s : State) (q : Qn) (w : HeldWrite) : (s.qPerform q w).fuses = s.fuses := by
  unfold State.qPerform
  split <;> simp

@[simp] theorem State.qArrive_fuses (s : State) (q : Qn) (w : HeldWrite) : (s.qArrive q w).fuses = s.fuses := by
  simp [State.qArrive]

@[simp] theorem State.ctxAnswered_fuses (s : State) (c : AccCtx) (ok : Bool) :
    (s.ctxAnswered c ok).fuses = s.fuses := by
  simp [State.ctxAnswered]

@[simp] theorem State.failHeld_fuses (s : State) (l : List HeldWrite) : (s.failHeld l).fuses = s.fuses := by
  unfold State.failHeld
  refine State.foldl_fuses (fun s w => ?_) l s
  dsimp only
  split
  · simp
  · split <;> simp
  · simp

@[simp] theorem State.dropAgentsBy_fuses (s : State) (gone : Nat → Bool) : (s.dropAgentsBy gone).fuses = s.fuses := by
  unfold State.dropAgentsBy
  extract_lets live s1
  have h1 : s1.fuses = s.fuses := State.foldl_fuses (by simp) _ _
  clear_value s1
  exact h1

@[simp] theorem State.dropMaster_fuses (s : State) (m : Master) :
    (s.dropMaster m).fuses = s.fuses := s.dropAgentsBy_fuses _

@[simp] theorem State.qdmaStop_fuses (s : State) (c : Qdma) : (s.qdmaStop c).fuses = s.fuses := by
  simp [State.qdmaStop]

@[simp] theorem State.qReset_fuses (s : State) (q : Qn) : (s.qReset q).fuses = s.fuses := by simp [State.qReset]

/-! ### Paths of subchannels

The path logic writes subchannels, their SC_COUNT, and messages; beside the fuses it leaves the path engines and
IMG_STATUS alone. -/

@[simp] theorem State.ite_apart {P : Prop} [Decidable P] (s t : State) :
    (if P then s else t).pes = (if P then s.pes else t.pes) ∧
      (if P then s else t).reg .imgStatus = if P then s.reg .imgStatus else t.reg .imgStatus :=
  ⟨apply_ite State.pes P s t, apply_ite (State.reg · .imgStatus) P s t⟩

theorem scCount_addr_ne_imgStatus (n : Sc) : (CsReg.scCount n).addr ≠ CsReg.imgStatus.addr := by
  simp only [CsReg.addr, scAddr, itAddr, ktAddr, winBase]
  omega

@[simp] theorem State.setReg_scCount_imgStatus (s : State) (n : Sc) (v : Word) :
    (s.setReg (.scCount n) v).reg .imgStatus = s.reg .imgStatus := s.setReg_reg_ne v (scCount_addr_ne_imgStatus n)

@[simp] theorem State.chFault_apart (s : State) (n : Sc) (e : Option Pe) (kind cls : Nat) :
    (s.chFault n e kind cls).fuses = s.fuses ∧ (s.chFault n e kind cls).pes = s.pes ∧
      (s.chFault n e kind cls).reg .imgStatus = s.reg .imgStatus := by
  rw [State.chFault, State.report_srcBufs]
  exact ⟨rfl, rfl, rfl⟩

@[simp] theorem State.scRaise_apart (s : State) (n : Sc) (event : Nat) :
    (s.scRaise n event).fuses = s.fuses ∧ (s.scRaise n event).pes = s.pes ∧
      (s.scRaise n event).reg .imgStatus = s.reg .imgStatus := ⟨rfl, rfl, rfl⟩

@[simp] theorem State.storeRec_apart (s : State) (n : Sc) (t : Nat) (r : MirrorRec) :
    (s.storeRec n t r).fuses = s.fuses ∧ (s.storeRec n t r).pes = s.pes ∧
      (s.storeRec n t r).reg .imgStatus = s.reg .imgStatus := by
  simp [State.storeRec]

@[simp] theorem State.storeBoth_apart (s : State) (n : Sc) (r : MirrorRec) :
    (s.storeBoth n r).fuses = s.fuses ∧ (s.storeBoth n r).pes = s.pes ∧
      (s.storeBoth n r).reg .imgStatus = s.reg .imgStatus := by
  simp [State.storeBoth]

@[simp] theorem State.endList_apart (s : State) (n : Sc) (code : Byte) :
    (s.endList n code).fuses = s.fuses ∧ (s.endList n code).pes = s.pes ∧
      (s.endList n code).reg .imgStatus = s.reg .imgStatus := by
  simp [State.endList]

@[simp] theorem State.park_apart (s : State) (n : Sc) (cause : Fin 3) :
    (s.park n cause).fuses = s.fuses ∧ (s.park n cause).pes = s.pes ∧
      (s.park n cause).reg .imgStatus = s.reg .imgStatus := by
  simp [State.park]

@[simp] theorem State.askClaim_apart (s : State) (n : Sc) (k : Fin 8) :
    (s.askClaim n k).fuses = s.fuses ∧ (s.askClaim n k).pes = s.pes ∧
      (s.askClaim n k).reg .imgStatus = s.reg .imgStatus := ⟨rfl, rfl, rfl⟩

@[simp] theorem State.takeOver_apart (s : State) (n : Sc) :
    (s.takeOver n).fuses = s.fuses ∧ (s.takeOver n).pes = s.pes ∧
      (s.takeOver n).reg .imgStatus = s.reg .imgStatus := by
  unfold State.takeOver
  dsimp only
  split <;> simp

@[simp] theorem State.refreshStandby_apart (s : State) (n : Sc) :
    (s.refreshStandby n).fuses = s.fuses ∧ (s.refreshStandby n).pes = s.pes ∧
      (s.refreshStandby n).reg .imgStatus = s.reg .imgStatus := by
  unfold State.refreshStandby
  extract_lets x sb s1
  split
  · simp
  · split <;> simp [s1]

@[simp] theorem State.startRevert_apart (s : State) (n : Sc) (k : Fin 8) :
    (s.startRevert n k).fuses = s.fuses ∧ (s.startRevert n k).pes = s.pes ∧
      (s.startRevert n k).reg .imgStatus = s.reg .imgStatus := by
  simp [State.startRevert]

@[simp] theorem State.pathsGained_apart (s : State) (n : Sc) :
    (s.pathsGained n).fuses = s.fuses ∧ (s.pathsGained n).pes = s.pes ∧
      (s.pathsGained n).reg .imgStatus = s.reg .imgStatus := by
  unfold State.pathsGained
  lift_lets
  intro x s1
  have h1 : s1.fuses = s.fuses ∧ s1.pes = s.pes ∧ s1.reg .imgStatus = s.reg .imgStatus := s.refreshStandby_apart n
  split
  · split <;> simp
  · split
    · simp
    · split <;> simp [h1]

@[simp] theorem State.pathFail_apart (s : State) (n : Sc) (k : Fin 8) :
    (s.pathFail n k).fuses = s.fuses ∧ (s.pathFail n k).pes = s.pes ∧
      (s.pathFail n k).reg .imgStatus = s.reg .imgStatus := by
  simp [State.pathFail]

/-- Ports that gain or lose paths change no path engine, and not IMG_STATUS. -/
theorem State.portPathsGained_apart (s : State) (p : Port) :
    (s.portPathsGained p).pes = s.pes ∧ (s.portPathsGained p).reg .imgStatus = s.reg .imgStatus :=
  ⟨State.foldl_keeps State.pes (by simp) _ _, State.foldl_keeps (State.reg · .imgStatus) (by simp) _ _⟩

theorem State.portActiveFail_apart (s : State) (p : Port) :
    (s.portActiveFail p).pes = s.pes ∧ (s.portActiveFail p).reg .imgStatus = s.reg .imgStatus :=
  ⟨State.foldl_keeps State.pes (by simp) _ _, State.foldl_keeps (State.reg · .imgStatus) (by simp) _ _⟩

/-! ### Completions and ports -/

@[simp] theorem State.mirror_fuses (s : State) (n : Sc) (kind : BitVec 4) (code : Byte) :
    (s.mirror n kind code).fuses = s.fuses := by
  unfold State.mirror
  split <;> simp

@[simp] theorem State.complEnqueue_fuses (s : State) (n : Sc) (b : StartBlock) (code : Byte) :
    (s.complEnqueue n b code).fuses = s.fuses := by
  unfold State.complEnqueue
  split <;> simp

@[simp] theorem State.acceptCompletion_fuses (s : State) (n : Sc) (code : Byte) (indoubt : Bool) :
    (s.acceptCompletion n code indoubt).fuses = s.fuses := by
  unfold State.acceptCompletion
  extract_lets x s1
  split
  · rfl
  · lift_lets
    intro a s2 s3 s4 s5
    have h1 : s1.fuses = s.fuses := by simp [s1]
    have h2 : s2.fuses = s.fuses := by simp [s2, h1]
    have h3 : s3.fuses = s.fuses := by simp [s3, h2]
    have h5 : s5.fuses = s.fuses := by simp [s5, s4, h3]
    simp [h5]

@[simp] theorem State.scReset_fuses (s : State) (n : Sc) : (s.scReset n).fuses = s.fuses := by simp [State.scReset]

@[simp] theorem State.portPathsFail_fuses (s : State) (p : Port) : (s.portPathsFail p).fuses = s.fuses := by
  simp [State.portPathsFail]

@[simp] theorem State.linkDown_fuses (s : State) (p : Port) (st : PortState) : (s.linkDown p st).fuses = s.fuses := by
  simp [State.linkDown]

@[simp] theorem State.portReset_fuses (s : State) (p : Port) : (s.portReset p).fuses = s.fuses := by
  simp [State.portReset]

@[simp] theorem State.movePorts_fuses (s : State) (old new : Image) : (s.movePorts old new).fuses = s.fuses := by
  unfold State.movePorts
  refine State.foldl_fuses (fun s p => ?_) _ s
  dsimp only
  split
  · rfl
  · simp
  · simp

/-! ### Stores of a core that stops -/

@[simp] theorem State.nackPredict_fuses (s : State) (r : Requester) (l : LineNo) :
    (s.nackPredict r l).fuses = s.fuses := by
  unfold State.nackPredict
  split
  · split <;> simp
  · rfl

@[simp] theorem State.nack_fuses (s : State) (h : Slice) (r : Requester) (l : LineNo) (k : ReqKind) (full : Bool) :
    (s.nack h r l k full).fuses = s.fuses := by
  rw [State.nack, State.nackPredict_fuses]
  repeat' split
  all_goals rfl

@[simp] theorem State.dropReq_fuses (s : State) (r : Requester) (l : LineNo) : (s.dropReq r l).fuses = s.fuses := rfl
@[simp] theorem State.evictClean_fuses (s : State) (sl : Slot) (l : LineNo) :
    (s.evictClean sl l).fuses = s.fuses := by
  unfold State.evictClean
  split <;> simp

@[simp] theorem State.emptySlot_fuses (s : State) (sl : Slot) : (s.emptySlot sl).fuses = s.fuses := by
  simp [State.emptySlot]

@[simp] theorem State.drainStores_fuses (s : State) (sl : Slot) (lc : Lc) (n : Nat) :
    (s.drainStores sl lc n).fuses = s.fuses := by
  induction n generalizing s with
  | zero => rfl
  | succ n ih =>
    unfold State.drainStores
    split <;> simp [ih]

@[simp] theorem State.issue_fuses (s : State) (n : Outstanding) : (s.issue n).fuses = s.fuses := by
  unfold State.issue
  split <;> simp

@[simp] theorem State.issueReq_fuses (s : State) (r : Requester) (l : LineNo) (k : ReqKind) :
    (s.issueReq r l k).fuses = s.fuses := by
  simp [State.issueReq]

@[simp] theorem State.drainSlot_fuses (s : State) (sl : Slot) : (s.drainSlot sl).fuses = s.fuses := by
  unfold State.drainSlot
  split
  · dsimp only
    split <;> simp
  · rfl

@[simp] theorem State.sfTouch_fuses (s : State) (l : LineNo) : (s.sfTouch l).fuses = s.fuses := by
  unfold State.sfTouch
  split <;> simp

@[simp] theorem State.sfInsert_fuses (s : State) (h : Nat) (l : LineNo) (w : Nat) :
    (s.sfInsert h l w).fuses = s.fuses := rfl
@[simp] theorem State.sfAge_fuses (s : State) (h : Nat) (l : LineNo) (up : Nat) :
    (s.sfAge h l up).fuses = s.fuses := rfl
@[simp] theorem State.sfMake_fuses (s : State) (h : Slice) (l : LineNo) : (s.sfMake h l).fuses = s.fuses := by
  unfold State.sfMake
  split
  · simp
  · split
    · rfl
    · dsimp only
      split <;> simp

@[simp] theorem State.unstarve_fuses (s : State) (h : Nat) (l : LineNo) (r : Requester) :
    (s.unstarve h l r).fuses = s.fuses := rfl
@[simp] theorem State.retake_fuses (s : State) (sl : Slot) (l : LineNo) : (s.retake sl l).fuses = s.fuses := by
  simp [State.retake]

@[simp] theorem State.caClear_fuses (s : State) (l : LineNo) : (s.caClear l).fuses = s.fuses := by
  unfold State.caClear
  split <;> simp

@[simp] theorem State.evictResv_fuses (s : State) (sl : Slot) : (s.evictResv sl).fuses = s.fuses := by
  unfold State.evictResv
  split
  · rfl
  · dsimp only
    split <;> simp

@[simp] theorem State.install_fuses (s : State) (sl : Slot) (l : LineNo) (st : Moesi) (fetch stream : Bool)
    (data : Option (Line × Bool)) :
    (s.install sl l st fetch stream data).fuses = s.fuses := by
  simp [State.install]

@[simp] theorem State.ownLine_fuses (s : State) (sl : Slot) (l : LineNo) : (s.ownLine sl l).fuses = s.fuses := by
  unfold State.ownLine
  lift_lets
  intro dirty o s0 v held s1 s2 s3
  have h1 : s1.fuses = s.fuses := by
    dsimp only [s1]
    split <;> simp [s0]
  have h3 : s3.fuses = s.fuses := by simp [s3, s2, h1]
  split
  · rfl
  · split <;> simp [h3]

@[simp] theorem State.flushStores_fuses (s : State) (sl : Slot) (lc : Lc) (n : Nat) :
    (s.flushStores sl lc n).fuses = s.fuses := by
  induction n generalizing s with
  | zero => rfl
  | succ n ih =>
    unfold State.flushStores
    split <;> simp [ih]

@[simp] theorem State.quiet_fuses (s : State) (sl : Slot) (lc : Lc) : (s.quiet sl lc).fuses = s.fuses := by
  simp [State.quiet]

@[simp] theorem State.quietStop_fuses (s : State) (sl : Slot) (lc : Lc) : (s.quietStop sl lc).fuses = s.fuses := by
  simp [State.quietStop]

@[simp] theorem State.modCore_fuses (s : State) (i : Island) (c : Fin 4) (f : PCore → PCore) :
    (s.modCore i c f).fuses = s.fuses := rfl
@[simp] theorem State.grpEvent_fuses (s : State) (i : Island) (src ev cls addr core sl off : Nat) :
    (s.grpEvent i src ev cls addr core sl off).fuses = s.fuses := by
  simp [State.grpEvent]

@[simp] theorem State.debugHalt_fuses (s : State) (lc : Lc) : (s.debugHalt lc).fuses = s.fuses := by
  unfold State.debugHalt
  dsimp only
  split
  · rfl
  · split
    · rfl
    · simp only [State.grpEvent_fuses, State.modLc_eq, State.modIsl_eq, State.setLc_fields, State.setIsl_fields]
      exact (State.foldl_fuses (by simp) _ _).trans (State.quietStop_fuses ..)

@[simp] theorem State.giveBanks_fuses (s : State) (lc : Lc) : (s.giveBanks lc).fuses = s.fuses := by
  unfold State.giveBanks
  dsimp only
  split <;> simp

/-! ### Modes -/

@[simp] theorem State.unquiesce_fuses (s : State) : s.unquiesce.fuses = s.fuses := rfl
@[simp] theorem State.ksResult_fuses (s : State) (r : Nat) : (s.ksResult r).fuses = s.fuses := rfl
@[simp] theorem State.changeMode_fuses (s : State) (m : Mode) : (s.changeMode m).fuses = s.fuses := by
  simp [State.changeMode]

@[simp] theorem State.dramRest_fuses (s : State) : s.dramRest.fuses = s.fuses := rfl
@[simp] theorem State.dropExchanges_fuses (s : State) : s.dropExchanges.fuses = s.fuses := rfl
@[simp] theorem State.enterHold_fuses (s : State) : s.enterHold.fuses = s.fuses := by simp [State.enterHold]

@[simp] theorem State.settleMode_fuses (s : State) : s.settleMode.fuses = s.fuses := by
  unfold State.settleMode
  split
  · rfl
  · split <;> simp

/-! ### The image loader -/

@[simp] theorem State.zeroMoved_fuses (s : State) (old new : Image) : (s.zeroMoved old new).fuses = s.fuses := by
  unfold State.zeroMoved
  extract_lets moved s1
  have h1 : s1.fuses = s.fuses := State.foldl_fuses (by simp) _ _
  clear_value s1
  exact h1

@[simp] theorem State.resetMoved_fuses (s : State) (old new : Image) : (s.resetMoved old new).fuses = s.fuses := by
  unfold State.resetMoved
  dsimp only
  rw [State.zeroMoved_fuses, State.foldl_fuses fun s p => ?_, State.foldl_fuses fun s q => ?_,
    State.foldl_fuses fun s n => ?_]
  all_goals simp

@[simp] theorem State.imgResult_fuses (s : State) (r : Nat) : (s.imgResult r).fuses = s.fuses := rfl
@[simp] theorem State.setPend_fuses (s : State) (st reason : Nat) : (s.setPend st reason).fuses = s.fuses := rfl
@[simp] theorem State.rebuild_fuses (s : State) (pkgs : List (Byte × List Byte)) (ps : BitVec 16) :
    (s.rebuild pkgs ps).fuses = s.fuses := rfl
@[simp] theorem State.dropDelivery_fuses (s : State) : s.dropDelivery.fuses = s.fuses := by simp [State.dropDelivery]

@[simp] theorem State.closeSession_fuses (s : State) (id : BitVec 32) : (s.closeSession id).fuses = s.fuses := by
  simp [State.closeSession]

@[simp] theorem State.keepSessions_fuses (s : State) (i : Image) : (s.keepSessions i).fuses = s.fuses := by
  simp [State.keepSessions]

end Sys2Proof.Machine

namespace Sys2Proof.Machine

/-! ### What a change of mode leaves alone (R64, R65) -/

/-- `changeMode` changes the mode, registers and messages alone. -/
theorem State.changeMode_same (s : State) (m : Mode) :
    s.changeMode m = { s with
      keeper := { s.keeper with mode := m }, regs := (s.changeMode m).regs, srcBufs := (s.changeMode m).srcBufs } := by
  unfold State.changeMode
  dsimp only
  split
  · rw [State.report_srcBufs]
    rfl
  · rfl

theorem ksStatus_addr_ne_imgStatus : CsReg.ksStatus.addr ≠ CsReg.imgStatus.addr := by decide

@[simp] theorem State.setReg_ksStatus_imgStatus (s : State) (v : Word) :
    (s.setReg .ksStatus v).reg .imgStatus = s.reg .imgStatus := s.setReg_reg_ne v ksStatus_addr_ne_imgStatus

@[simp] theorem State.changeMode_imgStatus (s : State) (m : Mode) :
    (s.changeMode m).reg .imgStatus = s.reg .imgStatus := by
  unfold State.changeMode
  dsimp only
  split <;> simp <;> rfl

/-- A table whose entries are mapped reads back the same in what the map keeps of every entry. -/
theorem Table.get_map_keeps {V β : Type} (φ : V → β) {f : V → V} (hf : ∀ v, φ (f v) = φ v) (d : V)
    (t : Table V) (k : Nat) :
    φ (Table.get d (t.map fun e => (e.1, f e.2)) k) = φ (Table.get d t k) := by
  induction t with
  | nil => rfl
  | cons e t ih =>
    rw [List.map_cons, Table.get_cons, Table.get_cons]
    split
    · exact hf e.2
    · exact ih

theorem State.unquiesce_frozen (s : State) (n : Nat) : (s.unquiesce.lc n).stops.frozen = (s.lc n).stops.frozen :=
  Table.get_map_keeps (fun l : LCore => l.stops.frozen)
    (f := fun l => { l with stops := { l.stops with quiesce := false }, reqs := { l.reqs with quiesce := false } })
    (fun _ => rfl) LCore.init s.lcs n

/-- The masters beside the logical cores that can freeze: path engines, queue DMA channels, contexts and ports (R61). -/
def State.engines (s : State) : Table PeSt × Table QdmaSt × Table CtxSt × Table PortSt :=
  (s.pes, s.qdma, s.ctxs, s.ports)

theorem State.changeMode_engines (s : State) (m : Mode) : (s.changeMode m).engines = s.engines := by
  rw [State.changeMode_same]
  rfl

theorem State.enterHold_engines (s : State) : s.enterHold.engines = s.engines := by
  unfold State.enterHold
  extract_lets start s0 s1 s2 ld s3 k s4
  have h0 : s0.engines = s.engines := by dsimp only [s0]; split <;> rfl
  have h1 : s1.engines = s0.engines := by dsimp only [s1]; split <;> rfl
  have h2 : s2.engines = s1.engines := by dsimp only [s2]; split <;> rfl
  have h3 : s3.engines = s2.engines := by dsimp only [s3]; split <;> rfl
  rw [State.changeMode_engines]
  exact h3.trans (h2.trans (h1.trans h0))

theorem State.enterHold_frozen (s : State) (n : Nat) : (s.enterHold.lc n).stops.frozen = (s.lc n).stops.frozen := by
  unfold State.enterHold
  extract_lets start s0 s1 s2 ld s3 k s4
  have h0 : (s0.lc n).stops.frozen = (s.lc n).stops.frozen := by
    dsimp only [s0]
    split
    · exact s.unquiesce_frozen n
    · rfl
  have h1 : s1.lcs = s0.lcs := by dsimp only [s1]; split <;> rfl
  have h2 : s2.lcs = s1.lcs := by dsimp only [s2]; split <;> rfl
  have h3 : s3.lcs = s2.lcs := by dsimp only [s3]; split <;> rfl
  rw [State.changeMode_same, ← h0]
  exact congrArg (fun l => (Table.get LCore.init l n).stops.frozen) (h3.trans (h2.trans h1))

/-- Where no re-composition is under way, IMG_STATUS is left alone. -/
theorem State.enterHold_imgStatus (s : State) (h : s.pendState ≠ 5) : s.enterHold.reg .imgStatus = s.reg .imgStatus := by
  unfold State.enterHold
  extract_lets start s0 s1 s2 ld s3 k s4
  have h0 : s0.reg .imgStatus = s.reg .imgStatus := by dsimp only [s0]; split <;> rfl
  have h1 : s1.reg .imgStatus = s.reg .imgStatus := by
    dsimp only [s1]
    split
    · exact (s0.setReg_ksStatus_imgStatus _).trans h0
    · exact h0
  have h2 : s2 = s1 := if_neg (by rw [State.fld, h1]; exact h)
  have h3 : s3.reg .imgStatus = s2.reg .imgStatus := by dsimp only [s3]; split <;> rfl
  rw [State.changeMode_imgStatus]
  exact h3.trans (h2 ▸ h1)

/-- A running module keeps its images. -/
theorem State.enterHold_loader (s : State) (h : s.mode = .quiesce) : s.enterHold.loader = s.loader := by
  unfold State.enterHold
  extract_lets start s0 s1 s2 ld s3 k s4
  have hs : start = false := by simp [start, h]
  have h0 : s0.loader = s.loader := by dsimp only [s0]; split <;> rfl
  have h1 : s1.loader = s0.loader := by dsimp only [s1]; split <;> rfl
  have h2 : s2.loader = s1.loader := by dsimp only [s2]; split <;> rfl
  have h3 : s3 = s2 := if_neg (by simp [hs])
  rw [State.changeMode_same]
  exact (congrArg State.loader h3).trans (h2.trans (h1.trans h0))

/-- What the evaluation of Table 3.2 can make of `s`: the same state, HOLD, or a change of mode. -/
def State.SettlesTo (s t : State) : Prop :=
  t = s ∨ t = s.enterHold ∨ ∃ k m, t = State.changeMode { s with keeper := k } m

theorem State.SettlesTo.hold_or {s t : State} (h : s.SettlesTo t) (P : Prop) [Decidable P] :
    s.SettlesTo (if P then s.enterHold else t) := by
  split
  · exact .inr (.inl rfl)
  · exact h

theorem State.settlesTo_settleMode (s : State) : s.SettlesTo s.settleMode := by
  unfold State.settleMode
  split
  · exact .inl rfl
  · split
    case h_1 | h_2 | h_3 | h_4 | h_5 =>
      refine State.SettlesTo.hold_or ?_ _
      split
      · exact .inl rfl
      · exact .inr (.inr ⟨s.keeper, _, rfl⟩)
    case h_6 | h_7 | h_8 => exact State.SettlesTo.hold_or (.inl rfl) _
    case h_9 =>
      split
      · exact .inr (.inr ⟨_, _, rfl⟩)
      · exact .inl rfl
    case h_10 => exact .inl rfl

/-- Whether a master is frozen stands in the logical cores and in `engines`. -/
theorem State.isFrozen_congr {s t : State} (hl : ∀ n, (t.lc n).stops.frozen = (s.lc n).stops.frozen)
    (he : t.engines = s.engines) (x : Master) : t.isFrozen x = s.isFrozen x := by
  simp only [State.engines, Prod.mk.injEq] at he
  obtain ⟨hpe, hdma, hctx, hport⟩ := he
  cases x <;> simp [State.isFrozen, State.pe, State.dma, State.ctx, State.port, hl, hpe, hdma, hctx, hport]

theorem State.settleMode_isFrozen (s : State) (x : Master) : s.settleMode.isFrozen x = s.isFrozen x := by
  obtain h | h | ⟨k, m, h⟩ := s.settlesTo_settleMode
  · rw [h]
  · rw [h]
    exact State.isFrozen_congr s.enterHold_frozen s.enterHold_engines x
  · rw [h]
    exact State.isFrozen_congr (fun _ => by rw [State.changeMode_same]; rfl) (State.changeMode_engines _ _) x

theorem State.settleMode_imgStatus (s : State) (h5 : s.pendState ≠ 5) :
    s.settleMode.reg .imgStatus = s.reg .imgStatus := by
  obtain h | h | ⟨k, m, h⟩ := s.settlesTo_settleMode
  · rw [h]
  · rw [h, s.enterHold_imgStatus h5]
  · rw [h]
    exact State.changeMode_imgStatus _ m

theorem State.settleMode_loader (s : State) (hm : s.mode = .quiesce) : s.settleMode.loader = s.loader := by
  obtain h | h | ⟨k, m, h⟩ := s.settlesTo_settleMode
  · rw [h]
  · rw [h, s.enterHold_loader hm]
  · rw [h, State.changeMode_same]

end Sys2Proof.Machine

namespace Sys2Proof.Machine

/-! ### IMG_STATUS (R62) -/

@[simp] theorem State.imgResult_result (s : State) (r : Nat) : (s.imgResult r).fld .imgStatus 55 52 = r % 16 := by
  simp [State.imgResult, State.fld, bits_setBits_self]

@[simp] theorem State.imgResult_pendState (s : State) (r : Nat) : (s.imgResult r).pendState = s.pendState := by
  simp [State.imgResult, State.pendState, State.fld, bits_setBits_ne]

@[simp] theorem State.setPend_pendState (s : State) (p r : Nat) : (s.setPend p r).pendState = p % 16 := by
  simp [State.setPend, State.pendState, State.fld, bits_setBits_ne, bits_setBits_self]

@[simp] theorem State.rebuild_pendState (s : State) (ps : List (Byte × List Byte)) (v : BitVec 16) :
    (s.rebuild ps v).pendState = s.pendState := rfl

/-- The value that UNFREEZE writes names the command and the source ID (R61, R62). -/
theorem bits_unfreeze (id : BitVec 16) :
    bits (BitVec.ofNat 64 (5 + id.toNat * 2 ^ 16)) 3 0 = 5 ∧
      bits (BitVec.ofNat 64 (5 + id.toNat * 2 ^ 16)) 31 16 = id.toNat := by
  have := id.isLt
  simp only [bits, BitVec.toNat_ofNat]
  omega

section
variable {s : State} {m : Master} (h : s.admits m CsReg.imgCtl.addr needW (s.privileged m) = true)
  (hz : s.mode ≠ .zeroize) (h5 : s.pendState ≠ 5)
include h hz h5

/-- An admitted write of IMG_CTL with no command executing is answered OK and reaches the command that its value names. -/
theorem State.imgCtlW_admits (v : Word) :
    (bits v 3 0 = 1 → s.imgCtlW m v = (s.respond m .ok).imgApply) ∧
    (bits v 3 0 = 2 → s.imgCtlW m v = (s.respond m .ok).imgDiscard) ∧
    (bits v 3 0 = 3 → s.imgCtlW m v = (s.respond m .ok).commitVersion) ∧
    (bits v 3 0 = 4 → s.imgCtlW m v = (s.respond m .ok).sealStructure) ∧
    (bits v 3 0 = 5 → s.imgCtlW m v = ((s.respond m .ok).unfreezeCmd (bits v 31 16)).settleMode) := by
  have hp : (s.respond m .ok).pendState ≠ 5 := h5
  rw [State.imgCtlW, State.csPriv_admits _ _ _ _ h]
  simp only [State.respond_mode, beq_iff_eq, hz, hp, if_false]
  refine ⟨?_, ?_, ?_, ?_, ?_⟩ <;> intro hv <;> simp only [hv]

theorem exec_imgApply : exec (.imgApply m) s = .next (s.respond m .ok).imgApply := by
  obtain ⟨h1, -⟩ := State.imgCtlW_admits h hz h5 1
  exact congrArg Host.Outcome.next (h1 rfl)

theorem exec_imgDiscard : exec (.imgDiscard m) s = .next (s.respond m .ok).imgDiscard := by
  obtain ⟨-, h2, -⟩ := State.imgCtlW_admits h hz h5 2
  exact congrArg Host.Outcome.next (h2 rfl)

theorem exec_commitVersion : exec (.commitVersion m) s = .next (s.respond m .ok).commitVersion := by
  obtain ⟨-, -, h3, -⟩ := State.imgCtlW_admits h hz h5 3
  exact congrArg Host.Outcome.next (h3 rfl)

theorem exec_sealFuses : exec (.sealFuses m) s = .next (s.respond m .ok).sealStructure := by
  obtain ⟨-, -, -, h4, -⟩ := State.imgCtlW_admits h hz h5 4
  exact congrArg Host.Outcome.next (h4 rfl)

theorem exec_unfreeze (id : BitVec 16) :
    exec (.unfreeze m id) s = .next ((s.respond m .ok).unfreezeCmd id.toNat).settleMode := by
  obtain ⟨h3, h31⟩ := bits_unfreeze id
  obtain ⟨-, -, -, -, hu⟩ := State.imgCtlW_admits h hz h5 (BitVec.ofNat 64 (5 + id.toNat * 2 ^ 16))
  rw [h31] at hu
  exact congrArg Host.Outcome.next (hu h3)

end

/-! ### APPLY (R53 to R55, R535) -/

/-- Closing sessions changes the open delivery, the endpoint and registers alone. -/
theorem State.closeSession_same (s : State) (id : BitVec 32) : ∃ d g r, s.closeSession id =
    { s with loader := { s.loader with delivery := d }, mgmt := g, regs := r } := by
  unfold State.closeSession State.dropDelivery
  dsimp only
  split_ifs <;> exact ⟨_, _, _, rfl⟩

theorem State.foldl_closeSession_same (l : List Sess) (s : State) : ∃ d g r,
    l.foldl (fun s x => s.closeSession x.id) s =
      { s with loader := { s.loader with delivery := d }, mgmt := g, regs := r } := by
  induction l generalizing s with
  | nil => exact ⟨_, _, _, rfl⟩
  | cons x l ih =>
    obtain ⟨d, g, r, h⟩ := s.closeSession_same x.id
    obtain ⟨d', g', r', h'⟩ := ih (s.closeSession x.id)
    refine ⟨d', g', r', ?_⟩
    rw [List.foldl_cons, h', h]

theorem State.keepSessions_same (s : State) (i : Image) : ∃ d g r, s.keepSessions i =
    { s with loader := { s.loader with delivery := d }, mgmt := g, regs := r } := s.foldl_closeSession_same _

/-- How APPLY and a re-composition end: sessions are checked against the new keys, nothing is pending, and every bank is
rebuilt (R53, R535). -/
def State.takeEffect (s : State) (i : Image) : State :=
  (((s.keepSessions i).setPend 0 0).rebuild i.packages allParcels).imgResult 0

theorem State.takeEffect_same (s : State) (i : Image) : ∃ d g r, s.takeEffect i = { s with
    loader := { s.loader with delivery := d, mc := ⟨s.loader.mc.epoch + 1, 2, i.packages, allParcels⟩ }
    mgmt := g, regs := r } := by
  obtain ⟨d, g, r, h⟩ := s.keepSessions_same i
  rw [State.takeEffect, h]
  exact ⟨_, _, _, rfl⟩

theorem State.takeEffect_status (s : State) (i : Image) :
    (s.takeEffect i).fld .imgStatus 55 52 = 0 ∧ (s.takeEffect i).pendState = 0 := by
  simp [State.takeEffect]

/-- APPLY of an image of the same structure: it runs at once, and its microcode rebuild starts (R53). -/
theorem State.applyLight_effect (s : State) (bs : List Byte) (i : Image) :
    let t := s.applyLight bs i
    t.loader.running = some ⟨bs, i, 2⟩ ∧ t.loader.staged = none ∧ t.loader.mc.state = 2 ∧
      t.loader.mc.epoch = s.loader.mc.epoch + 1 ∧ t.fld .imgStatus 55 52 = 0 ∧ t.pendState = 0 ∧ t.lcs = s.lcs ∧
      t.mem = s.mem ∧ t.keeper = s.keeper ∧ t.fuses = s.fuses := by
  unfold State.applyLight
  extract_lets ld s1 t
  have ht : t = s1.takeEffect i := rfl
  obtain ⟨d, g, r, h⟩ := s1.takeEffect_same i
  obtain ⟨hres, hpend⟩ := s1.takeEffect_status i
  rw [← ht] at h hres hpend
  clear_value t
  refine ⟨?_, ?_, ?_, ?_, hres, hpend, ?_, ?_, ?_, ?_⟩ <;> rw [h]

/-- Where an image can be applied, the admitted ones of the running structure are applied at once, and the others begin a
re-composition in QUIESCE (R54, R57). -/
theorem State.imgApply_staged (s : State) (bs : List Byte) (r : RunImage) (hrun : s.runOrQuiesce = true)
    (hmc : s.loader.mc.state = 0) (hst : s.loader.staged = some bs) (hr : s.loader.running = some r)
    (hp : s.pendState = 3) :
    (s.fuses.admits (readImage bs) = false → s.imgApply = s.imgResult 3) ∧
    (s.fuses.admits (readImage bs) = true → sameShape r.img (readImage bs) = true →
      s.imgApply = s.applyLight bs (readImage bs)) ∧
    (s.fuses.admits (readImage bs) = true → sameShape r.img (readImage bs) = false → s.mode = .quiesce →
      s.imgApply = (s.setPend 5 0).resetMoved r.img (readImage bs)) := by
  refine ⟨fun ha => ?_, fun ha hs => ?_, fun ha hs hq => ?_⟩
  · simp [State.imgApply, hrun, hmc, hst, hr, hp, ha]
  · simp [State.imgApply, hrun, hmc, hst, hr, hp, ha, hs]
  · simp [State.imgApply, hrun, hmc, hst, hr, hp, ha, hs, hq]

/-- The resets before a re-composition leave the image loader and the keeper alone (R55). -/
theorem State.resetMoved_same (s : State) (old new : Image) :
    (s.resetMoved old new).loader = s.loader ∧ (s.resetMoved old new).keeper = s.keeper := by
  have h : Kept (s.frame [.mem, .lcs, .queues, .scs, .ports, .holders, .ctxs]) s.pending s.fuses (s.resetMoved old new) :=
    (s.kept_frame _).resetMoved rfl rfl rfl rfl rfl rfl rfl
  exact ⟨h.same_of_notMem (part := .loader) (by decide), h.same_of_notMem (part := .keeper) (by decide)⟩

/-! ### COMMIT_VERSION and SEAL (R34, R57) -/

/-- The version fuses rise to the image's version, 64 at most. -/
theorem State.commitVersion_effect (s : State) (r : RunImage) (hrun : s.runOrQuiesce = true)
    (hr : s.loader.running = some r) :
    s.commitVersion.fld .imgStatus 55 52 = 0 ∧
      s.commitVersion.fuses.secVersion.val = max s.fuses.secVersion.val (min r.img.secVersion.toNat 64) ∧
      { s.commitVersion with fuses := s.fuses, regs := s.regs } = s := by
  unfold State.commitVersion
  simp only [hr, hrun, Bool.not_true, Bool.false_eq_true, if_false]
  split
  next hlt =>
    have h65 : min r.img.secVersion.toNat 64 % 65 = min r.img.secVersion.toNat 64 := Nat.mod_eq_of_lt (by omega)
    refine ⟨by simp, ?_, rfl⟩
    simp only [State.imgResult_fuses]
    omega
  next hge =>
    refine ⟨by simp, ?_, rfl⟩
    simp only [State.imgResult_fuses]
    omega

theorem State.sealStructure_effect (s : State) (r : RunImage) (hm : s.mode = .run ∨ s.mode = .degraded)
    (hr : s.loader.running = some r) :
    (s.fuses.sealDigest &&& r.img.structDigest = s.fuses.sealDigest → s.sealStructure =
      { s with fuses := { s.fuses with
          sealDigest := s.fuses.sealDigest ||| r.img.structDigest, sealed := true } }.imgResult 0) ∧
    (s.fuses.sealDigest &&& r.img.structDigest ≠ s.fuses.sealDigest → s.sealStructure = s.imgResult 4) := by
  have hmode : (s.mode != .run && s.mode != .degraded) = false := by rcases hm with h | h <;> simp [h]
  constructor <;> intro hd <;> simp [State.sealStructure, hmode, hr, hd]

/-! ### UNFREEZE (R61) -/

/-- The ports of a path engine gain or lose paths without a change of a path engine or of IMG_STATUS. -/
theorem State.foldl_ports_apart (l : List Port) (s : State) :
    let t := l.foldl (fun s p => if (s.port p.val).st == .active then s.portPathsGained p else s.portActiveFail p) s
    t.pes = s.pes ∧ t.reg .imgStatus = s.reg .imgStatus := by
  refine ⟨State.foldl_keeps State.pes (fun s p => ?_) l s,
    State.foldl_keeps (State.reg · .imgStatus) (fun s p => ?_) l s⟩
  all_goals simp [s.portPathsGained_apart p, s.portActiveFail_apart p]

theorem State.unfreeze_isFrozen (s : State) (x : Master) : (s.unfreeze x).isFrozen x = false := by
  cases x with
  | core lc => simp [State.unfreeze, State.isFrozen]
  | pathEngine e =>
    have h : (s.unfreeze (.pathEngine e)).pes = (s.modPe e.val fun x => { x with frozen := false }).pes :=
      (State.foldl_ports_apart _ _).1
    rw [State.isFrozen, State.pe, h]
    simp [State.modPe, State.setPe]
  | qdma c => simp [State.unfreeze, State.isFrozen]
  | acc c =>
    simp only [State.unfreeze, State.isFrozen, State.modCtx_eq, State.setCtx_ctx]
    split_ifs <;> rfl
  | port p => simp [State.unfreeze, State.isFrozen]
  | keeper | slot | collector | writer => rfl

theorem State.unfreeze_imgStatus (s : State) (x : Master) : (s.unfreeze x).reg .imgStatus = s.reg .imgStatus := by
  cases x with
  | pathEngine e => exact (State.foldl_ports_apart _ _).2
  | core | qdma | acc | port | keeper | slot | collector | writer => rfl

/-- UNFREEZE of the frozen master that the command names, none of whose parcels is being reset. -/
theorem State.unfreezeCmd_found (s : State) (id : Nat) (x : Master)
    (hx : (freezable.find? fun y => s.isFrozen y && s.masterSrc y = id) = some x)
    (hp : ∀ p ∈ s.masterOwners x, (s.prst p).step.val = 0) : s.unfreezeCmd id = (s.unfreeze x).imgResult 0 := by
  have hfree : (s.masterOwners x).any (fun p => decide ((s.prst p).step.val ≠ 0)) = false := by
    rw [List.any_eq_false]
    exact fun p h => by simp only [hp p h, ne_eq, not_true, decide_false, Bool.false_eq_true, not_false_eq_true]
  simp only [State.unfreezeCmd, hx, hfree, Bool.false_eq_true, if_false]

/-- A master released by UNFREEZE goes on, also where the mode then changes; memory stays. -/
theorem State.unfreeze_effect (s : State) (x : Master) (h5 : s.pendState ≠ 5) :
    let t := ((s.unfreeze x).imgResult 0).settleMode
    t.isFrozen x = false ∧ t.fld .imgStatus 55 52 = 0 ∧ t.mem = s.mem := by
  extract_lets t
  have hpend : ((s.unfreeze x).imgResult 0).pendState ≠ 5 := by
    rwa [State.imgResult_pendState, State.pendState, State.fld, s.unfreeze_imgStatus]
  refine ⟨?_, ?_, ?_⟩
  · rw [State.settleMode_isFrozen]
    exact (State.isFrozen_congr (fun _ => rfl) rfl x).trans (s.unfreeze_isFrozen x)
  · rw [State.fld, State.settleMode_imgStatus _ hpend]
    exact State.imgResult_result _ 0
  · have h : Kept (s.frame [.keeper, .loader, .lcs, .scs, .ports, .ctxs]) s.pending s.fuses t :=
      ((((s.kept_frame _).unfreeze rfl rfl rfl rfl).imgResult).settleMode rfl rfl rfl rfl)
    exact h.same_of_notMem (part := .mem) (by decide)

/-! ### The commit point (R54, R56) -/

/-- The logical cores `ls` stop and leave the slots that they have in `s`. -/
def State.vacated (s : State) (ls : List Lc) : State :=
  ls.foldl (fun s l => match (s.lc l.val).host with
    | some h => (s.quietStop h l).emptySlot h
    | none => s) s

theorem Kept.vacated {c : Track} {p : List Instr} {q : Fuses} {s : State} {ls : List Lc} (h : Kept c p q s)
    (hmem : c.mem = none) (hlcs : c.lcs = none) (hports : c.ports = none) (hholders : c.holders = none) :
    Kept c p q (s.vacated ls) := by
  refine h.foldl fun t l ht => ?_
  split
  · exact (ht.quietStop hmem hlcs hports hholders).emptySlot hmem hlcs hports hholders
  · exact ht

@[simp] theorem State.vacated_fuses (s : State) (ls : List Lc) : (s.vacated ls).fuses = s.fuses :=
  State.foldl_fuses (fun t l => by split <;> simp) ls s

/-- The banks of the new structure stand in its cores, and the halts that debug asked for act again. -/
def State.resettled (s : State) : State :=
  allLc.foldl (fun s l => if (s.lc l.val).reqs.debug then s.debugHalt l else s) (allLc.foldl (fun s l => s.giveBanks l) s)

theorem Kept.resettled {c : Track} {p : List Instr} {q : Fuses} {s : State} (h : Kept c p q s)
    (hmem : c.mem = none) (hlcs : c.lcs = none) (hports : c.ports = none) (hholders : c.holders = none) :
    Kept c p q s.resettled :=
  (h.foldl fun _ _ ht => ht.giveBanks).foldl fun _ _ ht => Kept.cond (ht.debugHalt hmem hlcs hports hholders) ht

@[simp] theorem State.resettled_fuses (s : State) : s.resettled.fuses = s.fuses :=
  (State.foldl_fuses (by simp) _ _).trans (State.foldl_fuses (by simp) _ _)

/-- The image of `bs` is in force, with nothing staged, on the cores and slices given. -/
def State.underImage (s : State) (bs : List Byte) (isls : Table Isl) (lcs : Table LCore) (slices : Table SliceSt)
    (qos : Option (List Word)) : State :=
  { s with
    isls := isls, lcs := lcs, migrations := [], slices := slices
    loader := { s.loader with running := some ⟨bs, readImage bs, 2⟩, staged := none, qosHeld := qos } }

section
variable {s placed : State} {bs : List Byte} {r : RunImage} (hst : s.loader.staged = some bs)
  (hr : s.loader.running = some r) (hm : s.mode = .quiesce) (hp : s.pendState = 5) (hres : s.resetsRun = false)
  (hplace : { s with
    isls := (List.finRange 48).map fun (n : Fin 48) => (n.val, { islInit (readImage bs) s.badCores n with
      voterOk := (s.isl n.val).voterOk, voterDead := (s.isl n.val).voterDead, timeReg := (s.isl n.val).timeReg })
    lcs := [], migrations := []
    loader := { s.loader with running := some ⟨bs, readImage bs, 2⟩ } }.placeAll (readImage bs) = some placed)
include hst hr hm hp hres hplace

/-- The commit point in its stages: the cores that move leave their slots, the ports move, the staged image takes over, and
its microcode rebuild starts. -/
theorem State.recompose_stages : ∃ ls isls lcs slices qos, s.recompose =
    ((((s.vacated ls).movePorts r.img (readImage bs)).underImage bs isls lcs slices qos).takeEffect
      (readImage bs)).resettled.settleMode := by
  unfold State.recompose
  split
  next bs' r' h1 h2 =>
    obtain rfl : bs' = bs := Option.some.inj (h1.symm.trans hst)
    obtain rfl : r' = r := Option.some.inj (h2.symm.trans hr)
    rw [if_neg (by simp [hm, hp, hres])]
    extract_lets i bad isls new
    split
    next hnone => exact absurd (hplace.symm.trans hnone) (by simp)
    next placed' hsome =>
      extract_lets gone s1 s2 lcs ld s3 s4 s5
      refine ⟨gone, s3.isls, s3.lcs, s3.slices, s3.loader.qosHeld, ?_⟩
      have h1 : s.vacated gone = s1 := rfl
      have h2 : s1.movePorts r'.img (readImage bs') = s2 := rfl
      clear_value s2
      have h3 : s2.underImage bs' s3.isls s3.lcs s3.slices s3.loader.qosHeld = s3 := rfl
      have h5 : s4.resettled = allLc.foldl (fun s l => if (s.lc l.val).reqs.debug then s.debugHalt l else s) s5 := rfl
      rw [h1, h2, h3]
      exact congrArg State.settleMode h5.symm
  next h => exact absurd hr (h bs r hst)

/-- The new structure takes over: its image runs, nothing is staged, and the microcode rebuild starts. -/
theorem State.recompose_effect :
    s.recompose.loader.running = some ⟨bs, readImage bs, 2⟩ ∧ s.recompose.loader.staged = none ∧
      s.recompose.loader.mc.epoch = s.loader.mc.epoch + 1 ∧ s.recompose.fuses = s.fuses := by
  obtain ⟨ls, isls, lcs, slices, qos, h⟩ := State.recompose_stages hst hr hm hp hres hplace
  have k2 : Kept (s.frame [.mem, .lcs, .scs, .ports, .holders]) s.pending s.fuses
      ((s.vacated ls).movePorts r.img (readImage bs)) := ((s.kept_frame _).vacated rfl rfl rfl rfl).movePorts rfl rfl
  have hf2 : ((s.vacated ls).movePorts r.img (readImage bs)).fuses = s.fuses := by simp
  generalize (s.vacated ls).movePorts r.img (readImage bs) = s2 at h k2 hf2
  have hl2 : s2.loader = s.loader := k2.same_of_notMem (part := .loader) (by decide)
  have hk2 : s2.keeper = s.keeper := k2.same_of_notMem (part := .keeper) (by decide)
  obtain ⟨d, g, rg, h3⟩ := (s2.underImage bs isls lcs slices qos).takeEffect_same (readImage bs)
  generalize (s2.underImage bs isls lcs slices qos).takeEffect (readImage bs) = s4 at h h3
  have k5 : Kept (s4.frame [.mem, .lcs, .ports, .holders]) s4.pending s4.fuses s4.resettled :=
    (s4.kept_frame _).resettled rfl rfl rfl rfl
  have hl5 : s4.resettled.loader = s4.loader := k5.same_of_notMem (part := .loader) (by decide)
  have hk5 : s4.resettled.keeper = s4.keeper := k5.same_of_notMem (part := .keeper) (by decide)
  have hk4 : s4.keeper = s.keeper := by rw [h3]; exact hk2
  have hm5 : s4.resettled.mode = .quiesce := by rw [State.mode, hk5, hk4]; exact hm
  have hl : s.recompose.loader = s4.loader := by rw [h, State.settleMode_loader _ hm5, hl5]
  have hf : s.recompose.fuses = s4.fuses := by rw [h, State.settleMode_fuses, State.resettled_fuses]
  rw [hl, hf, h3, ← hf2, ← hl2]
  exact ⟨rfl, rfl, rfl, rfl⟩

end

/-! ### The obligation -/

section
variable {s : State} {m : Master} (ha : s.admits m CsReg.imgCtl.addr needW (s.privileged m) = true)
  (hz : s.mode ≠ .zeroize) (h5 : s.pendState ≠ 5)
include ha hz h5

theorem exec_imgApply_staged (bs : List Byte) (r : RunImage) (hrun : s.runOrQuiesce = true)
    (hmc : s.loader.mc.state = 0) (hst : s.loader.staged = some bs) (hr : s.loader.running = some r)
    (hp : s.pendState = 3) :
    (s.fuses.admits (readImage bs) = false →
      exec (.imgApply m) s = .next ((s.respond m .ok).setFld .imgStatus 55 52 3)) ∧
    (s.fuses.admits (readImage bs) = true → sameShape r.img (readImage bs) = true →
      ∃ t, exec (.imgApply m) s = .next t ∧
      t.loader.running = some ⟨bs, readImage bs, 2⟩ ∧ t.loader.staged = none ∧ t.loader.mc.state = 2 ∧
      t.loader.mc.epoch = s.loader.mc.epoch + 1 ∧ t.fld .imgStatus 55 52 = 0 ∧ t.pendState = 0 ∧ t.lcs = s.lcs ∧
      t.mem = s.mem ∧ t.keeper = s.keeper ∧ t.fuses = s.fuses) ∧
    (s.fuses.admits (readImage bs) = true → sameShape r.img (readImage bs) = false → s.mode = .quiesce →
      ∃ t, exec (.imgApply m) s = .next t ∧ t.loader = s.loader ∧ t.keeper = s.keeper ∧ t.fuses = s.fuses) := by
  obtain ⟨refused, light, moved⟩ := (s.respond m .ok).imgApply_staged bs r hrun hmc hst hr hp
  rw [exec_imgApply ha hz h5]
  refine ⟨fun hf => ?_, fun hf hs => ⟨_, rfl, ?_⟩, fun hf hs hq => ⟨_, rfl, ?_⟩⟩
  · rw [refused hf, State.imgResult]
  · rw [light hf hs]
    exact (s.respond m .ok).applyLight_effect bs (readImage bs)
  · rw [moved hf hs hq]
    obtain ⟨hl, hk⟩ := ((s.respond m .ok).setPend 5 0).resetMoved_same r.img (readImage bs)
    exact ⟨hl, hk, by simp⟩

end

/-- Settles O11: a write of IMG_CTL reaches its command, and each command's effect is stated above; the commit point is
`State.recompose_effect`. -/
theorem structureCommands : Obligations.StructureCommands := by
  unfold Obligations.StructureCommands
  refine ⟨fun s m ha hz h5 => ⟨?_, ?_, ?_, ?_, ?_⟩, ?_⟩
  · exact exec_imgApply_staged ha hz h5
  · exact ⟨_, exec_imgDiscard ha hz h5, rfl, by simp [State.imgDiscard], by simp [State.imgDiscard],
      rfl, rfl, rfl, rfl⟩
  · intro r hrun hr
    obtain ⟨hres, hv, hsame⟩ := (s.respond m .ok).commitVersion_effect r hrun hr
    exact ⟨_, exec_commitVersion ha hz h5, hres, hv, congrArg (fun t : State => { t with resps := s.resps }) hsame⟩
  · intro r hm hr
    obtain ⟨sealed, conflict⟩ := (s.respond m .ok).sealStructure_effect r hm hr
    refine ⟨fun hd => ⟨_, exec_sealFuses ha hz h5, ?_⟩, fun hd => ⟨_, exec_sealFuses ha hz h5, ?_⟩⟩
    · rw [sealed hd]
      exact ⟨by simp, rfl, rfl, rfl⟩
    · rw [conflict hd]
      exact ⟨by simp, rfl⟩
  · intro id x hx hp
    refine ⟨_, exec_unfreeze ha hz h5 id, ?_⟩
    rw [(s.respond m .ok).unfreezeCmd_found id.toNat x hx hp]
    exact (s.respond m .ok).unfreeze_effect x h5
  · intro s placed bs r hst hr hm hp hres hplace
    exact ⟨_, rfl, State.recompose_effect hst hr hm hp hres hplace⟩

end Sys2Proof.Machine

namespace Sys2Proof.Machine

/-! ### The supplies (R63, R65, R552, R558) -/

/-- Settles O4: `State.supplyLoss` and `State.powerOn` write out the states that the statement describes. -/
theorem suppliesAndPowerOnReset : Obligations.SuppliesAndPowerOnReset := by
  unfold Obligations.SuppliesAndPowerOnReset
  refine ⟨fun s => ⟨s.supplyLoss, rfl, rfl, rfl, rfl, rfl, rfl, rfl, rfl, rfl, rfl, rfl⟩, fun s st hoff => ?_⟩
  have hp : s.powerOn st =
      { s with keeper := { Keeper.init with straps := st, wakeLatch := if st.ponwake then [0x01] else [] } } := by
    simp [State.powerOn, hoff]
  exact ⟨s.powerOn st, rfl, by rw [hp]; exact ⟨rfl, rfl, rfl, rfl, rfl⟩⟩

/-! ### One tick of the timebase (R73 to R75) -/

/-- The 96-bit timebase after a sum is the sum, whole nanoseconds above their fraction. -/
theorem ofInt_div_append_ofInt (x : Int) :
    BitVec.ofInt 64 (x / ((2 ^ 32 : Nat) : Int)) ++ BitVec.ofInt 32 x = BitVec.ofInt 96 x := by
  apply BitVec.eq_of_toNat_eq
  rw [BitVec.toNat_append, ← Nat.shiftLeft_add_eq_or_of_lt (BitVec.isLt _), Nat.shiftLeft_eq]
  simp only [BitVec.toNat_ofInt]
  omega

/-- A word above 32 zeros is its signed value in units of the fraction, modulo the width. -/
theorem ofInt_toInt_mul (d : Word) : BitVec.ofInt 96 (d.toInt * ((2 ^ 32 : Nat) : Int)) = d ++ (0 : BitVec 32) := by
  apply BitVec.eq_of_toNat_eq
  rw [BitVec.toNat_append, ← Nat.shiftLeft_add_eq_or_of_lt (BitVec.isLt _), Nat.shiftLeft_eq]
  have := d.isLt
  simp only [BitVec.toNat_ofInt, BitVec.toInt_eq_toNat_cond, BitVec.ofNat_eq_ofNat, BitVec.toNat_ofNat]
  split <;> omega

theorem ofInt_append (ns : Word) (frac : BitVec 32) :
    BitVec.ofInt 96 ((ns.toNat * 2 ^ 32 + frac.toNat : Nat) : Int) = ns ++ frac := by
  apply BitVec.eq_of_toNat_eq
  rw [BitVec.toNat_append, ← Nat.shiftLeft_add_eq_or_of_lt (BitVec.isLt _), Nat.shiftLeft_eq]
  have := ns.isLt
  have := frac.isLt
  simp only [BitVec.toNat_ofInt]
  omega

/-- A tick adds the increment of the clock in use and the accepted steps to the 96-bit timebase. -/
theorem State.tick_timebase (s : State) (h : s.mode ≠ .off) :
    s.tick.tb.ns ++ s.tick.tb.frac = (s.tb.ns ++ s.tb.frac) +
      (if s.tb.fast then BitVec.ofInt 96 (2 ^ 32 + s.rate) else BitVec.ofNat 96 (30517578125 * 2 ^ 32 / 1000000)) +
      (s.tb.step ++ (0 : BitVec 32)) := by
  unfold State.tick
  extract_lets t now inc total ns
  have hinc : BitVec.ofInt 96 inc =
      if s.tb.fast then BitVec.ofInt 96 (2 ^ 32 + s.rate) else BitVec.ofNat 96 (30517578125 * 2 ^ 32 / 1000000) := by
    dsimp only [inc, t]
    cases s.tb.fast <;> rfl
  rw [if_neg (by simpa using h)]
  calc ns ++ BitVec.ofInt 32 total = BitVec.ofInt 96 total := ofInt_div_append_ofInt total
    _ = BitVec.ofInt 96 now + BitVec.ofInt 96 inc + BitVec.ofInt 96 (t.step.toInt * ((2 ^ 32 : Nat) : Int)) := by
      rw [← BitVec.ofInt_add, ← BitVec.ofInt_add]
    _ = _ := by rw [ofInt_append, ofInt_toInt_mul, hinc]

/-- A tick takes the accepted steps and keeps the clock in use; beside the timebase it changes the crossings held in the
keeper alone. -/
theorem State.tick_rest (s : State) (h : s.mode ≠ .off) :
    s.tick.tb.step = 0 ∧ s.tick.tb.fast = s.tb.fast ∧ { s.tick with tb := s.tb, keeper := s.keeper } = s ∧
      s.tick.keeper.mode = s.keeper.mode := by
  have hoff : (s.mode == .off) = false := by simpa using h
  simp [State.tick, hoff]

/-- Settles O2: on an empty queue a step is `State.tick`, which does nothing in OFF. -/
theorem emptyQueueTicks : Obligations.EmptyQueueTicks := by
  unfold Obligations.EmptyQueueTicks
  intro s hq
  have hstep : step s = .next s.tick := by simp only [step, hq]
  refine ⟨fun hoff => ?_, fun hon => ⟨s.tick, hstep, s.tick_timebase hon, s.tick_rest hon⟩⟩
  have htick : s.tick = s := by simp [State.tick, hoff]
  rw [hstep, htick]

/-! ### Accesses and events of the timebase (R73 to R76) -/

@[simp] theorem State.respond_respOf (s : State) (m : Master) (r : Resp) : (s.respond m r).respOf m = some r := by
  simp [State.respond, State.respOf, setResp]

theorem State.tbNowR_admits (s : State) (m : Master) (h : s.admits m CsReg.tbNow.addr needR true = true) :
    s.tbNowR m = (s.setReg .tbFrac (BitVec.ofNat 64 s.tb.frac.toNat)).respond m (.data s.tb.ns) := by
  rw [State.tbNowR, State.csAccess_admits _ _ _ _ _ _ h]

/-- TB_STEP: a negative value under MONOTONIC is reported, any other joins the sum (R75). -/
theorem State.tbStepW_admits (s : State) (m : Master) (d : Word) (h : s.admits m CsReg.tbStep.addr needW true = true) :
    (s.fld .tbCtl 8 8 = 0 ∨ d.msb = false →
      s.tbStepW m d = { s.respond m .ok with tb := { s.tb with step := s.tb.step + d } }) ∧
    (s.fld .tbCtl 8 8 = 1 → d.msb = true → s.tbStepW m d = (s.respond m .ok).report tbSrc 0x03 clsNote 0) := by
  rw [State.tbStepW, State.csOpen_admits _ _ _ _ h]
  refine ⟨fun hd => ?_, fun hm hd => by simp [hm, hd]⟩
  rcases hd with hd | hd <;> simp [hd]

theorem State.tbFast_slow (s : State) (hf : s.tb.fast = false) (hp : s.poweringDown = false) (hoff : s.mode ≠ .off)
    (hk : s.mode ≠ .keeper) : s.tbFast = { s.tick with tb := { s.tick.tb with fast := true } } := by
  simp [State.tbFast, hf, hp, hoff, hk]

theorem State.tbSlow_keeper (s : State) (hf : s.tb.fast = true) (hk : s.mode = .keeper) :
    s.tbSlow = { s with tb := { s.tb with fast := false } } := by
  simp [State.tbSlow, hf, hk]

/-- A capture event copies NS where TB_CTL selects its source (R76). -/
theorem State.capture_eq (s : State) (c : CaptureSource) (hoff : s.mode ≠ .off) :
    s.capture c = if s.fld .tbCtl 5 4 = captureCode c then s.setReg .tbCapture s.tb.ns else s := by
  simp [State.capture, hoff]

theorem State.ppsRises_crossed (s : State) (hoff : s.mode ≠ .off) (hen : s.fld .tbCtl 0 0 = 1)
    (hq : s.keeper.ppsMult < s.now / 1000000000) : s.ppsRises = { s with keeper := { s.keeper with
      ppsOut := true, ppsMult := s.now / 1000000000, ppsRise := s.tb.ns } } := by
  simp [State.ppsRises, hoff, hen, hq]

theorem State.ppsFalls_due (s : State) (hout : s.keeper.ppsOut = true)
    (hdue : s.keeper.ppsRise.toNat + 100000000 ≤ s.now) :
    s.ppsFalls = { s with keeper := { s.keeper with ppsOut := false } } := by
  simp [State.ppsFalls, hout, hdue]

/-- Settles O9: each command is the access or the event whose effect is stated above; the switch to 1 GHz is a tick
(`State.tick_timebase`) after which the fast increment holds. -/
theorem timebaseAccesses : Obligations.TimebaseAccesses := by
  unfold Obligations.TimebaseAccesses
  refine ⟨fun s m h => ?_, fun s m d h => ?_, fun s hf hp hoff hk => ?_, fun s hf hk => ?_, fun s c hoff => ?_,
    fun s hoff hen hq => ?_, fun s hout hdue => ?_⟩
  · refine ⟨_, rfl, ?_⟩
    rw [s.tbNowR_admits m h]
    exact ⟨State.respond_respOf .., State.setReg_reg_self .., rfl⟩
  · obtain ⟨added, refused⟩ := s.tbStepW_admits m d h
    refine ⟨fun hd => congrArg Host.Outcome.next (added hd),
      fun hm hd => ⟨_, congrArg Host.Outcome.next (refused hm hd), ?_⟩⟩
    rw [State.report_srcBufs]
    exact ⟨rfl, rfl⟩
  · have hfast := s.tbFast_slow hf hp hoff hk
    have htime := s.tick_timebase hoff
    obtain ⟨-, -, hrest, -⟩ := s.tick_rest hoff
    rw [hf, if_neg Bool.false_ne_true] at htime
    exact ⟨_, congrArg Host.Outcome.next hfast, rfl, htime, (congrArg State.mem hrest :), (congrArg State.lcs hrest :),
      (congrArg State.regs hrest :)⟩
  · exact congrArg Host.Outcome.next (s.tbSlow_keeper hf hk)
  · refine ⟨fun hc => ?_, fun hc => ?_⟩
    · exact congrArg Host.Outcome.next ((s.capture_eq c hoff).trans (if_pos hc))
    · exact congrArg Host.Outcome.next ((s.capture_eq c hoff).trans (if_neg hc))
  · exact ⟨_, congrArg Host.Outcome.next (s.ppsRises_crossed hoff hen hq), rfl, rfl, rfl⟩
  · exact congrArg Host.Outcome.next (s.ppsFalls_due hout hdue)

end Sys2Proof.Machine

namespace Sys2Proof.Machine

/-! ### Fields of KS_STATUS and of the other registers -/

theorem State.setReg_fld_ne (s : State) {r q : CsReg} (v : Word) (h : r.addr ≠ q.addr) (hi lo : Nat) :
    (s.setReg r v).fld q hi lo = s.fld q hi lo := by
  rw [State.fld, s.setReg_reg_ne v h, State.fld]

theorem State.setFld_fld_self (s : State) (r : CsReg) (hi lo v : Nat) (h : lo ≤ hi) (h64 : hi < 64) :
    (s.setFld r hi lo v).fld r hi lo = v % 2 ^ (hi + 1 - lo) := by
  rw [State.setFld, State.fld_setReg_self, bits_setBits_self _ _ _ _ h h64]

/-- A field write leaves another field of the register alone. -/
theorem State.setFld_fld_apart (s : State) (r : CsReg) (hi lo v hi2 lo2 : Nat) (h : lo ≤ hi) (h64 : hi < 64)
    (hd : hi < lo2 ∨ hi2 < lo) : (s.setFld r hi lo v).fld r hi2 lo2 = s.fld r hi2 lo2 := by
  rw [State.setFld, State.fld_setReg_self, bits_setBits_ne _ _ _ _ _ _ h h64 hd, State.fld]

theorem State.ksResult_fld (s : State) (r : Nat) : (s.ksResult r).fld .ksStatus 27 24 = r % 16 :=
  s.setFld_fld_self .ksStatus 27 24 r (by omega) (by omega)

/-- KS_STATUS after a change of mode: PREV_MODE holds the mode left. -/
theorem State.changeMode_ksStatus (s : State) (m : Mode) :
    (s.changeMode m).reg .ksStatus = setBits (s.reg .ksStatus) 35 32 s.mode.code := by
  unfold State.changeMode
  dsimp only
  split <;> simp <;> rfl

/-- A change of mode leaves KS_STATUS alone outside PREV_MODE. -/
theorem State.changeMode_ksStatus_fld (s : State) (m : Mode) (hi lo : Nat) (h : 35 < lo ∨ hi < 32) :
    (s.changeMode m).fld .ksStatus hi lo = s.fld .ksStatus hi lo := by
  rw [State.fld, s.changeMode_ksStatus, bits_setBits_ne _ _ _ _ _ _ (by omega) (by omega) h, State.fld]

/-- A change of mode leaves every register but KS_STATUS alone. -/
theorem State.changeMode_reg_ne (s : State) (m : Mode) (r : CsReg) (h : CsReg.ksStatus.addr ≠ r.addr) :
    (s.changeMode m).reg r = s.reg r := by
  unfold State.changeMode
  dsimp only
  split <;> simp [State.setReg_reg_ne _ _ h] <;> rfl

/-! ### The lowest wake cause (R80) -/

/-- A running minimum is a lower bound, and is its start or a member. -/
theorem foldl_min_bounds (l : List Byte) (m : Nat) :
    let r := l.foldl (fun m c => min m c.toNat) m
    r ≤ m ∧ (∀ d ∈ l, r ≤ d.toNat) ∧ (r = m ∨ ∃ c ∈ l, r = c.toNat) := by
  induction l generalizing m with
  | nil => simp
  | cons a l ih =>
    obtain ⟨hle, hall, hmem⟩ := ih (min m a.toNat)
    rw [List.foldl_cons]
    refine ⟨by omega, List.forall_mem_cons.mpr ⟨by omega, hall⟩, ?_⟩
    rcases hmem with heq | ⟨c, hc, heq⟩
    · rcases Nat.le_total m a.toNat with hma | hma
      · exact .inl (heq.trans (Nat.min_eq_left hma))
      · exact .inr ⟨a, List.mem_cons_self, heq.trans (Nat.min_eq_right hma)⟩
    · exact .inr ⟨c, List.mem_cons_of_mem a hc, heq⟩

theorem lowestCause_least (l : List Byte) (h : l ≠ []) :
    ∃ c ∈ l, lowestCause l = c.toNat ∧ ∀ d ∈ l, c.toNat ≤ d.toNat := by
  obtain ⟨hle, hall, hmem⟩ := foldl_min_bounds l 0xFF
  rcases hmem with heq | ⟨c, hc, heq⟩
  · obtain ⟨a, ha⟩ := List.exists_mem_of_ne_nil l h
    have hge := hall a ha
    have := a.isLt
    have haeq : lowestCause l = a.toNat := by unfold lowestCause; omega
    exact ⟨a, ha, haeq, haeq ▸ hall⟩
  · exact ⟨c, hc, heq, heq ▸ hall⟩

/-! ### WAKE (R65, R70, R80) -/

/-- WAKE begins with PWREN0 high, no latch, and the cause in KS_WAKE. -/
theorem State.beginWake_effect (s : State) (cause : Nat) :
    (s.beginWake cause).keeper = { s.keeper with
      mode := .wake, trans := .none, wakePhase := .powerUp, wakeZeroize := !s.keeper.zeroLatch.isEmpty, wakeLatch := []
      zeroLatch := [], pwren := 1, holdFromStart := false, quiesced := false } ∧
    (s.beginWake cause).fld .ksWake 47 40 = cause % 256 := by
  unfold State.beginWake
  dsimp only
  refine ⟨by rw [State.changeMode_keeper]; rfl, ?_⟩
  rw [State.fld, State.changeMode_reg_ne _ _ _ (by decide)]
  exact State.setFld_fld_self _ .ksWake 47 40 cause (by omega) (by omega)

theorem State.wakeEvent_latched (s : State) (hm : s.mode = .keeper) (ht : s.keeper.trans = .none)
    (hl : s.keeper.wakeLatch ++ s.keeper.zeroLatch ≠ []) :
    s.wakeEvent = s.beginWake (lowestCause (s.keeper.wakeLatch ++ s.keeper.zeroLatch)) := by
  simp_all [State.wakeEvent]

theorem mem_addCause (l : List Byte) (c : Byte) : c ∈ addCause l c := by
  unfold addCause
  split
  next h => exact List.contains_iff_mem.mp h
  next => simp

/-- The accepted level falls; in KEEPER, with its enable set, the fall is latched. -/
theorem State.xwake_falls (s : State) (hm : s.mode = .keeper) (hh : s.keeper.xwakeHigh = true)
    (he : s.fld .ksWake 8 8 = 1) : s.xwake false = { s with keeper := { s.keeper with
      xwakeHigh := false, wakeLatch := addCause s.keeper.wakeLatch 0x02 } } := by
  simp [State.xwake, State.keeperLike, hm, hh, he]

theorem State.xwake_rises (s : State) (hm : s.mode ≠ .off) :
    s.xwake true = { s with keeper := { s.keeper with xwakeHigh := true } } := by
  simp [State.xwake, hm]

theorem State.inWake_of {s : State} {p : WakePhase} (hm : s.mode = .wake) (ht : s.keeper.trans = .none)
    (hp : s.keeper.wakePhase = p) : s.inWake p = true := by
  simp [State.inWake, hm, ht, hp]

/-- A failed WAKE records its step and powers down. -/
theorem State.wakeFail_effect (s : State) (code : Nat) :
    (s.wakeFail code).fld .ksStatus 47 40 = code % 256 ∧ (s.wakeFail code).keeper = { s.keeper with
      trans := .powerDown false, wakePhase := .none, railLost := 0, pwren := lowerTop s.keeper.pwren } :=
  ⟨s.setFld_fld_self .ksStatus 47 40 code (by omega) (by omega), rfl⟩

/-- The next output rises, or with all four on the power-up sequence ends. -/
theorem State.powerUpStep_inWake (s : State) (hw : s.inWake .powerUp = true) : s.powerUpStep =
    if s.keeper.pwren = 15 then
      { s with keeper := { s.keeper with
        pgood := 15, wakePhase := if s.keeper.wakeZeroize then .bist else .fuseSense } }
    else { s with keeper := { s.keeper with pgood := s.keeper.pwren, pwren := s.keeper.pwren * 2 + 1 } } :=
  if_neg (by simp [hw])

theorem State.fuseSensed_inWake (s : State) (hw : s.inWake .fuseSense = true) (ok : Bool) : s.fuseSensed ok =
    if ok then { s with keeper := { s.keeper with wakePhase := .bist } } else s.wakeFail 2 :=
  if_neg (by simp [hw])

/-- Settles O5: a wake event begins WAKE (`State.beginWake_effect`) with the lowest cause, and each step of WAKE goes on
or fails (`State.wakeFail_effect`). -/
theorem wakeSequence : Obligations.WakeSequence := by
  unfold Obligations.WakeSequence
  refine ⟨fun s hm ht hl => ?_, fun s hm hh he => ?_, fun s hm => ?_, fun s hm ht hp he => ?_, fun s hm ht hp he => ?_,
    fun s hm ht hp => ?_, fun s hm ht hp => ⟨?_, ?_⟩⟩
  · obtain ⟨hkeeper, hcause⟩ := s.beginWake_effect (lowestCause (s.keeper.wakeLatch ++ s.keeper.zeroLatch))
    obtain ⟨c, hc, heq, hleast⟩ := lowestCause_least _ hl
    have hcode : lowestCause (s.keeper.wakeLatch ++ s.keeper.zeroLatch) % 256 = c.toNat := by
      rw [heq]
      exact Nat.mod_eq_of_lt c.isLt
    refine ⟨_, congrArg Host.Outcome.next (s.wakeEvent_latched hm ht hl), ?_⟩
    rw [State.mode, hkeeper]
    exact ⟨rfl, rfl, rfl, rfl, rfl, rfl, c, hc, hcause.trans hcode, hleast⟩
  · exact ⟨_, congrArg Host.Outcome.next (s.xwake_falls hm hh he), rfl, mem_addCause .., rfl⟩
  · exact congrArg Host.Outcome.next (s.xwake_rises hm)
  · have hstep := s.powerUpStep_inWake (State.inWake_of hm ht hp)
    rw [if_neg he] at hstep
    exact congrArg Host.Outcome.next hstep
  · have hstep := s.powerUpStep_inWake (State.inWake_of hm ht hp)
    rw [if_pos he] at hstep
    exact ⟨_, congrArg Host.Outcome.next hstep, rfl, hm, rfl⟩
  · obtain ⟨hcode, hkeeper⟩ := s.wakeFail_effect 1
    refine ⟨_, congrArg Host.Outcome.next (if_pos (State.inWake_of hm ht hp)), hcode, ?_⟩
    rw [hkeeper]
    exact ⟨rfl, rfl⟩
  · exact ⟨_, congrArg Host.Outcome.next (s.fuseSensed_inWake (State.inWake_of hm ht hp) true), rfl, hm⟩
  · obtain ⟨hcode, hkeeper⟩ := s.wakeFail_effect 2
    refine ⟨_, congrArg Host.Outcome.next (s.fuseSensed_inWake (State.inWake_of hm ht hp) false), hcode, ?_⟩
    exact congrArg Keeper.trans hkeeper

end Sys2Proof.Machine

namespace Sys2Proof.Machine

/-! ### The power-down sequence (R70) -/

/-- An output that is still high falls; with none high the sequence ends. -/
theorem State.powerDownStep_runs (s : State) (r fell : Bool) (h : s.keeper.trans = .powerDown r) : ∃ pg,
    (s.keeper.pwren ≠ 0 → s.powerDownStep fell =
      { s with keeper := { s.keeper with pgood := pg, pwren := lowerTop s.keeper.pwren } }) ∧
    (s.keeper.pwren = 0 →
      s.powerDownStep fell = { s with keeper := { s.keeper with pgood := pg } }.powerDownEnd r) := by
  unfold State.powerDownStep
  rw [h]
  exact ⟨_, fun hne => if_neg hne, fun heq => if_pos heq⟩

/-- WAKE begins without a change outside the keeper, the registers and the messages. -/
theorem State.beginWake_same (s : State) (cause : Nat) : s.beginWake cause = { s with
    keeper := (s.beginWake cause).keeper
    regs := (s.beginWake cause).regs
    srcBufs := (s.beginWake cause).srcBufs } := by
  unfold State.beginWake
  dsimp only
  rw [State.changeMode_same]
  rfl

/-- The sequence ends in KEEPER, or after RESTART in WAKE, and the rest of the module is reset. -/
theorem State.powerDownEnd_effect (s : State) (r : Bool) : ∃ k regs bufs,
    s.powerDownEnd r = { s.moduleReset with keeper := k, regs := regs, srcBufs := bufs } ∧
    k.mode = (if r then .wake else .keeper) ∧ k.trans = .none ∧ k.pwren = (if r then 1 else 0) := by
  unfold State.powerDownEnd
  extract_lets k s1
  cases r with
  | true =>
    rw [if_pos rfl, State.beginWake_same, (s1.beginWake_effect _).1]
    exact ⟨_, _, _, rfl, rfl, rfl, rfl⟩
  | false =>
    rw [if_neg Bool.false_ne_true, State.changeMode_same]
    exact ⟨_, _, _, rfl, rfl, rfl, rfl⟩

/-! ### Self-refresh (R63, R322) -/

/-- A map that keeps the default reads as the map of what stood there. -/
theorem Table.get_map {V : Type} {f : V → V} {d : V} (hf : f d = d) (t : Table V) (k : Nat) :
    Table.get d (t.map fun e => (e.1, f e.2)) k = f (Table.get d t k) := by
  induction t with
  | nil => exact hf.symm
  | cons e t ih =>
    rw [List.map_cons, Table.get_cons, Table.get_cons, ih]
    split <;> rfl

/-- What the rest of DRAM makes of a channel. -/
def ChanSt.rest (c : ChanSt) : ChanSt := if c.issues then { c with st := .selfRefresh, openRow := [] } else c

theorem State.dramRest_chan (s : State) (n : Nat) : s.dramRest.chan n = (s.chan n).rest :=
  Table.get_map (f := ChanSt.rest) rfl s.chans n

theorem State.beginPowerDown_chan (s : State) (r : Bool) (n : Nat) (h : (s.chan n).issues = true) :
    ((s.beginPowerDown r).chan n).st = .selfRefresh ∧ ((s.beginPowerDown r).chan n).openRow = [] := by
  have hc : (s.beginPowerDown r).chan n = (s.chan n).rest := s.dramRest_chan n
  rw [hc, ChanSt.rest, if_pos h]
  exact ⟨rfl, rfl⟩

/-! ### KS_CMD: SLEEP, RESTART and ZEROIZE (R68, R82, R83) -/

/-- A command that begins a power-down answers DONE and lowers the highest output at once. -/
theorem State.ksResult_beginPowerDown (s : State) (r : Bool) :
    ((s.ksResult 0).beginPowerDown r).fld .ksStatus 27 24 = 0 ∧
      ((s.ksResult 0).beginPowerDown r).keeper = { s.keeper with
        trans := .powerDown r, wakePhase := .none, railLost := 0, pwren := lowerTop s.keeper.pwren } :=
  ⟨s.ksResult_fld 0, rfl⟩

theorem State.ksSleep_taken (s : State) (hm : s.mode = .load ∨ s.mode = .quiesce ∨ s.mode = .hold) :
    s.ksSleep = (s.ksResult 0).beginPowerDown false := by
  rcases hm with hm | hm | hm <;> simp [State.ksSleep, hm]

theorem State.ksRestart_taken (s : State) (hm : s.mode = .hold) : s.ksRestart = (s.ksResult 0).beginPowerDown true := by
  simp [State.ksRestart, hm]

/-- ZEROIZE with its confirmation enters the mode; any other confirmation answers NOT_VALID. -/
theorem State.ksZeroize_taken (s : State) (hm : s.mode.zeroizes = true) (w : BitVec 32) :
    s.ksZeroize w = if w = confirmCode then (s.ksResult 0).enterZeroize else s.ksResult 3 := by
  have hz : s.mode ≠ .zeroize := by
    intro h
    simp [h, Mode.zeroizes, Mode.running] at hm
  by_cases hw : w = confirmCode <;> simp [State.ksZeroize, hm, hz, hw]

/-! ### ZEROIZE is entered (R79, R82) -/

/-- The erasure leaves no session, no key, no cached line, no request and no staged image, and the keeper as it is. -/
theorem State.erase_effect (s : State) :
    s.erase.keeper = s.keeper ∧ s.erase.mgmt.sessions = [] ∧ s.erase.mgmt.keysValid = false ∧ s.erase.holders = [] ∧
      s.erase.outReqs = [] ∧ s.erase.loader.staged = none := by
  unfold State.erase
  extract_lets s1 s2 mg s3 s4 ld
  have hk2 : s2.keeper = s1.keeper := State.foldl_keeps State.keeper (by intros; rfl) _ _
  have hk4 : s4.keeper = s3.keeper := State.foldl_keeps State.keeper (by intros; rfl) _ _
  have hm4 : s4.mgmt = s3.mgmt := State.foldl_keeps State.mgmt (by intros; rfl) _ _
  exact ⟨hk4.trans hk2, by rw [hm4], by rw [hm4], rfl, rfl, rfl⟩

/-- The ZEROIZE action bits stand in registers: nothing that no register write changes is changed. -/
theorem State.clearZeroActions_keeps {β : Type} (φ : State → β) (hφ : ∀ s r v, φ (State.setReg s r v) = φ s)
    (s : State) : φ s.clearZeroActions = φ s :=
  (State.foldl_keeps φ (by intros; exact hφ ..) _ _).trans (State.foldl_keeps φ (by intros; exact hφ ..) _ _)

theorem State.dropExchanges_keeper (s : State) : s.dropExchanges.keeper = s.keeper := rfl

/-- ZEROIZE is entered with everything of `State.erase` erased, and ALIVE stopped. -/
theorem State.enterZeroize_effect (s : State) :
    s.enterZeroize.mode = .zeroize ∧ s.enterZeroize.mgmt.sessions = [] ∧ s.enterZeroize.mgmt.keysValid = false ∧
      s.enterZeroize.holders = [] ∧ s.enterZeroize.outReqs = [] ∧ s.enterZeroize.loader.staged = none ∧
      s.enterZeroize.keeper.aliveStopped = true := by
  unfold State.enterZeroize
  extract_lets k s1
  have hd : s1.debugEnd.keeper = s1.keeper :=
    ((s1.kept_frame [.lcs]).debugEnd rfl).same_of_notMem (part := .keeper) (by decide)
  have hc := (s1.debugEnd.dropExchanges).changeMode_keeper .zeroize
  obtain ⟨hkeeper, hsess, hkeys, hhold, hreqs, hstaged⟩ := (s1.debugEnd.dropExchanges.changeMode .zeroize).erase_effect
  rw [hc, State.dropExchanges_keeper, hd] at hkeeper
  rw [State.mode, State.clearZeroActions_keeps State.keeper (fun _ _ _ => rfl),
    State.clearZeroActions_keeps State.mgmt (fun _ _ _ => rfl),
    State.clearZeroActions_keeps State.holders (fun _ _ _ => rfl),
    State.clearZeroActions_keeps State.outReqs (fun _ _ _ => rfl),
    State.clearZeroActions_keeps State.loader (fun _ _ _ => rfl), hkeeper]
  exact ⟨rfl, hsess, hkeys, hhold, hreqs, hstaged, rfl⟩

/-! ### Rails (R71, R511) -/

theorem getLsbD_and_not_bit_self (v : BitVec 4) (g : Fin 4) : (v &&& ~~~(1#4 <<< g.val)).getLsbD g.val = false := by
  revert v g
  decide

theorem getLsbD_and_not_bit_ne (v : BitVec 4) {g k : Fin 4} (h : k ≠ g) :
    (v &&& ~~~(1#4 <<< g.val)).getLsbD k.val = v.getLsbD k.val := by
  revert v g k
  decide

theorem getLsbD_or_bit (v : BitVec 4) (g : Fin 4) : (v ||| (1#4 <<< g.val)).getLsbD g.val = true := by
  revert v g
  decide

/-- What a message is does not depend on the keeper but for its mode. -/
theorem State.report_keeper_srcBufs (s : State) (k : Keeper) (src kind cls addr : Nat) (hk : k.mode = s.keeper.mode) :
    (({ s with keeper := k } : State).report src kind cls addr).srcBufs = (s.report src kind cls addr).srcBufs := by
  have hr : ({ s with keeper := k } : State).ringsRun = s.ringsRun := by simp only [State.ringsRun, State.mode, hk]
  rw [State.report, State.report, hr]
  split <;> rfl

/-- The loss of PGOOD of a group that is on clears its PGOOD, marks it lost, and is reported as GRAVE. -/
theorem State.pgoodLoss_on (s : State) (g : Fin 4) (hp : s.poweringDown = false)
    (hon : s.keeper.pwren.getLsbD g.val = true) (hl : s.keeper.railLost.getLsbD g.val = false) :
    s.pgoodLoss g = ({ s with keeper := { s.keeper with
      pgood := s.keeper.pgood &&& ~~~(1#4 <<< g.val), railLost := s.keeper.railLost ||| (1#4 <<< g.val) } }).report
        keeperSrc 0x04 clsGrave g.val := if_neg (by rw [hp, hon, hl]; decide)

theorem State.pgoodBack_lost (s : State) (g : Fin 4) (hp : s.poweringDown = false)
    (hl : s.keeper.railLost.getLsbD g.val = true) : s.pgoodBack g = { s with keeper := { s.keeper with
      pgood := s.keeper.pgood ||| (1#4 <<< g.val), railLost := s.keeper.railLost &&& ~~~(1#4 <<< g.val) } } :=
  if_neg (by rw [hp, hl]; decide)

/-! ### The obligation -/

section
variable {s : State} {m : Master} (h : s.admits m CsReg.ksCmd.addr needW (s.privileged m) = true)
  (ht : s.keeper.trans = .none)
include h ht

theorem exec_ksSleep (hz : s.mode ≠ .zeroize) : exec (.ksSleep m) s = .next (s.respond m .ok).ksSleep :=
  congrArg Host.Outcome.next (State.ksWrite_admits s m false State.ksSleep h ht (.inl hz))

theorem exec_ksRestart (hz : s.mode ≠ .zeroize) : exec (.ksRestart m) s = .next (s.respond m .ok).ksRestart :=
  congrArg Host.Outcome.next (State.ksWrite_admits s m false State.ksRestart h ht (.inl hz))

theorem exec_ksZeroize (w : BitVec 32) : exec (.ksZeroize m w) s = .next ((s.respond m .ok).ksZeroize w) :=
  congrArg Host.Outcome.next (State.ksWrite_admits s m true (fun s => s.ksZeroize w) h ht (.inr rfl))

end

/-- Settles O7: the sequence steps down and ends in a module reset (`State.powerDownEnd_effect`); SLEEP, RESTART and
ZEROIZE_COMPLETE begin it, and ZEROIZE is entered erased (`State.enterZeroize_effect`). -/
theorem powerDownAndRails : Obligations.PowerDownAndRails := by
  unfold Obligations.PowerDownAndRails
  refine ⟨fun s r fell ht => ?_, fun s m h ht => ⟨fun hm => ?_, fun hm => ?_, fun hm => ?_, fun w hw hm => ?_⟩,
    fun s hm ht => ?_, fun s g hp => ⟨fun hon hl => ?_, fun hl => ?_⟩⟩
  · obtain ⟨pg, falls, ends⟩ := s.powerDownStep_runs r fell ht
    refine ⟨fun hne => ⟨_, congrArg Host.Outcome.next (falls hne), rfl, rfl, rfl⟩, fun heq => ?_⟩
    obtain ⟨k, regs, bufs, hend, hmode, htrans, hpwren⟩ :=
      ({ s with keeper := { s.keeper with pgood := pg } } : State).powerDownEnd_effect r
    exact ⟨_, congrArg Host.Outcome.next ((ends heq).trans hend), hmode, htrans, hpwren,
      rfl, rfl, rfl, rfl, rfl, rfl, rfl, rfl⟩
  · have hz : s.mode ≠ .zeroize := by rcases hm with hm | hm | hm <;> simp [hm]
    obtain ⟨hres, hkeeper⟩ := (s.respond m .ok).ksResult_beginPowerDown false
    refine ⟨_, exec_ksSleep h ht hz, ?_⟩
    rw [(s.respond m .ok).ksSleep_taken hm, hkeeper]
    exact ⟨rfl, rfl, hres⟩
  · obtain ⟨hres, hkeeper⟩ := (s.respond m .ok).ksResult_beginPowerDown true
    refine ⟨_, exec_ksRestart h ht (by simp [hm]), ?_⟩
    rw [(s.respond m .ok).ksRestart_taken hm, hkeeper]
    exact ⟨rfl, rfl, hres⟩
  · refine ⟨_, exec_ksZeroize h ht confirmCode, ?_⟩
    rw [(s.respond m .ok).ksZeroize_taken hm, if_pos rfl]
    exact State.enterZeroize_effect _
  · refine ⟨_, exec_ksZeroize h ht w, ?_⟩
    rw [(s.respond m .ok).ksZeroize_taken hm, if_neg hw]
    exact ⟨rfl, State.ksResult_fld _ 3⟩
  · have hstep : s.zeroizeComplete = s.beginPowerDown false := if_pos (by simp [hm, ht])
    exact ⟨_, congrArg Host.Outcome.next hstep, rfl, rfl, fun n => s.beginPowerDown_chan false n, rfl⟩
  · refine ⟨_, congrArg Host.Outcome.next (s.pgoodLoss_on g hp hon hl), ?_⟩
    rw [State.report_srcBufs]
    exact ⟨getLsbD_and_not_bit_self .., getLsbD_or_bit .., fun k hk => getLsbD_and_not_bit_ne _ hk,
      s.report_keeper_srcBufs _ _ _ _ _ rfl, rfl⟩
  · exact ⟨_, congrArg Host.Outcome.next (s.pgoodBack_lost g hp hl), getLsbD_or_bit ..,
      getLsbD_and_not_bit_self .., rfl⟩

end Sys2Proof.Machine

namespace Sys2Proof.Machine

/-! ### The self-test of WAKE (R65, R79) -/

/-- LOAD is entered with neither copy tried and the identity keys valid; cores and memory stay. -/
theorem State.enterLoad_effect (s : State) (d : List (Chan × Dimm)) :
    (s.enterLoad d).mode = .load ∧ (s.enterLoad d).keeper.triedA = false ∧ (s.enterLoad d).keeper.triedB = false ∧
      (s.enterLoad d).mgmt.keysValid = true ∧ (s.enterLoad d).lcs = s.lcs ∧ (s.enterLoad d).mem = s.mem := by
  unfold State.enterLoad
  extract_lets k k1
  generalize hu : ({ s with keeper := k1, mgmt := { s.mgmt with keysValid := true } } : State) = u
  have kept : Kept (u.frame []) u.pending u.fuses (u.readSpds d) := (u.kept_frame []).readSpds
  have hkeeper : (u.readSpds d).keeper = u.keeper := kept.same_of_notMem (part := .keeper) (by decide)
  have hmgmt : (u.readSpds d).mgmt = u.mgmt := kept.same_of_notMem (part := .mgmt) (by decide)
  have hlcs : (u.readSpds d).lcs = u.lcs := kept.same_of_notMem (part := .lcs) (by decide)
  have hmem : (u.readSpds d).mem = u.mem := kept.same_of_notMem (part := .mem) (by decide)
  rw [State.changeMode_same, hkeeper, hmgmt, hlcs, hmem, ← hu]
  exact ⟨rfl, rfl, rfl, rfl, rfl, rfl⟩

/-- The end of the self-test: WAKE fails, passes to ZEROIZE, or passes to LOAD. -/
theorem State.keeperBistDone_inWake (s : State) (hw : s.inWake .bist = true) (d : List (Chan × Dimm)) :
    s.keeperBistDone false d = s.wakeFail 3 ∧
      s.keeperBistDone true d = if s.keeper.wakeZeroize then s.enterZeroize else s.enterLoad d := by
  constructor <;> simp [State.keeperBistDone, hw]

/-! ### Validation of a flash copy (R48, R50) -/

/-- The copy in turn marked as tried, with the reason of its validation in ERR_A or ERR_B. -/
def State.copyChecked (s : State) (b : Bool) : State :=
  let k := s.keeper
  (({ s with keeper := if b then { k with triedB := true } else { k with triedA := true } }).setFld .imgStatus
    (if b then 47 else 39) (if b then 40 else 32) (validate s.fuses none (s.copyBytes b))).setDetail
      (validate s.fuses none (s.copyBytes b)) (s.copyBytes b)

theorem State.copyValidated_next (s : State) (fails : List Core) (b : Bool) (hm : s.mode = .load)
    (ht : s.keeper.trans = .none) (hb : s.nextCopy = some b) : s.copyValidated fails =
      if validate s.fuses none (s.copyBytes b) = 0 then
        (s.copyChecked b).enterCompose ((s.copyBytes b).take (imgTotal (s.copyBytes b))) (if b then 1 else 0) fails
      else s.copyChecked b := by
  unfold State.copyValidated
  rw [if_neg (by simp [hm, ht]), hb]
  rfl

theorem State.setDetail_same (s : State) (r : Nat) (bs : List Byte) : ∃ regs,
    s.setDetail r bs = { s with regs := regs } ∧ (s.setDetail r bs).reg .imgStatus = s.reg .imgStatus := by
  unfold State.setDetail
  split
  · exact ⟨_, rfl, s.setReg_reg_ne _ (by decide)⟩
  · exact ⟨s.regs, rfl, rfl⟩

/-- A checked copy is tried, and its reason stands in its field; beside the keeper only registers change. -/
theorem State.copyChecked_effect (s : State) (b : Bool) : ∃ regs,
    s.copyChecked b = { s with regs := regs, keeper :=
      if b then { s.keeper with triedB := true } else { s.keeper with triedA := true } } ∧
    (s.copyChecked b).fld .imgStatus (if b then 47 else 39) (if b then 40 else 32) =
      validate s.fuses none (s.copyBytes b) % 256 := by
  unfold State.copyChecked
  extract_lets k
  generalize hu : ({ s with keeper := if b then { k with triedB := true } else { k with triedA := true } } : State) = u
  obtain ⟨regs, hsame, hstatus⟩ := (u.setFld .imgStatus (if b then 47 else 39) (if b then 40 else 32)
    (validate s.fuses none (s.copyBytes b))).setDetail_same (validate s.fuses none (s.copyBytes b)) (s.copyBytes b)
  refine ⟨regs, ?_, ?_⟩
  · rw [hsame, ← hu]
    rfl
  · rw [State.fld, hstatus]
    cases b <;> exact u.setFld_fld_self .imgStatus _ _ _ (by decide) (by decide)

@[simp] theorem State.composeMemory_fuses (s : State) : s.composeMemory.fuses = s.fuses := by
  simp [State.composeMemory]

@[simp] theorem State.formPorts_fuses (s : State) (i : Image) : (s.formPorts i).fuses = s.fuses :=
  State.foldl_fuses (fun t r => by split <;> simp) i.ports _

/-- COMPOSE is entered with the image composing; the keeper but for its mode, the fuses and the flash stay. -/
theorem State.enterCompose_effect (s : State) (bytes : List Byte) (source : BitVec 2) (fails : List Core) :
    let t := s.enterCompose bytes source fails
    t.keeper = { s.keeper with mode := .compose } ∧ t.fuses = s.fuses ∧ t.loader.flash = s.loader.flash ∧
      ∃ r, t.loader.composing = some r ∧ r.source = source ∧ r.bytes = bytes := by
  unfold State.enterCompose
  extract_lets i ld s1 s2 t
  have kept : Kept (s1.frame [.ports]) s1.pending s1.fuses (s2.composeMemory.formPorts i) :=
    ((s1.kept_frame [.ports]).foldl fun _ _ h => h.setIsl).composeMemory.formPorts rfl
  have hkeeper : (s2.composeMemory.formPorts i).keeper = s1.keeper := kept.same_of_notMem (part := .keeper) (by decide)
  have hloader : (s2.composeMemory.formPorts i).loader = s1.loader := kept.same_of_notMem (part := .loader) (by decide)
  have hfuses : (s2.composeMemory.formPorts i).fuses = s1.fuses := by simp [s2]
  have ht : t = _ := (s2.composeMemory.formPorts i).changeMode_same .compose
  have hk := (s2.composeMemory.formPorts i).changeMode_keeper .compose
  rw [hkeeper] at hk
  rw [hfuses, hloader] at ht
  refine ⟨hk, ?_, ?_, ⟨bytes, i, source⟩, ?_, rfl, rfl⟩
  all_goals rw [ht]

/-! ### The end of a composition (R49, R201, R202) -/

@[simp] theorem State.settleSlot_fuses (s : State) (i : Island) (k : Fin 4) : (s.settleSlot i k).fuses = s.fuses := rfl

@[simp] theorem State.freeOwn_fuses (s : State) (i : Island) (lay k : Nat) : (s.freeOwn i lay k).fuses = s.fuses :=
  State.foldl_fuses (fun _ _ => State.modCore_fuses ..) _ s

@[simp] theorem State.placeOn_fuses (s : State) (lc : Lc) (i : Island) (k : Fin 4) (cs : List (Fin 4)) (w : Nat) :
    (s.placeOn lc i k cs w).fuses = s.fuses := rfl

/-- A logical core that can be placed leaves the fuses alone. -/
theorem State.drawPlace_fuses (s : State) (e : Nat × Nat × Nat × Nat) {t : State} (h : s.drawPlace e = some t) :
    t.fuses = s.fuses := by
  unfold State.drawPlace at h
  split at h
  · extract_lets lay w own p tgt at h
    clear_value tgt
    split at h
    · obtain rfl := Option.some.inj h
      simp
    · split at h
      · cases h
      · obtain rfl := Option.some.inj h
        simp
  · cases h

/-- Steps that may have no result, one after another, leave the fuses alone where each does. -/
theorem foldl_bind_fuses {α : Type} {g : State → α → Option State}
    (hg : ∀ s a t, g s a = some t → t.fuses = s.fuses) (l : List α) (o : Option State) {t : State}
    (h : l.foldl (fun o a => o.bind fun s => g s a) o = some t) : ∃ s, o = some s ∧ t.fuses = s.fuses := by
  induction l generalizing o with
  | nil => exact ⟨t, h, rfl⟩
  | cons a l ih =>
    obtain ⟨u, hu, ht⟩ := ih _ h
    obtain ⟨s, rfl, hs⟩ := Option.bind_eq_some_iff.mp hu
    exact ⟨s, rfl, ht.trans (hg s a u hs)⟩

theorem State.placeAll_fuses (s : State) (i : Image) {t : State} (h : s.placeAll i = some t) : t.fuses = s.fuses := by
  unfold State.placeAll at h
  extract_lets full s1 rest at h
  have hdraw : ∀ (s : State) (n : Nat) (t : State), (match rest.find? fun e => e.1 = n with
      | some e => s.drawPlace e
      | none => some s) = some t → t.fuses = s.fuses := by
    intro s n t hg
    split at hg
    · exact s.drawPlace_fuses _ hg
    · rw [Option.some.inj hg]
  obtain ⟨u, hu, ht⟩ := foldl_bind_fuses hdraw _ _ h
  have h1 : s1.fuses = s.fuses := State.foldl_fuses (fun t e => by split <;> simp) _ s
  rw [ht, ← Option.some.inj hu, h1]

@[simp] theorem State.resetLc_fuses (s : State) (lc : Lc) (p : Nat) : (s.resetLc lc p).fuses = s.fuses := rfl

/-- Table 3.2 gives no mode of the start. -/
theorem State.modeOf_ne_compose (s : State) : s.modeOf ≠ .compose := by
  unfold State.modeOf
  split_ifs <;> decide

section
variable {s s1 : State} {r : RunImage} (hm : s.mode = .compose) (ht : s.keeper.trans = .none)
  (hready : s.memoryReady = true) (hr : s.loader.composing = some r)
  (hp : { s with lcs := [] }.placeAll r.img = some s1)
include hm ht hready hr hp

/-- Once every core has its place, the banks are given, the composing image runs, and COMPOSE is left. -/
theorem State.composeComplete_placed (u : List (Port × Nat)) : ∃ (v : State) (m : Mode), m ≠ .compose ∧
    v.fuses = s.fuses ∧ s.composeComplete u = ({ v with loader := { v.loader with
      running := some r, composing := none, mc := ⟨1, 0, r.img.packages, 0⟩ } } : State).changeMode m := by
  unfold State.composeComplete
  split
  next hnone => exact absurd (hr.symm.trans hnone) (by simp)
  next r' hsome =>
    obtain rfl : r' = r := Option.some.inj (hsome.symm.trans hr)
    rw [if_neg (by simp [hm, hready, ht])]
    split
    next hnone => exact absurd (hp.symm.trans hnone) (by simp)
    next placed hplaced =>
      extract_lets ps s2 s3 ld s4
      have h1 : placed.fuses = s.fuses := (State.placeAll_fuses _ _ hplaced :)
      have h2 : s2.fuses = placed.fuses := by
        refine State.foldl_fuses (fun t e => ?_) _ placed
        split
        · simp
        · rfl
      have h3 : s3.fuses = s2.fuses := State.foldl_fuses (fun t e => by split <;> simp) u s2
      exact ⟨s3, s4.modeOf, s4.modeOf_ne_compose, h3.trans (h2.trans h1), rfl⟩

/-- The composed image runs at microcode epoch 1; fuses and memory stay. -/
theorem State.composeComplete_effect (u : List (Port × Nat)) :
    let t := s.composeComplete u
    t.loader.running = some r ∧ t.loader.composing = none ∧ t.loader.mc.epoch = 1 ∧ t.mode ≠ .compose ∧
      t.fuses = s.fuses ∧ t.mem = s.mem := by
  obtain ⟨v, m, hne, hfuses, heq⟩ := State.composeComplete_placed hm ht hready hr hp u
  have kept : Kept (s.frame [.keeper, .loader, .lcs, .ports]) s.pending s.fuses (s.composeComplete u) :=
    (s.kept_frame _).composeComplete rfl rfl rfl rfl
  have hmem : (s.composeComplete u).mem = s.mem := kept.same_of_notMem (part := .mem) (by decide)
  intro t
  refine ⟨?_, ?_, ?_, ?_, ?_, hmem⟩
  all_goals rw [show t = _ from heq, State.changeMode_same]
  · exact hne
  · exact hfuses

end

/-- Settles O6: the self-test ends as `State.keeperBistDone_inWake` says; a checked copy (`State.copyChecked_effect`)
enters COMPOSE or leaves LOAD as it is; a placed composition runs (`State.composeComplete_effect`). -/
theorem loadAndComposition : Obligations.LoadAndComposition := by
  unfold Obligations.LoadAndComposition
  refine ⟨fun s d hm ht hp => ?_, fun s b f hm ht hb => ?_, fun s s1 u r hm ht hready hr hp => ?_⟩
  · obtain ⟨failed, passed⟩ := s.keeperBistDone_inWake (State.inWake_of hm ht hp) d
    refine ⟨?_, fun hz => ?_, fun hz => ?_⟩
    · obtain ⟨hcode, hkeeper⟩ := s.wakeFail_effect 3
      refine ⟨_, congrArg Host.Outcome.next failed, hcode, ?_⟩
      rw [State.mode, hkeeper]
      exact ⟨rfl, hm⟩
    · rw [if_pos hz] at passed
      obtain ⟨hmode, hsess, hkeys, hhold, -⟩ := s.enterZeroize_effect
      exact ⟨_, congrArg Host.Outcome.next passed, hmode, hkeys, hsess, hhold⟩
    · rw [if_neg (by simp [hz])] at passed
      exact ⟨_, congrArg Host.Outcome.next passed, s.enterLoad_effect d⟩
  · have hstep := s.copyValidated_next f b hm ht hb
    obtain ⟨regs, hsame, hreason⟩ := s.copyChecked_effect b
    by_cases hv : validate s.fuses none (s.copyBytes b) = 0
    · rw [if_pos hv] at hstep
      obtain ⟨hkeeper, hfuses, hflash, himage⟩ := (s.copyChecked b).enterCompose_effect
        ((s.copyBytes b).take (imgTotal (s.copyBytes b))) (if b then 1 else 0) f
      refine ⟨_, congrArg Host.Outcome.next hstep, ?_, ?_, ?_, fun _ => ⟨?_, himage⟩, fun hne => absurd hv hne⟩
      · rw [hkeeper, hsame]
        cases b <;> rfl
      · rw [hfuses, hsame]
      · rw [hflash, hsame]
      · rw [State.mode, hkeeper]
    · rw [if_neg hv] at hstep
      refine ⟨_, congrArg Host.Outcome.next hstep, ?_, ?_, ?_, fun heq => absurd heq hv, fun _ => ⟨?_, ?_, ?_⟩⟩
      · rw [hsame]
        cases b <;> rfl
      · rw [hsame]
      · rw [hsame]
      · rw [hsame, State.mode]
        cases b <;> exact hm
      · rw [hsame]
      · cases b <;> exact hreason
  · exact ⟨_, rfl, State.composeComplete_effect hm ht hready hr hp u⟩

end Sys2Proof.Machine

namespace Sys2Proof.Machine

/-! ### A write of KS_CMD (R68, R83) -/

section
variable {s : State} {m : Master} (h : s.admits m CsReg.ksCmd.addr needW (s.privileged m) = true)
include h

/-- In ZEROIZE a command other than ZEROIZE answers WRONG_MODE; while a transition runs, every other mode answers
BUSY. -/
theorem State.ksWrite_refused (k : State → State) :
    (s.mode = .zeroize → s.ksWrite m false k = (s.respond m .ok).ksResult 2) ∧
    (s.mode ≠ .zeroize → s.keeper.trans ≠ .none → s.ksWrite m false k = (s.respond m .ok).ksResult 1) := by
  rw [State.ksWrite, State.csPriv_admits _ _ _ _ h]
  exact ⟨fun hz => by simp [hz], fun hz ht => by simp [hz, ht]⟩

/-- The KS_CMD commands beside ZEROIZE are writes that ZEROIZE refuses. -/
theorem exec_ksCmd_refused (k : BitVec 4) (c : Instr)
    (hc : c ∈ [Instr.ksQuiesce m, .ksResume m, .ksIsolate m k, .ksRestore m k, .ksSleep m, .ksRestart m]) :
    (s.mode = .zeroize → exec c s = .next ((s.respond m .ok).ksResult 2)) ∧
    (s.mode ≠ .zeroize → s.keeper.trans ≠ .none → exec c s = .next ((s.respond m .ok).ksResult 1)) := by
  have hw : ∃ f : State → State, exec c s = .next (s.ksWrite m false f) := by
    simp only [List.mem_cons, List.not_mem_nil, or_false] at hc
    rcases hc with rfl | rfl | rfl | rfl | rfl | rfl <;> exact ⟨_, rfl⟩
  obtain ⟨f, hf⟩ := hw
  obtain ⟨wrong, busy⟩ := State.ksWrite_refused h f
  rw [hf]
  exact ⟨fun hz => congrArg Host.Outcome.next (wrong hz), fun hz ht => congrArg Host.Outcome.next (busy hz ht)⟩

end

/-! ### QUIESCE (R66) -/

/-- A hosted core is asked to stop for QUIESCE. -/
def State.askQuiesce (s : State) (l : Lc) : State :=
  if (s.lc l.val).host.isSome then s.modLc l.val fun c => { c with reqs := { c.reqs with quiesce := true } } else s

theorem State.askQuiesce_keeper (s : State) (l : Lc) : (s.askQuiesce l).keeper = s.keeper := by
  unfold State.askQuiesce
  split <;> rfl

/-- Asking a core leaves hosts alone, takes no request back, and reaches the core where it is hosted. -/
theorem State.askQuiesce_lc (s : State) (l : Lc) (n : Nat) :
    ((s.askQuiesce l).lc n).host = (s.lc n).host ∧
    ((s.lc n).reqs.quiesce = true → ((s.askQuiesce l).lc n).reqs.quiesce = true) ∧
    (l.val = n → (s.lc n).host.isSome = true → ((s.askQuiesce l).lc n).reqs.quiesce = true) := by
  unfold State.askQuiesce
  by_cases hn : l.val = n
  · subst hn
    by_cases hh : (s.lc l.val).host.isSome = true <;> simp [hh]
  · split <;> simp [State.setLc_lc_ne _ _ hn, hn]

theorem State.foldl_askQuiesce_lc (ls : List Lc) (s : State) (n : Nat) (hh : (s.lc n).host.isSome = true)
    (hl : (∃ l ∈ ls, l.val = n) ∨ (s.lc n).reqs.quiesce = true) :
    ((ls.foldl State.askQuiesce s).lc n).reqs.quiesce = true := by
  induction ls generalizing s with
  | nil => simpa using hl
  | cons a ls ih =>
    obtain ⟨hhost, hkeeps, hasks⟩ := s.askQuiesce_lc a n
    refine ih (s.askQuiesce a) (hhost ▸ hh) ?_
    rcases hl with ⟨l, hmem, heq⟩ | hq
    · rcases List.mem_cons.mp hmem with rfl | hmem
      · exact .inr (hasks heq hh)
      · exact .inl ⟨l, hmem, heq⟩
    · exact .inr (hkeeps hq)

/-- QUIESCE in a running mode starts its transition and asks every hosted core. -/
theorem State.ksQuiesce_running (s : State) (hm : s.mode.running = true) : ∃ u : State,
    s.ksQuiesce = { u with keeper := { u.keeper with trans := .quiescing } } ∧ u.keeper = s.keeper ∧
      ∀ l : Lc, (s.lc l.val).host.isSome = true → (u.lc l.val).reqs.quiesce = true := by
  unfold State.ksQuiesce
  rw [if_neg (by simp [hm])]
  extract_lets s1 k
  have h1 : s1 = allLc.foldl State.askQuiesce s := List.foldl_ext _ _ s fun _ _ _ => rfl
  refine ⟨s1, rfl, ?_, fun l hh => ?_⟩
  · rw [h1]
    exact State.foldl_keeps State.keeper State.askQuiesce_keeper allLc s
  · rw [h1]
    exact State.foldl_askQuiesce_lc allLc s l.val hh (.inl ⟨l, List.mem_finRange l, rfl⟩)

/-- QUIESCE ends in the mode of its name where no collector is at GRAVE. -/
theorem State.settleMode_quiesced (s : State) (hm : s.mode.running = true) (ht : s.keeper.trans = .none)
    (hg : s.gravePresent = false) (hq : s.keeper.quiesced = true) : s.settleMode = s.changeMode .quiesce := by
  have hof : s.modeOf = .quiesce := by simp [State.modeOf, hg, hq]
  have hp : s.poweringDown = false := by simp [State.poweringDown, ht]
  unfold State.settleMode
  rw [hp, if_neg Bool.false_ne_true, hof]
  cases h : s.mode <;> simp_all [Mode.running]

theorem State.ksResult_gravePresent (s : State) (r : Nat) : (s.ksResult r).gravePresent = s.gravePresent := by
  have hne (k : Tile) : CsReg.ksStatus.addr ≠ (CsReg.fcStatus k).addr := by
    revert k
    decide
  simp only [State.gravePresent, State.ksResult, State.setFld, State.setReg_fld_ne _ _ (hne _)]

theorem State.quiesceComplete_stopped (s : State) (ht : s.keeper.trans = .quiescing) (hs : s.mastersStopped = true)
    (hm : s.mode.running = true) (hg : s.gravePresent = false) : s.quiesceComplete =
      (({ s with keeper := { s.keeper with trans := .none, quiesced := true } } : State).ksResult 0).changeMode
        .quiesce := by
  unfold State.quiesceComplete
  rw [if_pos (by simp [ht, hs])]
  exact State.settleMode_quiesced _ hm rfl ((State.ksResult_gravePresent _ 0).trans hg) rfl

/-! ### Table 3.2 with no transition pending (R64, R65) -/

/-- `t` is `s` but for the mode: the cores stay, no transition is pending, QUIESCE stands as it stood, and KS_STATUS is
the same outside PREV_MODE. -/
structure State.Idles (s t : State) : Prop where
  lcs : t.lcs = s.lcs
  trans : t.keeper.trans = .none
  quiesced : t.keeper.quiesced = s.keeper.quiesced
  status (hi lo : Nat) : 35 < lo ∨ hi < 32 → t.fld .ksStatus hi lo = s.fld .ksStatus hi lo

theorem State.Idles.changeMode {s t : State} (h : s.Idles t) (m : Mode) : s.Idles (t.changeMode m) where
  lcs := by rw [State.changeMode_same]; exact h.lcs
  trans := by rw [State.changeMode_keeper]; exact h.trans
  quiesced := by rw [State.changeMode_keeper]; exact h.quiesced
  status hi lo hd := (t.changeMode_ksStatus_fld m hi lo hd).trans (h.status hi lo hd)

/-- Where no transition is pending, HOLD abandons no command. -/
theorem State.idles_enterHold (s : State) (ht : s.keeper.trans = .none) : s.Idles s.enterHold := by
  unfold State.enterHold
  extract_lets start s0 s1 s2 ld s3 k s4
  have h0 : s0 = s := if_neg (by simp [ht])
  have h1 : s1 = s := (if_neg (by simp [ht])).trans h0
  have h2 : s2.lcs = s.lcs ∧ s2.keeper = s.keeper ∧ s2.reg .ksStatus = s.reg .ksStatus := by
    rw [← h1]
    dsimp only [s2]
    split
    · refine ⟨rfl, rfl, ?_⟩
      rw [State.setFld, State.setReg_reg_ne _ _ (by decide), State.setFld, State.setReg_reg_ne _ _ (by decide)]
    · exact ⟨rfl, rfl, rfl⟩
  have h3 : s3.lcs = s2.lcs ∧ s3.keeper = s2.keeper ∧ s3.reg .ksStatus = s2.reg .ksStatus := by
    dsimp only [s3]
    split <;> exact ⟨rfl, rfl, rfl⟩
  obtain ⟨hlcs2, hkeeper2, hreg2⟩ := h2
  obtain ⟨hlcs3, hkeeper3, hreg3⟩ := h3
  have idle : s.Idles s4.dropExchanges.dramRest :=
    ⟨hlcs3.trans hlcs2, rfl, (congrArg Keeper.quiesced (hkeeper3.trans hkeeper2) :),
      fun hi lo _ => (congrArg (bits · hi lo) (hreg3.trans hreg2) :)⟩
  exact idle.changeMode .hold

theorem State.idles_settleMode (s : State) (ht : s.keeper.trans = .none) : s.Idles s.settleMode := by
  have same : s.Idles s := ⟨rfl, ht, rfl, fun _ _ _ => rfl⟩
  have hold := s.idles_enterHold ht
  unfold State.settleMode
  split
  · exact same
  · split
    case h_1 | h_2 | h_3 | h_4 | h_5 =>
      dsimp only
      split
      · exact hold
      · split
        · exact same
        · exact same.changeMode _
    case h_6 | h_7 | h_8 =>
      split
      · exact hold
      · exact same
    case h_9 =>
      split
      · refine State.Idles.changeMode ?_ _
        exact ⟨rfl, ht, rfl, fun _ _ _ => rfl⟩
      · exact same
    case h_10 => exact same

/-! ### RESUME (R66) -/

theorem State.unquiesce_lc (s : State) (n : Nat) : s.unquiesce.lc n =
    { s.lc n with
      stops := { (s.lc n).stops with quiesce := false }, reqs := { (s.lc n).reqs with quiesce := false } } :=
  Table.get_map (d := LCore.init) (f := fun l : LCore =>
    { l with stops := { l.stops with quiesce := false }, reqs := { l.reqs with quiesce := false } }) rfl s.lcs n

/-- RESUME outside a re-composition clears the quiesced state and its stops, and answers DONE. -/
theorem State.ksResume_effect (s : State) (hm : s.mode = .quiesce) (h5 : s.fld .imgStatus 23 20 ≠ 5)
    (ht : s.keeper.trans = .none) :
    s.ksResume.keeper.quiesced = false ∧ s.ksResume.fld .ksStatus 27 24 = 0 ∧
      ∀ n, (s.ksResume.lc n).stops.quiesce = false ∧ (s.ksResume.lc n).reqs.quiesce = false := by
  unfold State.ksResume
  rw [if_neg (by simp [hm]), if_neg h5]
  extract_lets k s1
  have idle : State.Idles _ s1 := State.idles_settleMode _ ht
  have clear (w : State) (kept : Kept (s1.frame [.queues, .ctxs]) s1.pending s1.fuses w) :
      (w.ksResult 0).keeper.quiesced = false ∧ (w.ksResult 0).fld .ksStatus 27 24 = 0 ∧
        ∀ n, ((w.ksResult 0).lc n).stops.quiesce = false ∧ ((w.ksResult 0).lc n).reqs.quiesce = false := by
    have hkeeper : w.keeper = s1.keeper := kept.same_of_notMem (part := .keeper) (by decide)
    have hlcs : w.lcs = s1.lcs := kept.same_of_notMem (part := .lcs) (by decide)
    refine ⟨?_, w.ksResult_fld 0, fun n => ?_⟩
    · exact (congrArg Keeper.quiesced hkeeper).trans idle.quiesced
    · have hlc := State.unquiesce_lc { s with keeper := { s.keeper with quiesced := false } } n
      rw [State.lc, ← idle.lcs, ← hlcs] at hlc
      change (Table.get LCore.init w.lcs n).stops.quiesce = false ∧
        (Table.get LCore.init w.lcs n).reqs.quiesce = false
      rw [hlc]
      exact ⟨rfl, rfl⟩
  refine clear _ ((s1.kept_frame _).foldl fun t e h => ?_)
  split
  · exact h.acceptHeld rfl rfl
  · exact h

/-! ### ISOLATE and RESTORE (R67) -/

/-- ISOLATE of a tile that is not in use answers DONE. -/
theorem State.ksIsolate_unused (s : State) (k : Nat) (ht : s.keeper.trans = .none)
    (hm : s.mode = .run ∨ s.mode = .degraded ∨ s.mode = .split) (h1 : 1 ≤ k) (h8 : k ≤ 8)
    (hu : s.tileInUse k = false) :
    (s.ksIsolate k).fld .ksStatus 27 24 = 0 := by
  have hrun : (s.mode == .run || s.mode == .degraded || s.mode == .split) = true := by
    rcases hm with hm | hm | hm <;> simp [hm]
  unfold State.ksIsolate
  rw [hrun, if_neg (by decide), if_neg (by simp; omega), hu, if_neg Bool.false_ne_true]
  have kept : Kept (s.frame [.mem, .lcs, .scs, .ports, .holders]) s.pending s.fuses
      ((s.setFld .ksStatus 39 36 k).tileGone k) :=
    (s.kept_frame _).setFld.tileGone rfl rfl rfl rfl rfl
  have hkeeper : ((s.setFld .ksStatus 39 36 k).tileGone k).keeper = s.keeper :=
    kept.same_of_notMem (part := .keeper) (by decide)
  generalize (s.setFld .ksStatus 39 36 k).tileGone k = u at hkeeper
  rw [((u.ksResult 0).idles_settleMode (hkeeper ▸ ht)).status 27 24 (.inr (by decide))]
  exact u.ksResult_fld 0

theorem State.ksRestore_inService (s : State) (k : Nat) (hm : s.mode = .service) (hk : k = s.svcTile) :
    s.ksRestore k = { s with keeper := { s.keeper with trans := .restoring } } := by
  simp [State.ksRestore, hm, hk]

/-! Choosing paths anew writes no register. -/

theorem State.storeRec_regs (s : State) (n : Sc) (t : Nat) (r : MirrorRec) : (s.storeRec n t r).regs = s.regs := by
  unfold State.storeRec
  split_ifs <;> rfl

theorem State.storeBoth_regs (s : State) (n : Sc) (r : MirrorRec) : (s.storeBoth n r).regs = s.regs := by
  rw [State.storeBoth, State.storeRec_regs, State.storeRec_regs]

theorem State.refreshStandby_regs (s : State) (n : Sc) : (s.refreshStandby n).regs = s.regs := by
  unfold State.refreshStandby
  extract_lets x sb s1
  split
  · rfl
  · split
    · exact s1.storeBoth_regs n _
    · rfl

theorem State.pathsGained_regs (s : State) (n : Sc) : (s.pathsGained n).regs = s.regs := by
  unfold State.pathsGained
  lift_lets
  intro x s1
  have h1 : s1.regs = s.regs := s.refreshStandby_regs n
  split
  · split
    · split <;> rfl
    · rfl
  · split
    · rfl
    · split
      · exact h1
      · split
        · exact (s1.storeRec_regs n _ _).trans h1
        · exact h1

theorem State.itBack_regs (s : State) (t : Nat) : (s.itBack t).regs = s.regs := by
  refine State.foldl_keeps State.regs (fun s p => ?_) _ s
  split
  · exact State.foldl_keeps State.regs (fun (s : State) (e : Sc × Fin 8) => s.pathsGained_regs e.1) _ s
  · rfl

/-- RESTORE ends with its self-test: on success the tile is back in service, on failure only the answer tells. -/
theorem State.restoreDone_passed (s : State) (ht : s.keeper.trans = .restoring) :
    (s.restoreDone true).keeper.trans = .none ∧ (s.restoreDone true).svcTile = 0 ∧
      (s.restoreDone true).fld .ksStatus 27 24 = 0 := by
  unfold State.restoreDone
  rw [if_neg (by simp [ht])]
  extract_lets _ s1 k _ s2
  rw [if_neg (by decide)]
  have settled (u : State) (hkeeper : u.keeper = s2.keeper) (hregs : u.regs = s2.regs) :
      u.settleMode.keeper.trans = .none ∧ u.settleMode.svcTile = 0 ∧ u.settleMode.fld .ksStatus 27 24 = 0 := by
    have hfld (hi lo : Nat) : u.fld .ksStatus hi lo = s2.fld .ksStatus hi lo := by
      rw [State.fld, State.reg, hregs, State.fld, State.reg]
    have idle := u.idles_settleMode (congrArg Keeper.trans hkeeper)
    have cleared : s2.fld .ksStatus 39 36 = 0 :=
      (State.setFld_fld_apart _ _ _ _ _ _ _ (by decide) (by decide) (.inl (by decide))).trans
        (State.setFld_fld_self _ _ _ _ _ (by decide) (by decide))
    refine ⟨idle.trans, ?_, ?_⟩
    · rw [State.svcTile, idle.status 39 36 (.inl (by decide)), hfld, cleared]
    · rw [idle.status 27 24 (.inr (by decide)), hfld]
      exact State.ksResult_fld _ 0
  split
  · have kept : Kept (s2.frame [.scs]) s2.pending s2.fuses (s2.itBack (k - 5)) := (s2.kept_frame _).itBack rfl
    exact settled _ (kept.same_of_notMem (part := .keeper) (by decide)) (s2.itBack_regs _)
  · exact settled s2 rfl rfl

theorem State.restoreDone_failed (s : State) (ht : s.keeper.trans = .restoring) :
    s.restoreDone false = ({ s with keeper := { s.keeper with trans := .none } } : State).ksResult 3 := by
  simp [State.restoreDone, ht]

/-! ### The obligation -/

section
variable {s : State} {m : Master} (h : s.admits m CsReg.ksCmd.addr needW (s.privileged m) = true)
  (ht : s.keeper.trans = .none)
include h ht

theorem exec_ksQuiesce (hz : s.mode ≠ .zeroize) : exec (.ksQuiesce m) s = .next (s.respond m .ok).ksQuiesce :=
  congrArg Host.Outcome.next (State.ksWrite_admits s m false State.ksQuiesce h ht (.inl hz))

theorem exec_ksResume (hz : s.mode ≠ .zeroize) : exec (.ksResume m) s = .next (s.respond m .ok).ksResume :=
  congrArg Host.Outcome.next (State.ksWrite_admits s m false State.ksResume h ht (.inl hz))

theorem exec_ksIsolate (k : BitVec 4) (hz : s.mode ≠ .zeroize) :
    exec (.ksIsolate m k) s = .next ((s.respond m .ok).ksIsolate k.toNat) :=
  congrArg Host.Outcome.next (State.ksWrite_admits s m false (fun s => s.ksIsolate k.toNat) h ht (.inl hz))

theorem exec_ksRestore (k : BitVec 4) (hz : s.mode ≠ .zeroize) :
    exec (.ksRestore m k) s = .next ((s.respond m .ok).ksRestore k.toNat) :=
  congrArg Host.Outcome.next (State.ksWrite_admits s m false (fun s => s.ksRestore k.toNat) h ht (.inl hz))

end

/-- Settles O8: each command runs on the state that has answered the write (`State.ksWrite_admits`); the ends of QUIESCE
and RESTORE settle Table 3.2 (`State.quiesceComplete_stopped`, `State.restoreDone_passed`). -/
theorem quiesceAndService : Obligations.QuiesceAndService := by
  unfold Obligations.QuiesceAndService
  refine ⟨fun s m h ht => ⟨fun hm => ?_, fun hm h5 => ?_, fun k hm h1 h8 hu => ?_, fun k hm hk => ?_⟩,
    fun s ht hs hm hg => ?_, fun s ht hm => ⟨?_, ?_⟩, fun s m h k c hc => exec_ksCmd_refused h k c hc⟩
  · have hz : s.mode ≠ .zeroize := fun hz => by simp [hz, Mode.running] at hm
    obtain ⟨u, hstep, hkeeper, hasks⟩ := (s.respond m .ok).ksQuiesce_running hm
    refine ⟨_, exec_ksQuiesce h ht hz, ?_⟩
    rw [hstep]
    exact ⟨rfl, (congrArg Keeper.mode hkeeper :), hasks⟩
  · exact ⟨_, exec_ksResume h ht (by simp [hm]), (s.respond m .ok).ksResume_effect hm h5 ht⟩
  · have hz : s.mode ≠ .zeroize := by rcases hm with hm | hm | hm <;> simp [hm]
    exact ⟨_, exec_ksIsolate h ht k hz, (s.respond m .ok).ksIsolate_unused k.toNat ht hm h1 h8 hu⟩
  · refine ⟨_, exec_ksRestore h ht k (by simp [hm]), ?_⟩
    rw [(s.respond m .ok).ksRestore_inService k.toNat hm hk]
    exact ⟨rfl, hm⟩
  · refine ⟨_, congrArg Host.Outcome.next (s.quiesceComplete_stopped ht hs hm hg), State.changeMode_mode _ _, ?_⟩
    rw [State.changeMode_keeper, State.changeMode_ksStatus_fld _ _ _ _ (.inr (by decide)), State.ksResult_fld,
      State.changeMode_same]
    exact ⟨rfl, rfl, rfl, rfl, rfl⟩
  · exact ⟨_, rfl, s.restoreDone_passed ht⟩
  · refine ⟨_, congrArg Host.Outcome.next (s.restoreDone_failed ht), rfl, hm, State.ksResult_fld _ 3, ?_⟩
    exact State.setFld_fld_apart _ _ _ _ _ _ _ (by decide) (by decide) (.inl (by decide))

end Sys2Proof.Machine

/-! PROOF. The programming model of a logical core (O21 to O27, O32, O34).  On a clear core an instruction retires with its
effect, or enters the handler of its exception; what an entry leaves of the core, what retirement leaves of it, and what
bringing its accesses to an end leaves of it are said once, and the statements are read off these. -/

namespace Sys2Proof.Machine

/-! ### Registers of a core (R84, R85) -/

theorem vector_get_set {α : Type} {n : Nat} (v : Vector α n) (i j : Fin n) (x : α) :
    (v.set i x).get j = if j = i then x else v.get j := by
  have h : (v.set i x)[j.val] = if i.val = j.val then x else v[j.val] := Vector.getElem_set i.isLt j.isLt
  simp only [Fin.ext_iff, eq_comm (a := j.val)]
  exact h

theorem LCore.wg_rg (l : LCore) (d r : Reg) (v : Word) : (l.wg d v).rg r = if r = d then v else l.rg r :=
  vector_get_set l.g d r v
theorem LCore.wf_rf (l : LCore) (d r : Reg) (v : Quad) : (l.wf d v).rf r = if r = d then v else l.rf r :=
  vector_get_set l.f d r v
theorem LCore.ws_rs (l : LCore) (d r : Reg) (v : Quad) : (l.ws d v).rs r = if r = d then v else l.rs r :=
  vector_get_set l.seg d r v

/-! ### Jumps (R90, R91) -/

theorem wordTarget_eq {n : Nat} (pc : Word) (disp : BitVec n) : wordTarget pc disp = pc + 4 * disp.signExtend 64 := by
  have h (x : Word) : x <<< 2 = 4 * x := BitVec.eq_of_toNat_eq (by simp [Nat.shiftLeft_eq, Nat.mul_comm])
  rw [wordTarget, h]

theorem branchTaken_bltz (v : Word) : branchTaken .bltz v = decide (v.toInt < 0) := BitVec.msb_eq_toInt
theorem branchTaken_bgez (v : Word) : branchTaken .bgez v = decide (0 ≤ v.toInt) := by
  by_cases h : 0 ≤ v.toInt <;> simp [branchTaken, BitVec.msb_eq_toInt, h, not_lt.2, Int.not_le.1]

/-- A transfer on a clear core retires with what it makes of the core. -/
theorem State.runJump_clear (s : State) (lc : Lc) (w : BitVec 32) (f : LCore → LCore) (h : s.clear lc = true) :
    s.runJump lc w f = s.retired lc (s.setLc lc.val (f (s.lc lc.val))) := by
  rw [State.runJump, State.runInstr_clear _ _ _ _ h]

/-- Settles O21: a transfer retires with the core that it makes (`State.runJump_clear`); the four conditions are the signs
of GA (`branchTaken_bltz`, `branchTaken_bgez`). -/
theorem jumpsAndBranches : Obligations.JumpsAndBranches := by
  unfold Obligations.JumpsAndBranches
  intro s lc h l go
  have jump (w : BitVec 32) (f : LCore → LCore) :
      Host.Outcome.next (φ := Fault) (ρ := Refusal) (s.runJump lc w f) = .next (s.retired lc (s.setLc lc.val (f l))) :=
    congrArg Host.Outcome.next (s.runJump_clear lc w f h)
  refine ⟨fun a n => ⟨(jump ..).trans ?_, (jump ..).trans ?_, (jump ..).trans ?_, (jump ..).trans ?_⟩,
    fun n => ⟨(jump ..).trans ?_, (jump ..).trans ?_⟩, fun d a => ⟨jump .., jump ..⟩⟩
  · simp [branchTaken, wordTarget_eq, go]
  · simp [branchTaken, wordTarget_eq, go]
  · simp [branchTaken_bltz, wordTarget_eq, go]
  · simp [branchTaken_bgez, wordTarget_eq, go]
  · rw [wordTarget_eq]
  · rw [wordTarget_eq]

/-! ### Banked registers (R87, R112) -/

/-- The banked registers of the core's world are replaced, those of the other stay. -/
theorem LCore.setBank_eq (l : LCore) (b : WorldBank) : l.setBank b =
    { l with fore := if pswPolder l.psw then l.fore else b, pold := if pswPolder l.psw then b else l.pold } := by
  unfold LCore.setBank
  split <;> rfl

@[simp] theorem LCore.setBank_bank (l : LCore) (b : WorldBank) : (l.setBank b).bank = b := by
  unfold LCore.setBank LCore.bank
  cases h : pswPolder l.psw <;> simp [h]

/-- The word of status that an entry into bank `b` leaves (R112): LEVEL of the bank, IE 0, and at H no guest. -/
def entryPsw (b : Bank) (p : Word) : Word :=
  let p1 := setBits (setBits p 1 0 (match b with | .s => 1 | .h => 2)) 8 8 0
  match b with | .s => p1 | .h => setBits p1 43 35 0

theorem entryPsw_level (b : Bank) (p : Word) : pswLevel (entryPsw b p) = (match b with | .s => 1 | .h => 2) := by
  cases b <;> simp [entryPsw, pswLevel, bits_setBits_ne, bits_setBits_self]

theorem entryPsw_ie (b : Bank) (p : Word) : (entryPsw b p).getLsbD 8 = false := by
  cases b <;> simp only [entryPsw, setBits_getLsbD, Nat.reduceLeDiff, Nat.reduceLT] <;> rfl

theorem entryPsw_guest (p : Word) : bits (entryPsw .h p) 43 35 = 0 := by
  simp [entryPsw, bits_setBits_self]

theorem entryPsw_getLsbD (b : Bank) (p : Word) (i : Nat) (h2 : 2 ≤ i) (h8 : i ≠ 8) (hg : i < 35 ∨ 43 < i ∨ b = .s) :
    (entryPsw b p).getLsbD i = p.getLsbD i := by
  have h10 : ¬ (0 ≤ i ∧ i ≤ 1) := by omega
  have h88 : ¬ (8 ≤ i ∧ i ≤ 8) := by omega
  cases b with
  | s => simp only [entryPsw, setBits_getLsbD, h10, h88, if_false, Nat.reduceLeDiff, Nat.reduceLT]
  | h =>
    have h43 : ¬ (35 ≤ i ∧ i ≤ 43) := by simp at hg; omega
    simp only [entryPsw, setBits_getLsbD, h10, h88, h43, if_false, Nat.reduceLeDiff, Nat.reduceLT]

theorem entryPsw_polder (b : Bank) (p : Word) : pswPolder (entryPsw b p) = pswPolder p :=
  entryPsw_getLsbD b p 3 (by decide) (by decide) (.inl (by decide))

end Sys2Proof.Machine

namespace Sys2Proof.Machine

/-! ### Entry into a handler (R112, R115, R118) -/

/-- The core after an entry into bank `b` (R112): the bank records where it was, and the core goes on at xVEC. -/
theorem LCore.enter_eq (l : LCore) (b : Bank) (epc cause info addr : Word) :
    l.enter b epc cause info addr =
      { l.setExcBank b { l.excBank b with
          epc := epc, cause := cause, info := info, addr := addr, saved := l.psw
          scsd0 := quadLo l.csd, scsd1 := quadHi l.csd } with
        psw := entryPsw b l.psw, csd := quadOf (l.excBank b).csd1 (l.excBank b).csd0, pc := (l.excBank b).vec
        micro := none, resv := none, resvHold := false } := by
  cases b <;> rfl

/-- An entry leaves the general, floating and segment registers, the gateway and the cached translations alone. -/
theorem LCore.enter_frame (l : LCore) (b : Bank) (epc cause info addr : Word) :
    (l.enter b epc cause info addr).g = l.g ∧ (l.enter b epc cause info addr).f = l.f ∧
      (l.enter b epc cause info addr).seg = l.seg ∧ (l.enter b epc cause info addr).gw = l.gw ∧
      (l.enter b epc cause info addr).tlb = l.tlb := by
  rw [LCore.enter_eq]
  cases b <;> simp [LCore.setExcBank, LCore.setBank_eq]

/-- The bank that is entered holds what the entry records (R112). -/
theorem LCore.enter_excBank (l : LCore) (b : Bank) (epc cause info addr : Word) :
    (l.enter b epc cause info addr).excBank b = { l.excBank b with
      epc := epc, cause := cause, info := info, addr := addr, saved := l.psw
      scsd0 := quadLo l.csd, scsd1 := quadHi l.csd } := by
  cases b with
  | h => rfl
  | s =>
    cases hp : pswPolder l.psw <;>
      simp [LCore.enter_eq, LCore.excBank, LCore.setExcBank, LCore.setBank, LCore.bank, entryPsw_polder, hp]

/-- An entry at S leaves the registers of H alone. -/
theorem LCore.enter_hyp_of_s (l : LCore) (epc cause info addr : Word) :
    (l.enter .s epc cause info addr).hyp = l.hyp := by
  simp [LCore.enter_eq, LCore.setExcBank, LCore.setBank_eq]

/-- The cores agree but for what can stop a core after an entry (R60, R118). -/
def LCore.StopsFrom (k k0 : LCore) : Prop :=
  ∃ st d m, k = { k0 with stops := st, deniedAddr := d, micro := m }

theorem LCore.StopsFrom.refl (k : LCore) : k.StopsFrom k := ⟨k.stops, k.deniedAddr, k.micro, rfl⟩

@[simp] theorem State.syncVoters_lc (s : State) (lc : Lc) (n : Nat) : (s.syncVoters lc).lc n = s.lc n := by
  unfold State.syncVoters
  split <;> simp

theorem State.freezeCore_lc (s : State) (lc : Lc) (pa : Nat) :
    ((s.freezeCore lc pa).lc lc.val).StopsFrom (s.lc lc.val) := by
  unfold State.freezeCore
  dsimp only
  split
  · exact .refl _
  · rw [State.report_lc, State.syncVoters_lc, State.setLc_lc]
    exact ⟨_, _, _, rfl⟩

/-- What follows an entry can only stop the core (R60, R118). -/
theorem State.afterEntry_lc (s : State) (lc : Lc) : ((s.afterEntry lc).lc lc.val).StopsFrom (s.lc lc.val) := by
  unfold State.afterEntry
  dsimp only
  split
  · rw [State.report_lc, State.setLc_lc]
    exact ⟨_, _, _, rfl⟩
  · exact s.freezeCore_lc lc _
  · exact .refl _

theorem State.afterEntry_setLc (s : State) (lc : Lc) (k : LCore) :
    (((s.setLc lc.val k).afterEntry lc).lc lc.val).StopsFrom k := by
  simpa using (s.setLc lc.val k).afterEntry_lc lc

/-- An empty set of a guest's vectors is not written back (R487). -/
theorem State.guestOut_empty (s : State) (lc : Lc) (h : (s.lc lc.val).pendG = []) :
    ∃ t, s.guestOut lc = .ok t ∧ t.lc lc.val = s.lc lc.val := by
  refine ⟨s.modLc lc.val fun c => { c with pendG := [] }, by simp [State.guestOut, h], ?_⟩
  rw [State.modLc_eq, State.setLc_lc, ← h]

/-- An entry enters, unless a guest has vectors to write back on its way to H (R112, R487). -/
theorem State.enterAt_lc (s : State) (lc : Lc) (b : Bank) (epc cause info addr : Word)
    (hp : (s.lc lc.val).pendG = [] ∨ b = .s) :
    ((s.enterAt lc b epc cause info addr).lc lc.val).StopsFrom ((s.lc lc.val).enter b epc cause info addr) := by
  obtain ⟨t, ht, hl⟩ : ∃ t, (if b = .h && (s.lc lc.val).gv then s.guestOut lc else .ok s) = .ok t ∧
      t.lc lc.val = s.lc lc.val := by
    split
    · next hg =>
      refine s.guestOut_empty lc (hp.resolve_right fun hs => ?_)
      simp [hs] at hg
    · exact ⟨s, rfl, rfl⟩
  simp only [State.enterAt, ht, State.modLc_eq, hl]
  exact t.afterEntry_setLc lc _

/-- What an entry from the core `l` into bank `b` leaves of the core (R112). -/
structure LCore.Entered (k l : LCore) (b : Bank) (epc cause info addr : Word) : Prop where
  bank : k.excBank b = { l.excBank b with
    epc := epc, cause := cause, info := info, addr := addr, saved := l.psw
    scsd0 := quadLo l.csd, scsd1 := quadHi l.csd }
  pc : k.pc = (l.excBank b).vec
  csd : k.csd = (l.excBank b).csd1 ++ (l.excBank b).csd0
  psw : k.psw = entryPsw b l.psw
  resv : k.resv = none
  g : k.g = l.g
  f : k.f = l.f
  seg : k.seg = l.seg
  gw : k.gw = l.gw
  tlb : k.tlb = l.tlb
  hyp : b = .s → k.hyp = l.hyp
  worlds : b = .h → k.fore = l.fore ∧ k.pold = l.pold

theorem LCore.StopsFrom.entered {k l : LCore} {b : Bank} {epc cause info addr : Word}
    (h : k.StopsFrom (l.enter b epc cause info addr)) : k.Entered l b epc cause info addr := by
  obtain ⟨st, d, m, rfl⟩ := h
  obtain ⟨hg, hf, hseg, hgw, htlb⟩ := l.enter_frame b epc cause info addr
  exact {
    bank := l.enter_excBank b epc cause info addr
    pc := rfl, csd := rfl, psw := rfl, resv := rfl, g := hg, f := hf, seg := hseg, gw := hgw, tlb := htlb
    hyp := fun hb => by subst hb; exact l.enter_hyp_of_s epc cause info addr
    worlds := fun hb => by subst hb; exact ⟨rfl, rfl⟩ }

/-- The handler of a cause that no level or guest redirects is at the core's own level, or at S (R115). -/
theorem LCore.handler_own (l : LCore) (code : Nat) (h : code ∉ [0x0A, 0x0E, 0x10, 0x11]) :
    l.handler code = if l.level = 2 then .h else .s := by
  simp only [List.mem_cons, List.not_mem_nil, or_false, not_or] at h
  obtain ⟨hA, hE, h10, h11⟩ := h
  simp [LCore.handler, hA, hE, h10, h11]

theorem LCore.handler_low (l : LCore) (code : Nat) (h : code ∉ [0x0A, 0x0E, 0x10, 0x11]) (hl : l.level ≠ 2) :
    l.handler code = .s := by
  rw [l.handler_own code h, if_neg hl]

/-- An exception enters its handler: no guest has vectors to write back, or the handler is at S (R112, R114, R115). -/
theorem State.enterExc_entered (s : State) (lc : Lc) (w : BitVec 32) (e : Exc) {b : Bank}
    (hb : (s.lc lc.val).handler e.code = b) (hp : (s.lc lc.val).pendG = [] ∨ b = .s) :
    ((s.enterExc lc w e).lc lc.val).Entered (s.lc lc.val) b
      (if e.after then (s.lc lc.val).pc + 4 else (s.lc lc.val).pc) (causeWord e) (infoWord e w)
      (BitVec.ofNat 64 e.addr) := by
  subst hb
  exact (s.enterAt_lc lc _ _ _ _ _ hp).entered

/-- An instruction that ends in an exception on a clear core enters its handler. -/
theorem State.runInstr_exc (s : State) (lc : Lc) (w : BitVec 32) (f : State → LCore → Res State) (e : Exc)
    (h : s.clear lc = true) (hf : f s (s.lc lc.val) = .exc e) : s.runInstr lc w f = s.enterExc lc w e := by
  rw [State.runInstr_clear _ _ _ _ h, hf]

/-- An instruction that ends with its effect on a clear core retires. -/
theorem State.runInstr_ok (s : State) (lc : Lc) (w : BitVec 32) (f : State → LCore → Res State) (t : State)
    (h : s.clear lc = true) (hf : f s (s.lc lc.val) = .ok t) : s.runInstr lc w f = s.retired lc t := by
  rw [State.runInstr_clear _ _ _ _ h, hf]

/-! ### SVC, HVC and BRK (Table 4.9) -/

/-- Settles O22: each of them ends in its exception, whose entry (`State.enterExc_entered`) leaves the core as R112 says. -/
theorem entryToAHandler : Obligations.EntryToAHandler := by
  unfold Obligations.EntryToAHandler
  intro s lc h l hg entered b
  have enters (minor : Nat) (e : Exc) {f : State → LCore → Res State} {b : Bank} (hf : f s l = .exc e)
      (hb : l.handler e.code = b) (ha : e.addr = 0) :
      let w := encR 0x38 0 0 0 0 minor
      ∃ t, Host.Outcome.next (φ := Fault) (ρ := Refusal) (s.runInstr lc w f) = .next t ∧
        entered t b (causeWord e) (if e.after then l.pc + 4 else l.pc) (infoWord e w) := by
    intro w
    refine ⟨_, congrArg Host.Outcome.next (s.runInstr_exc lc w f e h hf), ?_⟩
    have k := s.enterExc_entered lc w e hb (.inl hg)
    rw [ha] at k
    refine ⟨k.bank, k.pc, k.csd, k.g, k.f, k.seg, k.resv, ?_, ?_, fun i _ h2 h8 hr => ?_, fun hb => ?_, k.hyp, k.worlds,
      k.gw⟩
    · exact (congrArg pswLevel k.psw).trans ((entryPsw_level b l.psw).trans (by cases b <;> rfl))
    · rw [k.psw, entryPsw_ie]
    · rw [k.psw, entryPsw_getLsbD _ _ _ h2 h8 hr]
    · rw [k.psw, hb, entryPsw_guest]
  have own (code : Nat) (hc : code ∉ [0x0A, 0x0E, 0x10, 0x11]) : l.handler code = b := l.handler_own code hc
  refine ⟨enters 0 { code := 0x0D, after := true } rfl (own _ (by decide)) rfl,
    enters 5 { code := 0x13 } rfl (own _ (by decide)) rfl, fun hw h1 => ?_, fun hw => ?_, fun hw h1 => ?_⟩
  · exact enters 1 { code := 0x0E, after := true } (by simp [hw, h1]) (by simp [LCore.handler]) rfl
  · exact enters 1 (excIllegal 0x05) (by simp [hw]) (own _ (by decide)) rfl
  · exact enters 1 excPrivilege (by simp [hw, h1]) (own _ (by decide)) rfl

end Sys2Proof.Machine

namespace Sys2Proof.Machine

/-! ### RETX (R113) -/

/-- A field taken over from another word. -/
theorem setBits_bits_getLsbD (w v : Word) (hi lo i : Nat) (h : lo ≤ hi) (h64 : hi < 64) :
    (setBits w hi lo (bits v hi lo)).getLsbD i = if lo ≤ i ∧ i ≤ hi then v.getLsbD i else w.getLsbD i := by
  rw [setBits_getLsbD _ _ _ _ _ h h64, bits_testBit]
  split
  · next hi' =>
    have h1 : i - lo < hi + 1 - lo := by omega
    simp [h1, Nat.add_sub_cancel' hi'.1]
  · rfl

/-- What RETX takes from the saved word at every level: LEVEL, IE, the flags, OVT and SW3T. -/
def retxBits : List Nat := [0, 1, 8, 16, 17, 18, 19, 22, 23]

theorem retxPsw_getLsbD (psw sv : Word) (x i : Nat) :
    (retxPsw psw sv x).getLsbD i =
      if x = 2 ∧ 35 ≤ i ∧ i ≤ 43 then pswGv sv && sv.getLsbD i
      else if i ∈ retxBits then sv.getLsbD i else psw.getLsbD i := by
  have hm : i ∈ retxBits ↔ i ≤ 1 ∨ i = 8 ∨ (16 ≤ i ∧ i ≤ 19) ∨ (22 ≤ i ∧ i ≤ 23) := by
    simp only [retxBits, List.mem_cons, List.not_mem_nil, or_false]
    omega
  have low : (setBits (setBits (setBits (setBits psw 1 0 (bits sv 1 0)) 8 8 (bits sv 8 8)) 19 16 (bits sv 19 16)) 23 22
      (bits sv 23 22)).getLsbD i = if i ∈ retxBits then sv.getLsbD i else psw.getLsbD i := by
    simp only [setBits_bits_getLsbD, Nat.reduceLeDiff, Nat.reduceLT, hm]
    grind
  by_cases hx : x = 2
  · simp only [retxPsw, hx, if_true, true_and]
    cases hg : pswGv sv with
    | true =>
      rw [if_pos rfl, setBits_bits_getLsbD _ _ _ _ _ (by decide) (by decide), low, Bool.true_and]
    | false =>
      rw [if_neg (by decide), setBits_getLsbD _ _ _ _ _ (by decide) (by decide), low, Nat.zero_testBit, Bool.false_and]
  · simp only [retxPsw, hx, if_false, false_and]
    exact low

theorem retxPsw_pswGv (psw sv : Word) : pswGv (retxPsw psw sv 2) = pswGv sv := by
  simp only [pswGv, retxPsw_getLsbD]
  simp

theorem retxPsw_guest (psw sv : Word) (h : pswGv sv = true) : bits (retxPsw psw sv 2) 43 36 = bits sv 43 36 := by
  apply Nat.eq_of_testBit_eq
  intro i
  simp only [bits_testBit, retxPsw_getLsbD, h, Bool.true_and]
  by_cases hi : i < 43 + 1 - 36
  · have : 35 ≤ 36 + i ∧ 36 + i ≤ 43 := by omega
    simp [this]
  · simp [hi]

/-- The level and the saved word let the core return (R113). -/
theorem LCore.retxDenied_eq (l : LCore) : l.retxDenied =
    !(l.level ≠ 0 && pswLevel (l.excBank (if l.level = 2 then .h else .s)).saved ≠ 3 &&
      pswLevel (l.excBank (if l.level = 2 then .h else .s)).saved ≤ l.level &&
      !(l.level = 2 && pswGv (l.excBank (if l.level = 2 then .h else .s)).saved &&
        pswLevel (l.excBank (if l.level = 2 then .h else .s)).saved = 2)) := by
  have lt (a b : Nat) : decide (a < b) = !decide (b ≤ a) := by simp only [← decide_not, Nat.not_le]
  simp [LCore.retxDenied, lt]

/-- RETX on a clear core is no trap's delivery. -/
theorem exec_retx (s : State) (lc : Lc) (h : s.clear lc = true) : exec (.retx lc) s =
    .next (s.runInstr lc (encR 0x38 0 0 0 0 2) fun s l =>
      if l.retxDenied then .exc excPrivilege
      else
        (if l.level = 2 && pswGv l.hyp.exc.saved && vcidValid l.hyp.vcid then s.guestIn lc else .ok s).map fun s1 =>
          s1.modLc lc.val LCore.retx) := by
  obtain ⟨-, -, hf, -⟩ := s.clear_iff lc h
  exact congrArg Host.Outcome.next (if_neg (by simp [hf]))

/-- Settles O23: an admitted return retires with `LCore.retx`, whose PSW is read bit by bit (`retxPsw_getLsbD`); a forbidden
one enters the handler of PRIVILEGE (`State.enterExc_entered`). -/
theorem returnFromAHandler : Obligations.ReturnFromAHandler := by
  unfold Obligations.ReturnFromAHandler
  intro s lc h l x ok
  have hdenied : l.retxDenied = !ok := l.retxDenied_eq
  refine ⟨fun hok hguest => ⟨retxPsw l.psw x.saved l.level, ?_, fun i hi => ?_, fun h2 => ?_, fun i _ hi hr => ?_⟩,
    fun hok hg => ⟨_, (exec_retx s lc h).trans (congrArg Host.Outcome.next
      (s.runInstr_exc lc _ _ excPrivilege h (by simp [l, hdenied, hok]))), ?_⟩⟩
  · have hinto : (l.level = 2 && pswGv l.hyp.exc.saved && vcidValid l.hyp.vcid) = false := by
      by_cases h2 : l.level = 2
      · simpa [x, h2, LCore.excBank] using hguest
      · simp [h2]
    rw [exec_retx s lc h, s.runInstr_ok lc _ _ (s.setLc lc.val l.retx) h]
    · rfl
    · simp only [l] at hdenied hinto ⊢
      simp [hdenied, hok, hinto, Res.map, Res.bind]
  · have hr : ¬ (35 ≤ i ∧ i ≤ 43) := by
      rintro ⟨h1, h2⟩
      simp at hi
      omega
    rw [retxPsw_getLsbD, if_neg fun h => hr h.2]
    exact if_pos hi
  · rw [h2]
    exact ⟨retxPsw_pswGv .., retxPsw_guest _ _⟩
  · have hr : ¬ (l.level = 2 ∧ 35 ≤ i ∧ i ≤ 43) := by omega
    rw [retxPsw_getLsbD, if_neg hr]
    exact if_neg hi
  · have k := s.enterExc_entered lc (encR 0x38 0 0 0 0 2) excPrivilege (l.handler_own 0x02 (by decide)) (.inl hg)
    refine ⟨?_, ?_, ?_, k.pc, k.g⟩ <;> rw [k.bank] <;> rfl

end Sys2Proof.Machine

namespace Sys2Proof.Machine

/-! ### Who may reach a control register (R87, R98) -/

section
variable {l : LCore} {n : Nat} {write : Bool}

/-- A register that the world has, and that some level at or below the core's may reach. -/
theorem LCore.crCheck_ok {lvl : Nat}
    (hr : ((crRights n).bind fun r => if write then r.write else r.read).any (· ≤ lvl) = true) (hle : lvl ≤ l.level)
    (hhyp : isHypCr n = false ∨ pswPolder l.psw = false) (hgate : isGateCr n = false) : l.crCheck n write = .ok () := by
  obtain ⟨x, hx, hxl⟩ := (Option.any_eq_true _ _).1 hr
  obtain ⟨r, hr, hw⟩ := Option.bind_eq_some_iff.1 hx
  have hle' : x ≤ l.level := (of_decide_eq_true hxl).trans hle
  have hh : (isHypCr n && pswPolder l.psw) = false := by rcases hhyp with hh | hh <;> simp [hh]
  simp [LCore.crCheck, hr, hw, hle', hh, hgate, check]

theorem LCore.crCheck_undefined (hr : (crRights n).isNone = true) : l.crCheck n write = .exc (excIllegal 0x04) := by
  rw [Option.isNone_iff_eq_none] at hr
  simp [LCore.crCheck, hr]

/-- An S register at U. -/
theorem LCore.crCheck_low (hr : ((crRights n).any fun r => r.read = some 1 ∧ r.write = some 1) = true)
    (hhyp : isHypCr n = false) (hgate : isGateCr n = false) (hl : l.level = 0) :
    l.crCheck n write = .exc excPrivilege := by
  obtain ⟨r, hr, hrw⟩ := (Option.any_eq_true _ _).1 hr
  obtain ⟨hread, hwrite⟩ := of_decide_eq_true hrw
  cases write <;> simp [LCore.crCheck, hr, hread, hwrite, hhyp, hgate, hl, check]

/-- An H register in Polder. -/
theorem LCore.crCheck_polder (hr : (crRights n).isSome = true) (hhyp : isHypCr n = true) (hp : pswPolder l.psw = true) :
    l.crCheck n write = .exc (excIllegal 0x05) := by
  obtain ⟨r, hr⟩ := Option.isSome_iff_exists.1 hr
  simp [LCore.crCheck, hr, hhyp, hp]

end

/-- The registers that MFC reads at every level. -/
def openCrNos : List Nat :=
  [0x000, 0x001, 0x002, 0x003, 0x015, 0x020, 0x021, 0x022, 0x023, 0x030, 0x031, 0x032, 0x033, 0x034, 0x035]

theorem openCrNos_rights : ∀ n ∈ openCrNos, ((crRights n).bind (·.read)).any (· ≤ 0) = true ∧
    isHypCr n = false ∧ isGateCr n = false := by decide

/-- The registers of S and H, outside the gateway. -/
def hyperCrNos : List Nat :=
  [0x010, 0x011, 0x012, 0x013, 0x014, 0x100, 0x101, 0x102, 0x103, 0x104, 0x105, 0x106, 0x107, 0x108, 0x109, 0x10A, 0x10B,
    0x200, 0x201, 0x202, 0x203, 0x204, 0x205, 0x206, 0x207, 0x208, 0x209, 0x20A, 0x20B, 0x20C, 0x20D, 0x20E, 0x20F, 0x210,
    0x211]

theorem hyperCrNos_rights : ∀ n ∈ hyperCrNos, ((crRights n).bind (·.read)).any (· ≤ 2) = true ∧
    isGateCr n = false := by decide

/-! ### The twelve registers of an exception bank (Table 4.2) -/

/-- They stand in the order of their numbers. -/
def ExcBank.regs (e : ExcBank) : List Word :=
  [e.epc, e.cause, e.info, e.addr, e.saved, e.vec, e.csd0, e.csd1, e.scsd0, e.scsd1, e.scratch0, e.scratch1]

/-- Their defined bits. -/
def excMask (i : Nat) : Word := if i = 1 then causeMask else if i = 2 then infoMask else -1

theorem ExcBank.regs_getD (e : ExcBank) (i : Nat) (h : i < 12) : e.regs[i]? = some (e.reg i) := by
  interval_cases i <;> rfl

theorem ExcBank.setReg_regs (e : ExcBank) (i : Nat) (v : Word) (h : i < 12) :
    (e.setReg i v).regs = e.regs.set i (v &&& excMask i) := by
  have hall : v &&& 18446744073709551615#64 = v := BitVec.and_allOnes
  interval_cases i <;> simp [ExcBank.setReg, ExcBank.regs, excMask, hall]

theorem ExcBank.setReg_reg (e : ExcBank) (i j : Nat) (v : Word) (hi : i < 12) (hj : j < 12) :
    (e.setReg i v).reg j = if i = j then v &&& excMask i else e.reg j := by
  have h := ExcBank.regs_getD (e.setReg i v) j hj
  rw [ExcBank.setReg_regs _ _ _ hi, List.getElem?_set, e.regs_getD j hj] at h
  split at h <;> simp_all [ExcBank.regs]

/-! ### The registers banked by world (R87) -/

/-- What a banked register reads as; none of the others is banked by world. -/
def WorldBank.cr (b : WorldBank) (n : Nat) : Option Word :=
  if n = 0x10 then some b.segtab0
  else if n = 0x11 then some b.segtab1
  else if n = 0x12 then some b.ptctl
  else if n = 0x13 then some b.ptroot
  else if n = 0x14 then some b.timectl
  else if n = 0x34 then some b.proga
  else if n = 0x35 then some b.progs
  else if 0x30 ≤ n && n ≤ 0x33 then some (b.prog.toList.getD (n - 0x30) 0)
  else if isBankNo n 0x100 then some (b.exc.reg (n - 0x100))
  else none

theorem WorldBank.cr_unlisted {b : WorldBank} {n : Nat} (h : n ∉ [0x10, 0x11, 0x12, 0x13, 0x14, 0x34, 0x35]) :
    b.cr n = if 0x30 ≤ n && n ≤ 0x33 then some (b.prog.toList.getD (n - 0x30) 0)
      else if isBankNo n 0x100 then some (b.exc.reg (n - 0x100)) else none := by
  simp only [List.mem_cons, List.not_mem_nil, or_false, not_or] at h
  obtain ⟨h10, h11, h12, h13, h14, h34, h35⟩ := h
  simp only [WorldBank.cr, h10, h11, h12, h13, h14, h34, h35, if_false]

theorem LCore.crRead_of_cr (l : LCore) (lc : Lc) (n : Nat) {v : Word} (h : l.bank.cr n = some v) :
    l.crRead lc n = v := by
  unfold LCore.crRead
  dsimp only
  split
  case h_5 | h_6 | h_7 | h_8 | h_9 | h_15 | h_16 => exact Option.some.inj h
  case h_32 =>
    rw [WorldBank.cr_unlisted (by simp; and_intros <;> assumption)] at h
    split_ifs at h ⊢ <;> exact Option.some.inj h
  all_goals nomatch h

theorem LCore.crRead_prog (l : LCore) (lc : Lc) (i : Fin 4) : l.crRead lc (0x30 + i.val) = l.bank.prog[i] := by
  refine l.crRead_of_cr lc _ ?_
  have h : 0x30 + i.val ∉ [0x10, 0x11, 0x12, 0x13, 0x14, 0x34, 0x35] := by simp; omega
  have hi : (decide (0x30 ≤ 0x30 + i.val) && decide (0x30 + i.val ≤ 0x33)) = true := by simp; omega
  rw [WorldBank.cr_unlisted h, if_pos hi]
  simp

theorem LCore.crRead_exc (l : LCore) (lc : Lc) (i : Nat) (h : i < 12) : l.crRead lc (0x100 + i) = l.bank.exc.reg i := by
  refine l.crRead_of_cr lc _ ?_
  have hb : isBankNo (0x100 + i) 0x100 = true := by simp [isBankNo]; omega
  have hp : ¬ (decide (0x30 ≤ 0x100 + i) && decide (0x100 + i ≤ 0x33)) = true := by simp; omega
  rw [WorldBank.cr_unlisted (by simp; omega), if_neg hp, if_pos hb, Nat.add_sub_cancel_left]

theorem LCore.crRead_hyp (l : LCore) (lc : Lc) (i : Nat) (h : i < 12) : l.crRead lc (0x200 + i) = l.hyp.exc.reg i := by
  generalize hn : 0x200 + i = n
  unfold LCore.crRead
  dsimp only
  split
  case h_32 =>
    have hp : ¬ (decide (0x30 ≤ n) && decide (n ≤ 0x33)) = true := by simp; omega
    have hb : ¬ isBankNo n 0x100 = true := by simp [isBankNo]; omega
    rw [if_neg hp, if_neg hb, ← hn, Nat.add_sub_cancel_left]
  all_goals omega

/-- A register that is not banked by world does not see a change of the bank. -/
theorem LCore.crRead_setBank_of_none (l : LCore) (lc : Lc) (b : WorldBank) (n : Nat) (h : b.cr n = none) :
    (l.setBank b).crRead lc n = l.crRead lc n := by
  unfold LCore.crRead
  simp only [LCore.setBank_bank]
  rw [LCore.setBank_eq]
  split
  case h_5 | h_6 | h_7 | h_8 | h_9 | h_15 | h_16 => nomatch h
  case h_32 =>
    rw [WorldBank.cr_unlisted (by simp; and_intros <;> assumption)] at h
    split_ifs at h with hprog hexc
    rw [if_neg hprog, if_neg hexc, if_neg hprog, if_neg hexc]
  all_goals rfl

/-- Where the bank reads the same, the core does. -/
theorem LCore.crRead_setBank (l : LCore) (lc : Lc) (b : WorldBank) (n : Nat) (h : b.cr n = l.bank.cr n) :
    (l.setBank b).crRead lc n = l.crRead lc n := by
  cases hb : b.cr n with
  | none => exact l.crRead_setBank_of_none lc b n hb
  | some v => rw [LCore.crRead_of_cr _ lc n (v := v) (by rw [l.setBank_bank, hb]), l.crRead_of_cr lc n (h ▸ hb)]

/-- A write of register `n` of the bank: it holds the defined bits of the value, and the others are as they were. -/
structure LCore.BankWrite (l : LCore) (n : Nat) (mask : Word) : Prop where
  out (v : Word) : ∃ b, l.crWrite n v = .ok (l.setBank b) ∧ b.cr n = some (v &&& mask) ∧
    ∀ m, m ≠ n → b.cr m = l.bank.cr m

/-- The twelve registers of the exception bank. -/
theorem LCore.bankWrite_exc (l : LCore) (i : Nat) (h : i < 12) : l.BankWrite (0x100 + i) (excMask i) where
  out v := by
    refine ⟨{ l.bank with exc := l.bank.exc.setReg i v }, ?_, ?_, fun m hm => ?_⟩
    · interval_cases i <;> rfl
    · rw [WorldBank.cr_unlisted (by simp; omega)]
      have hb : isBankNo (0x100 + i) 0x100 = true := by simp [isBankNo]; omega
      have hp : (decide (0x30 ≤ 0x100 + i) && decide (0x100 + i ≤ 0x33)) = false := by simp; omega
      simp [hb, hp, ExcBank.setReg_reg _ i i v h h]
    · by_cases hmem : m ∈ [0x10, 0x11, 0x12, 0x13, 0x14, 0x34, 0x35]
      · fin_cases hmem <;> rfl
      · rw [WorldBank.cr_unlisted hmem, WorldBank.cr_unlisted hmem]
        by_cases hb : isBankNo m 0x100 = true
        · have hj : m - 0x100 < 12 := by simp [isBankNo] at hb; omega
          have hne : i ≠ m - 0x100 := by simp [isBankNo] at hb; omega
          simp [hb, ExcBank.setReg_reg _ _ _ _ h hj, hne]
        · simp [hb]

/-- The registers of the S bank, with their defined bits (Table 4.2, R183). -/
def worldCrs : List (BitVec 10 × Word) :=
  [(0x010, 0x01FFFFFFFFFFFFF0), (0x011, 0x1FFFF), (0x012, 0xFFFF000000000003), (0x013, 0x000FFFFFFFFFF000), (0x014, 1),
    (0x100, -1), (0x101, 0x8000000000FF01FF), (0x102, 0xFFFFFFFFF), (0x103, -1), (0x104, -1), (0x105, -1), (0x106, -1),
    (0x107, -1), (0x108, -1), (0x109, -1), (0x10A, -1), (0x10B, -1)]

/-- Their numbers. -/
def worldCrNos : List Nat :=
  [0x010, 0x011, 0x012, 0x013, 0x014, 0x100, 0x101, 0x102, 0x103, 0x104, 0x105, 0x106, 0x107, 0x108, 0x109, 0x10A, 0x10B]

theorem worldCrNos_rights : ∀ n ∈ worldCrNos, ((crRights n).bind (·.write)).any (· ≤ 1) = true ∧
    isHypCr n = false ∧ isGateCr n = false := by decide

theorem LCore.bankWrite_world (l : LCore) : ∀ p ∈ worldCrs, l.BankWrite p.1.toNat p.2 := by
  have exc (i : Nat) (h : i < 12) := l.bankWrite_exc i h
  simp only [worldCrs, List.forall_mem_cons, List.not_mem_nil, false_imp_iff, implies_true, and_true]
  exact ⟨⟨fun v => ⟨{ l.bank with segtab0 := v &&& 0x01FFFFFFFFFFFFF0 }, rfl, rfl,
      fun m (hm : m ≠ 0x10) => by simp only [WorldBank.cr, if_neg hm]⟩⟩,
    ⟨fun v => ⟨{ l.bank with segtab1 := v &&& 0x1FFFF }, rfl, rfl,
      fun m (hm : m ≠ 0x11) => by simp only [WorldBank.cr, if_neg hm]⟩⟩,
    ⟨fun v => ⟨{ l.bank with ptctl := v &&& ptctlMask }, rfl, rfl,
      fun m (hm : m ≠ 0x12) => by simp only [WorldBank.cr, if_neg hm]⟩⟩,
    ⟨fun v => ⟨{ l.bank with ptroot := v &&& rootMask }, rfl, rfl,
      fun m (hm : m ≠ 0x13) => by simp only [WorldBank.cr, if_neg hm]⟩⟩,
    ⟨fun v => ⟨{ l.bank with timectl := v &&& 1 }, rfl, rfl,
      fun m (hm : m ≠ 0x14) => by simp only [WorldBank.cr, if_neg hm]⟩⟩,
    exc 0 (by decide), exc 1 (by decide), exc 2 (by decide), exc 3 (by decide), exc 4 (by decide), exc 5 (by decide),
    exc 6 (by decide), exc 7 (by decide), exc 8 (by decide), exc 9 (by decide), exc 10 (by decide), exc 11 (by decide)⟩
/-! ### MFC and MTC (R86, R87) -/

/-- A write of PSW that may set IE, or leaves it (R86): the flags, OVT, SW3T and IE are taken. -/
theorem LCore.pswWrite_ok (l : LCore) (v : Word) (h : 1 ≤ l.level ∨ v.getLsbD 8 = l.psw.getLsbD 8) :
    ∃ p, l.pswWrite v = .ok { l with psw := p } ∧
      ∀ i, p.getLsbD i = if i ∈ [8, 16, 17, 18, 19, 22, 23] then v.getLsbD i else l.psw.getLsbD i := by
  refine ⟨_, if_neg ?_, fun i => ?_⟩
  · rcases h with h | h
    · simp [Nat.ne_of_gt h]
    · simp only [h, bne_self_eq_false, Bool.and_false, Bool.false_eq_true, not_false_eq_true]
  · simp only [setBits_bits_getLsbD, Nat.reduceLeDiff, Nat.reduceLT, List.mem_cons, List.not_mem_nil, or_false]
    grind

section
variable {s : State} {lc : Lc} (h : s.clear lc = true)
include h

theorem exec_mfc_ok (d : Reg) (n : BitVec 10) (hc : (s.lc lc.val).crCheck n.toNat false = .ok ()) :
    exec (.mfc lc d n) s = .next (s.retire lc ((s.lc lc.val).wg d ((s.lc lc.val).crRead lc n.toNat))) :=
  congrArg Host.Outcome.next (s.runLocal_ok lc _ _ _ h (by rw [hc]; rfl))

theorem exec_mfc_exc (d : Reg) (n : BitVec 10) (e : Exc) (hc : (s.lc lc.val).crCheck n.toNat false = .exc e) :
    exec (.mfc lc d n) s = .next (s.enterExc lc (encCr d.val 0 n 3) e) :=
  congrArg Host.Outcome.next (s.runLocal_exc lc _ _ e h (by rw [hc]; rfl))

/-- MTC on a clear core is no trap's delivery. -/
theorem exec_mtc (a : Reg) (n : BitVec 10) : exec (.mtc lc a n) s =
    .next (s.runLocal lc (encCr 0 a.val n 4) fun l =>
      (l.crCheck n.toNat true).bind fun _ => l.crWrite n.toNat (l.rg a)) := by
  obtain ⟨-, -, hf, -⟩ := s.clear_iff lc h
  exact congrArg Host.Outcome.next (if_neg (by simp [hf]))

theorem exec_mtc_ok (a : Reg) (n : BitVec 10) (k : LCore) (hc : (s.lc lc.val).crCheck n.toNat true = .ok ())
    (hk : (s.lc lc.val).crWrite n.toNat ((s.lc lc.val).rg a) = .ok k) :
    exec (.mtc lc a n) s = .next (s.retire lc k) :=
  (exec_mtc h a n).trans (congrArg Host.Outcome.next (s.runLocal_ok lc _ _ k h (by rw [hc]; exact hk)))

theorem exec_mtc_exc (a : Reg) (n : BitVec 10) (e : Exc) (hc : (s.lc lc.val).crCheck n.toNat true = .exc e) :
    exec (.mtc lc a n) s = .next (s.enterExc lc (encCr 0 a.val n 4) e) :=
  (exec_mtc h a n).trans (congrArg Host.Outcome.next (s.runLocal_exc lc _ _ e h (by rw [hc]; rfl)))

end

/-- Settles O24: the rights of each number (`LCore.crCheck_ok` and its refusals) and what it reads as (`LCore.crRead`) are
read off the tables; a write of a banked register is `LCore.bankWrite_world`. -/
theorem controlRegisterMoves : Obligations.ControlRegisterMoves := by
  unfold Obligations.ControlRegisterMoves
  intro s lc h l e hx everyone hyper
  refine ⟨fun d n v hv => ?_, fun a n mask hm hl => ?_, fun a ha => ?_, fun hg a n => ?_⟩
  · have reads_open : ∀ p ∈ everyone, l.crRead lc p.1.toNat = p.2 := by
      simp only [everyone, List.forall_mem_cons, List.not_mem_nil, false_imp_iff, implies_true, and_true]
      exact ⟨rfl, rfl, rfl, rfl, rfl, rfl, rfl, rfl, rfl, l.crRead_prog lc 0, l.crRead_prog lc 1, l.crRead_prog lc 2,
        l.crRead_prog lc 3, rfl, rfl⟩
    have reads_hyper : ∀ p ∈ hyper, l.crRead lc p.1.toNat = p.2 := by
      have sb (i : Nat) (h : i < 12 := by decide) := l.crRead_exc lc i h
      have hb (i : Nat) (h : i < 12 := by decide) := l.crRead_hyp lc i h
      simp only [hyper, List.forall_mem_cons, List.not_mem_nil, false_imp_iff, implies_true, and_true]
      exact ⟨rfl, rfl, rfl, rfl, rfl, sb 0, sb 1, sb 2, sb 3, sb 4, sb 5, sb 6, sb 7, sb 8, sb 9, sb 10, sb 11,
        hb 0, hb 1, hb 2, hb 3, hb 4, hb 5, hb 6, hb 7, hb 8, hb 9, hb 10, hb 11, rfl, rfl, rfl, rfl, rfl, rfl⟩
    rcases hv with hv | ⟨hv, h2, hw⟩
    · obtain ⟨hr, hhyp, hgate⟩ := openCrNos_rights _ (List.mem_map_of_mem (f := fun p => p.1.toNat) hv)
      rw [exec_mfc_ok h d n (LCore.crCheck_ok hr (Nat.zero_le _) (.inl hhyp) hgate)]
      exact congrArg (fun v => Host.Outcome.next (s.retire lc (l.wg d v))) (reads_open _ hv)
    · obtain ⟨hr, hgate⟩ := hyperCrNos_rights _ (List.mem_map_of_mem (f := fun p => p.1.toNat) hv)
      rw [exec_mfc_ok h d n (LCore.crCheck_ok hr h2.ge (.inr hw) hgate)]
      exact congrArg (fun v => Host.Outcome.next (s.retire lc (l.wg d v))) (reads_hyper _ hv)
  · obtain ⟨hr, hhyp, hgate⟩ := worldCrNos_rights _ (List.mem_map_of_mem (f := fun p => p.1.toNat) hm)
    obtain ⟨b, hk, hself, hother⟩ := (l.bankWrite_world _ hm).out (l.rg a)
    refine ⟨_, exec_mtc_ok h a n _ (LCore.crCheck_ok hr hl (.inl hhyp) hgate) hk, ?_, ?_, fun n' hn => ?_, ?_⟩
    · exact LCore.crRead_of_cr _ lc _ (by rw [l.setBank_bank]; exact hself)
    · rw [l.setBank_eq]
    · exact l.crRead_setBank lc b _ (hother _ fun h => hn (BitVec.eq_of_toNat_eq h))
    · rw [l.setBank_eq]
  · obtain ⟨p, hp, hbits⟩ := l.pswWrite_ok (l.rg a) ha
    exact ⟨p, exec_mtc_ok h a 0 _ (LCore.crCheck_ok (lvl := 0) rfl (Nat.zero_le _) (.inl rfl) rfl) hp,
      fun i _ => hbits i⟩
  · intro raises
    have enters (c : Instr) (w : BitVec 32) (e : Exc) (hc : exec c s = .next (s.enterExc lc w e))
        (he : e.code ∉ [0x0A, 0x0E, 0x10, 0x11]) (ha : e.after = false) : raises c (causeWord e) := by
      have k := s.enterExc_entered lc w e (l.handler_own _ he) (.inl hg)
      rw [ha] at k
      refine ⟨_, hc, k.g, ?_⟩
      rw [k.bank]
      exact ⟨rfl, rfl, rfl⟩
    have both (e : Exc) (hc : ∀ write, l.crCheck n.toNat write = .exc e) (he : e.code ∉ [0x0A, 0x0E, 0x10, 0x11])
        (ha : e.after = false) : raises (.mfc lc a n) (causeWord e) ∧ raises (.mtc lc a n) (causeWord e) :=
      ⟨enters _ _ e (exec_mfc_exc h a n e (hc false)) he ha, enters _ _ e (exec_mtc_exc h a n e (hc true)) he ha⟩
    refine ⟨fun hn => ?_, fun h0 hn => ?_, fun hp hn => ?_⟩
    · have hr : ∀ n ∈ [(0x004 : BitVec 10), 0x016, 0x0FF, 0x10C, 0x212, 0x309, 0x3FF],
        (crRights n.toNat).isNone = true := by decide
      exact both (excIllegal 0x04) (fun _ => LCore.crCheck_undefined (hr n hn)) (by decide) rfl
    · have hr : ∀ n ∈ [(0x010 : BitVec 10), 0x014, 0x105], isHypCr n.toNat = false ∧ isGateCr n.toNat = false ∧
        ((crRights n.toNat).any fun r => r.read = some 1 ∧ r.write = some 1) = true := by decide
      obtain ⟨hhyp, hgate, hr⟩ := hr n hn
      exact both excPrivilege (fun _ => LCore.crCheck_low hr hhyp hgate h0) (by decide) rfl
    · have hr : ∀ n ∈ [(0x200 : BitVec 10), 0x20C, 0x211], isHypCr n.toNat = true ∧
        (crRights n.toNat).isSome = true := by decide
      exact both (excIllegal 0x05) (fun _ => LCore.crCheck_polder (hr n hn).2 (hr n hn).1 hp) (by decide) rfl

end Sys2Proof.Machine

namespace Sys2Proof.Machine

/-! ### What leaves the cores alone

The operations of caches and home slices change a core in its reservation, its contention predictor and its store buffer
alone: a follower that forgets these sees no change. -/

/-- Everything but the cores. -/
def offCores : List Part := [.keeper, .loader, .tb, .mgmt, .mem, .queues, .scs, .ports, .holders, .ctxs]

theorem Kept.lc_eq {s t : State} {p : List Instr} {q : Fuses} (h : Kept (s.frame offCores) p q t) (n : Nat) :
    t.lc n = s.lc n :=
  congrArg (fun ls => Table.get LCore.init ls n) (h.same_of_notMem (part := .lcs) (by decide) : t.lcs = s.lcs)

section
variable (s : State) (n : Nat)

@[simp] theorem State.caClear_lc (l : LineNo) : (s.caClear l).lc n = s.lc n :=
  (Kept.caClear (s.kept_frame offCores)).lc_eq n
@[simp] theorem State.homeArrive_lc (l : LineNo) : (s.homeArrive l).lc n = s.lc n :=
  (Kept.homeArrive (s.kept_frame offCores) rfl rfl rfl).lc_eq n
@[simp] theorem State.maintTouch_lc (l : LineNo) : (s.maintTouch l).lc n = s.lc n :=
  (Kept.maintTouch (s.kept_frame offCores)).lc_eq n
@[simp] theorem State.unstarve_lc (h : Nat) (l : LineNo) (r : Requester) : (s.unstarve h l r).lc n = s.lc n :=
  (Kept.unstarve (s.kept_frame offCores)).lc_eq n
@[simp] theorem State.sfTouch_lc (l : LineNo) : (s.sfTouch l).lc n = s.lc n :=
  (Kept.sfTouch (s.kept_frame offCores)).lc_eq n
@[simp] theorem State.sfAge_lc (h : Nat) (l : LineNo) (up : Nat) : (s.sfAge h l up).lc n = s.lc n :=
  (Kept.sfAge (s.kept_frame offCores)).lc_eq n
@[simp] theorem State.sfInsert_lc (h : Nat) (l : LineNo) (w : Nat) : (s.sfInsert h l w).lc n = s.lc n :=
  (Kept.sfInsert (s.kept_frame offCores)).lc_eq n
@[simp] theorem State.sfMod_lc (h : Nat) (l : LineNo) (f : SfEntry → SfEntry) : (s.sfMod h l f).lc n = s.lc n :=
  (Kept.sfMod (s.kept_frame offCores)).lc_eq n
@[simp] theorem State.dropReq_lc (r : Requester) (l : LineNo) : (s.dropReq r l).lc n = s.lc n :=
  (Kept.dropReq (s.kept_frame offCores)).lc_eq n
@[simp] theorem State.snoopWrite_lc (l : LineNo) (d : Line) (poison : Bool) : (s.snoopWrite l d poison).lc n = s.lc n :=
  (Kept.snoopWrite (s.kept_frame offCores) rfl rfl).lc_eq n
@[simp] theorem State.issueReq_lc (r : Requester) (l : LineNo) (k : ReqKind) : (s.issueReq r l k).lc n = s.lc n :=
  (Kept.issueReq (s.kept_frame offCores)).lc_eq n
@[simp] theorem State.retake_lc (sl : Slot) (l : LineNo) : (s.retake sl l).lc n = s.lc n :=
  (Kept.retake (s.kept_frame offCores) rfl rfl rfl).lc_eq n
@[simp] theorem State.askLine_lc (sl : Slot) (l : LineNo) (fetch : Bool) : (s.askLine sl l fetch).lc n = s.lc n :=
  (Kept.askLine (s.kept_frame offCores)).lc_eq n

/-- A change of one core that a follower does not see is a change of no core that it sees. -/
theorem State.setLc_follow {β : Type} (φ : LCore → β) (m : Nat) (v : LCore) (h : φ v = φ (s.lc m)) :
    φ ((s.setLc m v).lc n) = φ (s.lc n) := by
  by_cases hm : m = n
  · subst hm
    rw [State.setLc_lc, h]
  · rw [State.setLc_lc_ne _ _ hm]

/-- The eviction of a reserved line clears the reservation on it (R140) and does nothing else. -/
theorem State.evictResv_follow {β : Type} (φ : LCore → β) (hφ : ∀ c : LCore, φ c.clearResv = φ c) (sl : Slot) :
    φ ((s.evictResv sl).lc n) = φ (s.lc n) := by
  unfold State.evictResv
  split
  · rfl
  · dsimp only
    split
    · split
      · rfl
      · exact s.setLc_follow n φ _ _ (hφ _)
    · rfl

end

/-- The core, but for its reservation, its contention predictor and its store buffer. -/
def LCore.steady (l : LCore) : LCore := { l with resv := none, resvHold := false, contention := [], storeBuf := [] }

section
variable (s : State) (n : Nat)

@[simp] theorem State.endHold_steady (sl : Slot) : ((s.endHold sl).lc n).steady = (s.lc n).steady := by
  unfold State.endHold
  split
  · exact s.setLc_follow n _ _ _ rfl
  · rfl

@[simp] theorem State.ite_endHold_steady (P : Prop) [Decidable P] (sl : Slot) :
    ((if P then s.endHold sl else s).lc n).steady = (s.lc n).steady := by
  split <;> simp

@[simp] theorem State.slotInvalidate_steady (k : Nat) (l : LineNo) :
    ((s.slotInvalidate k l).lc n).steady = (s.lc n).steady := by
  unfold State.slotInvalidate
  dsimp only
  split
  · rfl
  · split
    · rfl
    · refine (State.setLc_follow _ n LCore.steady _ _ ?_).trans (by simp)
      dsimp only
      split_ifs <;> rfl

@[simp] theorem State.snoop_steady (sl : Slot) (l : LineNo) (k : Snoop) (starving : Bool) :
    (((s.snoop sl l k starving).1.lc n).steady) = (s.lc n).steady := by
  unfold State.snoop
  dsimp only
  split
  · rfl
  · split
    · rfl
    · split
      · rfl
      · cases k <;> dsimp only
        case peek | probe => simp
        all_goals split <;> simp

@[simp] theorem State.drainStores_steady (sl : Slot) (lc : Lc) (k : Nat) :
    ((s.drainStores sl lc k).lc n).steady = (s.lc n).steady := by
  induction k generalizing s with
  | zero => rfl
  | succ k ih =>
    unfold State.drainStores
    split
    · rfl
    · dsimp only
      split
      · rw [ih, State.modLc_eq, State.setLc_follow (φ := LCore.steady)]
        · simp
        · rfl
      · rfl

@[simp] theorem State.drainSlot_steady (sl : Slot) : ((s.drainSlot sl).lc n).steady = (s.lc n).steady := by
  unfold State.drainSlot
  split
  · dsimp only
    split <;> simp
  · rfl

@[simp] theorem State.install_steady (sl : Slot) (l : LineNo) (st : Moesi) (fetch stream : Bool) (d : Option (Line × Bool)) :
    ((s.install sl l st fetch stream d).lc n).steady = (s.lc n).steady := by
  simp only [State.install, State.caClear_lc, State.drainSlot_steady]
  refine (State.evictResv_follow _ n LCore.steady (fun _ => rfl) sl).trans (by simp)

theorem State.foldl_snoop_steady (l : LineNo) (xs : List Slot) :
    ((xs.foldl (fun s x => ((s.endHold x).snoop x l .inv true).1) s).lc n).steady = (s.lc n).steady :=
  State.foldl_keeps (fun s => (s.lc n).steady) (fun s x => by simp) xs s

@[simp] theorem State.sfMake_steady (h : Slice) (l : LineNo) : ((s.sfMake h l).lc n).steady = (s.lc n).steady := by
  unfold State.sfMake
  split
  · simp
  · split
    · rfl
    · dsimp only
      split
      · simp [State.foldl_snoop_steady]
      · simp

@[simp] theorem State.ownLine_steady (sl : Slot) (l : LineNo) : ((s.ownLine sl l).lc n).steady = (s.lc n).steady := by
  unfold State.ownLine
  split
  · rfl
  · dsimp only
    cases s.homeSlice l <;> simp [State.foldl_snoop_steady]

theorem State.flushStores_steady (sl : Slot) (lc : Lc) (k : Nat) :
    ((s.flushStores sl lc k).lc n).steady = (s.lc n).steady := by
  induction k generalizing s with
  | zero => rfl
  | succ k ih =>
    unfold State.flushStores
    split
    · rfl
    · split
      · simp [ih]
      · rfl

/-- Bringing a core's accesses to an end changes no core otherwise (R119). -/
theorem State.quiet_steady (sl : Slot) (lc : Lc) : ((s.quiet sl lc).lc n).steady = (s.lc n).steady :=
  s.flushStores_steady n sl lc _

end

/-! ### What retirement does to a core (R210, R246) -/

/-- The core, but for its reservation and the table lines that its walks have read. -/
def LCore.settled (l : LCore) : LCore := { l with resv := none, resvHold := false, walked := [] }

theorem State.askWalks_settled (t : State) (lc : Lc) (n : Nat) : ((t.askWalks lc).lc n).settled = (t.lc n).settled := by
  have h : ((t.modLc lc.val fun c => { c with walked := [] }).lc n).settled = (t.lc n).settled :=
    t.setLc_follow n _ _ _ rfl
  unfold State.askWalks
  dsimp only
  split
  · rfl
  · split
    · rw [State.foldl_keeps (fun s => s.lc n) (fun s x => s.askLine_lc n _ x false), h]
    · exact h

/-- Retirement changes a core in its reservation and the lines that its walks have read alone. -/
theorem State.retired_settled (s : State) (lc : Lc) (t : State) (n : Nat) :
    ((s.retired lc t).lc n).settled = (t.lc n).settled := by
  unfold State.retired
  dsimp only
  split
  · exact t.askWalks_settled lc n
  · split
    · exact t.askWalks_settled lc n
    · split
      · refine (State.evictResv_follow _ n LCore.settled (fun _ => rfl) _).trans ?_
        simpa using t.askWalks_settled lc n
      · exact t.askWalks_settled lc n

end Sys2Proof.Machine

namespace Sys2Proof.Machine

/-! ### Accesses that end (R119) -/

theorem State.synced_wait (s : State) (lc : Lc) (sl : Slot) (hh : (s.lc lc.val).host = some sl)
    (hq : s.canQuiet sl lc = false) : s.synced lc = .wait := by
  simp [State.synced, hh, hq]

theorem State.synced_ok (s : State) (lc : Lc) (sl : Slot) (hh : (s.lc lc.val).host = some sl)
    (hq : s.canQuiet sl lc = true) : s.synced lc = .ok (s.quiet sl lc) := by
  simp [State.synced, hh, hq]

theorem State.canQuiet_storeBuf (s : State) (lc : Lc) (sl : Slot) (hq : s.canQuiet sl lc = true) :
    ((s.quiet sl lc).lc lc.val).storeBuf = [] := by
  simp only [State.canQuiet, Bool.and_eq_true, List.isEmpty_iff] at hq
  exact hq.2

/-- A core without stores has nothing to write. -/
theorem State.quiet_idle (s : State) (lc : Lc) (sl : Slot) (hb : (s.lc lc.val).storeBuf = []) : s.quiet sl lc = s := by
  simp [State.quiet, hb, State.flushStores]

/-- With no store and no request of its slot open, every access of the core is complete. -/
theorem State.synced_idle (s : State) (lc : Lc) (hb : (s.lc lc.val).storeBuf = [])
    (hf : ∀ sl : Slot, (s.lc lc.val).host = some sl → s.noFills sl = true) : s.synced lc = .ok s := by
  cases hh : (s.lc lc.val).host with
  | none => simp [State.synced, hh]
  | some sl =>
    have hq : s.canQuiet sl lc = true := by simp [State.canQuiet, s.quiet_idle lc sl hb, hb, hf sl hh]
    rw [s.synced_ok lc sl hh hq, s.quiet_idle lc sl hb]

/-! ### RDTIME, WAIT, ISYNC, FBAR and SYNC (R90, R119 to R121, R161) -/

section
variable {s : State} {lc : Lc} (h : s.clear lc = true)
include h

theorem exec_rdtime_ok (d : Reg) (ht : 1 ≤ (s.lc lc.val).level ∨ (s.lc lc.val).bank.timectl.getLsbD 0 = true) :
    exec (.rdtime lc d) s = .next (s.retire lc ((s.lc lc.val).wg d
      (s.groupTime (s.lc lc.val) + if (s.lc lc.val).gv then (s.lc lc.val).hyp.toffset else 0))) := by
  refine congrArg Host.Outcome.next (s.runInstr_ok lc _ _ _ h (if_neg ?_))
  rcases ht with ht | ht
  · simp [Nat.ne_of_gt ht]
  · simp only [ht, Bool.not_true, Bool.and_false, Bool.false_eq_true, not_false_eq_true]

theorem exec_rdtime_exc (d : Reg) (hl : (s.lc lc.val).level = 0) (ht : (s.lc lc.val).bank.timectl.getLsbD 0 = false) :
    exec (.rdtime lc d) s = .next (s.enterExc lc (encR 0x23 d.val 0 0 0 3) excPrivilege) := by
  refine congrArg Host.Outcome.next (s.runInstr_exc lc _ _ excPrivilege h (if_pos ?_))
  simp only [hl, ht, Bool.not_false, decide_true, Bool.and_true]

/-- FBAR on a clear core is no trap's delivery. -/
theorem exec_fbar : exec (.fbar lc) s = .next (s.retire lc (s.lc lc.val)) := by
  obtain ⟨-, -, hf, -⟩ := s.clear_iff lc h
  refine congrArg Host.Outcome.next ((if_neg (by simp [hf])).trans ?_)
  exact s.runLocal_ok lc _ _ _ h rfl

theorem exec_sync_ok (sl : Slot) (hh : (s.lc lc.val).host = some sl) (hq : s.canQuiet sl lc = true) :
    exec (.sync lc) s = .next (s.retired lc ((s.quiet sl lc).modLc lc.val fun c =>
      { c with pc := (s.lc lc.val).pc + 4 })) := by
  refine congrArg Host.Outcome.next (s.runInstr_ok lc _ _ _ h ?_)
  rw [s.synced_ok lc sl hh hq]
  rfl

theorem exec_sync_wait (sl : Slot) (hh : (s.lc lc.val).host = some sl) (hq : s.canQuiet sl lc = false) :
    exec (.sync lc) s = .next s := by
  refine congrArg Host.Outcome.next ?_
  rw [State.runInstr_clear _ _ _ _ h, s.synced_wait lc sl hh hq]
  rfl

end

/-- Settles O25: RDTIME, WAIT, ISYNC and FBAR retire as one change of the core; SYNC retires with the slot's stores written,
which leaves the registers alone (`State.quiet_steady`, `State.retired_settled`), or waits. -/
theorem timeBarriersAndWait : Obligations.TimeBarriersAndWait := by
  unfold Obligations.TimeBarriersAndWait
  intro s lc h l
  refine ⟨fun d => exec_rdtime_ok h d, fun d hl ht => ⟨_, exec_rdtime_exc h d hl ht, ?_⟩,
    congrArg Host.Outcome.next (s.runLocal_ok lc _ _ _ h rfl), congrArg Host.Outcome.next (s.runLocal_ok lc _ _ _ h rfl),
    exec_fbar h, fun sl hh hq => ⟨_, exec_sync_ok h sl hh hq, ?_⟩, fun sl hh hq => exec_sync_wait h sl hh hq⟩
  · have hs : l.handler 0x02 = .s := l.handler_low _ (by decide) (by omega)
    have k := s.enterExc_entered lc (encR 0x23 d.val 0 0 0 3) excPrivilege hs (.inr rfl)
    exact ⟨congrArg ExcBank.cause k.bank, congrArg ExcBank.epc k.bank, k.g⟩
  · have hr := s.retired_settled lc ((s.quiet sl lc).modLc lc.val fun c => { c with pc := l.pc + 4 }) lc.val
    rw [State.modLc_eq, State.setLc_lc] at hr
    have hq' := s.quiet_steady lc.val sl lc
    have hg : ((s.quiet sl lc).lc lc.val).g = l.g := (congrArg LCore.g hq' :)
    have hpsw : ((s.quiet sl lc).lc lc.val).psw = l.psw := (congrArg LCore.psw hq' :)
    exact ⟨congrArg LCore.pc hr, (congrArg LCore.storeBuf hr).trans (s.canQuiet_storeBuf lc sl hq),
      (congrArg LCore.g hr).trans hg, (congrArg LCore.psw hr).trans hpsw⟩

/-! ### TLB maintenance (R110) -/

/-- What a TLBI leaves of a core's cached translations. -/
def LCore.tlbKept (k l : LCore) (op : TlbiOp) (v : Word) : List TlbEntry := k.tlb.filter fun t => !tlbiDrops l op v t

/-- A core at which a TLBI need not wait: nothing is dropped, or no access of the core waits. -/
def State.tlbiReady (s : State) (l : LCore) (op : TlbiOp) (v : Word) (k : Lc) : Prop :=
  (s.lc k.val).tlbKept l op v = (s.lc k.val).tlb ∨
    ((s.lc k.val).far = none ∧ (s.lc k.val).storeBuf = [] ∧
      ∀ sl : Slot, (s.lc k.val).host = some sl → s.noFills sl = true)

theorem LCore.any_tlbiDrops (k l : LCore) (op : TlbiOp) (v : Word) :
    k.tlb.any (tlbiDrops l op v) = true ↔ k.tlbKept l op v ≠ k.tlb := by
  rw [ne_eq, LCore.tlbKept, List.filter_eq_self]
  simp

theorem Table.insert_insert {V : Type} (t : Table V) (k : Nat) (v w : V) :
    Table.insert (Table.insert t k v) k w = Table.insert t k w := by
  induction t with
  | nil => simp [Table.insert]
  | cons e t ih =>
    by_cases h1 : e.1 = k
    · simp [Table.insert, h1]
    · by_cases h2 : k < e.1 <;> simp [Table.insert, h1, h2, ih]

/-- The last change of a core stands. -/
@[simp] theorem State.setLc_setLc (s : State) (n : Nat) (v w : LCore) : (s.setLc n v).setLc n w = s.setLc n w := by
  simp [State.setLc, Table.insert_insert]

/-- One step over the targets: the core keeps what it keeps, and nothing else changes. -/
theorem State.tlbiTargets_step (s : State) (l : LCore) (op : TlbiOp) (v : Word) (k : Lc) (ks : List Lc)
    (h : s.tlbiReady l op v k) :
    ∃ u : State, s.tlbiTargets l op v (k :: ks) = u.tlbiTargets l op v ks ∧
      ((u = s ∧ (s.lc k.val).tlbKept l op v = (s.lc k.val).tlb) ∨
        u = s.setLc k.val { s.lc k.val with tlb := (s.lc k.val).tlbKept l op v }) := by
  cases hd : (s.lc k.val).tlb.any (tlbiDrops l op v) with
  | false =>
    have hk : (s.lc k.val).tlbKept l op v = (s.lc k.val).tlb := by
      by_contra hne
      rw [(LCore.any_tlbiDrops ..).2 hne] at hd
      cases hd
    exact ⟨s, by simp [State.tlbiTargets, hd], .inl ⟨rfl, hk⟩⟩
  | true =>
    obtain ⟨hf, hb, hn⟩ := h.resolve_left ((LCore.any_tlbiDrops ..).1 hd)
    refine ⟨_, ?_, .inr rfl⟩
    rw [State.tlbiTargets, if_neg (by simp [hd]), if_neg (by simp [hf]), s.synced_idle k hb hn]
    rfl

/-- A TLBI whose targets are ready drops the entries of each, and changes nothing else. -/
theorem State.tlbiTargets_ok (s : State) (l : LCore) (op : TlbiOp) (v : Word) (ks : List Lc) (hd : ks.Nodup)
    (h : ∀ k ∈ ks, s.tlbiReady l op v k) :
    ∃ u : State, s.tlbiTargets l op v ks = .ok u ∧ { u with lcs := s.lcs } = s ∧
      (∀ k : Lc, k ∉ ks → u.lc k.val = s.lc k.val) ∧
      ∀ k ∈ ks, (u.lc k.val).tlb = (s.lc k.val).tlbKept l op v := by
  induction ks generalizing s with
  | nil => exact ⟨s, rfl, rfl, fun _ _ => rfl, fun _ hk => absurd hk List.not_mem_nil⟩
  | cons k ks ih =>
    obtain ⟨hk, hd⟩ := List.nodup_cons.1 hd
    obtain ⟨u, hstep, hu⟩ := s.tlbiTargets_step l op v k ks (h k List.mem_cons_self)
    have hlcs : { u with lcs := s.lcs } = s := by rcases hu with ⟨rfl, -⟩ | rfl <;> rfl
    have hself : (u.lc k.val).tlb = (s.lc k.val).tlbKept l op v := by
      rcases hu with ⟨rfl, hkept⟩ | rfl
      · exact hkept.symm
      · rw [State.setLc_lc]
    have hother (j : Lc) (hj : j ≠ k) : u.lc j.val = s.lc j.val := by
      rcases hu with ⟨rfl, -⟩ | rfl
      · rfl
      · exact State.setLc_lc_ne _ _ fun hv => hj (Fin.ext hv.symm)
    have hready (j : Lc) (hj : j ∈ ks) : u.tlbiReady l op v j := by
      have hn (sl : Slot) : u.noFills sl = s.noFills sl := by rw [← hlcs]; rfl
      simp only [State.tlbiReady, hother j fun e => hk (e ▸ hj), hn]
      exact h j (List.mem_cons_of_mem _ hj)
    obtain ⟨t, ht, htl, hto, hts⟩ := ih u hd hready
    refine ⟨t, hstep.trans ht, by rw [← hlcs, ← htl], fun j hj => ?_, fun j hj => ?_⟩
    · rw [List.mem_cons, not_or] at hj
      rw [hto j hj.2, hother j hj.1]
    · rcases List.mem_cons.1 hj with rfl | hj
      · rw [hto j hk, hself]
      · rw [hts j hj, hother j fun e => hk (e ▸ hj)]

/-- A TLBI of one core that has an entry to drop and an access that cannot complete waits. -/
theorem State.tlbiTargets_wait (s : State) (l : LCore) (op : TlbiOp) (v : Word) (k : Lc) (sl : Slot)
    (hh : (s.lc k.val).host = some sl) (hd : (s.lc k.val).tlbKept l op v ≠ (s.lc k.val).tlb)
    (hq : s.canQuiet sl k = false) : s.tlbiTargets l op v [k] = .wait := by
  simp only [State.tlbiTargets, (LCore.any_tlbiDrops ..).2 hd, s.synced_wait k sl hh hq]
  cases (s.lc k.val).far <;> rfl

section
variable {s : State} {lc : Lc} (h : s.clear lc = true) (op : TlbiOp) (a : Reg) (br : Bool) (ts : LCore → List Lc)
include h

theorem State.tlbiRun_ok (hl : tlbiLevel (s.lc lc.val) op = true) {u : State}
    (hu : s.tlbiTargets (s.lc lc.val) op ((s.lc lc.val).rg a) (ts (s.lc lc.val)) = .ok u) :
    s.tlbiRun lc op a br ts = s.retired lc (u.modLc lc.val fun c => { c with pc := (s.lc lc.val).pc + 4 }) :=
  s.runInstr_ok lc _ _ _ h (by rw [if_pos hl, hu]; rfl)

theorem State.tlbiRun_wait (hl : tlbiLevel (s.lc lc.val) op = true)
    (hu : s.tlbiTargets (s.lc lc.val) op ((s.lc lc.val).rg a) (ts (s.lc lc.val)) = .wait) :
    s.tlbiRun lc op a br ts = s := by
  unfold State.tlbiRun
  rw [State.runInstr_clear _ _ _ _ h, if_pos hl, hu]
  rfl

/-- A TLBI on a core that is ready retires with what the core keeps. -/
theorem State.tlbiLocal_ready (hl : tlbiLevel (s.lc lc.val) op = true)
    (hr : s.tlbiReady (s.lc lc.val) op ((s.lc lc.val).rg a) lc) : s.tlbiLocal lc op a =
      s.retire lc { s.lc lc.val with tlb := (s.lc lc.val).tlbKept (s.lc lc.val) op ((s.lc lc.val).rg a) } := by
  obtain ⟨u, hstep, hu⟩ := s.tlbiTargets_step (s.lc lc.val) op ((s.lc lc.val).rg a) lc [] hr
  rw [State.tlbiLocal, State.tlbiRun_ok h op a false (fun _ => [lc]) hl hstep, State.retire]
  rcases hu with ⟨rfl, hk⟩ | rfl
  · rw [hk, State.modLc_eq]
  · rw [State.modLc_eq, State.setLc_lc, State.setLc_setLc]

end

/-- Settles O26: a TLBI of ready targets drops what each does not keep (`State.tlbiTargets_ok`) and retires, one that is not
ready waits, and one below its level enters the handler of PRIVILEGE. -/
theorem translationInvalidates : Obligations.TranslationInvalidates := by
  unfold Obligations.TranslationInvalidates
  intro s lc h l context drops kept ready done
  have hkept (k : LCore) (op : TlbiOp) (v : Word) : kept k op v = k.tlbKept l op v := by
    have hd (t : TlbEntry) : drops op v t = tlbiDrops l op v t := by
      cases op <;> simp [drops, context, tlbiDrops, TlbEntry.context, TlbEntry.matches, Bool.and_assoc]
    simp only [kept, LCore.tlbKept, hd]
  have local_done (op : TlbiOp) (a : Reg) (hl : tlbiLevel l op = true) :
      (s.tlbiReady l op (l.rg a) lc → s.tlbiLocal lc op a = s.retire lc { l with tlb := l.tlbKept l op (l.rg a) }) ∧
      (∀ sl : Slot, l.host = some sl → l.tlbKept l op (l.rg a) ≠ l.tlb → s.canQuiet sl lc = false →
        s.tlbiLocal lc op a = s) :=
    ⟨State.tlbiLocal_ready h op a hl, fun sl hh hd hq =>
      State.tlbiRun_wait h op a false _ hl (s.tlbiTargets_wait l op (l.rg a) lc sl hh hd hq)⟩
  have hdone (i : Instr) (op : TlbiOp) (a : Reg) (v : Word) (hi : exec i s = .next (s.tlbiLocal lc op a))
      (hv : ∀ k : LCore, k.tlbKept l op v = k.tlbKept l op (l.rg a)) (hl : tlbiLevel l op = true) : done i op v := by
    obtain ⟨hok, hwait⟩ := local_done op a hl
    simp only [done, ready, hkept, hv, hi]
    exact ⟨fun hr => congrArg Host.Outcome.next (hok hr),
      fun sl hh hd hq => congrArg Host.Outcome.next (hwait sl hh hd hq)⟩
  refine ⟨fun a hl => ⟨hdone (.tlbiVa lc a) .va a _ rfl (fun _ => rfl) (decide_eq_true hl),
      hdone (.tlbiAsid lc a) .asid a _ rfl (fun _ => rfl) (decide_eq_true hl),
      hdone (.tlbiAll lc) .all 0 _ rfl (fun _ => rfl) (decide_eq_true hl)⟩,
    fun a hl => hdone (.tlbiGuest lc a) .guest a _ rfl (fun _ => rfl) (decide_eq_true hl), fun a op hl hr => ?_,
    fun a hl => ?_⟩
  · have hl : tlbiLevel l op = true := by cases op <;> simpa [tlbiLevel] using hl
    simp only [ready, hkept] at hr
    obtain ⟨u, hu, hlcs, hother, hself⟩ := s.tlbiTargets_ok l op (l.rg a) (s.parcelLcs (pswParcel l.psw))
      ((List.nodup_finRange _).filter _) hr
    refine ⟨_, congrArg Host.Outcome.next (State.tlbiRun_ok h op a true _ hl hu), ?_,
      fun k => ⟨fun hk => ?_, fun hk hne => ?_⟩,
      hlcs⟩
    · rw [State.modLc_eq, State.setLc_lc]
    · rw [hkept, State.modLc_eq, ← hself k hk]
      exact u.setLc_follow k.val LCore.tlb _ _ rfl
    · rw [State.modLc_eq, State.setLc_lc_ne _ _ fun hv => hne (Fin.ext hv.symm), hother k hk]
  · have hs : l.handler 0x02 = .s := l.handler_low _ (by decide) (by omega)
    have k := s.enterExc_entered lc (encR 0x22 0 0 0 0 5) excPrivilege hs (.inr rfl)
    refine ⟨_, congrArg Host.Outcome.next (s.runInstr_exc lc _ _ excPrivilege h (if_neg ?_)),
      congrArg ExcBank.cause k.bank, congrArg ExcBank.epc k.bank, k.tlb⟩
    simp [tlbiLevel, l, hl]

end Sys2Proof.Machine

namespace Sys2Proof.Machine

/-! ### Descriptors that a core may hold (R101) -/

theorem LCore.descCheck_ok (l : LCore) (ga : Word) (d : Quad) (h : (descWellFormed d &&
    !(descValid d && ((descWorld d && !pswPolder l.psw) || l.level < descFloor d))) = true) :
    l.descCheck ga d = .ok () := by
  simp only [Bool.and_eq_true, Bool.not_eq_true', Bool.and_eq_false_iff, Bool.or_eq_false_iff] at h
  obtain ⟨hw, hv⟩ := h
  rcases hv with hv | ⟨hw', hl⟩
  · simp [LCore.descCheck, hw, hv]
  · have hw' : (descWorld d && !pswPolder l.psw) = false := by rcases hw' with h | h <;> simp [h]
    have hl : ¬ l.level < descFloor d := of_decide_eq_false hl
    simp [LCore.descCheck, hw, hl, Bool.and_assoc, hw']

theorem LCore.descCheck_malformed (l : LCore) (ga : Word) (d : Quad) (h : descWellFormed d = false) :
    l.descCheck ga d = .exc (excSeg 0x06 (Config.segRightsAddr ga (quadHi d)).toNat) := by
  simp [LCore.descCheck, h]

theorem causeWord_excSeg (sub off : Nat) : causeWord (excSeg sub off) = BitVec.ofNat 64 (sub * 2 ^ 16 + 0x05) := by
  simp [causeWord, excSeg]

/-! ### RDSEG, WRSEG and LSEG (R101) -/

/-- The core as LSEG walks the tables: with S-level rights at least. -/
def LCore.lsegWalker (l : LCore) : LCore := if l.level = 0 then { l with psw := setBits l.psw 1 0 1 } else l

/-- A walk that caches no translation leaves the core as it was. -/
theorem LCore.lsegWalker_frame (l : LCore) : { l with tlb := l.lsegWalker.tlb, walked := l.lsegWalker.walked } = l := by
  unfold LCore.lsegWalker
  split <;> rfl

section
variable {s : State} {lc : Lc} (h : s.clear lc = true) (n a b : Reg)
include h

theorem exec_wrseg_ok (hl : 1 ≤ (s.lc lc.val).level)
    (hd : (s.lc lc.val).descCheck ((s.lc lc.val).rg a) (quadOf ((s.lc lc.val).rg b) ((s.lc lc.val).rg a)) = .ok ()) :
    exec (.wrseg lc n a b) s =
      .next (s.retire lc ((s.lc lc.val).ws n (quadOf ((s.lc lc.val).rg b) ((s.lc lc.val).rg a)))) := by
  refine congrArg Host.Outcome.next (s.runLocal_ok lc _ _ _ h ?_)
  rw [if_neg (by omega)]
  simp only [hd]
  rfl

theorem exec_wrseg_exc {e : Exc} (hl : 1 ≤ (s.lc lc.val).level)
    (hd : (s.lc lc.val).descCheck ((s.lc lc.val).rg a) (quadOf ((s.lc lc.val).rg b) ((s.lc lc.val).rg a)) = .exc e) :
    exec (.wrseg lc n a b) s = .next (s.enterExc lc (encR 0x22 n.val a.val b.val 0 1) e) := by
  refine congrArg Host.Outcome.next (s.runLocal_exc lc _ _ e h ?_)
  rw [if_neg (by omega)]
  simp only [hd]
  rfl

theorem exec_wrseg_low (hl : (s.lc lc.val).level = 0) :
    exec (.wrseg lc n a b) s = .next (s.enterExc lc (encR 0x22 n.val a.val b.val 0 1) excPrivilege) :=
  congrArg Host.Outcome.next (s.runLocal_exc lc _ _ excPrivilege h (if_pos hl))

theorem exec_lseg_outside (hga : bits (s.lc lc.val).bank.segtab1 16 0 ≤ ((s.lc lc.val).rg a).toNat) :
    exec (.lseg lc n a) s = .next (s.enterExc lc (encR 0x22 n.val a.val 0 0 0)
      (excSeg 0x05 (Config.segRightsAddr ((s.lc lc.val).rg a) 0).toNat)) :=
  congrArg Host.Outcome.next (s.runInstr_exc lc _ _ _ h (if_pos hga))

/-- A descriptor that is read and may be held is written. -/
theorem exec_lseg_ok {pa : Nat} {unc : Bool} {bs : List Byte} {s1 : State}
    (hga : ((s.lc lc.val).rg a).toNat < bits (s.lc lc.val).bank.segtab1 16 0)
    (ht : s.translateAt lc (s.lc lc.val).lsegWalker
      (bits (s.lc lc.val).bank.segtab0 56 4 * 16 + 16 * ((s.lc lc.val).rg a).toNat) needR =
        .ok (pa, unc, (s.lc lc.val).lsegWalker))
    (hfw : s.fwPass (.core lc) pa 16 needR = true)
    (hread : (s.setLc lc.val (s.lc lc.val)).readAt lc pa 16 unc = .ok (bs, s1))
    (hd : (s.lc lc.val).descCheck ((s.lc lc.val).rg a) (BitVec.ofNat 128 (leNat bs)) = .ok ()) :
    exec (.lseg lc n a) s = .next (s.retired lc (s1.modLc lc.val fun c =>
      (c.ws n (BitVec.ofNat 128 (leNat bs))).next)) := by
  refine congrArg Host.Outcome.next (s.runInstr_ok lc _ _ _ h ?_)
  unfold State.lsegEffect
  dsimp only
  rw [if_neg (Nat.not_le.2 hga)]
  unfold LCore.lsegWalker at ht
  rw [ht]
  have hframe := (s.lc lc.val).lsegWalker_frame
  unfold LCore.lsegWalker at hframe
  simp only [Res.bind, hfw, if_true, hframe, hread, Res.tag, hd]
  rfl

end

/-- Settles O27: RDSEG and a permitted WRSEG retire as one change of the core; LSEG writes the descriptor that it reads, and
retirement leaves it (`State.retired_settled`); each refusal enters its handler at S. -/
theorem segmentRegisterMoves : Obligations.SegmentRegisterMoves := by
  unfold Obligations.SegmentRegisterMoves
  intro s lc h l raises mayHold
  have enters (c : Instr) (n : Reg) {w : BitVec 32} {e : Exc} {cause : Word}
      (hcause : causeWord e = cause) (hc : exec c s = .next (s.enterExc lc w e)) (hl : l.level ≤ 1)
      (he : e.code ∉ [0x0A, 0x0E, 0x10, 0x11]) (ha : e.after = false) : raises c n cause := by
    subst hcause
    have k := s.enterExc_entered lc w e (l.handler_low _ he (by omega)) (.inr rfl)
    rw [ha] at k
    exact ⟨_, hc, congrArg (fun v => v.get n) k.seg, congrArg ExcBank.cause k.bank, congrArg ExcBank.epc k.bank⟩
  refine ⟨fun d n => ⟨congrArg Host.Outcome.next (s.runLocal_ok lc _ _ _ h rfl),
      congrArg Host.Outcome.next (s.runLocal_ok lc _ _ _ h rfl)⟩,
    fun n a b => ⟨fun hl hd => exec_wrseg_ok h n a b hl (l.descCheck_ok _ _ hd), fun hl hd => ?_, fun hl => ?_⟩,
    fun n a => ⟨fun hl hga => ?_, fun pa unc bs s1 hga ht hfw hread hd => ?_⟩⟩
  · have hc := exec_wrseg_exc h n a b (e := excSeg 0x06 _) hl.ge (l.descCheck_malformed _ _ hd)
    exact enters _ n (causeWord_excSeg 6 _) hc (by omega) (by simp [excSeg]) rfl
  · exact enters _ n rfl (exec_wrseg_low h n a b hl) (by omega) (by decide) rfl
  · exact enters _ n (causeWord_excSeg 5 _) (exec_lseg_outside h n a hga) hl (by simp [excSeg]) rfl
  · refine ⟨_, exec_lseg_ok h n a hga ht hfw hread (l.descCheck_ok _ _ hd), ?_⟩
    have hr := s.retired_settled lc (s1.modLc lc.val fun c => (c.ws n (BitVec.ofNat 128 (leNat bs))).next) lc.val
    rw [State.modLc_eq, State.setLc_lc] at hr
    refine ⟨(congrArg (fun k => LCore.rs k n) hr).trans ?_, congrArg LCore.pc hr⟩
    exact ((s1.lc lc.val).ws_rs n n _).trans (if_pos rfl)

end Sys2Proof.Machine

namespace Sys2Proof.Machine

/-! ### Places do not depend on the cores (R271, R272, R310, R311) -/

section
variable (s : State) (n : Nat) (v : LCore)

theorem State.portProto_setLc : (s.setLc n v).portProto = s.portProto := rfl
theorem State.dramPlace_setLc (pa : Nat) : (s.setLc n v).dramPlace pa = s.dramPlace pa := rfl

theorem State.cxlWindow_setLc (pa : Nat) : (s.setLc n v).cxlWindow pa = s.cxlWindow pa := by
  unfold State.cxlWindow
  rw [State.portProto_setLc]

theorem State.cxlPort_setLc (pa : Nat) : (s.setLc n v).cxlPort pa = s.cxlPort pa := by
  have hport : (s.setLc n v).port = s.port := rfl
  unfold State.cxlPort
  rw [State.cxlWindow_setLc, hport]

theorem State.pcieWindow_setLc (pa : Nat) : (s.setLc n v).pcieWindow pa = s.pcieWindow pa := by
  unfold State.pcieWindow
  rw [State.portProto_setLc]

theorem State.doorbell_setLc (pa : Nat) : (s.setLc n v).doorbell pa = s.doorbell pa := by
  unfold State.doorbell
  rw [State.portProto_setLc]

@[simp] theorem State.place_setLc (pa : Nat) : (s.setLc n v).place pa = s.place pa := by
  unfold State.place
  rw [State.dramPlace_setLc, State.cxlPort_setLc, State.pcieWindow_setLc, State.doorbell_setLc]

@[simp] theorem State.homeTile_setLc (pa : Nat) : (s.setLc n v).homeTile pa = s.homeTile pa := by
  unfold State.homeTile
  rw [State.place_setLc]

@[simp] theorem State.homeSlice_setLc (l : LineNo) : (s.setLc n v).homeSlice l = s.homeSlice l := by
  unfold State.homeSlice
  rw [State.homeTile_setLc]

@[simp] theorem State.memReachable_setLc (pa : Nat) : (s.setLc n v).memReachable pa = s.memReachable pa := by
  have hlive : (s.setLc n v).tileLive = s.tileLive := rfl
  have hport : (s.setLc n v).port = s.port := rfl
  unfold State.memReachable State.homeLive
  rw [State.homeTile_setLc, State.place_setLc, hlive, hport]

end
/-! ### Reading and writing a line that the slot has (R242, R243) -/

theorem leBytes_length (n v : Nat) : (leBytes n v).length = n := by
  induction n generalizing v with
  | zero => rfl
  | succ n ih => simp [leBytes, ih]

theorem LCore.storeData_length (l : LCore) (op : StoreOp) (t : Reg) : (l.storeData op t).length = storeBytes op := by
  cases op <;> exact leBytes_length ..

/-- The bytes that a core reads of a line: the line's, with its own waiting stores over them. -/
def LCore.lineRead (l : LCore) (pa n : Nat) (d : Line) : List Byte :=
  l.overlay pa ((List.range n).map fun i => lineByte d ((pa + i) % 128))

section
variable {s : State} {lc : Lc} {pa t o : Nat} {sl : Slot}

/-- A cached read of a line that the slot holds without poison or an error that waits there. -/
theorem State.readAt_held {c : CLine} (n : Nat) (hplace : s.place pa = .dram t o) (hreach : s.memReachable pa = true)
    (hhost : (s.lc lc.val).host = some sl) (herr : s.cacheErr sl (lineOfAddr pa) = false)
    (hfind : (s.holder sl.val).find (lineOfAddr pa) = some c) (hpoison : c.poison = false) :
    s.readAt lc pa n false = .ok ((s.lc lc.val).lineRead pa n c.data,
      s.setHolder sl.val ((s.holder sl.val).loaded (lineOfAddr pa))) := by
  have hcached : s.readAt lc pa n false = s.readCached lc pa n := by simp [State.readAt, hplace, hreach]
  have hline : s.readLine lc pa n = .ok ((s.lc lc.val).lineRead pa n c.data,
      s.setHolder sl.val ((s.holder sl.val).loaded (lineOfAddr pa))) := by
    simp [State.readLine, hhost, Holder.dataOf, hfind, hpoison, LCore.lineRead]
  simp [hcached, State.readCached, hhost, State.meetLine, herr, Res.bind, hline, Res.inState]

/-- The write of a line does not see a change of a core. -/
theorem State.maintTouch_setLc (s : State) (n : Nat) (v : LCore) (l : LineNo) :
    (s.setLc n v).maintTouch l = (s.maintTouch l).setLc n v := by
  unfold State.maintTouch
  rw [State.homeSlice_setLc]
  split <;> rfl

/-- What a store leaves of the caches of the slot that owns its line, and of the maintenance that has the line to do. -/
def State.storeLine (s : State) (sl : Slot) (pa : Nat) (bs : List Byte) : State :=
  (s.modHolder sl.val fun h => (h.write (lineOfAddr pa) (pa % 128) bs).use (lineOfAddr pa) false).maintTouch (lineOfAddr pa)

theorem State.storeLine_setLc (s : State) (n : Nat) (v : LCore) (sl : Slot) (pa : Nat) (bs : List Byte) :
    (s.setLc n v).storeLine sl pa bs = (s.storeLine sl pa bs).setLc n v :=
  State.maintTouch_setLc
    (s.modHolder sl.val fun h => (h.write (lineOfAddr pa) (pa % 128) bs).use (lineOfAddr pa) false) n v _

/-- The only waiting store of a core is written where the slot owns its line (R243). -/
theorem State.drainSlot_one (s : State) (lc : Lc) (pa : Nat) (bs : List Byte) (sl : Slot) (k : LCore)
    (hslot : s.slotLc sl = some lc) (hk : k.storeBuf = [⟨pa, bs⟩])
    (howns : (s.holder sl.val).owns (lineOfAddr pa) = true) :
    (s.setLc lc.val k).drainSlot sl = (s.storeLine sl pa bs).setLc lc.val { k with storeBuf := [] } := by
  have hslot' : (s.setLc lc.val k).slotLc sl = some lc := hslot
  have howns' : ((s.setLc lc.val k).holder sl.val).owns (lineOfAddr pa) = true := howns
  have hdrain : (s.setLc lc.val k).drainStores sl lc 1 = (s.storeLine sl pa bs).setLc lc.val { k with storeBuf := [] } := by
    have hline : ((s.setLc lc.val k).storeLine sl pa bs).modLc lc.val (fun c => { c with storeBuf := [] }) =
        (s.storeLine sl pa bs).setLc lc.val { k with storeBuf := [] } := by
      rw [State.storeLine_setLc, State.modLc_eq, State.setLc_lc, State.setLc_setLc]
    rw [← hline]
    simp only [State.drainStores, State.setLc_lc, hk, howns', if_true]
    rfl
  simp only [State.drainSlot, hslot', State.setLc_lc, hk, List.length_singleton, hdrain]

/-- A cached store to a line that the slot owns, with no store before it, is written at once. -/
theorem State.writeAt_owned (bs : List Byte) (hplace : s.place pa = .dram t o) (hreach : s.memReachable pa = true)
    (hhost : (s.lc lc.val).host = some sl) (herr : s.cacheErr sl (lineOfAddr pa) = false)
    (hside : ∀ p ∈ (s.holder sl.val).side, p.line ≠ lineOfAddr pa) (hslot : s.slotLc sl = some lc)
    (hbuf : (s.lc lc.val).storeBuf = []) (howns : (s.holder sl.val).owns (lineOfAddr pa) = true) :
    s.writeAt lc pa bs false = .ok ((s.storeLine sl pa bs).setLc lc.val (s.lc lc.val), true) := by
  have hcached : s.writeAt lc pa bs false = s.writeCached lc pa bs := by simp [State.writeAt, hplace, hreach]
  have hside' : ((s.holder sl.val).side.any fun p => p.line = lineOfAddr pa) = false := by
    simpa [List.any_eq_false] using hside
  have hdrain := s.drainSlot_one lc pa bs sl _ hslot
    (rfl : LCore.storeBuf { s.lc lc.val with storeBuf := [⟨pa, bs⟩] } = _)
    howns
  have hk : { s.lc lc.val with storeBuf := [] } = s.lc lc.val := by rw [← hbuf]
  rw [hk] at hdrain
  have howns' (v : LCore) : ((s.setLc lc.val v).holder sl.val).owns (lineOfAddr pa) = true := howns
  rw [hcached]
  simp only [State.writeCached, hhost]
  simp only [hbuf, herr, hside', Bool.false_eq_true, if_false, List.length_nil, List.nil_append, State.modLc_eq, howns',
    if_true]
  rw [if_neg (by decide), ← hdrain]

end

end Sys2Proof.Machine

namespace Sys2Proof.Machine

/-! ### LOAD and STORE (R100, R242, R243, Table 4.4) -/

/-- On a clear core nothing stands before the instruction. -/
theorem State.ready_of_clear (s : State) (lc : Lc) (h : s.clear lc = true) : s.ready lc = true := by
  obtain ⟨hr, hb, hf, hl, he, -⟩ := s.clear_iff lc h
  simp only [State.ready, hr, hb, hf, hl, he, Bool.false_and, Bool.not_false, Option.isNone_none, Bool.and_self]

/-- A memory instruction whose effect is done on a clear core retires. -/
theorem State.runMem_ok (s : State) (lc : Lc) (w : BitVec 32) (f : State → LCore → Res (State × Bool)) (t : State)
    (h : s.clear lc = true) (hf : f s (s.lc lc.val) = .ok (t, true)) : s.runMem lc w f = s.retired lc t := by
  simp only [State.runMem, s.ready_of_clear lc h, if_true, hf]
  exact s.runInstr_ok lc w _ t h (by rw [hf]; rfl)

theorem State.runMem_exc (s : State) (lc : Lc) (w : BitVec 32) (f : State → LCore → Res (State × Bool)) (e : Exc)
    (h : s.clear lc = true) (hf : f s (s.lc lc.val) = .exc e) : s.runMem lc w f = s.enterExc lc w e := by
  simp only [State.runMem, s.ready_of_clear lc h, if_true, hf]
  exact s.runInstr_exc lc w _ e h (by rw [hf]; rfl)

/-- An offset that is no multiple of the size (R100). -/
theorem State.dataAddr_misaligned (s : State) (lc : Lc) (l : LCore) (d : Quad) (off : Word) (n need : Nat)
    (h : off.toNat % n ≠ 0) : s.dataAddr lc l d off n need = .exc { code := 0x03, addr := off.toNat } := by
  simp [State.dataAddr, check, h, Res.bind]

theorem exec_load (s : State) (lc : Lc) (op : LoadOp) (form : MemForm) : exec (.load lc op form .ok) s =
    .next (s.runInstr lc (encMem (loadMajor op) 0 2 form) fun s l => s.loadEffect lc op form l) := by
  refine congrArg Host.Outcome.next ?_
  unfold State.load
  rw [if_neg (by simp)]

theorem exec_store (s : State) (lc : Lc) (op : StoreOp) (form : MemForm) (hio : (s.lc lc.val).ioWait = none) :
    exec (.store lc op form) s =
      .next (s.runMem lc (encMem (storeMajor op) 1 3 form) fun s l => s.storeEffect lc op form l) := by
  refine congrArg Host.Outcome.next (if_neg ?_)
  simp [hio]

section
variable {s : State} {lc : Lc} {form : MemForm} {l' : LCore} {pa : Nat}

/-- The effect of a load is what the read of its line gives (R100, R242). -/
theorem State.loadEffect_ok {op : LoadOp} {l : LCore} {bs : List Byte} {t : State}
    (haddr : s.dataAddr lc l (l.rs (memBase form)) (l.memOffset form) (loadBytes (loadForm op form)) needR =
      .ok (pa, false, l'))
    (hread : (s.setLc lc.val l').readAt lc pa (loadBytes (loadForm op form)) false = .ok (bs, t)) :
    s.loadEffect lc op form l =
      .ok (t.modLc lc.val fun c => (c.loadInto (loadForm op form) (memData form) bs).next) := by
  simp only [State.loadEffect, State.dataRead, haddr, Res.bind, hread, Res.inState, Res.tag, Res.map]

theorem State.loadEffect_misaligned {op : LoadOp} {l : LCore}
    (hoff : (l.memOffset form).toNat % loadBytes (loadForm op form) ≠ 0) : s.loadEffect lc op form l =
      .exc { code := 0x03, addr := (l.memOffset form).toNat, access := 2 } := by
  simp only [State.loadEffect, State.dataRead, State.dataAddr_misaligned _ _ _ _ _ _ _ hoff, Res.bind, Res.tag, Res.map]

/-- The effect of a store is what the write of its line leaves (R100, R243). -/
theorem State.storeEffect_ok {op : StoreOp} {l : LCore} {t : State}
    (haddr : s.dataAddr lc l (l.rs (memBase form)) (l.memOffset form) (storeBytes (storeForm op form)) needW =
      .ok (pa, false, l'))
    (hwrite : (s.setLc lc.val l').writeAt lc pa (l.storeData (storeForm op form) (memData form)) false = .ok (t, true)) :
    s.storeEffect lc op form l = .ok (t.modLc lc.val LCore.next, true) := by
  simp only [State.storeEffect, State.dataWrite, LCore.storeData_length, haddr, Res.bind, hwrite, Res.inState, Res.tag,
    Res.map, if_true]

theorem State.storeEffect_misaligned {op : StoreOp} {l : LCore}
    (hoff : (l.memOffset form).toNat % storeBytes (storeForm op form) ≠ 0) : s.storeEffect lc op form l =
      .exc { code := 0x03, addr := (l.memOffset form).toNat, access := 3 } := by
  simp only [State.storeEffect, State.dataWrite, LCore.storeData_length, State.dataAddr_misaligned _ _ _ _ _ _ _ hoff,
    Res.bind, Res.tag, Res.map]

end

/-- A change of the core that a change of the caches has followed. -/
theorem State.setHolder_modLc (s : State) (n m : Nat) (l : LCore) (x : Holder) (f : LCore → LCore) :
    ((s.setLc n l).setHolder m x).modLc n f = (s.setLc n (f l)).setHolder m x := by
  have hcomm (k : LCore) : ((s.setLc n l).setHolder m x).setLc n k = ((s.setLc n l).setLc n k).setHolder m x := rfl
  have hlc : ((s.setLc n l).setHolder m x).lc n = l := s.setLc_lc n l
  rw [State.modLc_eq, hlc, hcomm, State.setLc_setLc]

/-- The register that a load writes, by its operation (Table 4.4). -/
theorem LCore.loadInto_eq (l : LCore) (op : LoadOp) (t : Reg) (bs : List Byte) : l.loadInto op t bs = (match op with
    | .ldb => l.wg t ((BitVec.ofNat 8 (leNat bs)).signExtend 64)
    | .ldh => l.wg t ((BitVec.ofNat 16 (leNat bs)).signExtend 64)
    | .ldw => l.wg t ((BitVec.ofNat 32 (leNat bs)).signExtend 64)
    | .ldd | .ldbu | .ldhu | .ldwu => l.wg t (BitVec.ofNat 64 (leNat bs))
    | .lddf | .ldqf => l.wf t (BitVec.ofNat 128 (leNat bs))) := by
  cases op <;> rfl

/-- Settles O32: an aligned access to a line that the slot holds is one read of it (`State.readAt_held`) or, owned, one write
of it (`State.writeAt_owned`); another offset takes ALIGN before any check. -/
theorem loadsAndStores : Obligations.LoadsAndStores := by
  unfold Obligations.LoadsAndStores
  intro s lc form h l
  refine ⟨fun op pa t o l' sl c haddr hplace hreach hhost herr hfind hpoison => ?_,
    fun op pa t o l' sl bs hbs haddr hplace hreach hio hhost herr hside hslot hbuf howns => ?_, fun op hoff => ?_,
    fun op hio hoff => ?_⟩
  · have hread := State.readAt_held (s := s.setLc lc.val l') (lc := lc) (loadBytes (loadForm op form))
      (by rwa [State.place_setLc]) (by rwa [State.memReachable_setLc]) (by rwa [State.setLc_lc]) herr hfind hpoison
    rw [State.setLc_lc] at hread
    refine ⟨_, rfl, ?_⟩
    rw [exec_load, s.runInstr_ok lc _ _ _ h (State.loadEffect_ok haddr hread)]
    refine congrArg (fun t => Host.Outcome.next (s.retired lc t)) ((s.setHolder_modLc _ _ _ _ _).trans ?_)
    rw [LCore.loadInto_eq]
    cases loadForm op form <;> rfl
  · have hwrite := State.writeAt_owned (s := s.setLc lc.val l') (lc := lc) (l.storeData (storeForm op form) (memData form))
      (by rwa [State.place_setLc]) (by rwa [State.memReachable_setLc]) (by rwa [State.setLc_lc]) herr hside hslot
      (by rwa [State.setLc_lc]) howns
    have hbytes : l.storeData (storeForm op form) (memData form) = bs := by
      subst hbs
      cases storeForm op form <;> rfl
    rw [exec_store _ _ _ _ hio, s.runMem_ok lc _ _ _ h (State.storeEffect_ok haddr hwrite), hbytes]
    refine congrArg (fun t => Host.Outcome.next (s.retired lc t)) ?_
    rw [State.setLc_lc, State.modLc_eq, State.setLc_lc, State.storeLine_setLc, State.setLc_setLc, State.setLc_setLc,
      ← State.storeLine_setLc]
    rfl
  · rw [exec_load, s.runInstr_exc lc _ _ _ h (State.loadEffect_misaligned hoff)]
  · rw [exec_store _ _ _ _ hio, s.runMem_exc lc _ _ _ h (State.storeEffect_misaligned hoff)]

end Sys2Proof.Machine

namespace Sys2Proof.Machine

/-! ### Paired words on registers (R92, R93, R97) -/

/-- The core after two operations on registers: the second's, with the register that the first wrote. -/
def LCore.pairMerge (l1 l2 : LCore) (a : Short) : LCore :=
  match a.dest with
  | some (false, r) => l2.wg r (l1.rg r)
  | some (true, r) => l2.wf r (l1.rf r)
  | none => l2

theorem LCore.pairRegs_ok {l l1 l2 : LCore} {a b : Short} {w : BitVec 32} (h1 : l.short a w false = .ok l1)
    (h2 : ({ l1 with g := l.g, f := l.f }).short b w true = .ok l2) : l.pairRegs a b w = .ok (l1.pairMerge l2 a) := by
  simp only [LCore.pairRegs, h1, h2, Res.inSlot, Res.bind, Res.map]
  rfl

theorem LCore.pairMerge_rg (l1 l2 : LCore) (a : Short) (r : Reg) :
    (l1.pairMerge l2 a).rg r = if a.dest = some (false, r) then l1.rg r else l2.rg r := by
  unfold LCore.pairMerge
  split
  · next d hd =>
    rw [LCore.wg_rg, hd]
    by_cases hr : r = d
    · rw [hr, if_pos rfl, if_pos rfl]
    · rw [if_neg hr, if_neg fun h => hr (by simpa using h.symm)]
  · next d hd => simp [hd, LCore.wf, LCore.rg]
  · next hd => simp [hd]

theorem LCore.pairMerge_rf (l1 l2 : LCore) (a : Short) (r : Reg) :
    (l1.pairMerge l2 a).rf r = if a.dest = some (true, r) then l1.rf r else l2.rf r := by
  unfold LCore.pairMerge
  split
  · next d hd => simp [hd, LCore.wg, LCore.rf]
  · next d hd =>
    rw [LCore.wf_rf, hd]
    by_cases hr : r = d
    · rw [hr, if_pos rfl, if_pos rfl]
    · rw [if_neg hr, if_neg fun h => hr (by simpa using h.symm)]
  · next hd => simp [hd]

theorem LCore.pairMerge_frame (l1 l2 : LCore) (a : Short) :
    (l1.pairMerge l2 a).psw = l2.psw ∧ (l1.pairMerge l2 a).pc = l2.pc := by
  unfold LCore.pairMerge
  split <;> exact ⟨rfl, rfl⟩

theorem LCore.pairNext_some (l : LCore) (b : Short) :
    l.pairNext (some b) = { l with pc := if b.isBranch then l.pc else l.pc + 4 } := by
  unfold LCore.pairNext LCore.next
  dsimp only
  split <;> rfl

section
variable {s : State} {lc : Lc} (h : s.clear lc = true) {w : BitVec 31} (h15 : w.getLsbD 15 = true)
include h h15

/-- A pair that Table 4.6 makes illegal. -/
theorem exec_pairedWord_illegal {sub : Nat} {slot : Bool}
    (hp : pairIllegal (shortOf (w.toNat / 2 ^ 16)) (some (shortOf w.toNat)) (w.toNat % 2 ^ 15) = some (sub, slot)) :
    exec (.pairedWord lc w) s =
      .next (s.enterExc lc ((1 : BitVec 1) ++ w) { code := 0x01, sub := sub, slot := slot }) := by
  refine congrArg Host.Outcome.next ?_
  unfold State.paired
  simp only [h15, if_true, hp]
  exact s.runInstr_exc lc _ _ _ h rfl

/-- A legal pair of operations on registers. -/
theorem exec_pairedWord_regs {k : LCore}
    (hp : pairIllegal (shortOf (w.toNat / 2 ^ 16)) (some (shortOf w.toNat)) (w.toNat % 2 ^ 15) = none)
    (ha : (shortOf (w.toNat / 2 ^ 16)).isMem = false) (hb : (shortOf w.toNat).isMem = false)
    (hio : (s.lc lc.val).ioWait = none)
    (hk : (s.lc lc.val).pairRegs (shortOf (w.toNat / 2 ^ 16)) (shortOf w.toNat) ((1 : BitVec 1) ++ w) = .ok k) :
    exec (.pairedWord lc w) s = .next (s.retired lc (s.setLc lc.val (k.pairNext (some (shortOf w.toNat))))) := by
  refine congrArg Host.Outcome.next ?_
  unfold State.paired
  simp only [h15, if_true, hp, hio, Option.isSome_none, Bool.false_eq_true, if_false]
  refine s.runMem_ok lc _ _ _ h ?_
  simp only [State.pairEffect, ha, hb, Bool.false_eq_true, if_false, hk]
  rfl

end

/-! ### Undefined encodings and fetch faults (R91, R97, R98) -/

theorem illegalWord_major (w : BitVec 32) (h31 : w.getLsbD 31 = false) (hm : majorUndefined (w.toNat / 2 ^ 25) = true) :
    illegalWord w = some (0x01, false) := by
  simp only [illegalWord, h31, hm, Bool.false_eq_true, if_false, if_true]

/-- Settles O34: a legal pair retires with `LCore.pairMerge` of what its two operations make of the same registers; an
illegal one, an undefined major and a fetch that fails enter the handler of their exception. -/
theorem pairedWordsAndBadWords : Obligations.PairedWordsAndBadWords := by
  unfold Obligations.PairedWordsAndBadWords
  intro s lc h l
  refine ⟨fun w word a b l1 l2 hword h15 ha hb => ⟨fun sub slot hp => ?_, fun hp hma hmb hio h1 h2 => ?_⟩,
    fun w h31 hm => ?_, fun e he => ?_⟩
  · subst hword ha hb
    exact exec_pairedWord_illegal h h15 hp
  · subst hword ha hb
    refine ⟨_, exec_pairedWord_regs h h15 hp hma hmb hio (LCore.pairRegs_ok h1 h2), ?_⟩
    obtain ⟨hpsw, hpc⟩ := l1.pairMerge_frame l2 (shortOf (w.toNat / 2 ^ 16))
    rw [LCore.pairNext_some, hpc]
    exact ⟨hpsw, l1.pairMerge_rg l2 _, l1.pairMerge_rf l2 _, rfl⟩
  · refine congrArg Host.Outcome.next ?_
    rw [illegalWord_major w h31 hm]
    exact s.runInstr_exc lc _ _ _ h rfl
  · refine congrArg Host.Outcome.next ?_
    rw [he]
    exact s.runInstr_exc lc _ _ _ h rfl

end Sys2Proof.Machine

/-! PROOF. The integer instructions (O14 to O20).  An operation on registers retires with its result and flags
(`State.runInt_ok`), or enters the handler of OVERFLOW or DIVIDE_CHECK; what each result is, as an integer, is said
once, in the arithmetic of words. -/

namespace Sys2Proof.Machine

/-! ### What retirement leaves of the state (R242, R246, R259) -/

/-- The state, but for its cores, its caches and its outstanding requests. -/
def State.still (s : State) : State := { s with lcs := [], holders := [], outReqs := [] }

/-- The reservation of a core is as it was, or cleared. -/
def LCore.ResvFrom (k l : LCore) : Prop := k.resv = l.resv ∨ k.resv = none

theorem State.issue_still (s : State) (n : Outstanding) : (s.issue n).still = s.still := by
  unfold State.issue
  split
  · rfl
  · split <;> rfl

/-- A request to read loses none that is outstanding. -/
theorem State.issue_outReqs {s : State} {n : Outstanding} (hn : n.kind ≠ .readOwn) {q : Outstanding}
    (hq : q ∈ s.outReqs) : q ∈ (s.issue n).outReqs := by
  unfold State.issue
  split
  · exact List.mem_append_left _ hq
  · rw [if_neg (by simp [hn])]
    exact hq

theorem State.askLine_still (s : State) (sl : Slot) (l : LineNo) (fetch : Bool) :
    (s.askLine sl l fetch).still = s.still := by
  unfold State.askLine
  split
  · rfl
  · exact s.issue_still _

theorem State.askLine_outReqs {s : State} (sl : Slot) (l : LineNo) (fetch : Bool) {q : Outstanding}
    (hq : q ∈ s.outReqs) : q ∈ (s.askLine sl l fetch).outReqs := by
  unfold State.askLine
  split
  · exact hq
  · exact State.issue_outReqs (by simp [newReq]) hq

theorem State.askWalks_still (t : State) (lc : Lc) : (t.askWalks lc).still = t.still := by
  unfold State.askWalks
  dsimp only
  split
  · rfl
  · split
    · exact State.foldl_keeps State.still (fun s x => s.askLine_still _ x false) _ _
    · rfl

theorem State.askWalks_outReqs (t : State) (lc : Lc) {q : Outstanding} (hq : q ∈ t.outReqs) :
    q ∈ (t.askWalks lc).outReqs := by
  unfold State.askWalks
  dsimp only
  split
  · exact hq
  · split
    · exact List.foldlRecOn (motive := fun s : State => q ∈ s.outReqs) _ _ hq fun s hs x _ =>
        State.askLine_outReqs _ x false hs
    · exact hq

theorem State.askWalks_resv (t : State) (lc : Lc) (n : Nat) : ((t.askWalks lc).lc n).resv = (t.lc n).resv := by
  unfold State.askWalks
  dsimp only
  split
  · rfl
  · have h : ((t.modLc lc.val fun c => { c with walked := [] }).lc n).resv = (t.lc n).resv :=
      t.setLc_follow n LCore.resv _ _ rfl
    split
    · exact (congrArg LCore.resv (State.foldl_keeps (fun s => s.lc n) (fun s x => s.askLine_lc n _ x false) _ _)).trans h
    · exact h

theorem State.evictResv_still (s : State) (sl : Slot) : (s.evictResv sl).still = s.still := by
  unfold State.evictResv
  split
  · rfl
  · dsimp only
    split
    · split <;> rfl
    · rfl

theorem State.evictResv_outReqs (s : State) (sl : Slot) : (s.evictResv sl).outReqs = s.outReqs := by
  unfold State.evictResv
  split
  · rfl
  · dsimp only
    split
    · split <;> rfl
    · rfl

theorem State.evictResv_resv (s : State) (sl : Slot) (n : Nat) :
    ((s.evictResv sl).lc n).ResvFrom (s.lc n) := by
  unfold State.evictResv
  split
  · exact .inl rfl
  · next lc _ =>
    dsimp only
    split
    · split
      · exact .inl rfl
      · by_cases hn : lc.val = n
        · subst hn
          exact .inr (by rw [State.setLc_lc]; rfl)
        · exact .inl (by rw [State.setLc_lc_ne _ _ hn])
    · exact .inl rfl

/-- Retirement asks for what the walks have read, and may then use the fetched line in the caches of the core's slot. -/
theorem State.retired_cases (s : State) (lc : Lc) (t : State) : s.retired lc t = t.askWalks lc ∨
    ∃ (sl : Slot) (f : Holder → Holder), s.retired lc t = ((t.askWalks lc).modHolder sl.val f).evictResv sl := by
  unfold State.retired
  dsimp only
  split
  · exact .inl rfl
  · split
    · exact .inl rfl
    · split
      · exact .inr ⟨_, _, rfl⟩
      · exact .inl rfl

theorem State.retired_still (s : State) (lc : Lc) (t : State) : (s.retired lc t).still = t.still := by
  obtain h | ⟨sl, f, h⟩ := s.retired_cases lc t
  · rw [h, State.askWalks_still]
  · rw [h, State.evictResv_still]
    exact t.askWalks_still lc

theorem State.retired_outReqs (s : State) (lc : Lc) (t : State) {q : Outstanding} (hq : q ∈ t.outReqs) :
    q ∈ (s.retired lc t).outReqs := by
  have hw := t.askWalks_outReqs lc hq
  obtain h | ⟨sl, f, h⟩ := s.retired_cases lc t
  · rwa [h]
  · rwa [h, State.evictResv_outReqs]

theorem State.retired_resv (s : State) (lc : Lc) (t : State) (n : Nat) :
    ((s.retired lc t).lc n).ResvFrom (t.lc n) := by
  have hw := t.askWalks_resv lc n
  obtain h | ⟨sl, f, h⟩ := s.retired_cases lc t
  · rw [h]
    exact .inl hw
  · rw [h]
    exact (State.evictResv_resv _ sl n).imp (fun hr => hr.trans hw) id

/-- A core that settles as another differs from it in its reservation and the lines that its walks have read alone. -/
theorem LCore.eq_of_settled {k l : LCore} (h : k.settled = l.settled) :
    k = { l with walked := k.walked, resv := k.resv, resvHold := k.resvHold } :=
  congrArg (fun c : LCore => { c with walked := k.walked, resv := k.resv, resvHold := k.resvHold }) h

/-- What retirement changes (R242, R246, R259): the use of lines in the caches, the reservations, the lines that the walks
have read and the requests for them. -/
theorem State.retired_frame (s : State) (lc : Lc) (t : State) :
    { s.retired lc t with lcs := t.lcs, holders := t.holders, outReqs := t.outReqs } = t :=
  congrArg (fun u : State => { u with lcs := t.lcs, holders := t.holders, outReqs := t.outReqs }) (s.retired_still lc t)

end Sys2Proof.Machine

namespace Sys2Proof.Machine

/-! ### Results and their traps (R126) -/

section
variable (l : LCore) (d : Reg) (traps : Bool) (x : IntRes)

theorem LCore.intWrite_ok (h : (traps && x.flags.ov && pswOvt l.psw) = false) :
    l.intWrite d traps x = .ok ((l.wg d x.r).setFlags x.flags) := by
  rw [LCore.intWrite, if_neg (by simp [h])]

theorem LCore.intWrite_trap (h : (traps && x.flags.ov && pswOvt l.psw) = true) :
    l.intWrite d traps x = .exc { code := 0x0C } := if_pos h

end

section
variable {s : State} {lc : Lc} (h : s.clear lc = true) (w : BitVec 32) (d : Reg) (traps : Bool) (f : LCore → IntRes)
include h

/-- An integer operation that does not trap retires with its result and flags. -/
theorem State.runInt_ok
    (hov : (traps && (f (s.lc lc.val)).flags.ov && pswOvt (s.lc lc.val).psw) = false) :
    Host.Outcome.next (φ := Fault) (ρ := Refusal) (s.runLocal lc w fun l => l.intWrite d traps (f l)) = .next
      (s.retire lc (((s.lc lc.val).wg d (f (s.lc lc.val)).r).setFlags (f (s.lc lc.val)).flags)) :=
  congrArg Host.Outcome.next (s.runLocal_ok lc w _ _ h (LCore.intWrite_ok _ d traps _ hov))

/-- An integer operation that would set OV enters the handler of OVERFLOW. -/
theorem State.runInt_trap
    (hov : (traps && (f (s.lc lc.val)).flags.ov && pswOvt (s.lc lc.val).psw) = true) :
    s.runLocal lc w (fun l => l.intWrite d traps (f l)) = s.enterExc lc w { code := 0x0C } :=
  s.runLocal_exc lc w _ _ h (LCore.intWrite_trap _ d traps _ hov)

/-- An operation that changes no flag retires with its result. -/
theorem State.runSet_ok (f : LCore → Word) :
    Host.Outcome.next (φ := Fault) (ρ := Refusal) (s.runLocal lc w fun l => .ok (l.wg d (f l))) =
      .next (s.retire lc ((s.lc lc.val).wg d (f (s.lc lc.val)))) :=
  congrArg Host.Outcome.next (s.runLocal_ok lc w _ _ h rfl)

end

/-- Settles O14: each operation is `State.runInt_ok` of its result; retirement changes what `State.retired_frame`,
`State.retired_settled` and `State.retired_resv` leave open. -/
theorem addSubtractNegate : Obligations.AddSubtractNegate := by
  unfold Obligations.AddSubtractNegate
  refine ⟨fun s t lc => ⟨s.retired_frame lc t, fun n => ?_, fun q hq => s.retired_outReqs lc t hq⟩,
    fun s lc d a h => ?_⟩
  · exact ⟨_, _, _, LCore.eq_of_settled (s.retired_settled lc t n), s.retired_resv lc t n⟩
  · exact ⟨fun b hov => State.runInt_ok h _ d true (fun l => intAdd (l.rg a) (l.regImm true b) l.flags) hov,
      fun b hov => State.runInt_ok h _ d true (fun l => intSub (l.rg a) (l.rg b) l.flags) hov,
      fun hov => State.runInt_ok h _ d true (fun l => intNeg (l.rg a) l.flags) hov⟩

/-! ### Logic, compares, minimum and maximum, extensions (Tables 4.4 and 5.1) -/

theorem intMinMax_either (op : MinMaxOp) (a b : Word) : intMinMax op a b = a ∨ intMinMax op a b = b := by
  cases op <;> simp only [intMinMax] <;> split <;> simp

theorem intMinMax_min (a b : Word) : (intMinMax .min a b).toInt = min a.toInt b.toInt := by
  simp only [intMinMax, BitVec.slt, decide_eq_true_eq]
  split <;> omega

theorem intMinMax_max (a b : Word) : (intMinMax .max a b).toInt = max a.toInt b.toInt := by
  simp only [intMinMax, BitVec.slt, decide_eq_true_eq]
  split <;> omega

theorem intMinMax_minu (a b : Word) : (intMinMax .minu a b).toNat = min a.toNat b.toNat := by
  simp only [intMinMax, BitVec.ult, decide_eq_true_eq]
  split <;> omega

theorem intMinMax_maxu (a b : Word) : (intMinMax .maxu a b).toNat = max a.toNat b.toNat := by
  simp only [intMinMax, BitVec.ult, decide_eq_true_eq]
  split <;> omega

theorem extendW_unsigned (a : Word) : extendW false a = a &&& 0xFFFFFFFF := by
  have h : a.toNat &&& 0xFFFFFFFF = a.toNat % 2 ^ 32 := Nat.and_two_pow_sub_one_eq_mod a.toNat 32
  refine BitVec.eq_of_toNat_eq ?_
  simp [extendW, h]
  omega

/-- Settles O15: each retires with its result (`State.runInt_ok`, `State.runSet_ok`). -/
theorem logicCompareExtend : Obligations.LogicCompareExtend := by
  unfold Obligations.LogicCompareExtend
  intro s lc d a h l
  refine ⟨fun op b => ⟨(intLogic op (l.rg a) (l.regImm false b) l.flags).r, ?_, ?_⟩,
    fun b => ⟨?_, ?_, ?_, fun op => ⟨intMinMax op (l.rg a) (l.rg b), State.runSet_ok h _ d _, intMinMax_either .., ?_⟩⟩,
    State.runSet_ok h _ d _, ?_, fun imm => State.runSet_ok h _ d _⟩
  · cases op <;> rfl
  · exact State.runInt_ok h _ d false (fun l => intLogic op (l.rg a) (l.regImm false b) l.flags) rfl
  · refine (State.runSet_ok h _ d _).trans ?_
    simp [intCompare, l]
  · refine (State.runSet_ok h _ d _).trans ?_
    simp [intCompare, BitVec.slt, l]
  · refine (State.runSet_ok h _ d _).trans ?_
    simp [intCompare, BitVec.ult, l]
  · cases op with
    | min => exact intMinMax_min ..
    | max => exact intMinMax_max ..
    | minu => exact intMinMax_minu ..
    | maxu => exact intMinMax_maxu ..
  · rw [← extendW_unsigned]
    exact State.runSet_ok h _ d _

end Sys2Proof.Machine

namespace Sys2Proof.Machine

/-! ### Words as signed numbers (R124) -/

theorem signedOver_eq_false (z : Int) : signedOver z = false ↔ -2 ^ 63 ≤ z ∧ z < 2 ^ 63 := by
  simp only [signedOver, Bool.or_eq_false_iff, decide_eq_false_iff_not, not_lt, not_le]
  norm_num

/-- A word's signed value fits a word. -/
theorem signedOver_toInt (x : Word) : signedOver x.toInt = false :=
  (signedOver_eq_false _).2 ⟨x.le_toInt, x.toInt_lt⟩

/-- The word of an integer that fits has it as its signed value. -/
theorem toInt_ofInt_of_fits {z : Int} (h : signedOver z = false) : (BitVec.ofInt 64 z).toInt = z := by
  obtain ⟨hl, hu⟩ := (signedOver_eq_false z).1 h
  exact BitVec.toInt_ofInt_eq_self (by decide) hl hu

/-! ### Shifts by any count (R127) -/

section
variable (x c : Word) (f : FlagBits)

theorem intShl_r : (intShl x c f).r = x <<< c.toNat := by
  simp only [intShl]
  split
  · rfl
  · rw [BitVec.shiftLeft_eq_zero (by omega)]
    rfl

theorem intShr_r : (intShr x c f).r = x >>> c.toNat := by
  simp only [intShr]
  split
  · rfl
  · rw [BitVec.ushiftRight_eq_zero (by omega)]
    rfl

theorem intSar_r : (intSar x c f).r = x.sshiftRight c.toNat := by
  simp only [intSar]
  split
  · rfl
  · ext i hi
    have hw : ¬ c.toNat + i < 64 := by omega
    rw [BitVec.getElem_sshiftRight, dif_neg hw]
    cases x.msb
    · exact BitVec.getElem_zero hi
    · exact BitVec.getElem_allOnes i hi

/-- The signed value of a left shift is the product, modulo the word. -/
theorem toInt_shiftLeft_eq_bmod (n : Nat) : (x <<< n).toInt = (x.toInt * 2 ^ n).bmod (2 ^ 64) := by
  rw [BitVec.toInt_shiftLeft, Nat.shiftLeft_eq, x.toInt_eq_toNat_bmod, Int.bmod_mul_bmod]
  norm_cast

/-- A left shift by less than a word loses nothing exactly when it can be shifted back. -/
theorem sshiftRight_shiftLeft_eq_iff {n : Nat} (hn : n ≤ 63) :
    (x <<< n).sshiftRight n = x ↔ signedOver (x.toInt * 2 ^ n) = false := by
  have hpos : (2 : Int) ^ n ≠ 0 := by positivity
  rw [← BitVec.toInt_inj, BitVec.toInt_sshiftRight, Int.shiftRight_eq_div_pow, Nat.cast_pow, Nat.cast_ofNat]
  constructor
  · intro hback
    have hdvd : (2 : Int) ^ n ∣ (x <<< n).toInt := by
      have hword : (2 : Int) ^ n ∣ (2 ^ 64 : Nat) := by
        rw [Nat.cast_pow]
        exact pow_dvd_pow 2 (by omega)
      rw [toInt_shiftLeft_eq_bmod]
      exact (dvd_sub_right (Dvd.intro_left _ rfl)).1 (hword.trans Int.dvd_self_sub_bmod)
    rw [← hback, Int.ediv_mul_cancel hdvd]
    exact signedOver_toInt _
  · intro hfits
    rw [toInt_shiftLeft_eq_bmod, ← BitVec.toInt_ofInt, toInt_ofInt_of_fits hfits, Int.mul_ediv_cancel _ hpos]

/-- A left shift by a word or more loses everything but 0. -/
theorem signedOver_mul_two_pow {n : Nat} (hn : 64 ≤ n) : signedOver (x.toInt * 2 ^ n) = (x != 0) := by
  have hword : (2 : Int) ^ 64 ≤ 2 ^ n := pow_le_pow_right₀ (by decide) hn
  by_cases hx : x = 0
  · simp [hx, signedOver]
  · have hne : x.toInt ≠ 0 := fun h0 => hx (BitVec.toInt_inj.1 h0)
    rw [bne_iff_ne.2 hx, ← Bool.not_eq_false, signedOver_eq_false]
    rintro ⟨hl, hu⟩
    rcases lt_or_gt_of_ne hne with h0 | h0 <;> nlinarith

/-- SHL sets OV exactly when the product does not fit. -/
theorem intShl_ov : (intShl x c f).flags.ov = signedOver (x.toInt * 2 ^ c.toNat) := by
  simp only [intShl]
  split
  · next hn =>
    cases h : signedOver (x.toInt * 2 ^ c.toNat) with
    | false => simpa using (sshiftRight_shiftLeft_eq_iff x hn).2 h
    | true => simpa [h] using (sshiftRight_shiftLeft_eq_iff x hn).not
  · next hn => rw [signedOver_mul_two_pow x (by omega)]

theorem intShl_flags : (intShl x c f).flags = ⟨(x <<< c.toNat).msb, x <<< c.toNat == 0,
    decide (1 ≤ c.toNat) && decide (c.toNat ≤ 64) && x.getLsbD (64 - c.toNat), signedOver (x.toInt * 2 ^ c.toNat)⟩ := by
  rw [← intShl_ov x c f, ← intShl_r x c f]
  simp only [intShl, nz, FlagBits.mk.injEq, true_and, and_true]
  grind

theorem intShr_flags : (intShr x c f).flags = ⟨(x >>> c.toNat).msb, x >>> c.toNat == 0,
    decide (1 ≤ c.toNat) && decide (c.toNat ≤ 64) && x.getLsbD (c.toNat - 1), f.ov⟩ := by
  rw [← intShr_r x c f]
  simp only [intShr, nz, FlagBits.mk.injEq, true_and, and_true]
  grind

theorem intSar_flags : (intSar x c f).flags = ⟨(x.sshiftRight c.toNat).msb, x.sshiftRight c.toNat == 0,
    decide (1 ≤ c.toNat) && (if c.toNat ≤ 63 then x.getLsbD (c.toNat - 1) else x.msb), f.ov⟩ := by
  rw [← intSar_r x c f]
  simp only [intSar, nz, FlagBits.mk.injEq, true_and, and_true]
  grind

end

/-- Settles O16: a shift retires with its result and flags, which are those of a shift by the whole count (`intShl_r`,
`intShl_flags` and their like). -/
theorem shiftResults : Obligations.ShiftResults := by
  unfold Obligations.ShiftResults
  intro s lc d a b h l x n
  refine ⟨fun hov => ⟨x <<< n, ?_, ?_⟩, ⟨x >>> n, ?_, ?_⟩, ⟨x.sshiftRight n, ?_, ?_⟩⟩
  · rw [BitVec.toNat_shiftLeft, Nat.shiftLeft_eq]
  · refine (State.runInt_ok h _ d true (fun l => intShl (l.rg a) (l.regImm false b) l.flags) ?_).trans ?_
    · rw [intShl_ov]
      exact hov
    · rw [intShl_r, intShl_flags]
  · rw [BitVec.toNat_ushiftRight, Nat.shiftRight_eq_div_pow]
  · refine (State.runInt_ok h _ d false (fun l => intShr (l.rg a) (l.regImm false b) l.flags) rfl).trans ?_
    rw [intShr_r, intShr_flags]
    rfl
  · rw [BitVec.toInt_sshiftRight, Int.shiftRight_eq_div_pow, Nat.cast_pow, Nat.cast_ofNat]
  · refine (State.runInt_ok h _ d false (fun l => intSar (l.rg a) (l.regImm false b) l.flags) rfl).trans ?_
    rw [intSar_r, intSar_flags]
    rfl

/-! ### Rotations (R128) -/

/-- Bit `i` of a left rotation comes to place `i + n`, modulo the word. -/
theorem rotateLeft_getLsbD (x : Word) (n i : Nat) (hi : i < 64) :
    (x.rotateLeft (n % 64)).getLsbD ((i + n) % 64) = x.getLsbD i := by
  rw [BitVec.getLsbD_rotateLeft]
  by_cases h : (i + n) % 64 < n % 64 % 64
  · rw [decide_eq_true h, cond_true]
    congr 1
    omega
  · rw [decide_eq_false h, cond_false, decide_eq_true (Nat.mod_lt _ (by decide)), Bool.true_and]
    congr 1
    omega

theorem rotateRight_getLsbD (x : Word) (n i : Nat) (hi : i < 64) :
    (x.rotateRight (n % 64)).getLsbD i = x.getLsbD ((i + n) % 64) := by
  rw [BitVec.getLsbD_rotateRight]
  by_cases h : i < 64 - n % 64 % 64
  · rw [decide_eq_true h, cond_true]
    congr 1
    omega
  · rw [decide_eq_false h, cond_false, decide_eq_true hi, Bool.true_and]
    congr 1
    omega

/-- Settles O17: a rotation retires with its result, whose bits are those of `rotateLeft_getLsbD` and
`rotateRight_getLsbD`. -/
theorem rotationByAnyCount : Obligations.RotationByAnyCount := by
  unfold Obligations.RotationByAnyCount
  intro s lc d a b h l x n
  refine ⟨⟨x.rotateLeft (n % 64), rotateLeft_getLsbD x n, fun h0 => ?_, ?_⟩,
    ⟨x.rotateRight (n % 64), rotateRight_getLsbD x n, fun h0 => ?_, ?_⟩⟩
  · refine BitVec.eq_of_getLsbD_eq fun i hi => ?_
    have hr := rotateLeft_getLsbD x n i hi
    rwa [show (i + n) % 64 = i by omega] at hr
  · exact State.runInt_ok h _ d false (fun l => intRotate .rol (l.rg a) (l.rg b) l.flags) rfl
  · refine BitVec.eq_of_getLsbD_eq fun i hi => ?_
    rw [rotateRight_getLsbD x n i hi, show (i + n) % 64 = i by omega]
  · exact State.runInt_ok h _ d false (fun l => intRotate .ror (l.rg a) (l.rg b) l.flags) rfl

end Sys2Proof.Machine

namespace Sys2Proof.Machine

/-! ### Products and quotients (R129, R130) -/

section
variable (x y : Word) (f : FlagBits)

theorem intMul_mul_r : (intMul .mul x y f).r = x * y := by
  simp [intMul, BitVec.ofNat_mul]

/-- The upper half of a signed product fits a word. -/
theorem intMul_mulh_toInt : (intMul .mulh x y f).r.toInt = x.toInt * y.toInt / 2 ^ 64 := by
  have hu : x.toInt * y.toInt ≤ 2 ^ 126 := BitVec.toInt_mul_toInt_le
  have hl : -2 ^ 126 ≤ x.toInt * y.toInt := BitVec.le_toInt_mul_toInt
  refine toInt_ofInt_of_fits ((signedOver_eq_false _).2 ?_)
  generalize x.toInt * y.toInt = z at hu hl
  constructor <;> omega

theorem intMul_mulhu_toNat : (intMul .mulhu x y f).r.toNat = x.toNat * y.toNat / 2 ^ 64 := by
  refine (BitVec.toNat_ofNat _ _).trans (Nat.mod_eq_of_lt (Nat.div_lt_of_lt_mul ?_))
  exact Nat.mul_lt_mul'' x.isLt y.isLt

/-- The quotient fits, but for MIN by −1. -/
theorem signedOver_tdiv (h : x ≠ minInt ∨ y ≠ -1) : signedOver (x.toInt.tdiv y.toInt) = false := by
  rw [← BitVec.toInt_sdiv_of_ne_or_ne x y h]
  exact signedOver_toInt _

theorem signedOver_tdiv_minInt : signedOver (minInt.toInt.tdiv (-1 : Word).toInt) = true := by decide

theorem ofInt_tdiv_minInt : BitVec.ofInt 64 (minInt.toInt.tdiv (-1 : Word).toInt) = minInt := by decide

theorem intDiv_divu_toNat : (intDiv .divu x y f).r.toNat = x.toNat / y.toNat :=
  (BitVec.toNat_ofNat _ _).trans (Nat.mod_eq_of_lt ((Nat.div_le_self _ _).trans_lt x.isLt))

theorem intDiv_remu_toNat : (intDiv .remu x y f).r.toNat = x.toNat % y.toNat :=
  (BitVec.toNat_ofNat _ _).trans (Nat.mod_eq_of_lt ((Nat.mod_le _ _).trans_lt x.isLt))

theorem intDiv_rem_toInt : (intDiv .rem x y f).r.toInt = x.toInt.tmod y.toInt := by
  refine toInt_ofInt_of_fits ?_
  rw [← BitVec.toInt_srem]
  exact signedOver_toInt _

/-! ### One step of a division (R132) -/

/-- A doubleword by its halves. -/
theorem bits_halves {hi lo : Nat} (hhi : hi < 2 ^ 32) (hlo : lo < 2 ^ 32) :
    bits (BitVec.ofNat 64 (hi * 2 ^ 32 + lo)) 63 32 = hi ∧ bits (BitVec.ofNat 64 (hi * 2 ^ 32 + lo)) 31 0 = lo := by
  simp only [bits, BitVec.toNat_ofNat]
  omega

/-- The remainder and the shifted quotient of a step. -/
theorem intDivstep_bits :
    let t := 4 * bits x 63 32 + bits x 31 30
    let q := min 3 (t / bits y 31 0)
    bits (intDivstep x y f).r 63 32 = (t - q * bits y 31 0) % 2 ^ 32 ∧
      bits (intDivstep x y f).r 31 0 = (4 * bits x 31 0 + q) % 2 ^ 32 := by
  have htop : bits x 31 0 / 2 ^ 30 = bits x 31 30 := by
    simp only [bits]
    omega
  intro t q
  obtain ⟨hhi, hlo⟩ := bits_halves (Nat.mod_lt (t - q * bits y 31 0) (by decide : 2 ^ 32 > 0))
    (Nat.mod_lt (bits x 31 0 * 4 % 2 ^ 32 + q) (by decide : 2 ^ 32 > 0))
  simp only [intDivstep, htop]
  exact ⟨hhi, hlo.trans (by omega)⟩

end

section
variable {s : State} {lc : Lc} (h : s.clear lc = true) (d a b : Reg)
include h

/-- A division by another number than 0 is the operation on integers. -/
theorem exec_div_ok (op : DivOp) (hb : (s.lc lc.val).rg b ≠ 0)
    (hov : (divOverflows op && (intDiv op ((s.lc lc.val).rg a) ((s.lc lc.val).rg b) (s.lc lc.val).flags).flags.ov &&
      pswOvt (s.lc lc.val).psw) = false) :
    let x := intDiv op ((s.lc lc.val).rg a) ((s.lc lc.val).rg b) (s.lc lc.val).flags
    exec (.div lc op d a b) s = .next (s.retire lc (((s.lc lc.val).wg d x.r).setFlags x.flags)) := by
  refine congrArg Host.Outcome.next (s.runLocal_ok lc _ _ _ h ?_)
  rw [check, if_pos (bne_iff_ne.2 hb)]
  exact LCore.intWrite_ok _ d _ _ hov

theorem exec_divstep_ok (hb : bits ((s.lc lc.val).rg b) 31 0 ≠ 0)
    (hov : (decide (bits ((s.lc lc.val).rg b) 31 0 ≤ bits ((s.lc lc.val).rg a) 63 32) && pswOvt (s.lc lc.val).psw) = false) :
    let x := intDivstep ((s.lc lc.val).rg a) ((s.lc lc.val).rg b) (s.lc lc.val).flags
    exec (.divstep lc d a b) s = .next (s.retire lc (((s.lc lc.val).wg d x.r).setFlags x.flags)) := by
  refine congrArg Host.Outcome.next (s.runLocal_ok lc _ _ _ h ?_)
  rw [check, if_pos (bne_iff_ne.2 hb)]
  exact LCore.intWrite_ok _ d true _ hov

end

/-- Settles O18: each operation retires with its result (`State.runInt_ok`, `exec_div_ok`, `exec_divstep_ok`), whose value as
an integer is said above. -/
theorem multiplyAndDivide : Obligations.MultiplyAndDivide := by
  unfold Obligations.MultiplyAndDivide
  intro s lc d a b h l x y put
  refine ⟨fun hov => ?_, ⟨_, intMul_mulh_toInt x y l.flags, ?_⟩, ⟨_, intMul_mulhu_toNat x y l.flags, ?_⟩,
    fun hy => ⟨fun hne => ⟨_, toInt_ofInt_of_fits (signedOver_tdiv x y hne), ?_⟩, fun hx hy1 hovt => ?_,
      ⟨_, intDiv_rem_toInt x y l.flags, ?_⟩, ⟨_, intDiv_divu_toNat x y l.flags, ?_⟩,
      ⟨_, intDiv_remu_toNat x y l.flags, ?_⟩⟩,
    fun hy hov => ⟨(intDivstep x y l.flags).r, _, rfl, ?_, ?_, ?_⟩⟩
  · refine (State.runInt_ok h _ d true (fun l => intMul .mul (l.rg a) (l.rg b) l.flags) hov).trans ?_
    rw [← intMul_mul_r x y l.flags]
    rfl
  · exact State.runInt_ok h _ d false (fun l => intMul .mulh (l.rg a) (l.rg b) l.flags) rfl
  · exact State.runInt_ok h _ d false (fun l => intMul .mulhu (l.rg a) (l.rg b) l.flags) rfl
  · have hov : (intDiv .div x y l.flags).flags.ov = false := signedOver_tdiv x y hne
    refine (exec_div_ok h d a b .div hy (by rw [hov, Bool.and_false, Bool.false_and])).trans ?_
    exact congrArg (put (intDiv .div x y l.flags).r false) hov
  · have hr : (intDiv .div x y l.flags).r = minInt := by
      rw [hx, hy1]
      exact ofInt_tdiv_minInt
    have hov : (intDiv .div x y l.flags).flags.ov = true := by
      rw [hx, hy1]
      exact signedOver_tdiv_minInt
    refine (exec_div_ok h d a b .div hy (by rw [hovt, Bool.and_false])).trans ?_
    exact congrArg₂ (fun r ov => put r false ov) hr hov
  · exact exec_div_ok h d a b .rem hy rfl
  · exact exec_div_ok h d a b .divu hy rfl
  · exact exec_div_ok h d a b .remu hy rfl
  · exact (intDivstep_bits x y l.flags).1
  · exact (intDivstep_bits x y l.flags).2
  · exact exec_divstep_ok h d a b hy hov

end Sys2Proof.Machine

namespace Sys2Proof.Machine

/-! ### OVERFLOW and DIVIDE_CHECK (R112, R114, R126, R131) -/

theorem LCore.Entered.rg {k l : LCore} {b : Bank} {epc cause info addr : Word} (h : k.Entered l b epc cause info addr)
    (r : Reg) : k.rg r = l.rg r := congrArg (fun g => g.get r) h.g

/-- An entry leaves the four flags as they stood. -/
theorem LCore.Entered.flags {k l : LCore} {b : Bank} {epc cause info addr : Word}
    (h : k.Entered l b epc cause info addr) : bits k.psw 19 16 = bits l.psw 19 16 := by
  refine Nat.eq_of_testBit_eq fun i => ?_
  rw [bits_testBit, bits_testBit, h.psw]
  by_cases hi : i < 4
  · rw [entryPsw_getLsbD b l.psw (16 + i) (by omega) (by omega) (.inl (by omega))]
  · simp [hi]

/-- An exception at the core's own level enters its handler, where no guest leaves for H (R112, R115). -/
theorem State.enterExc_own (s : State) (lc : Lc) (w : BitVec 32) (e : Exc) (he : e.code ∉ [0x0A, 0x0E, 0x10, 0x11])
    (hg : (s.lc lc.val).level ≤ 1 ∨ (s.lc lc.val).gv = false) :
    ((s.enterExc lc w e).lc lc.val).Entered (s.lc lc.val) (if (s.lc lc.val).level = 2 then .h else .s)
      (if e.after then (s.lc lc.val).pc + 4 else (s.lc lc.val).pc) (causeWord e) (infoWord e w)
      (BitVec.ofNat 64 e.addr) := by
  rw [← (s.lc lc.val).handler_own e.code he]
  have hout : ((s.lc lc.val).handler e.code = .h && (s.lc lc.val).gv) = false := by
    rcases hg with hl | hg
    · simp [(s.lc lc.val).handler_low e.code he (by omega)]
    · simp [hg]
  refine LCore.StopsFrom.entered ?_
  simp only [State.enterExc, State.enterAt, hout, Bool.false_eq_true, if_false]
  exact s.afterEntry_setLc lc _

section
variable {s : State} {lc : Lc} (h : s.clear lc = true) (d a b : Reg)
include h

/-- A division by 0 (R131). -/
theorem exec_div_zero (op : DivOp) (hb : (s.lc lc.val).rg b = 0) :
    ∃ w, exec (.div lc op d a b) s = .next (s.enterExc lc w { code := 0x0B }) := by
  refine ⟨_, congrArg Host.Outcome.next (s.runLocal_exc lc _ _ _ h ?_)⟩
  rw [check, if_neg (by simp [hb])]
  rfl

theorem exec_divstep_zero (hb : bits ((s.lc lc.val).rg b) 31 0 = 0) :
    ∃ w, exec (.divstep lc d a b) s = .next (s.enterExc lc w { code := 0x0B }) := by
  refine ⟨_, congrArg Host.Outcome.next (s.runLocal_exc lc _ _ _ h ?_)⟩
  rw [check, if_neg (by simp [hb])]
  rfl

section
variable (hovt : pswOvt (s.lc lc.val).psw = true)
include hovt

/-- With OVT set an operation of R126 that would set OV enters the handler of OVERFLOW. -/
theorem exec_overflow (w : BitVec 32) (f : LCore → IntRes) (hov : (f (s.lc lc.val)).flags.ov = true) :
    ∃ w', Host.Outcome.next (φ := Fault) (ρ := Refusal) (s.runLocal lc w fun l => l.intWrite d true (f l)) =
      .next (s.enterExc lc w' { code := 0x0C }) :=
  ⟨w, congrArg Host.Outcome.next (State.runInt_trap h w d true f (by simp [hov, hovt]))⟩

theorem exec_div_overflow (ha : (s.lc lc.val).rg a = minInt) (hb : (s.lc lc.val).rg b = -1) :
    ∃ w, exec (.div lc .div d a b) s = .next (s.enterExc lc w { code := 0x0C }) := by
  refine ⟨_, congrArg Host.Outcome.next (s.runLocal_exc lc _ _ _ h ?_)⟩
  have hov : (intDiv .div ((s.lc lc.val).rg a) ((s.lc lc.val).rg b) (s.lc lc.val).flags).flags.ov = true := by
    rw [ha, hb]
    exact signedOver_tdiv_minInt
  rw [check, if_pos (by rw [hb]; rfl)]
  exact LCore.intWrite_trap _ d _ _ (by rw [hov, hovt]; rfl)

theorem exec_divstep_overflow (hb : bits ((s.lc lc.val).rg b) 31 0 ≠ 0)
    (hov : bits ((s.lc lc.val).rg b) 31 0 ≤ bits ((s.lc lc.val).rg a) 63 32) :
    ∃ w, exec (.divstep lc d a b) s = .next (s.enterExc lc w { code := 0x0C }) := by
  refine ⟨_, congrArg Host.Outcome.next (s.runLocal_exc lc _ _ _ h ?_)⟩
  rw [check, if_pos (bne_iff_ne.2 hb)]
  exact LCore.intWrite_trap _ d _ _ (by simp [intDivstep, hov, hovt])

end

end

/-- Settles O19: each of the five ends in DIVIDE_CHECK, whose entry (`State.enterExc_own`) leaves registers and flags. -/
theorem zeroDivisorRaises : Obligations.ZeroDivisorRaises := by
  unfold Obligations.ZeroDivisorRaises
  intro s lc d a b h l c hc hg
  obtain ⟨w, hw⟩ : ∃ w, exec c s = .next (s.enterExc lc w { code := 0x0B }) := by
    obtain ⟨hb, op, rfl⟩ | ⟨hb, rfl⟩ := hc
    · exact exec_div_zero h d a b op hb
    · exact exec_divstep_zero h d a b hb
  have k := s.enterExc_own lc w { code := 0x0B } (by decide) hg
  refine ⟨_, hw, k.rg, k.flags, ?_⟩
  rw [k.bank]
  exact ⟨rfl, rfl, rfl, rfl, k.pc⟩

/-- Settles O20: each of the seven ends in OVERFLOW, whose entry (`State.enterExc_own`) leaves registers and flags. -/
theorem overflowTraps : Obligations.OverflowTraps := by
  unfold Obligations.OverflowTraps
  intro s lc d a b h l hovt hg c hc
  obtain ⟨w, hw⟩ : ∃ w, exec c s = .next (s.enterExc lc w { code := 0x0C }) := by
    obtain ⟨x, rfl, hov⟩ | ⟨rfl, hov⟩ | ⟨x, rfl, hov⟩ | ⟨rfl, hb, hov⟩ | ⟨rfl, hov⟩ | ⟨rfl, hov⟩ | ⟨rfl, ha, hb⟩ :=
      hc
    · exact exec_overflow h d hovt _ (fun l => intAdd (l.rg a) (l.regImm true x) l.flags) hov
    · exact exec_overflow h d hovt _ (fun l => intNeg (l.rg a) l.flags) hov
    · exact exec_overflow h d hovt _ (fun l => intShl (l.rg a) (l.regImm false x) l.flags) ((intShl_ov ..).trans hov)
    · exact exec_divstep_overflow h d a b hovt hb hov
    · exact exec_overflow h d hovt _ (fun l => intSub (l.rg a) (l.rg b) l.flags) hov
    · exact exec_overflow h d hovt _ (fun l => intMul .mul (l.rg a) (l.rg b) l.flags) hov
    · exact exec_div_overflow h d a b hovt ha hb
  have k := s.enterExc_own lc w { code := 0x0C } (by decide) hg
  refine ⟨_, hw, k.rg, k.flags, ?_⟩
  rw [k.bank]
  exact ⟨rfl, rfl, rfl, k.pc⟩

end Sys2Proof.Machine

/-! PROOF. Atomics and reservations (O33).  A near atomic, LDRES and STCND are one access to a line that the slot owns; a far
atomic is performed by its home slice.  Nothing that a home slice does strikes a core, so the far atomic retires. -/

namespace Sys2Proof.Machine

/-! ### What leaves the islands alone

Operations of home slices and caches change no replica of a core. -/

@[simp] theorem State.ite_isls {P : Prop} [Decidable P] (s t : State) :
    (if P then s else t).isls = if P then s.isls else t.isls := apply_ite State.isls P s t

@[simp] theorem State.report_isls (s : State) (a b c d : Nat) : (s.report a b c d).isls = s.isls := by
  rw [State.report_srcBufs]

@[simp] theorem State.setMemLine_isls (s : State) (l : LineNo) (d : Line) (p : Bool) :
    (s.setMemLine l d p).isls = s.isls := rfl

@[simp] theorem State.dramApply_isls (s : State) (e : WqEntry) : (s.dramApply e).isls = s.isls := by
  simp [State.dramApply]

@[simp] theorem State.mcAccept_isls (s : State) (t off : Nat) (e : WqEntry) : (s.mcAccept t off e).isls = s.isls := by
  simp [State.mcAccept]

@[simp] theorem State.brLog_isls (s : State) (l : LineNo) (cause holder : Nat) :
    (s.brLog l cause holder).isls = s.isls := by
  unfold State.brLog
  split <;> simp

@[simp] theorem State.cxlDrop_isls (s : State) (p : Port) (l : LineNo) : (s.cxlDrop p l).isls = s.isls := by
  simp [State.cxlDrop]

@[simp] theorem State.homeWrite_isls (s : State) (l : LineNo) (mask : BitVec 128) (d : Line) (poison : Bool) :
    (s.homeWrite l mask d poison).isls = s.isls := by
  unfold State.homeWrite
  split <;> simp

@[simp] theorem State.caClear_isls (s : State) (l : LineNo) : (s.caClear l).isls = s.isls := by
  unfold State.caClear
  split <;> simp

@[simp] theorem State.markBreach_isls (s : State) (l : LineNo) : (s.markBreach l).isls = s.isls := by
  unfold State.markBreach
  split <;> simp [State.setPoison]

@[simp] theorem State.victimAccept_isls (s : State) (h : Nat) : (s.victimAccept h).isls = s.isls := by
  unfold State.victimAccept
  split <;> simp

@[simp] theorem State.victimsFor_isls (s : State) (h : Nat) (l : LineNo) (n : Nat) :
    (s.victimsFor h l n).isls = s.isls := by
  induction n generalizing s with
  | zero => rfl
  | succ n ih => simp [State.victimsFor, ih]

@[simp] theorem State.victimSettle_isls (s : State) (l : LineNo) : (s.victimSettle l).isls = s.isls := by
  unfold State.victimSettle
  split <;> simp

@[simp] theorem State.waitFill_isls (s : State) (l : LineNo) : (s.waitFill l).isls = s.isls := by
  unfold State.waitFill
  split <;> simp

@[simp] theorem State.basinFill_isls (s : State) (l : LineNo) (d : Line) (dirty poison : Bool) (mask age hit : Nat) :
    (s.basinFill l d dirty poison mask age hit).isls = s.isls := by
  unfold State.basinFill
  split
  · rfl
  · dsimp only
    split
    · simp
    · split
      · simp
      · split <;> simp

@[simp] theorem State.basinDrop_isls (s : State) (l : LineNo) : (s.basinDrop l).isls = s.isls := by
  unfold State.basinDrop
  split <;> simp

@[simp] theorem State.basinTouch_isls (s : State) (l : LineNo) : (s.basinTouch l).isls = s.isls := by
  unfold State.basinTouch
  split <;> simp

@[simp] theorem State.breachLine_isls (s : State) (l : LineNo) (cause holder : Nat) :
    (s.breachLine l cause holder).isls = s.isls := by
  unfold State.breachLine
  dsimp only
  split <;> simp

@[simp] theorem State.basinRead_isls (s : State) (l : LineNo) (ev : BasinEvent) : (s.basinRead l ev).isls = s.isls := by
  unfold State.basinRead
  split
  · rfl
  · split
    · cases ev <;> simp
    · split <;> simp [State.setPoison]
    · rfl

@[simp] theorem State.basinMeet_isls (s : State) (l : LineNo) : (s.basinMeet l).isls = s.isls := by
  unfold State.basinMeet
  split
  · rfl
  · split <;> simp

@[simp] theorem State.sfTouch_isls (s : State) (l : LineNo) : (s.sfTouch l).isls = s.isls := by
  unfold State.sfTouch
  split <;> simp

@[simp] theorem State.sfMod_isls (s : State) (h : Nat) (l : LineNo) (f : SfEntry → SfEntry) :
    (s.sfMod h l f).isls = s.isls := by
  unfold State.sfMod
  split <;> simp [State.sfPut]

@[simp] theorem State.sfEnd_isls (s : State) (l : LineNo) (held : List Slot) : (s.sfEnd l held).isls = s.isls := by
  unfold State.sfEnd
  split <;> simp

@[simp] theorem State.maintTouch_isls (s : State) (l : LineNo) : (s.maintTouch l).isls = s.isls := by
  unfold State.maintTouch
  split <;> simp

@[simp] theorem State.writeback_isls (s : State) (sl : Slot) (l : LineNo) : (s.writeback sl l).isls = s.isls := by
  unfold State.writeback
  split <;> simp [State.modTxn]

@[simp] theorem State.homeArrive_isls (s : State) (l : LineNo) : (s.homeArrive l).isls = s.isls := by
  rw [State.homeArrive, State.victimSettle_isls]
  exact State.foldl_keeps State.isls (fun s x => s.writeback_isls x l) _ s

@[simp] theorem State.unstarve_isls (s : State) (h : Nat) (l : LineNo) (r : Requester) :
    (s.unstarve h l r).isls = s.isls := rfl

@[simp] theorem State.dropReq_isls (s : State) (r : Requester) (l : LineNo) : (s.dropReq r l).isls = s.isls := rfl

@[simp] theorem State.endHold_isls (s : State) (sl : Slot) : (s.endHold sl).isls = s.isls := by
  unfold State.endHold
  split <;> simp

@[simp] theorem State.slotInvalidate_isls (s : State) (sl : Nat) (l : LineNo) : (s.slotInvalidate sl l).isls = s.isls := by
  unfold State.slotInvalidate
  dsimp only
  split
  · simp
  · split <;> simp

@[simp] theorem State.invalidateAll_isls (s : State) (l : LineNo) (except : Option Slot) :
    (s.invalidateAll l except).isls = s.isls :=
  State.foldl_keeps State.isls (fun s _ => s.slotInvalidate_isls _ l) _ s

@[simp] theorem State.clearResvs_isls (s : State) (l : LineNo) (except : Option Lc) :
    (s.clearResvs l except).isls = s.isls := rfl

@[simp] theorem State.snoopWrite_isls (s : State) (l : LineNo) (d : Line) (poison : Bool) :
    (s.snoopWrite l d poison).isls = s.isls := by
  unfold State.snoopWrite
  dsimp only
  split <;> simp

@[simp] theorem State.snoop_isls (s : State) (sl : Slot) (l : LineNo) (k : Snoop) (starving : Bool) :
    (s.snoop sl l k starving).1.isls = s.isls := by
  unfold State.snoop
  dsimp only
  split
  · rfl
  · split
    · rfl
    · split
      · rfl
      · cases k <;> dsimp only
        case peek | probe => simp
        all_goals split <;> simp

theorem State.foldl_snoop_isls (s : State) (l : LineNo) (xs : List Slot) :
    (xs.foldl (fun s x => ((s.endHold x).snoop x l .inv true).1) s).isls = s.isls :=
  State.foldl_keeps State.isls (fun s x => by simp) xs s

@[simp] theorem State.sfMake_isls (s : State) (h : Slice) (l : LineNo) : (s.sfMake h l).isls = s.isls := by
  unfold State.sfMake
  split
  · simp
  · split
    · rfl
    · dsimp only
      split <;> simp [State.sfAge, State.sfInsert, State.foldl_snoop_isls]

@[simp] theorem State.invWriteLine_isls (s : State) (m : Master) (l : LineNo) (o : Nat) (bs : List Byte) :
    (s.invWriteLine m l o bs).isls = s.isls := by
  unfold State.invWriteLine
  lift_lets
  intro s0 dirtyHolder fresh inBasin s1 mask d
  have h1 : s1.isls = s.isls := by simp [s1, s0]
  clear_value s1 inBasin dirtyHolder
  split
  · split
    · exact h1
    · split
      · simp [h1]
      · split <;> simp [h1]
  · dsimp only
    split
    · simp [h1]
    · split <;> simp [h1]

end Sys2Proof.Machine

namespace Sys2Proof.Machine

/-! ### Cores under what a home slice does -/

section
variable (s : State) (n : Nat)

@[simp] theorem State.victimSettle_lc (l : LineNo) : (s.victimSettle l).lc n = s.lc n :=
  (Kept.victimSettle (s.kept_frame offCores) rfl rfl).lc_eq n
@[simp] theorem State.homeWrite_lc (l : LineNo) (mask : BitVec 128) (d : Line) (poison : Bool) :
    (s.homeWrite l mask d poison).lc n = s.lc n :=
  (Kept.homeWrite (s.kept_frame offCores) rfl rfl).lc_eq n
@[simp] theorem State.basinFill_lc (l : LineNo) (d : Line) (dirty poison : Bool) (mask age hit : Nat) :
    (s.basinFill l d dirty poison mask age hit).lc n = s.lc n :=
  (Kept.basinFill (s.kept_frame offCores) rfl rfl).lc_eq n
@[simp] theorem State.basinDrop_lc (l : LineNo) : (s.basinDrop l).lc n = s.lc n :=
  (Kept.basinDrop (s.kept_frame offCores)).lc_eq n
@[simp] theorem State.basinRead_lc (l : LineNo) (ev : BasinEvent) : (s.basinRead l ev).lc n = s.lc n :=
  (Kept.basinRead (s.kept_frame offCores)).lc_eq n
@[simp] theorem State.basinMeet_lc (l : LineNo) : (s.basinMeet l).lc n = s.lc n :=
  (Kept.basinMeet (s.kept_frame offCores)).lc_eq n
@[simp] theorem State.sfEnd_lc (l : LineNo) (held : List Slot) : (s.sfEnd l held).lc n = s.lc n :=
  (Kept.sfEnd (s.kept_frame offCores)).lc_eq n

/-- A change of every record of a table that a follower does not see. -/
theorem Table.get_map_follow {V β : Type} (φ : V → β) (d : V) (g : Nat × V → Nat × V) (hk : ∀ e, (g e).1 = e.1)
    (hφ : ∀ e, φ (g e).2 = φ e.2) (t : Table V) (k : Nat) :
    φ (Table.get d (List.map g t) k) = φ (Table.get d t k) := by
  induction t with
  | nil => rfl
  | cons e t ih =>
    rw [List.map_cons, Table.get_cons, Table.get_cons, hk]
    split
    · exact hφ e
    · exact ih

@[simp] theorem State.clearResvs_steady (l : LineNo) (except : Option Lc) :
    ((s.clearResvs l except).lc n).steady = (s.lc n).steady := by
  refine Table.get_map_follow LCore.steady LCore.init _ (fun e => ?_) (fun e => ?_) s.lcs n
  · split <;> rfl
  · split <;> rfl

@[simp] theorem State.invalidateAll_steady (l : LineNo) (except : Option Slot) :
    ((s.invalidateAll l except).lc n).steady = (s.lc n).steady :=
  State.foldl_keeps (fun s => (s.lc n).steady) (fun s _ => s.slotInvalidate_steady n _ l) _ s

/-- A write of a line at its home slice changes a core as the caches do. -/
@[simp] theorem State.invWriteLine_steady (m : Master) (l : LineNo) (o : Nat) (bs : List Byte) :
    ((s.invWriteLine m l o bs).lc n).steady = (s.lc n).steady := by
  unfold State.invWriteLine
  lift_lets
  intro s0 dirtyHolder fresh inBasin s1 mask d
  have h1 : (s1.lc n).steady = (s.lc n).steady := by simp [s1, s0]
  clear_value s1 inBasin dirtyHolder
  split
  · split
    · exact h1
    · split
      · simp [h1]
      · split <;> simp [h1]
  · dsimp only
    split
    · simp [h1]
    · split <;> simp [h1]

end

/-- Whether something strikes a core of its slot is a matter of the islands and of where the core is (R210). -/
theorem State.struck_congr {s t : State} {lc : Lc} (hi : t.isls = s.isls)
    (hhost : (t.lc lc.val).host = (s.lc lc.val).host) : t.struck lc = s.struck lc := by
  have hisl : t.isl = s.isl := congrArg (Table.get Isl.init) hi
  unfold State.struck
  rw [hhost, hisl]

theorem LCore.host_of_steady {k l : LCore} (h : k.steady = l.steady) : k.host = l.host := (congrArg LCore.host h :)

/-! ### Atomics of a core (Table 5.5, R291, R292) -/

/-- The word that 8 B of a line hold. -/
def lineWord (v : Line) (o : Nat) : Word := BitVec.ofNat 64 (leNat ((List.range 8).map fun i => lineByte v (o + i)))

/-- What an atomic of core `lc` at `pa` asks of its home slice. -/
def LCore.farReq (l : LCore) (op : AtomicOp) (d a b c : Reg) (pa : Nat) : FarReq :=
  { op := op, d := d, addr := pa, operand := l.rg b, compare := l.rg c, word := encAtomic op d a b c
    uncached := false, nacked := false }

theorem Res.ok_bind {α β : Type} (a : α) (f : α → Res β) : (Res.ok a).bind f = f a := rfl

/-- A line on which no error waits is met as it is. -/
theorem State.meetLine_ok {s : State} {sl : Slot} {l : LineNo} (h : s.cacheErr sl l = false) : s.meetLine sl l = .ok s := by
  simp [State.meetLine, h]

/-- A near atomic on a line that the slot owns and holds without poison. -/
theorem State.nearAtomic_ok {s : State} {lc : Lc} {sl : Slot} {f : FarReq} {v : Line}
    (herr : s.cacheErr sl (lineOfAddr f.addr) = false) (hown : s.canOwn sl (lineOfAddr f.addr) = true)
    (hdata : ((s.ownLine sl (lineOfAddr f.addr)).holder sl.val).dataOf (lineOfAddr f.addr) = some (v, false)) :
    s.nearAtomic lc sl f = .ok
      (((s.ownLine sl (lineOfAddr f.addr)).modHolder sl.val fun h =>
        (h.write (lineOfAddr f.addr) (f.addr % 128)
          (leBytes 8 (atomicNew f.op (lineWord v (f.addr % 128)) f.operand f.compare).toNat)).use
            (lineOfAddr f.addr) false).modLc lc.val fun y => ((if (s.holder sl.val).stateOf (lineOfAddr f.addr) = some .m then
          y.predict (lineOfAddr f.addr) false else y).wg f.d (lineWord v (f.addr % 128))).next, true) := by
  unfold State.nearAtomic
  simp only [State.meetLine_ok herr, Res.bind, hown, Bool.not_true, Bool.false_eq_true, if_false, hdata, Option.getD_some,
    decide_eq_true_eq]
  rfl

section
variable {s s1 : State} {lc : Lc} {op : AtomicOp} {d a b c : Reg} {pa t o : Nat} {l' : LCore} {sl : Slot}
  (haddr : s.dataAddr lc (s.lc lc.val) ((s.lc lc.val).rs a) ((s.lc lc.val).rg a) 8 needRW = .ok (pa, false, l'))
  (hplace : s.place pa = .dram t o) (hreach : s.memReachable pa = true) (hhost : (s.lc lc.val).host = some sl)
  (hsync : (s.setLc lc.val l').synced lc = .ok s1)
include haddr hplace hreach hhost hsync

/-- An atomic whose checks pass on a cached line is near or far as the contention predictor says (R292). -/
theorem State.atomicEffect_cached :
    s.atomicEffect lc op d a b c (s.lc lc.val) =
      Res.tag (if 2 ≤ (Table.get 0 (s.lc lc.val).contention (predIndex (lineOfAddr pa))).toNat then
          .ok (s1.sendFar lc sl ((s.lc lc.val).farReq op d a b c pa), false)
        else s1.nearAtomic lc sl ((s.lc lc.val).farReq op d a b c pa)) 4 := by
  unfold State.atomicEffect
  rw [haddr, Res.ok_bind, hhost]
  dsimp only
  rw [State.place_setLc, hplace]
  dsimp only
  rw [State.memReachable_setLc, hreach, hsync, Res.ok_bind]
  simp only [Bool.not_true, Bool.false_eq_true, if_false, LCore.goesFar, Bool.false_or, decide_eq_true_eq]
  rfl

variable (h : s.clear lc = true)
include h

/-- A contended atomic sends its FAR_ATOMIC, and the core waits. -/
theorem State.atomic_far (hpred : 2 ≤ (Table.get 0 (s.lc lc.val).contention (predIndex (lineOfAddr pa))).toNat) :
    s.atomic lc op d a b c = (s1.sendFar lc sl ((s.lc lc.val).farReq op d a b c pa)).askWalks lc := by
  have he := State.atomicEffect_cached (op := op) (d := d) (b := b) (c := c) haddr hplace hreach hhost hsync
  rw [if_pos hpred] at he
  simp only [State.atomic, State.runMem, s.ready_of_clear lc h, if_true, he, Res.tag]

/-- An uncontended atomic on a line at hand retires with its effect. -/
theorem State.atomic_near {v : Line}
    (hpred : (Table.get 0 (s.lc lc.val).contention (predIndex (lineOfAddr pa))).toNat < 2)
    (herr : s1.cacheErr sl (lineOfAddr pa) = false) (hown : s1.canOwn sl (lineOfAddr pa) = true)
    (hdata : ((s1.ownLine sl (lineOfAddr pa)).holder sl.val).dataOf (lineOfAddr pa) = some (v, false)) :
    s.atomic lc op d a b c = s.retired lc (((s1.ownLine sl (lineOfAddr pa)).modHolder sl.val fun h =>
        (h.write (lineOfAddr pa) (pa % 128) (leBytes 8 (atomicNew op (lineWord v (pa % 128)) ((s.lc lc.val).rg b)
          ((s.lc lc.val).rg c)).toNat)).use (lineOfAddr pa) false).modLc
        lc.val fun y => ((if (s1.holder sl.val).stateOf (lineOfAddr pa) = some .m then
          y.predict (lineOfAddr pa) false else y).wg d (lineWord v (pa % 128))).next) := by
  have he := State.atomicEffect_cached (op := op) (d := d) (b := b) (c := c) haddr hplace hreach hhost hsync
  rw [if_neg (Nat.not_le.2 hpred), State.nearAtomic_ok herr hown hdata] at he
  exact s.runMem_ok lc _ _ _ h he

end

end Sys2Proof.Machine

namespace Sys2Proof.Machine

/-! ### A far atomic at its home slice (R282 to R285, R293) -/

/-- What a core that has received a result and goes on has, whether or not it counts the instruction (R161). -/
theorem LCore.wg_next_counted (c : LCore) (d : Reg) (m : Word) :
    let c2 := (c.wg d m).next
    (if c2.fpPend then c2.countFp else c2).far = c.far ∧ (if c2.fpPend then c2.countFp else c2).rg d = m := by
  have hrg : (c.wg d m).rg d = m := (c.wg_rg d d m).trans (if_pos rfl)
  dsimp only
  split <;> exact ⟨rfl, hrg⟩

/-- A far atomic of a line without poison, on a core that nothing strikes, retires with the old value in its register. -/
theorem State.farPerform_clean (s : State) (lc : Lc) (h : Slice) (sl : Slot) (f : FarReq) (v : Line)
    (hv : (((s.homeArrive (lineOfAddr f.addr)).sfMake h (lineOfAddr f.addr)).maintTouch (lineOfAddr f.addr)).freshest
      (lineOfAddr f.addr) = (v, false)) (hstruck : s.struck lc = false) :
    ∃ (u : State) (k : LCore → LCore), s.farPerform lc h sl f = u.retired lc (u.modLc lc.val k) ∧
      (u.lc lc.val).far = none ∧ ∀ c, (k c).far = c.far ∧ (k c).rg f.d = lineWord v (f.addr % 128) := by
  unfold State.farPerform
  extract_lets line o named s0 v' held s1 done m bs s2 sole fin s3
  have hv' : v' = (v, false) := hv
  have hdone (t : State) : (done t).isls = t.isls ∧ ((done t).lc lc.val).host = (t.lc lc.val).host ∧
      ((done t).lc lc.val).far = none := by
    refine ⟨by simp [done], ?_, by simp [done]⟩
    simp only [done, State.modLc_eq, State.setLc_lc]
    exact LCore.host_of_steady (by simp)
  rw [hv', if_neg Bool.false_ne_true]
  have hs1 : s1.isls = s.isls ∧ (s1.lc lc.val).host = (s.lc lc.val).host :=
    ⟨(s0.foldl_snoop_isls line held).trans (by simp [s0]),
      LCore.host_of_steady ((s0.foldl_snoop_steady lc.val line held).trans (by simp [s0]))⟩
  have hs2 : s2.isls = s1.isls ∧ (s2.lc lc.val).host = (s1.lc lc.val).host := by
    simp only [s2]
    split
    · exact ⟨by simp, LCore.host_of_steady (by simp)⟩
    · exact ⟨by simp, LCore.host_of_steady (by simp)⟩
  obtain ⟨hisls, hhost, hfar⟩ := hdone s2
  have hs3 : s3.struck lc = false :=
    (State.struck_congr (hisls.trans (hs2.1.trans hs1.1)) (hhost.trans (hs2.2.trans hs1.2))).trans hstruck
  rw [State.voted_unstruck _ _ _ _ hs3]
  refine ⟨s3, _, rfl, hfar, fun c => ?_⟩
  have hm : m = lineWord v (f.addr % 128) := by
    simp only [m, hv']
    rfl
  obtain ⟨hkfar, hkrg⟩ := (if sole then c.predict line false else c).wg_next_counted f.d m
  refine ⟨hkfar.trans ?_, hkrg.trans hm⟩
  split <;> rfl

section
variable {s : State} {lc : Lc} {f : FarReq} {sl : Slot} {h : Slice} (ev : BasinEvent)
  (hfar : (s.lc lc.val).far = some f) (hhost : (s.lc lc.val).host = some sl)
  (hnack : ((s.outReq (.slot sl) (lineOfAddr f.addr)).any fun o => o.nacked) = false)
include hfar hhost hnack

/-- A request that leaves its group without a vote, to a line on which no error waits, is the home slice's. -/
theorem exec_farAtomic_arrives (hout : s.outStruck sl = false)
    (herr : ∀ x ∈ s.slotsWith (lineOfAddr f.addr), s.cacheErr x (lineOfAddr f.addr) = false) :
    exec (.farAtomic lc ev) s = .next (s.farAtomic lc ev) := by
  have hany : ((s.slotsWith (lineOfAddr f.addr)).any fun x => s.cacheErr x (lineOfAddr f.addr)) = false := by
    simpa [List.any_eq_false] using herr
  refine congrArg Host.Outcome.next ?_
  simp only [hfar, hhost, hnack, Bool.false_eq_true, if_false, State.leaves, hout, State.lineMet, hany]

/-- The home slice admits a far atomic that it does not refuse, with room in its filter and below. -/
theorem State.farAtomic_admitted (hhome : s.homeSlice (lineOfAddr f.addr) = some h) (hreach : s.memReachable f.addr = true)
    (hrefuse : s.refuses h.val (lineOfAddr f.addr) (.slot sl) .farAtomic = false)
    (hroom : s.sfRoom h (.slot sl) (lineOfAddr f.addr) = true) (hwaits : s.homeWaits (lineOfAddr f.addr) = false)
    (hfill : s.fillWaits (lineOfAddr f.addr) (s.slotWays sl (h.val / 6)) = false)
    (hstuck : s.fillStuck (lineOfAddr f.addr) (s.slotWays sl (h.val / 6)) = false) :
    s.farAtomic lc ev = (((((s.unstarve h.val (lineOfAddr f.addr) (.slot sl)).dropReq (.slot sl) (lineOfAddr f.addr)).sfTouch
      (lineOfAddr f.addr)).basinMeet (lineOfAddr f.addr)).basinRead (lineOfAddr f.addr) ev).farPerform lc h sl f := by
  simp only [State.sfRoom, Bool.and_eq_true, Bool.not_eq_true'] at hroom
  obtain ⟨⟨hfull, hheld⟩, hsfw⟩ := hroom
  unfold State.farAtomic
  simp only [hfar, hhost, hnack, hhome, hreach, hrefuse, hfull, hheld, hsfw, hwaits, hfill, hstuck, Bool.false_eq_true,
    Bool.not_true, if_false, Bool.or_self, Bool.and_false]

end

/-! ### LDRES and STCND (R138 to R141) -/

section
variable {s s1 : State} {lc : Lc} {d a b : Reg} {pa t o : Nat} {l' : LCore} {sl : Slot}

/-- LDRES of a line at hand takes the reservation with its hold. -/
theorem exec_ldres_ok {bs : List Byte} (h : s.clear lc = true)
    (haddr : s.dataAddr lc (s.lc lc.val) ((s.lc lc.val).rs a) ((s.lc lc.val).rg a) 8 needR = .ok (pa, false, l'))
    (hplace : s.place pa = .dram t o) (hreach : s.memReachable pa = true) (hhost : (s.lc lc.val).host = some sl)
    (hown : (s.setLc lc.val l').canOwn sl (lineOfAddr pa) = true)
    (hread : ((s.setLc lc.val l').ownLine sl (lineOfAddr pa)).readCached lc pa 8 = .ok (bs, s1)) :
    exec (.ldres lc d a) s = .next (s.retired lc (s1.modLc lc.val fun y =>
      { (y.wg d (BitVec.ofNat 64 (leNat bs))).next with resv := some (lineOfAddr pa), resvHold := true })) := by
  refine congrArg Host.Outcome.next (s.runMem_ok lc _ _ _ h ?_)
  unfold State.ldresEffect
  rw [haddr, Res.ok_bind, hhost]
  dsimp only
  rw [State.place_setLc, hplace]
  dsimp only
  rw [State.memReachable_setLc, hreach, hown, hread]
  simp only [Bool.not_true, Bool.false_eq_true, if_false, Res.map, Res.ok_bind, Res.tag, State.modLc_eq, State.setLc_lc,
    State.setLc_setLc]

section
variable
    (haddr : s.dataAddr lc (s.lc lc.val) ((s.lc lc.val).rs a) ((s.lc lc.val).rg a) 8 needW = .ok (pa, false, l'))
    (hplace : s.place pa = .dram t o) (hreach : s.memReachable pa = true) (hhost : (s.lc lc.val).host = some sl)
    (hsync : (s.setLc lc.val l').synced lc = .ok s1)
include haddr hplace hreach hhost hsync

/-- STCND whose checks pass on a cached line fails without the reservation, asks for a line out of reach, or stores. -/
theorem State.stcndEffect_cached :
    s.stcndEffect lc d a b (s.lc lc.val) =
      Res.tag (if (s1.lc lc.val).resv ≠ some (lineOfAddr pa) then
          .ok (s1.modLc lc.val fun c => (c.wg d 1).clearResv.next, true)
        else if !s1.canOwn sl (lineOfAddr pa) then
          .ok (s1.issueReq (.slot sl) (lineOfAddr pa) (s1.ownKind sl (lineOfAddr pa)), false)
        else (s1.meetLine sl (lineOfAddr pa)).bind fun s2 =>
          .ok (((s2.ownLine sl (lineOfAddr pa)).modHolder sl.val fun h =>
            (h.write (lineOfAddr pa) (pa % 128) (leBytes 8 ((s.lc lc.val).rg b).toNat)).use (lineOfAddr pa) false).modLc lc.val
              fun c => (c.wg d 0).clearResv.next, true)) 3 := by
  unfold State.stcndEffect
  rw [haddr, Res.ok_bind, hhost]
  dsimp only
  rw [State.place_setLc, hplace]
  dsimp only
  rw [State.memReachable_setLc, hreach, hsync, Res.ok_bind]
  rfl

variable (h : s.clear lc = true)
include h

/-- STCND without the reservation fails and clears it. -/
theorem exec_stcnd_fails (hresv : (s1.lc lc.val).resv ≠ some (lineOfAddr pa)) :
    exec (.stcnd lc d a b) s = .next (s.retired lc (s1.modLc lc.val
      fun y => { (y.wg d 1).next with resv := none, resvHold := false })) := by
  have he := State.stcndEffect_cached (d := d) (b := b) haddr hplace hreach hhost hsync
  rw [if_pos hresv] at he
  exact congrArg Host.Outcome.next (s.runMem_ok lc _ _ _ h he)

/-- STCND with the reservation stores and clears it. -/
theorem exec_stcnd_stores (hresv : (s1.lc lc.val).resv = some (lineOfAddr pa))
    (herr : s1.cacheErr sl (lineOfAddr pa) = false) (hown : s1.canOwn sl (lineOfAddr pa) = true) :
    exec (.stcnd lc d a b) s = .next (s.retired lc (((s1.ownLine sl (lineOfAddr pa)).modHolder sl.val fun h =>
        (h.write (lineOfAddr pa) (pa % 128) (leBytes 8 ((s.lc lc.val).rg b).toNat)).use (lineOfAddr pa) false).modLc lc.val
          fun y => { (y.wg d 0).next with resv := none, resvHold := false })) := by
  have he := State.stcndEffect_cached (d := d) (b := b) haddr hplace hreach hhost hsync
  rw [if_neg (not_not.2 hresv), hown, State.meetLine_ok herr] at he
  exact congrArg Host.Outcome.next (s.runMem_ok lc _ _ _ h he)

end

end

/-- Settles O33: an atomic is near or far by its predictor (`State.atomic_near`, `State.atomic_far`); an admitted far atomic
retires, because nothing that its home slice does strikes the core (`State.farPerform_clean`); LDRES and STCND retire with
the reservation taken or cleared. -/
theorem atomicsAndReservations : Obligations.AtomicsAndReservations := by
  unfold Obligations.AtomicsAndReservations
  refine ⟨fun s s1 lc d a b c pa t o l' sl h => ?_,
    fun s lc f sl h ev v => ?_,
    fun s s1 lc d a pa t o l' sl bs h haddr hplace hreach hhost hown hread =>
      exec_ldres_ok h haddr hplace hreach hhost hown hread,
    fun s s1 lc d a b pa t o l' sl h => ?_,
    fun s lc hhold => congrArg Host.Outcome.next (if_pos hhold)⟩
  · intro l line haddr hplace hreach hhost hsync
    refine ⟨fun hpred herr hown v m hdata hm => ?_, fun hpred => ?_⟩
    · subst hm
      intro near
      have run (op : AtomicOp) (b c : Reg) : Host.Outcome.next (φ := Fault) (ρ := Refusal) (s.atomic lc op d a b c) =
          near (atomicNew op (lineWord v (pa % 128)) (l.rg b) (l.rg c)) :=
        congrArg Host.Outcome.next (State.atomic_near haddr hplace hreach hhost hsync h hpred herr hown hdata)
      refine ⟨run .tas 0 0, run .fadd b 0, run .swap b 0, run .cas b c, (run .amin b 0).trans ?_, (run .amax b 0).trans ?_⟩
      · simp only [atomicNew, BitVec.slt, decide_eq_true_eq]
        rfl
      · simp only [atomicNew, BitVec.slt, decide_eq_true_eq]
        rfl
    · intro far
      have run (op : AtomicOp) (b c : Reg) : Host.Outcome.next (φ := Fault) (ρ := Refusal) (s.atomic lc op d a b c) =
          far op b c := congrArg Host.Outcome.next (State.atomic_far haddr hplace hreach hhost hsync h hpred)
      exact ⟨run .tas 0 0, run .fadd b 0, run .swap b 0, run .cas b c, run .amin b 0, run .amax b 0⟩
  · intro line hfar hhost hstruck hout herr hnack hhome hreach hrefuse hroom hwaits hfill hstuck s1 hv
    have hs1 : s1.struck lc = false := (State.struck_congr (by simp [s1]) (by simp [s1])).trans hstruck
    obtain ⟨u, k, hu, hufar, hk⟩ := s1.farPerform_clean lc h sl f v hv hs1
    refine ⟨_, (exec_farAtomic_arrives ev hfar hhost hnack hout herr).trans (congrArg Host.Outcome.next
      ((State.farAtomic_admitted ev hfar hhost hnack hhome hreach hrefuse hroom hwaits hfill hstuck).trans hu)), ?_⟩
    have hr := u.retired_settled lc (u.modLc lc.val k) lc.val
    rw [State.modLc_eq, State.setLc_lc] at hr
    obtain ⟨hkfar, hkrg⟩ := hk (u.lc lc.val)
    exact ⟨(congrArg LCore.far hr).trans (hkfar.trans hufar), (congrArg (fun c => LCore.rg c f.d) hr).trans hkrg⟩
  · intro line haddr hplace hreach hhost hsync
    exact ⟨fun hresv => exec_stcnd_fails haddr hplace hreach hhost hsync h hresv,
      fun hresv herr hown => exec_stcnd_stores haddr hplace hreach hhost hsync h hresv herr hown⟩

end Sys2Proof.Machine

/-! PROOF. Floating point (O28 to O31).  An operation retires with its encoded result and the signals of R152 and R160
(`LCore.fpWrite`, `LCore.fpSignal`), or enters the handler of ILLEGAL; what a signal leaves of the core, and what an
entry leaves of the floating-point registers, are said once, and the rest is what each operation is as a function of its
data. -/

namespace Sys2Proof.Machine

/-! ### Signals and results (R152, R160) -/

section
variable (l : LCore) (fl : Nat) (w : BitVec 32) (slot : Bool)

/-- A signal changes FPSR, FPXR, FPXA and the count of instructions that follow the trapping one alone. -/
theorem LCore.fpSignal_eq : l.fpSignal fl w slot =
    { l with
      fpsr := l.fpsr ||| BitVec.ofNat 64 fl
      fpxr := (l.fpSignal fl w slot).fpxr, fpxa := (l.fpSignal fl w slot).fpxa
      fpCount := (l.fpSignal fl w slot).fpCount } := by
  unfold LCore.fpSignal
  dsimp only
  split
  · rfl
  · split <;> rfl

@[simp] theorem LCore.fpSignal_fpsr : (l.fpSignal fl w slot).fpsr = l.fpsr ||| BitVec.ofNat 64 fl := by
  rw [LCore.fpSignal_eq]
@[simp] theorem LCore.fpSignal_fpcr : (l.fpSignal fl w slot).fpcr = l.fpcr := by rw [LCore.fpSignal_eq]
@[simp] theorem LCore.fpSignal_psw : (l.fpSignal fl w slot).psw = l.psw := by rw [LCore.fpSignal_eq]
@[simp] theorem LCore.fpSignal_resv : (l.fpSignal fl w slot).resv = l.resv := by rw [LCore.fpSignal_eq]
@[simp] theorem LCore.fpSignal_g : (l.fpSignal fl w slot).g = l.g := by rw [LCore.fpSignal_eq]
@[simp] theorem LCore.fpSignal_f : (l.fpSignal fl w slot).f = l.f := by rw [LCore.fpSignal_eq]

/-- Exceptions of which none is enabled leave the record alone. -/
theorem LCore.fpSignal_masked (h : bits l.fpcr 12 8 &&& fl = 0) :
    (l.fpSignal fl w slot).fpxr = l.fpxr ∧ (l.fpSignal fl w slot).fpxa = l.fpxa := by
  simp [LCore.fpSignal, h]

/-- PEND and EXC of the recorded trap's FPXR (R160). -/
theorem fpxr_record (hfl : fl < 32) :
    let x : Word := BitVec.ofNat 64 (2 ^ 63 + (if slot then 2 ^ 61 else 0) + fl * 2 ^ 32 + w.toNat)
    x.getLsbD 63 = true ∧ bits x 36 32 = fl := by
  have hw := w.isLt
  have hx : (2 ^ 63 + (if slot then 2 ^ 61 else 0) + fl * 2 ^ 32 + w.toNat) % 2 ^ 64 =
      2 ^ 63 + (if slot then 2 ^ 61 else 0) + fl * 2 ^ 32 + w.toNat := Nat.mod_eq_of_lt (by split <;> omega)
  refine ⟨?_, ?_⟩
  · rw [← BitVec.testBit_toNat, BitVec.toNat_ofNat, hx, Nat.testBit_eq_decide_div_mod_eq, decide_eq_true_eq]
    split <;> omega
  · simp only [bits, BitVec.toNat_ofNat, hx]
    split <;> omega

/-- An enabled exception is recorded with the instruction's offset while no trap is (R160). -/
theorem LCore.fpSignal_enabled (hp : l.fpPend = false) (hfl : fl < 32) (h : bits l.fpcr 12 8 &&& fl ≠ 0) :
    (l.fpSignal fl w slot).fpPend = true ∧ (l.fpSignal fl w slot).fpxa = l.pc ∧
      bits (l.fpSignal fl w slot).fpxr 36 32 = fl := by
  obtain ⟨h63, hf⟩ := fpxr_record fl w slot hfl
  unfold LCore.fpPend at hp ⊢
  simp only [LCore.fpSignal, if_neg h, hp, Bool.false_eq_true, if_false]
  exact ⟨h63, trivial, hf⟩

end

section
variable (l : LCore) (f : Fmt) (d : Reg) (x : FVal × Nat) (w : BitVec 32) (slot : Bool)

theorem LCore.fpWrite_rf (r : Reg) :
    (l.fpWrite f d x w slot).rf r = if r = d then BitVec.ofNat 128 (encodeF f x.1) else l.rf r :=
  (LCore.wf_rf ..).trans (by simp [LCore.rf])
@[simp] theorem LCore.fpWrite_g : (l.fpWrite f d x w slot).g = l.g := l.fpSignal_g ..
@[simp] theorem LCore.fpWrite_fpsr : (l.fpWrite f d x w slot).fpsr = l.fpsr ||| BitVec.ofNat 64 x.2 :=
  l.fpSignal_fpsr ..

end

/-! ### Entries below H (R112, R161) -/

/-- An entry leaves the floating-point control registers alone. -/
theorem LCore.enter_fp (l : LCore) (b : Bank) (epc cause info addr : Word) :
    (l.enter b epc cause info addr).fpsr = l.fpsr ∧ (l.enter b epc cause info addr).fpxr = l.fpxr ∧
      (l.enter b epc cause info addr).fpxa = l.fpxa := by
  rw [LCore.enter_eq]
  cases b <;> simp [LCore.setExcBank, LCore.setBank_eq]

theorem LCore.StopsFrom.fp {k l : LCore} {b : Bank} {epc cause info addr : Word}
    (h : k.StopsFrom (l.enter b epc cause info addr)) : k.fpsr = l.fpsr ∧ k.fpxr = l.fpxr ∧ k.fpxa = l.fpxa := by
  obtain ⟨_, _, _, rfl⟩ := h
  exact l.enter_fp b epc cause info addr

/-- An operation on a clear core below H that ends in ILLEGAL enters the handler at S and changes no register. -/
theorem State.runLocal_illegal {s : State} {lc : Lc} (h : s.clear lc = true) (hl : (s.lc lc.val).level ≤ 1)
    {w : BitVec 32} {f : LCore → Res LCore} {sub : Nat} (hf : f (s.lc lc.val) = .exc (excIllegal sub)) :
    ∃ t, Host.Outcome.next (φ := Fault) (ρ := Refusal) (s.runLocal lc w f) = .next t ∧
      (t.lc lc.val).bank.exc.cause = causeWord (excIllegal sub) ∧ (t.lc lc.val).f = (s.lc lc.val).f ∧
      (t.lc lc.val).g = (s.lc lc.val).g ∧ (t.lc lc.val).fpsr = (s.lc lc.val).fpsr := by
  have hb : (s.lc lc.val).handler (excIllegal sub).code = .s := LCore.handler_low _ 0x01 (by decide) (by omega)
  have hk : ((s.enterExc lc w (excIllegal sub)).lc lc.val).StopsFrom _ := s.enterAt_lc lc _ _ _ _ _ (.inr hb)
  have k := hk.entered
  rw [hb] at k
  exact ⟨_, congrArg Host.Outcome.next (s.runLocal_exc lc w f _ h hf), congrArg ExcBank.cause k.bank, k.f, k.g, hk.fp.1⟩

/-! ### Delivery of a recorded trap (R160, R161) -/

theorem infoWord_noAccess (e : Exc) (w : BitVec 32) (h : e.access = 0) : infoWord e w = w.setWidth 64 := by
  simp [infoWord, h, ← BitVec.ofNat_toNat]

/-- The core whose recorded trap is taken: PEND is cleared. -/
def LCore.trapTaken (l : LCore) : LCore := { l with fpxr := setBit l.fpxr 63 false, fpCount := 0 }

theorem LCore.trapTaken_pend (l : LCore) : l.trapTaken.fpPend = false := by
  rw [LCore.trapTaken, LCore.fpPend, setBit, setBits_getLsbD _ _ _ _ _ (by decide) (by decide)]
  rfl

theorem LCore.trapTaken_fpxr (l : LCore) (j : Nat) (hj : j < 63) : l.trapTaken.fpxr.getLsbD j = l.fpxr.getLsbD j := by
  rw [LCore.trapTaken, setBit, setBits_getLsbD _ _ _ _ _ (by decide) (by decide), if_neg (by omega)]

/-- FP_TRAP below H enters the handler at S from the core whose trap is taken. -/
theorem State.fpTrap_lc (s : State) (lc : Lc) (hl : (s.lc lc.val).level ≤ 1) :
    ((s.fpTrap lc).lc lc.val).StopsFrom ((s.lc lc.val).trapTaken.enter .s (s.lc lc.val).pc (causeWord { code := 0x12 })
      (infoWord { code := 0x12 } ((s.lc lc.val).fpxr.setWidth 32)) 0) := by
  have hb : (s.lc lc.val).handler 0x12 = .s := LCore.handler_low _ _ (by decide) (by omega)
  have k := (s.setLc lc.val (s.lc lc.val).trapTaken).enterAt_lc lc .s (s.lc lc.val).pc (causeWord { code := 0x12 })
    (infoWord { code := 0x12 } ((s.lc lc.val).fpxr.setWidth 32)) 0 (.inr rfl)
  rw [State.setLc_lc] at k
  rw [State.fpTrap, hb]
  exact k

/-- Settles O31: at each of these points the core takes the recorded trap, whose entry (`State.fpTrap_lc`) leaves all
but PEND as it stood. -/
theorem floatingTrapDelivery : Obligations.FloatingTrapDelivery := by
  unfold Obligations.FloatingTrapDelivery
  intro s lc hr hstruck l hp hl delivered
  have trap (i : Instr) (hi : exec i s = .next (s.fpVoted lc)) : delivered i := by
    have k := s.fpTrap_lc lc hl
    obtain ⟨hfpsr, hfpxr, hfpxa⟩ := k.fp
    have e := k.entered
    rw [State.fpVoted, s.voted_unstruck lc _ _ hstruck] at hi
    refine ⟨_, hi, ?_, fun j hj => ?_, hfpsr, hfpxa, e.f, e.g, congrArg ExcBank.cause e.bank,
      congrArg ExcBank.epc e.bank, congrArg ExcBank.saved e.bank, (congrArg ExcBank.info e.bank).trans ?_, e.pc, ?_⟩
    · exact (congrArg (fun x : Word => x.getLsbD 63) hfpxr).trans l.trapTaken_pend
    · rw [hfpxr, l.trapTaken_fpxr j hj]
    · exact infoWord_noAccess { code := 0x12 } _ rfl
    · rw [e.psw, entryPsw_level]
  have hpend : (s.lcRuns lc && (s.lc lc.val).fpPend) = true := by rw [hr]; exact hp
  have now (k : State) : Host.Outcome.next (φ := Fault) (ρ := Refusal)
      (if s.lcRuns lc && (s.lc lc.val).fpPend then s.fpVoted lc else k) = .next (s.fpVoted lc) :=
    congrArg Host.Outcome.next (if_pos hpend)
  refine ⟨fun hn => trap _ (congrArg Host.Outcome.next (if_pos ?_)), fun hn => congrArg Host.Outcome.next (if_neg ?_),
    trap _ (now _), trap _ (now _), fun a n hn => trap _ (congrArg Host.Outcome.next (if_pos ?_))⟩
  · rw [hpend, Bool.true_and, decide_eq_true hn]
  · rw [hpend, Bool.true_and, decide_eq_true_eq]
    exact Nat.not_le.2 hn
  · have hb : ∀ n ∈ [(0x020 : BitVec 10), 0x021, 0x022, 0x023],
      (decide (0x20 ≤ n.toNat) && decide (n.toNat ≤ 0x23)) = true := by decide
    rw [hpend, Bool.true_and, hb n hn]

end Sys2Proof.Machine

namespace Sys2Proof.Machine

/-! ### The rounding direction (R148) -/

section
variable {l : LCore} {dec : Bool} {rm : Nat}

theorem LCore.roundFor_some {r : Round} (h : rounding l.fpcr dec rm = some r) : l.roundFor dec rm = .ok r := by
  rw [LCore.roundFor, h]

theorem LCore.roundFor_none (h : rounding l.fpcr dec rm = none) : l.roundFor dec rm = .exc (excIllegal 0x03) := by
  rw [LCore.roundFor, h]

end

/-! ### Formats of conversions (R143, R146) -/

theorem convFmts_some {x y : BitVec 3} {f g : Fmt} (hxy : x ≠ y) (hx : fmtOfCode x.toNat = some f)
    (hy : fmtOfCode y.toNat = some g) : convFmts x.toNat y.toNat = .ok (f, g) := by
  have hne : x.toNat ≠ y.toNat := fun h => hxy (BitVec.eq_of_toNat_eq h)
  simp [convFmts, hx, hy, hne]

theorem convFmts_undefined : ∀ x y : BitVec 3, x = y ∨ x = 7 ∨ y = 7 →
    convFmts x.toNat y.toNat = .exc (excIllegal 0x02) := by
  rintro x y (rfl | rfl | rfl)
  · unfold convFmts
    split <;> simp
  · rfl
  · unfold convFmts
    split
    · next h => cases h
    · rfl

theorem intFmt_some {x : BitVec 3} {f : Fmt} (h4 : x ≠ 4) (hx : fmtOfCode x.toNat = some f) :
    intFmt x.toNat = .ok f := by
  have hne : x.toNat ≠ 4 := fun h => h4 (BitVec.eq_of_toNat_eq h)
  simp [intFmt, hx, hne]

theorem intFmt_undefined (x : BitVec 3) (h : x = 4 ∨ x = 7) : intFmt x.toNat = .exc (excIllegal 0x02) := by
  obtain rfl | rfl := h <;> rfl

/-! ### Values of conversions (R156, R159) -/

/-- The least and the greatest integer of a conversion (R159). -/
def intLo (unsigned : Bool) : Int := if unsigned then 0 else -2 ^ 63
def intHi (unsigned : Bool) : Int := if unsigned then 2 ^ 64 - 1 else 2 ^ 63 - 1

/-- An integer brought into the range: an end with IV, or itself with the flags `fl`. -/
def intoRange (unsigned : Bool) (w : Int) (fl : Nat) : Int × Nat :=
  if intHi unsigned < w then (intHi unsigned, fIV) else if w < intLo unsigned then (intLo unsigned, fIV) else (w, fl)

theorem intRange_zero (unsigned : Bool) : intLo unsigned ≤ 0 ∧ 0 ≤ intHi unsigned := by cases unsigned <;> decide

section
variable (unsigned : Bool) (w : Int) (fl : Nat)

theorem intoRange_above (h : intHi unsigned < w) : intoRange unsigned w fl = (intHi unsigned, fIV) := if_pos h

theorem intoRange_below (h : w < intLo unsigned) : intoRange unsigned w fl = (intLo unsigned, fIV) := by
  have := intRange_zero unsigned
  rw [intoRange, if_neg (by omega), if_pos h]

theorem intoRange_within (hlo : intLo unsigned ≤ w) (hhi : w ≤ intHi unsigned) : intoRange unsigned w fl = (w, fl) := by
  rw [intoRange, if_neg (by omega), if_neg (by omega)]

theorem intoRange_mem :
    intLo unsigned ≤ (intoRange unsigned w fl).1 ∧ (intoRange unsigned w fl).1 ≤ intHi unsigned := by
  have := intRange_zero unsigned
  by_cases hhi : intHi unsigned < w
  · rw [intoRange_above _ _ _ hhi]
    exact ⟨by omega, le_rfl⟩
  · by_cases hlo : w < intLo unsigned
    · rw [intoRange_below _ _ _ hlo]
      exact ⟨le_rfl, by omega⟩
    · rw [intoRange_within _ _ _ (by omega) (by omega)]
      exact ⟨by omega, by omega⟩

end

/-- A datum as an integer of the range. -/
def datumToInt (f : Fmt) (dir : Round) (unsigned : Bool) : FVal → Int × Nat
  | .nan _ _ _ => (0, fIV)
  | .inf s => (if s then intLo unsigned else intHi unsigned, fIV)
  | .num s c e =>
    let q := roundAt f.radix dir s ⟨c, e, false⟩ 0
    intoRange unsigned (if s then -(q.1 : Int) else q.1) (if q.2 then fIX else 0)

theorem fToInt_eq (f : Fmt) (dir : Round) (unsigned : Bool) (a : FVal) : fToInt f dir unsigned a =
    (BitVec.ofInt 64 (datumToInt f dir unsigned a).1, (datumToInt f dir unsigned a).2) := by
  cases a with
  | nan => rfl
  | inf => rfl
  | num s c e =>
    simp only [fToInt, datumToInt, intoRange, intLo, intHi]
    split_ifs <;> rfl

theorem datumToInt_mem (f : Fmt) (dir : Round) (unsigned : Bool) (a : FVal) :
    intLo unsigned ≤ (datumToInt f dir unsigned a).1 ∧ (datumToInt f dir unsigned a).1 ≤ intHi unsigned := by
  obtain ⟨hlo, hhi⟩ := intRange_zero unsigned
  cases a with
  | nan => exact ⟨hlo, hhi⟩
  | inf s =>
    cases s
    · exact ⟨hlo.trans hhi, le_rfl⟩
    · exact ⟨le_rfl, hlo.trans hhi⟩
  | num s c e => exact intoRange_mem ..

theorem fConvert_num {f g : Fmt} (dir : Round) (ftz s : Bool) {c : Nat} (e : Int) (hfg : f.dec = g.dec) (hc : c ≠ 0) :
    fConvert f g dir ftz (.num s c e) = roundF g dir ftz s ⟨c, e, false⟩ (if f.dec then e else 0) := by
  simp [fConvert, hc, reRadix, hfg]

theorem zeroVal_eq (f : Fmt) (s : Bool) (ideal : Int) : ∃ e, zeroVal f s ideal = .num s 0 e := by
  unfold zeroVal
  split <;> exact ⟨_, rfl⟩

/-! ### The conversions -/

section
variable {s : State} {lc : Lc} (h : s.clear lc = true) {x y rm : BitVec 3} {f g : Fmt} {r : Round} (d a : Reg)
include h

theorem exec_fcvtFf_ok (hxy : x ≠ y) (hx : fmtOfCode x.toNat = some f) (hy : fmtOfCode y.toNat = some g)
    (hr : rounding (s.lc lc.val).fpcr g.dec rm.toNat = some r) :
    exec (.fcvtFf lc x y d a rm) s = .next (s.retire lc ((s.lc lc.val).fpWrite g d
      (fConvert f g r (s.lc lc.val).ftz ((s.lc lc.val).fop f a))
      (encR 0x36 d.val a.val y.toNat rm.toNat x.toNat) false)) := by
  refine congrArg Host.Outcome.next (s.runLocal_ok lc _ _ _ h ?_)
  simp only [convFmts_some hxy hx hy, LCore.roundFor_some hr, Res.bind, Res.map]

theorem State.fpToInt_ok (w : BitVec 32) (unsigned : Bool) (h4 : x ≠ 4) (hx : fmtOfCode x.toNat = some f)
    (hr : rounding (s.lc lc.val).fpcr f.dec rm.toNat = some r) :
    s.fpToInt lc w unsigned x.toNat d a rm.toNat = s.retire lc
      (((s.lc lc.val).fpSignal (datumToInt f r unsigned ((s.lc lc.val).fop f a)).2 w false).wg d
        (BitVec.ofInt 64 (datumToInt f r unsigned ((s.lc lc.val).fop f a)).1)) := by
  refine s.runLocal_ok lc _ _ _ h ?_
  simp only [intFmt_some h4 hx, LCore.roundFor_some hr, Res.bind, Res.map, fToInt_eq]

theorem exec_fcvtIf_ok (unsigned : Bool) (h4 : y ≠ 4) (hy : fmtOfCode y.toNat = some f)
    (hr : rounding (s.lc lc.val).fpcr f.dec rm.toNat = some r) :
    exec (.fcvtIf lc unsigned y d a rm) s = .next (s.retire lc ((s.lc lc.val).fpWrite f d
      (fFromInt f r (s.lc lc.val).ftz unsigned ((s.lc lc.val).rg a))
      (encR 0x36 d.val a.val y.toNat rm.toNat (24 + unsigned.toNat)) false)) := by
  refine congrArg Host.Outcome.next (s.runLocal_ok lc _ _ _ h ?_)
  simp only [intFmt_some h4 hy, LCore.roundFor_some hr, Res.bind, Res.map]

end

/-- Settles O30: an admitted conversion retires with its value (`fConvert`, `datumToInt`, `fFromInt`); one that the
manual leaves undefined ends in ILLEGAL. -/
theorem floatingConversions : Obligations.FloatingConversions := by
  unfold Obligations.FloatingConversions
  intro s lc x y d a rm h l
  refine ⟨fun f g r hxy hx hy hr => ?_, fun f r u hx h4 hr => ?_, fun f r u hy h4 hr => ?_, fun hl => ?_⟩
  · refine ⟨_, _, _, exec_fcvtFf_ok h d a hxy hx hy hr, (l.fpWrite_rf ..).trans (if_pos rfl), l.fpWrite_fpsr ..,
      l.fpWrite_g .., fun n hn => (l.fpWrite_rf ..).trans (if_neg hn), fun sg ha => ?_, fun sg q p ha => ?_,
      fun sg c n ha hfg hc => ?_⟩
    · rw [show (s.lc lc.val).fop f a = _ from ha]
      exact ⟨rfl, rfl⟩
    · rw [show (s.lc lc.val).fop f a = _ from ha]
      exact ⟨⟨_, rfl⟩, rfl⟩
    · rw [show (s.lc lc.val).fop f a = _ from ha]
      exact fConvert_num r _ sg n hfg hc
  · intro i hi lo
    have hrun : ∃ w, exec i s = .next (s.retire lc ((l.fpSignal (datumToInt f r u (l.fop f a)).2 w false).wg d
        (BitVec.ofInt 64 (datumToInt f r u (l.fop f a)).1))) := by
      cases u
      · exact ⟨_, congrArg Host.Outcome.next (State.fpToInt_ok h d a _ false h4 hx hr)⟩
      · exact ⟨_, congrArg Host.Outcome.next (State.fpToInt_ok h d a _ true h4 hx hr)⟩
    obtain ⟨w, hw⟩ := hrun
    obtain ⟨hlo, hhi⟩ := datumToInt_mem f r u (l.fop f a)
    refine ⟨_, _, _, hw, (LCore.wg_rg ..).trans (if_pos rfl), l.fpSignal_fpsr .., l.fpSignal_f ..,
      fun n hn => (LCore.wg_rg ..).trans ((if_neg hn).trans (congrArg (fun g => g.get n) (l.fpSignal_g ..))), hlo, hhi,
      fun sg q p ha => ?_, fun sg ha => ?_, fun sg c n ha => ?_⟩
    · rw [ha]
      exact ⟨rfl, rfl⟩
    · rw [ha]
      exact ⟨rfl, rfl⟩
    · rw [ha]
      intro q w
      exact ⟨fun hv => Prod.mk.inj (intoRange_above u w _ hv), fun hv => Prod.mk.inj (intoRange_below u w _ hv),
        fun h1 h2 => Prod.mk.inj (intoRange_within u w _ h1 h2)⟩
  · intro v
    refine ⟨_, _, _, exec_fcvtIf_ok h d a u h4 hy hr, (l.fpWrite_rf ..).trans (if_pos rfl), l.fpWrite_fpsr ..,
      l.fpWrite_g .., fun hv => if_neg hv, fun hv => ?_⟩
    rw [show fFromInt f r (s.lc lc.val).ftz u ((s.lc lc.val).rg a) = (zeroVal f false 0, 0) from if_pos hv]
    exact ⟨rfl, zeroVal_eq ..⟩
  · intro illegal
    have raises {w : BitVec 32} {k : LCore → Res LCore} (hk : k l = .exc (excIllegal 0x02)) :
        ∃ t, Host.Outcome.next (φ := Fault) (ρ := Refusal) (s.runLocal lc w k) = .next t ∧
          (t.lc lc.val).bank.exc.cause = 0x20001 ∧ (t.lc lc.val).f = l.f ∧ (t.lc lc.val).g = l.g := by
      obtain ⟨t, ht, hcause, hf, hg, -⟩ := State.runLocal_illegal h hl (w := w) hk
      exact ⟨t, ht, hcause, hf, hg⟩
    have ofInt {z : BitVec 3} (hz : z = 4 ∨ z = 7) (k : Fmt → Res LCore) :
        (intFmt z.toNat).bind k = .exc (excIllegal 0x02) := by
      rw [intFmt_undefined z hz]
      rfl
    exact ⟨fun hxy => raises (by rw [convFmts_undefined x y hxy]; rfl),
      fun hx => ⟨raises (ofInt hx _), raises (ofInt hx _)⟩, fun u hy => raises (ofInt hy _)⟩

end Sys2Proof.Machine

namespace Sys2Proof.Machine

/-! ### Sign operations (R154) -/

theorem arithFmt_width (fmt : ArithFmt) : 1 ≤ (arithFmt fmt).n ∧ (arithFmt fmt).n ≤ 128 := by cases fmt <;> decide

theorem arithFmt_radix (fmt : ArithFmt) : 0 < (arithFmt fmt).radix := by cases fmt <;> decide

/-- The sign bit that a sign operation gives. -/
def signGiven (op : SignOp) (sa sb : Bool) : Bool :=
  match op with
  | .fabs => false
  | .fneg => !sa
  | .fcpysgn => sb

theorem toNat_div_mod_two (q : Quad) (i : Nat) : q.toNat / 2 ^ i % 2 = (q.getLsbD i).toNat := by
  rw [← BitVec.testBit_toNat, Nat.toNat_testBit]

/-- The datum of FA below its sign bit, the sign, and zero above the format. -/
theorem fSign_getLsbD (f : Fmt) (hn : 1 ≤ f.n ∧ f.n ≤ 128) (op : SignOp) (a b : Quad) (i : Nat) :
    (fSign f op a b).getLsbD i = if i < f.n - 1 then a.getLsbD i else
      decide (i = f.n - 1) && signGiven op (a.getLsbD (f.n - 1)) (b.getLsbD (f.n - 1)) := by
  obtain ⟨m, hm⟩ : ∃ m, f.n = m + 1 := ⟨f.n - 1, by omega⟩
  have hsa : a.toNat % 2 ^ (m + 1) / 2 ^ m % 2 = (a.getLsbD m).toNat := by
    rw [← BitVec.testBit_toNat, Nat.toNat_testBit, pow_succ, Nat.mod_mul_right_div_self, Nat.mod_mod]
  have hx : a.toNat % 2 ^ (m + 1) % 2 ^ m = a.toNat % 2 ^ m := Nat.mod_mod_of_dvd _ (pow_dvd_pow 2 (Nat.le_succ m))
  have hval : fSign f op a b = BitVec.ofNat 128 (2 ^ m *
      (signGiven op (a.getLsbD m) (b.getLsbD m)).toNat + a.toNat % 2 ^ m) := by
    unfold fSign
    simp only [hm, Nat.add_sub_cancel, hsa, hx, toNat_div_mod_two, Nat.add_comm, Nat.mul_comm]
    cases op with
    | fabs | fcpysgn => simp [signGiven]
    | fneg => cases h : a.getLsbD m <;> simp [signGiven]
  rw [hval, hm, Nat.add_sub_cancel, BitVec.getLsbD_ofNat,
    Nat.testBit_two_pow_mul_add _ (Nat.mod_lt _ (Nat.two_pow_pos m)), Nat.testBit_mod_two_pow, BitVec.testBit_toNat]
  obtain hi | rfl | hi := lt_trichotomy i m
  · simp [hi]
    omega
  · have hi : i < 128 := by omega
    cases h : signGiven op (a.getLsbD i) (b.getLsbD i) <;> simp [hi]
  · have h0 : (signGiven op (a.getLsbD m) (b.getLsbD m)).toNat.testBit (i - m) = false :=
      Nat.testBit_lt_two_pow ((Bool.toNat_lt _).trans_le (Nat.le_self_pow (by omega) 2))
    simp [hi.not_gt, hi.ne', h0]

/-! ### Order of data (R157, R158) -/

/-- Where a datum stands: below, at or above zero, or at an infinity. -/
def FVal.side : FVal → Int
  | .inf s => if s then -2 else 2
  | .num s c _ => if c = 0 then 0 else if s then -1 else 1
  | .nan _ _ _ => 0

/-- The difference of two finite data, in units of their lower exponent. -/
def FVal.diff (radix : Nat) : FVal → FVal → Int
  | .num s1 c1 e1, .num s2 c2 e2 => (sumExact radix s1 c1 e1 (!s2) c2 e2).1
  | _, _ => 0

/-- A finite datum as an integer, in units of the exponent `e`. -/
def scaled (radix : Nat) (s : Bool) (c : Nat) (e1 e : Int) : Int := (if s then -1 else 1) * c * radix ^ (e1 - e).toNat

theorem scaled_not (radix : Nat) (s : Bool) (c : Nat) (e1 e : Int) :
    scaled radix (!s) c e1 e = -scaled radix s c e1 e := by
  cases s <;> simp [scaled]

theorem sumExact_eq (radix : Nat) (s1 s2 : Bool) (c1 c2 : Nat) (e1 e2 : Int) : sumExact radix s1 c1 e1 s2 c2 e2 =
    (scaled radix s1 c1 e1 (min e1 e2) + scaled radix s2 c2 e2 (min e1 e2), min e1 e2) := by
  cases s1 <;> cases s2 <;> simp [sumExact, scaled]

theorem diff_num (radix : Nat) (s1 s2 : Bool) (c1 c2 : Nat) (e1 e2 : Int) :
    (FVal.num s1 c1 e1).diff radix (.num s2 c2 e2) =
      scaled radix s1 c1 e1 (min e1 e2) - scaled radix s2 c2 e2 (min e1 e2) := by
  rw [FVal.diff, sumExact_eq, scaled_not, sub_eq_add_neg]

/-- The code of an order: 0 below, 1 equal, 2 above. -/
def orderCode (x y : Int) : Nat := if x < y then 0 else if x = y then 1 else 2

theorem orderCode_le (x y : Int) : orderCode x y ≤ 2 := by
  unfold orderCode
  split_ifs <;> omega

theorem orderCode_swap (x y : Int) : orderCode y x = 2 - orderCode x y := by
  unfold orderCode
  split_ifs <;> omega

/-- The order of the sides, and of the values on one side. -/
theorem fpOrder_eq (radix : Nat) (a b : FVal) : fpOrder radix a b =
    if a.side < b.side then 0 else if b.side < a.side then 2 else orderCode (a.diff radix b) 0 := by
  cases a <;> cases b <;> rfl

theorem FVal.diff_swap (radix : Nat) (a b : FVal) : b.diff radix a = -a.diff radix b := by
  cases a with
  | nan | inf => cases b <;> rfl
  | num s1 c1 e1 =>
    cases b with
    | nan | inf => rfl
    | num s2 c2 e2 => rw [diff_num, diff_num, min_comm, neg_sub]

theorem fpOrder_swap (radix : Nat) (a b : FVal) : fpOrder radix b a = 2 - fpOrder radix a b := by
  have h : orderCode (-a.diff radix b) 0 = 2 - orderCode (a.diff radix b) 0 := by
    unfold orderCode
    split_ifs <;> omega
  rw [fpOrder_eq, fpOrder_eq, a.diff_swap radix b, h]
  split_ifs <;> omega

theorem fpOrder_le (radix : Nat) (a b : FVal) : fpOrder radix a b ≤ 2 := by
  rw [fpOrder_eq]
  split_ifs
  · decide
  · decide
  · exact orderCode_le ..

theorem fpOrder_self (radix : Nat) (a : FVal) : fpOrder radix a a = 1 := by
  have h := fpOrder_swap radix a a
  have := fpOrder_le radix a a
  omega

/-- A finite datum stands on the side of its sign. -/
theorem sign_scaled (radix : Nat) (hr : 0 < radix) (s : Bool) (c : Nat) (e1 e : Int) :
    (scaled radix s c e1 e).sign = (FVal.num s c e1).side := by
  have hp : (0 : Int) < radix ^ (e1 - e).toNat := by positivity
  simp only [scaled, FVal.side, Int.sign_mul, Int.sign_eq_one_of_pos hp, mul_one]
  by_cases hc : c = 0
  · simp [hc]
  · have : (0:Int) < c := by omega
    cases s <;> simp [hc, Int.sign_eq_one_of_pos this]

/-- Finite data are ordered as the integers that they are in units of their lower exponent. -/
theorem fpOrder_num (radix : Nat) (hr : 0 < radix) (s1 s2 : Bool) (c1 c2 : Nat) (e1 e2 : Int) :
    fpOrder radix (.num s1 c1 e1) (.num s2 c2 e2) =
      orderCode (scaled radix s1 c1 e1 (min e1 e2)) (scaled radix s2 c2 e2 (min e1 e2)) := by
  rw [fpOrder_eq, diff_num, ← sign_scaled radix hr s1 c1 e1 (min e1 e2), ← sign_scaled radix hr s2 c2 e2 (min e1 e2)]
  generalize scaled radix s1 c1 e1 (min e1 e2) = u
  generalize scaled radix s2 c2 e2 (min e1 e2) = w
  have mono {x y : Int} (h : x.sign < y.sign) : x < y := by grind
  split
  · next h => exact (if_pos (mono h)).symm
  · split
    · next h =>
      have := mono h
      rw [orderCode, if_neg (by omega), if_neg (by omega)]
    · simp only [orderCode, sub_neg, sub_eq_zero]

/-! ### NaN operands (R155) -/

theorem isNan_of_isSnan {v : FVal} (h : v.isSnan = true) : v.isNan = true := by
  cases v with
  | nan => rfl
  | inf | num => cases h

theorem nanOf_none {a b : FVal} (ha : a.isNan = false) (hb : b.isNan = false) : nanOf [a, b] = none := by
  have hsa : a.isSnan = false := Bool.eq_false_iff.2 fun h => by simp [isNan_of_isSnan h] at ha
  have hsb : b.isSnan = false := Bool.eq_false_iff.2 fun h => by simp [isNan_of_isSnan h] at hb
  simp [nanOf, ha, hb, hsa, hsb]

theorem nanOf_snan {a : FVal} (ha : a.isSnan = true) (vs : List FVal) : nanOf (a :: vs) = some (a.quiet, fIV) := by
  simp [nanOf, ha]

theorem nanOf_qnan {a b : FVal} (ha : a.isSnan = false) (hb : b.isSnan = false) (hn : a.isNan = true) :
    nanOf [a, b] = some (a, 0) := by
  simp [nanOf, ha, hb, hn]

/-! ### Minimum and maximum (R157) -/

section
variable (radix : Nat) (mx : Bool) {a b : FVal}

/-- Of two data that are not NaN, one that the order does not put past the other. -/
theorem fMinMax_num (ha : a.isNan = false) (hb : b.isNan = false) :
    (fMinMax radix mx a b).2 = 0 ∧
      ((fMinMax radix mx a b).1 = a ∧ fpOrder radix a b ≠ (if mx then 0 else 2) ∨
        (fMinMax radix mx a b).1 = b ∧ fpOrder radix a b ≠ (if mx then 2 else 0)) := by
  unfold fMinMax
  rw [nanOf_none ha hb]
  dsimp only
  split
  · next h => cases mx <;> simp [h]
  · next h => cases mx <;> simp [h]
  · next h0 h2 =>
    have h0 : fpOrder radix a b ≠ 0 := h0
    have h2 : fpOrder radix a b ≠ 2 := h2
    have either (x : FVal × Nat) (hx : x = (a, 0) ∨ x = (b, 0)) : x.2 = 0 ∧
        (x.1 = a ∧ fpOrder radix a b ≠ (if mx then 0 else 2) ∨
          x.1 = b ∧ fpOrder radix a b ≠ (if mx then 2 else 0)) := by
      obtain rfl | rfl := hx <;> cases mx <;> simp [h0, h2]
    refine either _ ?_
    split
    · split_ifs <;> simp
    · exact .inl rfl

theorem fMinMax_nan {r : FVal × Nat} (h : nanOf [a, b] = some r) : fMinMax radix mx a b = r := by
  simp only [fMinMax, h]

theorem fMinMax_extreme (ha : a.isNan = false) (hb : b.isNan = false) (v : FVal) (hv : v = a ∨ v = b) :
    fpOrder radix (fMinMax radix mx a b).1 v ≠ if mx then 0 else 2 := by
  have hself := fpOrder_self radix
  have hle := fpOrder_le radix a b
  obtain ⟨-, ⟨hr, h⟩ | ⟨hr, h⟩⟩ := fMinMax_num radix mx ha hb <;> rw [hr] <;> obtain rfl | rfl := hv
  · rw [hself]
    split <;> decide
  · exact h
  · rw [fpOrder_swap]
    cases mx <;> simp at h ⊢ <;> omega
  · rw [hself]
    split <;> decide

end

/-! ### Comparison (R158) -/

section
variable (radix : Nat) (q : Bool) (a b : FVal)

theorem fCompare_code : (fCompare radix q a b).1 ≤ 3 ∧
    ((fCompare radix q a b).1 = 3 ↔ a.isNan = true ∨ b.isNan = true) := by
  have := fpOrder_le radix a b
  unfold fCompare
  split
  · next h => simpa using h
  · next h =>
    have h' : ¬ (a.isNan = true ∨ b.isNan = true) := by simpa using h
    simp only [h', iff_false]
    omega

/-- IV for a signalling NaN, and in the signalling form for any. -/
theorem fCompare_flags :
    ((fCompare radix q a b).2 = fIV ↔
      a.isSnan = true ∨ b.isSnan = true ∨ (q = true ∧ (a.isNan = true ∨ b.isNan = true))) ∧
    ((fCompare radix q a b).2 = fIV ∨ (fCompare radix q a b).2 = 0) := by
  have ha := @isNan_of_isSnan a
  have hb := @isNan_of_isSnan b
  have hne : (0 : Nat) ≠ fIV := by decide
  unfold fCompare
  split
  · next h =>
    simp only [Bool.or_eq_true] at h ⊢
    split
    · exact ⟨iff_of_true rfl (by tauto), .inl rfl⟩
    · exact ⟨iff_of_false hne (by tauto), .inr rfl⟩
  · next h =>
    simp only [Bool.or_eq_true] at h
    exact ⟨iff_of_false hne (by tauto), .inr rfl⟩

end

/-! ### Class (R158) -/

theorem fClass_spec (f : Fmt) (v : FVal) : fClass f v ≤ 9 ∧ (fClass f v = 8 ↔ v.isSnan = true) ∧
    (fClass f v = 8 ∨ fClass f v = 9 ↔ v.isNan = true) ∧ (fClass f v = 0 ↔ v = .inf true) ∧
    (fClass f v = 7 ↔ v = .inf false) ∧ (fClass f v = 3 ↔ ∃ e, v = .num true 0 e) ∧
    (fClass f v = 4 ↔ ∃ e, v = .num false 0 e) := by
  cases v with
  | nan s g p => cases g <;> simp [fClass, FVal.isSnan, FVal.isNan]
  | inf s => cases s <;> simp [fClass, FVal.isSnan, FVal.isNan]
  | num s c e =>
    by_cases hc : c = 0
    · cases s <;> simp [fClass, FVal.isSnan, FVal.isNan, hc]
    · simp only [fClass, if_neg hc]
      split_ifs <;> simp [FVal.isSnan, FVal.isNan, hc]

/-- FMVGF zeroes the upper half (Table 6.4). -/
theorem setWidth_high_zero (x : Word) : x.setWidth 128 = (0 : Word) ++ x := by
  rw [BitVec.setWidth_eq_append (by decide)]
  rfl

/-- Settles O29: each retires with a function of its operands: the sign bit by `fSign_getLsbD`, the selected operand by
`fMinMax_num`, the code by `fCompare_code` and `fpOrder_num`, the class by `fClass_spec`. -/
theorem floatingSelectCompareMove : Obligations.FloatingSelectCompareMove := by
  unfold Obligations.FloatingSelectCompareMove
  intro s lc fmt d a b h l f va vb
  have hn : 1 ≤ f.n ∧ f.n ≤ 128 := arithFmt_width fmt
  have run {i : Instr} {w : BitVec 32} {k : LCore → Res LCore} {l' : LCore}
      (hi : exec i s = .next (s.runLocal lc w k)) (hk : k l = .ok l') : exec i s = .next (s.retire lc l') :=
    hi.trans (congrArg Host.Outcome.next (s.runLocal_ok lc w k l' h hk))
  refine ⟨fun op => ⟨fSign f op (l.rf a) (l.rf b), run rfl rfl, fun i hi => ?_, fun i hi => ?_, ?_⟩,
    fun mx => ⟨_, (fMinMax f.radix mx va vb).1, (fMinMax f.radix mx va vb).2, run rfl rfl,
      (l.fpWrite_rf ..).trans (if_pos rfl), l.fpWrite_fpsr .., l.fpWrite_g ..,
      fun r hr => (l.fpWrite_rf ..).trans (if_neg hr), fun ha hb => ?_, fun ha => ?_, fun ha hb hnan => ?_⟩,
    fun q => ⟨_, (fCompare f.radix q va vb).1, (fCompare f.radix q va vb).2, run rfl rfl,
      (LCore.wg_rg ..).trans (if_pos rfl), l.fpSignal_fpsr .., l.fpSignal_f ..,
      fun y hy => (LCore.wg_rg ..).trans ((if_neg hy).trans (congrArg (fun g => g.get y) (l.fpSignal_g ..))), ?_⟩,
    ⟨fClass f (decodeF f (l.rf a) false), (fClass_spec f _).1, run rfl rfl, (fClass_spec f _).2⟩,
    run rfl (by rw [← setWidth_high_zero]; rfl), run rfl rfl, run rfl rfl, run rfl rfl, run rfl rfl⟩
  · rw [fSign_getLsbD f hn, if_pos (by omega)]
  · rw [fSign_getLsbD f hn, if_neg (by omega), decide_eq_false (by omega), Bool.false_and]
  · rw [fSign_getLsbD f hn, if_neg (lt_irrefl _), decide_eq_true rfl, Bool.true_and]
    cases op <;> rfl
  · obtain ⟨hx, hv⟩ := fMinMax_num f.radix mx ha hb
    have hext := fMinMax_extreme f.radix mx ha hb
    refine ⟨hx, hv.imp And.left And.left, ?_, ?_⟩
    · rintro rfl
      exact ⟨hext va (.inl rfl), hext vb (.inr rfl)⟩
    · rintro rfl
      exact ⟨hext va (.inl rfl), hext vb (.inr rfl)⟩
  · rw [fMinMax_nan _ _ (nanOf_snan ha _)]
    exact ⟨rfl, rfl⟩
  · rw [fMinMax_nan _ _ (nanOf_qnan ha hb hnan)]
    exact ⟨rfl, rfl⟩
  · obtain ⟨hle, hnan⟩ := fCompare_code f.radix q va vb
    obtain ⟨hiv, hflags⟩ := fCompare_flags f.radix q va vb
    refine ⟨hnan, hle, hiv, hflags, fun s1 s2 c1 c2 e1 e2 e ha hb he => ?_⟩
    subst he
    rw [ha, hb]
    exact fpOrder_num f.radix (arithFmt_radix fmt) s1 s2 c1 c2 e1 e2

end Sys2Proof.Machine

namespace Sys2Proof.Machine

/-! ### Exceptions are flags of FPSR (R151) -/

theorem flags_const (v : FVal) {n : Nat} (h : decide (n < 32) = true) : (v, n).2 < 32 := of_decide_eq_true h

theorem flag_ite {p : Prop} [Decidable p] {m n : Nat} (hm : m < 32) (hn : n < 32) : (if p then m else n) < 32 := by
  split <;> assumption

theorem flags_ite {p : Prop} [Decidable p] {x y : FVal × Nat} (hx : x.2 < 32) (hy : y.2 < 32) :
    (if p then x else y).2 < 32 := by
  split <;> assumption

theorem nanOf_flags {vs : List FVal} {x : FVal × Nat} (h : nanOf vs = some x) : x.2 < 32 := by
  unfold nanOf at h
  split at h
  · obtain rfl := Option.some.inj h
    exact flags_const _ rfl
  · obtain ⟨v, -, rfl⟩ := Option.map_eq_some_iff.1 h
    exact flags_const _ rfl

section
variable (f : Fmt) (r : Round) (z : Bool)

theorem roundF_flags (s : Bool) (x : Exact) (ideal : Int) : (roundF f r z s x ideal).2 < 32 := by
  unfold roundF
  refine flags_ite (flags_const _ rfl) ?_
  split
  · exact flags_const _ rfl
  · dsimp only
    refine flags_ite (flags_const _ rfl) (flags_ite (flags_const _ rfl) ?_)
    dsimp only
    split_ifs <;> decide

theorem addFinite_flags (s1 : Bool) (c1 : Nat) (e1 : Int) (s2 : Bool) (c2 : Nat) (e2 ideal : Int) :
    (addFinite f r z s1 c1 e1 s2 c2 e2 ideal).2 < 32 := flags_ite (flags_const _ rfl) (roundF_flags ..)

theorem fAdd_flags (a b : FVal) : (fAdd f r z a b).2 < 32 := by
  unfold fAdd
  split
  · next h => exact nanOf_flags h
  · split
    · exact flags_ite (flags_const _ rfl) (flags_const _ rfl)
    · exact flags_const _ rfl
    · exact flags_const _ rfl
    · exact addFinite_flags ..
    · exact flags_const _ rfl

theorem fMul_flags (a b : FVal) : (fMul f r z a b).2 < 32 := by
  unfold fMul
  split
  · next h => exact nanOf_flags h
  · split
    · exact flags_const _ rfl
    · exact flags_ite (flags_const _ rfl) (flags_const _ rfl)
    · exact flags_ite (flags_const _ rfl) (flags_const _ rfl)
    · exact roundF_flags ..
    · exact flags_const _ rfl

theorem fFma_flags (a b c : FVal) : (fFma f r z a b c).2 < 32 := by
  unfold fFma
  dsimp only
  cases h : nanOf [a, b, c] with
  | some x => exact flag_ite (by decide) (nanOf_flags h)
  | none =>
    refine flags_ite (flags_const _ rfl) ?_
    split
    · exact addFinite_flags ..
    · exact flags_const _ rfl
    · split
      · exact flags_ite (flags_const _ rfl) (flags_const _ rfl)
      · exact flags_const _ rfl

theorem fDiv_flags (a b : FVal) : (fDiv f r z a b).2 < 32 := by
  unfold fDiv
  split
  · next h => exact nanOf_flags h
  · split
    · exact flags_const _ rfl
    · exact flags_const _ rfl
    · exact flags_const _ rfl
    · exact flags_ite (flags_ite (flags_const _ rfl) (flags_const _ rfl))
        (flags_ite (flags_const _ rfl) (roundF_flags ..))
    · exact flags_const _ rfl

theorem fSqrt_flags (a : FVal) : (fSqrt f r z a).2 < 32 := by
  unfold fSqrt
  split
  · next h => exact nanOf_flags h
  · split
    · exact flags_ite (flags_const _ rfl) (flags_const _ rfl)
    · exact flags_ite (flags_const _ rfl) (flags_ite (flags_const _ rfl) (roundF_flags ..))
    · exact flags_const _ rfl

theorem fRint_flags (a : FVal) : (fRint f r a).2 < 32 := by
  unfold fRint
  split
  · next h => exact nanOf_flags h
  · split
    · exact flags_ite (flags_const _ rfl) (flag_ite (by decide) (by decide))
    · exact flags_const _ rfl

theorem fQuant_flags (a b : FVal) : (fQuant f r a b).2 < 32 := by
  unfold fQuant
  split
  · next h => exact nanOf_flags h
  · split
    · exact flags_const _ rfl
    · exact flags_ite (flags_const _ rfl) (flag_ite (by decide) (by decide))
    · exact flags_const _ rfl

/-! ### Results of data (R150, R155) -/

/-- A sum of finite data that is not zero is rounded once. -/
theorem addFinite_ne_zero {s1 s2 : Bool} {c1 c2 : Nat} {e1 e2 v e : Int} (ideal : Int)
    (hv : sumExact f.radix s1 c1 e1 s2 c2 e2 = (v, e)) (h0 : v ≠ 0) :
    addFinite f r z s1 c1 e1 s2 c2 e2 ideal = roundF f r z (decide (v < 0)) ⟨v.natAbs, e, false⟩ ideal := by
  rw [addFinite, hv]
  exact if_neg h0

theorem fAdd_nan {a b : FVal} {x : FVal × Nat} (h : nanOf [a, b] = some x) : fAdd f r z a b = x := by
  simp only [fAdd, h]
theorem fMul_nan {a b : FVal} {x : FVal × Nat} (h : nanOf [a, b] = some x) : fMul f r z a b = x := by
  simp only [fMul, h]
theorem fDiv_nan {a b : FVal} {x : FVal × Nat} (h : nanOf [a, b] = some x) : fDiv f r z a b = x := by
  simp only [fDiv, h]

end

/-! ### Arithmetic on a clear core (R142, R145, R148) -/

section
variable {s : State} {lc : Lc} (h : s.clear lc = true) {fmt : ArithFmt} {rm : Nat} {r : Round}
include h

theorem State.fpArith_ok (w : BitVec 32) (d : Reg) (op : LCore → Fmt → Round → Bool → FVal × Nat)
    (hr : rounding (s.lc lc.val).fpcr (arithFmt fmt).dec rm = some r) :
    s.fpArith lc w fmt rm d op = s.retire lc ((s.lc lc.val).fpWrite (arithFmt fmt) d
      (op (s.lc lc.val) (arithFmt fmt) r (s.lc lc.val).ftz) w false) := by
  refine s.runLocal_ok lc _ _ _ h ?_
  simp only [LCore.roundFor_some hr, Res.bind, Res.map]

/-- FDIV of a format other than binary128 is no routine (R145). -/
theorem exec_fdiv_ok (d a b : Reg) (rm : BitVec 3) (ev : MicroEvent) (h128 : fmt ≠ .b128)
    (hr : rounding (s.lc lc.val).fpcr (arithFmt fmt).dec rm.toNat = some r) :
    exec (.fdiv lc fmt d a b rm ev) s = .next (s.retire lc ((s.lc lc.val).fpWrite (arithFmt fmt) d
      (fDiv (arithFmt fmt) r (s.lc lc.val).ftz ((s.lc lc.val).fop (arithFmt fmt) a)
        ((s.lc lc.val).fop (arithFmt fmt) b))
      (encFp fmt d.val a.val b.val rm.toNat 3) false)) := by
  have run := State.fpArith_ok h (encFp fmt d.val a.val b.val rm.toNat 3) d
    (fun l fm r z => fDiv fm r z (l.fop fm a) (l.fop fm b)) hr
  cases fmt with
  | b128 => exact absurd rfl h128
  | b16 | b32 | b64 | d64 | d128 => exact congrArg Host.Outcome.next run

theorem exec_fquant_ok (d a b : Reg) (rm : BitVec 3) (hdec : (arithFmt fmt).dec = true)
    (hr : rounding (s.lc lc.val).fpcr (arithFmt fmt).dec rm.toNat = some r) :
    exec (.fquant lc fmt d a b rm) s = .next (s.retire lc ((s.lc lc.val).fpWrite (arithFmt fmt) d
      (fQuant (arithFmt fmt) r ((s.lc lc.val).fop (arithFmt fmt) a) ((s.lc lc.val).fop (arithFmt fmt) b))
      (encFp fmt d.val a.val b.val rm.toNat 14) false)) := by
  refine congrArg Host.Outcome.next (s.runLocal_ok lc _ _ _ h ?_)
  rw [check, if_pos hdec, LCore.roundFor_some hr]
  rfl

end

/-- Settles O28: an operation retires with its encoded result (`State.fpArith_ok`), whose signals
`LCore.fpSignal_masked` and `LCore.fpSignal_enabled` follow into the record; a sum and a NaN among the operands are read off the operation. -/
theorem floatingArithmetic : Obligations.FloatingArithmetic := by
  unfold Obligations.FloatingArithmetic
  refine ⟨fun s lc fmt d a b c rm h => ?_, fun f r z s1 s2 c1 c2 e1 e2 e v he hv h0 => ?_,
    fun f r z a b g p hg sg ha => ⟨fun ht => ?_, fun hf hb => ?_⟩⟩
  · intro l f va vb vc gives
    obtain ⟨-, -, hpend, -⟩ := s.clear_iff lc h
    have result {i : Instr} {x : FVal × Nat} {w : BitVec 32} (hx : x.2 < 32)
        (hi : exec i s = .next (s.retire lc (l.fpWrite f d x w false))) : gives i x :=
      ⟨_, hi, (l.fpWrite_rf ..).trans (if_pos rfl), fun r hr => (l.fpWrite_rf ..).trans (if_neg hr), l.fpWrite_g ..,
        l.fpSignal_psw .., l.fpSignal_fpcr .., l.fpWrite_fpsr .., l.fpSignal_resv .., l.fpSignal_masked x.2 w false,
        fun he => by rw [Nat.mod_eq_of_lt hx]; exact l.fpSignal_enabled x.2 w false hpend hx he⟩
    have arith {i : Instr} {w : BitVec 32} {rm : Nat} {r : Round} {op : LCore → Fmt → Round → Bool → FVal × Nat}
        (hr : rounding l.fpcr f.dec rm = some r) (hx : (op l f r l.ftz).2 < 32)
        (hi : exec i s = .next (s.fpArith lc w fmt rm d op)) : gives i (op l f r l.ftz) :=
      result hx (hi.trans (congrArg Host.Outcome.next (State.fpArith_ok h w d op hr)))
    refine ⟨fun r hr => ⟨?_, ?_, ?_, ?_, fun ev h128 => ?_, ?_, fun hdec => ?_⟩, fun r hr => ⟨?_, ?_, ?_, ?_⟩,
      fun hr hl => ?_⟩
    · exact arith (op := fun l fm r z => fAdd fm r z (l.fop fm a) (l.fop fm b)) hr (fAdd_flags ..) rfl
    · exact arith (op := fun l fm r z => fAdd fm r z (l.fop fm a) (l.fop fm b).neg) hr (fAdd_flags ..) rfl
    · exact arith (op := fun l fm r z => fMul fm r z (l.fop fm a) (l.fop fm b)) hr (fMul_flags ..) rfl
    · exact arith (op := fun l fm r z => fSqrt fm r z (l.fop fm a)) hr (fSqrt_flags ..) rfl
    · exact result (fDiv_flags ..) (exec_fdiv_ok h d a b rm ev h128 hr)
    · exact arith (op := fun l fm r _ => fRint fm r (l.fop fm a)) hr (fRint_flags ..) rfl
    · exact result (fQuant_flags ..) (exec_fquant_ok h d a b rm hdec hr)
    · exact arith (op := fun l fm r z => fFma fm r z (l.fop fm a) (l.fop fm b) (l.fop fm c)) hr (fFma_flags ..) rfl
    · exact arith (op := fun l fm r z => fFma fm r z (l.fop fm a) (l.fop fm b) (l.fop fm c).neg) hr (fFma_flags ..) rfl
    · exact arith (op := fun l fm r z => fFma fm r z (l.fop fm a).neg (l.fop fm b) (l.fop fm c).neg) hr
        (fFma_flags ..) rfl
    · exact arith (op := fun l fm r z => fFma fm r z (l.fop fm a).neg (l.fop fm b) (l.fop fm c)) hr (fFma_flags ..) rfl
    · obtain ⟨t, ht, hcause, hf, -, hfpsr⟩ := State.runLocal_illegal h hl
        (w := encFp fmt d.val a.val b.val rm.toNat 0)
        (f := fun l => (l.roundFor f.dec rm.toNat).map fun r => l.fpWrite f d (fAdd f r l.ftz (l.fop f a) (l.fop f b))
          (encFp fmt d.val a.val b.val rm.toNat 0) false)
        (sub := 0x03) (by rw [LCore.roundFor_none hr]; rfl)
      exact ⟨t, ht, hcause, hf, hfpsr⟩
  · subst he hv
    exact addFinite_ne_zero f r z _ (sumExact_eq ..) h0
  · subst ha ht
    have hn := nanOf_snan (a := .nan sg true p) rfl [b]
    exact ⟨fAdd_nan f r z hn, fMul_nan f r z hn⟩
  · subst ha hf
    have hn := nanOf_qnan (a := .nan sg false p) rfl hb rfl
    exact ⟨fAdd_nan f r z hn, fMul_nan f r z hn, fDiv_nan f r z hn⟩

end Sys2Proof.Machine

namespace Sys2Proof.Machine

/-! PROOF. Microcode (O12, O36).  A custom opcode on a clear core that stands at no boundary runs one segment, whose end
says what the core becomes.  A package is loaded in the state in which the home slices have served its reads; the write phase
and the swap change the banks of the cores that they name alone. -/

/-! ### Custom opcodes (R171, R186, R187) -/

theorem State.microEvent_ok (s : State) (lc : Lc) : s.microEvent lc .ok = (s, false) := by
  unfold State.microEvent
  split <;> rfl

/-- On a clear core no vote comes between a segment and its effect. -/
theorem State.custom_clear (s : State) (lc : Lc) (k : Fin 64) (d a b : Reg) (cx : Fin 16) (ev : MicroEvent)
    (h : s.clear lc = true) : s.custom lc k d a b cx ev = (s.customRun lc k d a b cx ev).1 := by
  obtain ⟨-, -, -, -, -, hstruck⟩ := s.clear_iff lc h
  simp [State.custom, s.ready_of_clear lc h, State.voted_unstruck _ _ _ _ hstruck]

section
variable {s : State} {lc : Lc} {k : Fin 64} {d a b : Reg} {cx : Fin 16} {entry : Word}
  (hmicro : (s.lc lc.val).micro = none)
  (hentry : ((s.lc lc.val).wcs (s.lc lc.val).activeBank).entries.getD k.val 0 = entry)
include hmicro hentry

theorem State.customRun_undefined (hv : entry.msb = false) : (s.customRun lc k d a b cx .ok).1 =
    s.takeExc lc (encC d.val a.val b.val cx.val k.val) (excIllegal 0x06) := by
  simp only [State.customRun, hmicro, Option.map_none, Option.getD_none, hentry, hv]
  rfl

theorem State.customRun_privileged (hv : entry.msb = true) (hl : (s.lc lc.val).level < bits entry 49 48) :
    (s.customRun lc k d a b cx .ok).1 = s.takeExc lc (encC d.val a.val b.val cx.val k.val) excPrivilege := by
  simp only [State.customRun, hmicro, Option.map_none, Option.getD_none, hentry, hv, hl, decide_true]
  rfl

/-- A routine that starts ends its first segment as `State.segEnd` says. -/
theorem State.customRun_starts {m : MicroSt} {s0 : State} {g : Seg} {e : SegEnd} (hv : entry.msb = true)
    (hl : bits entry 49 48 ≤ (s.lc lc.val).level)
    (hm : s.microStart (s.lc lc.val) (encC d.val a.val b.val cx.val k.val) entry = (m, s0))
    (hr : Seg.run ⟨lc, d, a, b, cx, entry, encC d.val a.val b.val cx.val k.val⟩
      ((s.lc lc.val).wcs (s.lc lc.val).activeBank).words segFuel
      ⟨s0, s0.lc lc.val, m, [], [], [], false, 0, none⟩ = (g, e)) :
    (s.customRun lc k d a b cx .ok).1 =
      s.segEnd ⟨lc, d, a, b, cx, entry, encC d.val a.val b.val cx.val k.val⟩ g e := by
  simp only [State.customRun, hmicro, Option.map_none, Option.getD_none, Option.isNone_none, hentry, hv,
    Bool.not_true, Bool.and_false, Bool.false_eq_true, if_false, Nat.not_lt.mpr hl, decide_false,
    State.microEvent_ok, hm, hr]

end

theorem exec_customOpcode_ok {s : State} {lc : Lc} {k : Fin 64} {d a b : Reg} {cx : Fin 16} (h : s.clear lc = true) :
    exec (.customOpcode lc k d a b cx .ok) s = .next (s.customRun lc k d a b cx .ok).1 :=
  congrArg Host.Outcome.next (s.custom_clear lc k d a b cx .ok h)

/-- Where no FP trap is recorded, an exception enters its handler. -/
theorem State.takeExc_of_clear {s : State} {lc : Lc} (w : BitVec 32) (e : Exc) (h : s.clear lc = true) :
    s.takeExc lc w e = s.enterExc lc w e := by
  obtain ⟨-, -, hpend, -⟩ := s.clear_iff lc h
  simp [State.takeExc, State.fpFirst, hpend]

/-! ### The end of a segment (R176, R179, R182) -/

/-- The state in which the word of a routine that reaches END retires: its registers are published, its core goes on to the
next word and stands at no boundary. -/
def Seg.ended (g : Seg) (x : MicroCtx) : State :=
  (g.publish x).modLc x.lc.val fun c => { (if x.long then c.progEnd else c).next with micro := none }

theorem State.segEnd_done {s : State} {x : MicroCtx} {g : Seg} (hp : (s.lc x.lc.val).fpPend = false)
    (hl : g.late = none) : s.segEnd x g .done = s.retired x.lc (g.ended x) := by
  simp only [State.segEnd, Seg.ended, hp, hl, Bool.false_eq_true, if_false]

/-- What an instruction computes on its core, where it goes on, and the boundary that it stands at. -/
def LCore.outcome (l : LCore) : Vector Word 32 × Vector Quad 32 × Word × Word × Word × Option MicroSt :=
  (l.g, l.f, l.psw, l.fpsr, l.pc, l.micro)

theorem State.retired_outcome (s : State) (lc : Lc) (t : State) (n : Nat) :
    ((s.retired lc t).lc n).outcome = (t.lc n).outcome :=
  (congrArg LCore.outcome (s.retired_settled lc t n) :)

@[simp] theorem State.retired_mem (s : State) (lc : Lc) (t : State) : (s.retired lc t).mem = t.mem :=
  (congrArg State.mem (s.retired_frame lc t) :)

theorem Seg.ended_outcome (g : Seg) (x : MicroCtx) : ((g.ended x).lc x.lc.val).outcome =
    (g.core.g, g.core.f, g.core.psw, g.core.fpsr, (g.st.lc x.lc.val).pc + 4, none) := by
  have ends (c : LCore) : ({ (if x.long then c.progEnd else c).next with micro := none } : LCore).outcome =
      (c.g, c.f, c.psw, c.fpsr, c.pc + 4, none) := by
    split
    · rw [LCore.progEnd, LCore.setBank_eq]
      rfl
    · rfl
  rw [Seg.ended, State.modLc, State.setLc_lc, ends, Seg.publish, State.modLc, State.setLc_lc]

/-! ### The overrun of a post-commit part (R179) -/

@[simp] theorem State.microStop_lc (s : State) (lc : Lc) (kind addr n : Nat) :
    (s.microStop lc kind addr).lc n = (s.modLc lc.val fun c =>
      { c with stops := { c.stops with fatal := true }, micro := none, overrun := none }).lc n :=
  State.report_lc ..

theorem exec_mcOverrun_ok {s : State} {lc : Lc} {a : BitVec 16} (ha : (s.lc lc.val).overrun = some a)
    (hr : s.coresRun = true) (he : (s.lc lc.val).executes = true) :
    exec (.mcOverrun lc) s = .next (s.microStop lc mcOverrun a.toNat) := by
  change execMcOverrun lc s = _
  simp [execMcOverrun, ha, hr, he]

/-- Settles O36: a fresh routine is refused, or runs its first segment (`State.customRun_starts`); END retires the word with
the registers that the routine left (`Seg.ended_outcome`), of which retirement keeps all (`State.retired_outcome`). -/
theorem customRoutines : Obligations.CustomRoutines := by
  unfold Obligations.CustomRoutines
  refine ⟨fun s lc k d a b cx w entry h => ?_, fun s lc a ha hr he => ?_⟩
  · intro l hmicro hw hentry
    subst hw
    obtain ⟨-, -, hpend, -⟩ := s.clear_iff lc h
    rw [exec_customOpcode_ok h]
    refine ⟨fun hv => ?_, fun hv hl => ?_, fun m s0 g e hv hl hm hrun => ?_⟩
    · rw [State.customRun_undefined hmicro hentry.symm hv, State.takeExc_of_clear _ _ h]
      rfl
    · rw [State.customRun_privileged hmicro hentry.symm hv hl, State.takeExc_of_clear _ _ h]
      rfl
    · rw [State.customRun_starts hmicro hentry.symm hv hl hm hrun]
      refine ⟨fun he hlate => ⟨_, rfl, ?_⟩, fun he => ⟨_, rfl, ?_⟩⟩
      · subst he
        rw [State.segEnd_done ?_ hlate]
        · have ended := (s.retired_outcome lc _ lc.val).trans (g.ended_outcome
            ⟨lc, d, a, b, cx, entry, encC d.val a.val b.val cx.val k.val⟩)
          simp only [LCore.outcome, Prod.mk.injEq] at ended
          obtain ⟨hg, hf, hpsw, hfpsr, hpc, hend⟩ := ended
          exact ⟨hg, hf, hpsw, hfpsr, hpc, hend, s.retired_mem lc _⟩
        · exact hpend
      · subst he
        rw [State.segEnd, State.modLc, State.setLc_lc]
  · refine ⟨_, exec_mcOverrun_ok ha hr he, rfl, ?_⟩
    simp only [State.microStop_lc, State.modLc, State.setLc_lc, true_and]
    exact fun k hk => State.setLc_lc_ne _ _ fun heq => hk (Fin.ext heq.symm)

end Sys2Proof.Machine

namespace Sys2Proof.Machine

/-! ### What the service of a request leaves of the registers (R254, R257, R289) -/

section
variable {q : CsReg} (s : State)

theorem State.basinTouch_reg (l : LineNo) : (s.basinTouch l).reg q = s.reg q := by
  unfold State.basinTouch
  split <;> simp

theorem State.basinDrop_reg (l : LineNo) : (s.basinDrop l).reg q = s.reg q := by
  unfold State.basinDrop
  split <;> simp

theorem State.sfTouch_reg (l : LineNo) : (s.sfTouch l).reg q = s.reg q := by
  unfold State.sfTouch
  split <;> simp

theorem State.markBreach_reg (l : LineNo) : (s.markBreach l).reg q = s.reg q := by
  unfold State.markBreach
  dsimp only
  split
  · simp
  · rfl

end

section
variable {q : CsReg} (hq : ∀ t, (CsReg.cohBrcount t).addr ≠ q.addr) (s : State)
include hq

/-- The breach log counts in COH_BRCOUNT alone. -/
theorem State.brLog_reg (l : LineNo) (cause holder : Nat) : (s.brLog l cause holder).reg q = s.reg q := by
  unfold State.brLog
  split
  · rfl
  · dsimp only
    split <;> simp [State.setReg_reg_ne _ _ (hq _)]

theorem State.breachLine_reg (l : LineNo) (cause holder : Nat) : (s.breachLine l cause holder).reg q = s.reg q := by
  unfold State.breachLine
  rw [State.brLog_reg hq]
  dsimp only
  split <;> simp [State.markBreach_reg, State.basinDrop_reg]

theorem State.basinRead_reg (l : LineNo) (ev : BasinEvent) : (s.basinRead l ev).reg q = s.reg q := by
  unfold State.basinRead
  split
  · rfl
  · split
    · cases ev
      case uncorrectable =>
        dsimp only
        split <;> simp [State.breachLine_reg hq, State.basinDrop_reg]
      case ok | cxlPoison | corrected => simp [State.basinTouch_reg]
    · split
      · split <;> rfl
      · rfl
    · rfl

theorem State.basinMeet_reg (l : LineNo) : (s.basinMeet l).reg q = s.reg q := by
  unfold State.basinMeet
  split
  · rfl
  · split
    · rfl
    · rw [State.basinRead_reg hq]
      simp

theorem State.served_reg (r : Requester) (l : LineNo) : (s.served r l).reg q = s.reg q := by
  unfold State.served
  split
  · rfl
  · rw [State.basinRead_reg hq, State.basinMeet_reg hq, State.sfTouch_reg]
    rfl

theorem State.atHome_reg (r : Requester) (rs : List Reach) : (s.atHome r rs).reg q = s.reg q := by
  unfold State.atHome
  refine State.foldl_keeps (State.reg · q) (fun t e => ?_) _ s
  exact State.served_reg hq t r e.1

end

/-! ### A response is no part of memory (R294) -/

section
variable (s : State) (m : Master) (r : Resp)

@[simp] theorem State.portProto_respond : (s.respond m r).portProto = s.portProto := rfl

@[simp] theorem State.cxlPort_respond (pa : Nat) : (s.respond m r).cxlPort pa = s.cxlPort pa := by
  have hport : (s.respond m r).port = s.port := rfl
  unfold State.cxlPort State.cxlWindow
  rw [State.portProto_respond, hport]

@[simp] theorem State.dramPlace_respond (pa : Nat) : (s.respond m r).dramPlace pa = s.dramPlace pa := rfl

@[simp] theorem State.pcieWindow_respond (pa : Nat) : (s.respond m r).pcieWindow pa = s.pcieWindow pa := by
  unfold State.pcieWindow
  rw [State.portProto_respond]

@[simp] theorem State.doorbell_respond (pa : Nat) : (s.respond m r).doorbell pa = s.doorbell pa := by
  unfold State.doorbell
  rw [State.portProto_respond]

@[simp] theorem State.place_respond (pa : Nat) : (s.respond m r).place pa = s.place pa := by
  unfold State.place
  rw [State.dramPlace_respond, State.cxlPort_respond, State.pcieWindow_respond, State.doorbell_respond]

@[simp] theorem State.homeTile_respond (pa : Nat) : (s.respond m r).homeTile pa = s.homeTile pa := by
  unfold State.homeTile
  rw [State.place_respond]

@[simp] theorem State.homeSlice_respond (l : LineNo) : (s.respond m r).homeSlice l = s.homeSlice l := by
  unfold State.homeSlice
  rw [State.homeTile_respond]

@[simp] theorem State.memReachable_respond (pa : Nat) : (s.respond m r).memReachable pa = s.memReachable pa := by
  have hlive : (s.respond m r).tileLive = s.tileLive := rfl
  have hport : (s.respond m r).port = s.port := rfl
  unfold State.memReachable State.homeLive
  rw [State.homeTile_respond, State.place_respond, hlive, hport]

@[simp] theorem State.memValue_respond (l : LineNo) : (s.respond m r).memValue l = s.memValue l := by
  have hline : (s.respond m r).memLine = s.memLine := rfl
  have hpoison : (s.respond m r).isPoison = s.isPoison := rfl
  have hgood : (s.respond m r).dramGood = s.dramGood := rfl
  have hrebuilt : (s.respond m r).rebuiltPoison = s.rebuiltPoison := rfl
  have hchan : (s.respond m r).chan = s.chan := rfl
  have hchanOf : (s.respond m r).chanOf = s.chanOf := rfl
  unfold State.memValue State.readsPoison
  rw [State.place_respond, hline, hpoison, hgood, hrebuilt, hchan, hchanOf]

@[simp] theorem State.freshest_respond (l : LineNo) : (s.respond m r).freshest l = s.freshest l := by
  have hdirty : (s.respond m r).dirtyCopy l = s.dirtyCopy l := rfl
  have hevict : (s.respond m r).evictCopy l = s.evictCopy l := rfl
  have hslice : (s.respond m r).slice = s.slice := rfl
  unfold State.freshest State.basinCopy State.transitCopy
  rw [State.homeSlice_respond, State.memValue_respond, hdirty, hevict, hslice]

@[simp] theorem State.peek_respond (pa n : Nat) : (s.respond m r).peek pa n = s.peek pa n := by
  simp only [State.peek, State.freshBytes, State.freshest_respond, State.memReachable_respond]

end

/-! ### MC_LOAD (R193, R195, R196) -/

theorem mcPkg_ne_cohBrcount : ∀ t, (CsReg.cohBrcount t).addr ≠ CsReg.mcPkg.addr := by decide

/-- The service of requests leaves the sequencer, images, cores and memory as they were. -/
theorem State.atHome_frame (s : State) (r : Requester) (rs : List Reach) :
    (s.atHome r rs).keeper = s.keeper ∧ (s.atHome r rs).loader = s.loader ∧ (s.atHome r rs).lcs = s.lcs ∧
      (s.atHome r rs).mem = s.mem := by
  have kept : Kept (s.frame []) s.pending s.fuses (s.atHome r rs) := (s.kept_frame []).foldl fun _ _ h => h.served
  exact ⟨kept.same_of_notMem (part := .keeper) (by decide), kept.same_of_notMem (part := .loader) (by decide),
    kept.same_of_notMem (part := .lcs) (by decide), kept.same_of_notMem (part := .mem) (by decide)⟩

theorem State.image_congr {s t : State} (h : t.loader = s.loader) : t.image = s.image := by
  unfold State.image
  rw [h]

theorem State.servedBy_congr {s t : State} (h : t.loader = s.loader) : t.servedBy = s.servedBy := by
  have himage := State.image_congr h
  unfold State.servedBy State.parcelValid
  rw [himage]

theorem State.pkgSourceOk_congr {s t : State} (h : t.loader = s.loader) : t.pkgSourceOk = s.pkgSourceOk := by
  have himage := State.image_congr h
  unfold State.pkgSourceOk
  rw [himage]

/-- A package in force: its rebuild starts, and MC_STATUS answers DONE. -/
def State.pkgLoaded (s : State) (bs : List Byte) : State :=
  let mc := s.loader.mc
  ((s.rebuild (newPackages mc.packages (pkgParcel bs) bs) (s.servedBy mc.packages (pkgParcel bs))).setFld
    .mcStatus 19 16 0).setFld .mcStatus 23 20 0

/-- A package that passes every check of Table 7.9 is loaded in the state in which its reads have been served. -/
theorem State.mcCtlW_loads {s u : State} {m : Master} {hd bs : List Byte} {i : Image}
    (hadm : s.admits m CsReg.mcCtl.addr needW (s.privileged m) = true)
    (hmode : s.runOrQuiesce = true) (hidle : s.loader.mc.state = 0) (halign : s.fld .mcPkg 51 0 % 64 = 0)
    (hserve : s.homesServe (s.requester .keeper) .keeper (s.mcReach 1) = true)
    (hu : s.atHome (s.requester .keeper) (s.mcReach 1) = u)
    (hhead : u.peek (s.fld .mcPkg 51 0) 16 = some (hd, false))
    (hread : u.peek (s.fld .mcPkg 51 0) (pkgSize hd) = some (bs, false)) (himage : s.image = some i)
    (hcheck : pkgCheck i.keys i.parcelValid false bs = 0)
    (hsource : s.pkgSourceOk (s.fld .mcPkg 51 0) (pkgSize hd) = true) :
    s.mcCtlW m 1 = (s.reached (s.mcReach 1)).foldl (fun t e => t.caClear e.1) ((u.respond m .ok).pkgLoaded bs) := by
  obtain ⟨hkeeper, hloader, -, -⟩ := s.atHome_frame (s.requester .keeper) (s.mcReach 1)
  have hreg := s.atHome_reg mcPkg_ne_cohBrcount (s.requester .keeper) (s.mcReach 1)
  rw [hu] at hkeeper hloader hreg
  have hpkg : (u.respond m .ok).fld .mcPkg 51 0 = s.fld .mcPkg 51 0 := congrArg (bits · 51 0) hreg
  have hmode' : (u.respond m .ok).runOrQuiesce = true := by
    simpa only [State.runOrQuiesce, State.mode, State.respond, hkeeper] using hmode
  have hidle' : u.loader.mc.state = 0 := (congrArg (·.mc.state) hloader).trans hidle
  have himage' : (u.respond m .ok).image = some i := (State.image_congr hloader).trans himage
  have hsource' : (u.respond m .ok).pkgSourceOk = s.pkgSourceOk := State.pkgSourceOk_congr hloader
  have hload : bits 1#64 3 0 = 1 := by decide
  rw [State.mcCtlW, State.csAccess_admits _ _ _ _ _ _ hadm, State.admitMaster, State.admitAs_serves _ _ _ _ _ hserve, hu]
  simp [hpkg, hmode', hidle', himage', halign, hhead, hread, hcheck, hsource', hsource, hload, State.pkgLoaded]

theorem State.pkgLoaded_result (v : State) (bs : List Byte) :
    (v.pkgLoaded bs).fld .mcStatus 23 20 = 0 ∧ (v.pkgLoaded bs).fld .mcStatus 19 16 = 0 := by
  refine ⟨State.setFld_fld_self _ _ 23 20 0 (by decide) (by decide), ?_⟩
  refine (State.setFld_fld_apart _ _ 23 20 0 19 16 (by decide) (by decide) (.inr (by decide))).trans ?_
  exact State.setFld_fld_self _ _ 19 16 0 (by decide) (by decide)

theorem State.caClear_regs (s : State) (l : LineNo) : (s.caClear l).regs = s.regs := by
  unfold State.caClear
  split <;> simp

/-- Reads that have been answered leave registers, images, cores and memory as they were. -/
theorem State.foldl_caClear_frame (ls : List (LineNo × Bool × ReqKind)) (w : State) :
    let t := ls.foldl (fun t e => t.caClear e.1) w
    t.regs = w.regs ∧ t.loader = w.loader ∧ t.lcs = w.lcs ∧ t.mem = w.mem := by
  have kept : Kept (w.frame []) w.pending w.fuses (ls.foldl (fun t e => t.caClear e.1) w) :=
    (w.kept_frame []).foldl fun _ _ h => h.caClear
  refine ⟨State.foldl_keeps State.regs (fun t e => ?_) ls w,
    kept.same_of_notMem (part := .loader) (by decide), kept.same_of_notMem (part := .lcs) (by decide),
    kept.same_of_notMem (part := .mem) (by decide)⟩
  exact t.caClear_regs e.1

/-! ### The write phase of a rebuild (R189, R190) -/

/-- The inactive bank takes the contents that the packages in force give its parcel, and waits for its swap. -/
def LCore.bankWritten (mc : Rebuild) (c : LCore) : LCore :=
  let b := bankFor mc.packages (pswParcel c.psw) mc.epoch
  if c.activeBank then { c with bank0 := b, bankPend := true } else { c with bank1 := b, bankPend := true }

theorem LCore.bankWritten_effect (mc : Rebuild) (c : LCore) :
    (c.bankWritten mc).bankPend = true ∧ (c.bankWritten mc).activeBank = c.activeBank ∧
    (if c.activeBank then (c.bankWritten mc).bank0 else (c.bankWritten mc).bank1) =
      bankFor mc.packages (pswParcel c.psw) mc.epoch ∧
    (if c.activeBank then (c.bankWritten mc).bank1 else (c.bankWritten mc).bank0) =
      (if c.activeBank then c.bank1 else c.bank0) := by
  cases h : c.activeBank <;> simp [LCore.bankWritten, h]

/-- A core and every member of its group get the new contents. -/
def State.writeBank (mc : Rebuild) (s : State) (l : Lc) : State := (s.modLc l.val (LCore.bankWritten mc)).giveBanks l

/-- The members of a group stand on their island alone. -/
theorem State.giveBanks_isls (s : State) (l : Lc) : s.giveBanks l = { s with isls := (s.giveBanks l).isls } := by
  unfold State.giveBanks
  dsimp only
  split <;> rfl

theorem State.writeBank_mem (mc : Rebuild) (s : State) (l : Lc) : (s.writeBank mc l).mem = s.mem := by
  rw [State.writeBank, State.giveBanks_isls]
  rfl

theorem State.writeBank_regs (mc : Rebuild) (s : State) (l : Lc) : (s.writeBank mc l).regs = s.regs := by
  rw [State.writeBank, State.giveBanks_isls]
  rfl

theorem State.writeBank_lc (mc : Rebuild) (s : State) (l : Lc) (n : Nat) :
    (s.writeBank mc l).lc n = if l.val = n then (s.lc n).bankWritten mc else s.lc n := by
  rw [State.writeBank, State.giveBanks_isls]
  change (s.modLc l.val (LCore.bankWritten mc)).lc n = _
  split
  · next h => rw [← h, State.modLc, State.setLc_lc]
  · next h => exact State.setLc_lc_ne _ _ h

theorem State.foldl_writeBank_notMem {mc : Rebuild} {ls : List Lc} {l : Lc} (hl : l ∉ ls) (s : State) :
    (ls.foldl (State.writeBank mc) s).lc l.val = s.lc l.val := by
  induction ls generalizing s with
  | nil => rfl
  | cons k ls ih =>
    obtain ⟨hk, hls⟩ := not_or.mp (List.mem_cons.not.mp hl)
    rw [List.foldl_cons, ih hls, State.writeBank_lc, if_neg fun h => hk (Fin.ext h.symm)]

theorem State.foldl_writeBank_mem {mc : Rebuild} {ls : List Lc} {l : Lc} (hd : ls.Nodup) (hl : l ∈ ls) (s : State) :
    (ls.foldl (State.writeBank mc) s).lc l.val = (s.lc l.val).bankWritten mc := by
  induction ls generalizing s with
  | nil => cases hl
  | cons k ls ih =>
    obtain ⟨hk, hd⟩ := List.nodup_cons.mp hd
    rw [List.foldl_cons]
    rcases List.mem_cons.mp hl with rfl | hls
    · rw [State.foldl_writeBank_notMem hk, State.writeBank_lc, if_pos rfl]
    · have hne : k.val ≠ l.val := fun h => hk (Fin.ext h ▸ hls)
      rw [ih hd hls, State.writeBank_lc, if_neg hne]

theorem State.rebuilt_nodup (s : State) (ps : BitVec 16) : (s.rebuilt ps).Nodup := (List.nodup_finRange 192).filter _

/-- The write phase goes on while a core stands inside an instruction of its old bank. -/
theorem State.rebuildWritten_waits {s : State}
    (h : ∃ l ∈ s.rebuilt s.loader.mc.parcels, (s.lc l.val).runsOldBank = true) :
    s.rebuildWritten = s := by
  unfold State.rebuildWritten
  dsimp only
  split
  · rfl
  · exact if_pos (List.any_eq_true.mpr h)

theorem State.rebuildWritten_ends {s : State} (h2 : s.loader.mc.state = 2)
    (h : ∀ l ∈ s.rebuilt s.loader.mc.parcels, (s.lc l.val).runsOldBank = false) :
    let ls := s.rebuilt s.loader.mc.parcels
    let s1 := ls.foldl (State.writeBank s.loader.mc) s
    s.rebuildWritten = { s1 with
      loader := { s1.loader with mc := { s.loader.mc with state := if ls.isEmpty then 0 else 3 } } } := by
  unfold State.rebuildWritten
  rw [if_neg (by simp [h2]), if_neg (by simpa using h)]
  rfl

/-! ### The swap of banks (R189, R190) -/

/-- A swap at a synchronisation point, or where the group is stopped, changes the core's active bank, and what the voters
of its island find. -/
theorem State.bankSwap_effect {s : State} {l : Lc} {h : Slot} (hp : (s.lc l.val).bankPend = true)
    (hh : (s.lc l.val).host = some h)
    (hj : ∀ c ∈ ((s.isl (slotIsland h)).slots.get (slotPos h)).positions,
      ((s.isl (slotIsland h)).cores.get c).role ≠ .rejoining)
    (ho : (s.lc l.val).overrun = none) (hm : s.runOrQuiesce = true) :
    ∃ ld isls, s.bankSwap l = { s.setLc l.val
      { s.lc l.val with activeBank := !(s.lc l.val).activeBank, bankPend := false } with loader := ld, isls := isls } := by
  have hsync (u : State) : u.syncVoters l = { u with isls := (u.syncVoters l).isls } := by
    unfold State.syncVoters
    split <;> rfl
  have hjoin : (((s.isl (slotIsland h)).slots.get (slotPos h)).positions.any fun c =>
      ((s.isl (slotIsland h)).cores.get c).role == .rejoining) = false := by simpa using hj
  unfold State.bankSwap
  simp only [hh, hjoin]
  rw [if_neg (by simp [hp, ho, hm]), hsync]
  split <;> exact ⟨_, _, rfl⟩

/-- Settles O12: `State.mcCtlW_loads` starts the rebuild; the write phase (`State.rebuildWritten_ends`) writes each of its
cores once, because a list of cores has no repetitions; a swap changes one core (`State.bankSwap_effect`). -/
theorem microcodeBanks : Obligations.MicrocodeBanks := by
  unfold Obligations.MicrocodeBanks
  refine ⟨fun s u m hd bs i hadm hmode hidle halign hserve hu hhead hread himage hcheck hsource => ?_,
    fun s h2 => ⟨fun hw => congrArg Host.Outcome.next (State.rebuildWritten_waits hw), fun hw => ?_⟩,
    fun s l h hp hh hj ho hm => ?_⟩
  · obtain ⟨-, hloader, hlcs, hmem⟩ := s.atHome_frame (s.requester .keeper) (s.mcReach 1)
    rw [hu] at hloader hlcs hmem
    have hserved : (u.respond m .ok).servedBy = s.servedBy := State.servedBy_congr hloader
    have loads := State.mcCtlW_loads hadm hmode hidle halign hserve hu hhead hread himage hcheck hsource
    obtain ⟨hresult, hdetail⟩ := (u.respond m .ok).pkgLoaded_result bs
    obtain ⟨regs, loader, lcs, mem⟩ := State.foldl_caClear_frame (s.reached (s.mcReach 1))
      ((u.respond m .ok).pkgLoaded bs)
    rw [← loads] at regs loader lcs mem
    have hpkgs : (s.mcCtlW m 1).loader.mc = ⟨s.loader.mc.epoch + 1, 2,
        newPackages s.loader.mc.packages (pkgParcel bs) bs, s.servedBy s.loader.mc.packages (pkgParcel bs)⟩ := by
      rw [loader, ← hserved, ← hloader]
      rfl
    have hfld (hi lo : Nat) :
        (s.mcCtlW m 1).fld .mcStatus hi lo = ((u.respond m .ok).pkgLoaded bs).fld .mcStatus hi lo := by
      simp only [State.fld, State.reg, regs]
    refine ⟨_, rfl, (hfld 23 20).trans hresult, (hfld 19 16).trans hdetail, ?_⟩
    rw [hpkgs]
    exact ⟨rfl, rfl, List.mem_cons_self, rfl, lcs.trans hlcs, mem.trans hmem⟩
  · refine ⟨_, congrArg Host.Outcome.next (State.rebuildWritten_ends h2 hw), fun l hl => ?_, fun l hl => ?_,
      fun hne => ?_, ?_, ?_⟩
    · have hlc := State.foldl_writeBank_mem (mc := s.loader.mc) (s.rebuilt_nodup _) hl s
      have effect := (s.lc l.val).bankWritten_effect s.loader.mc
      rw [← hlc] at effect
      exact effect
    · exact State.foldl_writeBank_notMem hl s
    · simp [hne]
    · exact State.foldl_keeps State.mem (State.writeBank_mem s.loader.mc) _ s
    · exact State.foldl_keeps State.regs (State.writeBank_regs s.loader.mc) _ s
  · obtain ⟨ld, isls, hswap⟩ := State.bankSwap_effect hp hh hj ho hm
    refine ⟨_, congrArg Host.Outcome.next hswap, ?_, fun k hk => ?_, rfl⟩
    · exact s.setLc_lc l.val _
    · exact s.setLc_lc_ne _ fun heq => hk (Fin.ext heq.symm)

end Sys2Proof.Machine

/-! PROOF. Voting groups (O37, O38).  Resynchronisation, GRP_CTL, migration and the stops of a core change the islands, on
which a core and its slot are followed through the folds over a slot's positions; what quiets a slot, empties it, or reclaims
its lines changes the memory system alone. -/

namespace Sys2Proof.Machine

/-! ### What stays within the memory system

Caches, home slices, memory controllers and the requests between them write these tables alone: a follower that forgets
them sees no change.  The islands and the migrations in progress stand outside. -/

/-- The state without what an access to memory can change. -/
def State.offMemory (s : State) : State :=
  { s with regs := [], mem := [], poison := [], lcs := [], holders := [], slices := [], cts := [], outReqs := [], chans := []
           ports := [], srcBufs := [] }

theorem State.isls_of_offMemory {s t : State} (h : t.offMemory = s.offMemory) : t.isls = s.isls :=
  (congrArg State.isls h :)

theorem State.migrations_of_offMemory {s t : State} (h : t.offMemory = s.offMemory) : t.migrations = s.migrations :=
  (congrArg State.migrations h :)

section
variable (s : State)

@[simp] theorem State.ite_offMemory (P : Prop) [Decidable P] (t : State) :
    (if P then s else t).offMemory = if P then s.offMemory else t.offMemory := apply_ite State.offMemory P s t

@[simp] theorem State.setReg_offMemory (r : CsReg) (v : Word) : (s.setReg r v).offMemory = s.offMemory := rfl
@[simp] theorem State.setLc_offMemory (n : Nat) (v : LCore) : (s.setLc n v).offMemory = s.offMemory := rfl
@[simp] theorem State.setHolder_offMemory (n : Nat) (v : Holder) : (s.setHolder n v).offMemory = s.offMemory := rfl
@[simp] theorem State.setSlice_offMemory (n : Nat) (v : SliceSt) : (s.setSlice n v).offMemory = s.offMemory := rfl
@[simp] theorem State.setCt_offMemory (n : Nat) (v : CtSt) : (s.setCt n v).offMemory = s.offMemory := rfl
@[simp] theorem State.setChan_offMemory (n : Nat) (v : ChanSt) : (s.setChan n v).offMemory = s.offMemory := rfl
@[simp] theorem State.setPort_offMemory (n : Nat) (v : PortSt) : (s.setPort n v).offMemory = s.offMemory := rfl
@[simp] theorem State.setPoison_offMemory (l : LineNo) (p : Bool) : (s.setPoison l p).offMemory = s.offMemory := rfl
@[simp] theorem State.setMemLine_offMemory (l : LineNo) (d : Line) (p : Bool) :
    (s.setMemLine l d p).offMemory = s.offMemory := rfl
@[simp] theorem State.clearResvs_offMemory (l : LineNo) (except : Option Lc) :
    (s.clearResvs l except).offMemory = s.offMemory := rfl
@[simp] theorem State.dropReq_offMemory (r : Requester) (l : LineNo) : (s.dropReq r l).offMemory = s.offMemory := rfl
@[simp] theorem State.unstarve_offMemory (h : Nat) (l : LineNo) (r : Requester) :
    (s.unstarve h l r).offMemory = s.offMemory := rfl
@[simp] theorem State.modTxn_offMemory (h : Nat) (l : LineNo) (f : Txn → Txn) :
    (s.modTxn h l f).offMemory = s.offMemory := rfl
@[simp] theorem State.sfPut_offMemory (h : Nat) (e : SfEntry) : (s.sfPut h e).offMemory = s.offMemory := rfl
@[simp] theorem State.sfInsert_offMemory (h : Nat) (l : LineNo) (w : Nat) : (s.sfInsert h l w).offMemory = s.offMemory := rfl
@[simp] theorem State.sfAge_offMemory (h : Nat) (l : LineNo) (up : Nat) : (s.sfAge h l up).offMemory = s.offMemory := rfl

@[simp] theorem State.report_offMemory (a b c d : Nat) : (s.report a b c d).offMemory = s.offMemory := by
  rw [State.report_srcBufs]
  rfl

@[simp] theorem State.dramApply_offMemory (e : WqEntry) : (s.dramApply e).offMemory = s.offMemory := by
  simp [State.dramApply]

@[simp] theorem State.mcAccept_offMemory (t off : Nat) (e : WqEntry) : (s.mcAccept t off e).offMemory = s.offMemory := by
  simp [State.mcAccept]

@[simp] theorem State.caClear_offMemory (l : LineNo) : (s.caClear l).offMemory = s.offMemory := by
  unfold State.caClear
  split <;> simp

@[simp] theorem State.markBreach_offMemory (l : LineNo) : (s.markBreach l).offMemory = s.offMemory := by
  unfold State.markBreach
  dsimp only
  split <;> simp

@[simp] theorem State.brLog_offMemory (l : LineNo) (cause holder : Nat) :
    (s.brLog l cause holder).offMemory = s.offMemory := by
  unfold State.brLog
  split <;> simp

@[simp] theorem State.cxlDrop_offMemory (p : Port) (l : LineNo) : (s.cxlDrop p l).offMemory = s.offMemory := by
  simp [State.cxlDrop]

@[simp] theorem State.homeWrite_offMemory (l : LineNo) (mask : BitVec 128) (d : Line) (poison : Bool) :
    (s.homeWrite l mask d poison).offMemory = s.offMemory := by
  unfold State.homeWrite
  split <;> simp

@[simp] theorem State.victimAccept_offMemory (h : Nat) : (s.victimAccept h).offMemory = s.offMemory := by
  unfold State.victimAccept
  split <;> simp

@[simp] theorem State.victimsFor_offMemory (h : Nat) (l : LineNo) (n : Nat) :
    (s.victimsFor h l n).offMemory = s.offMemory := by
  induction n generalizing s with
  | zero => rfl
  | succ n ih => simp [State.victimsFor, ih]

@[simp] theorem State.victimSettle_offMemory (l : LineNo) : (s.victimSettle l).offMemory = s.offMemory := by
  unfold State.victimSettle
  split <;> simp

@[simp] theorem State.waitFill_offMemory (l : LineNo) : (s.waitFill l).offMemory = s.offMemory := by
  unfold State.waitFill
  split <;> simp

@[simp] theorem State.basinDrop_offMemory (l : LineNo) : (s.basinDrop l).offMemory = s.offMemory := by
  unfold State.basinDrop
  split <;> simp

@[simp] theorem State.basinFill_offMemory (l : LineNo) (d : Line) (dirty poison : Bool) (mask age hit : Nat) :
    (s.basinFill l d dirty poison mask age hit).offMemory = s.offMemory := by
  unfold State.basinFill
  split
  · rfl
  · dsimp only
    split
    · simp
    · split
      · simp
      · split <;> simp

@[simp] theorem State.sfTouch_offMemory (l : LineNo) : (s.sfTouch l).offMemory = s.offMemory := by
  unfold State.sfTouch
  split <;> simp

@[simp] theorem State.sfMod_offMemory (h : Nat) (l : LineNo) (f : SfEntry → SfEntry) :
    (s.sfMod h l f).offMemory = s.offMemory := by
  unfold State.sfMod
  split <;> simp

@[simp] theorem State.maintTouch_offMemory (l : LineNo) : (s.maintTouch l).offMemory = s.offMemory := by
  unfold State.maintTouch
  split <;> simp

@[simp] theorem State.writeback_offMemory (sl : Slot) (l : LineNo) : (s.writeback sl l).offMemory = s.offMemory := by
  unfold State.writeback
  split <;> simp

@[simp] theorem State.homeArrive_offMemory (l : LineNo) : (s.homeArrive l).offMemory = s.offMemory := by
  rw [State.homeArrive, State.victimSettle_offMemory]
  exact State.foldl_keeps State.offMemory (fun s x => s.writeback_offMemory x l) _ s

@[simp] theorem State.endHold_offMemory (sl : Slot) : (s.endHold sl).offMemory = s.offMemory := by
  unfold State.endHold
  split <;> simp

@[simp] theorem State.slotInvalidate_offMemory (sl : Nat) (l : LineNo) : (s.slotInvalidate sl l).offMemory = s.offMemory := by
  unfold State.slotInvalidate
  dsimp only
  split
  · simp
  · split <;> simp

@[simp] theorem State.snoopWrite_offMemory (l : LineNo) (d : Line) (poison : Bool) :
    (s.snoopWrite l d poison).offMemory = s.offMemory := by
  unfold State.snoopWrite
  dsimp only
  split <;> simp

@[simp] theorem State.snoop_offMemory (sl : Slot) (l : LineNo) (k : Snoop) (starving : Bool) :
    (s.snoop sl l k starving).1.offMemory = s.offMemory := by
  unfold State.snoop
  dsimp only
  split
  · rfl
  · split
    · rfl
    · split
      · rfl
      · cases k <;> dsimp only
        case peek | probe => simp
        all_goals split <;> simp

/-- Every holder of a line loses it (R279, R289). -/
theorem State.foldl_snoop_offMemory (l : LineNo) (xs : List Slot) :
    (xs.foldl (fun s x => ((s.endHold x).snoop x l .inv true).1) s).offMemory = s.offMemory :=
  State.foldl_keeps State.offMemory (fun s x => by simp) xs s

@[simp] theorem State.sfMake_offMemory (h : Slice) (l : LineNo) : (s.sfMake h l).offMemory = s.offMemory := by
  unfold State.sfMake
  split
  · simp
  · split
    · rfl
    · dsimp only
      split <;> simp [State.foldl_snoop_offMemory]

@[simp] theorem State.retake_offMemory (sl : Slot) (l : LineNo) : (s.retake sl l).offMemory = s.offMemory := by
  simp [State.retake]

@[simp] theorem State.evictResv_offMemory (sl : Slot) : (s.evictResv sl).offMemory = s.offMemory := by
  unfold State.evictResv
  split
  · rfl
  · dsimp only
    split <;> simp

@[simp] theorem State.issueReq_offMemory (r : Requester) (l : LineNo) (k : ReqKind) :
    (s.issueReq r l k).offMemory = s.offMemory := by
  unfold State.issueReq State.issue
  split
  · rfl
  · split <;> rfl

@[simp] theorem State.drainStores_offMemory (sl : Slot) (lc : Lc) (n : Nat) :
    (s.drainStores sl lc n).offMemory = s.offMemory := by
  induction n generalizing s with
  | zero => rfl
  | succ n ih =>
    unfold State.drainStores
    split <;> simp [ih]

@[simp] theorem State.drainSlot_offMemory (sl : Slot) : (s.drainSlot sl).offMemory = s.offMemory := by
  unfold State.drainSlot
  split
  · dsimp only
    split <;> simp
  · rfl

@[simp] theorem State.install_offMemory (sl : Slot) (l : LineNo) (st : Moesi) (fetch stream : Bool)
    (data : Option (Line × Bool)) : (s.install sl l st fetch stream data).offMemory = s.offMemory := by
  simp [State.install]

@[simp] theorem State.ownLine_offMemory (sl : Slot) (l : LineNo) : (s.ownLine sl l).offMemory = s.offMemory := by
  unfold State.ownLine
  split
  · rfl
  · dsimp only
    cases s.homeSlice l <;> simp [State.foldl_snoop_offMemory]

theorem State.flushStores_offMemory (sl : Slot) (lc : Lc) (n : Nat) :
    (s.flushStores sl lc n).offMemory = s.offMemory := by
  induction n generalizing s with
  | zero => rfl
  | succ n ih =>
    unfold State.flushStores
    split <;> simp [ih]

/-- The stores of a core that stops are written (R207). -/
@[simp] theorem State.quiet_offMemory (sl : Slot) (lc : Lc) : (s.quiet sl lc).offMemory = s.offMemory :=
  s.flushStores_offMemory sl lc _

@[simp] theorem State.nack_offMemory (h : Slice) (r : Requester) (l : LineNo) (k : ReqKind) (full : Bool) :
    (s.nack h r l k full).offMemory = s.offMemory := by
  have predict (t : State) : (t.nackPredict r l).offMemory = t.offMemory := by
    unfold State.nackPredict
    split
    · split <;> simp
    · rfl
  have count (t : State) (hi lo : Nat) : (t.bump (.sfStat h) hi lo 1).offMemory = t.offMemory := t.setReg_offMemory _ _
  unfold State.nack
  extract_lets o age other o1 s1 s2 s3 known s4
  have h1 : s1.offMemory = s.offMemory := rfl
  clear_value s1
  have h3 : s3.offMemory = s.offMemory := by rw [State.ite_offMemory, count, count, h1, ite_self]
  clear_value s3
  rw [predict, State.ite_offMemory, count, State.modSlice_eq, State.setSlice_offMemory, h3, ite_self]

@[simp] theorem State.evictClean_offMemory (sl : Slot) (l : LineNo) : (s.evictClean sl l).offMemory = s.offMemory := by
  unfold State.evictClean
  split <;> simp

/-- A slot sends its lines home (R229, R276). -/
@[simp] theorem State.emptySlot_offMemory (sl : Slot) : (s.emptySlot sl).offMemory = s.offMemory := by
  have evict (xs : List CLine) (t : State) : (xs.foldl (fun s c => s.evictClean sl c.line) t).offMemory = t.offMemory :=
    State.foldl_keeps State.offMemory (fun s c => s.evictClean_offMemory sl c.line) xs t
  have writeback (xs : List CLine) (t : State) :
      (xs.foldl (fun s c => if c.st == .m || c.st == .o then s.writeback sl c.line else s) t).offMemory = t.offMemory :=
    State.foldl_keeps State.offMemory (fun s c => by simp) xs t
  simp only [State.emptySlot, evict, writeback, State.setHolder_offMemory]

/-! ### Agent death reclaims lines (R297 to R303) -/

theorem State.dropTxn_offMemory (h : Nat) (l : LineNo) : (s.dropTxn h l).offMemory = s.offMemory := by
  simp [State.dropTxn]

theorem State.startTxn_offMemory (h : Slice) (t : Txn) : (s.startTxn h t).offMemory = s.offMemory := by
  unfold State.startTxn
  split
  · rfl
  · dsimp only
    rw [State.modSlice_eq, State.setSlice_offMemory, State.sfPut_offMemory]

theorem State.backInvDone_offMemory (h : Slice) (v : LineNo) : (s.backInvDone h v).offMemory = s.offMemory := by
  unfold State.backInvDone
  dsimp only
  split
  · rfl
  · rw [State.startTxn_offMemory, State.sfInsert_offMemory, State.modSlice_eq, State.setSlice_offMemory]

theorem State.deathTxns_offMemory (h : Slice) (dead : List Nat) : (s.deathTxns h dead).offMemory = s.offMemory := by
  unfold State.deathTxns
  refine State.foldl_keeps State.offMemory (fun s t => ?_) _ s
  rw [State.ite_offMemory, State.dropTxn_offMemory]
  refine ite_eq_left_iff.mpr fun _ => ?_
  dsimp only
  split <;> simp [State.backInvDone_offMemory]

theorem State.deathBreach_offMemory (l : LineNo) (holder : Nat) : (s.deathBreach l holder).offMemory = s.offMemory := by
  have breach : (s.breachLine l 0 holder).offMemory = s.offMemory := by
    unfold State.breachLine
    dsimp only
    split <;> simp
  unfold State.deathBreach
  split
  · rfl
  · simp [breach]

theorem State.reclaimEntry_offMemory (h : Slice) (e : SfEntry) (dead : List Nat) (dt : Nat) (tile : Bool) :
    (s.reclaimEntry h e dead dt tile).offMemory = s.offMemory := by
  unfold State.reclaimEntry State.recoverLine
  extract_lets ht live code named clear heir free
  clear_value code named clear heir free
  split
  · rfl
  · split
    · simp
    · split
      · simp
      · split <;> simp [State.deathBreach_offMemory]

/-- The death of an agent that is no tile. -/
theorem State.agentDeath_offMemory (dead : List Nat) (dt : Nat) : (s.agentDeath dead dt false).offMemory = s.offMemory := by
  have clear (ls : List LineNo) (t : State) : (ls.foldl (fun s l => s.clearResvs l none) t).offMemory = t.offMemory :=
    State.foldl_keeps State.offMemory (fun s l => s.clearResvs_offMemory l none) ls t
  have reclaim (h : Slice) (es : List SfEntry) (t : State) :
      (es.foldl (fun s e => s.reclaimEntry h e dead dt false) t).offMemory = t.offMemory :=
    State.foldl_keeps State.offMemory (fun s e => s.reclaimEntry_offMemory h e dead dt false) es t
  unfold State.agentDeath
  extract_lets s0 slices s1 s2 s3
  have h0 : s0.offMemory = s.offMemory := by
    refine State.foldl_keeps State.offMemory (fun t c => ?_) s.liveCts s
    rw [State.setFld_eq, State.setReg_offMemory, State.modCt_eq, State.setCt_offMemory]
  have h1 : s1.offMemory = s0.offMemory := by
    refine State.foldl_keeps State.offMemory (fun t h => ?_) slices s0
    rw [State.deathTxns_offMemory, reclaim, State.modSlice_eq, State.setSlice_offMemory]
  have h2 : s2.offMemory = s1.offMemory :=
    State.foldl_keeps State.offMemory (fun t d => (State.setHolder_offMemory _ _ _).trans (clear _ t)) dead s1
  exact h2.trans (h1.trans h0)

end
end Sys2Proof.Machine

namespace Sys2Proof.Machine

/-! ### The cores and slots of an island -/

section
variable (x : Isl) (c d k : Fin 4)

@[simp] theorem Isl.modCore_cores_get (f : PCore → PCore) :
    (x.modCore c f).cores.get d = if d = c then f (x.cores.get c) else x.cores.get d := vector_get_set ..
@[simp] theorem Isl.modSlot_slots_get (j : Fin 4) (f : IslSlot → IslSlot) :
    (x.modSlot k f).slots.get j = if j = k then f (x.slots.get k) else x.slots.get j := vector_get_set ..
@[simp] theorem Isl.modCore_slots (f : PCore → PCore) : (x.modCore c f).slots = x.slots := rfl
@[simp] theorem Isl.modSlot_cores (f : IslSlot → IslSlot) : (x.modSlot k f).cores = x.cores := rfl

/-- The voter copies in service, out of service until COMPOSE, and with failing rails (R234). -/
def Isl.voters (x : Isl) : BitVec 3 × BitVec 3 × BitVec 3 := (x.voterOk, x.voterDead, x.voterBad)

@[simp] theorem Isl.modCore_voters (f : PCore → PCore) : (x.modCore c f).voters = x.voters := rfl
@[simp] theorem Isl.modSlot_voters (f : IslSlot → IslSlot) : (x.modSlot k f).voters = x.voters := rfl

end

/-- A change of each core of a list that is the same when done twice: the cores of the list have it. -/
theorem Isl.foldl_modCore_get {f : Fin 4 → PCore → PCore} (hf : ∀ c y, f c (f c y) = f c y) (cs : List (Fin 4)) (x : Isl)
    (d : Fin 4) : (cs.foldl (fun x c => x.modCore c (f c)) x).cores.get d =
      if d ∈ cs then f d (x.cores.get d) else x.cores.get d := by
  induction cs generalizing x with
  | nil => simp
  | cons c cs ih =>
    rw [List.foldl_cons, ih]
    by_cases hd : d = c
    · subst hd
      simp [hf]
    · simp [hd]

theorem Isl.foldl_modCore_keeps {β : Type} (φ : Isl → β) {f : Fin 4 → PCore → PCore}
    (hφ : ∀ x c, φ (x.modCore c (f c)) = φ x) (cs : List (Fin 4)) (x : Isl) :
    φ (cs.foldl (fun x c => x.modCore c (f c)) x) = φ x := by
  induction cs generalizing x with
  | nil => rfl
  | cons c cs ih => rw [List.foldl_cons, ih, hφ]

/-- The core in another role. -/
def PCore.inRole (r : Role) (y : PCore) : PCore := { y with role := r }

/-- A slot's healthy cores take one role, replica or simplex core; every other core stands (R197). -/
theorem Isl.fixRoles_cores_get (x : Isl) (k c : Fin 4) : ∃ r : Role, (r = .replica ∨ r = .simplex) ∧
    (x.fixRoles k).cores.get c = if c ∈ (x.slots.get k).positions ∧ (x.cores.get c).healthy = true
      then (x.cores.get c).inRole r else x.cores.get c := by
  unfold Isl.fixRoles
  extract_lets hs r
  have hr : r = .replica ∨ r = .simplex := by
    simp only [r]
    split <;> simp
  clear_value r
  refine ⟨r, hr, (Isl.foldl_modCore_get (f := fun _ => PCore.inRole r) (fun _ _ => rfl) hs x c).trans ?_⟩
  simp only [hs, List.mem_filter]

@[simp] theorem Isl.fixRoles_slots (x : Isl) (k : Fin 4) : (x.fixRoles k).slots = x.slots :=
  Isl.foldl_modCore_keeps Isl.slots (fun _ _ => rfl) _ x

@[simp] theorem Isl.fixRoles_voters (x : Isl) (k : Fin 4) : (x.fixRoles k).voters = x.voters :=
  Isl.foldl_modCore_keeps Isl.voters (fun _ _ => rfl) _ x

/-- SLOT_STATE alone is derived anew. -/
theorem Isl.refresh_eq (x : Isl) (k : Fin 4) : ∃ st, x.refresh k = x.modSlot k fun y => { y with st := st } := by
  have same : x.modSlot k (fun y => { y with st := (x.slots.get k).st }) = x := by
    have h : x.slots.set k (x.slots.get k) = x.slots := Vector.set_getElem_self ..
    simp only [Isl.modSlot, h]
  unfold Isl.refresh
  dsimp only
  split
  · exact ⟨_, rfl⟩
  · split
    · exact ⟨_, same.symm⟩
    · exact ⟨_, rfl⟩

end Sys2Proof.Machine

namespace Sys2Proof.Machine

/-- Where a command's state is known, so is its answer once the mode has settled (R64). -/
theorem State.next_settleMode {s t : State} (h : s = t) :
    (.next s.settleMode : Host.Outcome State Fault Refusal) = .next t.settleMode := congrArg _ (congrArg State.settleMode h)

/-! ### Slots, their islands and the cores on them -/

@[simp] theorem hostIsland_slotAt (i : Island) (k : Fin 4) : hostIsland (slotAt i k) = i := by
  ext
  simp only [hostIsland, slotAt]
  omega

@[simp] theorem slotPos_slotAt (i : Island) (k : Fin 4) : slotPos (slotAt i k) = k := by
  ext
  simp only [slotPos, slotAt]
  omega

section
variable (s : State) (i : Island)

@[simp] theorem State.modCore_isl (c : Fin 4) (f : PCore → PCore) :
    (s.modCore i c f).isl i.val = (s.isl i.val).modCore c f := State.setIsl_isl ..

/-- A change of cores on one island changes that island core by core. -/
theorem State.foldl_modCore_isl (f : Fin 4 → PCore → PCore) (cs : List (Fin 4)) :
    (cs.foldl (fun s c => s.modCore i c (f c)) s).isl i.val = cs.foldl (fun x c => x.modCore c (f c)) (s.isl i.val) := by
  induction cs generalizing s with
  | nil => rfl
  | cons c cs ih => rw [List.foldl_cons, ih, State.modCore_isl, List.foldl_cons]

/-- The state without the islands: what changes of cores and slots leave alone. -/
def State.offIslands (s : State) : State := { s with isls := [] }

@[simp] theorem State.setIsl_offIslands (n : Nat) (x : Isl) : (s.setIsl n x).offIslands = s.offIslands := rfl
@[simp] theorem State.modCore_offIslands (c : Fin 4) (f : PCore → PCore) :
    (s.modCore i c f).offIslands = s.offIslands := rfl
@[simp] theorem State.settleSlot_offIslands (k : Fin 4) : (s.settleSlot i k).offIslands = s.offIslands := rfl
@[simp] theorem State.giveBanks_offIslands (lc : Lc) : (s.giveBanks lc).offIslands = s.offIslands := by
  rw [State.giveBanks_isls]
  rfl

theorem State.foldl_modCore_offIslands (f : Fin 4 → PCore → PCore) (cs : List (Fin 4)) :
    (cs.foldl (fun s c => s.modCore i c (f c)) s).offIslands = s.offIslands :=
  State.foldl_keeps State.offIslands (fun s c => s.modCore_offIslands i c (f c)) cs s

/-- A group event is a fault message and GRP_LAST (Table 8.9). -/
@[simp] theorem State.grpEvent_fields (src ev cls addr core sl off : Nat) :
    let t := s.grpEvent i src ev cls addr core sl off
    t.isls = s.isls ∧ t.lcs = s.lcs ∧ t.mem = s.mem ∧ t.holders = s.holders ∧ t.slices = s.slices ∧
      t.migrations = s.migrations := by
  unfold State.grpEvent State.report
  split <;> simp

@[simp] theorem State.grpEvent_reads (src ev cls addr core sl off n : Nat) :
    let t := s.grpEvent i src ev cls addr core sl off
    t.isl n = s.isl n ∧ t.lc n = s.lc n ∧ t.holder n = s.holder n ∧ t.slice n = s.slice n := by
  simp [State.grpEvent]

theorem State.settleSlot_isl (k : Fin 4) : (s.settleSlot i k).isl i.val = ((s.isl i.val).fixRoles k).refresh k :=
  State.setIsl_isl ..

@[simp] theorem State.settleSlot_voters (k : Fin 4) : ((s.settleSlot i k).isl i.val).voters = (s.isl i.val).voters := by
  obtain ⟨st, hst⟩ := ((s.isl i.val).fixRoles k).refresh_eq k
  rw [State.settleSlot_isl, hst, Isl.modSlot_voters, Isl.fixRoles_voters]

/-- A slot that settles gives its healthy cores one role, and changes no other core (R197). -/
theorem State.settleSlot_cores_get (k c : Fin 4) : ∃ r : Role, (r = .replica ∨ r = .simplex) ∧
    ((s.settleSlot i k).isl i.val).cores.get c =
      if c ∈ ((s.isl i.val).slots.get k).positions ∧ ((s.isl i.val).cores.get c).healthy = true
      then ((s.isl i.val).cores.get c).inRole r else (s.isl i.val).cores.get c := by
  obtain ⟨st, hst⟩ := ((s.isl i.val).fixRoles k).refresh_eq k
  rw [State.settleSlot_isl, hst, Isl.modSlot_cores]
  exact Isl.fixRoles_cores_get ..

/-- A failed core stays failed where its slot settles. -/
theorem State.settleSlot_failed (k c : Fin 4) (h : ((s.isl i.val).cores.get c).role = .failed) :
    (((s.settleSlot i k).isl i.val).cores.get c).role = .failed := by
  have hsick : ((s.isl i.val).cores.get c).healthy = false := by simp [PCore.healthy, h]
  obtain ⟨r, -, hget⟩ := s.settleSlot_cores_get i k c
  rw [hget, if_neg (by simp [hsick]), h]

/-- The core without its two banks. -/
def PCore.offBanks (y : PCore) : PCore := { y with bank0 := WcsBank.init, bank1 := WcsBank.init }

/-- The members of a group take the banks of their logical core, and change in nothing else (R189). -/
theorem State.giveBanks_follow {β : Type} (φ : Isl → β)
    (hφ : ∀ (x : Isl) (c : Fin 4) (a b : WcsBank), φ (x.modCore c fun y => { y with bank0 := a, bank1 := b }) = φ x)
    (lc : Lc) (n : Nat) : φ ((s.giveBanks lc).isl n) = φ (s.isl n) := by
  unfold State.giveBanks
  dsimp only
  split
  · rfl
  · next h _ =>
    by_cases hn : (hostIsland h).val = n
    · subst hn
      rw [State.modIsl_eq, State.setIsl_isl]
      exact Isl.foldl_modCore_keeps φ (f := fun _ y => { y with bank0 := _, bank1 := _ }) (fun x c => hφ x c _ _) _ _
    · rw [State.modIsl_eq, State.setIsl_isl_ne _ _ hn]

theorem State.giveBanks_cores_get (lc : Lc) (n : Nat) (c : Fin 4) :
    (((s.giveBanks lc).isl n).cores.get c).offBanks = ((s.isl n).cores.get c).offBanks := by
  refine s.giveBanks_follow (fun x => (x.cores.get c).offBanks) (fun x d a b => ?_) lc n
  rw [Isl.modCore_cores_get]
  split
  · next h => rw [h]; rfl
  · rfl

@[simp] theorem State.giveBanks_slots (lc : Lc) (n : Nat) : ((s.giveBanks lc).isl n).slots = (s.isl n).slots :=
  s.giveBanks_follow Isl.slots (fun _ _ _ _ => rfl) lc n

@[simp] theorem State.giveBanks_voters (lc : Lc) (n : Nat) : ((s.giveBanks lc).isl n).voters = (s.isl n).voters :=
  s.giveBanks_follow Isl.voters (fun _ _ _ _ => rfl) lc n

/-! ### A core stops at the boundary it stands at (R182, R207) -/

theorem State.quiet_isl (sl : Slot) (lc : Lc) (n : Nat) : (s.quiet sl lc).isl n = s.isl n :=
  congrArg (fun t => Table.get Isl.init t n) (State.isls_of_offMemory (s.quiet_offMemory sl lc))

theorem State.quietStop_isl (sl : Slot) (lc : Lc) :
    (s.quietStop sl lc).isl (hostIsland sl).val = (s.isl (hostIsland sl).val).voterCheck := by
  simp [State.quietStop, State.quiet_isl]

/-- Voter copies that pass the self-check, and have passed it before, are in service (R234). -/
theorem Isl.voterCheck_again {x u : Isl} (h : u.voters = x.voterCheck.voters) :
    u.voterCheck.voterOk = x.voterOk ||| ~~~(x.voterDead ||| x.voterBad) := by
  obtain ⟨hok, hdead, hbad⟩ : u.voterOk = x.voterOk ||| ~~~(x.voterDead ||| x.voterBad) ∧ u.voterDead = x.voterDead ∧
      u.voterBad = x.voterBad := by
    simpa [Isl.voters, Isl.voterCheck] using h
  rw [Isl.voterCheck, hok, hdead, hbad, BitVec.or_assoc, BitVec.or_self]

/-! ### Failed cores (R197, R222, R228) -/

/-- A core that is replaced has failed. -/
theorem State.replaceCore_failed (c : Fin 4) :
    (((s.replaceCore i c).isl i.val).cores.get c).role = .failed ∧ (s.replaceCore i c).mem = s.mem := by
  unfold State.replaceCore
  extract_lets x k s1 held t2
  have h1 : ((s1.isl i.val).cores.get c).role = .failed := by simp [s1, PCore.fail]
  split
  · simp [PCore.fail, State.modCore]
  · split
    · next hspare =>
      have h3 : c ≠ 3 := by simp at hspare; exact hspare.2
      extract_lets s2
      have h2 := s2.settleSlot_failed i k c (by simp [s2, h1, h3])
      exact ⟨by simp [State.coreEvent, h2], by simp [State.coreEvent]; rfl⟩
    · have h2 : ((t2.isl i.val).cores.get c).role = .failed := State.settleSlot_failed _ i k c (by simp [h1])
      extract_lets s3
      split
      · exact ⟨by simp [State.slotEvent, s3, State.requestMigration, h2], by simp [State.slotEvent]; rfl⟩
      · exact ⟨by simp [s3, State.requestMigration, h2], rfl⟩

theorem State.resyncFail_failed (c : Fin 4) :
    (((s.resyncFail i c).isl i.val).cores.get c).role = .failed ∧ (s.resyncFail i c).mem = s.mem := by
  unfold State.resyncFail
  split
  · simp [PCore.fail, State.modCore]
  · obtain ⟨hrole, hmem⟩ := (s.coreEvent i c evResyncFail clsContained 0).replaceCore_failed i c
    exact ⟨hrole, hmem.trans (by simp [State.coreEvent])⟩

/-- A hard fault of a simplex core that serves fails it (R228). -/
theorem State.simplexHard_failed (c : Fin 4) (off : Nat) {lc : Lc} (hlc : ((s.isl i.val).cores.get c).lc = some lc)
    (hh : ((s.isl i.val).cores.get c).healthy = true) :
    (((s.simplexHard i c off).isl i.val).cores.get c).role = .failed ∧ (s.simplexHard i c off).mem = s.mem := by
  unfold State.simplexHard
  split
  · next hnone => exact absurd (hlc.symm.trans hnone) (Option.some_ne_none _)
  · next hsick _ => exact absurd (hh.symm.trans hsick) Bool.true_eq_false.mp
  · extract_lets k s1 s2 s3
    have h3 : ((s3.isl i.val).cores.get c).role = .failed ∧ s3.mem = s.mem := by
      simp [s3, s2, s1, State.requestMigration, State.coreEvent, PCore.fail, State.modCore]
    split
    · simp [State.slotEvent, h3]
    · exact h3

/-! ### The vote on outputs (R212, R215) -/

theorem verdict_of_forall_eq {α : Type} [DecidableEq α] {vs : List (Fin 4 × α)} {a : α} (h : ∀ v ∈ vs, v.2 = a) :
    verdict vs = .agree := by
  match vs with
  | [] | [_] => rfl
  | [_, _] => simp_all [verdict]
  | _ :: _ :: _ :: _ => simp_all [verdict]

/-- A change that leaves each core of a list as it is. -/
theorem Isl.foldl_modCore_fixed {f : Fin 4 → PCore → PCore} {cs : List (Fin 4)} {x : Isl}
    (h : ∀ c ∈ cs, f c (x.cores.get c) = x.cores.get c) : cs.foldl (fun x c => x.modCore c (f c)) x = x := by
  induction cs with
  | nil => rfl
  | cons c cs ih =>
    have hc : x.modCore c (f c) = x := by
      have hset : x.cores.set c (x.cores.get c) = x.cores := Vector.set_getElem_self ..
      rw [Isl.modCore, h c List.mem_cons_self, hset]
    rw [List.foldl_cons, hc, ih fun d hd => h d (List.mem_cons_of_mem _ hd)]

/-- An output that nothing strikes is released, and changes no core. -/
theorem State.voteOut_unstruck (k : Fin 4) (h : s.outStruck (slotAt i k) = false) : ∃ v : State,
    s.voteOut (slotAt i k) = (v, true) ∧ v.isl i.val = s.isl i.val ∧ v.offIslands = s.offIslands := by
  have hout : ∀ c ∈ (s.isl i.val).voting k, ((s.isl i.val).cores.get c).outUpsets = [] := by
    simpa [State.outStruck] using h
  refine ⟨((s.isl i.val).voting k).foldl (fun s c => s.modCore i c fun y => { y with outUpsets := y.outUpsets.tail }) s,
    ?_, ?_, s.foldl_modCore_offIslands i (fun _ y => { y with outUpsets := y.outUpsets.tail }) _⟩
  · have hagree : verdict (((s.isl i.val).voting k).map fun c => (c, ((s.isl i.val).cores.get c).outUpsets.headD 0)) =
        .agree := verdict_of_forall_eq (a := 0) (by simpa using fun c hc => by simp [hout c hc])
    unfold State.voteOut
    simp only [hostIsland_slotAt, slotPos_slotAt, hagree]
    cases s.slotLc (slotAt i k) <;> rfl
  · refine (s.foldl_modCore_isl i (fun _ y => { y with outUpsets := y.outUpsets.tail }) _).trans ?_
    refine Isl.foldl_modCore_fixed fun c hc => ?_
    have htail : ((s.isl i.val).cores.get c).outUpsets.tail = ((s.isl i.val).cores.get c).outUpsets := by rw [hout c hc]; rfl
    rw [htail]

end
end Sys2Proof.Machine

namespace Sys2Proof.Machine

/-! ### A core that serves -/

/-- A core that runs for its slot, and is not being resynchronised. -/
def PCore.Serves (y : PCore) : Prop := (y.role = .replica ∨ y.role = .simplex) ∧ y.odd = false ∧ y.phase = .none

theorem PCore.Serves.inRole {y : PCore} (h : y.Serves) {r : Role} (hr : r = .replica ∨ r = .simplex) :
    (y.inRole r).Serves := ⟨hr, h.2⟩

theorem PCore.Serves.of_offBanks {y z : PCore} (h : y.Serves) (hz : z.offBanks = y.offBanks) : z.Serves := by
  have hrole : z.role = y.role := (congrArg PCore.role hz :)
  have hodd : z.odd = y.odd := (congrArg PCore.odd hz :)
  have hphase : z.phase = y.phase := (congrArg PCore.phase hz :)
  rwa [PCore.Serves, hrole, hodd, hphase]

theorem State.settleSlot_serves (s : State) (i : Island) (k c : Fin 4) (h : ((s.isl i.val).cores.get c).Serves) :
    (((s.settleSlot i k).isl i.val).cores.get c).Serves := by
  obtain ⟨r, hr, hget⟩ := s.settleSlot_cores_get i k c
  rw [hget]
  split
  · exact h.inRole hr
  · exact h

/-! ### The phases of a resynchronisation (R218 to R221) -/

/-- With the islands put back, a change of islands alone is undone. -/
theorem State.restore_isls {s v : State} (h : v.offIslands = s.offIslands) : { v with isls := s.isls } = s :=
  (congrArg (fun t : State => { t with isls := s.isls }) h :)

section
variable {s : State} {core : Core} {i : Island} {c : Fin 4} {y : PCore} {lc : Lc} (hi : i = coreIsland core)
  (hc : c = coreLetter core) (hy : y = (s.isl i.val).cores.get c)
include hi hc hy

theorem State.inPhase_eq (p : Phase) : s.inPhase core p = (y.phase == p) := by rw [State.inPhase, ← hi, ← hc, ← hy]

theorem State.setPhase_core (p : Phase) :
    ((s.setPhase core p).isl i.val).cores.get c = { y with phase := p, gated := false } := by
  rw [State.setPhase, ← hi, ← hc, State.modCore_isl, Isl.modCore_cores_get, if_pos rfl, ← hy]

theorem State.resyncWake_wakes (hp : y.phase = .wake) : s.resyncWake core = s.setPhase core .test := by
  simp [State.resyncWake, State.inPhase_eq hi hc hy, hp]

theorem State.resyncTest_joins (hp : y.phase = .test) (hj : y.healthy = false ∨ y.target = true) (ok : Bool) :
    s.resyncTest core ok = if ok then s.setPhase core .invalidate else s.resyncFail i c := by
  have hjoins : (y.healthy && !y.target) = false := by rcases hj with h | h <;> simp [h]
  simp [State.resyncTest, State.inPhase_eq hi hc hy, ← hi, ← hc, ← hy, hp, hjoins]

theorem State.resyncInvalidate_goes (hp : y.phase = .invalidate) :
    s.resyncInvalidate core = s.setPhase core (if y.target then .wait else .mirror) := by
  cases ht : y.target <;> simp [State.resyncInvalidate, State.inPhase_eq hi hc hy, ← hi, ← hc, ← hy, hp, ht]

theorem State.resyncMirror_passes (hp : y.phase = .mirror) (h : s.outStruck (slotAt i y.slot) = false) :
    ∃ v : State, s.resyncMirror core true = v.setPhase core .wait ∧ v.isl i.val = s.isl i.val ∧
      v.offIslands = s.offIslands := by
  obtain ⟨v, hvote, hisl, hoff⟩ := s.voteOut_unstruck i y.slot h
  exact ⟨v, by simp [State.resyncMirror, State.inPhase_eq hi hc hy, ← hi, ← hc, ← hy, hp, hvote], hisl, hoff⟩

theorem State.resyncMirror_fails (hp : y.phase = .mirror) : s.resyncMirror core false = s.resyncFail i c := by
  simp [State.resyncMirror, State.inPhase_eq hi hc hy, ← hi, ← hc, hp]

theorem State.mirrorTimeout_fails (hp : y.phase = .mirror) : s.mirrorTimeout core = s.resyncFail i c := by
  simp [State.mirrorTimeout, State.inPhase_eq hi hc hy, ← hi, ← hc, hp]

theorem State.rejoinTimeout_waits (hp : y.phase = .wait) (hr : y.role = .rejoining) (ht : y.target = false) :
    s.rejoinTimeout core = if 2 ≤ y.attempts then s.resyncFail i c
      else s.modCore i c fun y => { y with attempts := y.attempts + 1 } := by
  simp [State.rejoinTimeout, State.inPhase_eq hi hc hy, ← hi, ← hc, ← hy, hp, hr, ht]

end

@[simp] theorem State.giveBanks_reads (s : State) (lc : Lc) (n : Nat) :
    (s.giveBanks lc).lc n = s.lc n ∧ (s.giveBanks lc).holder n = s.holder n ∧ (s.giveBanks lc).slice n = s.slice n := by
  rw [State.giveBanks_isls]
  exact ⟨rfl, rfl, rfl⟩

/-- A rejoin at a synchronisation point: the core serves, its logical core's reservation and predictors are cleared, its slot's
side buffer is empty, and the voter copies that pass return (R220, R234). -/
theorem State.rejoin_effect {s : State} {core : Core} {i : Island} {c : Fin 4} {y : PCore} {lc : Lc}
    (hi : i = coreIsland core) (hc : c = coreLetter core) (hy : y = (s.isl i.val).cores.get c) (hp : y.phase = .wait)
    (hr : y.role = .rejoining) (ht : y.target = false) (hlc : y.lc = some lc) (hlost : (s.lc lc.val).stops.lost = false)
    (hmig : (s.lc lc.val).stops.migrating = false) (hpoint : (s.lc lc.val).atPoint = true)
    (hq : s.canQuiet (slotAt i y.slot) lc = true) : ∃ v : State, s.rejoin core = v ∧
      ((v.isl i.val).cores.get c).Serves ∧
      (v.isl i.val).voterOk = (s.isl i.val).voterOk ||| ~~~((s.isl i.val).voterDead ||| (s.isl i.val).voterBad) ∧
      (v.lc lc.val).resv = none ∧ (v.lc lc.val).contention = [] ∧ (v.holder (slotAt i y.slot).val).side = [] := by
  refine ⟨_, rfl, ?_⟩
  unfold State.rejoin
  rw [← hi, ← hc]
  extract_lets i' c' x sl
  subst i' c' x hy
  split
  · next hnone => exact absurd (hlc.symm.trans hnone) (Option.some_ne_none _)
  · next lc' hlc' =>
    obtain rfl : lc = lc' := Option.some.inj (hlc.symm.trans hlc')
    rw [if_neg (by simp [State.inPhase_eq hi hc rfl, hp, hr, ht, hlost, hmig, hpoint, hq])]
    extract_lets s1 s2 s3 s4 s5
    have hisl : s1.isl i.val = (s.isl i.val).voterCheck := by simpa [sl] using s.quietStop_isl sl lc
    have hlc4 : (s4.lc lc.val).resv = none ∧ (s4.lc lc.val).contention = [] := by
      simp [s4, s3, LCore.clearResv, State.modCore]
    have hside : (s4.holder sl.val).side = [] := by simp [s4, s3, s2, State.modCore]
    have hserves : ((s4.isl i.val).cores.get c).Serves := by simp [s4, PCore.Serves]
    have hvoters : (s4.isl i.val).voters = (s.isl i.val).voterCheck.voters := by simp [s4, s3, s2, hisl]
    have hserves' := State.settleSlot_serves _ i ((s.isl i.val).cores.get c).slot c
      (hserves.of_offBanks (s4.giveBanks_cores_get lc i.val c))
    have hvoters' : (((s4.giveBanks lc).settleSlot i ((s.isl i.val).cores.get c).slot).isl i.val).voters =
        (s.isl i.val).voterCheck.voters := by
      simp [hvoters]
    have hend : (s5.coreEvent i c evRejoined clsNote 0).isl i.val =
        (((s4.giveBanks lc).settleSlot i ((s.isl i.val).cores.get c).slot).isl i.val).voterCheck := by
      simp [State.coreEvent, s5]
    rw [hend]
    obtain ⟨hresv, hcontention⟩ := hlc4
    refine ⟨hserves', Isl.voterCheck_again hvoters', ?_⟩
    simpa [State.coreEvent, s5, State.settleSlot] using ⟨hresv, hcontention, hside⟩

end Sys2Proof.Machine

namespace Sys2Proof.Machine

/-! ### Places do not depend on the home slices' records (R271, R272, R310, R311) -/

section
variable (s : State) (n : Nat) (v : SliceSt)

theorem State.portProto_setSlice : (s.setSlice n v).portProto = s.portProto := rfl
theorem State.dramPlace_setSlice (pa : Nat) : (s.setSlice n v).dramPlace pa = s.dramPlace pa := rfl

theorem State.cxlWindow_setSlice (pa : Nat) : (s.setSlice n v).cxlWindow pa = s.cxlWindow pa := by
  unfold State.cxlWindow
  rw [State.portProto_setSlice]

theorem State.cxlPort_setSlice (pa : Nat) : (s.setSlice n v).cxlPort pa = s.cxlPort pa := by
  have hport : (s.setSlice n v).port = s.port := rfl
  unfold State.cxlPort
  rw [State.cxlWindow_setSlice, hport]

theorem State.pcieWindow_setSlice (pa : Nat) : (s.setSlice n v).pcieWindow pa = s.pcieWindow pa := by
  unfold State.pcieWindow
  rw [State.portProto_setSlice]

theorem State.doorbell_setSlice (pa : Nat) : (s.setSlice n v).doorbell pa = s.doorbell pa := by
  unfold State.doorbell
  rw [State.portProto_setSlice]

theorem State.place_setSlice (pa : Nat) : (s.setSlice n v).place pa = s.place pa := by
  unfold State.place
  rw [State.dramPlace_setSlice, State.cxlPort_setSlice, State.pcieWindow_setSlice, State.doorbell_setSlice]

theorem State.homeSlice_setSlice (l : LineNo) : (s.setSlice n v).homeSlice l = s.homeSlice l := by
  unfold State.homeSlice State.homeTile
  rw [State.place_setSlice]

theorem State.memValue_setSlice (l : LineNo) : (s.setSlice n v).memValue l = s.memValue l := by
  have hline : (s.setSlice n v).memLine = s.memLine := rfl
  have hpoison : (s.setSlice n v).isPoison = s.isPoison := rfl
  have hgood : (s.setSlice n v).dramGood = s.dramGood := rfl
  have hrebuilt : (s.setSlice n v).rebuiltPoison = s.rebuiltPoison := rfl
  have hchan : (s.setSlice n v).chan = s.chan := rfl
  have hchanOf : (s.setSlice n v).chanOf = s.chanOf := rfl
  unfold State.memValue State.readsPoison
  rw [State.place_setSlice, hline, hpoison, hgood, hrebuilt, hchan, hchanOf]

end

/-- The freshest copy of a line does not depend on open transactions. -/
theorem State.freshest_modTxn (s : State) (h : Nat) (k : LineNo) (f : Txn → Txn) (l : LineNo) :
    (s.modTxn h k f).freshest l = s.freshest l := by
  have hslice (n : Nat) : ((s.modTxn h k f).slice n).basin = (s.slice n).basin ∧
      ((s.modTxn h k f).slice n).victims = (s.slice n).victims := by
    by_cases hn : h = n
    · subst hn
      simp [State.modTxn]
    · simp [State.modTxn, State.setSlice_slice_ne _ _ hn]
  have hdirty : (s.modTxn h k f).dirtyCopy l = s.dirtyCopy l := rfl
  have hevict : (s.modTxn h k f).evictCopy l = s.evictCopy l := rfl
  have hhome : (s.modTxn h k f).homeSlice l = s.homeSlice l := s.homeSlice_setSlice ..
  have hmem : (s.modTxn h k f).memValue l = s.memValue l := s.memValue_setSlice ..
  unfold State.freshest State.basinCopy State.transitCopy
  simp only [hdirty, hevict, hhome, hmem, hslice]

/-! ### Transactions and requests (R276, R280) -/

/-- A change of the transaction on a line is read back. -/
theorem State.txnAt_modTxn (s : State) (h : Nat) (l : LineNo) {f : Txn → Txn} (hf : ∀ t, (f t).line = t.line) :
    (s.modTxn h l f).txnAt h l = (s.txnAt h l).map f := by
  have hline : ((fun t : Txn => decide (t.line = l)) ∘ fun t => if t.line = l then f t else t) =
      fun t => decide (t.line = l) := by
    funext t
    simp [apply_ite Txn.line, hf]
  simp only [State.txnAt, State.modTxn, State.modSlice_eq, State.setSlice_slice, List.find?_map, hline]
  cases hfind : (s.slice h).txns.find? fun t => decide (t.line = l) with
  | none => rfl
  | some t => simpa using fun hne => absurd (by simpa using List.find?_some hfind) hne

/-- A request that is over is no longer outstanding. -/
theorem State.outReq_dropReq (s : State) (r : Requester) (l : LineNo) : (s.dropReq r l).outReq r l = none := by
  have hrest : ∀ o ∈ s.outReqs.filter fun o => !(o.req = r && o.line = l), (o.req = r && o.line = l) = false :=
    fun o ho => by simpa only [Bool.not_eq_true'] using (List.mem_filter.mp ho).2
  unfold State.dropReq
  extract_lets rest next
  change List.find? _ (match next with | some n => _ | none => _) = none
  cases next with
  | none => exact List.find?_eq_none.mpr fun o ho => by simp [hrest o ho]
  | some n =>
    refine List.find?_eq_none.mpr fun o ho => ?_
    obtain ⟨p, hp, rfl⟩ := List.mem_map.mp ho
    have hother := hrest p hp
    split <;> simpa using hother

/-! ### A line comes into a set with a free way (R257) -/

/-- Where a way is free, the lowest free one is taken and nothing ages. -/
theorem chooseWay_free {ways : List Nat} {used : List (Nat × Nat)} (h : ∃ w ∈ ways, ∀ u ∈ used, u.1 ≠ w) :
    ∃ w, chooseWay ways used = some (w, 0) ∧ ∀ u ∈ used, u.1 ≠ w := by
  obtain ⟨w, hw, hfree⟩ := h
  cases hfind : ways.find? fun w => !used.any fun u => u.1 = w with
  | none => exact absurd (List.find?_eq_none.mp hfind w hw) (by simpa using fun a hu => hfree _ hu rfl)
  | some w' => exact ⟨w', by simp [chooseWay, hfind], by simpa using List.find?_some hfind⟩

theorem Holder.l2Fill_free {h : Holder} {l : LineNo} (hfind : h.find l = none)
    (hway : ∃ w < 16, ∀ x ∈ h.l2, x.line.toNat % 1024 = l.toNat % 1024 → x.way ≠ w) (st : Moesi) (d : Line)
    (poison stream : Bool) : ∃ x, (h.l2Fill l st d poison stream).find l = some x ∧ x.st = st ∧ x.data = d ∧
      x.poison = poison := by
  obtain ⟨w, hw, hfree⟩ := hway
  unfold Holder.l2Fill
  extract_lets side set inSet
  obtain ⟨w', hchoose, hnone⟩ := chooseWay_free (ways := List.range 16) (used := inSet.map fun c => (c.way, c.age))
    ⟨w, List.mem_range.mpr hw, by simpa [inSet, set] using fun _ _ x hx hset hx' _ => hx' ▸ hfree x hx hset⟩
  have hold : (inSet.find? fun c => c.way = w') = none :=
    List.find?_eq_none.mpr fun c hc => by simpa using hnone _ (List.mem_map_of_mem hc)
  have haged (g : CLine → CLine) (hg : ∀ c, (g c).line = c.line) : ((h.l2.map g).find? fun c => c.line = l) = none := by
    refine List.find?_eq_none.mpr fun c hc => ?_
    obtain ⟨b, hb, rfl⟩ := List.mem_map.mp hc
    rw [hg]
    exact List.find?_eq_none.mp hfind b hb
  rw [hfind, if_neg (by simp), hchoose]
  simp only [hold]
  refine ⟨⟨l, st, d, poison, w', if stream then 3 else 1, stream⟩, ?_, rfl, rfl, rfl⟩
  unfold Holder.find
  rw [List.find?_append, haged _ fun c => by split <;> rfl]
  simp

theorem Holder.l1Place_find (h : Holder) (l k : LineNo) (fetch : Bool) : (h.l1Place l fetch).find k = h.find k := by
  cases fetch <;> rfl

/-! ### A grant comes into its slot (R242, R248) -/

/-- The eviction of a reserved line changes one core. -/
theorem State.evictResv_same (s : State) (sl : Slot) : ∃ lcs, s.evictResv sl = { s with lcs := lcs } := by
  unfold State.evictResv
  split
  · exact ⟨_, rfl⟩
  · dsimp only
    split
    · split <;> exact ⟨_, rfl⟩
    · exact ⟨_, rfl⟩

theorem State.drainSlot_idle {s : State} {sl : Slot} (h : ∀ lc : Lc, s.slotLc sl = some lc → (s.lc lc.val).storeBuf = []) :
    s.drainSlot sl = s := by
  unfold State.drainSlot
  split
  · next lc hlc => simp [h lc hlc, State.drainStores]
  · rfl

theorem State.caClear_reads (s : State) (l : LineNo) (n : Nat) :
    (s.caClear l).holder n = s.holder n ∧ (s.caClear l).slice n = s.slice n := by
  unfold State.caClear
  split <;> simp

/-- A line that the slot has no copy of, in a set with a free way, comes in with the data of its transaction or the
freshest. -/
theorem State.install_free {s : State} {sl : Slot} {l : LineNo} (hfind : (s.holder sl.val).find l = none)
    (hevict : ((s.holder sl.val).evict.any fun c => c.line = l) = false)
    (hway : ∃ w < 16, ∀ x ∈ (s.holder sl.val).l2, x.line.toNat % 1024 = l.toNat % 1024 → x.way ≠ w)
    (hbuf : ∀ lc : Lc, s.slotLc sl = some lc → (s.lc lc.val).storeBuf = []) (st : Moesi) (fetch stream : Bool)
    (data : Option (Line × Bool)) :
    (∃ x, ((s.install sl l st fetch stream data).holder sl.val).find l = some x ∧ x.st = st ∧
      x.data = (data.getD (s.freshest l)).1 ∧ x.poison = (data.getD (s.freshest l)).2) ∧
    ∀ n, (s.install sl l st fetch stream data).slice n = s.slice n := by
  have hretake : s.retake sl l = s := by simp [State.retake, hevict]
  unfold State.install
  rw [hretake]
  extract_lets t h v s1
  obtain ⟨lcs, hresv⟩ := s1.evictResv_same sl
  have hidle : (s1.evictResv sl).drainSlot sl = s1.evictResv sl := by
    refine State.drainSlot_idle fun lc hlc => ?_
    have hkept : ((s1.evictResv sl).lc lc.val).storeBuf = (s.lc lc.val).storeBuf :=
      s1.evictResv_follow lc.val LCore.storeBuf (fun _ => rfl) sl
    rw [hresv] at hlc
    exact hkept.trans (hbuf lc hlc)
  rw [hidle, hresv]
  have hv : v = data.getD (s.freshest l) := by
    simp only [v]
    split
    · next c hc => exact absurd (hfind.symm.trans hc) (Option.some_ne_none c).symm
    · rfl
  have hholder : s1.holder sl.val = (h.l2Fill l st v.1 v.2 stream).l1Place l fetch := State.setHolder_holder ..
  obtain ⟨x, hx, hst, hdata, hpoison⟩ := Holder.l2Fill_free hfind hway st v.1 v.2 stream
  rw [← hv]
  refine ⟨⟨x, ?_, hst, hdata, hpoison⟩, fun n => (State.caClear_reads _ l n).2⟩
  rw [(State.caClear_reads _ l sl.val).1]
  exact (congrArg (Holder.find · l) hholder).trans ((Holder.l1Place_find _ l l fetch).trans hx)

/-- A granted line comes into its slot: it is delivered, and its request is over. -/
theorem State.deliver_granted {s : State} {sl : Slot} {l : LineNo} {h : Slice} {t : Txn} (hhome : s.homeSlice l = some h)
    (hlive : s.homeLive (lineAddr l) = true) (htxn : s.txnAt h.val l = some t) (hreq : t.req = .slot sl)
    (hready : t.ready = true) (hnew : t.delivered = false) (hkind : t.kind ≠ .prefetch)
    (hfind : (s.holder sl.val).find l = none) (hevict : ((s.holder sl.val).evict.any fun c => c.line = l) = false)
    (hway : ∃ w < 16, ∀ x ∈ (s.holder sl.val).l2, x.line.toNat % 1024 = l.toNat % 1024 → x.way ≠ w)
    (hbuf : ∀ lc : Lc, s.slotLc sl = some lc → (s.lc lc.val).storeBuf = []) : ∃ v : State, s.deliver sl l = v ∧
      (v.txnAt h.val l).map (·.delivered) = some true ∧ v.outReq (.slot sl) l = none ∧
      ∃ x, (v.holder sl.val).find l = some x ∧ x.st = t.grant ∧ x.data = (t.data.getD (s.freshest l)).1 ∧
        x.poison = (t.data.getD (s.freshest l)).2 := by
  refine ⟨_, rfl, ?_⟩
  unfold State.deliver
  simp only [hhome, htxn]
  rw [if_pos (by simp [hreq, hready, hnew]), if_neg (by simp [hlive]), if_neg (by simpa using hkind)]
  obtain ⟨hline, hslices⟩ := State.install_free (s := s.modTxn h.val l fun t => { t with delivered := true }) hfind hevict
    hway hbuf t.grant ((s.outReq (.slot sl) l).any (·.fetch)) ((s.outReq (.slot sl) l).any (·.stream)) t.data
  rw [State.freshest_modTxn] at hline
  refine ⟨?_, State.outReq_dropReq .., hline⟩
  have hmod := s.txnAt_modTxn h.val l (f := fun t => { t with delivered := true }) fun _ => rfl
  rw [htxn] at hmod
  have hkept := (congrArg (fun r : SliceSt => r.txns.find? fun t : Txn => t.line = l) (hslices h.val)).trans hmod
  exact congrArg (Option.map (·.delivered)) hkept

end Sys2Proof.Machine

namespace Sys2Proof.Machine

/-- Settles O37.  Each phase is one change of the joining core (`State.setPhase_core`) or its failure
(`State.resyncFail_failed`); REJOIN follows the core through the settling of its slot (`State.rejoin_effect`); a granted line
finds a free way (`State.deliver_granted`). -/
theorem resynchronisation : Obligations.Resynchronisation := by
  unfold Obligations.Resynchronisation
  refine ⟨fun s i hlive => ?_, fun s core i c y hi hc hy => ⟨fun hp => ?_, fun hp hj => ⟨?_, ?_⟩, fun hp => ?_,
    fun hp => ⟨fun hout => ?_, ?_, ?_⟩,
    fun hp hr ht => ⟨fun hn => ?_, fun hn => ?_, fun lc hlc hlost hmig hfar hov hq => ?_⟩⟩, ?_⟩
  · simp [exec, execGroupTimeLoad, hlive]
  · exact ⟨_, congrArg Host.Outcome.next (State.resyncWake_wakes hi hc hy hp), State.setPhase_core hi hc hy _, rfl⟩
  · exact ⟨_, State.next_settleMode (State.resyncTest_joins hi hc hy hp hj true),
      State.setPhase_core hi hc hy _, rfl⟩
  · exact ⟨_, State.next_settleMode (State.resyncTest_joins hi hc hy hp hj false),
      s.resyncFail_failed i c⟩
  · exact ⟨_, congrArg Host.Outcome.next (State.resyncInvalidate_goes hi hc hy hp), State.setPhase_core hi hc hy _, rfl⟩
  · obtain ⟨v, hv, hisl, hoff⟩ := State.resyncMirror_passes hi hc hy hp hout
    exact ⟨_, State.next_settleMode hv,
      State.setPhase_core hi hc (hy.trans (by rw [hisl])) _, State.restore_isls hoff⟩
  · exact ⟨_, State.next_settleMode (State.resyncMirror_fails hi hc hy hp),
      s.resyncFail_failed i c⟩
  · exact ⟨_, State.next_settleMode (State.mirrorTimeout_fails hi hc hy hp),
      s.resyncFail_failed i c⟩
  · have htime := (State.rejoinTimeout_waits hi hc hy hp hr ht).trans (if_pos hn)
    exact ⟨_, State.next_settleMode htime, s.resyncFail_failed i c⟩
  · have htime := (State.rejoinTimeout_waits hi hc hy hp hr ht).trans (if_neg (Nat.not_le.mpr hn))
    exact ⟨_, State.next_settleMode htime, by simp [hy], rfl⟩
  · have hpoint : (s.lc lc.val).atPoint = true := by simp [LCore.atPoint, hfar, hov]
    obtain ⟨v, hv, ⟨hrole, hodd, hphase⟩, hvoters, hresv, hcont, hside⟩ :=
      State.rejoin_effect hi hc hy hp hr ht hlc hlost hmig hpoint hq
    exact ⟨v, State.next_settleMode hv, hrole, hodd, hphase, hvoters, hresv, hcont, hside⟩
  · intro s slot line h t d hislive hhome hlive htxn hreq hready hnew hkind hd hfind hevict hway hbuf
    obtain ⟨v, hv, hdone, hover, hline⟩ := State.deliver_granted hhome hlive htxn hreq hready hnew hkind hfind hevict hway
      hbuf
    rw [hd] at hline
    have hexec : exec (.fillArrival slot line .ok) s = .next (s.deliver slot line).settleMode :=
      congrArg Host.Outcome.next (if_pos hislive)
    exact ⟨v, by rw [hexec, hv], hdone, hover, hline⟩

end Sys2Proof.Machine

namespace Sys2Proof.Machine

/-! ### GRP_CTL (R239) -/

/-- GRP_STATUS answers that a command is done (Table 8.10). -/
def State.grpDone (s : State) (i : Island) : State := s.setFld (.grpStatus i) 55 52 0

theorem State.grpDone_fld (s : State) (i : Island) : (s.grpDone i).fld (.grpStatus i) 55 52 = 0 :=
  State.setFld_fld_self _ _ 55 52 0 (by decide) (by decide)

/-- What an admitted command does to a core whose slot neither resynchronises nor migrates. -/
theorem State.grpCtlW_effect {s : State} {m : Master} {i : Island} {c : Fin 4} {y : PCore}
    (hadm : s.admits m (CsReg.grpCtl i).addr needW (s.privileged m) = true) (hrun : s.mode.running = true)
    (hy : y = (s.isl i.val).cores.get c) (hst : ((s.isl i.val).slots.get y.slot).st ≠ .resync)
    (hst' : ((s.isl i.val).slots.get y.slot).st ≠ .migrating) :
    (y.role = .replica → (s.isl i.val).healthy y.slot = 3 →
      s.grpCtlW m i c 1 = ((s.respond m .ok).markOdd i c 0 false).grpDone i) ∧
    (y.role = .replica → s.grpCtlW m i c 2 =
      ((s.respond m .ok).modCore i c fun y => { y with upsets := .signature 1 :: y.upsets }).grpDone i) ∧
    (y.role = .replica → ((s.isl i.val).slots.get y.slot).width = 3 →
      s.grpCtlW m i c 3 = ((s.respond m .ok).replaceCore i c).grpDone i) ∧
    (y.role = .simplex → s.grpCtlW m i c 3 = ((s.respond m .ok).simplexHard i c 0).grpDone i) := by
  subst hy
  simp only [State.grpCtlW, State.csPriv_admits _ _ _ _ hadm, State.grpDone]
  refine ⟨fun hr hfull => ?_, fun hr => ?_, fun hr hw => ?_, fun hr => ?_⟩
  · simp [hrun, hst, hst', hr, hfull]
  · simp [hrun, hst, hst', hr]
  · simp [hrun, hst, hst', hr, hw]
  · simp [hrun, hst, hst', hr]

/-- A replica marked odd begins its resynchronisation at its self-test (R218). -/
theorem State.markOdd_joins (s : State) (i : Island) (c : Fin 4) (off : Nat) : ∃ y : PCore,
    ((s.markOdd i c off false).isl i.val).cores.get c = y ∧ y.role = .rejoining ∧ y.phase = .test ∧ y.odd = true ∧
      (s.markOdd i c off false).offIslands = s.offIslands := by
  refine ⟨_, rfl, ?_⟩
  simp only [State.markOdd, State.startResync, State.refreshSlot, State.modIsl_eq, State.setIsl_isl, State.modCore_isl,
    if_neg Bool.false_ne_true]
  obtain ⟨st, hst⟩ := Isl.refresh_eq ((s.isl i.val).modCore c fun x =>
    { x with role := .rejoining, odd := true, phase := .test, attempts := 0, gated := Phase.test == .wake })
    ((s.isl i.val).cores.get c).slot
  rw [hst]
  simp

/-! ### Voter copies (R234, R235) -/

theorem State.slotDeath_isls (s : State) (sl : Slot) : (s.slotDeath sl).isls = s.isls :=
  State.isls_of_offMemory (s.agentDeath_offMemory [sl.val] (sl.val / 48))

/-- The loss of a logical core takes no voter copy out. -/
theorem State.loseLc_voters (s : State) (lc : Lc) (n : Nat) : ((s.loseLc lc).isl n).voters = (s.isl n).voters := by
  unfold State.loseLc
  split
  · rfl
  · next h _ =>
    extract_lets s1 s2
    have hdeath : (s2.slotDeath h).isl n = s2.isl n :=
      congrArg (fun t => Table.get Isl.init t n) (s2.slotDeath_isls h)
    rw [hdeath]
    by_cases hn : (hostIsland h).val = n
    · subst hn
      simp [s2, s1]
    · simp [s2, s1, State.setIsl_isl_ne _ _ hn]

theorem State.islandLost_voters (s : State) (i : Island) (n : Nat) :
    ((s.islandLost i).isl n).voters = (s.isl n).voters := by
  simp only [State.islandLost, State.grpEvent_reads]
  exact State.foldl_keeps (fun s => (s.isl n).voters) (fun s l => s.loseLc_voters l n) _ s

theorem State.voterFail_voterOk {s : State} {i : Island} {k : Fin 3} (h : (s.isl i.val).voterOk.getLsbD k.val = true) :
    ((s.voterFail i k).isl i.val).voterOk = (s.isl i.val).voterOk &&& ~~~(1#3 <<< k.val) := by
  unfold State.voterFail
  extract_lets x ok s1
  have h1 : (s1.isl i.val).voterOk = ok := by simp [s1]
  rw [if_neg (by simp [x, h])]
  split
  · exact (congrArg Prod.fst (s1.islandLost_voters i i.val)).trans h1
  · exact h1

end Sys2Proof.Machine

namespace Sys2Proof.Machine

/-! ### Stops at synchronisation points (R207, R236, R237) -/

/-- A quiesce request that stands alone with clock cuts stops the core where its accesses end. -/
theorem State.groupStop_stops {s : State} {lc : Lc} {h : Slot} (hh : (s.lc lc.val).host = some h)
    (hpoint : (s.lc lc.val).atPoint = true) (hq : s.canQuiet h lc = true) (hfirst : s.beforeHalt lc h (s.lc lc.val) = false)
    (hquiesce : (s.lc lc.val).reqs.quiesce = true) (hreset : (s.lc lc.val).reqs.reset = false)
    (hdebug : (s.lc lc.val).reqs.debug = false) : s.groupStop lc = (s.quietStop h lc).modLc lc.val fun l =>
      { l with
        stops := { l.stops with
          quiesce := l.stops.quiesce || l.reqs.quiesce
          clockCut := l.stops.clockCut || l.reqs.clockCut }
        reqs := { l.reqs with quiesce := false, clockCut := false, reset := false } } := by
  have hwaits : s.resetWaits (s.lc lc.val) = false := by simp [State.resetWaits, hreset]
  simp [State.groupStop, hh, hpoint, hq, hfirst, hquiesce, hreset, hdebug, hwaits]

/-- A core under SPLIT: the lead runs alone, the others are held. -/
def PCore.split (lead : Bool) (y : PCore) : PCore :=
  if y.role == .failed then y
  else if lead then { y with role := .simplex, phase := .none }
  else { y with role := .held, gated := true, phase := .none, odd := false, fromHeld := true }

theorem PCore.split_role (lead : Bool) (y : PCore) (h : y.role ≠ .failed) :
    (y.split lead).role = if lead then .simplex else .held := by
  cases lead <;> simp [PCore.split, h]

theorem PCore.split_split (lead : Bool) (y : PCore) : (y.split lead).split lead = y.split lead := by
  by_cases h : y.role = .failed
  · simp [PCore.split, h]
  · cases lead <;> simp [PCore.split, h]

/-- A halt of the debugger stops the logical core, and splits its group (R236). -/
theorem State.debugHalt_splits {s : State} {lc : Lc} {h : Slot} (hh : (s.lc lc.val).host = some h)
    (hpoint : (s.lc lc.val).atPoint = true) (hq : s.canQuiet h lc = true) (hfirst : s.beforeHalt lc h (s.lc lc.val) = false)
    (hrun : s.runOrQuiesce = true) (hdebug : (s.lc lc.val).reqs.debug = true) (hlost : (s.lc lc.val).stops.lost = false)
    (hmig : (s.lc lc.val).stops.migrating = false) : ∃ v : State, s.debugHalt lc = v ∧
      (v.lc lc.val).stops.debug = true ∧ (v.lc lc.val).reqs.debug = false ∧
      ((v.isl (hostIsland h).val).slots.get (slotPos h)).st =
        (if ((s.isl (hostIsland h).val).slots.get (slotPos h)).st = .stopped then .stopped else .split) ∧
      ∀ c ∈ ((s.isl (hostIsland h).val).slots.get (slotPos h)).positions, (v.isl (hostIsland h).val).cores.get c =
        ((s.isl (hostIsland h).val).cores.get c).split (c = (s.isl (hostIsland h).val).lead (slotPos h)) := by
  refine ⟨_, rfl, ?_⟩
  unfold State.debugHalt
  extract_lets c
  subst c
  simp -zeta only [hh]
  rw [if_neg (by simp [hdebug, hpoint, hq, hlost, hmig, hrun, hfirst])]
  extract_lets i k x lead s1 s2 s3 s4
  have hstop : s1.isl i.val = x.voterCheck := s.quietStop_isl h lc
  have hcore : (fun d (y : PCore) => if y.role == .failed then y
      else if d = lead then { y with role := .simplex, phase := .none }
      else { y with role := .held, gated := true, phase := .none, odd := false, fromHeld := true }) =
      fun d => PCore.split (d = lead) := by
    funext d y
    simp [PCore.split]
  have hs2 : s2 = (x.slots.get k).positions.foldl (fun s d => s.modCore i d (PCore.split (d = lead))) s1 :=
    congrArg (fun f : Fin 4 → PCore → PCore => (x.slots.get k).positions.foldl (fun s d => s.modCore i d (f d)) s1) hcore
  have hsplit : s2.isl i.val = (x.slots.get k).positions.foldl (fun x d => x.modCore d (PCore.split (d = lead)))
      x.voterCheck := by
    rw [hs2, ← hstop]
    exact s1.foldl_modCore_isl i (fun d => PCore.split (d = lead)) _
  have hslots : (s2.isl i.val).slots = x.slots := by
    rw [hsplit]
    exact Isl.foldl_modCore_keeps Isl.slots (f := fun d => PCore.split (d = lead)) (fun _ _ => rfl) _ _
  have hend : (s4.grpEvent i (coreSrc (4 * i.val + lead.val)) evLockstepSplit clsNote lc.val lead.val k.val
      (s.lc lc.val).pc.toNat).isl i.val =
      (s2.isl i.val).modSlot k fun z => { z with st := if z.st == .stopped then .stopped else .split } := by simp [s4, s3]
  rw [hend]
  refine ⟨by simp [s4], by simp [s4], ?_, fun d hd => ?_⟩
  · rw [Isl.modSlot_slots_get, if_pos rfl, hslots]
    simp [x, i, k]
  · rw [Isl.modSlot_cores, hsplit]
    refine (Isl.foldl_modCore_get (f := fun d => PCore.split (d = lead)) (fun _ _ => PCore.split_split _ _) _ _ d).trans ?_
    exact if_pos hd

theorem State.startResync_offIslands (s : State) (i : Island) (c : Fin 4) (p : Phase) :
    (s.startResync i c p).offIslands = s.offIslands := rfl

/-- The end of a halt changes the halted core alone, and islands (R237). -/
theorem State.debugResume_ends {s : State} {lc : Lc} {h : Slot} (hh : (s.lc lc.val).host = some h)
    (hdebug : (s.lc lc.val).stops.debug = true) : (s.debugResume lc).offIslands =
      (s.modLc lc.val fun l => { l with stops := { l.stops with debug := false } }).offIslands := by
  unfold State.debugResume
  extract_lets c s1
  subst c
  simp -zeta only [hh]
  rw [if_neg (by simp [hdebug])]
  extract_lets i k s2 lead s3
  have h3 : s3.offIslands = s2.offIslands := by
    refine State.foldl_keeps State.offIslands (fun s d => ?_) _ s2
    split
    · exact s.startResync_offIslands i d .wake
    · rfl
  exact h3

theorem State.lc_of_offIslands {s t : State} (h : t.offIslands = s.offIslands) (n : Nat) : t.lc n = s.lc n :=
  (congrArg (State.lc · n) h :)

theorem State.lcs_of_offIslands {s t : State} (h : t.offIslands = s.offIslands) : t.lcs = s.lcs := (congrArg State.lcs h :)

theorem State.slice_of_offIslands {s t : State} (h : t.offIslands = s.offIslands) (n : Nat) : t.slice n = s.slice n :=
  (congrArg (State.slice · n) h :)

theorem State.mem_of_offIslands {s t : State} (h : t.offIslands = s.offIslands) : t.mem = s.mem := (congrArg State.mem h :)

theorem State.migrations_of_offIslands {s t : State} (h : t.offIslands = s.offIslands) : t.migrations = s.migrations :=
  (congrArg State.migrations h :)

/-! ### Migration (R229 to R232) -/

theorem State.quietStop_migrations (s : State) (sl : Slot) (lc : Lc) : (s.quietStop sl lc).migrations = s.migrations := by
  simpa [State.quietStop] using State.migrations_of_offMemory (s.quiet_offMemory sl lc)

/-- Cores are drawn for a target on their island, with a note for each. -/
theorem State.drawTarget_fields (s : State) (lc : Lc) (t : Island × Fin 4 × List (Fin 4)) :
    (s.drawTarget lc t).lcs = s.lcs ∧ (s.drawTarget lc t).slices = s.slices ∧
      (s.drawTarget lc t).migrations = s.migrations := by
  have h := State.foldl_keeps (fun s : State => (s.lcs, s.slices, s.migrations))
    (f := fun s c => (s.modCore t.1 c fun x =>
      { x with role := .poolSleeper, target := true, lc := some lc, slot := t.2.1, phase := .wake }).coreEvent t.1 c evSpared
        clsNote 0) (fun s c => by simp [State.coreEvent, State.modCore]) t.2.2 s
  simpa [State.drawTarget] using h

theorem State.migrateDue_of {s : State} {lc : Lc} {h : Slot} {t : Island × Fin 4 × List (Fin 4)} {sl : Slice}
    (hrun : s.runOrQuiesce = true) (ht : s.lcTarget lc = some t) (hsl : s.freeMigSlot (h.val / 48) = some sl)
    (hreq : (s.lc lc.val).reqs.migrate = true) (hnew : ∀ m ∈ s.migrations, m.lc ≠ lc)
    (hlow : ∀ o : Lc, o.val < lc.val → (s.lc o.val).reqs.migrate = false) : s.migrateDue lc h = true := by
  have hlower : (allLc.any fun o => o.val < lc.val && (s.lc o.val).reqs.migrate && !(s.migrations.any fun m => m.lc = o) &&
      (s.lcTarget o).isSome) = false := by
    refine List.any_eq_false.mpr fun o _ => ?_
    by_cases ho : o.val < lc.val
    · simp [hlow o ho]
    · simp [ho]
  unfold State.migrateDue
  simp only [hlower]
  simpa [hreq, hrun, ht, hsl] using hnew

/-- A migration begins: the core stops, its record is saved, and the migration is listed (R229, R230). -/
theorem State.migrate_starts {s : State} {lc : Lc} {h : Slot} {t : Island × Fin 4 × List (Fin 4)} {sl : Slice}
    (hh : (s.lc lc.val).host = some h) (ht : s.lcTarget lc = some t) (hsl : s.freeMigSlot (h.val / 48) = some sl)
    (hdue : s.migrateDue lc h = true) (hpoint : (s.lc lc.val).stops.hard = true ∨ (s.lc lc.val).atPoint = true)
    (hq : s.canQuiet h lc = true) (hrejoin : s.rejoinDue h (s.lc lc.val) = false) (hbank : (s.lc lc.val).bankPend = false) :
    ∃ v : State, s.migrate lc = v ∧ (v.lc lc.val).stops.migrating = true ∧
      (v.lc lc.val).reqs.migrate = false ∧ (v.lc lc.val).resv = none ∧ (v.slice sl.val).migSlot = some lc ∧
      (v.slice sl.val).migRecord = some (v.lc lc.val) ∧
      v.migrations = s.migrations ++ [⟨lc, some h, slotAt t.1 t.2.1, t.2.2.length, sl⟩] := by
  refine ⟨_, rfl, ?_⟩
  have hswap : s.swapDue (s.lc lc.val) = false := by simp [State.swapDue, hbank]
  unfold State.migrate
  extract_lets l
  subst l
  simp -zeta only [hh, ht, hsl]
  rw [if_neg (by rcases hpoint with h | h <;> simp [hdue, h, hq, hrejoin, hswap])]
  extract_lets s1 s2 s3 s4 s5
  obtain ⟨hlcs, hslices, hmigs⟩ := s4.drawTarget_fields lc t
  have hlc (n : Nat) : s5.lc n = s2.lc n := congrArg (fun ls => Table.get LCore.init ls n) hlcs
  have hslice (n : Nat) : s5.slice n = s3.slice n := congrArg (fun ls => Table.get SliceSt.init ls n) hslices
  have hempty : s1.migrations = s.migrations :=
    (State.migrations_of_offMemory (State.emptySlot_offMemory _ h)).trans (s.quietStop_migrations h lc)
  have hl : s5.lc lc.val = s2.lc lc.val := hlc _
  have hs : s5.slice sl.val = { s2.slice sl.val with migSlot := some lc, migRecord := some (s2.lc lc.val) } :=
    (hslice _).trans (by simp [s3])
  have h4 : s4.migrations = s1.migrations := by simp [s4, s3, s2]
  have hm : s5.migrations = s.migrations := hmigs.trans (h4.trans hempty)
  have hs2 : s2.lc lc.val = { (s1.lc lc.val).clearResv with
      stops := { (s1.lc lc.val).stops with migrating := true }, reqs := { (s1.lc lc.val).reqs with migrate := false } } := by
    simp [s2]
  refine ⟨?_, ?_, ?_, ?_, ?_, ?_⟩
  · exact (congrArg (fun l : LCore => l.stops.migrating) (hl.trans hs2) :)
  · exact (congrArg (fun l : LCore => l.reqs.migrate) (hl.trans hs2) :)
  · refine (congrArg LCore.resv (hl.trans hs2)).trans ?_
    simp [LCore.clearResv]
  · exact congrArg SliceSt.migSlot hs
  · exact (congrArg SliceSt.migRecord hs).trans (congrArg some hl.symm)
  · exact congrArg (· ++ _) hm

end Sys2Proof.Machine

namespace Sys2Proof.Machine

/-! ### The target starts (R231, R232) -/

/-- The cores of a source slot go to the pool: islands alone change. -/
theorem State.freeSource_offIslands (s : State) (h : Slot) : (s.freeSource h).offIslands = s.offIslands := by
  unfold State.freeSource
  extract_lets i k ps own s1
  exact s.foldl_modCore_offIslands i (fun _ x => if x.role == .failed then { x with lc := none, fromHeld := false }
    else x.idle .poolSleeper) (ps ++ own)

/-- A slot that holds its migrated logical core keeps its cores where its state is derived anew. -/
theorem State.refreshSlot_slot (s : State) (i : Island) (k : Fin 4) :
    (((s.refreshSlot i k).isl i.val).slots.get k).lc = ((s.isl i.val).slots.get k).lc ∧
      (((s.refreshSlot i k).isl i.val).slots.get k).positions = ((s.isl i.val).slots.get k).positions := by
  obtain ⟨st, hst⟩ := (s.isl i.val).refresh_eq k
  simp [State.refreshSlot, hst]

@[simp] theorem State.refreshSlot_offIslands (s : State) (i : Island) (k : Fin 4) :
    (s.refreshSlot i k).offIslands = s.offIslands := rfl

/-- All cores of a target wait and its record reads: the target hosts the logical core, and the migration ends. -/
theorem State.migrationComplete_hosts {s : State} {lc : Lc} {m : Migration} {cs : List (Fin 4)}
    (hfind : (s.migrations.find? fun m => m.lc = lc) = some m)
    (hcs : cs = ((List.finRange 4).filter fun c => ((s.isl (hostIsland m.target).val).cores.get c).target &&
      ((s.isl (hostIsland m.target).val).cores.get c).lc = some lc))
    (hwidth : m.width ≤ cs.length) (hwait : ∀ c ∈ cs, ((s.isl (hostIsland m.target).val).cores.get c).phase = .wait)
    (hread : (s.slice m.migSlice.val).recordBad = false) : ∃ v : State, s.migrationComplete lc = v ∧
      (v.lc lc.val).host = some m.target ∧ (v.lc lc.val).stops.migrating = false ∧ (v.lc lc.val).tlb = [] ∧
      ((v.isl (hostIsland m.target).val).slots.get (slotPos m.target)).lc = some lc ∧
      ((v.isl (hostIsland m.target).val).slots.get (slotPos m.target)).positions = cs ∧
      (v.slice m.migSlice.val).migSlot = none ∧ v.migrations = s.migrations.filter (fun y => y.lc ≠ lc) ∧
      v.mem = s.mem := by
  refine ⟨_, rfl, ?_⟩
  unfold State.migrationComplete
  simp -zeta only [hfind]
  extract_lets i k x cs' width failed given again s1 s2 s3 s4 s5 s6
  obtain rfl : cs = cs' := hcs
  rw [if_neg (Nat.not_lt.mpr hwidth), if_neg (by simpa [x, i] using hwait), if_neg (by simp [hread])]
  have h1 : s1.offIslands = s.offIslands := by
    simp only [s1]
    split
    · exact s.freeSource_offIslands _
    · rfl
  have h2 : s2.offIslands = s1.offIslands := State.foldl_modCore_offIslands s1 i _ cs'
  have h3 : s3.offIslands = s.offIslands := (s2.setIsl_offIslands _ _).trans (h2.trans h1)
  have hslot : (s3.isl i.val).slots.get k = ⟨some lc, width, .full, cs'⟩ := by
    simp only [s3, State.modIsl_eq, State.setIsl_isl]
    split
    · rw [Isl.modCore_slots, Isl.modSlot_slots_get, if_pos rfl]
    · rw [Isl.modSlot_slots_get, if_pos rfl]
  obtain ⟨hslotLc, hpositions⟩ := ((s4.giveBanks lc).modSlice m.migSlice.val fun y =>
    { y with migSlot := none, migRecord := none }).refreshSlot_slot i k
  have h5 : s5.offIslands = ((s4.giveBanks lc).modSlice m.migSlice.val fun y =>
      { y with migSlot := none, migRecord := none }).offIslands := State.refreshSlot_offIslands _ i k
  have hlc : s5.lc lc.val = s4.lc lc.val := (State.lc_of_offIslands h5 _).trans (by simp)
  have hsl : (s5.slice m.migSlice.val).migSlot = none := by simp [State.slice_of_offIslands h5]
  have hmig : s5.migrations = s.migrations :=
    (State.migrations_of_offIslands h5).trans ((State.migrations_of_offIslands (State.giveBanks_offIslands s4 lc)).trans
      (State.migrations_of_offIslands h3 :))
  have hmem : s5.mem = s.mem := (State.mem_of_offIslands h5).trans
    ((State.mem_of_offIslands (State.giveBanks_offIslands s4 lc)).trans (State.mem_of_offIslands h3 :))
  simp only [State.slotEvent, State.grpEvent_reads, State.grpEvent_fields]
  refine ⟨?_, ?_, ?_, ?_, ?_, ?_, ?_, ?_⟩
  · exact (congrArg LCore.host hlc).trans (by simp [s4])
  · exact (congrArg (fun l : LCore => l.stops.migrating) hlc).trans (by simp [s4])
  · exact (congrArg LCore.tlb hlc).trans (by simp [s4])
  · exact hslotLc.trans (by simp [s4, hslot])
  · exact hpositions.trans (by simp [s4, hslot])
  · exact hsl
  · exact congrArg (List.filter _) hmig
  · exact hmem

end Sys2Proof.Machine

namespace Sys2Proof.Machine

@[simp] theorem State.grpDone_keeps (s : State) (i : Island) : (s.grpDone i).isls = s.isls ∧ (s.grpDone i).lcs = s.lcs ∧
    (s.grpDone i).mem = s.mem ∧ (∀ n, (s.grpDone i).isl n = s.isl n) := by
  simp [State.grpDone]

/-- A replica that RETIRE takes from a triple fails, as does a simplex core. -/
theorem State.grpCtlW_retires {s : State} {m : Master} {i : Island} {c : Fin 4} {y : PCore} {lc : Lc}
    (hadm : s.admits m (CsReg.grpCtl i).addr needW (s.privileged m) = true) (hrun : s.mode.running = true)
    (hy : y = (s.isl i.val).cores.get c) (hlc : y.lc = some lc) (hst : ((s.isl i.val).slots.get y.slot).st ≠ .resync)
    (hst' : ((s.isl i.val).slots.get y.slot).st ≠ .migrating)
    (hretire : y.role = .replica ∧ ((s.isl i.val).slots.get y.slot).width = 3 ∨ y.role = .simplex ∧ y.odd = false) :
    ∃ u : State, s.grpCtlW m i c 3 = u.grpDone i ∧ ((u.isl i.val).cores.get c).role = .failed ∧ u.mem = s.mem := by
  obtain ⟨-, -, htriple, hsimplex⟩ := State.grpCtlW_effect hadm hrun hy hst hst'
  rcases hretire with ⟨hr, hw⟩ | ⟨hr, hodd⟩
  · obtain ⟨hrole, hmem⟩ := (s.respond m .ok).replaceCore_failed i c
    exact ⟨_, htriple hr hw, hrole, hmem.trans (by simp)⟩
  · obtain ⟨hrole, hmem⟩ := (s.respond m .ok).simplexHard_failed i c 0 (lc := lc) (by simp [← hy, hlc])
      (by simp [← hy, PCore.healthy, hr, hodd])
    exact ⟨_, hsimplex hr, hrole, hmem.trans (by simp)⟩

/-- Settles O38.  Each GRP_CTL command is one change of its core, then done (`State.grpCtlW_effect`); a migration starts and
completes as `State.migrate_starts` and `State.migrationComplete_hosts` state; a halt splits a group
(`State.debugHalt_splits`) and its end touches no other core (`State.debugResume_ends`). -/
theorem groupCommandsAndMigration : Obligations.GroupCommandsAndMigration := by
  unfold Obligations.GroupCommandsAndMigration
  refine ⟨fun s m i c y lc hadm hrun hy hlc hst hst' => ?_,
    fun s lc h t sl hrun hh ht hsl hreq hnew hlow hpoint hq hrejoin hbank => ?_,
    fun s lc m cs hfind hcs hwidth hwait hread => ?_, fun s i k hok => ?_,
    fun s lc h hh => ⟨fun hfar hov hq hfirst => ⟨fun hrun hdebug hlost hmig => ?_, ?_⟩, fun hdebug => ?_⟩⟩
  · obtain ⟨hresync, hinject, -, -⟩ := State.grpCtlW_effect hadm hrun hy hst hst'
    refine ⟨fun hr hfull => ?_, fun hr => ?_, fun hretire => ?_⟩
    · obtain ⟨z, hz, hrole, hphase, hodd, hoff⟩ := (s.respond m .ok).markOdd_joins i c 0
      refine ⟨_, State.next_settleMode (hresync hr hfull), ?_, ?_, ?_,
        State.grpDone_fld _ i, ?_, ?_⟩
      · simp [hz, hrole]
      · simp [hz, hphase]
      · simp [hz, hodd]
      · simpa using State.lcs_of_offIslands hoff
      · simpa using State.mem_of_offIslands hoff
    · exact ⟨_, congrArg Host.Outcome.next (hinject hr), State.grpDone_fld _ i,
        by simp [State.modCore, State.setIsl], by simp [State.modCore], by simp [State.modCore]⟩
    · obtain ⟨u, hu, hrole, hmem⟩ := State.grpCtlW_retires hadm hrun hy hlc hst hst' hretire
      exact ⟨_, State.next_settleMode hu, by simp [hrole], State.grpDone_fld u i,
        by simp [hmem]⟩
  · have hat : (s.lc lc.val).stops.hard = true ∨ (s.lc lc.val).atPoint = true :=
      hpoint.imp_right fun ⟨hov, hfar⟩ => by simp [LCore.atPoint, hov, hfar]
    obtain ⟨v, hv, hstarts⟩ := State.migrate_starts hh ht hsl (State.migrateDue_of hrun ht hsl hreq hnew hlow) hat hq
      hrejoin hbank
    exact ⟨v, State.next_settleMode hv, hstarts⟩
  · obtain ⟨v, hv, hhosts⟩ := State.migrationComplete_hosts hfind hcs hwidth hwait hread
    exact ⟨v, State.next_settleMode hv, hhosts⟩
  · exact ⟨s.voterFail i k, rfl, State.voterFail_voterOk hok⟩
  · have hpoint : (s.lc lc.val).atPoint = true := by simp [LCore.atPoint, hfar, hov]
    obtain ⟨v, hv, hstop, hreq, hslot, hcores⟩ := State.debugHalt_splits hh hpoint hq hfirst hrun hdebug hlost hmig
    refine ⟨v, State.next_settleMode hv, hstop, hreq, hslot, fun c hc hrole => ?_⟩
    rw [hcores c hc, PCore.split_role _ _ hrole]
    simp
  · intro x hx hquiesce hreset hdebug hxreset
    have hpoint : (s.lc lc.val).atPoint = true := by simp [LCore.atPoint, hfar, hov]
    have hstop := State.groupStop_stops hh hpoint hq hfirst hquiesce hreset hdebug
    have hstopped : s.groupStopped lc = s.groupStop lc := by
      simp [State.groupStopped, hstop, ← hx, hxreset]
    refine ⟨s.groupStop lc, congrArg Host.Outcome.next hstopped, ?_⟩
    simp [hstop, ← hx]
  · have hoff := State.debugResume_ends hh hdebug
    refine ⟨s.debugResume lc, rfl, ?_, fun k hk => ?_, (State.mem_of_offIslands hoff).trans (by simp)⟩
    · simp [State.lc_of_offIslands hoff]
    · rw [State.lc_of_offIslands hoff, State.modLc_eq, State.setLc_lc_ne _ _ fun h => hk (Fin.ext h.symm)]

end Sys2Proof.Machine

/-! PROOF. Caches and maintenance (O41, O42).  A line written below its home slice while its controller issues commands
reads back; where a line lies, and whether its controller issues commands, no access to memory changes; a request that a home
slice serves ages its records and no more; and a maintenance operation on all engines is each engine's own. -/

namespace Sys2Proof.Machine

/-! ### Memory reads back what was written (R310, R330) -/

theorem leNat_leBytes (n v : Nat) : leNat (leBytes n v) = v % 256 ^ n := by
  induction n generalizing v with
  | zero => simp [leBytes, leNat, Nat.mod_one]
  | succ n ih =>
    rw [leBytes, leNat, ih, BitVec.toNat_ofNat, Nat.pow_succ' (m := 256)]
    exact (Nat.mod_mul (x := v) (a := 256) (b := 256 ^ n)).symm

theorem ofNat_leNat_leBytes (n : Nat) (d : BitVec (8 * n)) : BitVec.ofNat (8 * n) (leNat (leBytes n d.toNat)) = d := by
  have hd : d.toNat < 256 ^ n := d.isLt.trans_eq (pow_mul 2 8 n)
  rw [leNat_leBytes, Nat.mod_eq_of_lt hd, BitVec.ofNat_toNat, BitVec.setWidth_eq]

@[simp] theorem lineOf_lineBytes (d : Line) : lineOf (lineBytes d) = d := ofNat_leNat_leBytes 128 d

theorem memWrite_get_below (m : List Host.Cell) {a b : Nat} (h : b < a) (bs : List Byte) :
    Table.get (V := Byte) 0 (memWrite m a bs) b = Table.get 0 m b := by
  induction bs generalizing m a with
  | nil => rfl
  | cons x bs ih => rw [memWrite, ih _ (Nat.lt_succ_of_lt h), Table.get_set_ne _ _ _ (Nat.ne_of_gt h)]

theorem memRead_memWrite (m : List Host.Cell) (a : Nat) (bs : List Byte) : memRead (memWrite m a bs) a bs.length = bs := by
  induction bs generalizing m a with
  | nil => rfl
  | cons x bs ih =>
    rw [List.length_cons, memRead, memWrite, ih, memWrite_get_below _ (Nat.lt_succ_self a), Table.get_set_self]

theorem mem_insertSorted (n : Nat) (xs : List Nat) : n ∈ insertSorted n xs := by
  induction xs with
  | nil => simp [insertSorted]
  | cons a xs ih =>
    unfold insertSorted
    split
    · simp
    · split
      · simp [*]
      · simp [ih]

section
variable (s : State) (l : LineNo) (d : Line) (poison : Bool)

@[simp] theorem State.setMemLine_memLine : (s.setMemLine l d poison).memLine l = d := by
  have hread := memRead_memWrite s.mem (lineAddr l) (lineBytes d)
  rw [lineBytes, leBytes_length] at hread
  simp only [State.memLine, State.setMemLine, State.setPoison, lineBytes, hread]
  exact lineOf_lineBytes d

@[simp] theorem State.setMemLine_isPoison : (s.setMemLine l d poison).isPoison l = poison := by
  cases poison <;> simp [State.isPoison, State.setMemLine, State.setPoison, mem_insertSorted]

end

/-! ### Writes to a channel that issues commands (R314, R318) -/

/-- The channel of a tile offset is one of its tile's. -/
theorem State.chanOf_div (s : State) (t off : Nat) : s.chanOf t off / 5 = t := by
  unfold State.chanOf
  dsimp only
  split <;> omega

theorem State.not_failed_of_issues {s : State} {c : Nat} (h : (s.chan c).issues = true) : s.chanFailed c = false := by
  simp only [ChanSt.issues, Bool.and_eq_true, beq_iff_eq] at h
  obtain ⟨⟨hst, -⟩, -⟩ := h
  simp [State.chanFailed, hst]

section
variable {s : State} {l : LineNo} {t off : Nat}
  (hplace : s.place (lineAddr l) = .dram t off) (hissue : s.chanIssues (s.chanOf t off) = true)
include hplace hissue

/-- A whole line reaches its memory location at once. -/
theorem State.homeWrite_issued (d : Line) (poison : Bool) : s.homeWrite l fullMask d poison = s.setMemLine l d poison := by
  have hserve : (!(s.map t).stripe && s.chanFailed (s.chanOf t off)) = false := by
    have hissue' := hissue
    unfold State.chanIssues at hissue'
    rw [s.chanOf_div] at hissue'
    split at hissue'
    · next hstripe => simp [hstripe]
    · simp [State.not_failed_of_issues hissue']
  simp only [State.homeWrite, hplace, State.mcAccept, hserve, hissue, State.dramApply, Bool.false_eq_true, if_false, if_true]

theorem State.wqFull_issued : s.wqFull l = false := by
  simp [State.wqFull, hplace, hissue]

end

/-! ### Where a line lies, and what serves it (R271, R272, R310, R311, R314) -/

/-- What fixes the place of every line and whether its controller issues commands. -/
def State.ground (s : State) : Table MapSt × Loader × (Nat → Nat) × (Nat → Bool × Bool) :=
  (s.maps, s.loader, fun n => (s.port n).cxlUnits, fun n => ((s.chan n).issues, s.chanFailed n))

section
variable {s t : State} (h : t.ground = s.ground)
include h

theorem State.place_of_ground (pa : Nat) : t.place pa = s.place pa := by
  simp only [State.ground, Prod.mk.injEq] at h
  obtain ⟨hmaps, hloader, hunits, -⟩ := h
  have himage : t.image = s.image := by simp only [State.image, hloader]
  have hproto : t.portProto = s.portProto := by funext p; simp only [State.portProto, State.portRec, himage]
  have hmap : t.map = s.map := funext fun n => congrArg (Table.get MapSt.init · n) hmaps
  have hcaps : t.caps = s.caps := by simp only [State.caps, hmap]
  have hdram : t.dramPlace pa = s.dramPlace pa := by unfold State.dramPlace State.dramTop; rw [hcaps]
  have hcxl : t.cxlPort pa = s.cxlPort pa := by
    unfold State.cxlPort State.cxlWindow
    simp only [hproto, fun n => congrFun hunits n]
  have hpcie : t.pcieWindow pa = s.pcieWindow pa := by unfold State.pcieWindow; rw [hproto]
  have hbell : t.doorbell pa = s.doorbell pa := by unfold State.doorbell; rw [hproto]
  unfold State.place
  rw [hdram, hcxl, hpcie, hbell]

theorem State.homeSlice_of_ground (l : LineNo) : t.homeSlice l = s.homeSlice l := by
  unfold State.homeSlice State.homeTile
  rw [State.place_of_ground h]

theorem State.map_of_ground : t.map = s.map :=
  funext fun n => congrArg (Table.get MapSt.init · n) (congrArg Prod.fst h : t.maps = s.maps)

theorem State.chanOf_of_ground : t.chanOf = s.chanOf := by
  funext k off
  simp only [State.chanOf, State.map_of_ground h]

theorem State.chanIssues_of_ground (c : Nat) : t.chanIssues c = s.chanIssues c := by
  have hmap := State.map_of_ground h
  simp only [State.ground, Prod.mk.injEq] at h
  obtain ⟨-, -, -, hchans⟩ := h
  have hchan (n : Nat) : (t.chan n).issues = (s.chan n).issues ∧ t.chanFailed n = s.chanFailed n :=
    Prod.mk.inj (congrFun hchans n)
  simp only [State.chanIssues, hmap, hchan]

end

section
variable (s : State)

@[simp] theorem State.ite_ground (P : Prop) [Decidable P] (t : State) :
    (if P then s else t).ground = if P then s.ground else t.ground := apply_ite State.ground P s t

@[simp] theorem State.setReg_ground (r : CsReg) (v : Word) : (s.setReg r v).ground = s.ground := rfl
@[simp] theorem State.setLc_ground (n : Nat) (v : LCore) : (s.setLc n v).ground = s.ground := rfl
@[simp] theorem State.setHolder_ground (n : Nat) (v : Holder) : (s.setHolder n v).ground = s.ground := rfl
@[simp] theorem State.setSlice_ground (n : Nat) (v : SliceSt) : (s.setSlice n v).ground = s.ground := rfl
@[simp] theorem State.setCt_ground (n : Nat) (v : CtSt) : (s.setCt n v).ground = s.ground := rfl
@[simp] theorem State.setMemLine_ground (l : LineNo) (d : Line) (p : Bool) : (s.setMemLine l d p).ground = s.ground := rfl
@[simp] theorem State.clearResvs_ground (l : LineNo) (except : Option Lc) : (s.clearResvs l except).ground = s.ground := rfl
@[simp] theorem State.dropReq_ground (r : Requester) (l : LineNo) : (s.dropReq r l).ground = s.ground := rfl
@[simp] theorem State.unstarve_ground (h : Nat) (l : LineNo) (r : Requester) : (s.unstarve h l r).ground = s.ground := rfl
@[simp] theorem State.modTxn_ground (h : Nat) (l : LineNo) (f : Txn → Txn) : (s.modTxn h l f).ground = s.ground := rfl
@[simp] theorem State.sfPut_ground (h : Nat) (e : SfEntry) : (s.sfPut h e).ground = s.ground := rfl

@[simp] theorem State.report_ground (a b c d : Nat) : (s.report a b c d).ground = s.ground := by
  rw [State.report_srcBufs]
  rfl

/-- Neither the queued writes of a channel nor its answers to rejected reads decide what it serves. -/
theorem State.setChan_ground {n : Nat} {v : ChanSt} (hissues : v.issues = (s.chan n).issues) (hst : v.st = (s.chan n).st) :
    (s.setChan n v).ground = s.ground := by
  refine congrArg (fun f => (s.maps, s.loader, (fun n => (s.port n).cxlUnits), f)) (funext fun k => ?_)
  by_cases hk : n = k
  · subst hk
    simp [State.chanFailed, hissues, hst]
  · simp [State.chanFailed, State.setChan_chan_ne _ _ hk]

theorem State.setPort_ground {n : Nat} {v : PortSt} (hunits : v.cxlUnits = (s.port n).cxlUnits) :
    (s.setPort n v).ground = s.ground := by
  refine congrArg (fun f => (s.maps, s.loader, f, fun n => ((s.chan n).issues, s.chanFailed n))) (funext fun k => ?_)
  by_cases hk : n = k
  · subst hk
    simp [hunits]
  · simp [State.setPort_port_ne _ _ hk]

@[simp] theorem State.dramApply_ground (e : WqEntry) : (s.dramApply e).ground = s.ground := by
  simp [State.dramApply]

@[simp] theorem State.mcAccept_ground (t off : Nat) (e : WqEntry) : (s.mcAccept t off e).ground = s.ground := by
  unfold State.mcAccept
  dsimp only
  split
  · rfl
  · split
    · simp
    · exact s.setChan_ground rfl rfl

@[simp] theorem State.brLog_ground (l : LineNo) (cause holder : Nat) : (s.brLog l cause holder).ground = s.ground := by
  unfold State.brLog
  split <;> simp

@[simp] theorem State.cxlDrop_ground (p : Port) (l : LineNo) : (s.cxlDrop p l).ground = s.ground := by
  unfold State.cxlDrop
  dsimp only
  split
  · simp
  · split
    · rw [State.modPort_eq, State.setPort_ground, State.brLog_ground]
      rfl
    · rw [State.report_ground, State.modPort_eq, State.setPort_ground, State.brLog_ground]
      rfl

@[simp] theorem State.homeWrite_ground (l : LineNo) (mask : BitVec 128) (d : Line) (poison : Bool) :
    (s.homeWrite l mask d poison).ground = s.ground := by
  unfold State.homeWrite
  split <;> simp

@[simp] theorem State.victimAccept_ground (h : Nat) : (s.victimAccept h).ground = s.ground := by
  unfold State.victimAccept
  split <;> simp

@[simp] theorem State.victimsFor_ground (h : Nat) (l : LineNo) (n : Nat) : (s.victimsFor h l n).ground = s.ground := by
  induction n generalizing s with
  | zero => rfl
  | succ n ih => simp [State.victimsFor, ih]

@[simp] theorem State.victimSettle_ground (l : LineNo) : (s.victimSettle l).ground = s.ground := by
  unfold State.victimSettle
  split <;> simp

@[simp] theorem State.waitFill_ground (l : LineNo) : (s.waitFill l).ground = s.ground := by
  unfold State.waitFill
  split <;> simp

@[simp] theorem State.basinDrop_ground (l : LineNo) : (s.basinDrop l).ground = s.ground := by
  unfold State.basinDrop
  split <;> simp

@[simp] theorem State.basinFill_ground (l : LineNo) (d : Line) (dirty poison : Bool) (mask age hit : Nat) :
    (s.basinFill l d dirty poison mask age hit).ground = s.ground := by
  unfold State.basinFill
  split
  · rfl
  · dsimp only
    split
    · simp
    · split
      · simp
      · split <;> simp

@[simp] theorem State.sfTouch_ground (l : LineNo) : (s.sfTouch l).ground = s.ground := by
  unfold State.sfTouch
  split <;> simp

@[simp] theorem State.sfMod_ground (h : Nat) (l : LineNo) (f : SfEntry → SfEntry) : (s.sfMod h l f).ground = s.ground := by
  unfold State.sfMod
  split <;> simp

@[simp] theorem State.sfEnd_ground (l : LineNo) (held : List Slot) : (s.sfEnd l held).ground = s.ground := by
  unfold State.sfEnd
  split <;> simp

@[simp] theorem State.maintTouch_ground (l : LineNo) : (s.maintTouch l).ground = s.ground := by
  unfold State.maintTouch
  split <;> simp

@[simp] theorem State.writeback_ground (sl : Slot) (l : LineNo) : (s.writeback sl l).ground = s.ground := by
  unfold State.writeback
  split <;> simp

@[simp] theorem State.homeArrive_ground (l : LineNo) : (s.homeArrive l).ground = s.ground := by
  rw [State.homeArrive, State.victimSettle_ground]
  exact State.foldl_keeps State.ground (fun s x => s.writeback_ground x l) _ s

@[simp] theorem State.endHold_ground (sl : Slot) : (s.endHold sl).ground = s.ground := by
  unfold State.endHold
  split <;> simp

@[simp] theorem State.slotInvalidate_ground (sl : Nat) (l : LineNo) : (s.slotInvalidate sl l).ground = s.ground := by
  unfold State.slotInvalidate
  dsimp only
  split
  · simp
  · split <;> simp

@[simp] theorem State.invalidateAll_ground (l : LineNo) (except : Option Slot) :
    (s.invalidateAll l except).ground = s.ground :=
  State.foldl_keeps State.ground (fun s _ => s.slotInvalidate_ground _ l) _ s

@[simp] theorem State.snoopWrite_ground (l : LineNo) (d : Line) (poison : Bool) :
    (s.snoopWrite l d poison).ground = s.ground := by
  unfold State.snoopWrite
  dsimp only
  split <;> simp

@[simp] theorem State.snoop_ground (sl : Slot) (l : LineNo) (k : Snoop) (starving : Bool) :
    (s.snoop sl l k starving).1.ground = s.ground := by
  unfold State.snoop
  dsimp only
  split
  · rfl
  · split
    · rfl
    · split
      · rfl
      · cases k <;> dsimp only
        case peek | probe => simp
        all_goals split <;> simp

theorem State.foldl_snoop_ground (l : LineNo) (xs : List Slot) :
    (xs.foldl (fun s x => ((s.endHold x).snoop x l .inv true).1) s).ground = s.ground :=
  State.foldl_keeps State.ground (fun s x => by simp) xs s

end

end Sys2Proof.Machine

namespace Sys2Proof.Machine

/-! ### Maintenance engines (R265 to R270) -/

/-- The engine is at the start of an operation that `issuer` issued in `s`: its lines to do are those found there. -/
def State.MaintBegun (s u : State) (issuer : Slice) (op : Nat) (discard : Bool) (first last : LineNo) (k : Slice) : Prop :=
  ∃ o, (u.slice k.val).maint = some o ∧ o.op = BitVec.ofNat 2 op ∧ o.discard = discard ∧ o.first = first ∧ o.last = last ∧
    o.issuer = issuer ∧ o.finished = false ∧ o.todo = s.maintLines k.val first last ∧
    u.fld (.maintStatus k) 47 47 = 0 ∧ u.fld (.maintStatus k) 46 0 = 0

/-- The engine's record and its status are the same in both states. -/
def State.SameEngine (s u : State) (k : Slice) : Prop :=
  u.slice k.val = s.slice k.val ∧ u.reg (.maintStatus k) = s.reg (.maintStatus k)

theorem State.SameEngine.fld {s u : State} {k : Slice} (h : s.SameEngine u k) (hi lo : Nat) :
    u.fld (.maintStatus k) hi lo = s.fld (.maintStatus k) hi lo := congrArg (bits · hi lo) h.2

theorem State.MaintBegun.kept {s t u : State} {issuer k : Slice} {op : Nat} {discard : Bool} {first last : LineNo}
    (h : s.MaintBegun t issuer op discard first last k) (hsame : t.SameEngine u k) :
    s.MaintBegun u issuer op discard first last k := by
  simpa only [State.MaintBegun, hsame.1, hsame.fld] using h

theorem maintStatus_addr_ne {h k : Slice} (hne : h ≠ k) : (CsReg.maintStatus h).addr ≠ (CsReg.maintStatus k).addr := by
  have hval : h.val ≠ k.val := fun e => hne (Fin.ext e)
  simp only [CsReg.addr, sliceAddr, ctAddr, winBase, csBase]
  omega

section
variable (s : State) (issuer : Slice) (op : Nat) (discard : Bool) (first last : LineNo) (o : Fin 18)

theorem State.maintBegin_begun (k : Slice) :
    s.MaintBegun (s.maintBegin k issuer op discard first last o) issuer op discard first last k := by
  refine ⟨_, congrArg SliceSt.maint (State.setSlice_slice ..), rfl, rfl, rfl, rfl, rfl, rfl, rfl, ?_, ?_⟩
  · have hapart := (s.setFld (.maintStatus k) 47 47 0).setFld_fld_apart (.maintStatus k) 46 0 0 47 47 (by omega) (by omega)
      (by omega)
    exact hapart.trans (s.setFld_fld_self (.maintStatus k) 47 47 0 (by omega) (by omega))
  · exact (s.setFld (.maintStatus k) 47 47 0).setFld_fld_self (.maintStatus k) 46 0 0 (by omega) (by omega)

theorem State.maintBegin_result (k : Slice) :
    (s.maintBegin k issuer op discard first last o).fld (.maintStatus k) 62 60 = s.fld (.maintStatus k) 62 60 := by
  have hapart := (s.setFld (.maintStatus k) 47 47 0).setFld_fld_apart (.maintStatus k) 46 0 0 62 60 (by omega) (by omega)
    (by omega)
  exact hapart.trans (s.setFld_fld_apart (.maintStatus k) 47 47 0 62 60 (by omega) (by omega) (by omega))

theorem State.maintBegin_other {k j : Slice} (hne : k ≠ j) :
    s.SameEngine (s.maintBegin k issuer op discard first last o) j := by
  have haddr := maintStatus_addr_ne hne
  refine ⟨State.setSlice_slice_ne _ _ fun e => hne (Fin.ext e), ?_⟩
  exact (State.setReg_reg_ne _ _ haddr).trans (State.setReg_reg_ne _ _ haddr)

theorem State.maintLines_congr {s t : State} {k : Nat} (h : t.slice k = s.slice k) (first last : LineNo) :
    t.maintLines k first last = s.maintLines k first last := by
  simp only [State.maintLines, h]

/-- Engines start one after the other; each finds its own lines, and the others are as before. -/
theorem State.maintBegin_engines (ks : List Slice) (hnodup : ks.Nodup) :
    let u := ks.foldl (fun s k => s.maintBegin k issuer op discard first last o) s
    (∀ k ∈ ks, s.MaintBegun u issuer op discard first last k) ∧ (∀ k ∉ ks, s.SameEngine u k) ∧
      (∀ k, u.fld (.maintStatus k) 62 60 = s.fld (.maintStatus k) 62 60) ∧
      { u with regs := s.regs, slices := s.slices } = s := by
  induction ks generalizing s with
  | nil => exact ⟨by simp, fun _ _ => ⟨rfl, rfl⟩, fun _ => rfl, rfl⟩
  | cons x ks ih =>
    obtain ⟨hx, hks⟩ := List.nodup_cons.mp hnodup
    have hother {k : Slice} (hk : x ≠ k) := s.maintBegin_other issuer op discard first last o hk
    obtain ⟨hbegun, hsame, hresult, hrest⟩ := ih (s.maintBegin x issuer op discard first last o) hks
    refine ⟨fun k hk => ?_, fun k hk => ?_, fun k => (hresult k).trans ?_, ?_⟩
    · rcases eq_or_ne x k with rfl | hne
      · exact (s.maintBegin_begun issuer op discard first last o x).kept (hsame x hx)
      · have hlines := State.maintLines_congr (hother hne).1 first last
        simpa only [State.MaintBegun, hlines, List.foldl_cons] using hbegun k ((List.mem_cons.mp hk).resolve_left hne.symm)
    · obtain ⟨hne, hk⟩ := not_or.mp fun hmem => hk (List.mem_cons.mpr hmem)
      obtain ⟨hslice, hreg⟩ := hother (Ne.symm hne)
      exact ⟨(hsame k hk).1.trans hslice, (hsame k hk).2.trans hreg⟩
    · rcases eq_or_ne x k with rfl | hne
      · exact s.maintBegin_result issuer op discard first last o x
      · exact (hother hne).fld ..
    · exact congrArg (fun t : State => { t with regs := s.regs, slices := s.slices }) hrest

end

/-- The engines that a MAINT_CTL write of slice `h` starts. -/
def maintEngines (h : Slice) (all : Bool) : List Slice := if all then List.finRange 24 else [h]

theorem mem_maintEngines {h k : Slice} {all : Bool} : k ∈ maintEngines h all ↔ k = h ∨ all = true := by
  cases all <;> simp [maintEngines]

theorem maintEngines_nodup (h : Slice) (all : Bool) : (maintEngines h all).Nodup := by
  cases all
  · exact List.nodup_singleton h
  · exact List.nodup_finRange 24

/-- An engine that the write names is busy. -/
def State.maintAnyBusy (s : State) (h : Slice) (all : Bool) : Bool :=
  s.maintBusy h || (all && (List.finRange 24).any fun k => s.maintBusy k)

theorem State.maintAnyBusy_iff (s : State) (h : Slice) (all : Bool) :
    s.maintAnyBusy h all = true ↔ s.maintBusy h = true ∨ (all = true ∧ ∃ k : Slice, s.maintBusy k = true) := by
  simp [State.maintAnyBusy]

/-- The range and the options are those of an operation that the master may start (R266, R268). -/
def State.maintFits (s : State) (m : Master) (op : Nat) (discard : Bool) (first last : LineNo) : Bool :=
  !(last.toNat < first.toNat || (discard && (op ≠ 2 || s.masterLevel m = 0)) || !s.maintGranted m first.toNat last.toNat)

theorem State.maintFits_iff (s : State) (m : Master) (op : Nat) (discard : Bool) (first last : LineNo) :
    s.maintFits m op discard first last = true ↔ first.toNat ≤ last.toNat ∧
      (discard = true → op = 2 ∧ s.masterLevel m ≠ 0) ∧ s.maintGranted m first.toNat last.toNat = true := by
  cases discard <;> simp [State.maintFits, and_assoc]

section
variable {s : State} {m : Master} {h : Slice} {op : Nat} {all discard : Bool} {first last : LineNo}
  (hadm : s.admits m (CsReg.maintCtl h).addr needW true = true) (hop : op ≠ 0)
  (hfirst : first = BitVec.ofNat 45 (s.reg (.maintFirst h)).toNat)
  (hlast : last = BitVec.ofNat 45 (s.reg (.maintLast h)).toNat)
include hadm hop hfirst hlast

/-- A MAINT_CTL write that names an operation: refused with its result, or the engines start. -/
theorem State.maintW_admits : s.maintW m h op all discard =
    if s.maintAnyBusy h all then (s.respond m .ok).setFld (.maintStatus h) 62 60 1
    else if !s.runOrQuiesce then (s.respond m .ok).setFld (.maintStatus h) 62 60 2
    else if !s.maintFits m op discard first last then (s.respond m .ok).setFld (.maintStatus h) 62 60 3
    else (maintEngines h all).foldl (fun t k => t.maintBegin k h op discard first last (ownerFin18 (s.masterOwners m).head?))
      ((s.respond m .ok).setFld (.maintStatus h) 62 60 0) := by
  subst hfirst hlast
  rw [State.maintW, State.csOpen_admits _ _ _ _ hadm]
  dsimp only
  rw [if_neg (by simp [hop])]
  refine if_congr Iff.rfl rfl (if_congr Iff.rfl rfl (if_congr ?_ rfl ?_))
  · simp only [hop, State.maintFits, decide_false, Bool.false_or, Bool.not_not]
    exact Iff.rfl
  · cases all <;> rfl

end

/-- The result of a MAINT_CTL write that is refused stands in MAINT_STATUS, and nothing else changes. -/
def State.maintRefused (s : State) (m : Master) (h : Slice) (v : Nat) : State :=
  (s.respond m .ok).setFld (.maintStatus h) 62 60 v

/-- Whether a MAINT_CTL write of operation `op` is refused, and what it starts. -/
theorem State.maintW_outcome {s : State} {m : Master} {h : Slice} {op : Nat} {all discard : Bool} {first last : LineNo}
    (hadm : s.admits m (CsReg.maintCtl h).addr needW true = true) (hop : op ≠ 0)
    (hfirst : first = BitVec.ofNat 45 (s.reg (.maintFirst h)).toNat)
    (hlast : last = BitVec.ofNat 45 (s.reg (.maintLast h)).toNat) :
    let u := s.maintW m h op all discard
    let busy : Prop := s.maintBusy h = true ∨ (all = true ∧ ∃ k : Slice, s.maintBusy k = true)
    let fits : Prop := first.toNat ≤ last.toNat ∧ (discard = true → op = 2 ∧ s.masterLevel m ≠ 0) ∧
      s.maintGranted m first.toNat last.toNat = true
    (busy → u = s.maintRefused m h 1) ∧
    (¬ busy → s.runOrQuiesce = false → u = s.maintRefused m h 2) ∧
    (¬ busy → s.runOrQuiesce = true → ¬ fits → u = s.maintRefused m h 3) ∧
    (¬ busy → s.runOrQuiesce = true → fits →
      u.fld (.maintStatus h) 62 60 = 0 ∧ u.mem = s.mem ∧ u.holders = s.holders ∧ u.respOf m = some .ok ∧
      (∀ k : Slice, k = h ∨ all = true → s.MaintBegun u h op discard first last k) ∧
      ∀ k : Slice, k ≠ h → all = false → u.slice k.val = s.slice k.val) := by
  intro u busy fits
  have hu := State.maintW_admits (all := all) (discard := discard) hadm hop hfirst hlast
  have hbusy : s.maintAnyBusy h all = true ↔ busy := s.maintAnyBusy_iff h all
  have hfits : s.maintFits m op discard first last = true ↔ fits := s.maintFits_iff m op discard first last
  refine ⟨fun hb => ?_, fun hb hrun => ?_, fun hb hrun hf => ?_, fun hb hrun hf => ?_⟩
  · exact hu.trans (if_pos (hbusy.mpr hb))
  · exact hu.trans ((if_neg (mt hbusy.mp hb)).trans (if_pos (by simp [hrun])))
  · exact hu.trans ((if_neg (mt hbusy.mp hb)).trans ((if_neg (by simp [hrun])).trans (if_pos (by simp [mt hfits.mp hf]))))
  · rw [if_neg (mt hbusy.mp hb), if_neg (by simp [hrun]), if_neg (by simp [hfits.mpr hf])] at hu
    obtain ⟨hbegun, hsame, hresult, hrest⟩ := (s.maintRefused m h 0).maintBegin_engines h op discard first last
      (ownerFin18 (s.masterOwners m).head?) (maintEngines h all) (maintEngines_nodup h all)
    rw [State.maintRefused, ← hu] at hbegun hsame hresult hrest
    refine ⟨(hresult h).trans (State.setFld_fld_self _ _ 62 60 0 (by omega) (by omega)), (congrArg State.mem hrest :),
      (congrArg State.holders hrest :), ?_, fun k hk => hbegun k (mem_maintEngines.mpr hk), fun k hne hall => ?_⟩
    · exact (congrArg (State.respOf · m) hrest :).trans (s.respond_respOf m .ok)
    · exact (hsame k (mt mem_maintEngines.mp (by simp [hne, hall]))).1

/-! ### One maintenance action (R265, R267, R268, R270) -/

/-- Nothing waits in the basin copy of a line. -/
theorem State.basinMeet_clean {s : State} {l : LineNo} {h : Slice} (hhome : s.homeSlice l = some h)
    (herrs : ∀ e ∈ (s.slice h.val).errs, e.1 ≠ l) : s.basinMeet l = s := by
  have hnone : ((s.slice h.val).errs.find? fun e => e.1 = l) = none := by simpa using herrs
  simp only [State.basinMeet, hhome, hnone]

/-- Nothing waits in the caches of the slots. -/
theorem State.lineMet_clean {s : State} {xs : List Slot} {l : LineNo} (h : ∀ x ∈ xs, s.cacheErr x l = false)
    (k : State → State) : s.lineMet xs l k = k s := by
  have hany : (xs.any fun x => s.cacheErr x l) = false := by simpa using h
  simp [State.lineMet, hany]

theorem State.sfEnd_basin (s : State) (l : LineNo) (held : List Slot) (n : Nat) :
    ((s.sfEnd l held).slice n).basin = (s.slice n).basin := by
  have hmod (h : Nat) (f : SfEntry → SfEntry) : ((s.sfMod h l f).slice n).basin = (s.slice n).basin := by
    unfold State.sfMod
    split
    · by_cases hn : h = n
      · subst hn
        simp [State.sfPut]
      · simp [State.sfPut, State.setSlice_slice_ne _ _ hn]
    · rfl
  unfold State.sfEnd
  split
  · rfl
  · exact hmod ..

theorem State.basinDrop_gone {s : State} {l : LineNo} {h : Slice} (hhome : s.homeSlice l = some h) :
    ∀ b ∈ ((s.basinDrop l).slice h.val).basin, b.line ≠ l := by
  simp [State.basinDrop, hhome]

/-- INVALIDATE and CLEAN_INVALIDATE of a line that nothing has reached since the start leave no basin copy of it. -/
theorem State.maintLine_gone {s : State} {l : LineNo} {h : Slice} {op : Nat} (discard : Bool)
    (hhome : s.homeSlice l = some h) (hop : op ≠ 1) : ∀ b ∈ ((s.maintLine l op discard false).slice h.val).basin, b.line ≠ l := by
  unfold State.maintLine
  rw [if_neg (by simp), if_neg (by simp [hop])]
  extract_lets s1 s2
  have h1 : s1.ground = s.ground := by
    simp only [s1]
    split <;> simp [State.foldl_snoop_ground]
  have h2 : s2.ground = s1.ground := by
    simp only [s2]
    split <;> simp
  have hhome2 : s2.homeSlice l = some h := (State.homeSlice_of_ground (h2.trans h1) l).trans hhome
  rw [State.sfEnd_basin]
  exact State.basinDrop_gone hhome2

section
variable {s : State} {h : Slice} {o : MaintOp} (hmaint : (s.slice h.val).maint = some o) (hopen : o.finished = false)
include hmaint hopen

/-- An action that the home slice serves is taken from the list and counted, and its line has been acted on. -/
theorem State.maintAction_served {l : LineNo} {r : Requester} (hr : r = .agent (BitVec.ofNat 16 (maintSrc h.val)))
    (hturn : l ∈ o.todo.take 16) (hhome : s.homeSlice l = some h) (hnack : ((s.outReq r l).any fun x => x.nacked) = false)
    (hrefuse : s.refuses h.val l r (if o.op = 1 then .peek else .maint) = false) (hroom : s.homeWaits l = false) :
    ((s.maintAction h l).slice h.val).maint = some { o with
      todo := o.todo.filter (· ≠ l), lines := o.lines + 1, poisoned := o.poisoned || (s.freshest l).2 } ∧
    (o.op ≠ 1 → l ∉ o.touched → ∀ b ∈ ((s.maintAction h l).slice h.val).basin, b.line ≠ l) := by
  subst hr
  unfold State.maintAction
  split
  · next hnone => simp [hmaint] at hnone
  next o' ho' =>
  obtain rfl : o = o' := Option.some.inj (hmaint.symm.trans ho')
  extract_lets r p s1 reg s2 s3
  rw [if_neg (by simpa [hopen, hturn] using hnack), if_neg (by simpa using hrefuse), if_neg (by simp [hroom])]
  refine ⟨congrArg SliceSt.maint (State.setSlice_slice ..), fun hop hnew => ?_⟩
  have hop' : o.op.toNat ≠ 1 := fun e => hop (BitVec.eq_of_toNat_eq e)
  have hs3 : s3.slice h.val = s1.slice h.val := by
    simp only [s3, s2]
    split <;> simp
  have hgone : ∀ b ∈ (s1.slice h.val).basin, b.line ≠ l := by
    have hcontains : o.touched.contains l = false := by simpa using hnew
    simp only [s1, hcontains]
    exact State.maintLine_gone o.discard ((State.homeSlice_of_ground (by simp) l).trans hhome) hop'
  simpa [hs3] using hgone

/-- The last action of an operation has completed: the engine is finished, and completion messages are raised (R269, R270). -/
theorem State.maintDone_finishes (hdone : o.todo = []) :
    ((s.maintDone h).slice h.val).maint = some { o with finished := true } ∧
      (s.maintDone h).fld (.maintStatus h) 46 32 = 16384 ∧ (s.maintDone h).mem = s.mem ∧
      (s.maintDone h).holders = s.holders := by
  unfold State.maintDone
  split
  · next hnone => simp [hmaint] at hnone
  next o' ho' =>
  obtain rfl : o = o' := Option.some.inj (hmaint.symm.trans ho')
  rw [if_neg (by simp [hopen, hdone])]
  extract_lets own raise s1 s2
  have hraised : ∃ irqs, (if s2.maintBusy o.issuer then s2 else raise s2 o.issuer) = { s1 with irqs := irqs } := by
    simp only [s2]
    split <;> split <;> exact ⟨_, rfl⟩
  obtain ⟨irqs, hraised⟩ := hraised
  rw [hraised]
  exact ⟨congrArg SliceSt.maint (State.setSlice_slice ..),
    s.setFld_fld_self (.maintStatus h) 46 32 16384 (by omega) (by omega), rfl, rfl⟩

end

/-- Settles O42.  A MAINT_CTL write of each operation ends as `State.maintW_outcome` states, an action on a line in which no
error waits as `State.maintAction_served`, the end of an operation as `State.maintDone_finishes`. -/
theorem maintenanceOperations : Obligations.MaintenanceOperations := by
  unfold Obligations.MaintenanceOperations
  refine ⟨fun s m h all discard hadm => ?_,
    fun s h line o r hr hmaint hopen hturn hhome hnack hrefuse hroom herrs hcache => ?_,
    fun s h o hmaint hopen hdone => ⟨_, rfl, State.maintDone_finishes hmaint hopen hdone⟩⟩
  · intro first last busy fits refused after
    have started {op : Nat} (hop : op ≠ 0) : after op (s.maintW m h op all discard) := State.maintW_outcome hadm hop rfl rfl
    exact ⟨⟨_, rfl, started (by decide)⟩, ⟨_, rfl, started (by decide)⟩, ⟨_, rfl, started (by decide)⟩⟩
  · have hserved := State.maintAction_served hmaint hopen hr hturn hhome hnack hrefuse hroom
    refine ⟨_, congrArg Host.Outcome.next ?_, hserved⟩
    rw [State.basinMeet_clean hhome herrs]
    exact State.lineMet_clean hcache _

end Sys2Proof.Machine

namespace Sys2Proof.Machine

/-! ### The service of a request at its home slice (R254, R257, R285, R289) -/

/-- A basin line without its age. -/
def BLine.young (b : BLine) : BLine := { b with age := 0 }

/-- What the service of a request cannot change: all but the requests and the home slices' records, and of these the errors
that wait, the victims, and the basin without the ages. -/
def State.unaged (s : State) : State × (Nat → List (LineNo × Bool) × List Victim × List BLine) :=
  ({ s with slices := [], outReqs := [] },
    fun n => ((s.slice n).errs, (s.slice n).victims, (s.slice n).basin.map BLine.young))

section
variable {s t : State} (h : t.unaged = s.unaged)
include h

theorem State.ground_of_unaged : t.ground = s.ground := (congrArg (fun x => State.ground x.1) h :)
theorem State.holders_of_unaged : t.holders = s.holders := (congrArg (fun x => x.1.holders) h :)
theorem State.mem_of_unaged : t.mem = s.mem := (congrArg (fun x => x.1.mem) h :)
theorem State.lcs_of_unaged : t.lcs = s.lcs := (congrArg (fun x => x.1.lcs) h :)

theorem State.slotsWith_of_unaged (l : LineNo) : t.slotsWith l = s.slotsWith l :=
  (congrArg (fun x => State.slotsWith x.1 l) h :)
theorem State.cacheErr_of_unaged (x : Slot) (l : LineNo) : t.cacheErr x l = s.cacheErr x l :=
  (congrArg (fun y => State.cacheErr y.1 x l) h :)

theorem State.slice_of_unaged (n : Nat) : (t.slice n).errs = (s.slice n).errs ∧ (t.slice n).victims = (s.slice n).victims ∧
    (t.slice n).basin.map BLine.young = (s.slice n).basin.map BLine.young := by
  have hn := congrFun (congrArg Prod.snd h) n
  simpa only [State.unaged, Prod.mk.injEq] using hn

theorem State.basinCopy_of_unaged (l : LineNo) : (t.basinCopy l).map BLine.young = (s.basinCopy l).map BLine.young := by
  have hfind (xs : List BLine) : (xs.find? fun b => b.line = l).map BLine.young =
      (xs.map BLine.young).find? fun b => b.line = l := by
    rw [List.find?_map]
    rfl
  unfold State.basinCopy
  rw [State.homeSlice_of_ground (State.ground_of_unaged h)]
  cases s.homeSlice l with
  | none => rfl
  | some k =>
    obtain ⟨-, hvictims, hbasin⟩ := State.slice_of_unaged h k.val
    simp only [Option.bind_some, hvictims]
    split
    · rfl
    · rw [hfind, hfind, hbasin]

theorem State.memValue_of_unaged (l : LineNo) : t.memValue l = s.memValue l := by
  have hplace := State.place_of_ground (State.ground_of_unaged h) (lineAddr l)
  have hline : t.memLine = s.memLine := (congrArg (fun x => State.memLine x.1) h :)
  have hpoison : t.isPoison = s.isPoison := (congrArg (fun x => State.isPoison x.1) h :)
  have hgood : t.dramGood = s.dramGood := (congrArg (fun x => State.dramGood x.1) h :)
  have hrebuilt : t.rebuiltPoison = s.rebuiltPoison := (congrArg (fun x => State.rebuiltPoison x.1) h :)
  have hchan : t.chan = s.chan := (congrArg (fun x => State.chan x.1) h :)
  have hchanOf : t.chanOf = s.chanOf := (congrArg (fun x => State.chanOf x.1) h :)
  unfold State.memValue State.readsPoison
  rw [hplace, hline, hpoison, hgood, hrebuilt, hchan, hchanOf]

/-- The freshest copy of a line does not depend on ages. -/
theorem State.freshest_of_unaged (l : LineNo) : t.freshest l = s.freshest l := by
  have hdirty : t.dirtyCopy l = s.dirtyCopy l := (congrArg (fun x => State.dirtyCopy x.1 l) h :)
  have hevict : t.evictCopy l = s.evictCopy l := (congrArg (fun x => State.evictCopy x.1 l) h :)
  have htransit : t.transitCopy l = s.transitCopy l := by
    simp only [State.transitCopy, State.homeSlice_of_ground (State.ground_of_unaged h), (State.slice_of_unaged h _).2.1]
  have hcopy := State.basinCopy_of_unaged h l
  unfold State.freshest
  rw [hdirty, hevict, htransit, State.memValue_of_unaged h]
  cases ht : t.basinCopy l with
  | none =>
    rw [ht] at hcopy
    rw [Option.map_eq_none_iff.mp hcopy.symm]
  | some b =>
    rw [ht] at hcopy
    obtain ⟨b', hs, hyoung⟩ := Option.map_eq_some_iff.mp hcopy.symm
    have hdata : b'.data = b.data := (congrArg BLine.data hyoung :)
    have hpoison : b'.poison = b.poison := (congrArg BLine.poison hyoung :)
    simp only [hs, hdata, hpoison]

end

section
variable (s : State)

/-- A record of a home slice changes, but not in what `State.unaged` shows. -/
theorem State.setSlice_unaged {n : Nat} {v : SliceSt} (herrs : v.errs = (s.slice n).errs)
    (hvictims : v.victims = (s.slice n).victims) (hbasin : v.basin.map BLine.young = (s.slice n).basin.map BLine.young) :
    (s.setSlice n v).unaged = s.unaged := by
  refine Prod.ext rfl (funext fun k => ?_)
  by_cases hk : n = k
  · subst hk
    simp [State.unaged, herrs, hvictims, hbasin]
  · simp [State.unaged, State.setSlice_slice_ne _ _ hk]

theorem State.sfTouch_unaged (l : LineNo) : (s.sfTouch l).unaged = s.unaged := by
  unfold State.sfTouch
  split
  · rfl
  · exact s.setSlice_unaged rfl rfl rfl

theorem State.basinTouch_unaged (l : LineNo) : (s.basinTouch l).unaged = s.unaged := by
  unfold State.basinTouch
  split
  · rfl
  · refine s.setSlice_unaged rfl rfl ?_
    simp only [List.map_map]
    refine List.map_congr_left fun b _ => ?_
    simp only [Function.comp_apply]
    split <;> rfl

theorem State.basinRead_unaged (l : LineNo) : (s.basinRead l .ok).unaged = s.unaged := by
  unfold State.basinRead
  split
  · rfl
  · split
    · exact s.basinTouch_unaged l
    · split <;> rfl
    · rfl

end

section
variable {s : State} {l : LineNo} {h : Slice} (hhome : s.homeSlice l = some h)
  (herrs : ∀ e ∈ (s.slice h.val).errs, e.1 ≠ l)
include hhome herrs

theorem State.served_unaged (r : Requester) : (s.served r l).unaged = s.unaged := by
  have h1 : (((s.unstarve h.val l r).dropReq r l).sfTouch l).unaged = s.unaged :=
    (State.sfTouch_unaged _ l).trans (s.setSlice_unaged rfl rfl rfl)
  have herrs1 := (State.slice_of_unaged h1 h.val).1
  have hhome1 := (State.homeSlice_of_ground (State.ground_of_unaged h1) l).trans hhome
  simp only [State.served, hhome]
  rw [State.basinMeet_clean hhome1 (herrs1 ▸ herrs), State.basinRead_unaged, h1]

theorem State.foldl_served_unaged (r : Requester) (es : List (LineNo × Bool × ReqKind)) (hes : ∀ e ∈ es, e.1 = l) :
    (es.foldl (fun s e => s.served r e.1) s).unaged = s.unaged := by
  induction es generalizing s with
  | nil => rfl
  | cons e es ih =>
    have h1 := State.served_unaged hhome herrs r
    rw [List.foldl_cons, hes e List.mem_cons_self, ih ((State.homeSlice_of_ground (State.ground_of_unaged h1) l).trans hhome)
      ((State.slice_of_unaged h1 h.val).1 ▸ herrs) fun e he => hes e (List.mem_cons_of_mem _ he), h1]

end

/-! ### Agents without caches (R294, R295) -/

/-- A range within one line reaches that line alone. -/
theorem Reach.lines_one {a n : Nat} (k : ReqKind) (hline : a % 128 + n ≤ 128) :
    ∀ x ∈ Reach.lines ⟨a, n, k⟩, x.1 = lineOfAddr a := by
  intro x hx
  unfold Reach.lines at hx
  split at hx
  · cases hx
  · next hn =>
    obtain ⟨i, hi, rfl⟩ := List.mem_map.mp hx
    have hlast : (a + n - 1) / 128 = a / 128 := by simp only at hn; omega
    simp only [hlast, Nat.sub_self, Nat.zero_add, List.mem_range, Nat.lt_one_iff] at hi
    simp [lineOfAddr, hi]

theorem State.reached_line (s : State) {a n : Nat} (k : ReqKind) (hline : a % 128 + n ≤ 128) :
    ∀ e ∈ s.reached [⟨a, n, k⟩], e.1 = lineOfAddr a := by
  intro e he
  simp only [State.reached, List.mem_filter, List.flatMap_cons, List.flatMap_nil, List.append_nil, List.mem_map] at he
  obtain ⟨⟨x, hx, rfl⟩, -⟩ := he
  exact Reach.lines_one k hline x hx

/-- The state without the memory channels. -/
def State.offChans (s : State) : State := { s with chans := [] }

theorem State.fields_of_offChans {s t : State} (h : t.offChans = s.offChans) : t.mem = s.mem ∧ t.poison = s.poison ∧
    t.holders = s.holders ∧ t.lcs = s.lcs ∧ t.resps = s.resps :=
  ⟨(congrArg State.mem h :), (congrArg State.poison h :), (congrArg State.holders h :), (congrArg State.lcs h :),
    (congrArg State.resps h :)⟩

theorem State.caClear_offChans (s : State) (l : LineNo) : (s.caClear l).offChans = s.offChans := by
  unfold State.caClear
  split <;> rfl

theorem State.foldl_caClear_offChans (s : State) (es : List (LineNo × Bool × ReqKind)) :
    (es.foldl (fun s e => s.caClear e.1) s).offChans = s.offChans := by
  refine State.foldl_keeps State.offChans (fun t e => ?_) es s
  exact State.caClear_offChans t e.1

/-- The home slice serves a request for bytes of one line on which no error waits: `k` happens in a state that differs from
`s` in ages and requests alone, and the answer is given with it. -/
theorem State.agentRequest_served {s : State} {m : Master} {a need n : Nat} {kind : ReqKind} (k : State → State) {h : Slice}
    (hnack : ((s.outReq (s.requester m) (lineOfAddr a)).any fun o => o.nacked) = false) (hfw : s.fwPass m a n need = true)
    (hreach : s.memReachable a = true) (hserve : s.homesServe (s.requester m) m [⟨a, n, kind⟩] = true)
    (hline : a % 128 + n ≤ 128) (hhome : s.homeSlice (lineOfAddr a) = some h)
    (herrs : ∀ e ∈ (s.slice h.val).errs, e.1 ≠ lineOfAddr a)
    (hcache : ∀ x ∈ s.slotsWith (lineOfAddr a), s.cacheErr x (lineOfAddr a) = false) :
    ∃ t : State, t.unaged = s.unaged ∧ (s.agentRequest m a need n kind k).offChans = (k t).offChans := by
  have ht := State.foldl_served_unaged hhome herrs (s.requester m) _ (s.reached_line kind hline)
  refine ⟨_, ht, ?_⟩
  simp only [State.agentRequest, hnack, hfw, hreach, State.admitMaster, State.admitAs, State.gate, hserve, Bool.not_true,
    Bool.false_eq_true, if_false, if_true]
  have hslots := State.slotsWith_of_unaged ht (lineOfAddr a)
  rw [State.lineMet_clean fun x hx => (State.cacheErr_of_unaged ht x _).trans (hcache x (hslots ▸ hx))]
  exact State.foldl_caClear_offChans ..

/-- An address outside memory that can be reached is answered with an error. -/
theorem State.agentRequest_unreachable {s : State} {m : Master} {a need n : Nat} {kind : ReqKind} (k : State → State)
    (hnack : ((s.outReq (s.requester m) (lineOfAddr a)).any fun o => o.nacked) = false) (hfw : s.fwPass m a n need = true)
    (hreach : s.memReachable a = false) : s.agentRequest m a need n kind k = s.respond m .error := by
  simp [State.agentRequest, hnack, hfw, hreach]

/-- A PEEK as its home slice answers it. -/
def State.answerPeek (s : State) (m : Master) (l : LineNo) (a n : Nat) : State :=
  let v := (s.basinRead l .ok).freshBytes a n
  (s.basinRead l .ok).respond m (if v.2 then .poison else .bytes v.1)

/-- PEEK reads the freshest bytes and changes neither memory nor a holder or core. -/
theorem State.peek_answers {s t u : State} (ht : t.unaged = s.unaged) {m : Master} {l : LineNo} {a n : Nat}
    (hu : u.offChans = (t.answerPeek m l a n).offChans) :
    u.respOf m = some (if (s.freshBytes a n).2 then .poison else .bytes (s.freshBytes a n).1) ∧ u.mem = s.mem ∧
      u.holders = s.holders ∧ u.lcs = s.lcs := by
  have hread := (t.basinRead_unaged l).trans ht
  have hbytes : (t.basinRead l .ok).freshBytes a n = s.freshBytes a n := by
    simp only [State.freshBytes, State.freshest_of_unaged hread]
  simp only [State.answerPeek, hbytes] at hu
  obtain ⟨hmem, -, hholders, hlcs, hresps⟩ := State.fields_of_offChans hu
  have hmem' := State.mem_of_unaged hread
  have hholders' := State.holders_of_unaged hread
  have hlcs' := State.lcs_of_unaged hread
  refine ⟨?_, hmem.trans hmem', hholders.trans hholders', hlcs.trans hlcs'⟩
  rw [State.respOf, hresps]
  exact State.respond_respOf ..

/-- A whole line that a master without a basin class writes stands in memory, unmarked. -/
theorem State.invWriteLine_written {s : State} {m : Master} {l : LineNo} {t off o : Nat} {bs : List Byte}
    (hplace : s.place (lineAddr l) = .dram t off) (hissue : s.chanIssues (s.chanOf t off) = true) (hlen : bs.length = 128)
    (hways : ∀ (u : State) (k : Nat), u.writeWays m k = none) :
    (s.invWriteLine m l o bs).memLine l = lineOf bs ∧ (s.invWriteLine m l o bs).isPoison l = false := by
  unfold State.invWriteLine
  extract_lets s0 dirtyHolder fresh inBasin s1 mask d
  have h1 : s1.ground = s.ground := by simp [s1, s0]
  have hplace1 (u : State) (hu : u.ground = s1.ground) : u.place (lineAddr l) = .dram t off :=
    (State.place_of_ground (hu.trans h1) _).trans hplace
  have hwrite (u : State) (hu : u.ground = s1.ground) :
      u.homeWrite l fullMask (lineOf bs) false = u.setMemLine l (lineOf bs) false := by
    refine State.homeWrite_issued (hplace1 u hu) ?_ _ _
    rw [State.chanIssues_of_ground (hu.trans h1), State.chanOf_of_ground (hu.trans h1), hissue]
  have htile : s1.homeTile (lineAddr l) = some t := by simp only [State.homeTile, hplace1 s1 rfl]
  rw [if_pos hlen]
  simp only [htile, hways]
  split
  · rw [hwrite _ (s1.basinDrop_ground l)]
    exact ⟨State.setMemLine_memLine .., State.setMemLine_isPoison ..⟩
  · rw [hwrite s1 rfl]
    exact ⟨State.setMemLine_memLine .., State.setMemLine_isPoison ..⟩

/-- INV_WRITE of a whole line is in memory when it is answered. -/
theorem State.invWrite_answers {s t u : State} (ht : t.unaged = s.unaged) {m : Master} {l : LineNo} {tile off o : Nat}
    {bs : List Byte} (hu : u.offChans = ((t.invWriteLine m l o bs).respond m .ok).offChans)
    (hplace : s.place (lineAddr l) = .dram tile off) (hissue : s.chanIssues (s.chanOf tile off) = true)
    (hlen : bs.length = 128) (hways : ∀ (u : State) (k : Nat), u.writeWays m k = none) :
    u.memLine l = lineOf bs ∧ u.isPoison l = false ∧ u.respOf m = some .ok := by
  have hground := State.ground_of_unaged ht
  have hissue' : t.chanIssues (t.chanOf tile off) = true := by
    rw [State.chanIssues_of_ground hground, State.chanOf_of_ground hground, hissue]
  obtain ⟨hline, hmark⟩ := State.invWriteLine_written (o := o) ((State.place_of_ground hground _).trans hplace) hissue' hlen
    hways
  obtain ⟨hmem, hpoison, -, -, hresps⟩ := State.fields_of_offChans hu
  refine ⟨?_, ?_, ?_⟩
  · simp only [State.memLine, hmem]
    exact hline
  · simp only [State.isPoison, hpoison]
    exact hmark
  · simp only [State.respOf, hresps]
    exact State.respond_respOf ..

/-- PEEK within one line is one request for its bytes. -/
theorem exec_peek_line {s : State} {m : Master} {a : Word} {size n : Nat} (hrun : s.ringsRun = true)
    (hn : n = min (max size 1) (128 - a.toNat % 128)) : exec (.peek m a size .ok) s =
      .next (s.agentRequest m a.toNat needR n .peek fun s => s.answerPeek m (lineOfAddr a.toNat) a.toNat n) := by
  subst hn
  exact congrArg Host.Outcome.next (if_neg (by simp [hrun]))

/-- INV_WRITE of a whole line is one request for its 128 bytes. -/
theorem exec_invWrite_line {s : State} {m : Master} {a : Word} {bs : List Byte} (hrun : s.ringsRun = true)
    (hlen : bs.length = 128) (halign : a.toNat % 128 = 0) : exec (.invWrite m a bs) s =
      .next (s.agentRequest m a.toNat needW 128 .invWrite fun s =>
        (s.invWriteLine m (lineOfAddr a.toNat) (a.toNat % 128) bs).respond m .ok) := by
  have htake : bs.take (128 - a.toNat % 128) = bs := List.take_of_length_le (by omega)
  have hbytes : bs.isEmpty = false := by
    cases bs
    · cases hlen
    · rfl
  refine congrArg Host.Outcome.next ?_
  rw [htake, hlen]
  exact if_neg (by simp [hrun, hbytes])

end Sys2Proof.Machine

namespace Sys2Proof.Machine

/-! ### Evictions and victims (R263, R275, R276) -/

theorem any_of_find?_eq_some {α : Type} {p : α → Bool} {xs : List α} {x : α} (h : xs.find? p = some x) :
    xs.any p = true :=
  List.any_eq_true.mpr ⟨x, List.mem_of_find?_eq_some h, List.find?_some h⟩

/-- A victim whose channel issues commands leaves its slice: its fill is installed and its data stands in memory. -/
theorem State.victimAccept_accepts {s : State} {h : Nat} {v : Victim} {rest : List Victim} {t off : Nat}
    (hvictims : (s.slice h).victims = v :: rest) (hplace : s.place (lineAddr v.old.line) = .dram t off)
    (hissue : s.chanIssues (s.chanOf t off) = true) :
    ((s.victimAccept h).slice h).victims = rest ∧ ((s.victimAccept h).slice h).basin = (s.slice h).basin ++ [v.fill] ∧
      (s.victimAccept h).memLine v.old.line = v.old.data ∧ (s.victimAccept h).isPoison v.old.line = v.old.poison := by
  have hplace' (x : SliceSt) : (s.setSlice h x).place (lineAddr v.old.line) = .dram t off :=
    (s.place_setSlice h x _).trans hplace
  have hslice (u : State) (l : LineNo) (d : Line) (p : Bool) : (u.setMemLine l d p).slice h = u.slice h := rfl
  simp only [State.victimAccept, hvictims, State.wqFull_issued hplace hissue, Bool.false_eq_true, if_false, State.modSlice_eq]
  rw [State.homeWrite_issued (hplace' _) (by exact hissue), hslice, State.setSlice_slice]
  exact ⟨rfl, rfl, State.setMemLine_memLine .., State.setMemLine_isPoison ..⟩

/-- The slot's evictions without one of them. -/
def State.evicted (s : State) (sl : Slot) (c : CLine) : State :=
  s.modHolder sl.val fun x => { x with evict := x.evict.filter fun y => y ≠ c }

/-- What goes on at the home slice after an eviction has left its slot touches no holder and no core. -/
theorem Kept.of_evicted {s t : State} {sl : Slot} {c : CLine} {p : List Instr} {q : Fuses}
    (h : Kept ((s.evicted sl c).frame [.mem, .ports]) p q t) :
    (t.holder sl.val).evict = (s.holder sl.val).evict.filter (fun y => y ≠ c) ∧
      (t.holder sl.val).l2 = (s.holder sl.val).l2 ∧ t.lcs = s.lcs := by
  have hholders : t.holders = (s.evicted sl c).holders := h.same_of_notMem (part := .holders) (by decide)
  have hholder : t.holder sl.val = { s.holder sl.val with evict := (s.holder sl.val).evict.filter fun y => y ≠ c } := by
    rw [State.holder, hholders]
    exact State.setHolder_holder ..
  have hlcs : t.lcs = (s.evicted sl c).lcs := h.same_of_notMem (part := .lcs) (by decide)
  exact ⟨(congrArg Holder.evict hholder :), (congrArg Holder.l2 hholder :), hlcs⟩

section
variable {s : State} {sl : Slot} {l : LineNo} {h : Slice} {c : CLine} (hhome : s.homeSlice l = some h)
  (hfill : s.fillWaits l (s.slotWays sl (h.val / 6)) = false)
include hhome hfill

theorem State.writeback_leaves (hlive : s.homeLive (lineAddr l) = true)
    (hfind : ((s.holder sl.val).evict.find? fun c => c.line = l && (c.st == .m || c.st == .o)) = some c)
    (hroom : s.homeWaits l = false) :
    ((s.writeback sl l).holder sl.val).evict = (s.holder sl.val).evict.filter (fun y => y ≠ c) ∧
      ((s.writeback sl l).holder sl.val).l2 = (s.holder sl.val).l2 ∧ (s.writeback sl l).lcs = s.lcs := by
  refine Kept.of_evicted (p := (s.evicted sl c).pending) (q := (s.evicted sl c).fuses) ?_
  simp only [State.writeback, hfind, hhome, hlive, hroom, hfill, Bool.not_true, Bool.false_eq_true, if_false]
  exact Kept.modTxn (Kept.sfMod (Kept.basinFill ((s.evicted sl c).kept_frame _) rfl rfl))

theorem State.evictClean_leaves
    (hfind : ((s.holder sl.val).evict.find? fun c => c.line = l && (c.st == .e || c.st == .s)) = some c)
    (hopen : s.blocked h.val l (.slot sl) = false) :
    ((s.evictClean sl l).holder sl.val).evict = (s.holder sl.val).evict.filter (fun y => y ≠ c) ∧
      (s.evictClean sl l).lcs = s.lcs := by
  have hkept : Kept ((s.evicted sl c).frame [.mem, .ports]) (s.evicted sl c).pending (s.evicted sl c).fuses
      (s.evictClean sl l) := by
    have h1 := Kept.sfMod (h' := h.val) (l := l) (f := fun e => e.dropHolder (h.val / 6) sl.val)
      ((s.evicted sl c).kept_frame [.mem, .ports])
    have h2 := Kept.cond (P := ((s.outReq (.slot sl) l).any fun o => o.kind == .evictClean) = true)
      (Kept.dropReq (r := .slot sl) (l := l) h1) h1
    simp only [State.evictClean, hfind, hhome, hopen, hfill, Bool.and_false, Bool.false_eq_true, if_false]
    exact Kept.cond (Kept.basinFill h2 rfl rfl) h2
  obtain ⟨hevict, -, hlcs⟩ := hkept.of_evicted
  exact ⟨hevict, hlcs⟩

end

/-- An output of a slot that nothing strikes leaves without a vote. -/
theorem State.leaves_clean {s : State} {sl : Slot} (h : s.outStruck sl = false) (k : State → State) :
    s.leaves sl k = k s := by
  simp [State.leaves, h]

/-! ### Prefetches (R248, R249) -/

/-- The prefetcher asks for a line of a frame that it was trained on, of memory that the firewall admits and that the slot
neither has nor has asked for. -/
theorem State.hardwarePrefetch_asks {s : State} {lc : Lc} {sl : Slot} {trained l : LineNo} (k : Fin 16)
    (hhost : (s.lc lc.val).host = some sl) (hruns : s.lcRuns lc = true) (htrained : trained ∈ (s.holder sl.val).trained)
    (hframe : trained.toNat / 32 = l.toNat / 32) (hplace : (s.place (lineAddr l)).isMemory = true)
    (hfw : s.fwPass (.core lc) (lineAddr l) 128 needR = true) (hholds : (s.holder sl.val).holds l = false)
    (hnew : ((s.holder sl.val).pfReqs.any fun r => r.line = l) = false) :
    s.hardwarePrefetch lc trained l k =
      s.setHolder sl.val { s.holder sl.val with pfReqs := (s.holder sl.val).pfReqs ++ [⟨l, k.val⟩] } := by
  simp only [State.hardwarePrefetch, hhost]
  exact if_neg (by simp [hruns, htrained, hframe, hplace, hfw, hholds, hnew])

/-- The fill of a prefetched line enters the side buffer, in place of the oldest entry when 24 are held. -/
theorem State.prefetchFill_enters {s : State} {sl : Slot} {l : LineNo} {r : PfReq} {t : Txn}
    (hfind : ((s.holder sl.val).pfReqs.find? fun r => r.line = l) = some r) (htxn : s.txn l = some t)
    (hreq : t.req = .slot sl) (hkind : t.kind = .prefetch) (hready : t.ready = true) (hnew : t.delivered = false)
    (hlive : s.homeLive (lineAddr l) = true) (hevict : ((s.holder sl.val).evict.any fun c => c.line = l) = false) :
    ((s.prefetchFill sl l).holder sl.val).side =
      (if 24 ≤ (s.holder sl.val).side.length then (s.holder sl.val).side.drop 1 else (s.holder sl.val).side) ++
        [⟨l, (t.data.getD (s.freshest l)).1, (t.data.getD (s.freshest l)).2, false, r.stream⟩] ∧
      ((s.prefetchFill sl l).holder sl.val).l2 = (s.holder sl.val).l2 ∧ (s.prefetchFill sl l).mem = s.mem := by
  have hretake : s.retake sl l = s := by simp [State.retake, hevict]
  obtain ⟨h, hhome, hat⟩ := Option.bind_eq_some_iff.mp htxn
  have hdeliver : s.deliver sl l = s.modTxn h.val l fun t => { t with delivered := true } := by
    simp [State.deliver, hhome, hat, hreq, hready, hnew, hlive, hkind]
  have hmem (u : State) : (u.caClear l).mem = u.mem := (State.fields_of_offChans (u.caClear_offChans l)).1
  simp only [State.prefetchFill, hfind, htxn, hretake, hdeliver]
  rw [if_pos (by simp [hreq, hkind, hready, hnew, hlive]), (State.caClear_reads ..).1, hmem, State.setHolder_holder]
  refine ⟨?_, rfl, rfl⟩
  simp

/-! ### Reclamation and the breach log (R299, R306) -/

theorem State.reclaimDone_ends {s : State} {t : Ct} {n : Nat} {rest : List Nat}
    (hreclaims : (s.ct t.val).reclaims = n :: rest)
    (hlive : s.tileLive (1 + t.val) = true) :
    ((s.reclaimDone t).ct t.val).reclaims = rest ∧
      ((s.reclaimDone t).ct t.val).slicesDone = (if rest.isEmpty then 0x3F else 0) ∧
      (s.reclaimDone t).fld (.cohReclaim t) 31 0 = n % 2 ^ 32 ∧ (s.reclaimDone t).mem = s.mem ∧
      (s.reclaimDone t).holders = s.holders := by
  simp only [State.reclaimDone, hreclaims, hlive, if_true]
  generalize hv : (s.modCt t.val fun c => { c with reclaims := rest, slicesDone := if rest.isEmpty then 0x3F else 0 }) = v
  have hct := (congrArg (fun u => State.ct u t.val) hv).symm.trans (State.setCt_ct ..)
  have hfld := v.setFld_fld_self (.cohReclaim t) 31 0 n (by omega) (by omega)
  rw [State.report_srcBufs]
  exact ⟨(congrArg CtSt.reclaims hct :), (congrArg CtSt.slicesDone hct :), hfld, (congrArg State.mem hv.symm :),
    (congrArg State.holders hv.symm :)⟩

/-- Settles O41.  What leaves a slot that nothing strikes, on a line on which no error waits, is the eviction itself
(`State.writeback_leaves`, `State.evictClean_leaves`); a request of an agent without caches is served as
`State.agentRequest_served` states, and then reads (`State.peek_answers`) or writes (`State.invWriteLine_written`); a victim, a
prefetch and the end of a scan are `State.victimAccept_accepts`, `State.prefetchFill_enters` and `State.reclaimDone_ends`. -/
theorem evictionsAndAgents : Obligations.EvictionsAndAgents := by
  unfold Obligations.EvictionsAndAgents
  refine ⟨fun s slot line h c hhome hlive hout hfill => ⟨fun hfind herr hroom => ?_, fun hfind hopen => ?_⟩,
    fun s h v rest tile off hvictims hplace hissue => ⟨_, rfl, State.victimAccept_accepts hvictims hplace hissue⟩,
    fun s m a size n hrun hn hnack hfw => ⟨fun hreach => ?_, fun h hreach hhome hserve herrs hcache => ?_⟩,
    fun s a bs line hrun hline hlen halign hnack => ⟨fun hreach => ?_,
      fun h tile off hreach hhome hserve herrs hcache hplace hissue => ?_⟩,
    fun s lc slot trained line k hhost hruns htrained hframe hplace hfw hholds hnew => ?_,
    fun s slot line r t hfind htxn hreq hkind hready hnew hlive hevict =>
      ⟨_, rfl, State.prefetchFill_enters hfind htxn hreq hkind hready hnew hlive hevict⟩,
    fun s t n rest hreclaims hlive => ⟨_, rfl, State.reclaimDone_ends hreclaims hlive⟩,
    fun s m t hadm => ⟨fun hlog => ?_, fun e rest hlog => ?_⟩⟩
  · refine ⟨s.writeback slot line, congrArg Host.Outcome.next ?_,
      State.writeback_leaves hhome hfill hlive hfind hroom⟩
    rw [if_pos (any_of_find?_eq_some hfind), State.leaves_clean hout, State.lineMet_clean (by simpa using herr)]
  · refine ⟨s.evictClean slot line, congrArg Host.Outcome.next ?_, State.evictClean_leaves hhome hfill hfind hopen⟩
    rw [if_pos (any_of_find?_eq_some hfind), State.leaves_clean hout]
  · exact (exec_peek_line hrun hn).trans
      (congrArg Host.Outcome.next (State.agentRequest_unreachable _ hnack hfw hreach))
  · obtain ⟨t, ht, hu⟩ := State.agentRequest_served (fun s => s.answerPeek m (lineOfAddr a.toNat) a.toNat n) hnack hfw hreach
      hserve (by omega) hhome herrs hcache
    exact ⟨_, exec_peek_line hrun hn, State.peek_answers ht hu⟩
  · subst hline
    exact (exec_invWrite_line hrun hlen halign).trans
      (congrArg Host.Outcome.next (State.agentRequest_unreachable _ hnack rfl hreach))
  · subst hline
    obtain ⟨t, ht, hu⟩ := State.agentRequest_served (need := needW)
      (fun s => (s.invWriteLine .keeper (lineOfAddr a.toNat) (a.toNat % 128) bs).respond .keeper .ok) hnack rfl hreach hserve
      (by omega) hhome herrs hcache
    exact ⟨_, exec_invWrite_line hrun hlen halign, State.invWrite_answers ht hu hplace hissue hlen fun _ _ => rfl⟩
  · refine ⟨_, congrArg Host.Outcome.next
      (State.hardwarePrefetch_asks k hhost hruns htrained hframe hplace hfw hholds hnew), ?_, rfl⟩
    exact congrArg Holder.pfReqs (State.setHolder_holder ..)
  · exact congrArg Host.Outcome.next ((State.csAccess_admits _ _ _ _ _ _ hadm).trans (by simp only [hlog]))
  · exact congrArg Host.Outcome.next ((State.csAccess_admits _ _ _ _ _ _ hadm).trans (by simp only [hlog]))

end Sys2Proof.Machine

/-! PROOF. Coherence (O39, O40).  A request that is refused is NACKed and leaves its slice's transactions; one that opens on a
filter entry is one new transaction.  What a snoop does to a held line, and what it answers, is Table 10.3. -/

namespace Sys2Proof.Machine

/-! ### The open transactions and the filter of a home slice (R280, R289) -/

/-- The open transactions and the filter of each home slice. -/
def State.ledger (s : State) (n : Nat) : List Txn × List SfEntry := ((s.slice n).txns, (s.slice n).sf)

/-- The state without its home slices. -/
def State.offSlices (s : State) : State := { s with slices := [] }

/-- What a home slice leaves alone until it opens a request. -/
def State.books (s : State) : State × (Nat → List Txn × List SfEntry) := (s.offSlices, s.ledger)

section
variable {s t : State}

theorem State.txnAt_of_ledger (h : t.ledger = s.ledger) (n : Nat) (l : LineNo) : t.txnAt n l = s.txnAt n l :=
  congrArg (fun x => x.1.find? fun t => t.line = l) (congrFun h n)

theorem State.txns_of_ledger (h : t.ledger = s.ledger) (n : Nat) : (t.slice n).txns = (s.slice n).txns :=
  congrArg Prod.fst (congrFun h n)

theorem State.sfGet_of_ledger (h : t.ledger = s.ledger) (n : Nat) (l : LineNo) : t.sfGet n l = s.sfGet n l :=
  congrArg (fun x => x.2.find? fun e => e.line = l) (congrFun h n)

theorem State.ledger_of_slices (h : t.slices = s.slices) : t.ledger = s.ledger := by
  funext n
  simp only [State.ledger, State.slice, h]

end

section
variable (s : State)

theorem State.setSlice_ledger {n : Nat} {v : SliceSt} (htxns : v.txns = (s.slice n).txns) (hsf : v.sf = (s.slice n).sf) :
    (s.setSlice n v).ledger = s.ledger := by
  funext k
  by_cases hk : n = k
  · subst hk
    simp [State.ledger, htxns, hsf]
  · simp [State.ledger, State.setSlice_slice_ne _ _ hk]

theorem State.setSlice_books {n : Nat} {v : SliceSt} (htxns : v.txns = (s.slice n).txns) (hsf : v.sf = (s.slice n).sf) :
    (s.setSlice n v).books = s.books := Prod.ext rfl (s.setSlice_ledger htxns hsf)

theorem State.unstarve_books (h : Nat) (l : LineNo) (r : Requester) : (s.unstarve h l r).books = s.books :=
  s.setSlice_books rfl rfl

theorem State.maintTouch_books (l : LineNo) : (s.maintTouch l).books = s.books := by
  unfold State.maintTouch
  split
  · rfl
  · exact s.setSlice_books rfl rfl

theorem State.basinTouch_books (l : LineNo) : (s.basinTouch l).books = s.books := by
  unfold State.basinTouch
  split
  · rfl
  · exact s.setSlice_books rfl rfl

theorem State.basinRead_books (l : LineNo) : (s.basinRead l .ok).books = s.books := by
  unfold State.basinRead
  split
  · rfl
  · split
    · exact s.basinTouch_books l
    · split <;> rfl
    · rfl

end

/-- The entry of a line whose filter entry is used keeps all but its age. -/
theorem State.sfGet_sfTouch {s : State} {h : Slice} {l : LineNo} (hhome : s.homeSlice l = some h) :
    (s.sfTouch l).sfGet h.val l = (s.sfGet h.val l).map fun e => { e with age := 0 } := by
  have hline : ((fun e : SfEntry => decide (e.line = l)) ∘ fun e => if e.line = l then { e with age := 0 } else e) =
      fun e => decide (e.line = l) := by
    funext e
    simp [apply_ite SfEntry.line]
  simp only [State.sfTouch, hhome, State.sfGet, State.modSlice_eq, State.setSlice_slice, List.find?_map, hline]
  cases hfind : (s.slice h.val).sf.find? fun e => decide (e.line = l) with
  | none => rfl
  | some e => simpa using fun hne => absurd (by simpa using List.find?_some hfind) hne

/-! ### NACKs (R282 to R285) -/

theorem State.outReq_names {s : State} {r : Requester} {l : LineNo} {o : Outstanding} (h : s.outReq r l = some o) :
    o.req = r ∧ o.line = l := by simpa [State.outReq] using List.find?_some h

/-- A NACK leaves the request NACKed and one older, and every transaction and filter entry as it was. -/
theorem State.nack_nacks (s : State) (h : Slice) (r : Requester) (l : LineNo) (k : ReqKind) (full : Bool) :
    (∃ o, (s.nack h r l k full).outReq r l = some o ∧ o.nacked = true ∧
      o.age = min 16 (((s.outReq r l).getD (newReq r l k)).age + 1)) ∧ (s.nack h r l k full).ledger = s.ledger := by
  unfold State.nack
  extract_lets o age other o1 s1 s2 s3 known s4
  have hpredict (t : State) : ((t.nackPredict r l).outReqs, (t.nackPredict r l).ledger) = (t.outReqs, t.ledger) := by
    unfold State.nackPredict
    split
    · split <;> rfl
    · rfl
  have h3 : (s3.outReqs, s3.ledger) = (s1.outReqs, s1.ledger) := by
    simp only [s3]
    split <;> rfl
  have h4 : (s4.outReqs, s4.ledger) = (s3.outReqs, s3.ledger) := by
    simp only [s4]
    split
    · exact Prod.ext rfl (s3.setSlice_ledger rfl rfl)
    · rfl
  obtain ⟨houts, hledger⟩ := Prod.mk.inj ((hpredict s4).trans (h4.trans h3))
  have hnames : o.req = r ∧ o.line = l := by
    cases ho : s.outReq r l with
    | none => simp [o, ho, newReq]
    | some x => simpa [o, ho] using State.outReq_names ho
  refine ⟨⟨o1, ?_, rfl, rfl⟩, hledger⟩
  have hnone : (s.outReqs.filter fun x => !(x.req = r && x.line = l)).find? (fun x => x.req = r && x.line = l) = none :=
    List.find?_eq_none.mpr fun x hx => by simpa only [Bool.not_eq_true, Bool.not_eq_true'] using (List.mem_filter.mp hx).2
  rw [State.outReq, houts]
  simp only [s1, List.find?_append, hnone]
  simp [o1, hnames]

/-! ### Records of a list by line -/

theorem find?_removed {α : Type} (f : α → LineNo) (xs : List α) (l : LineNo) :
    (xs.filter fun x => f x ≠ l).find? (fun x => f x = l) = none :=
  List.find?_eq_none.mpr fun x hx => by simpa using (List.mem_filter.mp hx).2

/-- A record that replaces those of its line is the one found. -/
theorem find?_replaced {α : Type} (f : α → LineNo) (xs : List α) {l : LineNo} {a : α} (ha : f a = l) :
    ((xs.filter fun x => f x ≠ l) ++ [a]).find? (fun x => f x = l) = some a := by
  rw [List.find?_append, find?_removed]
  simp [ha]

/-- A filter entry that stays in the filter is read back. -/
theorem State.sfGet_sfPut (s : State) {h : Nat} {e : SfEntry} (hstays : (e.loc = 0 && e.remote = 0 && !e.pin) = false) :
    (s.sfPut h e).sfGet h e.line = some e := by
  simp only [State.sfPut, hstays, Bool.false_eq_true, if_false, State.modSlice_eq]
  rw [State.sfGet, State.setSlice_slice]
  exact find?_replaced SfEntry.line _ rfl

/-! ### Opening a transaction (R276, R279, R280, R288) -/

/-- The kind that a request is handled as by a slot that has the line in state `own`: an UPGRADE without a copy is a READ_OWN
(R276). -/
def ReqKind.handled (k : ReqKind) (own : Option Moesi) : ReqKind :=
  match k with
  | .upgrade => if own.isNone then .readOwn else .upgrade
  | k => k

/-- What a request of a slot that has the line in state `own` is granted; `lone`: no other slot is named (R279; M for a slot
whose own copy is dirty is log entry 52). -/
def ReqKind.granted (k : ReqKind) (lone : Bool) (own : Option Moesi) : Moesi :=
  match k with
  | .readShared => if lone then .e else .s
  | .prefetch => .s
  | _ => if own = some .m ∨ own = some .o then .m else .e

/-- Both kinds that an UPGRADE is handled as take the line, and are granted alike. -/
theorem ReqKind.handled_upgrade (lone : Bool) (own : Option Moesi) : (ReqKind.handled .upgrade own).snoop = .inv ∧
    (ReqKind.handled .upgrade own).granted lone own = if own = some .m ∨ own = some .o then .m else .e := by
  unfold ReqKind.handled
  cases own <;> exact ⟨rfl, rfl⟩

/-- The transaction that `t` becomes when it starts for a slot with the snoops of the slots named. -/
def State.started (s : State) (sl : Slot) (t : Txn) (named : List Slot) : Txn :=
  let own := (s.holder sl.val).stateOf t.line
  let kind := t.kind.handled own
  { t with
    kind := kind, grant := kind.granted named.isEmpty own, backInv := none
    snoops := named.map fun x => ⟨x, kind.snoop, s.isStarving t.req t.line, none, false⟩ }

theorem State.startTxn_starts {s : State} {h : Slice} {t : Txn} {e : SfEntry} {sl : Slot}
    (hsf : s.sfGet h.val t.line = some e) (hreq : t.req = .slot sl) :
    (s.startTxn h t).txnAt h.val t.line = some (s.started sl t (s.snoopTargets e (h.val / 6) (.slot sl))) ∧
      ((s.startTxn h t).sfGet h.val t.line).map (·.pin) = some true ∧ (s.startTxn h t).offSlices = s.offSlices := by
  have hline : e.line = t.line := by simpa using List.find?_some hsf
  rw [← hreq]
  unfold State.startTxn
  extract_lets ht starving own kind
  split
  · next hnone => cases hnone.symm.trans hsf
  · next e' he =>
    cases he.symm.trans hsf
    extract_lets targets any grant msgs t1 s1 others
    have hown : own = (s.holder sl.val).stateOf t.line := by simp only [own, hreq]
    have hkind : kind = t.kind.handled own := by
      cases hk : t.kind <;> simp [kind, hk, ReqKind.handled]
    have hgrant : grant = kind.granted targets.isEmpty own := by
      simp only [grant, ReqKind.granted, any]
      cases kind <;> simp [or_comm]
    have ht1 : t1 = s.started sl t targets := by
      simp only [t1, msgs, hgrant, hkind, hown, starving, State.started]
    refine ⟨?_, ?_, rfl⟩
    · rw [← ht1, State.txnAt, State.modSlice_eq, State.setSlice_slice]
      exact find?_replaced Txn.line _ rfl
    · have hput : s1.sfGet h.val t.line = some { e with pin := true } :=
        hline ▸ s.sfGet_sfPut (e := { e with pin := true }) (by simp)
      rw [State.modSlice_eq, State.sfGet, State.setSlice_slice]
      exact congrArg (Option.map (·.pin)) hput

/-- In `u` a transaction of the slot on the line is open, of this kind and grant, that snoops the slots named; its filter entry
is pinned, and no holder, memory or core of `s` has changed (R279, R280). -/
def State.Opens (s : State) (h : Slice) (sl : Slot) (l : LineNo) (named : List Slot) (starving : Bool) (u : State)
    (k : ReqKind) (sn : Snoop) (grant : Moesi) : Prop :=
  ∃ t, u.txnAt h.val l = some t ∧ t.req = .slot sl ∧ t.kind = k ∧
    t.snoops = named.map (fun x => ⟨x, sn, starving, none, false⟩) ∧ t.grant = grant ∧ t.delivered = false ∧
    (u.sfGet h.val l).map (·.pin) = some true ∧ u.holders = s.holders ∧ u.mem = s.mem ∧ u.lcs = s.lcs

section
variable {s : State} {sl : Slot} {l : LineNo} {h : Slice} (hhome : s.homeSlice l = some h)
  (hreach : s.memReachable (lineAddr l) = true)
include hhome hreach

/-- A request for a line that is taken or reserved is NACKed (R282, R285). -/
theorem State.slotRequest_nacks (hblocked : s.blocked h.val l (.slot sl) = true) (k : ReqKind) :
    s.slotRequest sl l k .ok = s.nack h (.slot sl) l k false := by
  simp [State.slotRequest, hhome, hreach, hblocked]

/-- A request that finds a filter entry and no error in the basin starts a transaction on what `s` knows of the line. -/
theorem State.slotRequest_starts (hopen : s.blocked h.val l (.slot sl) = false) {e : SfEntry}
    (hsf : s.sfGet h.val l = some e) (herrs : ∀ e ∈ (s.slice h.val).errs, e.1 ≠ l) (k : ReqKind) :
    ∃ v : State, s.slotRequest sl l k .ok = v.startTxn h ⟨l, .slot sl, k, [], .s, false, none, none⟩ ∧
      v.offSlices = s.offSlices ∧ v.sfGet h.val l = some { e with age := 0 } := by
  have hfull : s.sfFull h.val l = false := by simp [State.sfFull, hsf]
  obtain ⟨s1, hs1, hbooks1, hground1⟩ : ∃ s1, (if k == .upgrade then s else (s.basinMeet l).basinRead l .ok) = s1 ∧
      s1.books = s.books ∧ s1.ground = s.ground := by
    rw [State.basinMeet_clean hhome herrs]
    refine ⟨_, rfl, ?_⟩
    split
    · exact ⟨rfl, rfl⟩
    · exact ⟨s.basinRead_books l, State.ground_of_unaged (s.basinRead_unaged l)⟩
  let s2 := (s1.maintTouch l).unstarve h.val l (.slot sl)
  have hbooks : s2.books = s.books := (State.unstarve_books ..).trans ((s1.maintTouch_books l).trans hbooks1)
  have hground : s2.ground = s.ground := (s1.maintTouch_ground l).trans hground1
  have hsf2 : s2.sfGet h.val l = some e := (State.sfGet_of_ledger (congrArg Prod.snd hbooks) ..).trans hsf
  have hhome2 : s2.homeSlice l = some h := (State.homeSlice_of_ground hground l).trans hhome
  refine ⟨s2.sfTouch l, ?_, ?_, ?_⟩
  · simp only [State.slotRequest, hhome, hreach, hopen, hfull, hs1, Bool.not_true, Bool.false_eq_true, if_false]
    exact if_pos (by rw [hsf2]; rfl)
  · refine Eq.trans ?_ (congrArg Prod.fst hbooks)
    simp only [State.sfTouch, hhome2]
    rfl
  · rw [State.sfGet_sfTouch hhome2, hsf2]
    rfl

theorem State.slotRequest_opens (hopen : s.blocked h.val l (.slot sl) = false) {e : SfEntry}
    (hsf : s.sfGet h.val l = some e) (herrs : ∀ e ∈ (s.slice h.val).errs, e.1 ≠ l) (k : ReqKind) :
    let named := s.snoopTargets e (h.val / 6) (.slot sl)
    let own := (s.holder sl.val).stateOf l
    s.Opens h sl l named (s.isStarving (.slot sl) l) (s.slotRequest sl l k .ok) (k.handled own) (k.handled own).snoop
      ((k.handled own).granted named.isEmpty own) := by
  intro named own
  obtain ⟨v, hv, hoff, hentry⟩ := State.slotRequest_starts hhome hreach hopen hsf herrs k
  obtain ⟨htxn, hpin, hkept⟩ := State.startTxn_starts (t := ⟨l, .slot sl, k, [], .s, false, none, none⟩) hentry rfl
  have hstarted (t : Txn) : v.started sl t = s.started sl t := (congrArg (fun x => State.started x sl t) hoff :)
  have htargets : v.snoopTargets { e with age := 0 } (h.val / 6) (.slot sl) = named :=
    (congrArg (fun x => State.snoopTargets x { e with age := 0 } (h.val / 6) (.slot sl)) hoff :)
  have hsame := hkept.trans hoff
  rw [hstarted, htargets] at htxn
  rw [hv]
  exact ⟨_, htxn, rfl, rfl, rfl, rfl, rfl, hpin, (congrArg State.holders hsame :), (congrArg State.mem hsame :),
    (congrArg State.lcs hsame :)⟩

end

end Sys2Proof.Machine

namespace Sys2Proof.Machine

/-! ### The requests of a slot (R241, R249, R276, R284, R287) -/

/-- A request that is outstanding is not issued again. -/
theorem State.issue_outstanding {s : State} {n o : Outstanding} (ho : s.outReq n.req n.line = some o)
    (hn : n.kind ≠ .readOwn) : s.issue n = s := by
  simp [State.issue, ho, hn]

section
variable {s : State} {sl : Slot} {l : LineNo} {o : Outstanding} (hout : s.outStruck sl = false) (hnew : o.nacked = false)
include hout hnew

theorem exec_readShared_sends (hrun : s.ringsRun = true) (ho : s.outReq (.slot sl) l = some o) (hk : o.kind = .readShared) :
    exec (.readShared sl l .ok) s = .next (s.slotRequest sl l .readShared .ok) := by
  refine congrArg Host.Outcome.next ?_
  rw [if_pos (by simp [hrun, ho, hk, hnew]), State.leaves_clean hout, State.issue_outstanding ho (by simp [newReq])]

theorem exec_readOwn_sends (ho : s.outReq (.slot sl) l = some o) (hk : o.kind = .readOwn) :
    exec (.readOwn sl l .ok) s = .next (s.slotRequest sl l .readOwn .ok) := by
  refine congrArg Host.Outcome.next ?_
  rw [if_pos (by simp [ho, hk, hnew]), State.leaves_clean hout]

theorem exec_upgrade_sends (ho : s.outReq (.slot sl) l = some o) (hk : o.kind = .upgrade) :
    exec (.upgrade sl l) s = .next (s.slotRequest sl l .upgrade .ok) := by
  refine congrArg Host.Outcome.next ?_
  rw [if_pos (by simp [ho, hk, hnew]), State.leaves_clean hout]

theorem exec_prefetch_sends (ho : o = (s.outReq (.slot sl) l).getD (newReq (.slot sl) l .prefetch))
    (hpf : ((s.holder sl.val).pfReqs.any fun r => r.line = l) = true) :
    exec (.prefetch sl l .ok) s = .next (s.slotRequest sl l .prefetch .ok) := by
  have hany : ((s.outReq (.slot sl) l).any fun o => o.nacked) = false := by
    cases hreq : s.outReq (.slot sl) l with
    | none => rfl
    | some x => simpa [ho, hreq] using hnew
  refine congrArg Host.Outcome.next ?_
  rw [if_pos (by rw [hpf, hany]; rfl), State.leaves_clean hout]

end

theorem State.isStarving_getD {s : State} {r : Requester} {l : LineNo} {k : ReqKind} :
    s.isStarving r l = ((s.outReq r l).getD (newReq r l k)).starving := by
  unfold State.isStarving
  cases s.outReq r l <;> rfl

/-- CANCEL of a NACKed request: it is over. -/
theorem exec_cancel_ends {s : State} {r : Requester} {l : LineNo} {o : Outstanding} (ho : s.outReq r l = some o)
    (hnack : o.nacked = true) : ∃ u, exec (.cancel r l) s = .next u ∧ u.outReq r l = none ∧ u.holders = s.holders ∧
      u.mem = s.mem := by
  have hkept := exec_keeps_frame (.cancel r l) s _ rfl
  refine ⟨_, rfl, ?_, hkept.same_of_notMem (part := .holders) List.not_mem_nil,
    hkept.same_of_notMem (part := .mem) List.not_mem_nil⟩
  simp only [ho]
  cases s.homeSlice l <;> exact (congrArg (State.outReq · r l) (if_pos hnack)).trans (State.outReq_dropReq ..)

/-- A NACKed request whose instruction goes on is sent again. -/
theorem State.resend_outReq {s : State} {r : Requester} {l : LineNo} {o : Outstanding} (ho : s.outReq r l = some o)
    (hkeep : o.dropped = false) :
    State.outReq { s with outReqs := s.outReqs.map fun (x : Outstanding) =>
      if x.req = r ∧ x.line = l ∧ !x.dropped then { x with nacked := false } else x } r l =
      some { o with nacked := false } := by
  obtain ⟨hreq, hline⟩ := State.outReq_names ho
  have hsame : ((fun x : Outstanding => x.req = r && x.line = l) ∘ fun (x : Outstanding) =>
    if x.req = r ∧ x.line = l ∧ !x.dropped then { x with nacked := false } else x) = fun x => x.req = r && x.line = l := by
    funext x
    simp [apply_ite Outstanding.req, apply_ite Outstanding.line]
  unfold State.outReq at ho ⊢
  simp only [List.find?_map, hsame, ho]
  simp [hreq, hline, hkeep]

/-- Settles O39.  Each command sends its request to the home slice (`exec_readShared_sends` and its like), where a line that is
taken or reserved NACKs it (`State.slotRequest_nacks`, `State.nack_nacks`), and a filter entry opens a transaction
(`State.slotRequest_opens`); CANCEL and the resend are changes of the outstanding request alone. -/
theorem requestsAtTheHomeSlice : Obligations.RequestsAtTheHomeSlice := by
  unfold Obligations.RequestsAtTheHomeSlice
  refine ⟨fun s slot line h o hrun hout hhome hreach ho hnew => ?_, fun s r line o ho hnack =>
    ⟨exec_cancel_ends ho hnack, fun hkeep => ⟨_, rfl, State.resend_outReq ho hkeep, rfl⟩⟩⟩
  intro nacked named opened own mine prefetches
  refine ⟨fun hblocked => ?_, fun hopen hentry herrs => ?_⟩
  · have hnacked (k : ReqKind) (hage : ((s.outReq (.slot slot) line).getD (newReq (.slot slot) line k)).age = o.age) :
        nacked (s.slotRequest slot line k .ok) := by
      have hkept := Kept.slotRequest (sl := slot) (l := line) (k := k) (ev := .ok) (s.kept_frame [.lcs]) rfl
      have hholders := hkept.same_of_notMem (part := .holders) (by decide)
      have hmem := hkept.same_of_notMem (part := .mem) (by decide)
      rw [State.slotRequest_nacks hhome hreach hblocked] at hholders hmem ⊢
      obtain ⟨⟨o', hreq, hnack, hold⟩, hledger⟩ := s.nack_nacks h (.slot slot) line k false
      exact ⟨o', hreq, hnack, hage ▸ hold, State.txns_of_ledger hledger h.val, hholders, hmem⟩
    refine ⟨fun hreq => ?_, fun hpf => ?_⟩
    · have hage (k : ReqKind) : ((s.outReq (.slot slot) line).getD (newReq (.slot slot) line k)).age = o.age := by rw [hreq]; rfl
      exact ⟨fun hk => ⟨_, exec_readShared_sends hout hnew hrun hreq hk, hnacked _ (hage _)⟩,
        fun hk => ⟨_, exec_readOwn_sends hout hnew hreq hk, hnacked _ (hage _)⟩,
        fun hk => ⟨_, exec_upgrade_sends hout hnew hreq hk, hnacked _ (hage _)⟩⟩
    · exact ⟨_, exec_prefetch_sends hout hnew ho hpf, hnacked .prefetch (congrArg Outstanding.age ho.symm)⟩
  · obtain ⟨e, hsf⟩ := Option.isSome_iff_exists.mp hentry
    have hnamed : named = s.snoopTargets e (h.val / 6) (.slot slot) := by simp only [named, hsf]
    have hopened (k : ReqKind) : opened (s.slotRequest slot line k .ok) (k.handled own) (k.handled own).snoop
        ((k.handled own).granted named.isEmpty own) := by
      have hopens := State.slotRequest_opens hhome hreach hopen hsf herrs k
      rwa [← hnamed, State.isStarving_getD (k := .prefetch), ← ho] at hopens
    refine ⟨fun hreq => ⟨fun hk => ?_, fun hk => ?_, fun hk => ?_⟩, fun hpf => ?_⟩
    · exact ⟨_, exec_readShared_sends hout hnew hrun hreq hk, hopened .readShared⟩
    · exact ⟨_, exec_readOwn_sends hout hnew hreq hk, hopened .readOwn⟩
    · obtain ⟨hsnoop, hgrant⟩ := ReqKind.handled_upgrade named.isEmpty own
      have hup := hopened .upgrade
      rw [hsnoop, hgrant] at hup
      exact ⟨_, exec_upgrade_sends hout hnew hreq hk, hup⟩
    · exact ⟨_, exec_prefetch_sends hout hnew ho hpf, hopened .prefetch⟩

end Sys2Proof.Machine

namespace Sys2Proof.Machine

/-! ### Writes below the home slice leave its ledger alone -/

section
variable (s : State)

@[simp] theorem State.ite_slices (P : Prop) [Decidable P] (t : State) :
    (if P then s else t).slices = if P then s.slices else t.slices := apply_ite State.slices P s t

@[simp] theorem State.setMemLine_slices (l : LineNo) (d : Line) (p : Bool) : (s.setMemLine l d p).slices = s.slices := rfl

@[simp] theorem State.report_slices (a b c d : Nat) : (s.report a b c d).slices = s.slices := by
  rw [State.report_srcBufs]

@[simp] theorem State.brLog_slices (l : LineNo) (cause holder : Nat) : (s.brLog l cause holder).slices = s.slices := by
  unfold State.brLog
  split <;> simp

theorem State.homeWrite_slices (l : LineNo) (mask : BitVec 128) (d : Line) (poison : Bool) :
    (s.homeWrite l mask d poison).slices = s.slices := by
  unfold State.homeWrite
  split <;> simp [State.mcAccept, State.dramApply, State.cxlDrop]

theorem State.victimAccept_ledger (h : Nat) : (s.victimAccept h).ledger = s.ledger := by
  unfold State.victimAccept
  split
  · rfl
  · split
    · rfl
    · exact (State.ledger_of_slices (State.homeWrite_slices ..)).trans (s.setSlice_ledger rfl rfl)

theorem State.victimsFor_ledger (h : Nat) (l : LineNo) (n : Nat) : (s.victimsFor h l n).ledger = s.ledger := by
  induction n generalizing s with
  | zero => rfl
  | succ n ih =>
    unfold State.victimsFor
    split
    · rw [ih, State.victimAccept_ledger]
    · rfl

theorem State.victimSettle_ledger (l : LineNo) : (s.victimSettle l).ledger = s.ledger := by
  unfold State.victimSettle
  split
  · exact s.victimsFor_ledger ..
  · rfl

theorem State.snoopWrite_ledger (l : LineNo) (d : Line) (poison : Bool) : (s.snoopWrite l d poison).ledger = s.ledger := by
  refine (State.ledger_of_slices (State.homeWrite_slices ..)).trans (Eq.trans ?_ (s.victimSettle_ledger l))
  split
  · rfl
  · exact State.setSlice_ledger _ rfl rfl

end

/-- What a snoop returns stands in memory where the line's channel issues commands (R278, R318). -/
theorem State.snoopWrite_written {s : State} {l : LineNo} {t off : Nat} (hplace : s.place (lineAddr l) = .dram t off)
    (hissue : s.chanIssues (s.chanOf t off) = true) (d : Line) (poison : Bool) :
    (s.snoopWrite l d poison).memLine l = d ∧ (s.snoopWrite l d poison).isPoison l = poison := by
  unfold State.snoopWrite
  extract_lets s0 s1
  have hground : s1.ground = s.ground := by
    refine Eq.trans ?_ (s.victimSettle_ground l)
    simp only [s1]
    split <;> rfl
  have hissue1 : s1.chanIssues (s1.chanOf t off) = true := by
    rw [State.chanIssues_of_ground hground, State.chanOf_of_ground hground, hissue]
  rw [State.homeWrite_issued ((State.place_of_ground hground _).trans hplace) hissue1]
  exact ⟨State.setMemLine_memLine .., State.setMemLine_isPoison ..⟩

/-! ### What a snoop does to a held line (Table 10.3) -/

theorem Holder.find_setState (h : Holder) (l : LineNo) (st : Moesi) :
    ((h.setState l st).find l).map (·.st) = (h.find l).map fun _ => st := by
  have hline : ((fun c : CLine => decide (c.line = l)) ∘ fun c => if c.line = l then { c with st := st } else c) =
      fun c => decide (c.line = l) := by
    funext c
    simp [apply_ite CLine.line]
  simp only [Holder.find, Holder.setState, List.find?_map, hline, Option.map_map]
  cases hfind : h.l2.find? fun c => decide (c.line = l) with
  | none => rfl
  | some c =>
    have hc : c.line = l := by simpa using List.find?_some hfind
    simp [hc]

theorem Holder.find_drop (h : Holder) (l : LineNo) : (h.drop l).find l = none :=
  List.find?_eq_none.mpr fun c hc => by simpa using (List.mem_filter.mp hc).2

theorem State.slotInvalidate_drops (s : State) (n : Nat) (l : LineNo) :
    (s.slotInvalidate n l).holder n = (s.holder n).drop l ∧ (s.slotInvalidate n l).slices = s.slices := by
  unfold State.slotInvalidate
  dsimp only
  split
  · simp
  · split <;> simp

/-- M and O. -/
def Moesi.dirty (st : Moesi) : Bool := st == .m || st == .o

/-- State in which a snoop leaves a line held in state `st`. -/
def Moesi.snooped (st : Moesi) (k : Snoop) : Option Moesi :=
  match k with
  | .share => some (if st.dirty then .o else .s)
  | .inv => none
  | .clean => some (if st = .m then .e else if st = .o then .s else st)
  | .peek | .probe | .recover => some st

/-- What the slot answers. -/
def Moesi.answer (st : Moesi) (k : Snoop) : SnoopAnswer :=
  match k with
  | .share | .inv | .clean | .peek => if st.dirty then .data else .hit
  | .probe => .hit
  | .recover => .data

/-- The snoop returns the copy to memory. -/
def Moesi.returned (st : Moesi) (k : Snoop) : Bool :=
  match k with
  | .share | .inv | .clean => st.dirty
  | .peek | .probe => false
  | .recover => true

/-- The copy is forwarded to the requester. -/
def Moesi.forwarded (st : Moesi) (k : Snoop) : Bool :=
  match k with
  | .share | .inv => st.dirty
  | .clean | .peek | .probe | .recover => false

theorem Moesi.forwarded_eq (st : Moesi) (k : Snoop) :
    (st.answer k == .data && (k == .share || k == .inv)) = st.forwarded k := by
  cases k <;> cases st <;> rfl

section
variable {s : State} {sl : Slot} {l : LineNo}
  (hevict : ((s.holder sl.val).evict.any fun c => c.line = l && (c.st == .m || c.st == .o)) = false)
include hevict

theorem State.snoop_missed (hnone : (s.holder sl.val).stateOf l = none) (k : Snoop) (starving : Bool) :
    s.snoop sl l k starving = (s, .miss, none) := by
  simp [State.snoop, hevict, hnone]

/-- A snoop of a held line that no reservation holds changes the slot as Table 10.3 says, and then returns the copy. -/
theorem State.snoop_held {c : CLine} (hfind : (s.holder sl.val).find l = some c) (hhold : s.holdOn sl l = false) (k : Snoop)
    (starving : Bool) : ∃ w : State, s.snoop sl l k starving =
        (if c.st.returned k then w.snoopWrite l c.data c.poison else w, c.st.answer k, some c.st) ∧
      ((w.holder sl.val).find l).map (·.st) = c.st.snooped k ∧ w.ground = s.ground ∧ w.slices = s.slices := by
  have hst : (s.holder sl.val).stateOf l = some c.st := by simp [Holder.stateOf, hfind]
  have hdata : (s.holder sl.val).dataOf l = some (c.data, c.poison) := by simp [Holder.dataOf, hfind]
  have hsame : ((s.holder sl.val).find l).map (·.st) = some c.st := by rw [hfind]; rfl
  have hdown (n : Moesi) : (((s.setHolder sl.val ((s.holder sl.val).setState l n)).holder sl.val).find l).map (·.st) =
      some n := by
    rw [State.setHolder_holder, Holder.find_setState, hfind]
    rfl
  obtain ⟨hdrop, hslices⟩ := s.slotInvalidate_drops sl.val l
  simp only [State.snoop, hevict, hst, hhold, hdata, Bool.and_false, Bool.false_and, Bool.false_eq_true, if_false,
    Option.getD_some]
  cases k with
  | share =>
    refine ⟨s.setHolder sl.val ((s.holder sl.val).setState l (if c.st.dirty then .o else .s)), ?_, hdown _, rfl, rfl⟩
    cases hd : c.st <;> simp [Moesi.returned, Moesi.answer, Moesi.dirty]
  | inv =>
    refine ⟨s.slotInvalidate sl.val l, ?_, by rw [hdrop, Holder.find_drop]; rfl, s.slotInvalidate_ground .., hslices⟩
    cases hd : c.st <;> simp [Moesi.returned, Moesi.answer, Moesi.dirty]
  | clean =>
    cases hd : c.st with
    | m => exact ⟨_, rfl, hdown .e, rfl, rfl⟩
    | o => exact ⟨_, rfl, hdown .s, rfl, rfl⟩
    | e | s => exact ⟨s, rfl, hsame.trans (congrArg some hd), rfl, rfl⟩
  | peek => exact ⟨s, rfl, hsame, rfl, rfl⟩
  | probe => exact ⟨s, rfl, hsame, rfl, rfl⟩
  | recover => exact ⟨s, rfl, hsame, rfl, rfl⟩

end

theorem State.txnAt_modTxn_of_eq {s : State} {h : Nat} {l : LineNo} {t : Txn} (htxn : s.txnAt h l = some t) (f : Txn → Txn)
    (hf : ∀ t, (f t).line = t.line) : (s.modTxn h l f).txnAt h l = some (f t) := by
  rw [State.txnAt_modTxn _ _ _ hf, htxn]
  rfl

/-! ### The arrival of a snoop at a slot (R277, R278) -/

/-- The transaction with the answer of a slot to its snoop of kind `k`, and the data that it then has. -/
def Txn.record (t : Txn) (sl : Slot) (k : Snoop) (a : SnoopAnswer × Option Moesi) (v : Option (Line × Bool)) : Txn :=
  { t with
    snoops := t.snoops.map fun m => if m.slot = sl ∧ m.kind = k ∧ m.answer = none then { m with answer := some a } else m
    data := v }

section
variable {s : State} {sl : Slot} {l : LineNo} {h : Slice} {t : Txn} (hhome : s.homeSlice l = some h)
  (htxn : s.txnAt h.val l = some t) (hout : s.outStruck sl = false) (herr : s.cacheErr sl l = false)
  (hroom : s.homeWaits l = false) {k : Snoop} (hsent : ∃ m ∈ t.snoops, m.slot = sl ∧ m.kind = k ∧ m.answer = none)
include hhome htxn hout herr hroom hsent

/-- A snoop that an open transaction has sent is answered, and the answer recorded. -/
theorem State.snoopCmd_answers : ∃ starving : Bool, s.snoopCmd sl l k =
    (s.snoop sl l k starving).1.modTxn h.val l fun t => t.record sl k (s.snoop sl l k starving).2
      (if (s.snoop sl l k starving).2.1 == .data && (k == .share || k == .inv) then (s.holder sl.val).dataOf l
        else t.data) := by
  have hdue : s.snoopDue h sl l k = true := by
    obtain ⟨m, hm, hslot, hkind, hnone⟩ := hsent
    have hany : (t.snoops.any fun m => m.slot = sl && m.kind = k && m.answer.isNone) = true :=
      List.any_eq_true.mpr ⟨m, hm, by simp [hslot, hkind, hnone]⟩
    simp [State.snoopDue, htxn, hany]
  rw [State.snoopCmd, if_pos (by simp [hhome, hdue]), State.leaves_clean hout, State.lineMet_clean (by simpa using herr)]
  simp only [State.snoopArrive, hhome, hdue, hroom, Bool.not_true, Bool.and_false, Bool.or_self, Bool.false_eq_true, if_false]
  simp only [Txn.record, Bool.and_eq_true, decide_eq_true_eq, Option.isNone_iff_eq_none, and_assoc]
  exact ⟨_, rfl⟩

theorem State.snoopCmd_misses (hevict : ((s.holder sl.val).evict.any fun c => c.line = l && (c.st == .m || c.st == .o)) = false)
    (hnone : (s.holder sl.val).stateOf l = none) :
    (s.snoopCmd sl l k).txnAt h.val l = some (t.record sl k (.miss, none) t.data) ∧
      (s.snoopCmd sl l k).holders = s.holders ∧ (s.snoopCmd sl l k).mem = s.mem := by
  obtain ⟨starving, hcmd⟩ := State.snoopCmd_answers hhome htxn hout herr hroom hsent
  rw [State.snoop_missed hevict hnone] at hcmd
  rw [hcmd]
  exact ⟨State.txnAt_modTxn_of_eq htxn _ fun _ => rfl, rfl, rfl⟩

theorem State.snoopCmd_meets (hevict : ((s.holder sl.val).evict.any fun c => c.line = l && (c.st == .m || c.st == .o)) = false)
    {c : CLine} (hfind : (s.holder sl.val).find l = some c) (hhold : s.holdOn sl l = false) :
    (s.snoopCmd sl l k).txnAt h.val l = some (t.record sl k (c.st.answer k, some c.st)
        (if c.st.forwarded k then some (c.data, c.poison) else t.data)) ∧
      (((s.snoopCmd sl l k).holder sl.val).find l).map (·.st) = c.st.snooped k ∧
      (c.st.returned k = true → ∀ tile off, s.place (lineAddr l) = .dram tile off →
        s.chanIssues (s.chanOf tile off) = true →
        (s.snoopCmd sl l k).memLine l = c.data ∧ (s.snoopCmd sl l k).isPoison l = c.poison) := by
  have hdata : (s.holder sl.val).dataOf l = some (c.data, c.poison) := by simp [Holder.dataOf, hfind]
  obtain ⟨starving, hcmd⟩ := State.snoopCmd_answers hhome htxn hout herr hroom hsent
  obtain ⟨w, hsnoop, hleaves, hground, hslices⟩ := State.snoop_held hevict hfind hhold k starving
  rw [hsnoop] at hcmd
  simp only [Moesi.forwarded_eq, hdata] at hcmd
  rw [hcmd]
  generalize hv : (if c.st.returned k then w.snoopWrite l c.data c.poison else w) = v
  have hledger : v.ledger = s.ledger := by
    rw [← hv]
    split
    · exact (w.snoopWrite_ledger ..).trans (State.ledger_of_slices hslices)
    · exact State.ledger_of_slices hslices
  have hholders : v.holders = w.holders := by
    rw [← hv]
    split
    · exact (Kept.snoopWrite (w.kept_frame [.mem, .ports]) rfl rfl).same_of_notMem (part := .holders) (by decide)
    · rfl
  refine ⟨?_, ?_, fun hret tile off hplace hissue => ?_⟩
  · exact State.txnAt_modTxn_of_eq ((State.txnAt_of_ledger hledger ..).trans htxn) _ fun _ => rfl
  · rw [← hleaves]
    exact (congrArg (fun x => ((Table.get Holder.init x sl.val).find l).map (·.st)) hholders :)
  · have hissue' : w.chanIssues (w.chanOf tile off) = true := by
      rw [State.chanIssues_of_ground hground, State.chanOf_of_ground hground, hissue]
    rw [if_pos hret] at hv
    subst hv
    exact State.snoopWrite_written ((State.place_of_ground hground _).trans hplace) hissue' c.data c.poison

end

/-! ### Filter entries read back (R280) -/

/-- The entry names a slot or a tile. -/
def SfEntry.NamesSome (e : SfEntry) : Prop := ¬ (e.loc = 0 ∧ e.remote = 0)

theorem bvPut_ne_zero {n : Nat} (v : BitVec n) {i : Nat} (hi : i < n) : bvPut v i true ≠ 0 := by
  intro h
  have hbit := congrArg (BitVec.getLsbD · i) h
  simp [bvPut, hi] at hbit

theorem SfEntry.addHolder_namesSome (e : SfEntry) (ht : Nat) (sl : Slot) : (e.addHolder ht sl.val).NamesSome := by
  unfold SfEntry.addHolder
  rintro ⟨hloc, hremote⟩
  split at hloc
  · exact bvPut_ne_zero _ (by omega) hloc
  · next hne =>
    rw [if_neg hne] at hremote
    exact bvPut_ne_zero _ (by omega) hremote

theorem SfEntry.addHolder_line (e : SfEntry) (ht sl : Nat) : (e.addHolder ht sl).line = e.line := by
  unfold SfEntry.addHolder
  split <;> rfl

theorem Txn.answered_line (t : Txn) (ht : Nat) (e : SfEntry) : (t.answered ht e).line = e.line := by
  have hdrop (e : SfEntry) (m : SnoopMsg) : (if m.lost then e.dropHolder ht m.slot.val else e).line = e.line := by
    unfold SfEntry.dropHolder
    dsimp only
    split
    · split <;> split <;> rfl
    · rfl
  have hfold (ms : List SnoopMsg) : ∀ e : SfEntry,
      (ms.foldl (fun e m => if m.lost then e.dropHolder ht m.slot.val else e) e).line = e.line := by
    induction ms with
    | nil => exact fun _ => rfl
    | cons m ms ih => exact fun e => (ih _).trans (hdrop e m)
  exact hfold _ e

/-- The entry after an ownership request of the slot: the answers are known, and the slot is a holder and the owner, in M or
E (Table 10.1). -/
def Txn.owned (t : Txn) (ht : Nat) (sl : Slot) (e : SfEntry) : SfEntry :=
  { ((t.answered ht e).addHolder ht sl.val) with
    owner := BitVec.ofNat 6 (ownerCode ht sl.val), ostate := if t.grant == .m then 1 else 0 }

theorem Txn.owned_namesSome (t : Txn) (ht : Nat) (sl : Slot) (e : SfEntry) : (t.owned ht sl e).NamesSome :=
  SfEntry.addHolder_namesSome _ _ _

theorem Txn.owned_line (t : Txn) (ht : Nat) (sl : Slot) (e : SfEntry) : (t.owned ht sl e).line = e.line :=
  (SfEntry.addHolder_line ..).trans (t.answered_line ht e)

section
variable {s : State} {h : Nat} {l : LineNo}

theorem State.sfMod_txns (f : SfEntry → SfEntry) : ((s.sfMod h l f).slice h).txns = (s.slice h).txns := by
  unfold State.sfMod
  split
  · simp [State.sfPut]
  · rfl

/-- An entry that goes on to name someone is read back as it was changed. -/
theorem State.sfGet_sfMod {e : SfEntry} (hsf : s.sfGet h l = some e) {f : SfEntry → SfEntry} (hline : (f e).line = l)
    (hnames : (f e).NamesSome) : (s.sfMod h l f).sfGet h l = some (f e) := by
  have hstays : ((f e).loc = 0 && (f e).remote = 0 && !(f e).pin) = false := by
    rw [← Bool.decide_and, decide_eq_false hnames, Bool.false_and]
  simp only [State.sfMod, hsf]
  exact hline ▸ s.sfGet_sfPut hstays

theorem State.dropTxn_closes (s : State) (h : Nat) (l : LineNo) : (s.dropTxn h l).txnAt h l = none := by
  unfold State.txnAt State.dropTxn
  rw [State.sfMod_txns, State.modSlice_eq, State.setSlice_slice]
  exact find?_removed Txn.line _ l

theorem State.sfGet_dropTxn {e : SfEntry} (hsf : s.sfGet h l = some e) (hnames : e.NamesSome) :
    (s.dropTxn h l).sfGet h l = some { e with pin := false } := by
  have hline : e.line = l := by simpa using List.find?_some hsf
  refine State.sfGet_sfMod ?_ hline hnames
  rw [State.modSlice_eq, State.sfGet, State.setSlice_slice]
  exact hsf

end

/-! ### Answers and COMPLETE (R275, R280, R283, R286) -/

section
variable {s : State} {sl : Slot} {l : LineNo} {h : Slice} {t : Txn} (hhome : s.homeSlice l = some h)
  (htxn : s.txnAt h.val l = some t)
include hhome htxn

section
variable {m : SnoopMsg} {a : SnoopAnswer} {st : Option Moesi}
  (hm : (t.snoops.find? fun m => m.slot = sl && m.answer.isSome && !m.received) = some m) (hanswer : m.answer = some (a, st))
include hm hanswer

/-- A HELD answer ends the transaction without a grant, and its request is NACKed (R286). -/
theorem State.answerArrive_held (hheld : a = .held) (hfree : ∀ x ∈ (s.slice h.val).txns, x.backInv ≠ some l) :
    (s.answerArrive sl l).txnAt h.val l = none ∧
      ((s.answerArrive sl l).outReq t.req l).map (·.nacked) = some true := by
  subst hheld
  have hnone : ((s.slice h.val).txns.find? fun x => x.backInv = some l) = none := by simpa using hfree
  simp only [State.answerArrive, hhome, htxn, hm, hanswer, State.abandonTxn, hnone]
  obtain ⟨⟨o, hreq, hnack, -⟩, hledger⟩ := State.nack_nacks
    ((s.sfMod h.val l (t.answered (h.val / 6))).dropTxn h.val l) h t.req l t.kind false
  rw [State.txnAt_of_ledger hledger, hreq]
  exact ⟨State.dropTxn_closes .., congrArg some hnack⟩

/-- Any other answer but WB_PENDING is received, and a dirty copy makes an ownership grant M (R279, R283). -/
theorem State.answerArrive_received (hheld : a ≠ .held) (hwb : a ≠ .wbPending) (hkind : t.kind ≠ .maint) :
    (s.answerArrive sl l).txnAt h.val l = some { t with
      snoops := t.snoops.map fun x => if x.slot = sl then { x with received := true } else x
      grant := if (t.kind = .readOwn ∨ t.kind = .upgrade) ∧ (st = some .m ∨ st = some .o) then .m else t.grant } := by
  have hpending : (a == .wbPending) = false := by simpa using hwb
  have hmaint : (t.kind == .maint) = false := by simpa using hkind
  cases a with
  | held => exact absurd rfl hheld
  | wbPending => exact absurd rfl hwb
  | data | hit | miss =>
    simp only [State.answerArrive, hhome, htxn, hm, hanswer, hpending, Bool.false_and, Bool.false_or, Bool.false_eq_true,
      if_false]
    rw [State.txnAt_modTxn_of_eq htxn]
    case hf => exact fun _ => rfl
    simp only [hmaint, Bool.false_and, Bool.false_eq_true, if_false]
    rw [State.txnAt_modTxn_of_eq htxn]
    case hf => exact fun _ => rfl
    simp

end

/-- COMPLETE of a delivered transaction closes it; the filter entry names a requester that took the line as its owner. -/
theorem State.completeTxn_closes (hreq : t.req = .slot sl) (hdone : t.delivered = true) :
    (s.completeTxn (.slot sl) l).txnAt h.val l = none ∧
      ∀ e : SfEntry, s.sfGet h.val l = some e → t.kind = .readOwn ∨ t.kind = .upgrade →
        (s.completeTxn (.slot sl) l).sfGet h.val l = some { t.owned (h.val / 6) sl e with pin := false } := by
  have hopen : (t.req = .slot sl && t.delivered) = true := by simp [hreq, hdone]
  simp only [State.completeTxn, hhome, htxn, hopen, if_true]
  refine ⟨State.dropTxn_closes .., fun e hsf hown => State.sfGet_dropTxn ?_ (t.owned_namesSome _ sl e)⟩
  have hline : (t.owned (h.val / 6) sl e).line = l := (t.owned_line ..).trans (by simpa using List.find?_some hsf)
  obtain hk | hk := hown <;> simp only [hk] <;> exact State.sfGet_sfMod hsf hline (t.owned_namesSome _ sl e)

end

/-- Settles O40.  What a snoop does where the line is missing or held is `State.snoopCmd_misses` and `State.snoopCmd_meets`, one
statement for all six kinds; an answer ends its transaction (`State.answerArrive_held`) or is received
(`State.answerArrive_received`); COMPLETE is `State.completeTxn_closes`. -/
theorem snoopsAndCompletion : Obligations.SnoopsAndCompletion := by
  unfold Obligations.SnoopsAndCompletion
  refine ⟨fun s slot line h t hhome htxn hout herr hroom hevict => ?_,
    fun s slot line h t m a st hhome htxn hm hanswer => ?_, fun s slot line h t hhome htxn hreq hdone => ?_⟩
  · intro sent recorded
    refine ⟨fun hnone => ?_, fun c hfind hhold => ?_⟩
    · intro missed
      have hmissed (k : Snoop) : missed k (.next (s.snoopCmd slot line k)) := fun hsent =>
        ⟨_, rfl, State.snoopCmd_misses hhome htxn hout herr hroom hsent hevict hnone⟩
      exact ⟨hmissed .share, hmissed .inv, hmissed .clean, hmissed .peek, hmissed .probe, hmissed .recover⟩
    · intro dirty byState met
      have hmet (k : Snoop) : met k (c.st.snooped k) (c.st.answer k) (c.st.forwarded k) (c.st.returned k)
          (.next (s.snoopCmd slot line k)) := fun hsent =>
        ⟨_, rfl, State.snoopCmd_meets hhome htxn hout herr hroom hsent hevict hfind hhold⟩
      exact ⟨hmet .share, hmet .inv, hmet .clean, hmet .peek, hmet .probe, hmet .recover⟩
  · have hkept := exec_keeps_frame (.snoopAnswer slot line) s _ rfl
    have hholders := hkept.same_of_notMem (part := .holders) (show Part.holders ∉ [.lcs] by decide)
    have hmem := hkept.same_of_notMem (part := .mem) (show Part.mem ∉ [.lcs] by decide)
    refine ⟨fun hheld hfree => ?_, fun hheld hwb hkind =>
      ⟨_, rfl, State.answerArrive_received hhome htxn hm hanswer hheld hwb hkind, hholders, hmem⟩⟩
    obtain ⟨hclosed, hnacked⟩ := State.answerArrive_held hhome htxn hm hanswer hheld hfree
    exact ⟨_, rfl, hclosed, hnacked, hmem⟩
  · have hkept := exec_keeps_frame (.complete (.slot slot) line) s _ rfl
    obtain ⟨hclosed, howner⟩ := State.completeTxn_closes hhome htxn hreq hdone
    exact ⟨_, rfl, hclosed, hkept.same_of_notMem (part := .holders) List.not_mem_nil,
      hkept.same_of_notMem (part := .mem) List.not_mem_nil,
      fun e hsf hown => ⟨_, howner e hsf hown, rfl, by simp [Txn.owned], rfl⟩⟩

end Sys2Proof.Machine

/-! PROOF. Memory at reset (O60) and the DRAM controllers (O43).  Opening rows and reading DRAM change a channel's rows, counts
and log, and at most the mark of the line read; a write changes its own line; and a drain performs the queue entry by entry. -/

namespace Sys2Proof.Machine

/-- Settles O60: reset lists no byte, and an empty list is canonical. -/
theorem resetMemoryIsInCanonicalForm : Obligations.ResetMemoryIsInCanonicalForm := ⟨rfl, rfl⟩

/-! ### What does not depend on the rows and the log of a channel (R318 to R321, R329) -/

/-- A channel without its rows, their refresh and activation records, and its log. -/
def ChanSt.settled (x : ChanSt) : ChanSt :=
  { x with openRow := [], postponed := [], raa := [], neighbours := [], lfsr := 0, errlog := [] }

@[simp] theorem ChanSt.refreshed_settled (x : ChanSt) (b : Nat) : (x.refreshed b).settled = x.settled := rfl

/-- The state without the registers, fault messages and free values, and with its channels settled. -/
def State.unrowed (s : State) : State × (Nat → ChanSt) :=
  ({ s with regs := [], srcBufs := [], free := 0, chans := [] }, fun n => (s.chan n).settled)

/-- The interleaving of every tile and its settled channels: what serves the queues, whatever memory holds. -/
def State.wiring (s : State) : (Nat → Bool) × (Nat → ChanSt) :=
  (fun n => (s.map n).stripe, fun n => (s.chan n).settled)

/-- What one channel's update keeps of that channel, it keeps of every channel. -/
theorem State.setChan_keeps {β : Type} (φ : ChanSt → β) (s : State) {n : Nat} {v : ChanSt} (h : φ v = φ (s.chan n))
    (k : Nat) : φ ((s.setChan n v).chan k) = φ (s.chan k) := by
  by_cases hk : n = k
  · subst hk
    rw [State.setChan_chan, h]
  · rw [State.setChan_chan_ne _ _ hk]

theorem State.modChan_keeps {β : Type} (φ : ChanSt → β) {f : ChanSt → ChanSt} (hf : ∀ x, φ (f x) = φ x) (s : State)
    (n k : Nat) : φ ((s.modChan n f).chan k) = φ (s.chan k) := s.setChan_keeps φ (hf _) k

/-- A command that does not touch memory leaves it. -/
theorem exec_keeps_mem {i : Instr} (hi : Part.mem ∉ touches i) {s t : State} (h : exec i s = .next t) : t.mem = s.mem :=
  (exec_keeps_frame i s t h).same_of_notMem hi

section
variable {s t : State} (h : t.unrowed = s.unrowed)
include h

theorem State.mem_of_unrowed : t.mem = s.mem := congrArg (fun p => p.1.mem) h

theorem State.poison_of_unrowed : t.poison = s.poison := congrArg (fun p => p.1.poison) h

theorem State.memLine_of_unrowed (l : LineNo) : t.memLine l = s.memLine l := by
  rw [State.memLine, State.mem_of_unrowed h, State.memLine]

theorem State.isPoison_of_unrowed (l : LineNo) : t.isPoison l = s.isPoison l := by
  rw [State.isPoison, State.poison_of_unrowed h, State.isPoison]

theorem State.wiring_of_unrowed : t.wiring = s.wiring :=
  congrArg (fun p => (fun n => (Table.get MapSt.init p.1.maps n).stripe, p.2)) h

theorem State.ground_of_unrowed : t.ground = s.ground :=
  congrArg (fun p => (p.1.maps, p.1.loader, fun n => (p.1.port n).cxlUnits, fun n => ((p.2 n).issues, (p.2 n).st == .failed))) h

theorem State.chanFailed_of_unrowed : t.chanFailed = s.chanFailed := funext fun n => congrArg (fun p => (p.2 n).st == .failed) h

theorem State.dramGood_of_unrowed (k off : Nat) : t.dramGood k off = s.dramGood k off := by
  have hground := State.ground_of_unrowed h
  simp only [State.dramGood, State.map_of_ground hground, State.chanOf_of_ground hground,
    State.chanFailed_of_unrowed h]

theorem State.readsPoison_of_unrowed (l : LineNo) : t.readsPoison l = s.readsPoison l := by
  have hca (n : Nat) : (t.chan n).caPoison = (s.chan n).caPoison := congrArg (fun p => (p.2 n).caPoison) h
  have hground := State.ground_of_unrowed h
  simp only [State.readsPoison, State.rebuiltPoison, State.isPoison_of_unrowed h, State.place_of_ground hground,
    State.map_of_ground hground, State.chanOf_of_ground hground, State.dramGood_of_unrowed h,
    State.chanFailed_of_unrowed h, hca]

end

section
variable (s : State)

@[simp] theorem State.ite_unrowed (P : Prop) [Decidable P] (t : State) :
    (if P then s else t).unrowed = if P then s.unrowed else t.unrowed := apply_ite State.unrowed P s t

@[simp] theorem State.setReg_unrowed (r : CsReg) (v : Word) : (s.setReg r v).unrowed = s.unrowed := rfl

@[simp] theorem State.report_unrowed (a b c d : Nat) : (s.report a b c d).unrowed = s.unrowed := by
  rw [State.report_srcBufs]
  rfl

theorem State.setChan_unrowed {n : Nat} {v : ChanSt} (h : v.settled = (s.chan n).settled) : (s.setChan n v).unrowed = s.unrowed :=
  congrArg (Prod.mk _) (funext (s.setChan_keeps ChanSt.settled h))

@[simp] theorem State.errLog_unrowed (c : Chan) (e : Word × Word) : (s.errLog c e).unrowed = s.unrowed := by
  unfold State.errLog
  dsimp only
  split
  · exact s.setChan_unrowed rfl
  · exact (State.setReg_unrowed ..).trans (s.setChan_unrowed rfl)

/-! ### Opening a row (R318 to R321) -/

@[simp] theorem State.nbrRefresh_unrowed (c : Chan) (b : Nat) : (s.nbrRefresh c b).unrowed = s.unrowed := by
  unfold State.nbrRefresh
  dsimp only
  split
  · rfl
  · exact (State.setReg_unrowed ..).trans (s.setChan_unrowed rfl)

@[simp] theorem State.makeNbrRoom_unrowed (c : Chan) (b room n : Nat) : (s.makeNbrRoom c b room n).unrowed = s.unrowed := by
  induction n generalizing s with
  | zero => rfl
  | succ n ih => simp [State.makeNbrRoom, ih]

@[simp] theorem State.bankDue_unrowed (c : Chan) (b : Nat) : (s.bankDue c b).unrowed = s.unrowed := by
  unfold State.bankDue
  extract_lets x s1 s2 y
  have hdown (x : ChanSt) (rows : Table (Option Nat)) : { x.raaDown b with openRow := rows }.settled = x.settled := rfl
  have hrefreshed : (s.setChan c.val (x.refreshed b)).unrowed = s.unrowed := s.setChan_unrowed (x.refreshed_settled b)
  have h1 : s1.unrowed = s.unrowed := by
    rw [State.ite_unrowed, hrefreshed, ite_self]
  have h2 : s2.unrowed = s.unrowed := (s1.makeNbrRoom_unrowed c b 4 4).trans h1
  split
  · exact (s2.setChan_unrowed (hdown y _)).trans h2
  · exact h2

@[simp] theorem State.activate_unrowed (c : Chan) (b r : Nat) : (s.activate c b r).unrowed = s.unrowed := by
  unfold State.activate
  extract_lets s1 rh two x on lf k s2 rows s3
  have hopened (x : ChanSt) (rows : Table (Option Nat)) (raa : Table Nat) (lf : BitVec 32) :
      { x with openRow := rows, raa := raa, lfsr := lf }.settled = x.settled := rfl
  have hpending (x : ChanSt) (nbrs : Table (List Nat)) : { x with neighbours := nbrs }.settled = x.settled := rfl
  have h1 : s1.unrowed = s.unrowed := s.bankDue_unrowed c b
  have h2 : s2.unrowed = s.unrowed := (s1.setChan_unrowed (hopened x _ _ _)).trans h1
  have h3 : s3.unrowed = s.unrowed := (s2.makeNbrRoom_unrowed c b rows.length 4).trans h2
  split
  · exact h1
  · split
    · exact (s3.setChan_unrowed (hpending _ _)).trans h3
    · exact h2

@[simp] theorem State.activateAll_unrowed (c : Chan) (off : Nat) (p : DramPos) (all : Bool) :
    (s.activateAll c off p all).unrowed = s.unrowed :=
  State.foldl_keeps State.unrowed (fun s k => s.activate_unrowed k p.bankNo p.row) _ s

/-! ### Reading a line (R324 to R326) -/

/-- From `s` to `t` rows, counts, logs and messages change, and at most the mark of the line. -/
def State.MarksAtMost (s : State) (l : LineNo) (t : State) : Prop :=
  t.unrowed = s.unrowed ∨ t.unrowed = (s.setPoison l true).unrowed

theorem State.dramRead_marks (c : Chan) (l : LineNo) (off kind : Nat) (ev : DramEvent) :
    s.MarksAtMost l (s.dramRead c l off kind ev) := by
  unfold State.dramRead
  extract_lets t a stripe lost drawn s1
  have hlost (u : State) (syn : Nat) (burst : Bool) : (lost u syn burst).unrowed = (u.setPoison l true).unrowed := by
    simp [lost]
  have hdrawn (burst : Bool) : (drawn s burst).unrowed = (s.setPoison l true).unrowed := hlost ..
  split
  · exact .inl rfl
  · split
    · exact .inl rfl
    · split
      · exact .inr (hdrawn false)
      · cases ev with
        | ok => exact .inl rfl
        | corrected ue =>
          dsimp only
          split
          · exact .inr (hdrawn true)
          · exact .inl (by simp [s1])
        | uncorrectable syn => exact .inr (hlost ..)

/-- Without an error, a read where the data is good, or in independent mode, marks nothing. -/
theorem State.dramRead_quiet (c : Chan) (l : LineNo) {off : Nat} (kind : Nat)
    (h : (s.map (c.val / 5)).stripe = false ∨ s.dramGood (c.val / 5) off = true) :
    (s.dramRead c l off kind .ok).unrowed = s.unrowed := by
  unfold State.dramRead
  extract_lets t a stripe lost drawn
  split
  · rfl
  · next hserves =>
    have hgood : s.dramGood t off = true := by
      obtain h | h := h
      · simpa [stripe, t, h] using hserves
      · exact h
    split
    · rfl
    · simp [hgood]

end

/-! ### Writing a line (R316, R330) -/

theorem memWrite_get_above (m : List Host.Cell) {a b : Nat} (bs : List Byte) (h : a + bs.length ≤ b) :
    Table.get (V := Byte) 0 (memWrite m a bs) b = Table.get 0 m b := by
  induction bs generalizing m a with
  | nil => rfl
  | cons x bs ih =>
    rw [List.length_cons] at h
    rw [memWrite, ih _ (by omega), Table.get_set_ne _ _ _ (by omega)]

theorem memRead_congr {m k : List Host.Cell} {a n : Nat}
    (h : ∀ b, a ≤ b → b < a + n → Table.get (V := Byte) 0 m b = Table.get 0 k b) : memRead m a n = memRead k a n := by
  induction n generalizing a with
  | zero => rfl
  | succ n ih => rw [memRead, memRead, h a (Nat.le_refl a) (by omega), ih fun b h1 h2 => h b (by omega) (by omega)]

theorem mem_insertSorted_iff {k n : Nat} {xs : List Nat} : k ∈ insertSorted n xs ↔ k = n ∨ k ∈ xs := by
  induction xs with
  | nil => simp [insertSorted]
  | cons a xs ih =>
    unfold insertSorted
    split
    · simp
    · split
      · simp [*]
      · simp [ih, or_left_comm]

section
variable (s : State) {l k : LineNo}

theorem State.setPoison_isPoison_ne (p : Bool) (h : k ≠ l) : (s.setPoison l p).isPoison k = s.isPoison k := by
  have hne : k.toNat ≠ l.toNat := fun e => h (BitVec.eq_of_toNat_eq e)
  rw [State.isPoison, State.isPoison, Bool.eq_iff_iff, List.contains_iff_mem, List.contains_iff_mem]
  cases p <;> simp [State.setPoison, mem_insertSorted_iff, hne]

theorem State.setMemLine_isPoison_ne (d : Line) (p : Bool) (h : k ≠ l) : (s.setMemLine l d p).isPoison k = s.isPoison k :=
  State.setPoison_isPoison_ne { s with mem := memWrite s.mem (lineAddr l) (lineBytes d) } p h

theorem State.setMemLine_memLine_ne (d : Line) (p : Bool) (h : k ≠ l) : (s.setMemLine l d p).memLine k = s.memLine k := by
  have hne : k.toNat ≠ l.toNat := fun e => h (BitVec.eq_of_toNat_eq e)
  have hlen : (lineBytes d).length = 128 := leBytes_length ..
  refine congrArg lineOf (memRead_congr fun b h1 h2 => ?_)
  simp only [lineAddr] at h1 h2
  obtain hlt | hgt := Nat.lt_or_gt_of_ne hne
  · exact memWrite_get_below _ (by simp only [lineAddr]; omega) _
  · exact memWrite_get_above _ _ (by simp only [lineAddr]; omega)

end

/-- The lines other than `l` read the same in both states, marks included. -/
def State.SameBut (s : State) (l : LineNo) (t : State) : Prop :=
  ∀ k, k ≠ l → t.memLine k = s.memLine k ∧ t.isPoison k = s.isPoison k

/-- The entry is written: its line reads as it says where it is whole, and no other line changes. -/
def State.Writes (s : State) (e : WqEntry) (t : State) : Prop :=
  (e.mask = fullMask → t.memLine e.line = e.data ∧ t.isPoison e.line = e.poison) ∧ s.SameBut e.line t

theorem State.Writes.of_sameBut {s t u : State} {e : WqEntry} (h : s.SameBut e.line t) (hw : t.Writes e u) : s.Writes e u :=
  ⟨hw.1, fun k hk => ⟨(hw.2 k hk).1.trans (h k hk).1, (hw.2 k hk).2.trans (h k hk).2⟩⟩

section
variable (s : State) (e : WqEntry)

theorem State.dramApply_line : (s.dramApply e).memLine e.line =
    (if e.mask = fullMask then e.data else lineMerge (s.memLine e.line) e.data e.mask) := by
  unfold State.dramApply
  split <;> exact State.setMemLine_memLine ..

theorem State.dramApply_mark : (s.dramApply e).isPoison e.line =
    (if e.mask = fullMask then e.poison else s.readsPoison e.line || e.poison) := by
  unfold State.dramApply
  split <;> exact State.setMemLine_isPoison ..

theorem State.dramApply_sameBut : s.SameBut e.line (s.dramApply e) := by
  have hset (d : Line) (p : Bool) : s.SameBut e.line (s.setMemLine e.line d p) := fun k hk =>
    ⟨s.setMemLine_memLine_ne d p hk, s.setMemLine_isPoison_ne d p hk⟩
  unfold State.dramApply
  split <;> exact hset _ _

theorem State.dramApply_writes : s.Writes e (s.dramApply e) :=
  ⟨fun hfull => ⟨(s.dramApply_line e).trans (if_pos hfull), (s.dramApply_mark e).trans (if_pos hfull)⟩,
    s.dramApply_sameBut e⟩

@[simp] theorem State.dramApply_wiring : (s.dramApply e).wiring = s.wiring := by
  unfold State.dramApply
  split <;> rfl

end

/-! ### Requests that the scheduler issues (R315 to R318) -/

theorem State.setPoison_unrowed_congr {s t : State} (h : t.unrowed = s.unrowed) (l : LineNo) (p : Bool) :
    (t.setPoison l p).unrowed = (s.setPoison l p).unrowed :=
  congrArg (fun q => (q.1.setPoison l p, q.2)) h

section
variable {s t : State} {l : LineNo} (h : s.MarksAtMost l t)
include h

theorem State.MarksAtMost.memLine (k : LineNo) : t.memLine k = s.memLine k :=
  h.elim (State.memLine_of_unrowed · k) (State.memLine_of_unrowed (s := s.setPoison l true) · k)

theorem State.MarksAtMost.wiring : t.wiring = s.wiring :=
  h.elim State.wiring_of_unrowed (State.wiring_of_unrowed (s := s.setPoison l true))

theorem State.MarksAtMost.sameBut : s.SameBut l t := fun k hk =>
  ⟨h.memLine k, h.elim (State.isPoison_of_unrowed · k) fun hmarked =>
    (State.isPoison_of_unrowed hmarked k).trans (s.setPoison_isPoison_ne true hk)⟩

end

theorem State.setMap_wiring (s : State) {n : Nat} {v : MapSt} (h : v.stripe = (s.map n).stripe) :
    (s.setMap n v).wiring = s.wiring := by
  refine congrArg (fun f => (f, fun n => (s.chan n).settled)) (funext fun k => ?_)
  by_cases hk : n = k
  · subst hk
    rw [State.setMap_map, h]
  · rw [State.setMap_map_ne _ _ hk]

/-- A channel serves lines of its own tile, and in independent mode its own lines alone. -/
theorem State.onChannel_place {s : State} {c : Chan} {l : LineNo} {t off : Nat} (h : s.onChannel c l = some (t, off)) :
    s.place (lineAddr l) = .dram t off ∧ t = c.val / 5 := by
  unfold State.onChannel at h
  split at h
  · next hplace =>
    split at h
    · next hserves =>
      obtain ⟨rfl, rfl⟩ : _ = t ∧ _ = off := by simpa using h
      simp only [Bool.and_eq_true, decide_eq_true_eq] at hserves
      exact ⟨hplace, hserves.1⟩
    · cases h
  · cases h

section
variable (s : State) (c : Chan) (t off : Nat)

/-- Opening the rows and reading the line, as a read and a partial write do. -/
theorem State.activateAll_dramRead (p : DramPos) (all : Bool) (l : LineNo) (kind : Nat) (ev : DramEvent) :
    s.MarksAtMost l ((s.activateAll c off p all).dramRead c l off kind ev) := by
  have hrows := s.activateAll_unrowed c off p all
  exact ((s.activateAll c off p all).dramRead_marks c l off kind ev).imp (·.trans hrows)
    (·.trans (State.setPoison_unrowed_congr hrows l true))

theorem State.activateAll_dramRead_quiet (p : DramPos) (all : Bool) (l : LineNo) (kind : Nat)
    (h : (s.map (c.val / 5)).stripe = false ∨ s.dramGood (c.val / 5) off = true) :
    ((s.activateAll c off p all).dramRead c l off kind .ok).unrowed = s.unrowed := by
  have hrows := s.activateAll_unrowed c off p all
  refine (State.dramRead_quiet _ c l kind ?_).trans hrows
  rwa [State.map_of_ground (State.ground_of_unrowed hrows), State.dramGood_of_unrowed hrows]

@[simp] theorem State.issueRead_wiring (l : LineNo) (ev : DramEvent) : (s.issueRead c t off l ev).wiring = s.wiring := by
  have hread := (s.activateAll_dramRead c off (s.posOf t off) true l 1 ev).wiring
  unfold State.issueRead
  dsimp only
  split
  · refine (State.setMap_wiring _ ?_).trans hread
    rfl
  · exact hread

/-- A read without an error, where the data is good or in independent mode, leaves memory and its marks. -/
theorem State.issueRead_quiet (l : LineNo) (h : (s.map (c.val / 5)).stripe = false ∨ s.dramGood (c.val / 5) off = true) :
    (s.issueRead c t off l .ok).mem = s.mem ∧ (s.issueRead c t off l .ok).poison = s.poison := by
  have hread := s.activateAll_dramRead_quiet c off (s.posOf t off) true l 1 h
  unfold State.issueRead
  dsimp only
  have hcells := And.intro (State.mem_of_unrowed hread) (State.poison_of_unrowed hread)
  split <;> exact hcells

/-- A write opens its rows, reads its line first where it is partial, and is performed. -/
theorem State.issueWrite_performs (e : WqEntry) : ∃ u : State, s.issueWrite c t off e = u.dramApply e ∧
    s.MarksAtMost e.line u ∧
    (e.ev = .ok → s.dramGood (c.val / 5) off = true → u.unrowed = s.unrowed) := by
  refine ⟨_, rfl, ?_, fun hev hgood => ?_⟩
  · split
    · exact s.activateAll_dramRead ..
    · exact .inl (s.activateAll_unrowed ..)
  · split
    · rw [hev]
      exact s.activateAll_dramRead_quiet c off _ _ _ _ (.inr hgood)
    · exact s.activateAll_unrowed ..

theorem State.issueWrite_writes (e : WqEntry) : s.Writes e (s.issueWrite c t off e) := by
  obtain ⟨u, hu, hsame, -⟩ := s.issueWrite_performs c t off e
  rw [hu]
  exact (u.dramApply_writes e).of_sameBut hsame.sameBut

theorem State.issueWrite_line (e : WqEntry) : (s.issueWrite c t off e).memLine e.line =
    (if e.mask = fullMask then e.data else lineMerge (s.memLine e.line) e.data e.mask) := by
  obtain ⟨u, hu, hsame, -⟩ := s.issueWrite_performs c t off e
  rw [hu, State.dramApply_line, hsame.memLine]

theorem State.issueWrite_mark (e : WqEntry) (hev : e.ev = .ok) (hgood : s.dramGood (c.val / 5) off = true) :
    (s.issueWrite c t off e).isPoison e.line = (if e.mask = fullMask then e.poison else s.readsPoison e.line || e.poison) := by
  obtain ⟨u, hu, -, hquiet⟩ := s.issueWrite_performs c t off e
  rw [hu, State.dramApply_mark, State.readsPoison_of_unrowed (hquiet hev hgood)]

@[simp] theorem State.issueWrite_wiring (e : WqEntry) : (s.issueWrite c t off e).wiring = s.wiring := by
  obtain ⟨u, hu, hsame, -⟩ := s.issueWrite_performs c t off e
  rw [hu, State.dramApply_wiring, hsame.wiring]

end

/-! ### The scheduler serves a queue entry by entry (R318) -/

theorem State.pick_mem {α : Type} {s : State} {line : α → LineNo} {q : List α} {x : α} (h : s.pick line q = some x) :
    x ∈ q := by
  obtain h | ⟨-, h⟩ := Option.or_eq_some_iff.mp h
  · exact List.mem_of_find?_eq_some h
  · exact List.mem_of_mem_head? h

theorem State.pick_eq_none {α : Type} {s : State} {line : α → LineNo} {q : List α} (h : s.pick line q = none) : q = [] :=
  List.head?_eq_none_iff.mp (Option.or_eq_none_iff.mp h).2

/-- The scheduler takes a write from its queue and issues it. -/
def State.serveWrite (s : State) (c : Chan) (e : WqEntry) : State :=
  let s1 := s.modChan c.val fun y => { y with writeQ := y.writeQ.erase e }
  match s1.onChannel c e.line with
  | some (t, off) => s1.issueWrite c t off e
  | none => s1.dramApply e

/-- The scheduler takes a read from its queue and issues it. -/
def State.serveRead (s : State) (c : Chan) (l : LineNo) : State :=
  let s1 := s.modChan c.val fun y => { y with readQ := y.readQ.erase l }
  match s1.onChannel c l with
  | some (t, off) => s1.issueRead c t off l .ok
  | none => s1

/-- A drain begins or goes on: no read waits, or enough writes do. -/
def ChanSt.drainsWrites (x : ChanSt) (drain : Bool) : Bool :=
  if x.readQ.isEmpty then true
  else if drain then decide (16 < x.writeQ.length)
  else decide (48 ≤ x.writeQ.length)

theorem State.issueOp_succ (c : Chan) (n : Nat) (drain : Bool) (s : State) : State.issueOp c (n + 1) drain s =
    if (s.chan c.val).drainsWrites drain then
      (s.pick WqEntry.line (s.chan c.val).writeQ).elim s fun e =>
        State.issueOp c n ((s.chan c.val).drainsWrites drain) (s.serveWrite c e)
    else
      (s.pick id (s.chan c.val).readQ).elim s fun l =>
        State.issueOp c n ((s.chan c.val).drainsWrites drain) (s.serveRead c l) := by
  rw [State.issueOp]
  cases s.pick WqEntry.line (s.chan c.val).writeQ <;> cases s.pick id (s.chan c.val).readQ <;> rfl

/-- One turn of the scheduler: a write or a read of the queues, or nothing when both are empty. -/
theorem State.issueOp_turn (c : Chan) (n : Nat) (drain : Bool) (s : State) :
    (∃ e ∈ (s.chan c.val).writeQ, ∃ d, State.issueOp c (n + 1) drain s = State.issueOp c n d (s.serveWrite c e)) ∨
    (∃ l ∈ (s.chan c.val).readQ, ∃ d, State.issueOp c (n + 1) drain s = State.issueOp c n d (s.serveRead c l)) ∨
    ((s.chan c.val).writeQ = [] ∧ (s.chan c.val).readQ = [] ∧ State.issueOp c (n + 1) drain s = s) := by
  rw [State.issueOp_succ]
  by_cases hd : (s.chan c.val).drainsWrites drain = true
  · rw [if_pos hd]
    cases hp : s.pick WqEntry.line (s.chan c.val).writeQ with
    | some e => exact .inl ⟨e, State.pick_mem hp, _, rfl⟩
    | none =>
      have hw : (s.chan c.val).writeQ = [] := State.pick_eq_none hp
      have hr : (s.chan c.val).readQ = [] := by
        by_contra hr
        simp [ChanSt.drainsWrites, hw, hr] at hd
      exact .inr (.inr ⟨hw, hr, rfl⟩)
  · rw [if_neg hd]
    cases hp : s.pick id (s.chan c.val).readQ with
    | some l => exact .inr (.inl ⟨l, State.pick_mem hp, _, rfl⟩)
    | none => simp [ChanSt.drainsWrites, State.pick_eq_none hp] at hd

/-- What no queue and no row decides: the interleaving of every tile and the phase of every channel. -/
def State.phases (s : State) : (Nat → Bool) × (Nat → ChState × SrPhase × Option WqEntry) :=
  (fun n => (s.map n).stripe, fun n => ((s.chan n).st, (s.chan n).sr, (s.chan n).caWrite))

theorem State.phases_of_wiring {s t : State} (h : t.wiring = s.wiring) : t.phases = s.phases :=
  congrArg (fun p => (p.1, fun n => ((p.2 n).st, (p.2 n).sr, (p.2 n).caWrite))) h

theorem State.stripe_of_phases {s t : State} (h : t.phases = s.phases) (n : Nat) : (t.map n).stripe = (s.map n).stripe :=
  congrFun (congrArg Prod.fst h) n

theorem State.issues_of_phases {s t : State} (h : t.phases = s.phases) (n : Nat) : (t.chan n).issues = (s.chan n).issues := by
  have hphase : ((t.chan n).st, (t.chan n).sr, (t.chan n).caWrite) = ((s.chan n).st, (s.chan n).sr, (s.chan n).caWrite) :=
    congrFun (congrArg Prod.snd h) n
  simp only [Prod.mk.injEq] at hphase
  simp only [ChanSt.issues, hphase]

theorem State.setChan_phases (s : State) {n : Nat} {v : ChanSt}
    (h : (v.st, v.sr, v.caWrite) = ((s.chan n).st, (s.chan n).sr, (s.chan n).caWrite)) : (s.setChan n v).phases = s.phases :=
  congrArg (Prod.mk _) (funext (s.setChan_keeps (fun x => (x.st, x.sr, x.caWrite)) h))

section
variable (s : State) (c : Chan)

theorem State.serveWrite_wiring (e : WqEntry) :
    (s.serveWrite c e).wiring = (s.modChan c.val fun y => { y with writeQ := y.writeQ.erase e }).wiring := by
  unfold State.serveWrite
  dsimp only
  split
  · exact State.issueWrite_wiring ..
  · exact State.dramApply_wiring ..

theorem State.serveRead_wiring (l : LineNo) :
    (s.serveRead c l).wiring = (s.modChan c.val fun y => { y with readQ := y.readQ.erase l }).wiring := by
  unfold State.serveRead
  dsimp only
  split
  · exact State.issueRead_wiring ..
  · rfl

theorem State.serveWrite_phases (e : WqEntry) : (s.serveWrite c e).phases = s.phases :=
  (State.phases_of_wiring (s.serveWrite_wiring c e)).trans (s.setChan_phases rfl)

theorem State.serveRead_phases (l : LineNo) : (s.serveRead c l).phases = s.phases :=
  (State.phases_of_wiring (s.serveRead_wiring c l)).trans (s.setChan_phases rfl)

theorem State.serveWrite_queues (e : WqEntry) : ((s.serveWrite c e).chan c.val).writeQ = (s.chan c.val).writeQ.erase e ∧
    ((s.serveWrite c e).chan c.val).readQ = (s.chan c.val).readQ := by
  have h := congrArg (fun p => ((p.2 c.val).writeQ, (p.2 c.val).readQ)) (s.serveWrite_wiring c e)
  simpa [State.wiring, ChanSt.settled] using h

theorem State.serveRead_queues (l : LineNo) : ((s.serveRead c l).chan c.val).writeQ = (s.chan c.val).writeQ ∧
    ((s.serveRead c l).chan c.val).readQ = (s.chan c.val).readQ.erase l := by
  have h := congrArg (fun p => ((p.2 c.val).writeQ, (p.2 c.val).readQ)) (s.serveRead_wiring c l)
  simpa [State.wiring, ChanSt.settled] using h

theorem State.serveWrite_writes (e : WqEntry) : s.Writes e (s.serveWrite c e) := by
  have hsame : s.SameBut e.line (s.modChan c.val fun y => { y with writeQ := y.writeQ.erase e }) := fun _ _ => ⟨rfl, rfl⟩
  unfold State.serveWrite
  dsimp only
  split
  · exact (State.issueWrite_writes ..).of_sameBut hsame
  · exact (State.dramApply_writes ..).of_sameBut hsame

theorem State.serveRead_quiet (l : LineNo) (h : (s.map (c.val / 5)).stripe = false) :
    (s.serveRead c l).mem = s.mem ∧ (s.serveRead c l).poison = s.poison := by
  unfold State.serveRead
  dsimp only
  split
  · exact State.issueRead_quiet _ c _ _ l (.inl h)
  · exact ⟨rfl, rfl⟩

theorem State.issueOp_phases (n : Nat) (drain : Bool) : (State.issueOp c n drain s).phases = s.phases := by
  induction n generalizing s drain with
  | zero => rfl
  | succ n ih =>
    obtain ⟨e, -, d, h⟩ | ⟨l, -, d, h⟩ | ⟨-, -, h⟩ := State.issueOp_turn c n drain s
    · rw [h, ih, State.serveWrite_phases]
    · rw [h, ih, State.serveRead_phases]
    · rw [h]

theorem State.drainChan_phases : (s.drainChan c).phases = s.phases :=
  State.foldl_keeps State.phases (fun s k => by
    split
    · exact s.issueOp_phases k _ _
    · rfl) _ s

end

/-! ### A drain performs the writes that waited (R318) -/

/-- The entries are performed: the only whole one of its line reads as it says, and a line without one reads the same. -/
def State.Drains (s : State) (q : List WqEntry) (u : State) : Prop :=
  (∀ e ∈ q, e.mask = fullMask → (∀ e' ∈ q, e'.line = e.line → e' = e) →
    u.memLine e.line = e.data ∧ u.isPoison e.line = e.poison) ∧
  ∀ l, (∀ e ∈ q, e.line ≠ l) → u.memLine l = s.memLine l ∧ u.isPoison l = s.isPoison l

theorem State.Drains.of_cells {s t u : State} {q : List WqEntry} (hmem : t.mem = s.mem) (hpoison : t.poison = s.poison)
    (h : t.Drains q u) : s.Drains q u := by
  obtain ⟨hwhole, hother⟩ := h
  refine ⟨hwhole, fun l hl => ?_⟩
  simpa only [State.memLine, State.isPoison, hmem, hpoison] using hother l hl

/-- One entry first, then the others. -/
theorem State.Drains.of_writes {s t u : State} {q : List WqEntry} {e : WqEntry} (he : e ∈ q) (hw : s.Writes e t)
    (h : t.Drains (q.erase e) u) : s.Drains q u := by
  obtain ⟨hline, hsame⟩ := hw
  obtain ⟨hwhole, hother⟩ := h
  refine ⟨fun a ha hfull honly => ?_, fun l hl => ?_⟩
  · by_cases hin : a ∈ q.erase e
    · exact hwhole a hin hfull fun b hb => honly b (List.mem_of_mem_erase hb)
    · obtain rfl : a = e := by
        by_contra hne
        exact hin ((List.mem_erase_of_ne hne).mpr ha)
      obtain ⟨h1, h2⟩ := hother a.line fun b hb hl => hin (honly b (List.mem_of_mem_erase hb) hl ▸ hb)
      obtain ⟨h3, h4⟩ := hline hfull
      exact ⟨h1.trans h3, h2.trans h4⟩
  · obtain ⟨h1, h2⟩ := hother l fun b hb => hl b (List.mem_of_mem_erase hb)
    obtain ⟨h3, h4⟩ := hsame l (hl e he).symm
    exact ⟨h1.trans h3, h2.trans h4⟩

/-- In independent mode the scheduler's turns empty both queues. -/
theorem State.issueOp_drains (c : Chan) (n : Nat) (drain : Bool) (s : State) (hstripe : (s.map (c.val / 5)).stripe = false)
    (hn : (s.chan c.val).readQ.length + (s.chan c.val).writeQ.length ≤ n) :
    ((State.issueOp c n drain s).chan c.val).writeQ = [] ∧ ((State.issueOp c n drain s).chan c.val).readQ = [] ∧
      s.Drains (s.chan c.val).writeQ (State.issueOp c n drain s) := by
  induction n generalizing s drain with
  | zero =>
    have hr : (s.chan c.val).readQ = [] := List.eq_nil_of_length_eq_zero (by omega)
    have hw : (s.chan c.val).writeQ = [] := List.eq_nil_of_length_eq_zero (by omega)
    rw [State.issueOp, hw, hr]
    exact ⟨rfl, rfl, by simp, fun _ _ => ⟨rfl, rfl⟩⟩
  | succ n ih =>
    obtain ⟨e, he, d, h⟩ | ⟨l, hl, d, h⟩ | ⟨hw, hr, h⟩ := State.issueOp_turn c n drain s
    · obtain ⟨hwq, hrq⟩ := s.serveWrite_queues c e
      have hlen := List.length_erase_of_mem he
      have hpos := List.length_pos_of_mem he
      obtain ⟨h1, h2, h3⟩ := ih d (s.serveWrite c e)
        ((State.stripe_of_phases (s.serveWrite_phases c e) _).trans hstripe) (by rw [hwq, hrq]; omega)
      rw [h]
      exact ⟨h1, h2, (hwq ▸ h3).of_writes he (s.serveWrite_writes c e)⟩
    · obtain ⟨hwq, hrq⟩ := s.serveRead_queues c l
      have hlen := List.length_erase_of_mem hl
      have hpos := List.length_pos_of_mem hl
      obtain ⟨hmem, hpoison⟩ := s.serveRead_quiet c l hstripe
      obtain ⟨h1, h2, h3⟩ := ih d (s.serveRead c l)
        ((State.stripe_of_phases (s.serveRead_phases c l) _).trans hstripe) (by rw [hwq, hrq]; omega)
      rw [h]
      exact ⟨h1, h2, (hwq ▸ h3).of_cells hmem hpoison⟩
    · rw [h, hw, hr]
      exact ⟨rfl, rfl, by simp, fun _ _ => ⟨rfl, rfl⟩⟩

theorem ChanSt.issues_iff {x : ChanSt} : x.issues = true ↔ x.st = .active ∧ x.sr = .none ∧ x.caWrite = none := by
  simp [ChanSt.issues, and_assoc]

/-- In independent mode a channel that issues commands empties its queues, and goes on issuing. -/
theorem State.drainChan_drains {s : State} {c : Chan} (hstripe : (s.map (c.val / 5)).stripe = false)
    (hissues : (s.chan c.val).issues = true) :
    ((s.drainChan c).chan c.val).issues = true ∧ ((s.drainChan c).chan c.val).writeQ = [] ∧
      ((s.drainChan c).chan c.val).readQ = [] ∧ s.Drains (s.chan c.val).writeQ (s.drainChan c) := by
  have hgo : s.chanIssues c.val = true := by simp [State.chanIssues, hstripe, hissues]
  have hone : s.drainChan c = State.issueOp c ((s.chan c.val).readQ.length + (s.chan c.val).writeQ.length) false s := by
    simp [State.drainChan, State.schedulerOf, hstripe, hgo]
  refine ⟨(State.issues_of_phases (s.drainChan_phases c) c.val).trans hissues, ?_⟩
  rw [hone]
  exact State.issueOp_drains c _ false s hstripe (Nat.le_refl _)

/-! ### MC_READ and MC_WRITE (R314 to R317, R499) -/

theorem mem_pbUse (b : List LineNo) (l : LineNo) : l ∈ pbUse b l := by
  unfold pbUse
  extract_lets b1
  have hmem : l ∈ b1 := by simp [b1]
  split
  · exact hmem
  · next hfull =>
    have hlen : 1 ≤ (b.filter (· ≠ l)).length := by
      rw [List.length_append, List.length_singleton] at hfull
      omega
    rw [List.drop_append_of_le_length hlen]
    simp

/-- A read that is issued in stripe mode leaves the companion in the pair buffer. -/
theorem State.issueRead_keepsCompanion {s : State} {t : Nat} (h : (s.map t).stripe = true) (c : Chan) (off : Nat) (l : LineNo)
    (ev : DramEvent) :
    companion l off ∈ ((s.issueRead c t off l ev).map t).pairBuf := by
  unfold State.issueRead
  rw [if_pos h, State.modMap_eq, State.setMap_map]
  exact mem_pbUse ..

theorem any_whole_iff {q : List WqEntry} {l : LineNo} :
    ((q.filter fun e => e.line = l).any fun e => e.mask = fullMask) = true ↔ ∃ e ∈ q, e.line = l ∧ e.mask = fullMask := by
  simp

theorem State.chanFailed_eq_false {s : State} {n : Nat} (h : (s.chan n).st ≠ .failed) : s.chanFailed n = false := by
  simpa [State.chanFailed] using h

/-- Bursts are counted on the channel as they were before the request was issued. -/
theorem State.count_burstTotal {s u : State} (h : u.wiring = s.wiring) (c : Chan) (p : Option Parcel) (n : Nat) :
    ((u.modChan c.val fun y => y.count p n).chan c.val).burstTotal = (s.chan c.val).burstTotal + n := by
  rw [State.modChan_eq, State.setChan_chan]
  exact congrArg (fun q => (q.2 c.val).burstTotal + n) h

section
variable {s : State} {c : Chan} {l : LineNo} {t off : Nat} (hon : s.onChannel c l = some (t, off)) (p : Option Parcel)
include hon

theorem State.mcReadOp_served (h : ∃ e ∈ (s.chan (s.chanOf t off)).writeQ, e.line = l ∧ e.mask = fullMask) :
    s.mcReadOp c l p .ok = s := by
  simp only [State.mcReadOp, hon]
  exact if_pos (any_whole_iff.mpr h)

section
variable (hnew : ¬ ∃ e ∈ (s.chan (s.chanOf t off)).writeQ, e.line = l ∧ e.mask = fullMask)
include hnew

theorem State.mcReadOp_paired (h : (s.map t).stripe = true ∧ l ∈ (s.map t).pairBuf) :
    s.mcReadOp c l p .ok = s.modMap t fun m => { m with pairBuf := pbUse m.pairBuf l } := by
  simp only [State.mcReadOp, hon]
  rw [if_neg (mt any_whole_iff.mp hnew), if_pos (by simpa using h)]

section
variable (hapart : ¬ ((s.map t).stripe = true ∧ l ∈ (s.map t).pairBuf))
include hapart

theorem State.mcReadOp_issued (h : s.chanIssues (s.chanOf t off) = true) :
    s.mcReadOp c l p .ok = (s.issueRead c t off l .ok).modChan c.val fun y => y.count p 1 := by
  simp only [State.mcReadOp, hon]
  rw [if_neg (mt any_whole_iff.mp hnew), if_neg (by simpa using hapart), if_neg (by simp [h])]

theorem State.mcReadOp_waits (h : s.chanIssues (s.chanOf t off) = false) (hst : (s.chan (s.chanOf t off)).st ≠ .failed)
    (hroom : s.rqLen (s.chanOf t off) < s.rqMax (s.chanOf t off)) :
    s.mcReadOp c l p .ok = s.modChan (s.chanOf t off) fun x => { x with readQ := x.readQ ++ [l] } := by
  simp only [State.mcReadOp, hon]
  rw [if_neg (mt any_whole_iff.mp hnew), if_neg (by simpa using hapart), if_pos (by simp [h, hst]), if_pos hroom]
  rfl

end

end

end

section
variable {s : State} {c : Chan} {e : WqEntry} {t off : Nat} (hon : s.onChannel c e.line = some (t, off)) (p : Option Parcel)
include hon

theorem State.mcWriteOp_issued (h : s.chanIssues (s.chanOf t off) = true) : s.mcWriteOp c e p =
    (s.issueWrite c t off e).modChan c.val fun y => y.count p (if e.mask = fullMask then 1 else 2) := by
  obtain ⟨hplace, -⟩ := State.onChannel_place hon
  simp only [State.mcWriteOp, hon, State.wqFull_issued hplace h, h, Bool.false_eq_true, if_false, if_true]

theorem State.mcWriteOp_waits (h : s.chanIssues (s.chanOf t off) = false) (hst : (s.chan (s.chanOf t off)).st ≠ .failed)
    (hroom : s.wqLen (s.chanOf t off) < s.wqMax (s.chanOf t off)) : s.mcWriteOp c e p =
    (s.modChan (s.chanOf t off) fun x => { x with writeQ := wqAccept x.writeQ e }).modChan c.val fun y =>
      y.count p (if e.mask = fullMask then 1 else 2) := by
  obtain ⟨hplace, -⟩ := State.onChannel_place hon
  have hfull : s.wqFull e.line = false := by
    simp [State.wqFull, hplace, h, State.chanFailed_eq_false hst, Nat.not_le.mpr hroom]
  simp only [State.mcWriteOp, hon, hfull, h, State.mcAccept, State.chanFailed_eq_false hst, Bool.and_false, Bool.false_eq_true,
    if_false]

theorem State.mcWriteOp_performs (h : s.chanIssues (s.chanOf t off) = true) :
    ((s.mcWriteOp c e p).chan c.val).burstTotal = (s.chan c.val).burstTotal + (if e.mask = fullMask then 1 else 2) ∧
      (s.mcWriteOp c e p).memLine e.line = (if e.mask = fullMask then e.data else lineMerge (s.memLine e.line) e.data e.mask) ∧
      s.Writes e (s.mcWriteOp c e p) ∧
      (e.ev = .ok → s.dramGood t off = true → (s.mcWriteOp c e p).isPoison e.line =
        (if e.mask = fullMask then e.poison else s.readsPoison e.line || e.poison)) := by
  obtain ⟨-, rfl⟩ := State.onChannel_place hon
  rw [State.mcWriteOp_issued hon p h]
  exact ⟨State.count_burstTotal (s.issueWrite_wiring c _ off e) c p _, s.issueWrite_line c _ off e,
    s.issueWrite_writes c _ off e, s.issueWrite_mark c _ off e⟩

end

/-! ### Patrol reads, and command/address parity (R327 to R329) -/

/-- A patrol read without an error of good data marks nothing. -/
theorem State.patrol_quiet {s : State} {c : Chan} {l : LineNo} {t off : Nat} (hon : s.onChannel c l = some (t, off))
    (hgood : s.dramGood t off = true) : (s.patrol c l .ok).poison = s.poison := by
  obtain ⟨-, rfl⟩ := State.onChannel_place hon
  simp only [State.patrol, hon]
  split
  · rfl
  · have hrows := s.activate_unrowed c (s.posOf (c.val / 5) off).bankNo (s.posOf (c.val / 5) off).row
    have hread := State.dramRead_quiet (s.activate c _ _) c l 2 (.inr ((State.dramGood_of_unrowed hrows _ off).trans hgood))
    exact (State.poison_of_unrowed hread).trans (State.poison_of_unrowed hrows)

theorem State.errLog_room {s : State} {c : Chan} (e : Word × Word) (h : (s.chan c.val).errlog.length < 16) :
    ((s.errLog c e).chan c.val).errlog = (s.chan c.val).errlog ++ [e] := by
  simp [State.errLog, h]

/-- The error is counted and reported. -/
def State.caCounted (s : State) (c : Chan) (l : LineNo) : State :=
  (s.bump (.mcErrcnt c) 15 8 1).report (ddrSrc c) 0x35 clsCorrected (lineAddr l)

@[simp] theorem State.caCounted_unrowed (s : State) (c : Chan) (l : LineNo) : (s.caCounted c l).unrowed = s.unrowed :=
  (State.report_unrowed ..).trans (State.setReg_unrowed ..)

@[simp] theorem State.caCounted_chan (s : State) (c : Chan) (l : LineNo) (n : Nat) : (s.caCounted c l).chan n = s.chan n :=
  State.report_chan ..

/-- The error is counted and reported, and logged with its kind and position. -/
def State.caLogged (s : State) (c : Chan) (l : LineNo) (kind : Nat) (pos : DramPos) : State :=
  (s.caCounted c l).errLog c (errWords kind (lineAddr l) 0 pos)

@[simp] theorem State.caLogged_unrowed (s : State) (c : Chan) (l : LineNo) (kind : Nat) (pos : DramPos) :
    (s.caLogged c l kind pos).unrowed = s.unrowed := (State.errLog_unrowed ..).trans (s.caCounted_unrowed c l)

theorem State.caLogged_errlog {s : State} {c : Chan} (l : LineNo) (kind : Nat) (pos : DramPos)
    (h : (s.chan c.val).errlog.length < 16) :
    ((s.caLogged c l kind pos).chan c.val).errlog = (s.chan c.val).errlog ++ [errWords kind (lineAddr l) 0 pos] := by
  rw [State.caLogged, State.errLog_room _ (by simpa using h), State.caCounted_chan]

section
variable {s : State} {c : Chan} {l : LineNo} {t off : Nat} (hon : s.onChannel c l = some (t, off))
  (hissues : (s.chan c.val).issues = true)
include hon hissues

theorem State.caParity_once (w : Bool) : s.caParity c l w false = s.caCounted c l := by
  simp only [State.caParity, hon, hissues, Bool.not_true, Bool.not_false, Bool.false_eq_true, if_false, if_true]
  rfl

theorem State.caParity_read : s.caParity c l false true =
    ((s.caLogged c l 3 (s.posOf t off)).report (ddrSrc c) 0x32 clsContained (lineAddr l)).modChan (s.chanOf t off) fun y =>
      { y with caPoison := y.caPoison ++ [l] } := by
  simp only [State.caParity, hon, hissues, Bool.not_true, Bool.false_eq_true, if_false]
  rfl

theorem State.caParity_write : s.caParity c l true true =
    (s.caLogged c l 4 (s.posOf t off)).modChan c.val fun y =>
      { y with st := .retraining, caWrite := some ⟨l, fullMask, s.memLine l, s.isPoison l, true, .ok⟩, openRow := [] } := by
  simp only [State.caParity, hon, hissues, Bool.not_true, Bool.false_eq_true, if_false, if_true]
  rfl

/-- A read rejected again is logged, and answers with poisoned data. -/
theorem State.caParity_read_effect : (s.caParity c l false true).poison = s.poison ∧
    ((s.caParity c l false true).chan (s.chanOf t off)).caPoison = (s.chan (s.chanOf t off)).caPoison ++ [l] ∧
    ((s.chan c.val).errlog.length < 16 → ((s.caParity c l false true).chan c.val).errlog =
      (s.chan c.val).errlog ++ [errWords 3 (lineAddr l) 0 (s.posOf t off)]) := by
  rw [State.caParity_read hon hissues]
  have hsame : ((s.caLogged c l 3 (s.posOf t off)).report (ddrSrc c) 0x32 clsContained (lineAddr l)).unrowed = s.unrowed := by
    simp
  have hchan : ((s.caLogged c l 3 (s.posOf t off)).report (ddrSrc c) 0x32 clsContained (lineAddr l)).chan c.val =
      (s.caLogged c l 3 (s.posOf t off)).chan c.val := State.report_chan ..
  generalize (s.caLogged c l 3 (s.posOf t off)).report (ddrSrc c) 0x32 clsContained (lineAddr l) = w at hsame hchan
  have hpoison : w.poison = s.poison := State.poison_of_unrowed hsame
  have hlog (hroom : (s.chan c.val).errlog.length < 16) :
      (w.chan c.val).errlog = (s.chan c.val).errlog ++ [errWords 3 (lineAddr l) 0 (s.posOf t off)] :=
    (congrArg ChanSt.errlog hchan).trans (State.caLogged_errlog l 3 _ hroom)
  refine ⟨hpoison, ?_, fun hroom => (w.modChan_keeps ChanSt.errlog (fun _ => by rfl) _ _).trans (hlog hroom)⟩
  rw [State.modChan_eq, State.setChan_chan]
  exact congrArg (fun q => (q.2 (s.chanOf t off)).caPoison ++ [l]) hsame

/-- A write rejected again is logged, and starts retraining. -/
theorem State.caParity_write_effect : ((s.caParity c l true true).chan c.val).st = .retraining ∧
    ((s.caParity c l true true).chan c.val).caWrite = some ⟨l, fullMask, s.memLine l, s.isPoison l, true, .ok⟩ ∧
    ((s.chan c.val).errlog.length < 16 → ((s.caParity c l true true).chan c.val).errlog =
      (s.chan c.val).errlog ++ [errWords 4 (lineAddr l) 0 (s.posOf t off)]) := by
  rw [State.caParity_write hon hissues, State.modChan_eq, State.setChan_chan]
  exact ⟨rfl, rfl, State.caLogged_errlog l 4 (s.posOf t off)⟩

end

/-! ### Refresh, row hammer and self-refresh entry (R319 to R322) -/

section
variable {s : State} {c : Chan}

theorem State.refresh_issued (h : (s.chan c.val).issues = true) (b : Nat) :
    Table.get 0 ((s.refresh c b).chan c.val).postponed b = 0 ∧ Table.get none ((s.refresh c b).chan c.val).openRow b = none := by
  simp [State.refresh, ChanSt.refreshed, h]

theorem State.refresh_postponed (h : (s.chan c.val).st = .retraining) (b : Nat) :
    Table.get 0 ((s.refresh c b).chan c.val).postponed b = min 4 (Table.get 0 (s.chan c.val).postponed b + 1) := by
  simp [State.refresh, ChanSt.issues, h]

theorem State.nbrRefresh_oldest {b r : Nat} {rest : List Nat} (h : Table.get [] (s.chan c.val).neighbours b = r :: rest) :
    Table.get [] ((s.nbrRefresh c b).chan c.val).neighbours b = rest ∧
      Table.get 0 ((s.nbrRefresh c b).chan c.val).raa b = Table.get 0 (s.chan c.val).raa b + 1 := by
  simp [State.nbrRefresh, h]

theorem State.rfmOp_issued {b : Nat} {d : Dimm} (hissues : (s.chan c.val).issues = true) (hd : (s.chan c.val).dimm = some d)
    (hon : s.rfmOn c = true) (hraa : d.raaimt ≤ Table.get 0 (s.chan c.val).raa b) :
    Table.get 0 ((s.rfmOp c b).chan c.val).raa b = Table.get 0 (s.chan c.val).raa b - d.raaimt := by
  simp [State.rfmOp, ChanSt.raaDown, hissues, hd, hon, hraa]

theorem State.srEntry_commits (hissues : (s.chan c.val).issues = true) (h : s.mode = .hold ∨ s.poweringDown = true ∨
      (s.fld (.mcPwr (s.governs c)) 31 16 ≠ 0 ∧ s.rqLen c.val = 0 ∧ s.wqLen c.val = 0)) :
    s.srEntry c = s.modChan c.val fun x => { x with sr := .entering, openRow := [] } := by
  unfold State.srEntry
  refine if_pos ?_
  simp only [hissues, Bool.true_and, Bool.or_eq_true, Bool.and_eq_true, decide_eq_true_eq, beq_iff_eq]
  obtain h | h | h := h
  · exact .inl (.inr h)
  · exact .inr h
  · exact .inl (.inl (and_assoc.mpr h))

end

/-! ### Self-refresh exit, retraining, failure (R322, R323, R326, R327) -/

theorem State.chanFail_failed (s : State) (c : Chan) : ((s.chanFail c).chan c.val).st = .failed := by
  unfold State.chanFail
  extract_lets stripe x s1 s2
  split
  · next h => simpa [x] using h
  · rw [State.report_chan]
    have h1 : (s1.chan c.val).st = .failed := by simp [s1]
    by_cases hstripe : stripe = true
    · rw [show s2 = s1.drainChan c from if_pos hstripe]
      exact (congrArg (fun p => (p.2 c.val).1) (s1.drainChan_phases c)).trans h1
    · rw [show s2 = _ from if_neg hstripe]
      refine (State.foldl_keeps (fun u : State => (u.chan c.val).st) (fun _ _ => by rfl) x.readQ _).trans ?_
      exact (s1.modChan_keeps ChanSt.st (fun _ => by rfl) _ _).trans h1

section
variable {s : State} {c : Chan} (hstripe : (s.map (c.val / 5)).stripe = false)
include hstripe

theorem State.srExitDone_drains (hsr : (s.chan c.val).sr = .exiting) (hca : (s.chan c.val).caWrite = none) :
    ((s.srExitDone c).chan c.val).st = (if s.mode = .hold then .selfRefresh else .active) ∧
      ((s.srExitDone c).chan c.val).sr = .none ∧ ((s.srExitDone c).chan c.val).writeQ = [] ∧
      ((s.srExitDone c).chan c.val).readQ = [] ∧ s.Drains (s.chan c.val).writeQ (s.srExitDone c) := by
  unfold State.srExitDone
  extract_lets x s1
  rw [if_pos (by simp [x, hsr])]
  obtain ⟨hissues1, hw, hr, hdrains⟩ := State.drainChan_drains
    (s := s.setChan c.val { x with st := .active, sr := .none }) (c := c) hstripe (by simp [ChanSt.issues, x, hca])
  rw [State.setChan_chan] at hdrains
  obtain ⟨hst1, hsr1, -⟩ := ChanSt.issues_iff.mp hissues1
  have hstripe1 : (s1.map (c.val / 5)).stripe = false :=
    (State.stripe_of_phases (State.drainChan_phases ..) _).trans hstripe
  have hempty : s1.rqLen c.val = 0 ∧ s1.wqLen c.val = 0 := by
    have hw1 : (s1.chan c.val).writeQ = [] := hw
    have hr1 : (s1.chan c.val).readQ = [] := hr
    simp [State.rqLen, State.wqLen, hstripe1, hw1, hr1]
  by_cases hhold : s.mode = .hold
  · have hback : s1.schedulerOf c = [c] := by simp [State.schedulerOf, hstripe1]
    rw [if_pos (by simp [hhold, hempty]), hback, if_pos hhold, List.foldl_cons, List.foldl_nil, State.modChan_eq,
      State.setChan_chan, if_pos hissues1]
    exact ⟨rfl, hsr1, hw, hr, hdrains⟩
  · rw [if_neg (by simp [hhold]), if_neg hhold]
    exact ⟨hst1, hsr1, hw, hr, hdrains⟩

theorem State.caRetrain_drains {e : WqEntry} (hca : (s.chan c.val).caWrite = some e) (hsr : (s.chan c.val).sr = .none) :
    ((s.caRetrain c true true).chan c.val).st = .active ∧ ((s.caRetrain c true true).chan c.val).caWrite = none ∧
      ((s.caRetrain c true true).chan c.val).writeQ = [] ∧ ((s.caRetrain c true true).chan c.val).readQ = [] ∧
      s.Drains (e :: (s.chan c.val).writeQ) (s.caRetrain c true true) := by
  have hgo : s.caRetrain c true true =
      ((s.setChan c.val { s.chan c.val with st := .active, caWrite := none }).dramApply e).drainChan c := by
    simp only [State.caRetrain, hca, Bool.and_self, if_true]
  rw [hgo]
  have hwiring := (s.setChan c.val { s.chan c.val with st := .active, caWrite := none }).dramApply_wiring e
  have hwrites := (s.setChan c.val { s.chan c.val with st := .active, caWrite := none }).dramApply_writes e
  generalize (s.setChan c.val { s.chan c.val with st := .active, caWrite := none }).dramApply e = s1 at hwiring hwrites
  have hstripe1 : (s1.map (c.val / 5)).stripe = false := (congrArg (fun p => p.1 (c.val / 5)) hwiring).trans hstripe
  have hchan1 : (s1.chan c.val).settled = ({ s.chan c.val with st := .active, caWrite := none } : ChanSt).settled :=
    (congrArg (fun p => p.2 c.val) hwiring).trans (by simp [State.wiring])
  have hissues1 : (s1.chan c.val).issues = true := (congrArg ChanSt.issues hchan1 :).trans
    (by simp [ChanSt.issues, ChanSt.settled, hsr])
  have hw1 : (s1.chan c.val).writeQ = (s.chan c.val).writeQ := congrArg (fun p => p.writeQ) hchan1
  obtain ⟨hgoes, hw, hr, hdrains⟩ := State.drainChan_drains hstripe1 hissues1
  obtain ⟨hst, -, hnone⟩ := ChanSt.issues_iff.mp hgoes
  refine ⟨hst, hnone, hw, hr, ?_⟩
  refine State.Drains.of_writes List.mem_cons_self (State.Writes.of_sameBut (fun _ _ => ⟨rfl, rfl⟩) hwrites) ?_
  rw [List.erase_cons_head, ← hw1]
  exact hdrains

end

theorem State.caRetrain_fails {s : State} {c : Chan} {e : WqEntry} (hca : (s.chan c.val).caWrite = some e) {ok again : Bool}
    (h : (ok && again) = false) : s.caRetrain c ok again = s.chanFail c := by
  simp only [State.caRetrain, hca, h, Bool.false_eq_true, if_false]

/-! ### Training, zeroing and the error log (R329, R330) -/

section
variable {s : State} {c : Chan}

theorem State.trainingDone_active (h : (s.chan c.val).st = .training) :
    s.trainingDone c true = s.modChan c.val fun x => { x with st := .active } := by
  simp [State.trainingDone, h]

theorem State.trainingDone_failed (h : (s.chan c.val).st = .training) :
    ((s.trainingDone c false).chan c.val).st = .failed := by
  simp [State.trainingDone, h, State.chanFail_failed]

/-- Zeroing a channel leaves no byte and no mark of the lines that it holds or leads. -/
theorem State.zeroingDone_clears (hmode : s.mode = .compose) (hst : (s.chan c.val).st = .active)
    (hnew : (s.chan c.val).zeroed = false) : ((s.zeroingDone c).chan c.val).zeroed = true ∧
      (∀ e ∈ (s.zeroingDone c).mem, ∀ t off, s.place e.1 = .dram t off → s.chanOf t off ≠ c.val) ∧
      ∀ l ∈ (s.zeroingDone c).poison, ∀ t off, s.place (l * 128) = .dram t off → s.chanOf t off ≠ c.val := by
  have hgo : s.zeroingDone c = (s.setChan c.val { s.chan c.val with zeroed := true }).zeroChannel c := by
    simp [State.zeroingDone, hmode, hst, hnew]
  have hground : (s.setChan c.val { s.chan c.val with zeroed := true }).ground = s.ground := s.setChan_ground rfl rfl
  rw [hgo]
  refine ⟨congrArg ChanSt.zeroed (State.setChan_chan ..), fun e he t off hplace hc => ?_, fun l hl t off hplace hc => ?_⟩
  · have hkept := (List.mem_filter.mp he).2
    simp [State.place_of_ground hground, State.chanOf_of_ground hground, hplace, hc] at hkept
  · have hkept := (List.mem_filter.mp hl).2
    simp [State.place_of_ground hground, State.chanOf_of_ground hground, hplace, hc] at hkept

end

/-- Settles O43.  MC_READ and MC_WRITE are one lemma per case (`State.mcReadOp_served` and its like, `State.mcWriteOp_performs`,
`State.mcWriteOp_waits`); parity errors are `State.caParity_read_effect` and `State.caParity_write_effect`; what waited for
self-refresh or retraining is performed entry by entry (`State.srExitDone_drains`, `State.caRetrain_drains`, both by
`State.issueOp_drains`); a failed retraining or training ends in `State.chanFail_failed`; zeroing is
`State.zeroingDone_clears`. -/
theorem dramControllers : Obligations.DramControllers := by
  unfold Obligations.DramControllers
  refine ⟨fun s c line t off lead p hon hlead => ?_, fun s c b hissues => ⟨?_, fun r rest hnbr => ?_,
    fun d hd hrfm hraa => ?_, fun hidle => congrArg Host.Outcome.next (State.srEntry_commits hissues hidle)⟩, fun s c => ?_⟩
  · subst hlead
    obtain ⟨-, ht⟩ := State.onChannel_place hon
    intro paired served
    refine ⟨fun h => congrArg Host.Outcome.next (State.mcReadOp_served hon p h),
      fun hnew h => congrArg Host.Outcome.next (State.mcReadOp_paired hon p hnew h),
      fun hgo => ⟨fun hnew hapart => ?_, fun mask d poison => ?_⟩,
      fun hstop hst => ⟨fun hnew hapart hroom =>
        congrArg Host.Outcome.next (State.mcReadOp_waits hon p hnew hapart hstop hst hroom),
        fun mask d poison hroom => ?_⟩,
      fun hissues => ⟨?_, fun w => congrArg Host.Outcome.next (State.caParity_once hon hissues w), ?_, ?_⟩⟩
    · refine ⟨_, rfl, ?_⟩
      have hmem := exec_keeps_mem (i := .mcRead c line p .ok) List.not_mem_nil (s := s) rfl
      have hop := State.mcReadOp_issued hon p hnew hapart hgo
      rw [hop]
      refine ⟨State.count_burstTotal (s.issueRead_wiring c t off line .ok) c p 1, hop ▸ hmem, fun hgood => ?_,
        fun hstripe => State.issueRead_keepsCompanion hstripe c off line .ok⟩
      exact (s.issueRead_quiet c t off line (.inr (ht ▸ hgood))).2
    · obtain ⟨hbursts, hline, ⟨hwhole, hothers⟩, hmark⟩ :=
        State.mcWriteOp_performs (e := ⟨line, mask, d, poison, false, .ok⟩) hon p hgo
      exact ⟨_, rfl, hbursts, hline, fun hfull => (hwhole hfull).2,
        fun hpart hgood => (hmark rfl hgood).trans (if_neg hpart), fun l hl => (hothers l hl).1⟩
    · refine ⟨_, congrArg Host.Outcome.next
        (State.mcWriteOp_waits (e := ⟨line, mask, d, poison, false, .ok⟩) hon p hstop hst hroom), rfl, ?_⟩
      refine (State.modChan_keeps ChanSt.writeQ (fun _ => by rfl) _ _ _).trans ?_
      rw [State.modChan_eq, State.setChan_chan]
    · exact ⟨_, rfl, exec_keeps_mem (i := .patrolRead c line .ok) List.not_mem_nil rfl, State.patrol_quiet hon⟩
    · exact ⟨_, rfl, exec_keeps_mem (i := .caParityError c line false true) List.not_mem_nil rfl,
        State.caParity_read_effect hon hissues⟩
    · obtain ⟨hst, hca, hlog⟩ := State.caParity_write_effect hon hissues
      exact ⟨_, rfl, hst, hca, exec_keeps_mem (i := .caParityError c line true true) List.not_mem_nil rfl, hlog⟩
  · obtain ⟨hpostponed, hrow⟩ := State.refresh_issued hissues b.val
    exact ⟨_, rfl, hpostponed, hrow, exec_keeps_mem (i := .refreshDue c b) List.not_mem_nil rfl⟩
  · have hrun : exec (.neighbourRefresh c b) s = .next (s.nbrRefresh c b.val) :=
      congrArg Host.Outcome.next (if_pos hissues)
    obtain ⟨hrest, hraa⟩ := State.nbrRefresh_oldest hnbr
    exact ⟨_, hrun, hrest, hraa, exec_keeps_mem List.not_mem_nil hrun⟩
  · exact ⟨_, rfl, State.rfmOp_issued hissues hd hrfm hraa, exec_keeps_mem (i := .rfm c b) List.not_mem_nil rfl⟩
  · intro drained
    refine ⟨fun hst b => ⟨_, rfl, State.refresh_postponed hst b.val,
        exec_keeps_mem (i := .refreshDue c b) List.not_mem_nil rfl⟩,
      fun hdimm hot => congrArg Host.Outcome.next (congrArg (s.setChan c.val) (if_pos hdimm)),
      fun hsr => congrArg Host.Outcome.next (if_pos (by simp [hsr])),
      fun hst hsr hwaits => congrArg Host.Outcome.next (if_pos (by simpa [hst, hsr] using hwaits)),
      fun hsr hca hstripe => ?_, fun e hca => ⟨fun hsr hstripe => ?_, fun ok again hbad => ?_⟩,
      fun hst => ⟨congrArg Host.Outcome.next (State.trainingDone_active hst), _, rfl, State.trainingDone_failed hst⟩,
      fun hmode hst hnew => ⟨_, rfl, State.zeroingDone_clears hmode hst hnew⟩, rfl,
      fun m hadm => ⟨fun hlog => ?_, fun e rest hlog => ?_⟩⟩
    · obtain ⟨hst, hnone, hw, hr, hdrains⟩ := State.srExitDone_drains hstripe hsr hca
      exact ⟨_, rfl, hst, hnone, hw, hr, hdrains.1, fun l hl => (hdrains.2 l hl).1⟩
    · obtain ⟨hst, hnone, hw, hr, hdrains⟩ := State.caRetrain_drains hstripe hca hsr
      exact ⟨_, rfl, hst, hnone, hw, hr, hdrains.1, fun l hl => (hdrains.2 l hl).1⟩
    · exact ⟨_, congrArg Host.Outcome.next (State.caRetrain_fails hca hbad), s.chanFail_failed c⟩
    · exact congrArg Host.Outcome.next ((State.csAccess_admits _ _ _ _ _ _ hadm).trans (by simp only [hlog]))
    · exact congrArg Host.Outcome.next ((State.csAccess_admits _ _ _ _ _ _ hadm).trans (by simp only [hlog]))

end Sys2Proof.Machine
